-- ==== Sys2Proof/Word.lean ====
section
/-!
DEFINITION. The plainest word types of the model: bytes, 64-bit register words, 128-bit descriptors and
instruction words (R31, R34), and the sparse map in one canonical form that large register arrays use.
-/
namespace Sys2Proof

/-- One byte of memory. -/
abbrev Byte := BitVec 8

/-- A register as software reads it through REGRD (R306): 64 bits. -/
abbrev Word := BitVec 64

/-- A 128-bit operand descriptor (R34) or instruction (R31). -/
abbrev Word128 := BitVec 128

/-- A sparse array: the entries that differ from a default value, indices strictly rising. -/
abbrev SMap (α : Type) := List (Nat × α)

/-- The core number of a core, 0 to 11 (R28). -/
abbrev CoreId := Fin 12

/-- A sequencer of a core, Table 02-1: 0-3 Lasts, 4-5 Welts, 6 Awl, 7-14 DMA, 15 core controller. -/
abbrev SeqId := Fin 16

end Sys2Proof
end

