-- ==== Sys2Proof/Syntax.lean ====
section
/-!
DEFINITION. The commands of the block: ONE constructor of Instr for each row of spec/opcode_table.json, with the
row's operands. An instruction row names the core, the sequencer and bits [119:0] of the 128-bit instruction
(R31); the opcode, bits [127:120], is the row's own. What only the silicon decides at that moment (an ECC result, a
residue mismatch, a measured current or temperature) is an operand of the row that meets it (log 15).
-/
namespace Sys2Proof

/-- What the check code of one Stacks read reports (R64). -/
inductive Ecc where
  | clean
  /-- A correctable error. -/
  | correctable
  /-- An uncorrectable error. -/
  | uncorrectable
  deriving DecidableEq, Repr

/-- A check-code event met by one instruction: at a slot of the core's own Stacks, or at a line of the Welt's
operand cache (R64, R182). -/
structure EccEvent where
  /-- true: a line of the Welt cache; false: a slot of the core's Stacks. -/
  cache : Bool
  /-- Slot number (SA / 64) or cache line number. -/
  at_   : Nat
  /-- true: uncorrectable. -/
  ue    : Bool
  deriving DecidableEq, Repr

/-- The access a bank executes or times out (R60, R62): the n-th open access of a sequencer, an instruction held at
issue, or the n-th remote access held by the core. -/
inductive AccessRef where
  | engine (q : SeqId) (n : Nat)
  | issue  (q : SeqId)
  | remote (n : Nat)
  deriving DecidableEq, Repr

/-- A residue, parity or duplex-compare finding of a Last (R101, R102, R104): the column, the segment, and WHERE of
LAST_RES_LOG (false segment sum, true FP32 adder or storage parity). -/
structure Mismatch where
  col     : Fin 512
  seg     : Fin 4
  storage : Bool
  deriving DecidableEq, Repr

/-- A Lacing flit with the header fields of Table 09-3 (R220) and its 64 data bytes (none for a header-only
flit). `addr` holds device address bits [47:6] and `aux` the 64 AUX bits. -/
structure Flit where
  vc     : BitVec 2
  typ    : BitVec 4
  src    : BitVec 4
  dst    : BitVec 4
  job    : BitVec 6
  poison : Bool
  tm     : BitVec 2
  mc     : Bool
  eng    : BitVec 4
  status : BitVec 4
  tag    : BitVec 12
  addr   : BitVec 42
  route  : BitVec 2
  aux    : BitVec 64
  data   : List Byte
  deriving DecidableEq, Repr

/-- An EYT packet: the header of Table 11-6 (R277), the payload and, with AUTH set, the 16-byte tag. -/
structure Packet where
  typ     : BitVec 4
  ez      : Bool
  auth    : Bool
  last    : Bool
  retx    : Bool
  session : BitVec 24
  psn     : BitVec 32
  ackPsn  : BitVec 32
  taddr   : BitVec 48
  elems   : BitVec 16
  efmt    : BitVec 4
  msg     : BitVec 32
  payload : List Byte
  tag     : List Byte
  deriving DecidableEq, Repr

/-- What a memory controller meets on one access (Table 10-10, R258). -/
inductive MemEvent where
  | clean
  /-- A correctable error, or a link ECC correction. -/
  | correctable
  /-- A correction made inside the die, counted as CE_DIE (R252). -/
  | onDie
  /-- A link ECC correction of LPDDR5X (R253). -/
  | link
  /-- An interface error that succeeded on a retry. -/
  | retried
  /-- An uncorrectable error. -/
  | uncorrectable
  /-- A request still failing after two retries. -/
  | failed
  deriving DecidableEq, Repr

/-- What training found at steps 6 to 13 of Table 16-1 (R382): stacks and channels that trained, their rates, the
PCs that failed, the vault drive and the edge-die agents. -/
structure Training where
  hbmMbps    : BitVec 16
  hbmFailed  : List (Fin 16 × Fin 32)
  lpMts      : BitVec 16
  lpFailed   : BitVec 16
  vaultOk    : Bool
  vaultSpeed : BitVec 3
  deriving DecidableEq, Repr

/-- What a self-test finds (R403, R404). -/
structure TestOutcome where
  pass      : Bool
  tested    : BitVec 8
  failures  : BitVec 16
  failUnit  : BitVec 32
  repaired  : Bool
  marginMin : BitVec 8
  durUs     : BitVec 32
  failBanks : List (Fin 640)
  deriving DecidableEq, Repr

/-- The instruction classes of the test access port (R406). -/
inductive TapInstruction where
  | bypass | idcode | samplePreload | extest | clamp | ieee1687 | ieee1500
  deriving DecidableEq, Repr

/-- One 1 µs power sample (R344, R351): package means in W, feed-group currents and sense voltages, and the
activity of each core in 0.1 A. -/
structure PowerSample where
  instW    : BitVec 16
  nowW     : BitVec 16
  fgAmpsD  : Vector (BitVec 16) 6
  fgSense  : Vector (BitVec 12) 6
  activity : Vector (BitVec 16) 12
  deriving DecidableEq, Repr

/-- The board rails of Table 19-2. -/
inductive Rail where
  | vin (fg : Fin 6) | vc (feed : Fin 2) | hbmVdd (side : Fin 2) | hbmVddq (side : Fin 2)
  | hbmVpp (side : Fin 2) | vddqLp (band : Fin 2) | vio
  deriving DecidableEq, Repr

/-- The measured cycles of one tracked instruction (R441, R442, Table 18-5). -/
structure SlipMeasure where
  issueNs : BitVec 64
  opc     : BitVec 8
  pc      : BitVec 12
  half    : Bool
  flags   : BitVec 16
  pre     : BitVec 32
  tag     : BitVec 32
  slot    : BitVec 32
  lace    : BitVec 32
  exec    : BitVec 32
  bytes   : BitVec 32
  stretch : BitVec 16
  cause   : BitVec 8
  deriving DecidableEq, Repr

/-- The configuration writes of the host that reach state of the model (R265). -/
inductive ConfigWrite where
  | vfEnable
  | resizeBar2 (log2Gib : Fin 7)
  | msixEnable (on : Bool)
  | msixMask (on : Bool)
  | toD0
  deriving DecidableEq, Repr

/-- The commands of the block, one constructor per row of the opcode table. -/
inductive Instr where
  /-- NOP (R37): Common control instruction that takes one issue cycle and does nothing else. -/
  | nop (c : CoreId) (q : SeqId) (w : BitVec 120)
  /-- HALT (R37): Stops the sequencer; CODE 0 is a normal end and any other CODE aborts and kills the job. -/
  | halt (c : CoreId) (q : SeqId) (w : BitVec 120)
  /-- WAIT (R33): Issues only after every earlier instruction of the engine has completed its last Stacks write and received every remote write acknowledgement. -/
  | wait (c : CoreId) (q : SeqId) (w : BitVec 120)
  /-- LOOP (R461): Opens a loop level that repeats the next LEN instructions COUNT times, up to four levels deep. -/
  | loop (c : CoreId) (q : SeqId) (w : BitVec 120)
  /-- JMP (R461): Jumps OFFSET instructions within the active half and ends every open loop level whose body the target leaves. -/
  | jmp (c : CoreId) (q : SeqId) (w : BitVec 120)
  /-- DADV (R37): Adds a signed DELTA to the SA of a descriptor, modulo 2^32. -/
  | dadv (c : CoreId) (q : SeqId) (w : BitVec 120)
  /-- DLOAD (R37): Reads 16 bytes of one descriptor's byte stream, under its tag mode, into another descriptor. -/
  | dload (c : CoreId) (q : SeqId) (w : BitVec 120) (ev : List EccEvent)
  /-- SWAPI (R37): Waits until the inactive IMEM half is marked loaded, then continues at instruction 0 of that half and ends every open loop level. -/
  | swapi (c : CoreId) (q : SeqId) (w : BitVec 120)
  /-- BARRIER (R40): Core controller signals arrival to every core in CORE_MASK and waits for their arrivals with the same BAR_ID. -/
  | barrier (c : CoreId) (q : SeqId) (w : BitVec 120)
  /-- FRAME (R39): Core controller requests that every bank of the core switch to a frame table of the image. -/
  | frame (c : CoreId) (q : SeqId) (w : BitVec 120)
  /-- FRAME_TAKES_EFFECT (R39): At the first frame that begins at least 4 cycles after FRAME issued, all 640 banks switch to the new table in the same cycle. -/
  | frameTakesEffect (c : CoreId)
  /-- ILOAD (R318): Core controller copies code into another sequencer's inactive IMEM half, or into half 0 of a dormant sequencer, which it then starts. -/
  | iload (c : CoreId) (q : SeqId) (w : BitVec 120) (ev : List EccEvent)
  /-- BARRIER_TIMEOUT (R40): A BARRIER that has waited for the job's tag timeout faults BARRIER_TIMEOUT. -/
  | barrierTimeout (c : CoreId)
  /-- STACKS_ACCESS_EXECUTE (R42): A bank executes one access in a frame slot owned by the requester's class, applying the tag rules, ECC and Carrel checks. -/
  | stacksAccessExecute (c : CoreId) (cyc : Nat) (a : AccessRef) (ecc : Ecc)
  /-- TAG_TIMEOUT (R62): A tag wait that reaches the job's tag timeout frees the access unexecuted and faults the requesting sequencer TAG_TIMEOUT. -/
  | tagTimeout (c : CoreId) (a : AccessRef)
  /-- CORRECTED_WRITEBACK (R64): The bank-set controller writes corrected data back into the slot in an idle slot. -/
  | correctedWriteback (c : CoreId) (sa : BitVec 32)
  /-- PATROL_READ (R66): Patrol reads an in-service slot in an idle slot and applies the ECC rules to it. -/
  | patrolRead (c : CoreId) (sa : BitVec 32) (ecc : Ecc)
  /-- BANK_REPAIR (R53): On a core holding no job, Ikied remaps a REPAIR_PENDING bank to a free spare of its cluster and scrubs it. -/
  | bankRepair (c : CoreId) (bank : Fin 640)
  /-- SET_RETIRE (R53): On a core holding no job, Ikied retires the set of a bank that has no free spare, lowers STK_SIZE and shifts the window sets above it. -/
  | setRetire (c : CoreId) (set : Fin 20)
  /-- CARREL_MIRROR_UPDATE (R78): Hardware updates a Carrel's mirror entry within 200 ns of an access. -/
  | carrelMirrorUpdate (c : CoreId) (k : Fin 64)
  /-- SCRUB_COMPLETE (R79): The scrub of a job's sets ends, and the cores return to IDLE with JOB_ID 0 and both clusters gated. -/
  | scrubComplete (job : BitVec 6)
  /-- FILL (R68): DMA instruction that writes a repeated constant over a destination descriptor's byte stream with an optional tag operation. -/
  | fill (c : CoreId) (d : Fin 8) (w : BitVec 120)
  /-- COPY (R68): DMA instruction that copies one descriptor's byte stream into another, carrying poison, with an optional tag operation. -/
  | copy (c : CoreId) (d : Fin 8) (w : BitVec 120) (ev : List EccEvent)
  /-- CROPEN (R73): Core controller opens a Carrel from a 32-byte record in Stacks. -/
  | cropen (c : CoreId) (w : BitVec 120) (ev : List EccEvent)
  /-- CRCLOSE (R77): Core controller closes a Carrel, denies later writes and releases parked Lacing writes with CARREL_DENIED. -/
  | crclose (c : CoreId) (w : BitVec 120)
  /-- STEPEND (R419): Core controller marks a step boundary, reads the step record and waits for any due snapshot's freeze. -/
  | stepend (c : CoreId) (w : BitVec 120) (ev : List EccEvent)
  /-- CLGATE (R338): Core controller gates or ungates the core's clusters once the cluster to be gated holds no work. -/
  | clgate (c : CoreId) (w : BitVec 120)
  /-- CLUSTER_UNGATE_DONE (R30): A cluster's clocks run 2 µs after the ungating write. -/
  | clusterUngateDone (c : CoreId) (k : Fin 2)
  /-- LCFG (R99): Waits until the Last is empty, then applies a partition shape and marks both weight planes empty. -/
  | lcfg (c : CoreId) (l : Fin 4) (w : BitVec 120)
  /-- LOADW (R92): Reads weights and side data into the column queues to load the Last's idle weight plane. -/
  | loadw (c : CoreId) (l : Fin 4) (w : BitVec 120) (ev : List EccEvent)
  /-- STREAM (R94): Queues M activation vectors, optionally gathered by a selection mask, to enter the array and land in accumulator entries. -/
  | stream (c : CoreId) (l : Fin 4) (w : BitVec 120) (ev : List EccEvent)
  /-- DRAIN (R96): Reads accumulator entries, scales them by ALPHA, converts them and writes them to Stacks. -/
  | drain (c : CoreId) (l : Fin 4) (w : BitVec 120)
  /-- ACCLD (R95): Loads or adds input values into accumulator entries. -/
  | accld (c : CoreId) (l : Fin 4) (w : BitVec 120) (ev : List EccEvent)
  /-- LPAIR_ON (R103): A Last asks to enter duplex; the later of leader and follower completes the pairing. -/
  | lpairOn (c : CoreId) (l : Fin 4) (w : BitVec 120)
  /-- LPAIR_OFF (R103): The leader leaves duplex and the follower continues after its LPAIR. -/
  | lpairOff (c : CoreId) (l : Fin 4) (w : BitVec 120)
  /-- LAST_PAIR_TIMEOUT (R100): An LPAIR ON that waits longer than the job's tag timeout faults LAST_PAIR_TMO. -/
  | lastPairTimeout (c : CoreId) (l : Fin 4)
  /-- LAST_PLANE_START (R92): Once its start conditions hold, a weight load starts writing the idle plane cell by cell. -/
  | lastPlaneStart (c : CoreId) (l : Fin 4)
  /-- LAST_VECTOR_ENTER (R94): A staged activation vector enters row 0 when the vector period, plane and ordering rules allow it. -/
  | lastVectorEnter (c : CoreId) (l : Fin 4)
  /-- LAST_VECTOR_LAND (R94): A vector's sums land in its accumulator entry after the landing latency. -/
  | lastVectorLand (c : CoreId) (l : Fin 4) (mis : List Mismatch)
  /-- DRAIN_ENTRY_READ (R95): A DRAIN reads one final accumulator entry into its output buffer. -/
  | drainEntryRead (c : CoreId) (l : Fin 4) (mis : List Mismatch)
  /-- DENSE_FALLBACK_REEXEC (R124): With fallback on, the Last re-executes a violated tile by dense expansion as X sub-tiles. -/
  | denseFallbackReexec (c : CoreId) (l : Fin 4)
  /-- LAST_INJ_ARM (R107): Expert write that arms LAST_INJ to corrupt the next vector's segment sum or one drained follower value once. -/
  | lastInjArm (mb : Fin 16)
  /-- AVLD (R145): Loads activation vectors into Awl vector registers. -/
  | avld (c : CoreId) (w : BitVec 120) (ev : List EccEvent)
  /-- AMV (R146): Multiplies a weight stream, optionally gathered by a mask, by vector registers and writes the outputs. -/
  | amv (c : CoreId) (w : BitVec 120) (ev : List EccEvent)
  /-- AWL_FALLBACK_REEXEC (R151): With fallback on, the Awl re-executes an S24-violated row by dense expansion after the AMV's last line. -/
  | awlFallbackReexec (c : CoreId)
  /-- ASEQ_APPLY (R152): Reads a sequence record and updates the live mask and slot positions. -/
  | aseqApply (c : CoreId) (w : BitVec 120) (ev : List EccEvent)
  /-- ASEQ_ADVANCE (R152): Adds 1 to the position of every live sequence slot. -/
  | aseqAdvance (c : CoreId) (w : BitVec 120)
  /-- WOP (R170): Welt element-wise function over N elements with a broadcast mode and rounding. -/
  | wop (c : CoreId) (wl : Fin 2) (w : BitVec 120) (ev : List EccEvent)
  /-- WCVT (R171): Welt format conversion with block scales and optional stochastic rounding. -/
  | wcvt (c : CoreId) (wl : Fin 2) (w : BitVec 120) (ev : List EccEvent)
  /-- WRED (R172): Welt reduction by row or column, optionally continuing the reduction carry. -/
  | wred (c : CoreId) (wl : Fin 2) (w : BitVec 120) (ev : List EccEvent)
  /-- WSMX_EXPS (R173): Scales scores, subtracts the row maximum, exponentiates and writes the row statistics. -/
  | wsmxExps (c : CoreId) (wl : Fin 2) (w : BitVec 120) (ev : List EccEvent)
  /-- WSMX_MERGE (R173): Merges softmax statistics pairs and writes the per-pair weights. -/
  | wsmxMerge (c : CoreId) (wl : Fin 2) (w : BitVec 120) (ev : List EccEvent)
  /-- WGTH (R174): Gathers table rows by indices or a selection mask. -/
  | wgth (c : CoreId) (wl : Fin 2) (w : BitVec 120) (ev : List EccEvent)
  /-- WSCT (R174): Scatters rows into a table, plain or adding. -/
  | wsct (c : CoreId) (wl : Fin 2) (w : BitVec 120) (ev : List EccEvent)
  /-- WOPT (R175): Optimizer update of FX40 masters, moments and the working copy under SGDM or AdamW. -/
  | wopt (c : CoreId) (wl : Fin 2) (w : BitVec 120) (ev : List EccEvent)
  /-- WSHDW (R176): Recomputes a Last output tile when sampled and deposits relative errors into the shadow histogram. -/
  | wshdw (c : CoreId) (wl : Fin 2) (w : BitVec 120) (ev : List EccEvent)
  /-- SELTOP (R177): Selects the top K items of each score group and writes selection masks. -/
  | seltop (c : CoreId) (wl : Fin 2) (w : BitVec 120) (ev : List EccEvent)
  /-- SELTHR (R177): Selects items at or above a threshold, up to KMAX, and writes selection masks. -/
  | selthr (c : CoreId) (wl : Fin 2) (w : BitVec 120) (ev : List EccEvent)
  /-- CFILL (R178): Copies a Stacks footprint into the Welt operand cache. -/
  | cfill (c : CoreId) (wl : Fin 2) (w : BitVec 120) (ev : List EccEvent)
  /-- CEVICT (R178): Copies operand cache bytes to Stacks under the descriptor's tag mode. -/
  | cevict (c : CoreId) (wl : Fin 2) (w : BitVec 120) (ev : List EccEvent)
  /-- WSTEP_LOAD (R179): Loads WELT_STEP with a value. -/
  | wstepLoad (c : CoreId) (wl : Fin 2) (w : BitVec 120)
  /-- WSTEP_INC (R179): Adds 1 to WELT_STEP. -/
  | wstepInc (c : CoreId) (wl : Fin 2) (w : BitVec 120)
  /-- WFLAG_STORE (R179): Writes WELT_SSW_OR into a slot and clears it. -/
  | wflagStore (c : CoreId) (wl : Fin 2) (w : BitVec 120)
  /-- WFLAG_CHECK (R179): Faults WELT_FLAG when WELT_SSW_OR AND MASK is non-zero. -/
  | wflagCheck (c : CoreId) (wl : Fin 2) (w : BitVec 120)
  /-- WFLAG_CLEAR (R179): Clears WELT_SSW_OR. -/
  | wflagClear (c : CoreId) (wl : Fin 2) (w : BitVec 120)
  /-- CACHE_SEGMENT_REMAP (R182): On a core holding no job, Ikied remaps a permanent-faulty Welt cache segment to the spare. -/
  | cacheSegmentRemap (c : CoreId) (wl : Fin 2) (seg : Fin 8)
  /-- XLOAD (R246): DMA moves memory data into Stacks, with an optional landing header. -/
  | xload (c : CoreId) (d : Fin 8) (w : BitVec 120)
  /-- XSTORE (R246): DMA moves Stacks data into memory. -/
  | xstore (c : CoreId) (d : Fin 8) (w : BitVec 120) (ev : List EccEvent)
  /-- XGATHER (R246): DMA gathers mask-selected items from memory into Stacks or memory. -/
  | xgather (c : CoreId) (d : Fin 8) (w : BitVec 120) (ev : List EccEvent)
  /-- XMOVE (R246): DMA moves data from memory to memory. -/
  | xmove (c : CoreId) (d : Fin 8) (w : BitVec 120)
  /-- ESEND (R278): DMA sends a Stacks source as EYT DATA packets to a peer over a session. -/
  | esend (c : CoreId) (d : Fin 8) (w : BitVec 120) (ev : List EccEvent)
  /-- LACE_BEAT_RECEIVE (R216): A receiver checks a beat's CRC and acknowledges it, or refuses it so the sender replays it. -/
  | laceBeatReceive (link : Fin 23) (dir : Bool) (lace : Fin 18) (ok : Bool)
  /-- RD (R231): A read-one-slot flit arrives at its target for checking and service in the Remote slot. -/
  | rd (f : Flit) (ecc : Ecc)
  /-- WR (R231): A whole-slot write flit arrives at its target for checking and service. -/
  | wr (f : Flit)
  /-- WRP (R231): A byte-enabled partial write flit arrives at its target. -/
  | wrp (f : Flit)
  /-- RDR (R232): A read response arrives at the requester, and a non-OK status faults the sequencer. -/
  | rdr (f : Flit)
  /-- ACK (R232): A write acknowledgement arrives at the requester and completes one or more writes. -/
  | ack (f : Flit)
  /-- BARRIER_ARRIVAL (R40): A CTL BARRIER arrival reaches a core and is held, or completes a waiting BARRIER. -/
  | barrierArrival (f : Flit)
  /-- CREDIT_RESYNC (R220): A CTL credit resynchronisation message arrives. -/
  | creditResync (f : Flit)
  /-- UCODE_ACK (R401): A CTL microcode acknowledgement bitmap from an agent reaches Ikied. -/
  | ucodeAck (f : Flit)
  /-- IKIED_MGMT_MSG (R220): A CTL Ikied management message arrives. -/
  | ikiedMgmtMsg (f : Flit)
  /-- MCD (R400): A multicast data flit of a microcode packet reaches an agent, which writes good packets to its inactive image slot. -/
  | mcd (agent : Fin 440) (f : Flit) (ok : Bool)
  /-- CREDIT_RETURN (R223): A credit returns to the sender when its flit leaves the receiver's buffer. -/
  | creditReturn (c : CoreId) (q : SeqId) (vc3 : Bool)
  /-- LACE_RETIRE (R217): A permanent-faulty lace is removed from service, and a free spare starts training. -/
  | laceRetire (link : Fin 23) (dir : Bool) (lace : Fin 18)
  /-- LACE_HANDSHAKE_TIMEOUT (R217): A lace whose handshake holds without acknowledge for 1 µs is retired. -/
  | laceHandshakeTimeout (link : Fin 23) (dir : Bool) (lace : Fin 18)
  /-- SPARE_LACE_TRAINED (R217): A spare lace enters service 2 µs after it starts training. -/
  | spareLaceTrained (link : Fin 23) (dir : Bool) (lace : Fin 18)
  /-- LAC_LINK_RETRAIN (R219): Expert write of LAC_LINK_CTRL.RETRAIN that takes one lace out of service for retraining. -/
  | lacLinkRetrain (mb : Fin 16)
  /-- LAC_LINK_RETIRE (R217): Expert write of LAC_LINK_CTRL.RETIRE that retires one lace. -/
  | lacLinkRetire (mb : Fin 16)
  /-- LACE_RETRAIN_DONE (R219): A retraining lace returns to service, or becomes a spare, after 20 µs. -/
  | laceRetrainDone (link : Fin 23) (dir : Bool) (lace : Fin 18) (ok : Bool)
  /-- ROUTER_FAIL (R229): A router fails and forwards nothing, so its links fail and destinations behind it need detours. -/
  | routerFail (n : CoreId)
  /-- OUTSTANDING_PATH_ABORT (R230): Within 10 µs of a fault-table change, source nodes complete with TARGET_DOWN every outstanding transaction that crossed the failed element. -/
  | outstandingPathAbort (n : Fin 15)
  /-- TAG_QUARANTINE_END (R230): A tag completed under a path failure becomes usable again after 100 µs. -/
  | tagQuarantineEnd (c : CoreId) (tag : BitVec 12)
  /-- DIST_RECOMPUTE (R21): Ikied recomputes every DIST delay from the hop-delay monitors, at least every 10 ms and after frequency changes. -/
  | distRecompute (hopPs bndPs vlacMv tlacQ : BitVec 16)
  /-- UCIE_MODULE_FAIL (R18): A UCIe module fails, reducing its edge link's bandwidth, or failing the link when no module remains. -/
  | ucieModuleFail (site : Fin 16)
  /-- MEM_WRITE_ACCEPT (R248): A memory controller accepts a write into its queue and acknowledges it. -/
  | memWriteAccept (id : Nat) (ev : MemEvent)
  /-- MEM_READ_SERVE (R250): A memory controller serves a queued read in class order and returns the data. -/
  | memReadServe (id : Nat) (ev : MemEvent)
  /-- MEM_REQUEST_AGE (R249): A request that has waited AGE_US is promoted to demand. -/
  | memRequestAge (id : Nat)
  /-- MEM_REFRESH (R256): A controller issues per-bank refresh or calibration at its required rate. -/
  | memRefresh (lp : Bool) (unit : Fin 16) (temp : BitVec 8)
  /-- MEM_PATROL_READ (R255): Patrol reads a populated memory slot and writes corrected data back. -/
  | memPatrolRead (da : BitVec 48) (ev : MemEvent)
  /-- MEM_CTRL_RETRAIN (R257): Expert write of MEM_CTRL.RETRAIN that retrains one HBM PC or LPDDR5X channel. -/
  | memCtrlRetrain (mb : Fin 16)
  /-- MEM_RETRAIN_DONE (R257): A retraining PC or channel returns to service and serves its waiting requests. -/
  | memRetrainDone (lp : Bool) (unit : Fin 16) (pc : Fin 32) (ok laneRepaired : Bool)
  /-- MEM_ROW_REPAIR (R259): sPPR repairs a permanent-faulty row within 1 ms, and the row is recorded for hPPR. -/
  | memRowRepair (da : BitVec 48) (ok : Bool)
  /-- MEM_RETIRE_APPLY (R260): Once no window overlaps it, Ikied rebuilds the interleave around a RETIRE_PENDING unit and zero-fills the region. -/
  | memRetireApply (lp : Bool) (unit : Fin 16) (pc : Fin 32)
  /-- HBM_BYPASS_SWITCH (R261): After an edge router fails, Ikied moves the pair's controllers onto the seam link to the partner router. -/
  | hbmBypassSwitch (region : Fin 8)
  /-- BAR2_WRITE (R267): A host write through BAR2 is checked slot by slot and applied to memory or a Carrel. -/
  | bar2Write (fn : Fin 9) (off : Nat) (bytes : List Byte)
  /-- BAR2_READ (R267): A host read through BAR2 is checked and completed, with Completer Abort or EP where the rules require. -/
  | bar2Read (fn : Fin 9) (off len : Nat) (ev : List EccEvent)
  /-- PERST_ASSERT (R381): PERST# asserts on a running Nozer and every domain powers off in reverse order. -/
  | perstAssert
  /-- PERST_DEASSERT (R382): PERST# deasserts and the start-up sequence begins. -/
  | perstDeassert
  /-- DISC_RSP (R284): A partner die's discovery response arrives on a UCIe site. -/
  | discRsp (site : Fin 16) (payload : BitVec 64)
  /-- DISC_PROV (R284): A provenance record read answer arrives from the partner die. -/
  | discProv (site : Fin 16) (index : Fin 8) (data : BitVec 64) (rate : Fin 6) (x32 : Bool)
  /-- DISC_TIMEOUT (R284): A site whose partner has not answered within 1 ms is retried, and stays DOWN after three tries. -/
  | discTimeout (site : Fin 16)
  /-- UCODE_REPAIR_ROUND (R401): Ikied resends missed microcode packets by unicast, and retires agents still missing packets after three rounds. -/
  | ucodeRepairRound
  /-- REGION_ACTIVATE (R402): Once a region holds every part, its agents switch image slots at one region stop. -/
  | regionActivate (r : Fin 15)
  /-- START_UP_READY (R382): After training ends, Ikied writes DIST, increments BOOT_COUNT and sets DEV_STATE READY. -/
  | startUpReady (t : Training)
  /-- START_UP_WATCHDOG (R383): When READY has not been reached 10 s after the last restart, the watchdog restarts start-up from the other slot. -/
  | startUpWatchdog
  /-- FLR_VF (R271): Function level reset of a VF kills its job, abandons its mailbox commands and resets its configuration. -/
  | flrVf (v : Fin 8)
  /-- FLR_PF (R271): Function level reset of the PF resets its configuration and abandons the commands in MB0–MB1. -/
  | flrPf
  /-- VF_ENABLE_CLEAR (R271): Clearing VF Enable acts as an FLR of every VF. -/
  | vfEnableClear
  /-- PCIE_LINK_DOWN (R271): The host link goes down, and jobs continue while mailbox completions wait. -/
  | pcieLinkDown
  /-- PCIE_LINK_UP (R271): The host link returns, and waiting mailbox completions are delivered. -/
  | pcieLinkUp (speed : Fin 7) (width : Fin 17)
  /-- POWERSTATE_D3HOT (R265): The host sets PowerState D3hot, and the function stops decoding memory space. -/
  | powerstateD3hot (fn : Fin 9)
  /-- NVME_CMD_COMPLETE (R273): The vault drive completes an NVMe command. -/
  | nvmeCmdComplete (id : Nat) (ok : Bool)
  /-- NVME_CMD_TIMEOUT (R274): An NVMe command not completed in 2 s is aborted and retried, and a second timeout resets the drive controller. -/
  | nvmeCmdTimeout (id : Nat)
  /-- VAULT_SURPRISE_REMOVAL (R274): Surprise removal of the vault drive marks the vault ABSENT. -/
  | vaultSurpriseRemoval
  /-- EYT_DATA (R279): A DATA packet is applied exactly once under the Carrel rules, with LAST ordering. -/
  | eytData (port : Fin 8) (p : Packet)
  /-- EYT_ACK (R280): An ACK packet settles PSNs and reports statuses, driving retransmits or faults. -/
  | eytAck (port : Fin 8) (p : Packet)
  /-- EYT_OPEN (R281): A session OPEN from a peer is answered with OPEN_ACK. -/
  | eytOpen (port : Fin 8) (p : Packet)
  /-- EYT_OPEN_ACK (R281): An OPEN_ACK completes or refuses a session opening. -/
  | eytOpenAck (port : Fin 8) (p : Packet)
  /-- EYT_CLOSE (R281): A CLOSE packet ends a session. -/
  | eytClose (port : Fin 8) (p : Packet)
  /-- EYT_KEEPALIVE (R281): A KEEPALIVE packet refreshes a session's liveness. -/
  | eytKeepalive (port : Fin 8) (p : Packet)
  /-- EYT_MOVE (R282): A MOVE packet gives the new address to which the peer sends. -/
  | eytMove (port : Fin 8) (p : Packet)
  /-- EYT_RREQ (R418): A Duplicate read request is served from the reserved window. -/
  | eytRreq (port : Fin 8) (p : Packet)
  /-- EYT_RRESP (R418): A Duplicate read response delivers slots to a restore. -/
  | eytRresp (port : Fin 8) (p : Packet)
  /-- NEIGHBOUR_DISCOVERY (R276): The Nozer answers a Neighbour Discovery message for its addresses. -/
  | neighbourDiscovery (port : Fin 8) (target src : BitVec 128)
  /-- ICMPV6_ECHO (R276): The Nozer answers an ICMPv6 echo request. -/
  | icmpv6Echo (port : Fin 8) (dst src : BitVec 128) (data : List Byte)
  /-- FOREIGN_FRAME (R276): Any other frame is discarded and counted. -/
  | foreignFrame (port : Fin 8)
  /-- EYT_RTO_EXPIRE (R280): An unacknowledged packet is retransmitted, and its timeout doubles up to 1 ms. -/
  | eytRtoExpire (sess : BitVec 24) (psn : BitVec 32)
  /-- CARREL_FULL_RETRY (R280): A CARREL_FULL packet is retransmitted after a doubling wait. -/
  | carrelFullRetry (sess : BitVec 24) (psn : BitVec 32)
  /-- EYT_ACK_DELAY (R280): The receiver sends a delayed ACK after 16 packets or 1 µs. -/
  | eytAckDelay (sess : BitVec 24)
  /-- EYT_KEEPALIVE_TIMER (R281): After 10 ms idle, an end sends KEEPALIVE. -/
  | eytKeepaliveTimer (sess : BitVec 24)
  /-- EYT_SESSION_DEAD (R281): A session silent for DEAD_MS becomes LOST, and its ESENDs fault EYT_LOST. -/
  | eytSessionDead (sess : BitVec 24)
  /-- EYELET_LINK_DOWN (R282): An Eyelet link goes down; its sessions move, and too many flaps retire the port. -/
  | eyeletLinkDown (port : Fin 8)
  /-- EYELET_LINK_UP (R282): An Eyelet link retrains and returns to service. -/
  | eyeletLinkUp (port : Fin 8) (ok : Bool)
  /-- MAILBOX_OWN_WRITE (R291): The host sets OWN in a mailbox's CTRL, and Ikied checks and accepts or refuses the command. -/
  | mailboxOwnWrite (fn : Fin 9) (k : Fin 16) (ctrl : BitVec 32)
  /-- MAILBOX_CANCEL (R293): The host writes CANCEL to end a command that has not started to run. -/
  | mailboxCancel (fn : Fin 9) (k : Fin 16)
  /-- QUEUED_TIMEOUT (R294): A command QUEUED for 1 s ends with BUSY. -/
  | queuedTimeout (mb : Fin 16)
  /-- AUTH_LOCK_EXPIRE (R300): The owner mailbox lock time ends, and MB0–MB1 accept commands again. -/
  | authLockExpire
  /-- INVENTORY (R308): Command that captures and returns the whole device state, spilling large responses. -/
  | inventory (mb : Fin 16)
  /-- ERR_READ (R312): Command that reads error records or the journal and optionally acknowledges them. -/
  | errRead (mb : Fin 16)
  /-- PROV_READ (R304): Command that returns a provenance record. -/
  | provRead (mb : Fin 16)
  /-- COND_READ (R391): Command that returns bytes of the condition report in use. -/
  | condRead (mb : Fin 16)
  /-- MBX_ASSIGN (R304): Command that assigns a mailbox to a VF or returns it to the PF. -/
  | mbxAssign (mb : Fin 16)
  /-- JOB_LOAD (R327): Command that checks an image, places it and loads it onto cores. -/
  | jobLoad (mb : Fin 16)
  /-- JOB_START (R331): Command that prepares placed cores, opens declared Carrels, ungates clusters and starts sequencers. -/
  | jobStart (mb : Fin 16)
  /-- JOB_PAUSE (R332): Command that stops issue on every sequencer of the job and saves their run masks. -/
  | jobPause (mb : Fin 16)
  /-- JOB_RESUME (R332): Command that restores the saved run masks and continues the timeouts. -/
  | jobResume (mb : Fin 16)
  /-- JOB_KILL (R334): Command that kills a job. -/
  | jobKill (mb : Fin 16)
  /-- KILL_DRAIN_END (R398): After up to 20 µs, the boundary agent abandons still-outstanding tags, and the unit's sets enter SCRUB. -/
  | killDrainEnd (job : BitVec 6)
  /-- JOB_NORMAL_END (R333): Once every run sequencer has halted with CODE 0 and nothing is in flight, Ikied takes the job down. -/
  | jobNormalEnd (job : BitVec 6)
  /-- JOB_STATUS (R304): Command that returns a job's INVENTORY entry. -/
  | jobStatus (mb : Fin 16)
  /-- APERTURE (R268): Command that moves a function's BAR2 aperture base after earlier requests finish. -/
  | aperture (mb : Fin 16)
  /-- MEM_STATUS (R263): Command that acknowledges a reload and clears INVALID. -/
  | memStatus (mb : Fin 16)
  /-- PORT_CFG (R282): Command that sets an Eyelet's mode, address, DSCP and PFC. -/
  | portCfg (mb : Fin 16)
  /-- SESS_OPEN (R281): Command that opens an EYT session bound to a job or to the snapshot engine. -/
  | sessOpen (mb : Fin 16)
  /-- SESS_CLOSE (R304): Command that closes an EYT session. -/
  | sessClose (mb : Fin 16)
  /-- SELFTEST (R403): Command that tests or calibrates a compute, memory or link unit. -/
  | selftest (mb : Fin 16) (r : TestOutcome)
  /-- PWR_LIMIT (R358): Command that sets the sustained power limit. -/
  | pwrLimit (mb : Fin 16)
  /-- DOMAIN (R343): Command that switches one power domain on or off. -/
  | domain (mb : Fin 16)
  /-- CLOCK_CAP (R364): Command that sets or removes a region's frequency cap. -/
  | clockCap (mb : Fin 16)
  /-- THERMAL (R378): Command that sets the throttle point THROTTLE_Q. -/
  | thermal (mb : Fin 16)
  /-- SNAP_CFG_SET (R421): Command that configures a job's snapshot layers, intervals, staging and ranges. -/
  | snapCfgSet (mb : Fin 16)
  /-- SNAP_CFG_READ (R421): Command that returns a job's snapshot configuration with the key zeroed. -/
  | snapCfgRead (mb : Fin 16)
  /-- SNAP_CFG_CAPS (R415): Expert command that writes the six caps of the health score components. -/
  | snapCfgCaps (mb : Fin 16)
  /-- SNAP_NOW_TAKE (R420): Command that makes a snapshot due at the next STEPEND. -/
  | snapNowTake (mb : Fin 16)
  /-- SNAP_NOW_ARCHIVE_CONFIRM (R423): Command by which the host confirms the archive layer of a snapshot. -/
  | snapNowArchiveConfirm (mb : Fin 16)
  /-- SNAP_NOW_ABANDON (R424): Command that abandons the uncommitted snapshot. -/
  | snapNowAbandon (mb : Fin 16)
  /-- RESTORE (R426): Command that restores a job's ranges from a layer, realigns RNG counters, starts the job and judges the replayed step. -/
  | restore (mb : Fin 16)
  /-- PMU_CFG_LEDGER (R444): Command that configures and enables the ledger. -/
  | pmuCfgLedger (mb : Fin 16)
  /-- PMU_CFG_SLIPS (R441): Command that configures call-slip sampling and its ring. -/
  | pmuCfgSlips (mb : Fin 16)
  /-- PMU_CFG_FILTER (R434): Command that writes one filter set. -/
  | pmuCfgFilter (mb : Fin 16)
  /-- PMU_CFG_BINDING (R435): Command that binds a filter to an event class. -/
  | pmuCfgBinding (mb : Fin 16)
  /-- PMU_CFG_EVENT (R432): Command that sets an event's mode, filter, delta and read-clear. -/
  | pmuCfgEvent (mb : Fin 16)
  /-- PMU_CFG_DIRECTORY (R431): Command that returns event directory entries. -/
  | pmuCfgDirectory (mb : Fin 16)
  /-- REGRD (R306): Command that reads allow-listed registers, clearing counters whose RCLR is set. -/
  | regrd (mb : Fin 16)
  /-- REGWR (R307): Command that writes allow-listed register bits that have no behaviour of their own, after checking every entry. -/
  | regwr (mb : Fin 16)
  /-- JOB_SEQ_RUN_WRITE (R45): Expert write of JOB_SEQ_RUN on a paused core that halts or resumes single sequencers and starts dormant ones. -/
  | jobSeqRunWrite (mb : Fin 16)
  /-- THM_SENS_DISABLE (R380): Expert write that disables a sensor, which is then treated as failed. -/
  | thmSensDisable (mb : Fin 16)
  /-- ALLOW_READ (R305): Command that returns allow-list entries. -/
  | allowRead (mb : Fin 16)
  /-- FW_UPDATE (R389): Critical command that verifies and writes a firmware image to the inactive slot, staging it or activating it live. -/
  | fwUpdate (mb : Fin 16) (agentsOk : Bool)
  /-- LICENCE_INSTALL (R396): Critical command that checks and stores a licence folio for the next reset. -/
  | licenceInstall (mb : Fin 16)
  /-- KEY_CHANGE (R302): Critical command that replaces the ownership key with a wrapped new key. -/
  | keyChange (mb : Fin 16)
  /-- DEBUG_UNLOCK (R304): Critical command that grants debug rights on cores for a duration, or relocks. -/
  | debugUnlock (mb : Fin 16)
  /-- DEBUG_UNLOCK_EXPIRE (R304): A debug unlock ends at its expiry and scrubs held sets. -/
  | debugUnlockExpire
  /-- COND_EDIT_APPEND (R393): Critical command that appends an owner entry to the condition report. -/
  | condEditAppend (mb : Fin 16)
  /-- COND_EDIT_CLEAR (R393): Critical command that appends a CLEAR of a field entry. -/
  | condEditClear (mb : Fin 16)
  /-- DEVICE_RESET (R295): Critical command that cancels queued commands and schedules a whole-device reset. -/
  | deviceReset (mb : Fin 16)
  /-- DEVICE_RESET_START (R385): 100 µs after DEVICE_RESET ends, the whole-device reset kills every job and restarts the Registrar at step 4. -/
  | deviceResetStart
  /-- PAIR (R416): Critical command that pairs with a partner, reserves a Duplicate window and opens a DUPLICATE session. -/
  | pair (mb : Fin 16)
  /-- UNPAIR (R418): Critical command that ends the pairing on both sides and discards both windows. -/
  | unpair (mb : Fin 16)
  /-- DEBUG_READ (R304): Command that reads Stacks, IMEM, descriptor tables or a Welt cache of a core in HOLD. -/
  | debugRead (mb : Fin 16)
  /-- DEBUG_RELEASE (R304): Command that scrubs the held sets of the named cores. -/
  | debugRelease (mb : Fin 16)
  /-- OWNER_SET (R301): Command in MB0 of an unowned part that stores the ownership key and initial counter. -/
  | ownerSet (mb : Fin 16)
  /-- TAP_INSTRUCTION (R406): A test access port instruction is taken; the first privileged instruction kills every job. -/
  | tapInstruction (i : TapInstruction)
  /-- DOMAIN_POWER_GRANT (R353): At the first sample where the package and feed-group tests hold, the governor grants a domain power-on. -/
  | domainPowerGrant (d : Fin 30)
  /-- LOAD_NOTICE_LEAD_END (R356): When the lead time after a notice ends, the announced step may begin. -/
  | loadNoticeLeadEnd (d : Fin 30)
  /-- DOMAIN_SOFT_START_DONE (R343): After 40 µs of soft start, a domain's clamps open and its reset releases. -/
  | domainSoftStartDone (d : Fin 30) (mv : BitVec 12)
  /-- DOMAIN_POWER_OFF_DONE (R343): After its fence, drain and ramp-down, a domain reads OFF. -/
  | domainPowerOffDone (d : Fin 30)
  /-- DOMAIN_GRANT_TIMEOUT (R353): A power-on request with no grant after 5 ms ends BUSY with the domain off. -/
  | domainGrantTimeout (d : Fin 30)
  /-- DOMAIN_TRIP (R349): A domain regulator over 125 % of its maximum trips and latches the domain off, with the results of Table 14-3. -/
  | domainTrip (d : Fin 30) (ampsD : BitVec 16)
  /-- FEED_SUSPECT (R347): A feed group with a low share and low sense for 20 µs becomes SUSPECT and is limited to 245 A. -/
  | feedSuspect (n : Fin 6) (ampsD expD : BitVec 16) (senseMv : BitVec 12)
  /-- FEED_FAULT (R348): A feed group out of its voltage or current limits enters FAULT, asserts PWR_FAULT and slows every core. -/
  | feedFault (n : Fin 6) (ampsD expD : BitVec 16) (senseMv : BitVec 12)
  /-- FEED_LOST (R346): In compatibility mode, a feed whose sense is below 0.70 V for 2 µs is reported FEED_LOST. -/
  | feedLost (b : Fin 2) (senseMv : BitVec 12)
  /-- GOVERNOR_PEAK_TICK (R351): Every 1 µs, the governor holds or lowers allowances to keep package power within PEAK_W. -/
  | governorPeakTick (p : PowerSample)
  /-- GOVERNOR_SUST_TICK (R352): The governor lowers or raises one core by 50 MHz to keep AVG_W near SUST_W. -/
  | governorSustTick (avgW : BitVec 16) (activity : Vector (BitVec 16) 12)
  /-- HBM_PG_DEASSERT (R452): An HBM power-good input low for 10 µs while its PHY domain is on is treated as a trip of that domain. -/
  | hbmPgDeassert (side : Fin 2)
  /-- RAIL_OUT_OF_RANGE (R451): A rail leaving its range without PERST# asserted is a power loss. -/
  | railOutOfRange (rail : Rail) (mv : Nat)
  /-- FREQ_CHANGE_START (R366): A region stops its boundary halves and gates its clock to change frequency. -/
  | freqChangeStart (r : Fin 15)
  /-- FREQ_CHANGE_RESTART (R366): The generator has relocked, and the region's clock restarts at the new frequency. -/
  | freqChangeRestart (r : Fin 15)
  /-- MARGIN_WARN (R368): A region's lowest margin code below WARN sets its WARN flag and writes a record. -/
  | marginWarn (r : Fin 15) (code : BitVec 6) (path : BitVec 5)
  /-- STRETCH_LIMIT_EXCEEDED (R371): More than STR_LIM stretches within 1 ms lower the region's margin limit by 50 MHz. -/
  | stretchLimitExceeded (r : Fin 15) (n : BitVec 32)
  /-- MARGIN_LIMIT_RAISE (R371): After 10 s within the limit, the margin limit rises by 50 MHz. -/
  | marginLimitRaise (r : Fin 15)
  /-- VF_AGE_STEP (R358): After 1 h of low margin at a point, Ikied raises AGE_MV, or lowers Fmax. -/
  | vfAgeStep (c : CoreId) (k : Fin 16)
  /-- SENSOR_SAMPLE (R372): Every 10 µs each temperature sensor is sampled. -/
  | sensorSample (r : Fin 15) (i : Fin 16) (tempQ : BitVec 16) (apart : Bool)
  /-- RESET_RELEASE (R398): At the end of the scrub, reset releases, the fence lifts and the unit returns IDLE. -/
  | resetRelease (c : CoreId)
  /-- SNAPSHOT_FREEZE_DONE (R422): The freeze has copied the ranges and written the manifest, STEPENDs complete and streaming starts. -/
  | snapshotFreezeDone (job : BitVec 6)
  /-- SNAP_LAYER_CONFIRM (R423): A layer confirms a snapshot's data or trailer. -/
  | snapLayerConfirm (job : BitVec 6) (layer : Fin 3) (trailer : Bool)
  /-- SNAP_LAYER_FAIL (R424): A layer fails, and it is replaced by the next layer or the snapshot fails. -/
  | snapLayerFail (job : BitVec 6) (layer : Fin 3)
  /-- ARCHIVE_CONFIRM_TIMEOUT (R424): The host has not confirmed the archive within 60 s, and the layer fails. -/
  | archiveConfirmTimeout (job : BitVec 6)
  /-- HEALTH_SCORE_UPDATE (R413): Every 10 ms, Ikied computes each core's health score and the device score. -/
  | healthScoreUpdate
  /-- SUSPECT_ENGINE_TEST (R409): When the core holds no job, Ikied runs a full self-test of a SUSPECT engine. -/
  | suspectEngineTest (c : CoreId) (e : Fin 7) (pass : Bool)
  /-- REGISTRAR_CORE_FAIL (R410): A Registrar core that fails its self-check or stops answering is retired. -/
  | registrarCoreFail (n : Fin 4)
  /-- HOST_LANE_FAULT (R411): A permanent host-port lane fault makes the link train narrower. -/
  | hostLaneFault (width : Fin 17)
  /-- LEDGER_HEADER_WRITE (R438): After every entry write is acknowledged, the record header is written. -/
  | ledgerHeaderWrite
  /-- CALL_SLIP_WRITE (R441): A tracked sampled instruction completes and writes its call slip. -/
  | callSlipWrite (c : CoreId) (q : SeqId) (m : SlipMeasure)
  /-- PERIOD_STRETCH (R369): When a replica path reports a code at or below STRETCH, the generator lengthens the region's next period by up to 50 % and counts it in CLK_STR_r and CLK_STRNS_r. -/
  | periodStretch (r : Fin 15) (code : BitVec 6) (path : BitVec 5)
  /-- HBM_PG_ASSERT (R342): The board's HBM power-good input asserts, and D26 or D27 may then power on at start-up. -/
  | hbmPgAssert (side : Fin 2)
  /-- BAR0_WRITE (R290): A host write to a BAR0 mailbox header or payload, or to the MSI-X table, is applied, or discarded while OWN is 1, when the mailbox is assigned elsewhere, or at an unassigned offset. -/
  | bar0Write (fn : Fin 9) (off : Nat) (bytes : List Byte)
  /-- PCIE_CONFIG_WRITE (R265): A host configuration request sets SR-IOV VF Enable, a Resizable BAR size, MSI-X enables or a return to D0, or completes with Request Retry Status before the endpoint is ready. -/
  | pcieConfigWrite (fn : Fin 9) (op : ConfigWrite)
  /-- SPDM_DOE_REQUEST (R265): A DOE mailbox request carrying SPDM 1.3 for attestation or IDE key management arrives on the PF and is answered. -/
  | spdmDoeRequest (req : List Byte)
  /-- PFC_PAUSE_FRAME (R276): An IEEE 802.1Qbb priority flow control frame for the enabled priority arrives on an Eyelet and pauses or resumes transmission on that priority. -/
  | pfcPauseFrame (port : Fin 8) (prio : Fin 8) (pause : Bool)
  /-- PRE_FEC_BER_LIMIT (R282): An Eyelet whose pre-FEC bit error ratio has stayed above 10^-4 for 10 s is retired and recorded in the condition report. -/
  | preFecBerLimit (port : Fin 8)
  /-- COMMAND_COMPLETE (R292): A mailbox command whose execution took time ends; Ikied writes STATUS and the response, clears OWN and PHASE and raises the mailbox's MSI-X vector. -/
  | commandComplete (mb : Fin 16)
  /-- REF_LOSS (R363): When the reference is absent for 200 ns, every generator enters holdover. -/
  | refLoss
  /-- REF_RETURN (R363): The reference returns within 1 ms and the generators relock without a stop. -/
  | refReturn
  /-- HOLDOVER_EXPIRE (R363): After 1 ms without a reference, every job dies and DEV_STATE becomes FAILED. -/
  | holdoverExpire
  /-- THERMAL_CHECK (R374): Every 100 µs, the hottest eligible region at or above THROTTLE_Q is lowered by 50 MHz. -/
  | thermalCheck
  /-- THERMAL_RELEASE (R375): Every 1 ms, one cooled region's thermal limit rises by 50 MHz. -/
  | thermalRelease
  /-- LEDGER_LATCH (R436): Every PERIOD_NS, every counter is latched into a ledger record, or the latch is skipped. -/
  | ledgerLatch
  /-- POWER_REMOVAL (R450): With PERST# asserted the board removes the rails, clearing the PWR_FAULT latch and every power, trip and feed latch held only until power is removed. -/
  | powerRemoval
  deriving DecidableEq, Repr

end Sys2Proof
end

