-- ==== Sys2Proof/Config.lean ====
section
/-!
DEFINITION. What the spec leaves open, as constants with no body: free values (log 10), random draws (log 12), the
answers of referenced cryptographic standards (log 11), of SPDM (log 13) and of the event directory (log 10).
No proof can see what these are.
-/
namespace Sys2Proof.Config

/-- The n-th free value of a run: a value the spec leaves open, or a draw of a random source. -/
opaque freeValue : Nat → BitVec 64

/-- The bits of an element written into a block whose scale byte is 0xFF (R191, Table 08-2: the block reads as NaN
whatever they are): format and source bits. -/
opaque nanBlockElem : Nat → Nat → BitVec 8

/-- RSA-3072 PSS verification (R386): modulus, exponent, signature, message. -/
opaque rsaVerify : List Byte → List Byte → List Byte → List Byte → Bool

/-- SLH-DSA-SHA2-192s verification (R386): public key, signature, message. -/
opaque slhVerify : List Byte → List Byte → List Byte → Bool

/-- The two fused key hashes of R386. -/
opaque keyHash1 : List Byte
opaque keyHash2 : List Byte

/-- The fused device key of R391. -/
opaque deviceKey : List Byte

/-- The 16-byte AES-256-GCM tag of an EYT packet (R277): session key, header, payload. -/
opaque gcmTag : List Byte → List Byte → List Byte → List Byte

/-- AES-256-GCM opening (R302): key, IV, ciphertext, tag; none when the tag fails. -/
opaque gcmOpen : List Byte → List Byte → List Byte → List Byte → Option (List Byte)

/-- The answer to a DOE request carrying SPDM 1.3 (R265). -/
opaque spdmAnswer : List Byte → List Byte

/-- Class, attributes and name of an event outside Table 18-3 (R431: the directory is authoritative). -/
opaque eventClass : Nat → BitVec 4
opaque eventAttr : Nat → BitVec 4
opaque eventName : Nat → List Byte

/-- The hash that forms the UDP source port (R276) is not given: session and PSN bits [2:0]. -/
opaque udpHash : BitVec 24 → BitVec 3 → BitVec 16

end Sys2Proof.Config
end

