-- ==== Sys2Proof/Machine/CoreState.lean ====
section
/-!
DEFINITION. The state of one core: its sixteen sequencers, its Stacks with frames, Carrels and repair marks, its
Lasts, Welts and Awl, and its numeric block (files 02 to 08 of spec/). Plain data only.
-/
namespace Sys2Proof.Machine

/-- JOB_SQ_STAT.STATE, Table 02-9 (R44). -/
inductive SqState where
  | halted | issuing | waitTag | waitCredit | waitDrain | waitBarrier | waitImem | fault
  deriving DecidableEq, Repr

/-- JOB_CORE_STATE.STATE, Table 02-7 (R44). -/
inductive CoreSt where
  | off | reset | idle | loaded | running | paused | scrub | lost
  deriving DecidableEq, Repr

/-- One open LOOP level (R37, R461): first instruction of the body, its length, iterations left. -/
structure LoopLevel where
  first : Nat
  len   : Nat
  left  : Nat
  deriving DecidableEq, Repr

/-- Where a slot access goes: the core's own Stacks, another core's Stacks in the remote form, or memory. -/
inductive Place where
  | here
  | remote (core : CoreId)
  | memory
  deriving DecidableEq, Repr

/-- How far a slot access has come (R60): not tried, parked (true: holding a waiter entry, false: at the bank
input), sent as a request with this number, executed. -/
inductive AccPhase where
  | todo
  | parked (entry : Bool)
  | sent (tag : Nat)
  | done
  deriving DecidableEq, Repr

/-- One access of one 64-byte slot by an engine (R32, R59). `opnd` is the operand it belongs to, `addr` the slot's first
byte: an SA, or a device address for memory. The access covers bytes lo to lo+len-1 of the slot. -/
structure Access where
  opnd   : Nat
  place  : Place
  write  : Bool
  addr   : Nat
  lo     : Nat
  len    : Nat
  tm     : BitVec 2
  prio   : BitVec 2
  multi  : Bool
  data   : List Byte
  poison : Bool
  phase  : AccPhase
  deriving DecidableEq, Repr

/-- An instruction in flight: its word, the accesses of its finished phases and of its present phase, and what it
noted at issue (chain position, sampler decision, gate mask ...). `view` is the descriptor table at its issue. -/
structure InFlight where
  word  : Word128
  view  : SMap Word128
  got   : List (List Access)
  todo  : List Access
  notes : List Nat
  deriving DecidableEq, Repr

/-- One sequencer (R31, R44): PC and half, status, both IMEM halves, descriptor table, loops, instructions in
flight, output writes of its engine still to execute, whether it has run, is dormant (R318) or has ended with HALT,
and injection credits (R225). -/
structure SeqState where
  pc       : Nat
  half     : Bool
  st       : SqState
  altReady : Bool
  lastOpc  : BitVec 8
  fault    : BitVec 8
  imem0    : SMap Word128
  imem1    : SMap Word128
  desc     : SMap Word128
  loops    : List LoopLevel
  infl     : List InFlight
  writes   : List Access
  pendFault : BitVec 8
  ran      : Bool
  dormant  : Bool
  ended    : Bool
  haltCode : BitVec 16
  credit1  : Nat
  credit3  : Nat
  deriving DecidableEq, Repr

/-- A Carrel (R71, R72, R78, Table 03-16): its record while open, and its counters. -/
structure Carrel where
  opened   : Bool
  tmreq    : BitVec 2
  job      : BitVec 6
  hostMask : BitVec 9
  base     : BitVec 32
  length   : BitVec 32
  jobMask  : BitVec 64
  coreMask : BitVec 12
  eys      : BitVec 24
  eysEn    : Bool
  filled   : BitVec 64
  consumed : BitVec 64
  drops    : BitVec 32
  denied   : BitVec 32
  openSeq  : BitVec 16
  owner    : BitVec 6
  deriving DecidableEq, Repr

/-- A Carrel's 32-byte mirror entry as the host reads it (R78, Table 03-12). -/
structure MirrorEntry where
  filled   : BitVec 64
  consumed : BitVec 64
  drops    : BitVec 32
  denied   : BitVec 32
  state    : BitVec 32
  deriving DecidableEq, Repr

/-- A remote access held at its target core: queued in R58's order, or parked (R60). -/
structure RemoteAccess where
  flit   : Flit
  parked : Bool
  deriving DecidableEq, Repr

/-- The Stacks of one core apart from its bytes and tags (R49 to R82). -/
structure StkState where
  insvc      : BitVec 20
  retirePend : BitVec 20
  spareC0    : Nat
  spareC1    : Nat
  repairPend : List Nat
  repaired   : List Nat
  tagTmoUs   : BitVec 32
  periodH    : BitVec 8
  passes     : BitVec 16
  patrolAt   : Nat
  ce         : BitVec 32
  ue         : BitVec 32
  logSa      : BitVec 32
  logBank    : BitVec 10
  logUe      : Bool
  logValid   : Bool
  hwm        : BitVec 5
  bp         : Bool
  scrub      : BitVec 20
  hold       : Bool
  frames     : Vector (BitVec 32) 8
  carrels    : Vector Carrel 64
  mirror     : Vector MirrorEntry 64
  remote     : List RemoteAccess
  fixups     : List Nat
  ceTimes    : List (Nat × Nat)
  ueSlots    : List (Nat × Bool)
  dmaTurn    : SMap Nat
  deriving DecidableEq, Repr

/-- A block of an NZB tile (R116): its slot, stripe, offer number, block number in the panel, and its bytes. -/
structure NzbBlock where
  slot   : Nat
  stripe : Nat
  offer  : Nat
  blk    : Nat
  data   : List Byte
  deriving DecidableEq, Repr

/-- One weight plane of a Last (R84): the load it holds (0 none), its format and sparsity, the bytes of each
partition's weight and side streams (or, for an NZB tile, its blocks strip by strip and the panel's stripes along K),
the partitions that R123 or R125 marks, the passes of R124 (0 while the tile runs as it stands), and whether a
violated tile still waits for its expansion. -/
structure Plane where
  serial   : Nat
  fmt      : Nat
  sp       : Nat
  words    : List (List Byte)
  side     : List (List Byte)
  blocks   : List (List NzbBlock)
  kstripes : Nat
  violated : List Nat
  passes   : Nat
  waits    : Bool
  deriving DecidableEq, Repr

/-- A LOADW held by the load queue with its operands read (R92, R97): its load and the plane it goes to. -/
structure LoadJob where
  plane  : Plane
  target : Bool
  deriving DecidableEq, Repr

/-- A STREAM held by the stream queue (R94, R97): its place in program order, the plane and load it uses, its
vectors per partition, and the next vector and pass to enter. -/
structure StreamJob where
  seq    : Nat
  plane  : Bool
  needs  : Nat
  afmt   : Nat
  acc    : Bool
  half   : Bool
  entry  : Nat
  gather : Bool
  count  : Nat
  next   : Nat
  pass   : Nat
  poison : Bool
  acts   : List (List (List Byte))
  scales : List (List (List Byte))
  deriving DecidableEq, Repr

/-- A value of a vector in the array: its accumulator index, its FP32 bits, and whether R123 poisons it. -/
structure FlyVal where
  idx  : Nat
  bits : BitVec 32
  bad  : Bool
  deriving DecidableEq, Repr

/-- A vector in the array (R94): its STREAM, where it lands, its values, and the finding an injection causes. -/
structure Flying where
  seq   : Nat
  half  : Bool
  entry : Nat
  acc   : Bool
  vals  : List FlyVal
  hit   : List Mismatch
  deriving DecidableEq, Repr

/-- A DRAIN or ACCLD held by the drain queue (R95 to R97): its place in program order, its entries and the next one,
its format, CLR or ADD, ALPHA, the output descriptors, and an ACCLD's input per partition. -/
structure DrainJob where
  seq   : Nat
  drain : Bool
  half  : Bool
  entry : Nat
  count : Nat
  next  : Nat
  fmt   : Nat
  flag  : Bool
  alpha : BitVec 32
  descs : List Word128
  input : List (List Byte)
  deriving DecidableEq, Repr

/-- One accumulator value (R88): FP32 bits and the poison bit. -/
structure AccVal where
  bits   : BitVec 32
  poison : Bool
  deriving DecidableEq, Repr

/-- The panel plan the sparse distributor holds (R117, R118): the panel's DX SA, its tiles strip by strip, the next
tile, the stripes along K, the stripe-order violations found, and whether a stripe was out of range. -/
structure PanelPlan where
  sa       : Nat
  tiles    : List (List (List NzbBlock))
  next     : Nat
  kstripes : Nat
  disorder : Option (Nat × Nat)
  range    : Option (Nat × Nat)
  deriving DecidableEq, Repr

/-- One Last (R83 to R107, R136). `opSeq` numbers its instructions in program order and `serial` its loads; `cur` and
`curLoad` are the current plane and its load in program order, `newFmt` and `newSp` describe the latest load. -/
structure LastState where
  shape    : BitVec 3
  opSeq    : Nat
  serial   : Nat
  cur      : Bool
  curLoad  : Nat
  curFmt   : Nat
  curSp    : Nat
  newFmt   : Nat
  newSp    : Nat
  swapped  : Bool
  p0       : Plane
  p1       : Plane
  loadQ    : List LoadJob
  streamQ  : List StreamJob
  arr      : List Flying
  drainQ   : List DrainJob
  acc      : SMap AccVal
  paired   : Bool
  follower : Bool
  pairWait : Bool
  resCnt   : BitVec 32
  resLog   : BitVec 32
  dupCnt   : BitVec 32
  dupLog   : BitVec 32
  inj      : BitVec 32
  fallback : Bool
  spCnt    : BitVec 32
  spLog    : BitVec 64
  fbCnt    : BitVec 32
  plan     : Option PanelPlan
  empties  : BitVec 32
  gathered : BitVec 32
  short    : BitVec 32
  misTimes : List (Nat × Nat)
  suspect  : Bool
  deriving DecidableEq, Repr

/-- The reduction carry of a Welt (R166): FP32 results and, for ARGMAX, their indices, with the element count. -/
structure Carry where
  vals  : List (BitVec 32)
  idxs  : List (BitVec 32)
  count : Nat
  deriving DecidableEq, Repr

/-- One Welt (R161 to R186): status words, step, chain position, carry, counters, and the operand cache. -/
structure WeltState where
  ssw      : BitVec 32
  sswOr    : BitVec 9
  step     : BitVec 32
  pos      : BitVec 32
  carry    : Option Carry
  elems    : BitVec 64
  stall    : BitVec 64
  cce      : BitVec 16
  cue      : BitVec 16
  spSeg    : BitVec 4
  permSegs : List Nat
  selGroups : BitVec 32
  selMasks : BitVec 32
  shRun    : BitVec 32
  shSkip   : BitVec 32
  cache    : List (Nat × Byte)
  cpoison  : List Nat
  ceTimes  : List (Nat × Nat)
  ueLines  : List (Nat × Bool)
  key      : BitVec 128
  suspect  : Bool
  deriving DecidableEq, Repr

/-- A row of an AMV that dense fallback re-executes (R151), its offending mask, and the writes of outputs that wait
for it. -/
structure AwlRedo where
  row    : Nat
  index  : Nat
  writes : List Access
  deriving DecidableEq, Repr

/-- The Awl (R138 to R160): vector store, loaded lengths, sequence slots, counters and the fallback rows. -/
structure AwlState where
  vregs    : SMap (BitVec 16)
  lens     : Vector Nat 32
  mask     : BitVec 32
  pos      : Vector (BitVec 32) 32
  lines    : BitVec 64
  stall    : BitVec 64
  latch    : Bool
  fallback : Bool
  spCnt    : BitVec 32
  spLog    : BitVec 64
  fbCnt    : BitVec 32
  redo     : List AwlRedo
  suspect  : Bool
  deriving DecidableEq, Repr

/-- The numeric block of a core, Table 08-7 (R208), and the shadow window of R206. -/
structure NumState where
  rate     : BitVec 5
  hardBin  : BitVec 4
  softBin  : BitVec 4
  softLim  : BitVec 8
  hardKill : Bool
  det      : Bool
  keyed    : Bool
  keyFp    : BitVec 16
  soft     : BitVec 16
  hard     : BitVec 16
  softNew  : Bool
  hardNew  : Bool
  log      : BitVec 64
  bins     : Vector (BitVec 48) 16
  window   : List Nat
  hardTimes : List (Nat × Nat)
  softTimes : List Nat
  deriving DecidableEq, Repr

/-- A remote transaction a core has outstanding (R225, R230): its tag and its request. -/
structure Txn where
  tag  : BitVec 12
  flit : Flit
  deriving DecidableEq, Repr

/-- One core (R28, R44). -/
structure CoreState where
  st       : CoreSt
  jobId    : BitVec 6
  fenced   : Bool
  seqRun   : BitVec 16
  seqErr   : BitVec 16
  saved    : BitVec 16
  clGate   : BitVec 2
  ungating : BitVec 2
  frameSel : BitVec 3
  framePend : Option (BitVec 3)
  cycles   : BitVec 64
  seqs     : Vector SeqState 16
  stk      : StkState
  lasts    : Vector LastState 4
  welts    : Vector WeltState 2
  awl      : AwlState
  num      : NumState
  arrivals : List (CoreId × BitVec 8)
  barrier  : Option (BitVec 8 × List CoreId)
  nextTag  : Nat
  txns     : List Txn
  quarantine : List (BitVec 12)
  sets     : Nat
  deriving DecidableEq, Repr

end Sys2Proof.Machine
end

