-- ==== Sys2Proof/Machine/DeviceState.lean ====
section
/-!
DEFINITION. The state of the device outside the cores: Lacing, memory tiers, ports, Registrar and jobs, power,
clocks and temperature, flash and firmware, self-checks, snapshots and counters (files 01 and 09 to 19 of spec/).
Plain data only.
-/
namespace Sys2Proof.Machine

/-- One direction of a link (R213 to R219): laces active and retired, laces training as a spare, the lace that
retrains, and the transient error times of each lace. -/
structure LinkDir where
  active   : BitVec 18
  retired  : BitVec 18
  training : List Nat
  retrain  : Option Nat
  replays  : SMap Nat
  errTimes : List (Nat × Nat)
  deriving DecidableEq, Repr

/-- A Lacing link (R17, R213, R214). For an edge link `modules` is the number of working UCIe modules. -/
structure Link where
  failed  : Bool
  bypass  : Bool
  a       : LinkDir
  b       : LinkDir
  modules : Nat
  replays : BitVec 32
  retires : BitVec 8
  ctrl    : BitVec 32
  deriving DecidableEq, Repr

/-- The Lacing fabric and DIST (R20 to R24, R210 to R238). `flight` holds the flits sent and not yet delivered. -/
structure Lacing where
  arb      : BitVec 32
  errThr   : BitVec 32
  hopPs    : BitVec 16
  bndPs    : BitVec 16
  late     : BitVec 32
  nodes    : Vector (BitVec 2) 15
  links    : Vector Link 23
  ft       : SMap (BitVec 4)
  flight   : List Flit
  vlacMv   : BitVec 16
  tlacQ    : BitVec 16
  distHop  : BitVec 16
  distBnd  : BitVec 16
  distGen  : BitVec 32
  distEpoch : BitVec 32
  dist     : SMap (BitVec 32)
  retrainTimes : List (Nat × Nat)
  deriving DecidableEq, Repr

/-- Whose memory request it is (R239): a DMA sequencer's open access, a remote flit, or a background agent. -/
inductive MemFrom where
  | engine (c : CoreId) (q : SeqId)
  | none
  deriving DecidableEq, Repr

/-- A request in a memory controller's queue (R248, R249): class 0 demand, 1 prefetch, 2 background. -/
structure MemReq where
  id     : Nat
  from_  : MemFrom
  write  : Bool
  addr   : Nat
  data   : List Byte
  poison : Bool
  prio   : BitVec 2
  aged   : Bool
  job    : BitVec 6
  deriving DecidableEq, Repr

/-- An HBM region (R240 to R242, R260, R261). -/
structure Region where
  state   : BitVec 2
  live    : BitVec 64
  pend    : BitVec 64
  invalid : Bool
  deriving DecidableEq, Repr

/-- An HBM stack's counters and status (Table 10-12). -/
structure Stack where
  ce    : BitVec 16
  ue    : BitVec 16
  ceDie : BitVec 16
  ppr   : BitVec 8
  temp  : BitVec 8
  hot   : Bool
  retrain : Option Nat
  lanes : BitVec 4
  drops : BitVec 16
  deriving DecidableEq, Repr

/-- An LPDDR5X channel's counters and status (Table 10-12). -/
structure Channel where
  ce     : BitVec 16
  ue     : BitVec 16
  linkCe : BitVec 16
  drops  : BitVec 16
  state  : BitVec 2
  invalid : Bool
  refRate : BitVec 3
  deriving DecidableEq, Repr

/-- The memory tiers (R239 to R264). Row and unit histories carry the device time of each entry (R258). -/
structure Tiers where
  mbps     : BitVec 16
  ageUs    : BitVec 8
  pcRows   : BitVec 8
  trainFail : BitVec 4
  periodH  : BitVec 8
  passes   : BitVec 16
  lpMts    : BitVec 16
  present  : BitVec 16
  gib      : BitVec 8
  errLog   : BitVec 32
  errAddr  : BitVec 48
  ctrl     : BitVec 32
  regions  : Vector Region 8
  stackList   : Vector Stack 16
  chans    : Vector Channel 16
  queue    : List MemReq
  nextReq  : Nat
  ueSlots  : List (Nat × Bool)
  ceRows   : List (Nat × Nat × Nat)
  permRows : List (Nat × Nat × Nat)
  hpprRows : List Nat
  trainFails : List (Nat × Nat)
  requestFails : List (Nat × Nat)
  ceTimes  : List (Nat × Nat)
  patrolAt : Nat
  deriving DecidableEq, Repr

/-- A PCIe function (R265, R268, R271): 0 the PF, 1 to 8 the VFs. -/
structure PcieFn where
  enabled : Bool
  d3hot   : Bool
  msixEn  : Bool
  msixMask : Bool
  apBase  : BitVec 18
  apLog2  : BitVec 3
  table   : List (Nat × Byte)
  pba     : BitVec 32
  deriving DecidableEq, Repr

/-- The host port (R265 to R271): link, errors, functions, the MSI-X messages sent or waiting, the read completions
(no bytes: Completer Abort), and the upstream writes of the archive. -/
structure Pcie where
  up       : Bool
  speed    : BitVec 4
  width    : BitVec 5
  flit     : Bool
  ready    : Bool
  corr     : BitVec 16
  uncorr   : BitVec 16
  apDeny   : BitVec 16
  fns      : Vector PcieFn 9
  irqs     : List (Fin 9 × Nat)
  waiting  : List (Fin 9 × Nat)
  completions : List (Fin 9 × Nat × List Byte × Bool)
  upstream : List (Nat × List Byte)
  doe      : List (List Byte)
  deriving DecidableEq, Repr

/-- An NVMe command Ikied has issued to the vault drive (R273, R274): a snapshot's data or trailer, or the Flush
after it. -/
structure Nvme where
  id      : Nat
  job     : BitVec 6
  snap    : BitVec 32
  trailer : Bool
  flush   : Bool
  retried : Bool
  deriving DecidableEq, Repr

/-- The vault port (R272 to R274): state, timeouts, controller reset times, commands, and what the drive holds. -/
structure Vault where
  state    : BitVec 2
  speed    : BitVec 3
  timeouts : BitVec 16
  resets   : List Nat
  cmds     : List Nvme
  nextCmd  : Nat
  wcache   : Bool
  deriving DecidableEq, Repr

/-- One Eyelet port (R275, R276, R282). -/
structure EyePort where
  mode     : BitVec 3
  state    : BitVec 2
  downs    : BitVec 16
  downTimes : List Nat
  corr     : BitVec 32
  uncorr   : BitVec 32
  dscp     : BitVec 8
  pfc      : BitVec 8
  paused   : Bool
  udp      : BitVec 16
  addr     : BitVec 128
  discards : Nat
  configured : Bool
  deriving DecidableEq, Repr

/-- A DATA or RREQ packet sent and not yet settled (R280): its sender, retries, and CARREL_FULL waits. -/
structure Unacked where
  pkt    : Packet
  core   : Option (CoreId × SeqId)
  tries  : Nat
  full   : Nat
  deriving DecidableEq, Repr

/-- An EYT session (R277 to R282). `state`: 0 opening, 1 open, 2 LOST. Sending: `psn` and `msg` come next, `unacked` are
not settled, and `queue` are those beyond the 4,096 that may be. Receiving: every PSN below `ackLow` is applied, `applied` keeps each PSN's status, message and LAST,
`held` are LAST packets that wait, `lastMsg` is the last message whose LAST was applied, `unsent` counts packets since
the last ACK. -/
structure Session where
  num     : BitVec 24
  dup     : Bool
  job     : BitVec 6
  auth    : Bool
  key     : List Byte
  dscp    : BitVec 8
  peer    : BitVec 128
  home    : Option (Fin 8)
  initiator : Bool
  state   : Nat
  psn     : BitVec 32
  msg     : BitVec 32
  unacked : List Unacked
  queue   : List Packet
  applied : List (BitVec 32 × BitVec 8)
  held    : List Packet
  lastMsg : BitVec 32
  unsent  : Nat
  ackLow  : BitVec 32
  deriving DecidableEq, Repr

/-- An EYT packet sent (R276): its port, peer address, UDP ports and DSCP. -/
structure SentPacket where
  port  : Fin 8
  peer  : BitVec 128
  sport : BitVec 16
  dport : BitVec 16
  dscp  : BitVec 8
  pkt   : Packet
  deriving DecidableEq, Repr

/-- The Eyelets and EYT (R275 to R282), with the packets and frames sent out. -/
structure Eyes where
  thr      : BitVec 32
  lost     : BitVec 16
  ports    : Vector EyePort 8
  sessions : List Session
  dropped  : Nat
  out      : List SentPacket
  frames   : List (Fin 8 × List Byte)
  deriving DecidableEq, Repr

/-- A UCIe site (R283 to R285). -/
structure Site where
  state    : BitVec 3
  rate     : BitVec 3
  x32      : Bool
  role     : BitVec 4
  repaired : BitVec 8
  retry    : BitVec 32
  down     : BitVec 16
  rsp      : BitVec 64
  prov     : List (Nat × BitVec 64)
  tries    : Nat
  downBoots : Nat
  deriving DecidableEq, Repr

/-- A mailbox (R288): header fields, payload (bytes that differ from 0, by offset), the function that holds it,
the result waiting for COMMAND_COMPLETE, whether it was abandoned (R271), and the order of acceptance (R294). -/
structure Mailbox where
  own      : Bool
  cancel   : Bool
  expert   : Bool
  phase    : BitVec 2
  progress : BitVec 16
  code     : BitVec 16
  plen     : BitVec 16
  seq      : BitVec 32
  status   : BitVec 16
  rlen     : BitVec 16
  counter  : BitVec 64
  check    : List (Nat × Byte)
  rsize    : BitVec 32
  payload  : List (Nat × Byte)
  fn       : Fin 9
  result   : Option (BitVec 16 × List Byte × BitVec 32)
  waiting  : Bool
  aband    : Bool
  order    : Nat
  deriving DecidableEq, Repr

/-- An error record (R311, Table 12-9). -/
structure ErrRec where
  seq    : BitVec 64
  time   : BitVec 64
  addr   : BitVec 64
  unit   : BitVec 32
  op     : BitVec 16
  job    : BitVec 8
  cls    : BitVec 8
  sev    : BitVec 8
  flags  : BitVec 8
  code   : BitVec 16
  tempQ  : BitVec 16
  voltMv : BitVec 16
  detail : List Byte
  deriving DecidableEq, Repr

/-- A memory window of a job or a grant (R322, R325). -/
structure Window where
  base   : Nat
  len    : Nat
  rights : BitVec 8
  deriving DecidableEq, Repr

/-- A declared Carrel (R321). -/
structure CarrelDecl where
  icore   : Nat
  k       : Fin 64
  selfJob : Bool
  ownFn   : Bool
  tagInit : BitVec 8
  record  : List Byte
  deriving DecidableEq, Repr

/-- A job (R314 to R336). `state`: 3 LOADED, 4 RUNNING, 5 PAUSED, 6 SCRUB. -/
structure Job where
  id      : BitVec 6
  state   : BitVec 8
  cores   : List CoreId
  place   : BitVec 8
  func    : Fin 9
  imageId : BitVec 64
  seed    : BitVec 64
  flags   : BitVec 32
  tagTmoUs : BitVec 32
  shRate  : BitVec 8
  fcastD  : BitVec 8
  sets    : List Nat
  windows : List Window
  decls   : List CarrelDecl
  pins    : List (BitVec 8)
  coded   : List (CoreId × SeqId)
  startNs : BitVec 64
  lastFault : BitVec 8
  killed  : Bool
  normal  : Bool
  draining : Bool
  hold    : List CoreId
  aband   : Bool
  deriving DecidableEq, Repr

/-- The Registrar (R288 to R313): device header, owner, mailboxes, records, jobs, debug unlock, test port. -/
structure Registrar where
  devState  : BitVec 32
  bootCount : BitVec 32
  time      : BitVec 64
  invGen    : BitVec 64
  errNext   : BitVec 48
  ownerState : BitVec 32
  key       : List Byte
  newKey    : Option (List Byte)
  lastCtr   : BitVec 64
  ctrHigh   : BitVec 64
  fails     : Nat
  locks     : List Nat
  clrBoots  : Nat
  mailboxes : Vector Mailbox 16
  accepted  : Nat
  ring      : List ErrRec
  acked     : BitVec 64
  journal   : List ErrRec
  errLost   : BitVec 32
  jobs      : List Job
  nextJob   : BitVec 6
  grants    : Vector (Option (List Window)) 9
  cores     : Vector Bool 4
  dbgCores  : BitVec 12
  dbgRights : BitVec 8
  dbgUntil  : Nat
  tapUsed   : Bool
  resetDue  : Bool
  renumber  : Bool
  fieldOf   : Vector CoreId 12
  deriving DecidableEq, Repr

/-- A power domain (R341 to R343, R349). -/
structure PowerDomain where
  state  : BitVec 2
  clamp  : Bool
  mv     : BitVec 12
  ampsD  : BitVec 16
  trips  : BitVec 16
  latched : Bool
  deriving DecidableEq, Repr

/-- A feed group (R344, R347, R348). -/
structure FeedGroup where
  ampsD   : BitVec 16
  senseMv : BitVec 12
  expD    : BitVec 16
  suspect : Bool
  fault   : Bool
  deriving DecidableEq, Repr

/-- One point of a VF table (R357). -/
structure VfPoint where
  mhz    : BitVec 11
  valid  : Bool
  fused  : BitVec 10
  ageMv  : BitVec 6
  offMv  : BitVec 6
  deriving DecidableEq, Repr

/-- The per-core power data (R350, R352, R357, R358, Table 14-5). `allowD` is the activity allowance in 0.1 A, and
`loweredNs` the device time at which the governor last lowered the core. -/
structure CorePower where
  fmax   : BitVec 11
  fused  : BitVec 11
  ceil   : BitVec 7
  imaxD  : BitVec 11
  allowD : Nat
  govMhz : BitVec 11
  loweredNs : Option Nat
  vf     : Vector VfPoint 16
  deriving DecidableEq, Repr

/-- A domain power-on request (R353): MAKE_ROOM, whether granted and whether its lead time has ended. -/
structure PowerRequest where
  dom      : Fin 30
  makeRoom : Bool
  granted  : Bool
  leadDone : Bool
  mb       : Option (Fin 16)
  deriving DecidableEq, Repr

/-- A load notice sent (R354): group, rise or fall, pulse width in ns. -/
structure Notice where
  fg    : Fin 6
  rise  : Bool
  width : Nat
  deriving DecidableEq, Repr

/-- Power delivery (R341 to R360). `govNs` and `raisedNs` are when the governor last lowered and last raised a core
(R352). -/
structure Power where
  compat   : Bool
  sustW    : BitVec 12
  peakW    : BitVec 12
  nowW     : BitVec 16
  avgW     : BitVec 16
  instW    : BitVec 16
  slope    : BitVec 5
  lead     : BitVec 7
  notices  : BitVec 16
  pwrFault : Bool
  thrSust  : Bool
  thrPeak  : Bool
  feedLost : BitVec 2
  fgs      : Vector FeedGroup 6
  doms     : Vector PowerDomain 30
  cores    : Vector CorePower 12
  requests : List PowerRequest
  offs     : List (Fin 30)
  sent     : List Notice
  govNs    : Option Nat
  raisedNs : Option Nat
  compatMv : BitVec 12
  hbmPg    : Vector Bool 2
  railsBad : Bool
  deriving DecidableEq, Repr

/-- A clock region (R361 to R371, Table 15-6): `goal` is the frequency it changes to while stopped, `changedAt` when it
last changed, `low` and `path` what gave the lowest code at device time `lowAt`, `strTimes` the stretches of the last
ms, `marginAt` when STR_LIM was last exceeded, `warnAt` when the last WARN record was written. -/
structure ClockRegion where
  cur      : BitVec 11
  rated    : BitVec 11
  stopped  : Bool
  goal     : BitVec 11
  changedAt : Option Nat
  cap      : BitVec 11
  changes  : BitVec 16
  margin   : BitVec 11
  low      : BitVec 6
  lowAt    : Nat
  warnNew  : Bool
  path     : BitVec 5
  lowLife  : BitVec 6
  str      : BitVec 64
  strPs    : BitVec 64
  strTimes : List Nat
  marginAt : Option Nat
  rpCode   : SMap (BitVec 6)
  rpMin    : SMap (BitVec 6)
  warnAt   : Option Nat
  deriving DecidableEq, Repr

/-- The clock block (R363, Table 15-6). -/
structure Clock where
  lock     : Bool
  holdover : Bool
  losses   : BitVec 16
  warn     : BitVec 6
  stretch  : BitVec 6
  strLim   : BitVec 16
  refOk    : Bool
  mgmtMhz  : BitVec 16
  regions  : Vector ClockRegion 15
  deriving DecidableEq, Repr

/-- A temperature sensor (R372, R373). -/
structure Sensor where
  tempQ   : BitVec 16
  failed  : Bool
  disable : Bool
  trips   : Nat
  deriving DecidableEq, Repr

/-- The thermal state of a region (R374 to R377, Table 15-6). -/
structure ThermRegion where
  tempQ   : BitVec 16
  lim     : BitVec 11
  crit    : Bool
  steps   : BitVec 16
  lowered : Option Nat
  below   : Option Nat
  sensors : Vector Sensor 16
  deriving DecidableEq, Repr

/-- Thermal control (R372 to R380). -/
structure Thermal where
  throttleQ : BitVec 10
  hystQ     : BitVec 8
  hbmLim    : BitVec 8
  regions   : Vector ThermRegion 15
  raisedAt  : Option Nat
  tripped   : Bool
  deriving DecidableEq, Repr

/-- A firmware slot of the boot flash (R386): the facts the boot ROM verifies. -/
structure FwSlot where
  valid   : Bool
  live    : Bool
  version : BitVec 32
  svn     : BitVec 32
  deriving DecidableEq, Repr

/-- A condition report entry (Table 16-4). -/
structure CondEntry where
  unit   : BitVec 32
  action : BitVec 8
  reason : BitVec 8
  arg    : BitVec 16
  arg2   : BitVec 32
  day    : BitVec 32
  deriving DecidableEq, Repr

/-- A licence folio in flash (R395): the facts Ikied checks. -/
structure Folio where
  sigOk   : Bool
  profile : BitVec 8
  retired : BitVec 8
  licId   : List Byte
  serial  : List Byte
  svn     : BitVec 32
  deriving DecidableEq, Repr

/-- The pairing kept in flash (R416): session, partner address, reserved window, session key, shared feed. -/
structure Pairing where
  session : BitVec 24
  peer    : BitVec 128
  base    : Nat
  len     : Nat
  key     : List Byte
  shared  : Bool
  deriving DecidableEq, Repr

/-- The boot flash, fuses and board descriptor (R386 to R396, R456). Slot false is A, true is B. -/
structure Flash where
  slotA    : FwSlot
  slotB    : FwSlot
  active   : Bool
  pending  : Option Bool
  trial    : Bool
  running  : BitVec 32
  fwCtr    : Nat
  licCtr   : Nat
  folio    : Option Folio
  profile  : BitVec 8
  licState : BitVec 8
  factory  : List CondEntry
  field    : List CondEntry
  gen      : BitVec 64
  copyOk   : Bool
  prov     : List (List Byte × List Byte)
  feedId   : BitVec 64
  boardOk  : Bool
  boardCompat : Bool
  boardMv  : BitVec 12
  lpMts    : BitVec 16
  lpChannels : BitVec 16
  lpGib    : BitVec 8
  macBase  : BitVec 48
  day      : BitVec 32
  pairing  : Option Pairing
  deriving DecidableEq, Repr

/-- A microcode agent (R28, R392, R400, R401): which image slot is active, packets received of the part in
progress, parts complete in the inactive slot, repair rounds, retired. -/
structure Agent where
  slot    : Bool
  got     : List Nat
  parts   : List Nat
  rounds  : Nat
  missing : List Nat
  retired : Bool
  deriving DecidableEq, Repr

/-- A snapshot of a job (R420 to R424). `stage`: 1 freeze, 2 streaming, 3 awaiting trailer. `half` is the slot of the
Duplicate window and the half of the vault it goes to, `size` the bytes of its ranges, `image` the staged bytes (copies,
then manifest) that differ from 0, `dataMsg` and `trailMsg` the EYT messages that carry data and trailer, and `data`,
`trailer` and `failed` have a bit for each layer. -/
structure Snapshot where
  id      : BitVec 32
  stage   : BitVec 8
  step    : BitVec 64
  record  : List Byte
  rng     : List (BitVec 32)
  commit  : BitVec 3
  layers  : BitVec 3
  data    : BitVec 3
  trailer : BitVec 3
  failed  : BitVec 3
  trailerRec : List Byte
  replaced : Bool
  place   : BitVec 8
  det     : Bool
  half    : Bool
  size    : Nat
  ranges  : Nat
  image   : List (Nat × Byte)
  dataMsg : Option (BitVec 32)
  trailMsg : Option (BitVec 32)
  deriving DecidableEq, Repr

/-- A RESTORE in progress (R426): its mailbox, its snapshot and source, the slots that a Duplicate has still to bring and
the bytes it has brought (`bad` when a slot came poisoned), whether SLOT named a snapshot without trailer, whether the
job has been started and waits for the replayed step, and the Welts realigned. -/
structure Restore where
  mb     : Fin 16
  snap   : Snapshot
  source : Nat
  left   : List Nat
  got    : List (Nat × Byte)
  bad    : Bool
  bare   : Bool
  replay : Bool
  realigned : Nat
  deriving DecidableEq, Repr

/-- A job's snapshot configuration and progress (R420, R421); `job` is 0 once the job has ended. `done` holds the
committed snapshots, newest first, and `kept` one that a layer confirmed without its commit (R424). `arrived` are the
STEPENDs that wait, and `devOver` says that the device score is over the job's HTHR (R415). -/
structure SnapCfg where
  job     : BitVec 6
  imageId : BitVec 64
  payload : List Byte
  layers  : BitVec 3
  commit  : BitVec 3
  steps   : BitVec 32
  ms      : BitVec 32
  hthr    : BitVec 8
  tol     : BitVec 32
  stage   : Nat
  stageLen : Nat
  ranges  : List (Nat × Nat)
  armed   : Bool
  nowDue  : Bool
  since   : Nat
  sinceNs : Nat
  flying  : Option Snapshot
  done    : List Snapshot
  kept    : Option Snapshot
  nextId  : BitVec 32
  arrived : List (CoreId × List Byte)
  restore : Option Restore
  devOver : Bool
  deriving DecidableEq, Repr

/-- Health, pairing and snapshots (R409 to R429): the caps and scores, the thresholds each core and the device is over,
and what the partner of the pairing said. -/
structure Resil where
  caps      : Vector (BitVec 8) 6
  scores    : Vector (BitVec 8) 12
  devScore  : BitVec 8
  edgePts   : BitVec 8
  healthGen : BitVec 32
  overs      : Vector (BitVec 3) 13
  snaps     : List SnapCfg
  sharedFeed : Bool
  peerFeed  : BitVec 64
  peerSerial : List Byte
  peerLen   : Nat
  deriving DecidableEq, Repr

/-- A performance counter and its control (R432, R433, Table 18-8). -/
structure Counter where
  count : BitVec 48
  ovf   : Bool
  mode  : Bool
  filt  : BitVec 3
  delta : Bool
  rclr  : Bool
  deriving DecidableEq, Repr

/-- A filter set (R434). -/
structure Filter where
  a  : BitVec 64
  lo : BitVec 64
  hi : BitVec 64
  deriving DecidableEq, Repr

/-- The performance monitor (R430 to R446). `ledSince` counts the latches skipped since the last record, `changed` that the
period changed since then, and `writing` is the record being written: its address and its header. -/
structure Pmu where
  ledEn    : Bool
  period   : BitVec 30
  ledBase  : BitVec 32
  ledRecs  : BitVec 16
  ledHead  : BitVec 64
  ledSkip  : BitVec 32
  ledSince : BitVec 32
  changed  : Bool
  writing  : Option (Nat × List Byte)
  slipBase : BitVec 32
  slipRecs : BitVec 16
  slipHead : BitVec 64
  slipSkip : BitVec 32
  slipFilt : BitVec 32
  slipCtrl : Vector (BitVec 64) 12
  filters  : Vector Filter 7
  clsel    : Vector (BitVec 3) 16
  counters : SMap Counter
  deriving DecidableEq, Repr

/-- Board pins the model follows (R301, R381, R454, R455). -/
structure Pins where
  perst   : Bool
  ownclrLow : Bool
  modeselHigh : Bool
  deriving DecidableEq, Repr

end Sys2Proof.Machine
end

