-- ==== Sys2Proof/Machine/State.lean ====
section
/-!
DEFINITION. The state of the block, the reasons a step can stop, and the state right after reset. Reset is power-off
with PERST# asserted (R381): every register at the value its table gives for reset. Values fused per part or set per
board are DESIGN CHOICES of log 7 (flash contents log 8, registers without a reset value log 9).
-/
namespace Sys2Proof.Machine

/-- The whole machine. `mem` lists the bytes that differ from 0 by device address, addresses strictly rising; `full`
and `poison` list slot numbers (device address / 64) in rising order: the full/empty tags of Stacks (R49) and the
poison of Stacks and memory slots (R64, R254). `pending` is the queue of waiting commands and `openCtr` counts the
free values taken; both are the model's own. -/
structure State where
  cores   : Vector CoreState 12
  mem     : List Host.Cell
  full    : List Nat
  poison  : List Nat
  lacing  : Lacing
  tiers   : Tiers
  pcie    : Pcie
  vault   : Vault
  eyes    : Eyes
  sites   : Vector Site 16
  reg     : Registrar
  power   : Power
  clock   : Clock
  thermal : Thermal
  flash   : Flash
  agents  : Vector Agent 440
  resil   : Resil
  pmu     : Pmu
  pins    : Pins
  pending : List Instr
  openCtr : Nat
  deriving DecidableEq, Repr

/-- Why the machine stops with a fault. -/
inductive Fault where
  /-- RAIL_OUT_OF_RANGE beyond the absolute maximum ratings (R457): the spec gives no effect but possible damage.
  Raised by execRailOutOfRange only. Safe: the model stops where the part may be damaged. -/
  | absoluteMaximum
  deriving DecidableEq, Repr

/-- Why a command has no meaning in the model. -/
inductive Refusal where
  /-- A command the model gives no meaning, by its mnemonic. Raised by a refused arm of exec only. Safe: the model
  stops. -/
  | notModelled (mnemonic : String)
  deriving DecidableEq, Repr

/-- HALT CODE 0xFFFF, which fills IMEM that no code was loaded into (R318; at reset log 9). -/
def haltFill : Word128 := 0x0100000000000000000000000000FFFF#128

/-- A sequencer at reset (Table 02-9, Table 02-2, R225). -/
def SeqState.init : SeqState where
  pc := 0
  half := false
  st := .halted
  altReady := false
  lastOpc := 0
  fault := 0
  imem0 := []
  imem1 := []
  desc := []
  loops := []
  infl := []
  writes := []
  pendFault := 0
  ran := false
  dormant := false
  ended := false
  haltCode := 0
  credit1 := 16
  credit3 := 32

/-- A Carrel that has never been opened (R77, R78). -/
def Carrel.init : Carrel where
  opened := false
  tmreq := 0
  job := 0
  hostMask := 0
  base := 0
  length := 0
  jobMask := 0
  coreMask := 0
  eys := 0
  eysEn := false
  filled := 0
  consumed := 0
  drops := 0
  denied := 0
  openSeq := 0
  owner := 0

/-- A mirror entry of a Carrel never opened. -/
def MirrorEntry.init : MirrorEntry where
  filled := 0
  consumed := 0
  drops := 0
  denied := 0
  state := 0

/-- The standard default frame table (Table 03-5). -/
def defaultFrame : BitVec 32 := 0x87693210#32

/-- Stacks at reset (Tables 03-14 to 03-16). -/
def StkState.init : StkState where
  insvc := 0xFFFFF
  retirePend := 0
  spareC0 := 16
  spareC1 := 16
  repairPend := []
  repaired := []
  tagTmoUs := 0x2710
  periodH := 4
  passes := 0
  patrolAt := 0
  ce := 0
  ue := 0
  logSa := 0
  logBank := 0
  logUe := false
  logValid := false
  hwm := 0
  bp := false
  scrub := 0
  hold := false
  frames := Vector.replicate 8 defaultFrame
  carrels := Vector.replicate 64 Carrel.init
  mirror := Vector.replicate 64 MirrorEntry.init
  remote := []
  fixups := []
  ceTimes := []
  ueSlots := []
  dmaTurn := []

/-- An empty weight plane (R99). -/
def Plane.init : Plane where
  serial := 0
  fmt := 0
  sp := 0
  words := []
  side := []
  blocks := []
  kstripes := 0
  violated := []
  passes := 0
  waits := false

/-- A Last at reset: shape 1 x 1, both planes empty, unpaired (R99); accumulators +0 (log 9). -/
def LastState.init : LastState where
  shape := 0
  opSeq := 0
  serial := 0
  cur := false
  curLoad := 0
  curFmt := 0
  curSp := 0
  newFmt := 0
  newSp := 0
  swapped := true
  p0 := Plane.init
  p1 := Plane.init
  loadQ := []
  streamQ := []
  arr := []
  drainQ := []
  acc := []
  paired := false
  follower := false
  pairWait := false
  resCnt := 0
  resLog := 0
  dupCnt := 0
  dupLog := 0
  inj := 0
  fallback := false
  spCnt := 0
  spLog := 0
  fbCnt := 0
  plan := none
  empties := 0
  gathered := 0
  short := 0
  misTimes := []
  suspect := false

/-- A Welt at reset (Table 07-7); cache and key 0 (log 9). -/
def WeltState.init : WeltState where
  ssw := 0xFFFF0000
  sswOr := 0
  step := 0
  pos := 0
  carry := none
  elems := 0
  stall := 0
  cce := 0
  cue := 0
  spSeg := 0xF
  permSegs := []
  selGroups := 0
  selMasks := 0
  shRun := 0
  shSkip := 0
  cache := []
  cpoison := []
  ceTimes := []
  ueLines := []
  key := 0
  suspect := false

/-- The Awl at reset (Table 06-10); vector store 0 (log 9). -/
def AwlState.init : AwlState where
  vregs := []
  lens := Vector.replicate 32 0
  mask := 0
  pos := Vector.replicate 32 0
  lines := 0
  stall := 0
  latch := false
  fallback := false
  spCnt := 0
  spLog := 0
  fbCnt := 0
  redo := []
  suspect := false

/-- The numeric block at reset (Table 08-7). -/
def NumState.init : NumState where
  rate := 0x0A
  hardBin := 0xF
  softBin := 0xE
  softLim := 0x08
  hardKill := false
  det := false
  keyed := false
  keyFp := 0
  soft := 0
  hard := 0
  softNew := false
  hardNew := false
  log := 0
  bins := Vector.replicate 16 0
  window := []
  hardTimes := []
  softTimes := []

/-- A core at reset (Tables 02-7, 02-8): STATE reads RESET, no job, both clusters gated. -/
def CoreState.init : CoreState where
  st := .reset
  jobId := 0
  fenced := false
  seqRun := 0
  seqErr := 0
  saved := 0
  clGate := 3
  ungating := 0
  frameSel := 0
  framePend := none
  cycles := 0
  seqs := Vector.replicate 16 SeqState.init
  stk := StkState.init
  lasts := Vector.replicate 4 LastState.init
  welts := Vector.replicate 2 WeltState.init
  awl := AwlState.init
  num := NumState.init
  arrivals := []
  barrier := none
  nextTag := 0
  txns := []
  quarantine := []
  sets := 0

/-- A direction of a link at reset (Table 09-7): 16 laces active, none retired. -/
def LinkDir.init : LinkDir where
  active := 0xFFFF
  retired := 0
  training := []
  retrain := none
  replays := []
  errTimes := []

/-- A link at reset (Table 09-7). -/
def Link.init : Link where
  failed := false
  bypass := false
  a := LinkDir.init
  b := LinkDir.init
  modules := 3
  replays := 0
  retires := 0
  ctrl := 0

/-- Lacing at reset (Table 09-7); DIST 0 (R22). -/
def Lacing.init : Lacing where
  arb := 0x844
  errThr := 0x810
  hopPs := 0x04B0
  bndPs := 0x0640
  late := 0
  nodes := Vector.replicate 15 0
  links := ((Vector.replicate 23 Link.init).set 18 { Link.init with modules := 2 }).set 21 { Link.init with modules := 2 }
  ft := []
  flight := []
  vlacMv := 0
  tlacQ := 0
  distHop := 0
  distBnd := 0
  distGen := 0
  distEpoch := 0
  dist := []
  retrainTimes := []

/-- An HBM region at reset (Table 10-12): 64 live PCs. -/
def Region.init : Region where
  state := 0
  live := BitVec.allOnes 64
  pend := 0
  invalid := false

/-- An HBM stack at reset (Table 10-12). -/
def Stack.init : Stack where
  ce := 0
  ue := 0
  ceDie := 0
  ppr := 0
  temp := 0
  hot := false
  retrain := none
  lanes := 0
  drops := 0

/-- An LPDDR5X channel at reset (Table 10-12; STATE per board, log 7). -/
def Channel.init : Channel where
  ce := 0
  ue := 0
  linkCe := 0
  drops := 0
  state := 0
  invalid := false
  refRate := 0

/-- The memory tiers at reset (Table 10-12; rates and population log 7). -/
def Tiers.init : Tiers where
  mbps := 9600
  ageUs := 4
  pcRows := 8
  trainFail := 2
  periodH := 0x18
  passes := 0
  lpMts := 10667
  present := 0xFFFF
  gib := 128
  errLog := 0
  errAddr := 0
  ctrl := 0
  regions := Vector.replicate 8 Region.init
  stackList := Vector.replicate 16 Stack.init
  chans := Vector.replicate 16 Channel.init
  queue := []
  nextReq := 0
  ueSlots := []
  ceRows := []
  permRows := []
  hpprRows := []
  trainFails := []
  requestFails := []
  ceTimes := []
  patrolAt := 0

/-- A PCIe function at reset (Table 11-10). -/
def PcieFn.init : PcieFn where
  enabled := false
  d3hot := false
  msixEn := false
  msixMask := false
  apBase := 0
  apLog2 := 0
  table := []
  pba := 0

/-- The host port at reset (Table 11-10). -/
def Pcie.init : Pcie where
  up := false
  speed := 0
  width := 0
  flit := false
  ready := false
  corr := 0
  uncorr := 0
  apDeny := 0
  fns := Vector.replicate 9 PcieFn.init
  irqs := []
  waiting := []
  completions := []
  upstream := []
  doe := []

/-- The vault port at reset (Table 11-10): ABSENT. -/
def Vault.init : Vault where
  state := 0
  speed := 0
  timeouts := 0
  resets := []
  cmds := []
  nextCmd := 0
  wcache := true

/-- An Eyelet at reset (Table 11-10); UDP port 49,801 (R276). -/
def EyePort.init : EyePort where
  mode := 0
  state := 0
  downs := 0
  downTimes := []
  corr := 0
  uncorr := 0
  dscp := 0
  pfc := 0
  paused := false
  udp := 49801
  addr := 0
  discards := 0
  configured := false

/-- The Eyelets at reset (Table 11-10). -/
def Eyes.init : Eyes where
  thr := 0x00326404
  lost := 0
  ports := Vector.replicate 8 EyePort.init
  sessions := []
  dropped := 0
  out := []
  frames := []

/-- A UCIe site at reset (Table 11-10): DOWN. -/
def Site.init : Site where
  state := 0
  rate := 0
  x32 := false
  role := 0
  repaired := 0
  retry := 0
  down := 0
  rsp := 0
  prov := []
  tries := 0
  downBoots := 0

/-- A mailbox at reset (Table 12-2), held by the PF. -/
def Mailbox.init : Mailbox where
  own := false
  cancel := false
  expert := false
  phase := 0
  progress := 0
  code := 0
  plen := 0
  seq := 0
  status := 0
  rlen := 0
  counter := 0
  check := []
  rsize := 0
  payload := []
  fn := 0
  result := none
  waiting := false
  aband := false
  order := 0

/-- The Registrar at reset: BOOTING, UNOWNED, no record, no job; the first job ID is 1 (log 14). -/
def Registrar.init : Registrar where
  devState := 0
  bootCount := 0
  time := 0
  invGen := 0
  errNext := 0
  ownerState := 0
  key := []
  newKey := none
  lastCtr := 0
  ctrHigh := 0
  fails := 0
  locks := []
  clrBoots := 0
  mailboxes := Vector.replicate 16 Mailbox.init
  accepted := 0
  ring := []
  acked := 0
  journal := []
  errLost := 0
  jobs := []
  nextJob := 1
  grants := Vector.replicate 9 none
  cores := Vector.replicate 4 true
  dbgCores := 0
  dbgRights := 0
  dbgUntil := 0
  tapUsed := false
  resetDue := false
  renumber := false
  fieldOf := #v[0, 1, 2, 3, 4, 5, 6, 7, 8, 9, 10, 11]

/-- A power domain at reset (Table 14-5): OFF, clamps closed. -/
def PowerDomain.init : PowerDomain where
  state := 0
  clamp := true
  mv := 0
  ampsD := 0
  trips := 0
  latched := false

/-- A feed group at reset (Table 14-5). -/
def FeedGroup.init : FeedGroup where
  ampsD := 0
  senseMv := 0
  expD := 0
  suspect := false
  fault := false

/-- A VF point k of a part fused at 1,500 MHz (log 7): 600 + 60 k MHz at 650 + 10 k mV. -/
def VfPoint.init (k : Nat) : VfPoint where
  mhz := BitVec.ofNat 11 (600 + 60 * k)
  valid := true
  fused := BitVec.ofNat 10 (650 + 10 * k)
  ageMv := 0
  offMv := 0

/-- A core's power data at reset (Table 14-5; part values log 7). -/
def CorePower.init : CorePower where
  fmax := 1500
  fused := 1500
  ceil := 0x64
  imaxD := 1300
  allowD := 0
  govMhz := 0x7FF
  loweredNs := none
  vf := #v[VfPoint.init 0, VfPoint.init 1, VfPoint.init 2, VfPoint.init 3, VfPoint.init 4, VfPoint.init 5,
    VfPoint.init 6, VfPoint.init 7, VfPoint.init 8, VfPoint.init 9, VfPoint.init 10, VfPoint.init 11,
    VfPoint.init 12, VfPoint.init 13, VfPoint.init 14, VfPoint.init 15]

/-- Power delivery at reset, native mode (Table 14-5; MODE log 7). -/
def Power.init : Power where
  compat := false
  sustW := 0xAF0
  peakW := 0xD48
  nowW := 0
  avgW := 0
  instW := 0
  slope := 8
  lead := 0x14
  notices := 0
  pwrFault := false
  thrSust := false
  thrPeak := false
  feedLost := 0
  fgs := Vector.replicate 6 FeedGroup.init
  doms := Vector.replicate 30 PowerDomain.init
  cores := Vector.replicate 12 CorePower.init
  requests := []
  offs := []
  sent := []
  govNs := none
  raisedNs := none
  compatMv := 0
  hbmPg := Vector.replicate 2 false
  railsBad := false

/-- A clock region at reset (Table 15-6; frequency per part, log 7). -/
def ClockRegion.init (mhz : BitVec 11) : ClockRegion where
  cur := mhz
  rated := mhz
  stopped := false
  goal := mhz
  changedAt := none
  cap := 0
  changes := 0
  margin := 0x7FF
  low := 0x3F
  lowAt := 0
  warnNew := false
  path := 0
  lowLife := 0x3F
  str := 0
  strPs := 0
  strTimes := []
  marginAt := none
  rpCode := []
  rpMin := []
  warnAt := none

/-- The clock block at reset (Table 15-6). Regions 12, 13 and 14 run at 1,000 MHz (log 7). -/
def Clock.init : Clock where
  lock := false
  holdover := false
  losses := 0
  warn := 0x0C
  stretch := 3
  strLim := 0x400
  refOk := false
  mgmtMhz := 1000
  regions := (((Vector.replicate 15 (ClockRegion.init 1500)).set 12 (ClockRegion.init 1000)).set 13
    (ClockRegion.init 1000)).set 14 (ClockRegion.init 1000)

/-- A sensor at reset (Table 15-6). -/
def Sensor.init : Sensor where
  tempQ := 0
  failed := false
  disable := false
  trips := 0

/-- A thermal region at reset (Table 15-6): no thermal limit. -/
def ThermRegion.init : ThermRegion where
  tempQ := 0
  lim := 0x7FF
  crit := false
  steps := 0
  lowered := none
  below := none
  sensors := Vector.replicate 16 Sensor.init

/-- Thermal control at reset (Table 15-6). -/
def Thermal.init : Thermal where
  throttleQ := 0x17C
  hystQ := 0x0C
  hbmLim := 0x5F
  regions := Vector.replicate 15 ThermRegion.init
  raisedAt := none
  tripped := false

/-- The boot flash, fuses and board descriptor of a fresh part (log 8): slot A holds a valid image, slot B none; no
folio, an empty condition report, 16 channels of 128 GiB, native delivery. -/
def Flash.init : Flash where
  slotA := { valid := true, live := false, version := 1, svn := 0 }
  slotB := { valid := false, live := false, version := 0, svn := 0 }
  active := false
  pending := none
  trial := false
  running := 0
  fwCtr := 0
  licCtr := 0
  folio := none
  profile := 1
  licState := 0
  factory := []
  field := []
  gen := 0
  copyOk := true
  prov := []
  feedId := 0
  boardOk := true
  boardCompat := false
  boardMv := 0
  lpMts := 10667
  lpChannels := 0xFFFF
  lpGib := 128
  macBase := 0
  day := 0
  pairing := none

/-- A microcode agent with nothing loaded. -/
def Agent.init : Agent where
  slot := false
  got := []
  parts := []
  rounds := 0
  missing := []
  retired := false

/-- Health, pairing and snapshots at reset: the caps of Table 17-4. -/
def Resil.init : Resil where
  caps := #v[60, 160, 48, 40, 100, 40]
  scores := Vector.replicate 12 0
  devScore := 0
  edgePts := 0
  healthGen := 0
  overs := Vector.replicate 13 0
  snaps := []
  sharedFeed := false
  peerFeed := 0
  peerSerial := []
  peerLen := 0

/-- A counter never configured (Table 18-8). -/
def Counter.init : Counter where
  count := 0
  ovf := false
  mode := false
  filt := 0
  delta := false
  rclr := false

/-- A filter set at reset (Table 18-8). -/
def Filter.init : Filter where
  a := 0x000001FFFFFF0007
  lo := 0
  hi := 0x0000FFFFFFFFFFC0

/-- The performance monitor at reset (Table 18-8). -/
def Pmu.init : Pmu where
  ledEn := false
  period := 0x186A0
  ledBase := 0
  ledRecs := 0
  ledHead := 0
  ledSkip := 0
  ledSince := 0
  changed := false
  writing := none
  slipBase := 0
  slipRecs := 0
  slipHead := 0
  slipSkip := 0
  slipFilt := 0
  slipCtrl := Vector.replicate 12 0x00000000000A0000
  filters := Vector.replicate 7 Filter.init
  clsel := Vector.replicate 16 0
  counters := []

/-- The machine right after reset (log 5): off, PERST# asserted, nothing in memory, no command waiting. -/
def State.reset : State where
  cores := Vector.replicate 12 CoreState.init
  mem := []
  full := []
  poison := []
  lacing := Lacing.init
  tiers := Tiers.init
  pcie := Pcie.init
  vault := Vault.init
  eyes := Eyes.init
  sites := Vector.replicate 16 Site.init
  reg := Registrar.init
  power := Power.init
  clock := Clock.init
  thermal := Thermal.init
  flash := Flash.init
  agents := Vector.replicate 440 Agent.init
  resil := Resil.init
  pmu := Pmu.init
  pins := { perst := true, ownclrLow := false, modeselHigh := false }
  pending := []
  openCtr := 0

end Sys2Proof.Machine
end

