-- ==== Sys2Proof/Machine/Store.lean ====
section
/-!
DEFINITION. The containers of the state: sparse arrays and slot sets in their one canonical form, vectors indexed by
Fin, little-endian byte strings (R10) and bit fields.
-/
namespace Sys2Proof.Machine

/-- Element i of a vector. -/
def vget {α : Type} {n : Nat} (v : Vector α n) (i : Fin n) : α := v[i.val]

/-- The vector with element i replaced. -/
def vset {α : Type} {n : Nat} (v : Vector α n) (i : Fin n) (x : α) : Vector α n := v.set i.val x i.isLt

/-- The vector with element i changed by f. -/
def vmod {α : Type} {n : Nat} (v : Vector α n) (i : Fin n) (f : α → α) : Vector α n := vset v i (f (vget v i))

/-- Entry i of a sparse array whose unlisted entries read d. -/
def smapGet {α : Type} (d : α) : SMap α → Nat → α
  | [], _ => d
  | (k, v) :: t, i => if k = i then v else smapGet d t i

/-- The sparse array with entry i set to x; an entry equal to d is not listed. -/
def smapSet {α : Type} [DecidableEq α] (d : α) : SMap α → Nat → α → SMap α
  | [], i, x => if x = d then [] else [(i, x)]
  | (k, v) :: t, i, x =>
    if i < k then (if x = d then (k, v) :: t else (i, x) :: (k, v) :: t)
    else if i = k then (if x = d then t else (i, x) :: t)
    else (k, v) :: smapSet d t i x

/-- The canonical form from index lo on: indices strictly rising, no entry equal to d. -/
def smapWfFrom {α : Type} [DecidableEq α] (d : α) (lo : Nat) : SMap α → Bool
  | [] => true
  | (k, v) :: t => decide (lo ≤ k) && decide (v ≠ d) && smapWfFrom d (k + 1) t

/-- The canonical form of a sparse array. -/
def smapWf {α : Type} [DecidableEq α] (d : α) (m : SMap α) : Bool := smapWfFrom d 0 m

/-- The set of slot numbers with n added, in rising order. -/
def setAdd : List Nat → Nat → List Nat
  | [], n => [n]
  | k :: t, n => if n < k then n :: k :: t else if n = k then k :: t else k :: setAdd t n

/-- The set without n. -/
def setDel : List Nat → Nat → List Nat
  | [], _ => []
  | k :: t, n => if n = k then t else k :: setDel t n

/-- Rising order from lo on. -/
def setWfFrom (lo : Nat) : List Nat → Bool
  | [] => true
  | k :: t => decide (lo ≤ k) && setWfFrom (k + 1) t

/-- A set of slot numbers in its canonical form. -/
def setWf (l : List Nat) : Bool := setWfFrom 0 l

/-- The set with n present or absent as b says. -/
def setPut (l : List Nat) (n : Nat) (b : Bool) : List Nat := if b then setAdd l n else setDel l n

/-- Memory: bytes by device address; an unlisted byte reads 0 (log 6). -/
def memGet (m : List Host.Cell) (a : Nat) : Byte := smapGet 0 m a

/-- Memory with one byte written. -/
def memSet (m : List Host.Cell) (a : Nat) (b : Byte) : List Host.Cell := smapSet 0 m a b

/-- The canonical form of memory. -/
def Memory.wf (m : List Host.Cell) : Bool := smapWf 0 m

/-- n bytes from address a. -/
def memRead (m : List Host.Cell) (a : Nat) : Nat → List Byte
  | 0 => []
  | n + 1 => memGet m a :: memRead m (a + 1) n

/-- Memory with a byte string written from address a. -/
def memWrite (m : List Host.Cell) (a : Nat) : List Byte → List Host.Cell
  | [] => m
  | b :: t => memWrite (memSet m a b) (a + 1) t

/-- The listed bytes outside addresses a to a+n-1. -/
def memErase (m : List Host.Cell) (a n : Nat) : List Host.Cell :=
  m.filter fun c => decide (c.1 < a) || decide (a + n ≤ c.1)

/-- The slot numbers outside slots a to a+n-1. -/
def setErase (l : List Nat) (a n : Nat) : List Nat := l.filter fun k => decide (k < a) || decide (a + n ≤ k)

/-- The number a little-endian byte string spells (R10). -/
def leNat : List Byte → Nat
  | [] => 0
  | b :: t => b.toNat + 256 * leNat t

/-- n bytes of a number, little-endian. -/
def leBytes : Nat → Nat → List Byte
  | 0, _ => []
  | n + 1, v => BitVec.ofNat 8 v :: leBytes n (v / 256)

/-- n bytes of a number, big-endian. -/
def beBytes (n v : Nat) : List Byte := (leBytes n v).reverse

/-- Bits [lo+n-1:lo] as a number. -/
def fld {w : Nat} (x : BitVec w) (lo n : Nat) : Nat := (x.extractLsb' lo n).toNat

/-- Bit i. -/
def bit {w : Nat} (x : BitVec w) (i : Nat) : Bool := x.getLsbD i

/-- x with bit i set to b. -/
def setBit {w : Nat} (x : BitVec w) (i : Nat) (b : Bool) : BitVec w :=
  if b then x ||| BitVec.ofNat w (2 ^ i) else x &&& ~~~ BitVec.ofNat w (2 ^ i)

/-- The number of set bits. -/
def popcount {w : Nat} (x : BitVec w) : Nat := ((List.range w).filter fun i => x.getLsbD i).length

/-- The set bits in rising order. -/
def bitList {w : Nat} (x : BitVec w) : List Nat := (List.range w).filter fun i => x.getLsbD i

/-- 1 or 0. -/
def b2n (b : Bool) : Nat := if b then 1 else 0

/-- Addition that saturates at all ones ("saturates" of the register tables). -/
def satAdd {w : Nat} (x : BitVec w) (n : Nat) : BitVec w :=
  if x.toNat + n < 2 ^ w then BitVec.ofNat w (x.toNat + n) else BitVec.allOnes w

/-- A value clamped to lo..hi ("other values read as the nearest limit"). -/
def clampNat (lo hi v : Nat) : Nat := if v < lo then lo else if hi < v then hi else v

/-- Bytes off to off+n-1 of a list, missing bytes 0. -/
def slice (l : List Byte) (off n : Nat) : List Byte :=
  let t := (l.drop off).take n
  t ++ List.replicate (n - t.length) 0

/-- A list with the bytes at off replaced. -/
def patch (l : List Byte) (off : Nat) (x : List Byte) : List Byte := l.take off ++ x ++ l.drop (off + x.length)

/-- A number from a slice, little-endian. -/
def leAt (l : List Byte) (off n : Nat) : Nat := leNat (slice l off n)

/-- Lists cut into pieces of n. -/
def chunks {α : Type} (n : Nat) : Nat → List α → List (List α)
  | 0, _ => []
  | k + 1, l => if l.isEmpty || n == 0 then [] else l.take n :: chunks n k (l.drop n)

/-- A list cut into as many pieces of n as it needs. -/
def chunk {α : Type} (n : Nat) (l : List α) : List (List α) := chunks n l.length l

/-- Ceiling division. -/
def cdiv (a b : Nat) : Nat := (a + b - 1) / b

/-- Bits of a byte string, least significant bit of byte 0 first, as one number: bits [pos+n-1:pos]. -/
def bitsAt (l : List Byte) (pos n : Nat) : Nat :=
  (leNat (slice l (pos / 8) ((pos % 8 + n + 7) / 8)) / 2 ^ (pos % 8)) % 2 ^ n

/-- The list with element i changed. -/
def lmod {α : Type} : List α → Nat → (α → α) → List α
  | [], _, _ => []
  | x :: t, 0, f => f x :: t
  | x :: t, n + 1, f => x :: lmod t n f

/-- Every index of a Fin type. -/
def allFin (n : Nat) : List (Fin n) := List.finRange n

end Sys2Proof.Machine
end

