-- ==== Sys2Proof/Machine/Ops.lean ====
section
/-!
DEFINITION. The named operations every family shares: reading and changing one core, sequencer or job; free values;
MSI-X messages and error records (R270, R311, R312); the fault of a sequencer (R41) and the first step of a kill
(R334); device time on an empty queue (log 2).
-/
namespace Sys2Proof.Machine

/-- The outcome type of every command. -/
abbrev Out := Host.Outcome State Fault Refusal

/-- Core c. -/
def getCore (s : State) (c : CoreId) : CoreState := vget s.cores c

/-- The state with core c changed. -/
def modCore (s : State) (c : CoreId) (f : CoreState → CoreState) : State := { s with cores := vmod s.cores c f }

/-- Sequencer q of core c. -/
def getSeq (s : State) (c : CoreId) (q : SeqId) : SeqState := vget (getCore s c).seqs q

/-- The state with sequencer q of core c changed. -/
def modSeq (s : State) (c : CoreId) (q : SeqId) (f : SeqState → SeqState) : State :=
  modCore s c fun k => { k with seqs := vmod k.seqs q f }

/-- The state with the Stacks of core c changed. -/
def modStk (s : State) (c : CoreId) (f : StkState → StkState) : State :=
  modCore s c fun k => { k with stk := f k.stk }

/-- Last l of core c. -/
def getLast (s : State) (c : CoreId) (l : Fin 4) : LastState := vget (getCore s c).lasts l

/-- The state with Last l of core c changed. -/
def modLast (s : State) (c : CoreId) (l : Fin 4) (f : LastState → LastState) : State :=
  modCore s c fun k => { k with lasts := vmod k.lasts l f }

/-- Welt w of core c. -/
def getWelt (s : State) (c : CoreId) (w : Fin 2) : WeltState := vget (getCore s c).welts w

/-- The state with Welt w of core c changed. -/
def modWelt (s : State) (c : CoreId) (w : Fin 2) (f : WeltState → WeltState) : State :=
  modCore s c fun k => { k with welts := vmod k.welts w f }

/-- The state with the Awl of core c changed. -/
def modAwl (s : State) (c : CoreId) (f : AwlState → AwlState) : State :=
  modCore s c fun k => { k with awl := f k.awl }

/-- The state with the Registrar changed. -/
def modReg (s : State) (f : Registrar → Registrar) : State := { s with reg := f s.reg }

/-- The state with the flash changed. -/
def modFlash (s : State) (f : Flash → Flash) : State := { s with flash := f s.flash }

/-- A number as a core, reduced modulo 12. -/
def coreOf (n : Nat) : CoreId := ⟨n % 12, Nat.mod_lt _ (by decide)⟩

/-- A number as a sequencer, reduced modulo 16. -/
def seqOf (n : Nat) : SeqId := ⟨n % 16, Nat.mod_lt _ (by decide)⟩

/-- A number below n as an index, reduced modulo n. -/
def finOf (n : Nat) (h : 0 < n) (k : Nat) : Fin n := ⟨k % n, Nat.mod_lt _ h⟩

/-- The sequencer of Last l. -/
def lastSeq (l : Fin 4) : SeqId := seqOf l.val

/-- The sequencer of Welt w. -/
def weltSeq (w : Fin 2) : SeqId := seqOf (4 + w.val)

/-- The sequencer of DMA d. -/
def dmaSeq (d : Fin 8) : SeqId := seqOf (7 + d.val)

/-- The sequencer of the Awl. -/
def awlSeq : SeqId := 6

/-- The sequencer of the core controller. -/
def ccSeq : SeqId := 15

/-- The next free value, and the state with it taken (log 10, log 12). -/
def takeFree (s : State) : BitVec 64 × State := (Config.freeValue s.openCtr, { s with openCtr := s.openCtr + 1 })

/-- The job with ID j. -/
def findJob (s : State) (j : BitVec 6) : Option Job := s.reg.jobs.find? fun x => x.id == j

/-- The state with job j changed. -/
def modJob (s : State) (j : BitVec 6) (f : Job → Job) : State :=
  modReg s fun r => { r with jobs := r.jobs.map fun x => if x.id = j then f x else x }

/-- The job that holds core c. -/
def jobOn (s : State) (c : CoreId) : Option Job :=
  if (getCore s c).jobId = 0 then none else findJob s (getCore s c).jobId

/-- 64 MiB, the bytes of one bank set (R49). -/
def setBytes : Nat := 0x4000000

/-- STK_SIZE of core c: its in-service sets times 64 MiB (R51). -/
def stkSize (s : State) (c : CoreId) : Nat := popcount (getCore s c).stk.insvc * setBytes

/-- The device address of local byte SA of core c (R34). -/
def stacksAddr (c : CoreId) (sa : Nat) : Nat := 0x080000000000 + c.val * 0x80000000 + sa

/-- The slot number of local byte SA of core c: its device address over 64. -/
def slotOf (c : CoreId) (sa : Nat) : Nat := stacksAddr c sa / 64

/-- The physical set of window set w: the w-th in-service set (R50). -/
def setOfWindow (k : StkState) (w : Nat) : Nat := (bitList k.insvc).getD w 20

/-- The logical bank of local byte SA (Table 03-2). -/
def bankOf (s : State) (c : CoreId) (sa : Nat) : Nat :=
  32 * setOfWindow (getCore s c).stk (sa / setBytes) + sa / 64 % 32

/-- One mark per interrupt or completion the host sees: INV_GEN counts every change that INVENTORY reports (R289). -/
def bumpGen (s : State) : State := modReg s fun r => { r with invGen := r.invGen + 1 }

/-- The interrupt is masked: the function's mask, or the mask bit of the vector's table entry. -/
def msixMasked (f : PcieFn) (v : Nat) : Bool := f.msixMask || bit (smapGet 0 f.table (16 * v + 12)) 0

/-- Vector v of function fn is raised (R270): sent when enabled and unmasked, left pending when masked; while the
link is down it waits (R271). -/
def raiseVec (s : State) (fn : Fin 9) (v : Nat) : State :=
  let f := vget s.pcie.fns fn
  if !f.msixEn then s
  else if msixMasked f v then
    { s with pcie := { s.pcie with fns := vmod s.pcie.fns fn fun g => { g with pba := setBit g.pba v true } } }
  else if s.pcie.up then { s with pcie := { s.pcie with irqs := s.pcie.irqs ++ [(fn, v)] } }
  else { s with pcie := { s.pcie with waiting := s.pcie.waiting ++ [(fn, v)] } }

/-- A change that INVENTORY reports: INV_GEN rises and vector 16 of the PF signals it (R270, R289). -/
def noted (s : State) : State := raiseVec (bumpGen s) 0 16

/-- The thermal region in which a unit lies: its core, the edge die of a channel or port, else the management
region. -/
def unitRegion (kind core index : Nat) : Fin 15 :=
  if core < 12 then finOf 15 (by decide) core
  else if kind = 9 then (if index % 256 < 8 then 12 else 13)
  else if kind = 10 then (if index / 256 = 2 then 13 else if index / 256 < 2 then 12 else 14)
  else 14

/-- The field of core c (R394: domains, routers and links are never renumbered). -/
def fieldOf (s : State) (c : CoreId) : CoreId := vget s.reg.fieldOf c

/-- The compute domain of core c (Table 14-1). -/
def coreDomain (s : State) (c : CoreId) : Fin 30 := finOf 30 (by decide) (fieldOf s c).val

/-- The Stacks domain of core c (Table 14-1). -/
def stkDomain (s : State) (c : CoreId) : Fin 30 := finOf 30 (by decide) (12 + (fieldOf s c).val)

/-- The router of core c, as a node of Table 09-1. -/
def routerOf (s : State) (c : CoreId) : Fin 15 := finOf 15 (by decide) (fieldOf s c).val

/-- The power domain that supplies a unit. -/
def unitDomain (s : State) (kind core index : Nat) : Fin 30 :=
  if kind = 11 ∧ index < 30 then finOf 30 (by decide) index
  else if kind = 5 ∧ core < 12 then stkDomain s (coreOf core)
  else if core < 12 then coreDomain s (coreOf core)
  else if kind = 6 ∨ kind = 7 then 24
  else if kind = 8 then (if index % 256 < 8 then 26 else 27)
  else if kind = 9 then (if index % 256 < 8 then 28 else 29)
  else if kind = 10 then (if index / 256 = 2 then 29 else if index / 256 < 2 then 28 else 24)
  else 25

/-- An error record about a unit before it gets its SEQ (Table 12-9). `core` 15 is none. -/
def recOf (s : State) (kind core index : Nat) (cls sev : BitVec 8) (code : BitVec 16) : ErrRec where
  seq := 0
  time := s.reg.time
  addr := 0
  unit := BitVec.ofNat 32 (kind * 2 ^ 28 + core * 2 ^ 24 + index % 2 ^ 24)
  op := 0
  job := 0
  cls := cls
  sev := sev
  flags := 0
  code := code
  tempQ := (vget s.thermal.regions (unitRegion kind core index)).tempQ
  voltMv := ((vget s.power.doms (unitDomain s kind core index)).mv).setWidth 16
  detail := []

/-- The last n elements of a list. -/
def lastN {α : Type} (n : Nat) (l : List α) : List α := l.drop (l.length - n)

/-- Writing an error record (R311, R312): it takes its SEQ, enters the ring of 4,096 (overwriting the oldest, which
counts in ERR_LOST when it was pending), the journal when ERROR or FATAL, and is announced on vector 16 of the PF
and vector 3 of its job's VF. -/
def writeRecord (s : State) (r : ErrRec) : State :=
  let seq := BitVec.ofNat 64 ((s.reg.bootCount.toNat % 65536) * 2 ^ 48 + s.reg.errNext.toNat)
  let r := { r with seq := seq, detail := slice r.detail 0 20 }
  let lost : Nat := match s.reg.ring with
    | h :: _ => if 4096 ≤ s.reg.ring.length ∧ s.reg.acked.toNat ≤ h.seq.toNat then 1 else 0
    | [] => 0
  let s := modReg s fun g => { g with
    errNext := g.errNext + 1
    ring := lastN 4096 (g.ring ++ [r])
    errLost := g.errLost + BitVec.ofNat 32 lost
    journal := if 2 ≤ r.sev.toNat then lastN 256 (g.journal ++ [r]) else g.journal }
  let s := noted s
  match findJob s (r.job.setWidth 6) with
  | some j => if r.job ≠ 0 ∧ j.func ≠ 0 then raiseVec s j.func 3 else s
  | none => s

/-- The code of JOB_SQ_STAT.STATE (Table 02-9). -/
def SqState.code : SqState → Nat
  | .halted => 0
  | .issuing => 1
  | .waitTag => 2
  | .waitCredit => 3
  | .waitDrain => 4
  | .waitBarrier => 5
  | .waitImem => 6
  | .fault => 7

/-- The code of JOB_CORE_STATE.STATE (Table 02-7). -/
def CoreSt.code : CoreSt → Nat
  | .off => 0
  | .reset => 1
  | .idle => 2
  | .loaded => 3
  | .running => 4
  | .paused => 5
  | .scrub => 6
  | .lost => 7

/-- DETAIL of class JOB (Table 17-2): PC, HALF, SQ_STATE, PLACE and IMAGE_ID. -/
def jobDetail (q : Option SeqState) (j : Job) : List Byte :=
  (match q with
    | some q => leBytes 2 q.pc ++ leBytes 1 (b2n q.half) ++ leBytes 1 q.st.code
    | none => [0, 0, 0, 0]) ++ leBytes 1 j.place.toNat ++ [0, 0, 0] ++ leBytes 8 j.imageId.toNat

/-- A debug unlock in force covers core c with RIGHTS bit 0: a killed job's sets go to HOLD (R79, R304). -/
def holdsSets (s : State) (c : CoreId) : Bool :=
  bit s.reg.dbgRights 0 && bit s.reg.dbgCores c.val && decide (s.reg.time.toNat < s.reg.dbgUntil)

/-- The cores of a job that a debug unlock covers now. -/
def heldCores (s : State) (l : List CoreId) : List CoreId := l.filter (holdsSets s)

/-- The bytes and poison of device memory from a to a+n-1 are gone. -/
def loseBytes (s : State) (a n : Nat) : State :=
  { s with mem := memErase s.mem a n, full := setErase s.full (a / 64) (n / 64), poison := setErase s.poison (a / 64) (n / 64) }

/-- The RESTOREs of the configurations that `hit` names end with a status (R426). -/
def dropRestore (s : State) (hit : SnapCfg → Bool) (st : BitVec 16) : State :=
  let s := (s.resil.snaps.filter hit).foldl (fun s c => match c.restore with
    | some r => modReg s fun g => { g with mailboxes := vmod g.mailboxes r.mb fun m => { m with result := some (st, [], 0) } }
    | none => s) s
  { s with resil := { s.resil with snaps := s.resil.snaps.map fun c => if hit c then { c with restore := none } else c } }

/-- The uncommitted snapshot of a configuration is given up; a layer keeps what it has confirmed (R424). -/
def SnapCfg.stopped (c : SnapCfg) : SnapCfg :=
  { c with
    flying := none
    kept := match c.flying with
      | some f => if f.data = 0 then c.kept else some f
      | none => c.kept }

/-- The job ends: its streams stop at once, and its RESTORE with them (R424). -/
def stopSnaps (s : State) (id : BitVec 6) : State :=
  let s := dropRestore s (fun c => c.job == id) 21
  { s with resil := { s.resil with snaps := s.resil.snaps.map fun c =>
      if c.job = id then { c.stopped with job := 0, arrived := [], armed := false, nowDue := false } else c } }

/-- The kill of job j, step 1 of R334: every sequencer of the job stops issuing, the job reads SCRUB, and the record
of class JOB is written; a later cause of the same kill writes its own record with FLAGS bit 2 clear (R335). `unit`
is the record's KIND, core and INDEX, `op` its OP. -/
def killJob (s : State) (id : BitVec 6) (code : BitVec 16) (op : BitVec 16) (unit : Nat × Nat × Nat)
    (q : Option SeqState) : State :=
  match findJob s id with
  | none => s
  | some j =>
    let r := { recOf s unit.1 unit.2.1 unit.2.2 0x05 (if j.killed then 2 else 3) code with
      op := op, job := id.setWidth 8, detail := jobDetail q j, flags := if j.killed then 0 else 4 }
    if j.killed then writeRecord s r
    else
      let s := j.cores.foldl (fun s c => modCore s c fun k =>
        { k with st := if k.st = .lost then .lost else .scrub, seqRun := 0, saved := 0 }) s
      let s := modJob s id fun x =>
        { x with
          state := 6, killed := true, normal := false, draining := true, lastFault := code.setWidth 8
          hold := heldCores s x.cores }
      writeRecord (stopSnaps s id) r

/-- The class of the record a faulting sequencer writes first (R407): SPARSE for the codes of Table 05-5, NUMERIC for
SHDW_ALARM, COMPUTE for the other faults of a Last, Welt or Awl, JOB for a DMA sequencer or the core controller
(log 16). -/
def faultClass (q : SeqId) (code : BitVec 16) : BitVec 8 :=
  if 7 ≤ q.val then 5
  else if 0x20 ≤ code.toNat ∧ code.toNat ≤ 0x23 then 3
  else if (q = 4 ∨ q = 5) ∧ code = 0x17 then 4
  else 2

/-- DETAIL of a faulting sequencer's first record (Table 17-2). -/
def faultDetail (s : State) (c : CoreId) (q : SeqId) (j : Job) (cls : BitVec 8) : List Byte :=
  let k := getCore s c
  if cls = 3 then
    (if h : q.val < 4 then
      let l := vget k.lasts ⟨q.val, h⟩
      leBytes 8 l.spLog.toNat ++ leBytes 4 l.fbCnt.toNat
    else leBytes 8 k.awl.spLog.toNat ++ leBytes 4 k.awl.fbCnt.toNat)
  else if cls = 4 then leBytes 8 k.num.log.toNat ++ leBytes 2 (k.num.window.foldl (· + ·) 0)
  else if cls = 5 then jobDetail (some (getSeq s c q)) j
  else []

/-- The unit that a sequencer's engine is: a Last, Welt, the Awl, or the sequencer itself (Table 12-10). -/
def engineUnit (q : SeqId) : Nat × Nat :=
  if q.val < 4 then (1, q.val) else if q.val < 6 then (2, q.val - 4) else if q.val = 6 then (3, 0) else (4, q.val)

/-- The records of a fault of sequencer q (R407): first the unit's, then, with the kill of the job, the JOB record. -/
def faultRecords (s : State) (c : CoreId) (q : SeqId) (opc : BitVec 8) (code : BitVec 16) : State :=
  let op := BitVec.ofNat 16 (opc.toNat + 256 * q.val)
  match jobOn s c with
  | none => s
  | some j =>
    let cls := faultClass q code
    let s := writeRecord s { recOf s (engineUnit q).1 c.val (engineUnit q).2 cls 3 code with
      op := op, job := j.id.setWidth 8, flags := if j.killed then 0 else 4, detail := faultDetail s c q j cls }
    killJob s j.id code op (4, c.val, q.val) (some (getSeq s c q))

/-- The fault of a sequencer (R41): it stops at the instruction with the code in JOB_SQ_STAT and its bit in
JOB_SEQ_ERR; Ikied writes the records and kills the job with the code. -/
def seqFault (s : State) (c : CoreId) (q : SeqId) (opc : BitVec 8) (code : BitVec 8) : State :=
  let s := modSeq s c q fun x => { x with st := .fault, fault := code, infl := [], loops := [], pendFault := 0 }
  let s := modCore s c fun k => { k with seqErr := setBit k.seqErr q.val true }
  faultRecords s c q opc (code.setWidth 16)

/-- The UNIT word of a record or condition entry (Tables 12-9, 16-4). -/
def unitWord (kind core index : Nat) : BitVec 32 := BitVec.ofNat 32 (kind * 2 ^ 28 + core * 2 ^ 24 + index % 2 ^ 24)

/-- Entry y, later in the report, replaces e (R391, R392): the same unit and action, and of the actions that come once for
each point, row, segment or trip, the same one; of the VF_AGE entries of a point the higher stays. -/
def replaces (y e : CondEntry) : Bool :=
  y.unit == e.unit && y.action == e.action &&
    (if e.action = 0x08 then y.arg.extractLsb' 0 4 == e.arg.extractLsb' 0 4 && decide (e.arg.toNat ≤ y.arg.toNat)
     else if e.action = 0x05 then y.arg2 == e.arg2
     else if e.action = 0x0B then y.arg == e.arg
     else e.action != 0x0D)

/-- The entries that no later one replaces. -/
def dropReplaced : List CondEntry → List CondEntry
  | [] => []
  | e :: t => if t.any fun y => replaces y e then dropReplaced t else e :: dropReplaced t

/-- The field entries that stand: a CLEAR cancels the entry whose index it gives (Table 16-5). -/
def uncleared (l : List CondEntry) : List CondEntry :=
  let gone := (l.filter fun e => e.action == 0x0E).map fun e => e.arg2.toNat
  ((l.zipIdx.filter fun e => e.1.action != 0x0E && !gone.contains e.2)).map (·.1)

/-- The 16 bytes of an entry (Table 16-4). -/
def condBytes (e : CondEntry) : List Byte :=
  leBytes 4 e.unit.toNat ++ leBytes 1 e.action.toNat ++ leBytes 1 e.reason.toNat ++ leBytes 2 e.arg.toNat ++
    leBytes 4 e.arg2.toNat ++ leBytes 4 e.day.toNat

/-- A unit word as the condition report keeps it: the core by its field, which no renumbering changes (R392, R394). -/
def fieldUnit (s : State) (u : BitVec 32) : BitVec 32 :=
  let c := fld u 24 4
  if c < 12 then unitWord (fld u 28 4) (fieldOf s (coreOf c)).val (fld u 0 24) else u

/-- An entry of the condition report (R391, Table 16-4): appended to the field section, under a higher GEN; a full
report is compacted, and one still full is not changed and an ERROR record says so (R392). With no valid copy the
report starts anew. -/
def condWrite (s : State) (x : CondEntry) : State :=
  let unit := x.unit
  let e : CondEntry := { x with unit := fieldUnit s unit }
  let f := (if s.flash.copyOk then s.flash.field else []) ++ [e]
  let f := if 4096 < f.length then dropReplaced (uncleared f) else f
  if 4096 < f.length then writeRecord s { recOf s 13 15 0 0x0F 2 0 with unit := unit, detail := condBytes e }
  else { s with flash := { s.flash with field := f, gen := s.flash.gen + 1, copyOk := true } }

/-- An entry that Ikied makes, with today's DAY. -/
def condAppend (s : State) (unit : BitVec 32) (action reason : BitVec 8) (arg : BitVec 16) (arg2 : BitVec 32) : State :=
  condWrite s { unit := unit, action := action, reason := reason, arg := arg, arg2 := arg2, day := s.flash.day }

/-- A LAC_NODE state (Table 09-7). -/
def setNode (s : State) (n : Fin 15) (st : BitVec 2) : State :=
  { s with lacing := { s.lacing with nodes := vset s.lacing.nodes n st } }

/-- The router of core c keeps forwarding while the core takes nothing (R229). -/
def forwardOnly (s : State) (c : CoreId) : State :=
  let n := routerOf s c
  if vget s.lacing.nodes n = 2 then s else setNode s n 1

/-- A core becomes LOST (R9, R24, R336): its state, its node, TGT_LOST in every DIST entry that targets it (one
rewrite of DIST, R22), and the kill of its job with CORE_LOST. -/
def loseCore (s : State) (c : CoreId) : State :=
  if (getCore s c).st = .lost then s
  else
    let s := modCore s c fun k => { k with st := .lost, fenced := true, seqRun := 0 }
    let s := forwardOnly s c
    let s := { s with lacing := { s.lacing with
      dist := (List.range 12).foldl (fun d i => smapSet 0 d (i * 31 + c.val)
        (smapGet 0 d (i * 31 + c.val) ||| 0x200#32)) s.lacing.dist
      distEpoch := if s.lacing.distGen = 0 then s.lacing.distEpoch else s.lacing.distEpoch + 2 } }
    let s := noted s
    match jobOn s c with
    | some j => killJob s j.id 0x0C 0 (0, c.val, 0) none
    | none => s

/-- A core's clock runs: its compute domain is ON, it is in service and no frequency stop holds it (R47). -/
def coreClocked (s : State) (c : CoreId) : Bool :=
  let k := getCore s c
  (vget s.power.doms (coreDomain s c)).state == 1 &&
    !(vget s.clock.regions (finOf 15 (by decide) c.val)).stopped &&
    !(k.st == .off || k.st == .reset || k.st == .lost)

/-- One microsecond with no command waiting (log 2): device time runs once the management region is on, and every
clocked core counts its cycles in JOB_CYCLES (R44, R289). -/
def idleTick (s : State) : State :=
  if (vget s.power.doms 25).state = 1 then
    let s1 := modReg s fun r => { r with time := r.time + 1000 }
    { s1 with cores := (allFin 12).foldl (fun v c =>
        if coreClocked s c then
          vmod v c fun k => { k with cycles :=
            k.cycles + ((vget s.clock.regions (finOf 15 (by decide) c.val)).cur).setWidth 64 }
        else v) s1.cores }
  else s

end Sys2Proof.Machine
end

