-- ==== Sys2Proof/Machine/Mesh.lean ====
section
/-!
DEFINITION. The Lacing mesh (R17, R210): links and their ends, the minimal dimension-ordered paths (R227), the fault
table with its detours (R228), and DIST as Ikied writes it (R20 to R24).
-/
namespace Sys2Proof.Machine

/-- The two nodes that a link joins, the lower first (Table 01-2). -/
def linkEnds (l : Nat) : Nat × Nat :=
  if l < 8 then (3 * (l / 2) + l % 2, 3 * (l / 2) + l % 2 + 1)
  else if l < 17 then (l - 8, l - 5)
  else if l < 20 then (l - 17, 12)
  else (l - 11, 13)

/-- The router of an HBM stack's port P0 to P15, and the node of P16 to P18 (Table 01-5). -/
def nodeOfPort (p : Nat) : Nat :=
  if p < 8 then 3 * (p / 2) else if p < 16 then 3 * ((p - 8) / 2) + 2 else if p = 16 then 12 else if p = 17 then 13 else 14

/-- A router or edge node forwards (R229). -/
def nodeUp (s : State) (n : Nat) : Bool := vget s.lacing.nodes (finOf 15 (by decide) n) != 2

/-- A link carries flits: it has not failed, both its ends forward, and no bypass holds it (R218, R229, R261). -/
def linkUp (s : State) (l : Fin 23) : Bool :=
  let k := vget s.lacing.links l
  !k.failed && !k.bypass && nodeUp s (linkEnds l.val).1 && nodeUp s (linkEnds l.val).2

/-- Two neighbouring nodes are joined by a link that carries flits. -/
def hopUp (s : State) (a b : Nat) : Bool :=
  (allFin 23).any fun l => linkUp s l && linkEnds l.val == (min a b, max a b)

/-- The numbers from a to b, rising or falling, both included. -/
def walk (a b : Nat) : List Nat :=
  if a ≤ b then (List.range (b - a + 1)).map (a + ·) else (List.range (a - b + 1)).map (a - ·)

/-- The path between two routers, columns first or rows first (R227). -/
def meshCore (yx : Bool) (a b : Nat) : List Nat :=
  if yx then
    (walk (a / 3) (b / 3)).map (fun r => 3 * r + a % 3) ++ ((walk (a % 3) (b % 3)).map fun k => 3 * (b / 3) + k).tail
  else
    (walk (a % 3) (b % 3)).map (fun k => 3 * (a / 3) + k) ++ ((walk (a / 3) (b / 3)).map fun r => 3 * r + b % 3).tail

/-- The router of column k next to an edge node. -/
def edgeRouter (n k : Nat) : Nat := if n = 12 then k else 9 + k

/-- The minimal path between two nodes 0 to 13: paths to an edge node run through the column of the source, and those
from one through the column of the destination (R227). -/
def meshPath (yx : Bool) (a b : Nat) : List Nat :=
  if 12 ≤ a ∧ 12 ≤ b then
    (if a = b then [a] else a :: meshCore yx (edgeRouter a 1) (edgeRouter b 1) ++ [b])
  else if 12 ≤ a then a :: meshCore yx (edgeRouter a (b % 3)) b
  else if 12 ≤ b then meshCore yx a (edgeRouter b (a % 3)) ++ [b]
  else meshCore yx a b

/-- Every node and link of a path forwards. -/
def pathUp (s : State) : List Nat → Bool
  | [] => true
  | [n] => nodeUp s n
  | a :: b :: t => nodeUp s a && hopUp s a b && pathUp s (b :: t)

/-- The working neighbours of a node in rising order. -/
def neighbours (s : State) (n : Nat) : List Nat := (List.range 14).filter fun m => m != n && hopUp s n m

/-- One breadth-first round: nodes without a level beside a node of level k get level k + 1 (99 is none). -/
def levelRound (adj : List (List Nat)) (lv : List Nat) (k : Nat) : List Nat :=
  lv.zipIdx.map fun (v, n) => if v = 99 && (adj.getD n []).any fun m => lv.getD m 99 == k then k + 1 else v

/-- The levels of the spanning tree of R228: its root is router 1, or the EDN edge node when router 1 has failed. -/
def meshLevels (s : State) (adj : List (List Nat)) : List Nat :=
  let root := if nodeUp s 1 then 1 else 12
  (List.range 14).foldl (levelRound adj) ((List.range 14).map fun n => if n = root then 0 else 99)

/-- A link runs up from a to b (R228). -/
def runsUp (lv : List Nat) (a b : Nat) : Bool :=
  decide (lv.getD b 99 < lv.getD a 99) || (lv.getD a 99 == lv.getD b 99 && decide (b < a))

/-- The shortest routes to d from every node: .1 while up links may still be taken, .2 after a down link (99 none). -/
def detourRound (adj : List (List Nat)) (lv : List Nat) (d : Nat) (x : List (Nat × Nat)) : List (Nat × Nat) :=
  (List.range 14).map fun n =>
    if n = d then (0, 0)
    else
      let l := adj.getD n []
      let down := (l.filter fun m => !runsUp lv n m).foldl (fun v m => min v ((x.getD m (99, 99)).2 + 1)) 99
      let up := (l.filter fun m => runsUp lv n m).foldl (fun v m => min v ((x.getD m (99, 99)).1 + 1)) 99
      (min down up, down)

/-- The lengths of the detours to d. -/
def detours (adj : List (List Nat)) (lv : List Nat) (d : Nat) : List (Nat × Nat) :=
  (List.range 28).foldl (fun x _ => detourRound adj lv d x) ((List.range 14).map fun n => if n = d then (0, 0) else (99, 99))

/-- The first hop of the detour from n to d: of the shortest, the lowest node number. -/
def detourHop (adj : List (List Nat)) (lv : List Nat) (x : List (Nat × Nat)) (n : Nat) : Option Nat :=
  let best := (x.getD n (99, 99)).1
  if 99 ≤ best then none
  else (adj.getD n []).find? fun m =>
    (if runsUp lv n m then (x.getD m (99, 99)).1 else (x.getD m (99, 99)).2) + 1 == best

/-- The output port toward a neighbour (Table 09-7, LAC_FT.PORT). -/
def portTo (n m : Nat) : Nat :=
  if 12 ≤ n ∨ 12 ≤ m then 4 else if m + 3 = n then 0 else if m = n + 1 then 1 else if m = n + 3 then 2 else 3

/-- A flow's minimal paths both cross something failed (R228). -/
def needsDetour (s : State) (a b : Nat) : Bool := !pathUp s (meshPath false a b) && !pathUp s (meshPath true a b)

/-- The node at which destination d is reached: node 14 through router 1, or the EDN node when router 1 is unusable
from n (R227). -/
def landing (lens : List (List (Nat × Nat))) (n d : Nat) : Nat :=
  if d = 14 then (if ((lens.getD 1 []).getD n (99, 99)).1 < 99 then 1 else 12) else d

/-- The fault table (R228, R237): PORT and DETOUR of every node n and destination d. -/
def faultTable (s : State) : SMap (BitVec 4) :=
  let adj := (List.range 14).map (neighbours s)
  let lv := meshLevels s adj
  let lens := (List.range 14).map (detours adj lv)
  (List.range 15).foldl (fun t n => (List.range 15).foldl (fun t d =>
    let e := landing lens n d
    let port :=
      if n = 14 then 7
      else if n = e then 5
      else match detourHop adj lv (lens.getD e []) n with
        | some m => portTo n m
        | none => 7
    smapSet 7 t (n * 16 + d) (BitVec.ofNat 4 (port + 8 * b2n (n != 14 && n != e && needsDetour s n e)))) t) []

/-- HOPS and VIA_FAULT between two nodes 0 to 13: a minimal path, else the detour, else unreachable (R22, R24). -/
def hopsBetween (s : State) (lens : List (List (Nat × Nat))) (a b : Nat) : Nat × Bool :=
  let least := (meshPath false a b).length - 1
  if !nodeUp s a || !nodeUp s b then (0xFF, false)
  else if !needsDetour s a b then (least, false)
  else
    let n := ((lens.getD b []).getD a (99, 99)).1
    if 99 ≤ n then (0xFF, false) else (n, decide (least < n))

/-- The partner router that serves the region of an edge router over a bypass (R261). -/
def bypassPartner (n : Nat) : Nat := if n / 3 % 2 = 0 then n + 3 else n - 3

/-- HOPS and VIA_FAULT from a field to a DIST target (Tables 01-5, 01-7; R24, R261). -/
def hopsTo (s : State) (lens : List (List (Nat × Nat))) (a t : Nat) : Nat × Bool :=
  if t < 12 then hopsBetween s lens a (fieldOf s (coreOf t)).val
  else
    let n := nodeOfPort (t - 12)
    if t < 28 then
      match (vget s.tiers.regions (finOf 8 (by decide) ((t - 12) / 2))).state.toNat with
      | 1 =>
        let r := hopsBetween s lens a (bypassPartner n)
        if r.1 = 0xFF then r else (r.1 + 1, true)
      | 3 => (0xFF, false)
      | _ => hopsBetween s lens a n
    else if n = 14 then
      let r := hopsBetween s lens a 1
      if r.1 = 0xFF then hopsBetween s lens a 12 else r
    else hopsBetween s lens a n

/-- A DIST entry (Table 01-6); DELAY of an unreachable target is 0. -/
def distWord (hopPs bndPs hops : Nat) (via lost : Bool) : BitVec 32 :=
  BitVec.ofNat 32 ((if hops = 0xFF then 0 else (bndPs + hops * hopPs + 5) / 10 % 65536) * 65536 +
    b2n lost * 512 + b2n via * 256 + hops)

/-- The entries of DIST for the present fabric and delays. -/
def distTable (s : State) : SMap (BitVec 32) :=
  let adj := (List.range 14).map (neighbours s)
  let lv := meshLevels s adj
  let lens := (List.range 14).map (detours adj lv)
  (List.range 12).foldl (fun m c => (List.range 31).foldl (fun m t =>
    let h := hopsTo s lens (fieldOf s (coreOf c)).val t
    let lost := decide (t < 12) && (getCore s (coreOf t)).st == .lost
    smapSet 0 m (c * 31 + t) (distWord s.lacing.distHop.toNat s.lacing.distBnd.toNat h.1 h.2 lost)) m) []

/-- Ikied rewrites DIST (R22): the epoch goes odd and even again, and a route change raises DIST_GEN. -/
def rewriteDist (s : State) (route : Bool) : State :=
  let s := if route then { s with lacing := { s.lacing with ft := faultTable s } } else s
  { s with lacing := { s.lacing with
      dist := distTable s, distEpoch := s.lacing.distEpoch + 2
      distGen := if route then s.lacing.distGen + 1 else s.lacing.distGen } }

/-- A fault has changed routes (R22, R23, R228): the fault table and DIST are rewritten, and a record of class ROUTE
and INVENTORY say so. Before the first rewrite there is no DIST to change. `node` and `link` are 0xFF for none. -/
def routeChange (s : State) (node link : Nat) : State :=
  if s.lacing.distGen = 0 then s
  else
    let s := rewriteDist s true
    let unit := if node = 0xFF then (6, 15, 256 * link + 0xFF) else (7, 15, node)
    writeRecord s { recOf s unit.1 unit.2.1 unit.2.2 0x07 1 0 with
      detail := leBytes 4 s.lacing.distGen.toNat ++ leBytes 1 node ++ leBytes 1 link }

end Sys2Proof.Machine
end

