-- ==== Sys2Proof/Machine/Operands.lean ====
section
/-!
DEFINITION. Operand forms: the descriptor of Table 02-2, its footprint and byte stream (R34), the checks of R35, the
translation of image cores (R316), and the memory descriptor of Table 10-5 with the checks of R251.
-/
namespace Sys2Proof.Machine

/-- An operand descriptor, decoded (Table 02-2). -/
structure Descr where
  sa     : Nat
  core   : Nat
  rmt    : Bool
  tm     : BitVec 2
  rowlen : Nat
  rows   : Nat
  stride : Int
  rsv    : Bool
  deriving DecidableEq, Repr

/-- A signed field of n bits. -/
def sfld {w : Nat} (x : BitVec w) (lo n : Nat) : Int := (x.extractLsb' lo n).toInt

/-- Descriptor bits as Table 02-2 lays them out. -/
def descrOf (w : Word128) : Descr where
  sa := fld w 0 32
  core := fld w 32 4
  rmt := bit w 36
  tm := w.extractLsb' 37 2
  rowlen := fld w 40 20
  rows := fld w 64 16
  stride := sfld w 80 32
  rsv := bit w 39 || fld w 60 4 != 0 || fld w 112 16 != 0

/-- Descriptor i of a sequencer's table. -/
def descAt (s : State) (c : CoreId) (q : SeqId) (i : Nat) : Word128 := smapGet 0 (getSeq s c q).desc i

/-- Operand i, decoded. -/
def opnd (s : State) (c : CoreId) (q : SeqId) (i : Nat) : Descr := descrOf (descAt s c q i)

/-- Total bytes of the byte stream. -/
def Descr.bytes (d : Descr) : Nat := d.rowlen * d.rows

/-- First byte of row r, before reduction modulo 2^32. -/
def Descr.rowStart (d : Descr) (r : Nat) : Int := d.sa + r * d.stride

/-- First byte of the footprint (R34). -/
def Descr.lo (d : Descr) : Int := min (d.rowStart 0) (d.rowStart (d.rows - 1))

/-- Last byte of the footprint (R34). -/
def Descr.hi (d : Descr) : Int := max (d.rowStart 0) (d.rowStart (d.rows - 1)) + d.rowlen - 1

/-- One run of bytes inside one slot: the slot's address, the first byte in it, and the length. -/
structure Piece where
  slot : Nat
  lo   : Nat
  len  : Nat
  deriving DecidableEq, Repr

/-- The slots of len bytes from address a, with fuel n. -/
def slotPieces : Nat → Nat → Nat → List Piece
  | 0, _, _ => []
  | n + 1, a, len =>
    if len = 0 then []
    else
      let k := min len (64 - a % 64)
      { slot := a / 64 * 64, lo := a % 64, len := k } :: slotPieces n (a + k) (len - k)

/-- The slots of one run of bytes. -/
def runPieces (a len : Nat) : List Piece := slotPieces (len / 64 + 2) a len

/-- Two footprints (R34: from the first byte to the last) meet in some unit of g bytes: a slot, or a byte. -/
def footMeet (g : Int) (a b : Descr) : Bool := decide (a.lo / g ≤ b.hi / g) && decide (b.lo / g ≤ a.hi / g)

/-- Two footprints are the same bytes. -/
def footSame (a b : Descr) : Bool := decide (a.lo = b.lo) && decide (a.hi = b.hi)

/-- A Stacks address modulo 2^32. -/
def wrap32 (a : Int) : Nat := (a % 4294967296).toNat

/-- The pieces of a byte stream, rows in order and bytes in order (R37). -/
def Descr.pieces (d : Descr) : List Piece :=
  (List.range d.rows).flatMap fun r => runPieces (wrap32 (d.rowStart r)) d.rowlen

/-- The pieces that hold the first n bytes. -/
def takePieces : List Piece → Nat → List Piece
  | [], _ => []
  | p :: t, n =>
    if n = 0 then []
    else if n < p.len then [{ p with len := n }]
    else p :: takePieces t (n - p.len)

/-- The pieces without their first n bytes. -/
def dropPieces : List Piece → Nat → List Piece
  | [], _ => []
  | p :: t, n =>
    if n = 0 then p :: t
    else if n < p.len then { p with lo := p.lo + n, len := p.len - n } :: t
    else dropPieces t (n - p.len)

/-- The slots a descriptor touches, as slot addresses. -/
def Descr.slots (d : Descr) : List Nat := d.pieces.map (·.slot)

/-- The end of the sets allocated to the job on core c, at most STK_SIZE (R35, R320). -/
def allocEnd (s : State) (c : CoreId) : Nat := min (stkSize s c) ((getCore s c).sets * setBytes)

/-- A run of bytes lies inside the job's sets and STK_SIZE. -/
def inAlloc (s : State) (c : CoreId) (lo hi : Int) : Bool := decide (0 ≤ lo) && decide (hi < (allocEnd s c : Int))

/-- The number P of image cores of the job on core c (R316). -/
def jobCores (s : State) (c : CoreId) : Nat :=
  match jobOn s c with
  | some j => j.cores.length
  | none => 0

/-- The placed core of image core i of the job on core c (R316). -/
def placedCore (s : State) (c : CoreId) (i : Nat) : CoreId :=
  match jobOn s c with
  | some j => j.cores.getD i c
  | none => c

/-- Where an operand's accesses go. -/
def placeOf (s : State) (c : CoreId) (d : Descr) : Place :=
  if d.rmt then .remote (placedCore s c d.core) else .here

/-- A descriptor of form (R35 rows 1 and 2). -/
def Descr.badForm (d : Descr) : Bool := d.rsv || d.rowlen == 0 || d.rows == 0

/-- A descriptor with a tag mode and an unaligned field (R35 row 3). -/
def Descr.badAlign (d : Descr) : Bool :=
  d.tm != 0 && (d.sa % 64 != 0 || d.rowlen % 64 != 0 || decide (d.stride % 64 ≠ 0))

/-- A local descriptor outside the allocation (R35 row 4), or a remote one whose CORE the image lacks (R316). -/
def badRange (s : State) (c : CoreId) (d : Descr) : Bool :=
  if d.rmt then decide (jobCores s c ≤ d.core) else !inAlloc s c d.lo d.hi

/-- R35: the fault of an instruction's descriptors, the first row of the table that applies. -/
def descFault (s : State) (c : CoreId) (ds : List Descr) : Option (BitVec 8) :=
  if ds.any (·.badForm) then some 0x04
  else if ds.any (·.badAlign) then some 0x03
  else if ds.any (badRange s c) then some 0x02
  else none

/-- A memory descriptor, decoded (Table 10-5). -/
structure MemDescr where
  ma     : Nat
  rowlen : Nat
  rows   : Nat
  stride : Int
  rsv    : Bool
  deriving DecidableEq, Repr

/-- Memory descriptor bits as Table 10-5 lays them out; STRIDE counts 64 bytes. -/
def memDescrOf (w : Word128) : MemDescr where
  ma := fld w 0 48
  rowlen := fld w 64 20
  rows := fld w 84 16
  stride := 64 * sfld w 100 28
  rsv := fld w 48 16 != 0

/-- Total bytes. -/
def MemDescr.bytes (d : MemDescr) : Nat := d.rowlen * d.rows

/-- First byte of row r. -/
def MemDescr.rowStart (d : MemDescr) (r : Nat) : Int := d.ma + r * d.stride

/-- The footprint's first byte. -/
def MemDescr.lo (d : MemDescr) : Int := min (d.rowStart 0) (d.rowStart (d.rows - 1))

/-- The footprint's last byte. -/
def MemDescr.hi (d : MemDescr) : Int := max (d.rowStart 0) (d.rowStart (d.rows - 1)) + d.rowlen - 1

/-- The pieces of a memory byte stream. -/
def MemDescr.pieces (d : MemDescr) : List Piece :=
  (List.range d.rows).flatMap fun r => runPieces (d.rowStart r).toNat d.rowlen

/-- The footprint shifted by n bytes (R246). -/
def MemDescr.shift (d : MemDescr) (n : Nat) : MemDescr := { d with ma := d.ma + n }

/-- The channel order of R243: L0, L8, L1, L9, ... -/
def channelOrder : List (Fin 16) := [0, 8, 1, 9, 2, 10, 3, 11, 4, 12, 5, 13, 6, 14, 7, 15]

/-- The live channels in order: neither absent nor retired (R243). -/
def liveChannels (t : Tiers) : List (Fin 16) := channelOrder.filter fun l => (vget t.chans l).state != 3

/-- MEM_LP_SIZE: live channels times 31/32 of the installed bytes (R243). -/
def lpSize (t : Tiers) : Nat := (liveChannels t).length * (t.gib.toNat * 0x40000000 / 32 * 31)

/-- Bytes of one HBM region window, 72 GiB (R240). -/
def regionBytes : Nat := 0x1200000000

/-- Capacity of a region: 1.125 GiB for each live PC (R242). -/
def regionCap (r : Region) : Nat := popcount r.live * 0x48000000

/-- A device address lies in populated memory (R242, R243). -/
def populated (t : Tiers) (a : Nat) : Bool :=
  if h : a / regionBytes < 8 then decide (a % regionBytes < regionCap (vget t.regions ⟨a / regionBytes, h⟩))
  else decide (0x20000000000 ≤ a) && decide (a < 0x20000000000 + lpSize t)

/-- The regions that a range of bytes crosses end at their capacity; a range is populated when its last byte in every
region it meets is. The eight regions follow one another without a hole only when all are whole. -/
def rangePopulated (t : Tiers) (lo hi : Int) : Bool :=
  decide (0 ≤ lo) && decide (lo ≤ hi) && populated t lo.toNat && populated t hi.toNat &&
    ((allFin 8).all fun q => decide (hi < ((q.val + 1) * regionBytes : Nat)) ||
      decide (((q.val + 1) * regionBytes : Nat) ≤ lo) || popcount (vget t.regions q).live == 64) &&
    (decide (hi < (0x20000000000 : Int)) || decide ((0x20000000000 : Int) ≤ lo))

/-- A range lies inside one window that grants right bit b (R322). -/
def inWindow (ws : List Window) (b : Nat) (lo hi : Int) : Bool :=
  ws.any fun w => bit w.rights b && decide ((w.base : Int) ≤ lo) && decide (hi < (w.base + w.len : Int))

/-- A range lies in the union of windows that grant right bit b: each 64 KiB unit of it does (windows are multiples
of 64 KiB, R322). -/
def inWindows (ws : List Window) (b : Nat) (lo hi : Int) : Bool :=
  decide (0 ≤ lo) && (List.range (hi.toNat / 65536 + 1 - lo.toNat / 65536)).all fun i =>
    inWindow ws b ((lo.toNat / 65536 + i) * 65536 : Nat) ((lo.toNat / 65536 + i) * 65536 : Nat)

/-- The windows of the job on core c. -/
def jobWindows (s : State) (c : CoreId) : List Window :=
  match jobOn s c with
  | some j => j.windows
  | none => []

/-- Every row of a memory footprint is populated. -/
def memPopulated (s : State) (d : MemDescr) : Bool := rangePopulated s.tiers d.lo d.hi

end Sys2Proof.Machine
end

