-- ==== Sys2Proof/Machine/Access.lean ====
section
/-!
DEFINITION. Accesses of Stacks slots: tag rules, check codes, poison and waiter tables (R49 to R65), the Carrels that
contain a slot (R71 to R78), and the requests an engine sends through Lacing and to memory (R225 to R232, R248).
-/
namespace Sys2Proof.Machine

/-- Table 03-6: an access of tag mode tm passes on a slot whose tag is full or empty. -/
def tagPasses (tm : BitVec 2) (full : Bool) : Bool :=
  if tm = 0 then true else if tm = 3 then !full else full

/-- Table 03-6: the tag after an access that passed. -/
def tagAfter (tm : BitVec 2) (full : Bool) : Bool :=
  if tm = 2 then false else if tm = 3 then true else full

/-- Tag of a slot number. -/
def isFull (s : State) (slot : Nat) : Bool := s.full.contains slot

/-- Poison of a slot number. -/
def isPoison (s : State) (slot : Nat) : Bool := s.poison.contains slot

/-- The state with one slot's tag. -/
def setFull (s : State) (slot : Nat) (b : Bool) : State := { s with full := setPut s.full slot b }

/-- The state with one slot's poison. -/
def setPoison (s : State) (slot : Nat) (b : Bool) : State := { s with poison := setPut s.poison slot b }

/-- Bytes written to memory. -/
def setBytesAt (s : State) (a : Nat) (l : List Byte) : State := { s with mem := memWrite s.mem a l }

/-- Whole slots of device memory written afresh from a, without poison: what Ikied and the performance monitor write. -/
def putFresh (s : State) (a : Nat) (l : List Byte) : State :=
  { s with mem := memWrite s.mem a l, poison := setErase s.poison (a / 64) (cdiv l.length 64) }

/-- One hour and one day of device time, in ns. -/
def hourNs : Nat := 3600 * 10 ^ 9

def dayNs : Nat := 24 * hourNs

/-- Entries of a time-stamped history not older than `span` at the present time. -/
def recent {α : Type} (s : State) (span : Nat) (l : List (α × Nat)) : List (α × Nat) :=
  l.filter fun e => decide (s.reg.time.toNat ≤ e.2 + span)

/-- A bank marked REPAIR_PENDING (R52), with a record of class STACKS. -/
def markRepair (s : State) (c : CoreId) (sa bank : Nat) : State :=
  if (getCore s c).stk.repairPend.contains bank then s
  else
    let s := modStk s c fun k => { k with repairPend := setAdd k.repairPend bank }
    writeRecord s { recOf s 5 c.val bank 0x01 1 0 with
      addr := BitVec.ofNat 64 (stacksAddr c sa), flags := 1, job := (getCore s c).jobId.setWidth 8,
      detail := leBytes 4 sa ++ leBytes 2 bank ++ leBytes 1 (bank / 32) ++ [0] }

/-- An error the check code of slot SA reports (R64, Table 03-3): counted and logged; an uncorrectable one poisons
the slot and is recorded; a second one after a full write, or more than 64 corrections of a bank within 1 h, marks
the bank. -/
def stkError (s : State) (c : CoreId) (sa : Nat) (ue patrol : Bool) : State :=
  let bank := bankOf s c sa
  let slot := slotOf c sa
  let s := modStk s c fun k => { k with
    ce := if ue then k.ce else satAdd k.ce 1
    ue := if ue then satAdd k.ue 1 else k.ue
    logSa := BitVec.ofNat 32 sa, logBank := BitVec.ofNat 10 bank, logUe := ue, logValid := true }
  let s := bumpGen s
  if ue then
    let again := (getCore s c).stk.ueSlots.contains (slot, true)
    let s := setPoison s slot true
    let s := modStk s c fun k => { k with
      ueSlots := (slot, false) :: k.ueSlots.filter fun e => e.1 != slot }
    let n := ((recent s hourNs (getCore s c).stk.ceTimes).filter fun e => e.1 == bank).length
    let s := writeRecord s { recOf s 5 c.val bank 0x01 2 0 with
      addr := BitVec.ofNat 64 (stacksAddr c sa), job := (getCore s c).jobId.setWidth 8,
      detail := leBytes 4 sa ++ leBytes 2 bank ++ leBytes 1 (bank / 32) ++ leBytes 1 (1 + 2 * b2n patrol) ++ leBytes 4 n }
    if again then markRepair s c sa bank else s
  else
    let s := modStk s c fun k => { k with
      ceTimes := (bank, s.reg.time.toNat) :: recent s hourNs k.ceTimes
      fixups := k.fixups ++ [slot] }
    if 64 < ((getCore s c).stk.ceTimes.filter fun e => e.1 == bank).length then markRepair s c sa bank else s

/-- Bytes written into one slot of Stacks or memory: a write of the whole slot sets its poison to the data's, a
partial one keeps the slot's poison and adds the data's (R63, R65, R221, R254). -/
def putSlot (s : State) (a : Nat) (data : List Byte) (poison : Bool) : State :=
  let slot := a / 64
  let whole := a % 64 == 0 && data.length == 64
  setPoison (setBytesAt s a data) slot (if whole then poison else poison || isPoison s slot)

/-- A full write of a slot after an uncorrectable error there, for the classes of Table 03-3. -/
def noteFull (s : State) (c : CoreId) (slot : Nat) : State :=
  modStk s c fun k => { k with ueSlots := k.ueSlots.map fun e => if e.1 = slot then (slot, true) else e }

/-- A write of bytes lo.. of the slot at SA of core c. -/
def stkPut (s : State) (c : CoreId) (sa lo : Nat) (data : List Byte) (poison : Bool) : State :=
  let s := putSlot s (stacksAddr c sa + lo) data poison
  if lo = 0 ∧ data.length = 64 then noteFull s c (slotOf c sa) else s

/-- The open Carrel that contains the slot at SA (R71, R72). -/
def carrelAt (k : StkState) (sa : Nat) : Option (Fin 64) :=
  (allFin 64).find? fun i =>
    let r := vget k.carrels i
    r.opened && decide (r.base.toNat ≤ sa) && decide (sa < r.base.toNat + r.length.toNat)

/-- The state with Carrel i of core c changed. -/
def modCarrel (s : State) (c : CoreId) (i : Fin 64) (f : Carrel → Carrel) : State :=
  modStk s c fun k => { k with carrels := vmod k.carrels i f }

/-- CONSUMED counts a read-consume executed on a Carrel's slot, whoever reads (R78). -/
def countConsumed (s : State) (c : CoreId) (sa : Nat) (tm : BitVec 2) : State :=
  if tm = 2 then
    match carrelAt (getCore s c).stk sa with
    | some i => modCarrel s c i fun r => { r with consumed := r.consumed + 1 }
    | none => s
  else s

/-- The event of the operand list that meets slot SA. -/
def eccAt (ev : List EccEvent) (cache : Bool) (n : Nat) : Ecc :=
  match ev.find? fun e => e.cache == cache && e.at_ == n with
  | some e => if e.ue then .uncorrectable else .correctable
  | none => .clean

/-- The check code acts on a read of slot SA (R64). -/
def eccRead (s : State) (c : CoreId) (sa : Nat) (e : Ecc) (patrol : Bool) : State :=
  match e with
  | .clean => s
  | .correctable => stkError s c sa false patrol
  | .uncorrectable => stkError s c sa true patrol

/-- One local access that passes executes (R59, R63 to R65): its data, its tag, its poison. -/
def execLocal (s : State) (c : CoreId) (a : Access) (e : Ecc) : State × Access :=
  let slot := slotOf c a.addr
  let full := isFull s slot
  if a.write then
    let s := stkPut s c a.addr a.lo a.data a.poison
    (setFull s slot (tagAfter a.tm full), { a with phase := .done })
  else
    let s := eccRead s c a.addr e false
    let a := { a with
      data := memRead s.mem (stacksAddr c a.addr + a.lo) a.len, poison := isPoison s slot, phase := .done }
    (countConsumed (setFull s slot (tagAfter a.tm full)) c a.addr a.tm, a)

/-- The access passes its tag check now (R59). -/
def localPasses (s : State) (c : CoreId) (a : Access) : Bool := tagPasses a.tm (isFull s (slotOf c a.addr))

/-- The open accesses of one sequencer: those of its instructions in flight and its output writes. -/
def openAccesses (x : SeqState) : List Access := (x.infl.flatMap (·.todo)) ++ x.writes

/-- Waiter entries 0-11 of a bank in use (R60). -/
def localWaiters (s : State) (c : CoreId) (bank : Nat) : Nat :=
  ((((getCore s c).seqs.toList.flatMap openAccesses)).filter fun a =>
    a.phase == .parked true && a.place == .here && bankOf s c a.addr == bank).length

/-- The local byte of a remote flit at its target. -/
def flitSa (f : Flit) : Nat := f.addr.toNat * 64 % 0x80000000

/-- Waiter entries 12-15 of a bank in use (R60). -/
def remoteWaiters (s : State) (c : CoreId) (bank : Nat) : Nat :=
  ((getCore s c).stk.remote.filter fun r => r.parked && bankOf s c (flitSa r.flit) == bank).length

/-- STK_WAIT_HWM follows a waiter table with n entries in use (Table 03-15). -/
def noteWaiters (s : State) (c : CoreId) (n : Nat) (bp : Bool) : State :=
  modStk s c fun k => { k with hwm := if k.hwm.toNat < n then BitVec.ofNat 5 n else k.hwm, bp := k.bp || bp }

/-- Parked accesses of one bank in a list. -/
def parkedAt (s : State) (c : CoreId) (bank : Nat) (l : List Access) : Nat :=
  (l.filter fun a => a.phase == .parked true && a.place == .here && bankOf s c a.addr == bank).length

/-- An access that does not pass takes a waiter entry of its bank, or stays at the bank input (R60). `others` are the
other accesses of its instruction. -/
def parkLocal (s : State) (c : CoreId) (others : List Access) (a : Access) : State × Access :=
  match a.phase with
  | .parked true => (s, a)
  | _ =>
    let bank := bankOf s c a.addr
    let n := localWaiters s c bank + parkedAt s c bank others
    if n < 12 then (noteWaiters s c (n + 1 + remoteWaiters s c bank) false, { a with phase := .parked true })
    else (noteWaiters s c 0 true, { a with phase := .parked false })

/-- The frame table in use: a core that holds no job runs the default table (R56). -/
def frameTable (k : CoreState) : BitVec 32 :=
  if k.jobId = 0 then defaultFrame else vget k.stk.frames (finOf 8 (by decide) k.frameSel.toNat)

/-- The owner code of a cycle's slot; code 9 is W0 in even and W1 in odd frames (R54, R55). -/
def frameOwner (tbl : BitVec 32) (cyc : Nat) : Nat :=
  let o := fld tbl (4 * (cyc % 8)) 4
  if o = 9 then 4 + cyc / 8 % 2 else o

/-- The frame class of a sequencer (Table 03-4). -/
def frameClass (q : SeqId) : Nat := if q.val < 7 then q.val else 7

/-- The table gives a class some slot (R39). -/
def classHasSlot (tbl : BitVec 32) (cls : Nat) : Bool :=
  (List.range 16).any fun n => frameOwner tbl n == cls

/-- The DIST entry of core c and target t; HOPS is bits [7:0] (Table 01-6). -/
def distEntry (s : State) (c t : Nat) : BitVec 32 := smapGet 0 s.lacing.dist (c * 31 + t)

/-- DIST reads the target as unreachable (R229). -/
def noRoute (s : State) (c : CoreId) (t : Nat) : Bool := fld (distEntry s c.val t) 0 8 == 0xFF

/-- The pin of the image's ROUTE section for a flow between two placed cores (R317). -/
def routePin (s : State) (c d : CoreId) : Nat :=
  match jobOn s c with
  | some j => (j.pins.getD ((j.cores.idxOf c) * j.cores.length + j.cores.idxOf d) 0).toNat
  | none => 0

/-- ROUTE of a flow from c to d: the pin of the image, else XY (log 17), among the two minimal paths that no failed
router or link cuts; the detour when both are cut (R227, R228, R317). -/
def routeOf (s : State) (c d : CoreId) : BitVec 2 :=
  let a := (fieldOf s c).val
  let b := (fieldOf s d).val
  let xy := pathUp s (meshPath false a b)
  let yx := pathUp s (meshPath true a b)
  if xy && !(yx && routePin s c d == 2) then 0 else if yx then 1 else 2

/-- A free tag of sequencer q: of its 256, neither outstanding nor held (R225, R230). -/
def freeTag (k : CoreState) (q : SeqId) : Option Nat :=
  ((List.range 256).map fun i => q.val * 256 + i).find? fun t =>
    !(k.txns.any fun x => x.tag.toNat == t) && !(k.quarantine.any fun x => x.toNat == t)

/-- The byte enables of bytes lo to lo+len-1. -/
def enables (lo len : Nat) : BitVec 64 := BitVec.ofNat 64 ((2 ^ len - 1) * 2 ^ lo)

/-- The request flit of a remote access (Tables 09-3, 09-4): RD, WR of a whole slot, or WRP; VC3 for a write of an
instruction that writes more than one slot (R222). -/
def requestFlit (s : State) (c d : CoreId) (q : SeqId) (a : Access) (tag : Nat) : Flit where
  vc := if a.write && a.multi then 3 else 1
  typ := if !a.write then 0 else if a.len = 64 then 1 else 2
  src := BitVec.ofNat 4 c.val
  dst := BitVec.ofNat 4 d.val
  job := (getCore s c).jobId
  poison := a.poison
  tm := a.tm
  mc := false
  eng := BitVec.ofNat 4 q.val
  status := 0
  tag := BitVec.ofNat 12 tag
  addr := BitVec.ofNat 42 (stacksAddr d (a.addr % 0x80000000) / 64)
  route := routeOf s c d
  aux := if a.write ∧ a.len ≠ 64 then enables a.lo a.len else 0
  data := if a.write then List.replicate a.lo 0 ++ a.data ++ List.replicate (64 - a.lo - a.data.length) 0 else []

/-- A flit enters Lacing. -/
def sendFlit (s : State) (f : Flit) : State := { s with lacing := { s.lacing with flight := s.lacing.flight ++ [f] } }

/-- A remote access leaves its engine (R225): NO_ROUTE when DIST reads the target unreachable; held without a credit
or a tag; else the credit and the tag are taken and the flit is sent. An SA at or above 2 GiB reaches no slot of the
target core and is denied there (R36). -/
def sendRemote (s : State) (c d : CoreId) (q : SeqId) (a : Access) : State × Access × Option (BitVec 8) :=
  let x := getSeq s c q
  let vc3 := a.write && a.multi
  if noRoute s c d.val then (s, a, some 0x0D)
  else if (if vc3 then x.credit3 else x.credit1) = 0 then (s, a, none)
  else if 0x80000000 ≤ a.addr then (s, a, some (if a.write then 0x09 else 0x08))
  else match freeTag (getCore s c) q with
    | none => (s, a, none)
    | some t =>
      let f := requestFlit s c d q a t
      let s := modSeq s c q fun y =>
        if vc3 then { y with credit3 := y.credit3 - 1 } else { y with credit1 := y.credit1 - 1 }
      let s := modCore s c fun k => { k with txns := k.txns ++ [{ tag := f.tag, flit := f }] }
      (sendFlit s f, { a with phase := .sent t }, none)

/-- The region or LPDDR5X side that serves a device address: regions 0-7, 8 for EDN and 9 for EDS channels. -/
def memUnit (t : Tiers) (a : Nat) : Nat :=
  if a / regionBytes < 8 then a / regionBytes
  else
    let order := liveChannels t
    let l := order.getD ((a - 0x20000000000) / 4096 % (max order.length 1)) 0
    if l.val < 8 then 8 else 9

/-- The DIST target of a memory unit: the lower stack's port, or the edge die. -/
def memTarget (u : Nat) : Nat := if u < 8 then 12 + 2 * u else if u = 8 then 28 else 29

/-- The power domains that a memory unit needs: the LPDDR5X window needs both edge dies (Table 14-3). -/
def memDomains (u : Nat) : List (Fin 30) := if u < 4 then [26] else if u < 8 then [27] else [28, 29]

/-- A memory unit answers (R261, R343, R349): its domains are on. -/
def memUp (s : State) (a : Nat) : Bool :=
  (memDomains (memUnit s.tiers a)).all fun d => (vget s.power.doms d).state == 1

/-- A request enters its controller's queue (R249). -/
def queueMem (s : State) (r : MemReq) : State :=
  { s with tiers := { s.tiers with queue := s.tiers.queue ++ [{ r with id := s.tiers.nextReq }],
                                   nextReq := s.tiers.nextReq + 1 } }

/-- A memory access of a DMA sequencer enters its controller's queue (R248, R249): NO_ROUTE or TARGET_DOWN when the
controller cannot be reached. -/
def sendMem (s : State) (c : CoreId) (q : SeqId) (a : Access) : State × Access × Option (BitVec 8) :=
  if noRoute s c (memTarget (memUnit s.tiers a.addr)) then (s, a, some 0x0D)
  else if !memUp s a.addr then (s, a, some 0x0B)
  else
    let r : MemReq := {
      id := 0, from_ := .engine c q, write := a.write, addr := a.addr, data := a.data, poison := a.poison,
      prio := a.prio, aged := false, job := (getCore s c).jobId }
    (queueMem s r, { a with phase := .sent s.tiers.nextReq }, none)

/-- An earlier access of the list holds this one back at its bank (R32, R60): one of the same operand not yet
executed, or one held at the bank input. -/
def heldBack (s : State) (c : CoreId) (earlier : List Access) (a : Access) : Bool :=
  earlier.any fun e => e.place == .here && e.phase != .done && (e.opnd == a.opnd || e.phase == .parked false) &&
    bankOf s c e.addr == bankOf s c a.addr

/-- One attempt at one access of sequencer q: `earlier` are those presented before it, `later` those after. -/
def tryAccess (s : State) (c : CoreId) (q : SeqId) (ev : List EccEvent) (earlier later : List Access) (a : Access) :
    State × Access × Option (BitVec 8) :=
  match a.phase with
  | .done => (s, a, none)
  | .sent _ => (s, a, none)
  | _ =>
    match a.place with
    | .remote d => sendRemote s c d q a
    | .memory => sendMem s c q a
    | .here =>
      if heldBack s c earlier a || !classHasSlot (frameTable (getCore s c)) (frameClass q) then (s, a, none)
      else if localPasses s c a then
        let r := execLocal s c a (eccAt ev false (a.addr / 64))
        (r.1, r.2, none)
      else
        let r := parkLocal s c (earlier ++ later) a
        (r.1, r.2, none)

/-- One attempt at every open access, in the order presented (R32); it ends at the first that faults. -/
def tryAll (c : CoreId) (q : SeqId) (ev : List EccEvent) :
    List Access → State → List Access → State × List Access × Option (BitVec 8)
  | earlier, s, [] => (s, earlier, none)
  | earlier, s, a :: t =>
    match tryAccess s c q ev earlier t a with
    | (s', a', none) => tryAll c q ev (earlier ++ [a']) s' t
    | (s', a', some f) => (s', earlier ++ a' :: t, some f)

/-- Reads of an operand's pieces. -/
def reads (o : Nat) (p : Place) (tm prio : BitVec 2) (ps : List Piece) : List Access :=
  ps.map fun x => { opnd := o, place := p, write := false, addr := x.slot, lo := x.lo, len := x.len, tm := tm,
                    prio := prio, multi := decide (1 < ps.length), data := [], poison := false, phase := .todo }

/-- Writes of a byte string over an operand's pieces, each piece with its own poison. -/
def writesFrom (o : Nat) (p : Place) (tm prio : BitVec 2) (multi : Bool) : List Piece → List Byte → List Bool → List Access
  | [], _, _ => []
  | x :: t, data, bad =>
    { opnd := o, place := p, write := true, addr := x.slot, lo := x.lo, len := x.len, tm := tm, prio := prio,
      multi := multi, data := slice data 0 x.len, poison := bad.headD false, phase := .todo } ::
      writesFrom o p tm prio multi t (data.drop x.len) (bad.drop 1)

/-- The data of one operand, as read. -/
def opndData (l : List Access) (o : Nat) : List Byte := (l.filter fun a => a.opnd == o).flatMap (·.data)

/-- Some slot of an operand arrived poisoned. -/
def opndPoison (l : List Access) (o : Nat) : Bool := l.any fun a => a.opnd == o && a.poison

end Sys2Proof.Machine
end

