-- ==== Sys2Proof/Machine/Engine.lean ====
section
/-!
DEFINITION. How a sequencer issues and carries out an instruction (R31 to R37, R461): fetch, reserved bits, the checks
and conditions of issue, PC and loops, and the phases of accesses that an instruction in flight goes through. A row
presented again carries its instruction further (log 4).
-/
namespace Sys2Proof.Machine

/-- What an instruction in flight does next. -/
inductive Phase where
  /-- Present these accesses, in operand order. -/
  | access (l : List Access)
  /-- Take this effect as a phase of its own, and go on. -/
  | act (f : State → State)
  /-- Complete with this effect. -/
  | finish (f : State → State)
  /-- Wait for something other than an access. -/
  | hold
  /-- Fault with this code. -/
  | fault (code : BitVec 8)

/-- What an instruction asks at issue: the descriptors it names, its operands in order (descriptor index; 0 read,
1 write of one slot, 3 write of more), a fault that its own checks find, a condition that holds it, its notes, and
what its issue changes at once. -/
structure Plan where
  names   : List Nat
  ops     : List (Nat × Nat)
  bad     : Option (BitVec 8)
  held    : Option SqState := none
  notes   : List Nat := []
  atIssue : State → State := id

/-- The opcode of an instruction. -/
def opcodeOf (w : Word128) : BitVec 8 := w.extractLsb' 120 8

/-- The instruction of a row: its opcode above the row's 120 bits (R31). -/
def instrWord (opc : BitVec 8) (w : BitVec 120) : Word128 := opc ++ w

/-- The instruction at the PC in the active half (R31). -/
def fetched (x : SeqState) : Word128 := smapGet haltFill (if x.half then x.imem1 else x.imem0) x.pc

/-- Instructions in one IMEM half (R31). -/
def halfLen (q : SeqId) : Nat := if 7 ≤ q.val ∧ q.val ≤ 14 then 1024 else 4096

/-- The cluster of a Last or Welt sequencer (Table 02-1). -/
def clusterOf (q : SeqId) : Option Nat :=
  if q.val = 0 ∨ q.val = 1 ∨ q.val = 4 then some 0
  else if q.val = 2 ∨ q.val = 3 ∨ q.val = 5 then some 1 else none

/-- The cluster of a sequencer runs: not gated and not still ungating (R30). -/
def ungated (k : CoreState) (q : SeqId) : Bool :=
  match clusterOf q with
  | none => true
  | some n => !bit k.clGate n && !bit k.ungating n

/-- The core's clock runs and its state lets instructions in flight go on (R332). -/
def carriesOn (s : State) (c : CoreId) (q : SeqId) : Bool :=
  coreClocked s c && ((getCore s c).st == .running || (getCore s c).st == .paused) &&
    (getSeq s c q).st != .fault && ungated (getCore s c) q

/-- The sequencer may issue: its RUN bit is set and nothing stops it (Table 02-8, R30, R41, R332), it has not ended
(R37), and the core controller waits in no BARRIER (R40). -/
def mayIssue (s : State) (c : CoreId) (q : SeqId) : Bool :=
  carriesOn s c q && bit (getCore s c).seqRun q.val && !(getSeq s c q).ended &&
    !(q == ccSeq && (getCore s c).barrier.isSome)

/-- The state with a sequencer's status. -/
def setSt (s : State) (c : CoreId) (q : SeqId) (st : SqState) : State := modSeq s c q fun x => { x with st := st }

/-- Where control goes when it would go on at instruction n: a loop body that ends there goes back while iterations
remain, and a level that is complete ends (R461). -/
def loopStep (n : Nat) : List LoopLevel → Nat × List LoopLevel
  | [] => (n, [])
  | l :: t =>
    if n = l.first + l.len then
      if 1 < l.left then (l.first, { l with left := l.left - 1 } :: t) else loopStep n t
    else (n, l :: t)

/-- The PC moves on to instruction n without a transfer of control; past the end of the half the sequencer faults
PC_RANGE (R461). -/
def goOn (s : State) (c : CoreId) (q : SeqId) (opc : BitVec 8) (n : Nat) : State :=
  let r := loopStep n (getSeq s c q).loops
  if r.1 < halfLen q then modSeq s c q fun y => { y with pc := r.1, loops := r.2 }
  else seqFault s c q opc 0x0E

/-- The PC moves past an instruction that does not transfer control. -/
def advance (s : State) (c : CoreId) (q : SeqId) (opc : BitVec 8) : State := goOn s c q opc ((getSeq s c q).pc + 1)

/-- Bookkeeping of an issue: LAST_OPC, and the sequencer has run (Table 02-9, R318). -/
def issued (s : State) (c : CoreId) (q : SeqId) (opc : BitVec 8) : State :=
  modSeq s c q fun y => { y with lastOpc := opc, ran := true, dormant := false, st := .issuing }

/-- An operand in the remote form holds no credit on its channel (R32 condition 3). -/
def noCredit (x : SeqState) (d : Descr) (use : Nat) : Bool :=
  d.rmt && (if use = 3 then x.credit3 == 0 else x.credit1 == 0)

/-- An operand's first slot does not let it begin (R32 conditions 1 and 2). -/
def tagHolds (s : State) (c : CoreId) (d : Descr) : Bool := !d.rmt && !tagPasses d.tm (isFull s (slotOf c d.sa))

/-- An earlier DLOAD in flight writes a descriptor that this instruction names (R37). -/
def dloadPending (x : SeqState) (names : List Nat) : Bool :=
  x.infl.any fun f => opcodeOf f.word == 6 && names.contains (fld f.word 112 8)

/-- The state with instruction `word` of a sequencer changed in its list of instructions in flight. -/
def modFlight (s : State) (c : CoreId) (q : SeqId) (word : Word128) (f : InFlight → InFlight) : State :=
  modSeq s c q fun x => { x with infl := x.infl.map fun y => if y.word = word then f y else y }

/-- The instruction in flight with this word. -/
def flightOf (s : State) (c : CoreId) (q : SeqId) (word : Word128) : Option InFlight :=
  (getSeq s c q).infl.find? fun y => y.word == word

/-- The state as the instruction's descriptors see it: while it is in flight, those of its issue (R37: a later DADV or
DLOAD serves only the next instruction that names the descriptor). -/
def viewOf (s : State) (c : CoreId) (q : SeqId) (word : Word128) : State :=
  match flightOf s c q word with
  | some y => modSeq s c q fun x => { x with desc := y.view }
  | none => s

/-- Removing it. -/
def dropFlight (s : State) (c : CoreId) (q : SeqId) (word : Word128) : State :=
  modSeq s c q fun x => { x with infl := x.infl.filter fun y => y.word != word }

/-- One pass over the open accesses of an instruction in flight. -/
def tryFlight (s : State) (c : CoreId) (q : SeqId) (word : Word128) (ev : List EccEvent) (l : List Access) :
    State × Bool :=
  let s := modFlight s c q word fun y => { y with todo := [] }
  match tryAll c q ev [] s l with
  | (s, l, none) =>
    if l.all (·.phase == .done) then (modFlight s c q word fun y => { y with got := y.got ++ [l], todo := [] }, true)
    else (modFlight s c q word fun y => { y with todo := l }, false)
  | (s, _, some f) => (seqFault s c q (opcodeOf word) f, false)

/-- Carrying an instruction in flight on, phase by phase, as far as its accesses allow; n bounds the phases. -/
def carry (c : CoreId) (q : SeqId) (word : Word128) (ev : List EccEvent) (script : State → InFlight → Phase) :
    Nat → State → State
  | 0, s => s
  | n + 1, s =>
    match flightOf s c q word with
    | none => s
    | some y =>
      if y.todo.isEmpty then
        match script s y with
        | .access l =>
          match tryFlight s c q word ev l with
          | (s, true) => carry c q word ev script n s
          | (s, false) => s
        | .act f =>
          carry c q word ev script n (modFlight (f s) c q word fun y => { y with got := y.got ++ [[]] })
        | .finish f => f (dropFlight s c q word)
        | .hold => s
        | .fault code => seqFault s c q (opcodeOf word) code
      else
        match tryFlight s c q word ev y.todo with
        | (s, true) => carry c q word ev script n s
        | (s, false) => s

/-- The phases an attempt may go through. -/
def phaseLimit : Nat := 4096

/-- An instruction that passed its checks enters flight and is attempted. -/
def launch (s : State) (c : CoreId) (q : SeqId) (word : Word128) (ev : List EccEvent) (p : Plan)
    (script : State → InFlight → Phase) : State :=
  let s := p.atIssue (issued s c q (opcodeOf word))
  let s := modSeq s c q fun x =>
    { x with infl := x.infl ++ [{ word := word, view := x.desc, got := [], todo := [], notes := p.notes }] }
  let s := carry c q word ev script phaseLimit s
  if (getSeq s c q).st = .fault then s else advance s c q (opcodeOf word)

/-- The conditions of R32 in the order of the manual, after the checks of R35 and the engine's own. -/
def tryIssue (s : State) (c : CoreId) (q : SeqId) (word : Word128) (ev : List EccEvent) (p : Plan)
    (script : State → InFlight → Phase) : State :=
  let x := getSeq s c q
  let ds := p.ops.map fun o => (opnd s c q o.1, o.2)
  match p.bad with
  | some f => seqFault s c q (opcodeOf word) f
  | none =>
    if ds.any fun d => tagHolds s c d.1 then setSt s c q .waitTag
    else if ds.any fun d => noCredit x d.1 d.2 then setSt s c q .waitCredit
    else match p.held with
      | some st => setSt s c q st
      | none => launch s c q word ev p script

/-- The opcodes a sequencer executes (R37, Tables 03-7, 03-13, 04-5, 06-3, 07-3, 10-4, R278, R337). -/
def legalOpc (q : SeqId) (opc : BitVec 8) : Bool :=
  let n := opc.toNat
  if n < 8 then true
  else if n < 16 then q == ccSeq && decide (12 ≤ n) && decide (n ≤ 14)
  else if q.val < 4 then decide (n ≤ 0x15)
  else if q.val < 6 then decide (n ≤ 0x1D)
  else if q.val = 6 then decide (n ≤ 0x12)
  else if q.val < 15 then decide (n ≤ 0x16)
  else decide (n ≤ 0x13)

/-- The instruction presented is taken when it is the one at the PC and the sequencer may issue (R31, R32, R461); a
word at the PC whose opcode the sequencer does not have faults BAD_OPC, and so does a reserved bit that is set. -/
def offer (s : State) (c : CoreId) (q : SeqId) (word : Word128) (rsv : Word128) (names : List Nat)
    (go : State → State) : State :=
  let x := getSeq s c q
  if !mayIssue s c q || decide (2 ≤ x.infl.length) || dloadPending x names then s
  else if fetched x ≠ word then
    if legalOpc q (opcodeOf (fetched x)) then s else seqFault s c q (opcodeOf (fetched x)) 0x01
  else if x.pendFault ≠ 0 then seqFault s c q (opcodeOf word) x.pendFault
  else if word &&& rsv ≠ 0 then seqFault s c q (opcodeOf word) 0x01
  else go s

/-- An engine instruction (R31, R32, R461): carried on when in flight; else issued when it is the instruction at the
PC. `rsv` marks its reserved bits. -/
def engineInstr (s : State) (c : CoreId) (q : SeqId) (word : Word128) (rsv : Word128) (ev : List EccEvent)
    (plan : Plan) (script : State → InFlight → Phase) : State :=
  if (flightOf s c q word).isSome then
    if carriesOn s c q then carry c q word ev script phaseLimit s else s
  else offer s c q word rsv plan.names fun s => tryIssue s c q word ev plan script

/-- A control instruction: it completes at issue with the effect given, which moves the PC itself. -/
def controlInstr (s : State) (c : CoreId) (q : SeqId) (word : Word128) (rsv : Word128) (names : List Nat)
    (effect : State → State) : State :=
  offer s c q word rsv names effect

/-- A control instruction that then runs on to the next instruction. -/
def thenAdvance (c : CoreId) (q : SeqId) (opc : BitVec 8) (f : State → State) (s : State) : State :=
  advance (f (issued s c q opc)) c q opc

/-- Bits [hi:lo] as a mask of reserved bits. -/
def mask128 (hi lo : Nat) : Word128 := BitVec.ofNat 128 (2 ^ (hi + 1) - 2 ^ lo)

end Sys2Proof.Machine
end

