-- ==== Sys2Proof/Machine/Mask.lean ====
section
/-!
DEFINITION. Selection masks (R129 to R132): the header of Table 05-6, its form, the entries, and the accesses that
read them.
-/
namespace Sys2Proof.Machine

/-- A selection mask header, decoded (Table 05-6). -/
structure MaskHead where
  count    : Nat
  items : Nat
  width    : Nat
  kind     : Nat
  group    : Nat
  step     : Nat
  first    : Nat
  rsv      : Bool
  deriving DecidableEq, Repr

/-- Table 05-6. -/
def maskHeadOf (l : List Byte) : MaskHead where
  count := leAt l 0 4
  items := leAt l 4 4
  width := leAt l 8 1
  kind := leAt l 9 1
  group := leAt l 10 2
  step := leAt l 12 4
  first := leAt l 16 4
  rsv := leAt l 20 44 != 0

/-- The bytes of a mask: 64 and its whole entry slots (R130). -/
def MaskHead.bytes (h : MaskHead) : Nat := 64 + cdiv (h.count * h.width) 64 * 64

/-- The header is malformed, or the mask does not fit in a stream of n bytes (R130). -/
def MaskHead.bad (h : MaskHead) (n : Nat) : Bool :=
  (h.width != 2 && h.width != 4) || decide (3 < h.kind) || h.rsv || decide (n < h.bytes)

/-- The entries of a mask. -/
def maskEntries (h : MaskHead) (l : List Byte) : List Nat := (List.range h.count).map fun i => leAt l (i * h.width) h.width

/-- Strictly rising. -/
def rising : List Nat → Bool
  | a :: b :: t => decide (a < b) && rising (b :: t)
  | _ => true

/-- The first entry at or above UNIVERSE, or not below the number of rows of the gathered operand (R125, R130). -/
def maskOut (h : MaskHead) (rows : Nat) (l : List Nat) : Option Nat :=
  l.find? fun e => decide (h.items ≤ e) || decide (rows ≤ e)

/-- The read of a mask's header, under the descriptor's tag mode (R132). -/
def maskHeadReads (s : State) (c : CoreId) (o : Nat) (d : Descr) (prio : BitVec 2) : List Access :=
  reads o (placeOf s c d) d.tm prio (takePieces d.pieces 64)

/-- The reads of its entries, plain, after the header (R131). -/
def maskEntryReads (s : State) (c : CoreId) (o : Nat) (d : Descr) (prio : BitVec 2) (h : MaskHead) : List Access :=
  reads o (placeOf s c d) 0 prio (takePieces (dropPieces d.pieces 64) (h.bytes - 64))

/-- The header and entries of a mask as 64-byte slots, with the entry padding of R130. -/
def maskHeadBytes (h : MaskHead) : List Byte :=
  leBytes 4 h.count ++ leBytes 4 h.items ++ leBytes 1 h.width ++ leBytes 1 h.kind ++ leBytes 2 h.group ++
    leBytes 4 h.step ++ leBytes 4 h.first ++ List.replicate 44 0

/-- The entry slots of a mask: entries at WIDTH bytes, the last slot padded with all ones. -/
def maskEntryBytes (width : Nat) (l : List Nat) : List Byte :=
  let b := l.flatMap (leBytes width)
  b ++ List.replicate (cdiv b.length 64 * 64 - b.length) 0xFF

end Sys2Proof.Machine
end

