-- ==== Sys2Proof/Machine/Num.lean ====
section
/-!
DEFINITION. Numbers: the formats of Table 08-1, exact values, rounding (R192 to R197, R462), conversion with flags
(Table 08-2), and exact or correctly rounded arithmetic in FP32.
-/
namespace Sys2Proof.Machine

/-- A number: NaN, an infinity, or plus or minus m * 2^e. -/
inductive Val where
  | nan
  | inf (neg : Bool)
  | fin (neg : Bool) (m : Nat) (e : Int)
  deriving DecidableEq, Repr

/-- What a format code stands for (Table 08-1): a floating-point format (exponent and mantissa bits, bias, and kind
0 IEEE, 1 E4M3, 2 without special values), an integer, or nothing. -/
inductive Shape where
  | flt (eb mb bias kind : Nat)
  | int (bits : Nat)
  | none
  deriving DecidableEq, Repr

/-- Table 08-1. -/
def shapeOf (code : Nat) : Shape :=
  match code with
  | 0x0 => .flt 4 3 7 1
  | 0x1 => .flt 5 2 15 0
  | 0x2 => .int 8
  | 0x3 => .flt 4 3 7 1
  | 0x4 => .flt 5 2 15 0
  | 0x5 => .flt 3 2 3 2
  | 0x6 => .flt 2 3 1 2
  | 0x7 => .flt 2 1 1 2
  | 0x8 => .flt 8 7 127 0
  | 0x9 => .flt 5 10 15 0
  | 0xA => .int 4
  | 0xB => .flt 8 23 127 0
  | 0xC => .flt 8 31 127 0
  | 0xD => .int 32
  | _ => .none

/-- Bits of one element (Tables 04-2, 08-1). -/
def elemBits (code : Nat) : Nat :=
  match shapeOf code with
  | .flt eb mb _ _ => eb + mb + 1
  | .int n => n
  | .none => 8

/-- The format takes a block scale: MX codes 0x3 to 0x7 (R190) and the sketch format 0xA (R191). -/
def hasScale (code : Nat) : Bool := (decide (3 ≤ code) && decide (code ≤ 7)) || code == 0xA

/-- The value an element's bits stand for, without its block scale. -/
def decodeElem (code bits : Nat) : Val :=
  match shapeOf code with
  | .none => .nan
  | .int n => if bits < 2 ^ (n - 1) then .fin false bits 0 else .fin true (2 ^ n - bits) 0
  | .flt eb mb bias kind =>
    let neg := decide (2 ^ (eb + mb) ≤ bits)
    let e := bits / 2 ^ mb % 2 ^ eb
    let m := bits % 2 ^ mb
    if kind = 0 ∧ e = 2 ^ eb - 1 then (if m = 0 then .inf neg else .nan)
    else if kind = 1 ∧ e = 2 ^ eb - 1 ∧ m = 2 ^ mb - 1 then .nan
    else if e = 0 then .fin neg m (1 - bias - mb)
    else .fin neg (2 ^ mb + m) (e - bias - mb)

/-- The canonical NaN of a format (Table 08-1). -/
def canonicalNan (code : Nat) : Nat :=
  match shapeOf code with
  | .flt eb mb _ 0 => (2 ^ eb - 1) * 2 ^ mb + 2 ^ (mb - 1)
  | .flt eb mb _ 1 => (2 ^ eb - 1) * 2 ^ mb + (2 ^ mb - 1)
  | _ => 0

/-- Flags of the stream status word, bits [8:0] of Table 07-2. -/
abbrev Fl := BitVec 9

def flIV : Fl := 0x001
def flDZ : Fl := 0x002
def flOF : Fl := 0x004
def flUF : Fl := 0x008
def flIX : Fl := 0x010
def flNP : Fl := 0x020
def flSR : Fl := 0x040
def flSAT : Fl := 0x080
def flNANIN : Fl := 0x100

/-- A flag when b holds. -/
def flIf (b : Bool) (f : Fl) : Fl := if b then f else 0

/-- How a magnitude rounds: 0 to nearest even, 1 toward zero, 2 toward plus infinity, 3 toward minus infinity, 4
stochastic with a 32-bit draw (R196, R197). -/
structure Rnd where
  mode : Nat
  draw : BitVec 32
  deriving DecidableEq, Repr

/-- Round to nearest even. -/
def rne : Rnd := { mode := 0, draw := 0 }

/-- A directed or nearest mode. -/
def rndMode (n : Nat) : Rnd := { mode := n, draw := 0 }

/-- m / 2^s rounded to an integer, and whether that was inexact. -/
def roundShift (r : Rnd) (neg : Bool) (m s : Nat) : Nat × Bool :=
  let q := m / 2 ^ s
  let rem := m % 2 ^ s
  let half := 2 ^ (s - 1)
  let up :=
    if rem = 0 then false
    else match r.mode with
      | 0 => decide (half < rem) || (rem == half && s != 0 && q % 2 == 1)
      | 1 => false
      | 2 => !neg
      | 3 => neg
      | _ => decide (2 ^ 32 ≤ rem * 2 ^ 32 / 2 ^ s + r.draw.toNat)
  (if up then q + 1 else q, rem != 0)

/-- m * 2^e rounded to a multiple of 2^q: the multiple, and whether that was inexact. -/
def roundTo (r : Rnd) (neg : Bool) (m : Nat) (e q : Int) : Nat × Bool :=
  if q ≤ e then (m * 2 ^ (e - q).toNat, false) else roundShift r neg m (q - e).toNat

/-- The quantum of a floating-point format at m * 2^e: 2 to this (subnormals included). -/
def quantum (mb bias : Nat) (m : Nat) (e : Int) : Int := max (Nat.log2 m + e - mb) (1 - bias - mb)

/-- The largest finite magnitude of a floating-point format, as m * 2^e. -/
def maxFinite (eb mb bias kind : Nat) : Nat × Int :=
  if kind = 0 then (2 ^ (mb + 1) - 1, 2 ^ eb - 2 - bias - mb)
  else if kind = 1 then (2 ^ (mb + 1) - 2, 2 ^ eb - 1 - bias - mb)
  else (2 ^ (mb + 1) - 1, 2 ^ eb - 1 - bias - mb)

/-- a * 2^e < b * 2^f. -/
def magLt (a : Nat) (e : Int) (b : Nat) (f : Int) : Bool :=
  if e ≤ f then decide (a < b * 2 ^ (f - e).toNat) else decide (a * 2 ^ (e - f).toNat < b)

/-- Bits of the finite magnitude m * 2^q (q at least the subnormal quantum) in a floating-point format. -/
def packFinite (eb mb bias : Nat) (neg : Bool) (m : Nat) (q : Int) : Nat :=
  let s := if neg then 2 ^ (eb + mb) else 0
  if m = 0 then s
  else
    let q0 : Int := 1 - bias - mb
    let m := if q < q0 then m / 2 ^ (q0 - q).toNat else m
    let q := max q q0
    let l := Nat.log2 m
    if l < mb then (if q = q0 then s + m
      else -- normalise upward
        let k := min (mb - l) (q - q0).toNat
        let m := m * 2 ^ k
        let q := q - k
        if m < 2 ^ mb then s + m else s + (q - q0 + 1).toNat * 2 ^ mb + (m - 2 ^ mb))
    else
      let k := l - mb
      let m := m / 2 ^ k
      let q := q + k
      s + (q - q0 + 1).toNat * 2 ^ mb + (m - 2 ^ mb)

/-- Overflow goes to the infinity of the value's sign (Table 08-2, R197). -/
def overflowsToInf (r : Rnd) (neg : Bool) : Bool :=
  match r.mode with
  | 0 => true
  | 1 => false
  | 2 => !neg
  | 3 => neg
  | _ => true

/-- A value converted to a format (R194, Table 08-2): its bits and flags. A special value going to MXFP6, MXFP4 is
the block scale's business (R191) and gives 0 here. NP is set by whoever writes the element. -/
def convert (code : Nat) (r : Rnd) (v : Val) : Nat × Fl :=
  match shapeOf code, v with
  | .none, _ => (0, 0)
  | .flt eb mb bias kind, .fin neg m e =>
    if m = 0 then (packFinite eb mb bias neg 0 0, 0)
    else
      let q := quantum mb bias m e
      let p := roundTo r neg m e q
      let top := maxFinite eb mb bias kind
      if magLt top.1 top.2 p.1 q then
        if kind = 0 then
          if overflowsToInf r neg then ((if neg then 2 ^ (eb + mb) else 0) + (2 ^ eb - 1) * 2 ^ mb, flOF ||| flIX)
          else (packFinite eb mb bias neg top.1 top.2, flOF ||| flIX)
        else (packFinite eb mb bias neg top.1 top.2, flOF ||| flIX ||| flSAT)
      else
        let tiny := magLt p.1 q 1 (1 - bias)
        (packFinite eb mb bias neg p.1 q, flIf p.2 flIX ||| flIf (p.2 && tiny) flUF)
  | .flt eb mb _ kind, .inf neg =>
    if kind = 0 then ((if neg then 2 ^ (eb + mb) else 0) + (2 ^ eb - 1) * 2 ^ mb, 0)
    else if kind = 1 then (canonicalNan code, flIV)
    else (0, flIV)
  | .flt _ _ _ _, .nan => (canonicalNan code, 0)
  | .int n, .fin neg m e =>
    let p := roundTo r neg m e 0
    let lim := if neg then 2 ^ (n - 1) else 2 ^ (n - 1) - 1
    if lim < p.1 then ((if neg then 2 ^ (n - 1) else lim), flOF ||| flSAT ||| flIX)
    else ((if neg ∧ p.1 ≠ 0 then 2 ^ n - p.1 else p.1), flIf p.2 flIX ||| flIf (p.2 && p.1 == 0) flUF)
  | .int n, .inf neg => ((if neg then 2 ^ (n - 1) else 2 ^ (n - 1) - 1), flIV ||| flSAT)
  | .int _, .nan => (0, flIV)

/-- The bits are a NaN of the format. -/
def isNanBits (code bits : Nat) : Bool := decodeElem code bits == .nan

/-- A value times 2^k. -/
def Val.scale (v : Val) (k : Int) : Val :=
  match v with
  | .fin n m e => .fin n m (e + k)
  | x => x

/-- The value with its sign bit inverted. -/
def Val.neg (v : Val) : Val :=
  match v with
  | .nan => .nan
  | .inf n => .inf (!n)
  | .fin n m e => .fin (!n) m e

/-- Its magnitude. -/
def Val.abs (v : Val) : Val :=
  match v with
  | .nan => .nan
  | .inf _ => .inf false
  | .fin _ m e => .fin false m e

/-- Its sign bit. -/
def Val.sign (v : Val) : Bool :=
  match v with
  | .nan => false
  | .inf n => n
  | .fin n _ _ => n

/-- It is zero. -/
def Val.isZero (v : Val) : Bool :=
  match v with
  | .fin _ 0 _ => true
  | _ => false

/-- An element times its block's scale byte (R188): 0xFF makes it NaN. -/
def withScale (v : Val) (scale : Nat) : Val := if scale = 0xFF then .nan else v.scale ((scale : Int) - 127)

/-- A signed integer times 2^e as a value; a zero takes the sign given. -/
def valOfInt (n e : Int) (zeroNeg : Bool) : Val :=
  if n = 0 then .fin zeroNeg 0 e else .fin (decide (n < 0)) n.natAbs e

/-- The signed mantissa of a finite value. -/
def signed (neg : Bool) (m : Nat) : Int := if neg then -(m : Int) else m

/-- The exact sum, with the flag of an invalid one; a zero sum's sign follows R462 (`down` is RND 3). -/
def addV (down : Bool) (a b : Val) : Val × Fl :=
  match a, b with
  | .nan, _ => (.nan, 0)
  | _, .nan => (.nan, 0)
  | .inf x, .inf y => if x = y then (.inf x, 0) else (.nan, flIV)
  | .inf x, _ => (.inf x, 0)
  | _, .inf y => (.inf y, 0)
  | .fin x m e, .fin y n f =>
    let g := min e f
    let t := signed x m * 2 ^ (e - g).toNat + signed y n * 2 ^ (f - g).toNat
    (valOfInt t g (if m = 0 ∧ n = 0 ∧ x = y then x else down), 0)

/-- The exact product. -/
def mulV (a b : Val) : Val × Fl :=
  match a, b with
  | .nan, _ => (.nan, 0)
  | _, .nan => (.nan, 0)
  | .inf x, .inf y => (.inf (x != y), 0)
  | .inf x, .fin y n _ => if n = 0 then (.nan, flIV) else (.inf (x != y), 0)
  | .fin x m _, .inf y => if m = 0 then (.nan, flIV) else (.inf (x != y), 0)
  | .fin x m e, .fin y n f => (.fin (x != y) (m * n) (e + f), 0)

/-- An exact sum of terms (R462): zero is +0 unless every term is -0. -/
def sumV (l : List Val) : Val × Fl :=
  match l with
  | [] => (.fin false 0 0, 0)
  | a :: t => t.foldl (fun acc x =>
      let r := addV false acc.1 x
      (r.1, acc.2 ||| r.2)) (a, 0)

/-- m / n with at least 64 more bits than needed and a sticky last bit, as a mantissa and exponent. -/
def divMag (m : Nat) (e : Int) (n : Nat) (f : Int) : Nat × Int :=
  let k := 80 + Nat.log2 n
  let q := m * 2 ^ k / n
  let s := if m * 2 ^ k % n = 0 then 0 else 1
  (2 * q + s, e - f - k - 1)

/-- The quotient (R170): DZ for a finite non-zero value over zero, IV for 0/0 and inf/inf. -/
def divV (a b : Val) : Val × Fl :=
  match a, b with
  | .nan, _ => (.nan, 0)
  | _, .nan => (.nan, 0)
  | .inf _, .inf _ => (.nan, flIV)
  | .inf x, .fin y _ _ => (.inf (x != y), 0)
  | .fin x _ _, .inf y => (.fin (x != y) 0 0, 0)
  | .fin x m e, .fin y n f =>
    if n = 0 then (if m = 0 then (.nan, flIV) else (.inf (x != y), flDZ))
    else
      let d := divMag m e n f
      (.fin (x != y) d.1 d.2, 0)

/-- Integer square root, bit by bit from bit k down. -/
def isqrtFrom (n : Nat) : Nat → Nat → Nat
  | 0, r => r
  | k + 1, r => isqrtFrom n k (if (r + 2 ^ k) * (r + 2 ^ k) ≤ n then r + 2 ^ k else r)

/-- Integer square root. -/
def isqrt (n : Nat) : Nat := isqrtFrom n (Nat.log2 n / 2 + 1) 0

/-- The square root of a non-negative finite magnitude, with a sticky last bit. -/
def sqrtMag (m : Nat) (e : Int) : Nat × Int :=
  let k : Nat := 160 + (e % 2).toNat
  let n := m * 2 ^ k
  let r := isqrt n
  (2 * r + (if r * r = n then 0 else 1), (e - k) / 2 - 1)

/-- The square root (R170): IV below zero; -0 stays. -/
def sqrtV (a : Val) : Val × Fl :=
  match a with
  | .nan => (.nan, 0)
  | .inf true => (.nan, flIV)
  | .inf false => (.inf false, 0)
  | .fin x m e =>
    if m = 0 then (.fin x 0 0, 0)
    else if x then (.nan, flIV)
    else
      let r := sqrtMag m e
      (.fin false r.1 r.2, 0)

/-- FP32 code. -/
def cF32 : Nat := 0xB

/-- A value rounded to FP32, as a value. -/
def toF32 (r : Rnd) (v : Val) : Val × Fl :=
  let c := convert cF32 r v
  (decodeElem cF32 c.1, c.2)

/-- FP32 bits of a value that FP32 holds exactly or that is rounded to nearest even. -/
def f32Bits (v : Val) : BitVec 32 := BitVec.ofNat 32 (convert cF32 rne v).1

/-- The value of FP32 bits. -/
def f32Val (b : BitVec 32) : Val := decodeElem cF32 b.toNat

/-- FP32 addition with round-to-nearest-even (R87, R172). -/
def f32Add (a b : BitVec 32) : BitVec 32 := f32Bits (addV false (f32Val a) (f32Val b)).1

/-- FP32 multiplication with round-to-nearest-even. -/
def f32Mul (a b : BitVec 32) : BitVec 32 := f32Bits (mulV (f32Val a) (f32Val b)).1

/-- a < b as numbers; false when either is NaN. -/
def ltV (a b : Val) : Bool :=
  match a, b with
  | .nan, _ => false
  | _, .nan => false
  | .inf x, .inf y => x && !y
  | .inf x, .fin _ _ _ => x
  | .fin _ _ _, .inf y => !y
  | .fin x m e, .fin y n f =>
    let g := min e f
    decide (signed x m * 2 ^ (e - g).toNat < signed y n * 2 ^ (f - g).toNat)

/-- a ranks below b: by value, and -0 below +0 (R170). -/
def ranksBelow (a b : Val) : Bool := ltV a b || (a.isZero && b.isZero && a.sign && !b.sign)

/-- IEEE maximumNumber: a NaN operand is discarded, with NANIN. -/
def maxV (a b : Val) : Val × Fl :=
  match a, b with
  | .nan, .nan => (.nan, flNANIN)
  | .nan, y => (y, flNANIN)
  | x, .nan => (x, flNANIN)
  | x, y => (if ranksBelow x y then y else x, 0)

/-- IEEE minimumNumber. -/
def minV (a b : Val) : Val × Fl :=
  match a, b with
  | .nan, .nan => (.nan, flNANIN)
  | .nan, y => (y, flNANIN)
  | x, .nan => (x, flNANIN)
  | x, y => (if ranksBelow y x then y else x, 0)

/-- Element i of a packed stream of a format (R163): its bits. -/
def elemAt (code : Nat) (l : List Byte) (i : Nat) : Nat := bitsAt l (i * elemBits code) (elemBits code)

/-- A stream of elements packed, lowest bit first, into whole bytes. -/
def packElems (code : Nat) (l : List Nat) : List Byte :=
  let w := elemBits code
  leBytes (cdiv (l.length * w) 8) (l.foldr (fun x acc => x % 2 ^ w + 2 ^ w * acc) 0)

/-- Element values of a stream with one scale byte for each 32 elements where the format has one. -/
def elemVals (code : Nat) (l scales : List Byte) (n : Nat) : List Val :=
  (List.range n).map fun i =>
    let v := decodeElem code (elemAt code l i)
    if hasScale code then withScale v ((scales.getD (i / 32) 0).toNat) else v

end Sys2Proof.Machine
end

