-- ==== Sys2Proof/Machine/NumFn.lean ====
section
/-!
DEFINITION. The real functions of Table 07-4 (EXP, LOG, TANH, SIGMOID, SILU, GELU), correctly rounded: each is enclosed
between two dyadic numbers at a rising precision until both round alike.
-/
namespace Sys2Proof.Machine

/-- Bounds of a positive real: lo * 2^e and hi * 2^e. -/
structure Enc where
  lo : Nat
  hi : Nat
  e  : Int
  deriving DecidableEq, Repr

/-- Sum of 2^p / (n * 2^n), n = k .. : ln 2 from below. -/
def ln2Sum (p : Nat) : Nat → Nat → Nat
  | 0, _ => 0
  | f + 1, n => 2 ^ p / (n * 2 ^ n) + ln2Sum p f (n + 1)

/-- ln 2 scaled by 2^p, from below, within p + 8. -/
def ln2Fix (p : Nat) : Nat := ln2Sum p (p + 4) 1

/-- Taylor terms of e^r from term t at index n, r scaled by 2^p. -/
def expSum (p r : Nat) : Nat → Nat → Nat → Nat
  | 0, _, _ => 0
  | f + 1, n, t => if t = 0 then 0 else t + expSum p r f (n + 1) (t * r / (2 ^ p * n))

/-- x * 2^p rounded down, for x = s * m * 2^e. -/
def fixOf (p : Nat) (neg : Bool) (m : Nat) (e : Int) : Int :=
  if 0 ≤ e + p then signed neg m * 2 ^ (e + p).toNat else signed neg m / 2 ^ (-(e + p)).toNat

/-- e^X for X between x and x + 1 over 2^p, with |X| at most 2,000. -/
def expEnc (p : Nat) (x : Int) : Enc :=
  let l : Int := ln2Fix p
  let k := x / l
  let r := (x - k * l).toNat
  let s := expSum p r (p + 20) 1 (2 ^ p)
  { lo := s - 2 ^ 14 * (p + 32), hi := s + 2 ^ 14 * (p + 32), e := k - p }

/-- 1 / (1 + y) for y enclosed. -/
def oneOver1p (p : Nat) (y : Enc) : Enc :=
  -- one as an integer at y's scale, or y at one's scale
  if y.e ≤ 0 then
    let one := 2 ^ (-y.e).toNat
    let q := p + Nat.log2 (one + y.hi) + 8
    { lo := 2 ^ q * one / (one + y.hi), hi := 2 ^ q * one / (one + y.lo) + 1, e := -q }
  else
    let t := 2 ^ y.e.toNat
    let q := p + Nat.log2 (1 + y.hi * t) + 8
    { lo := 2 ^ q / (1 + y.hi * t), hi := 2 ^ q / (1 + y.lo * t) + 1, e := -q }

/-- The product of two enclosures. -/
def mulEnc (a b : Enc) : Enc := { lo := a.lo * b.lo, hi := a.hi * b.hi, e := a.e + b.e }

/-- sigmoid of X between x and x + 1 over 2^p: 1 / (1 + e^-X) for X not below 0, else e^X / (1 + e^X). -/
def sigmoidEnc (p : Nat) (x : Int) : Enc :=
  if 0 ≤ x then oneOver1p p (expEnc p (-x - 1))
  else
    let y := expEnc p x
    mulEnc y (oneOver1p p y)

/-- atanh series: sum of t^(2k+1)/(2k+1) from term `pow` = t^(2k+1) scaled by 2^p. -/
def atanhSum (p t2 : Nat) : Nat → Nat → Nat → Nat
  | 0, _, _ => 0
  | f + 1, n, pow => if pow = 0 then 0 else pow / n + atanhSum p t2 f (n + 2) (pow * t2 / 2 ^ p)

/-- |ln (m * 2^e)| with its sign, m positive: bounds as signed integers over 2^p. -/
def lnFix (p m : Nat) (e : Int) : Int × Int :=
  let l := Nat.log2 m
  let k : Int := l + e
  -- y = m / 2^l in [1, 2); t = (y - 1) / (y + 1)
  let t := (m - 2 ^ l) * 2 ^ p / (m + 2 ^ l)
  let a : Int := 2 * (atanhSum p (t * t / 2 ^ p) (p + 20) 1 t : Nat)
  let err : Int := 8 * (p + 32)
  let base := a + k * (ln2Fix p : Int)
  (base - err - (p + 8) * k.natAbs, base + err + (p + 8) * k.natAbs)

/-- Both bounds of an enclosure round to the same FP32 value under r. -/
def agreeRound (r : Rnd) (neg : Bool) (x : Enc) : Option (Nat × Fl) :=
  let a := convert cF32 r (.fin neg x.lo x.e)
  let b := convert cF32 r (.fin neg x.hi x.e)
  if a.1 = b.1 ∧ x.lo ≠ 0 then some (a.1, a.2 ||| b.2 ||| flIX) else none

/-- The rounding at the first precision of the list that decides it; at the last, the lower bound's. -/
def zivRound (r : Rnd) (neg : Bool) (f : Nat → Enc) : List Nat → Nat × Fl
  | [] => (0, flIX)
  | [p] => convert cF32 r (.fin neg (f p).lo (f p).e)
  | p :: t =>
    match agreeRound r neg (f p) with
    | some x => x
    | none => zivRound r neg f t

/-- The precisions tried. -/
def precisions : List Nat := [96, 192, 384, 768, 1536]

/-- A correctly rounded FP32 value of an enclosed positive real with a sign. -/
def roundEnc (r : Rnd) (neg : Bool) (f : Nat → Enc) : Val × Fl :=
  let x := zivRound r neg f precisions
  (decodeElem cF32 x.1, x.2)

/-- A value above every finite FP32 value, and one below the smallest, both inexact. -/
def hugeEnc : Nat → Enc := fun _ => { lo := 3, hi := 3, e := 4000 }
def tinyEnc : Nat → Enc := fun _ => { lo := 3, hi := 3, e := -4000 }

/-- |x| exceeds the integer n. -/
def magAbove (m : Nat) (e : Int) (n : Nat) : Bool := magLt n 0 m e

/-- A magnitude just below m * 2^e. -/
def justBelow (m : Nat) (e : Int) : Nat → Enc :=
  fun _ => { lo := m * 2 ^ 200 - 1, hi := m * 2 ^ 200 - 1, e := e - 200 }

/-- EXP (R170). -/
def expV (r : Rnd) (a : Val) : Val × Fl :=
  match a with
  | .nan => (.nan, 0)
  | .inf n => if n then (.fin false 0 0, 0) else (.inf false, 0)
  | .fin n m e =>
    if m = 0 then (.fin false 1 0, 0)
    else if magAbove m e 1000 then roundEnc r false (if n then tinyEnc else hugeEnc)
    else roundEnc r false fun p => expEnc p (fixOf p n m e)

/-- LOG (R170). -/
def logV (r : Rnd) (a : Val) : Val × Fl :=
  match a with
  | .nan => (.nan, 0)
  | .inf n => if n then (.nan, flIV) else (.inf false, 0)
  | .fin n m e =>
    if m = 0 then (.inf true, flDZ)
    else if n then (.nan, flIV)
    else if m * 2 ^ (e + Nat.log2 m).toNat = 2 ^ (Nat.log2 m + (e + Nat.log2 m).toNat) ∧ e + Nat.log2 m = 0 then
      (.fin false 0 0, 0)
    else
      let neg := decide (e + Nat.log2 m < 0)
      roundEnc r neg fun p =>
        let b := lnFix p m e
        if neg then { lo := (-b.2).toNat, hi := (-b.1).toNat, e := -(p : Int) }
        else { lo := b.1.toNat, hi := b.2.toNat, e := -(p : Int) }

/-- SIGMOID (R170). -/
def sigmoidV (r : Rnd) (a : Val) : Val × Fl :=
  match a with
  | .nan => (.nan, 0)
  | .inf n => if n then (.fin false 0 0, 0) else (.fin false 1 0, 0)
  | .fin n m e =>
    if m = 0 then (.fin false 1 (-1), 0)
    else if magAbove m e 1000 then roundEnc r false (if n then tinyEnc else justBelow 1 0)
    else roundEnc r false fun p => sigmoidEnc p (fixOf p n m e)

/-- TANH (R170): 1 - 2 / (e^2x + 1) by its magnitude; near zero just below the argument. -/
def tanhV (r : Rnd) (a : Val) : Val × Fl :=
  match a with
  | .nan => (.nan, 0)
  | .inf n => (.fin n 1 0, 0)
  | .fin n m e =>
    if m = 0 then (a, 0)
    else if magAbove m e 500 then roundEnc r n (justBelow 1 0)
    else if magLt m e 1 (-30) then roundEnc r n (justBelow m e)
    else roundEnc r n fun p =>
      let x := oneOver1p p (expEnc p (fixOf p false m (e + 1)))
      let one := 2 ^ (-x.e).toNat
      { lo := one - 2 * x.hi, hi := one - 2 * x.lo, e := x.e }

/-- x times the sigmoid of an argument, as an enclosure. -/
def timesSigmoid (m : Nat) (e : Int) (p : Nat) (arg : Int) : Enc :=
  let s := sigmoidEnc p arg
  { lo := m * s.lo, hi := m * s.hi, e := e + s.e }

/-- SILU (R170): a times its sigmoid; -0 at minus infinity. -/
def siluV (r : Rnd) (a : Val) : Val × Fl :=
  match a with
  | .nan => (.nan, 0)
  | .inf n => if n then (.fin true 0 0, 0) else (.inf false, 0)
  | .fin n m e =>
    if m = 0 then (a, 0)
    else if magAbove m e 1000 then roundEnc r n (if n then tinyEnc else justBelow m e)
    else roundEnc r n fun p => timesSigmoid m e p (fixOf p n m e)

/-- 2 * 0.7978846 * (x + 0.044715 x^3) scaled by 2^p, rounded down, for x = X / 2^f with X an integer. -/
def geluArg (p : Nat) (x : Int) (f : Nat) : Int :=
  -- 2 * 0.7978846 = 15957692 / 10^7; 0.044715 = 44715 / 10^6
  15957692 * (x * 10 ^ 6 * 2 ^ (2 * f) + 44715 * x * x * x) * 2 ^ p / (10 ^ 13 * 2 ^ (3 * f))

/-- GELU (R170): 0.5 a (1 + tanh z) = a * sigmoid(2 z). -/
def geluV (r : Rnd) (a : Val) : Val × Fl :=
  match a with
  | .nan => (.nan, 0)
  | .inf n => if n then (.fin true 0 0, 0) else (.inf false, 0)
  | .fin n m e =>
    if m = 0 then (a, 0)
    else if magAbove m e 24 then roundEnc r n (if n then tinyEnc else justBelow m e)
    else
      let f := (-e).toNat
      let x := signed n m * 2 ^ (e + f).toNat
      roundEnc r n fun p => timesSigmoid m e p (geluArg p x f)

/-- FP32 e^a, rounded to nearest even. -/
def f32Exp (a : BitVec 32) : BitVec 32 := f32Bits (expV rne (f32Val a)).1

end Sys2Proof.Machine
end

