-- ==== Sys2Proof/Machine/LastCalc.lean ====
section
/-!
DEFINITION. The arithmetic of a Last: cell geometry (Table 04-1), partition shapes (Table 04-4), accepted pairs (Table
04-3), segment sums (R87), structured groups (R108 to R111) and the NZB tile plan (R112 to R118, R124).
-/
namespace Sys2Proof.Machine

/-- Cell word bits, index bits and depth of a format and sparsity (Table 04-1): SP 0 dense, 1 S24, 2 S14, 3 NZB. -/
structure Cell where
  word : Nat
  idx  : Nat
  d    : Nat
  deriving DecidableEq, Repr

/-- Table 04-1. -/
def cellOf (fmt sp : Nat) : Option Cell :=
  let we := elemBits fmt
  if 0xB ≤ fmt then none
  else if fmt = 0xA then (if sp = 0 then some { word := 16, idx := 0, d := 4 } else none)
  else if we = 8 then
    match sp with
    | 0 => some { word := 8, idx := 0, d := 1 }
    | 1 => some { word := 16, idx := 4, d := 4 }
    | 2 => some { word := 8, idx := 2, d := 4 }
    | _ => if fmt ≤ 2 then some { word := 8, idx := 0, d := 1 } else none
  else if we = 16 then
    match sp with
    | 0 => some { word := 16, idx := 0, d := 1 }
    | 1 => some { word := 32, idx := 4, d := 4 }
    | 2 => some { word := 16, idx := 2, d := 4 }
    | _ => some { word := 16, idx := 0, d := 1 }
  else
    match sp with
    | 0 => some { word := 2 * we, idx := 0, d := 2 }
    | 1 => some { word := 2 * we, idx := 4, d := 4 }
    | 2 => some { word := 2 * we, idx := 4, d := 8 }
    | _ => none

/-- The cell of an accepted format, else of FP8. -/
def cellD (fmt sp : Nat) : Cell := (cellOf fmt sp).getD { word := 8, idx := 0, d := 1 }

/-- Table 04-3: weight and activation formats that pair. -/
def pairOk (w a : Nat) : Bool :=
  if w ≤ 1 then decide (a ≤ 1)
  else if 3 ≤ w ∧ w ≤ 7 then decide (3 ≤ a) && decide (a ≤ 7)
  else a == w && decide (w ≤ 0xA)

/-- Row groups of a shape, kK (Table 04-4). -/
def rowGroups (shape : BitVec 3) : Nat := if shape.toNat < 3 then 1 else if shape.toNat < 5 then 2 else 4

/-- Column groups of a shape, kN. -/
def colGroups (shape : BitVec 3) : Nat :=
  match shape.toNat with
  | 0 => 1
  | 1 => 2
  | 2 => 4
  | 3 => 2
  | _ => 4

/-- Partitions. -/
def parts (shape : BitVec 3) : Nat := rowGroups shape * colGroups shape

/-- Rows, columns and entries of a partition. -/
def partRows (shape : BitVec 3) : Nat := 128 / rowGroups shape

def partCols (shape : BitVec 3) : Nat := 512 / colGroups shape

def partEntries (shape : BitVec 3) : Nat := 64 / rowGroups shape

/-- Bytes of one column's scales and index bits (R90, R111): r_p rows. -/
def sideCol (fmt sp rp : Nat) : Nat :=
  let k := cellD fmt sp
  (if hasScale fmt then rp * k.d / 32 else 0) + rp * k.idx / 8

/-- Bytes of the weight stream of a partition (R90). -/
def weightBytes (fmt sp : Nat) (shape : BitVec 3) : Nat := partCols shape * partRows shape * (cellD fmt sp).word / 8

/-- Bytes of the side stream of a partition (R90). -/
def sideBytes (fmt sp : Nat) (shape : BitVec 3) : Nat := partCols shape * sideCol fmt sp (partRows shape)

/-- Elements of one vector of a partition. -/
def vecElems (fmt sp : Nat) (shape : BitVec 3) : Nat := partRows shape * (cellD fmt sp).d

/-- Index bits of a row of a column (R111). -/
def indexBits (side : List Byte) (fmt sp rp col row : Nat) : Nat :=
  let k := cellD fmt sp
  let sc := if hasScale fmt then rp * k.d / 32 else 0
  bitsAt (side.drop (col * sideCol fmt sp rp + sc)) (row * k.idx) k.idx

/-- The positions a 4-bit mask declares, ascending. -/
def maskPos (m : Nat) : List Nat := [0, 1, 2, 3].filter fun p => m.testBit p

/-- A stored weight: its element along K in the partition and its value. -/
structure Term where
  k : Nat
  v : Val
  deriving DecidableEq, Repr

/-- The weights a cell holds (R85, R109, R110): element k of the column and the value with its block scale. A group
with more than two positions gives its values to the two lowest (R124). -/
def cellTerms (words side : List Byte) (fmt sp rp col row : Nat) : List Term :=
  let c := cellD fmt sp
  let we := elemBits fmt
  let base := (col * rp + row) * c.word
  let val := fun (slot k : Nat) =>
    let v := decodeElem fmt (bitsAt words (base + slot * we) we)
    if hasScale fmt then withScale v ((side.getD (col * sideCol fmt sp rp + k / 32) 0).toNat) else v
  let i := indexBits side fmt sp rp col row
  if sp = 1 then
    (((maskPos i).take 2).zipIdx).map fun x => { k := row * c.d + x.1, v := val x.2 (row * c.d + x.1) }
  else if sp = 2 then
    (List.range (c.d / 4)).map fun g =>
      let k := row * c.d + 4 * g + i / 4 ^ g % 4
      { k := k, v := val g k }
  else (List.range c.d).map fun j => { k := row * c.d + j, v := val j (row * c.d + j) }

/-- The terms of one column of a partition, row by row. -/
def columnTerms (words side : List Byte) (fmt sp rp col : Nat) : List (List Term) :=
  (List.range rp).map fun r => cellTerms words side fmt sp rp col r

/-- The exact sum of a segment's products, rounded once to FP32 (R87). -/
def segSum (l : List Term) (act : Nat → Val) : Val :=
  (toF32 rne (sumV (l.map fun t => (mulV t.v (act t.k)).1)).1).1

/-- Segment results added north to south into the running FP32 value, which starts as the first. -/
def runSegs : List Val → Val
  | [] => .fin false 0 0
  | a :: t => t.foldl (fun acc x => (toF32 rne (addV false acc x).1).1) a

/-- The value of a column of a partition for one vector (R87): segments of 32 rows. -/
def columnValue (rows : List (List Term)) (act : Nat → Val) : BitVec 32 :=
  f32Bits (runSegs ((chunk 32 rows).map fun seg => segSum seg.flatten act))

/-- The same for pass x of the dense expansion of R124: elements x*kd to x*kd+kd-1, dd to a row. -/
def expandedValue (rows : List (List Term)) (act : Nat → Val) (x kd dd : Nat) : BitVec 32 :=
  let ts := (rows.flatten.filter fun t => decide (x * kd ≤ t.k) && decide (t.k < (x + 1) * kd))
  f32Bits (runSegs ((List.range (cdiv (kd / dd) 32)).map fun g =>
    segSum (ts.filter fun t => (t.k - x * kd) / dd / 32 == g) act))

/-- The first S24 group of a partition with more than two positions: column, row and mask (Table 05-4). -/
def badGroup (side : List Byte) (fmt rp cp : Nat) : Option (Nat × Nat × Nat) :=
  ((List.range cp).flatMap fun c => (List.range rp).map fun r => (c, r, indexBits side fmt 1 rp c r)).find? fun x =>
    decide (2 < (maskPos x.2.2).length)

/-- Passes of the dense expansion of a violated S24 tile (R124). -/
def expandPasses (fmt : Nat) : Nat := if elemBits fmt = 8 ∨ elemBits fmt = 16 then 4 else 2

/-- An NZB panel header, decoded (Table 05-3). -/
structure PanelHead where
  version  : Nat
  fmt      : Nat
  strips   : Nat
  kstripes : Nat
  ntiles   : Nat
  thr      : Nat
  rsv      : Bool
  nblk     : Nat
  cnt      : List Nat
  deriving DecidableEq, Repr

/-- Table 05-3. -/
def panelHeadOf (l : List Byte) : PanelHead where
  version := leAt l 0 2
  fmt := leAt l 2 1
  strips := leAt l 3 1
  kstripes := leAt l 4 2
  ntiles := leAt l 6 2
  thr := leAt l 8 1
  rsv := leAt l 9 3 != 0 || leAt l 0x50 48 != 0
  nblk := leAt l 0xC 4
  cnt := (List.range 32).map fun j => leAt l (0x10 + 2 * j) 2

/-- Bytes of one block. -/
def blockBytes (fmt : Nat) : Nat := 32 * elemBits fmt

/-- Stripes a slot offers (R116). -/
def slotOffers (fmt : Nat) : Nat := if elemBits fmt = 8 then 4 else 2

/-- The bytes of the header and index region (R115). -/
def panelIndexBytes (nblk : Nat) : Nat := 128 + cdiv (2 * nblk) 64 * 64

/-- A stored block of a strip: its stripe and its number in the panel. -/
structure BlockRef where
  stripe : Nat
  blk    : Nat
  deriving DecidableEq, Repr

/-- The blocks of each strip (R113). -/
def panelStrips (idx : List Byte) : List Nat → Nat → List (List BlockRef)
  | [], _ => []
  | n :: t, b =>
    ((List.range n).map fun i => ({ stripe := leAt idx (2 * (b + i)) 2, blk := b + i } : BlockRef)) :: panelStrips idx t (b + n)

/-- The first strip whose stripes are not strictly ascending: strip and stripe (Table 05-4). -/
def disorderOf (l : List (List BlockRef)) : Option (Nat × Nat) :=
  (l.zipIdx.flatMap fun s => ((s.1.zip (s.1.drop 1)).filter fun p => decide (p.2.stripe ≤ p.1.stripe)).map fun p =>
    (s.2, p.2.stripe)).head?

/-- The first stripe of KSTRIPES or above. -/
def rangeOf (l : List (List BlockRef)) (k : Nat) : Option (Nat × Nat) :=
  (l.zipIdx.flatMap fun s => (s.1.filter fun b => decide (k ≤ b.stripe)).map fun b => (s.2, b.stripe)).head?

/-- Blocks in ascending stripe order. -/
def insertBlock (b : BlockRef) : List BlockRef → List BlockRef
  | [] => [b]
  | x :: t => if b.stripe < x.stripe then b :: x :: t else x :: insertBlock b t

def sortBlocks (l : List BlockRef) : List BlockRef := l.foldr insertBlock []

/-- Counts of the stripes demanded, in ascending stripe order. -/
def demandAdd (k : Nat) : List (Nat × Nat) → List (Nat × Nat)
  | [] => [(k, 1)]
  | (x, n) :: t => if k < x then (k, 1) :: (x, n) :: t else if k = x then (x, n + 1) :: t else (x, n) :: demandAdd k t

/-- The stripe of largest demand, ties to the lower stripe. -/
def topDemand : List (Nat × Nat) → Option (Nat × Nat)
  | [] => none
  | p :: t =>
    match topDemand t with
    | none => some p
    | some r => if r.2 ≤ p.2 then some p else some r

/-- The o stripes of largest demand, in the order chosen (R117). -/
def offered : Nat → List (Nat × Nat) → List Nat
  | 0, _ => []
  | o + 1, l =>
    match topDemand l with
    | none => []
    | some p => p.1 :: offered o (l.filter fun x => x.1 != p.1)

/-- One slot of a tile: each live strip takes its lowest remaining block that is offered (R117). A strip's remaining
blocks ascend, so that block is offered only when it is the strip's first or follows blocks not offered. -/
def takeSlot (o slot : Nat) (strips : List (List BlockRef)) : List (List BlockRef) × List (List NzbBlock) :=
  let offers := offered o (strips.foldl (fun d s => match s with | [] => d | b :: _ => demandAdd b.stripe d) [])
  let step := strips.map fun s =>
    match s.find? fun b => offers.contains b.stripe with
    | none => (s, [])
    | some b => (s.erase b,
        [({ slot := slot, stripe := b.stripe, offer := offers.idxOf b.stripe, blk := b.blk, data := [] } : NzbBlock)])
  (step.map (·.1), step.map (·.2))

/-- Two lists of strips joined strip by strip. -/
def joinStrips : List (List NzbBlock) → List (List NzbBlock) → List (List NzbBlock)
  | a :: s, b :: t => (a ++ b) :: joinStrips s t
  | _, t => t

/-- The eight slots of a tile. -/
def fillTile (o : Nat) : List Nat → List (List BlockRef) → List (List BlockRef) × List (List NzbBlock)
  | [], st => (st, [])
  | b :: t, st =>
    let r := takeSlot o b st
    let rest := fillTile o t r.1
    (rest.1, joinStrips r.2 rest.2)

/-- Tiles until every block is placed: first those in main, then those deferred (R117). -/
def planTiles (o : Nat) : Nat → List (List BlockRef) → List (List BlockRef) → List (List (List NzbBlock))
  | 0, _, _ => []
  | n + 1, main, deferred =>
    if main.all (·.isEmpty) then
      if deferred.all (·.isEmpty) then []
      else
        let r := fillTile o (List.range 8) deferred
        r.2 :: planTiles o n main r.1
    else
      let r := fillTile o (List.range 8) main
      r.2 :: planTiles o n r.1 deferred

/-- cap = max(8, ceil(thr / 4 * nblk / strips)), THR 0 standing for 16 (R117). -/
def splitCap (h : PanelHead) : Nat := max 8 (cdiv ((if h.thr = 0 then 16 else h.thr) * h.nblk) (4 * h.strips))

/-- The tiles of a panel (R117): one more than NTILES may hold is enough to see that the count differs. -/
def panelTiles (h : PanelHead) (strips : List (List BlockRef)) : List (List (List NzbBlock)) :=
  let sorted := strips.map sortBlocks
  let cap := splitCap h
  planTiles (slotOffers h.fmt) 1025 (sorted.map (·.take cap)) (sorted.map (·.drop cap))

/-- The header breaks NZB_FORM apart from the tile count (Table 05-4, Table 05-3, R115): the instruction's format, and
the lengths of DX and DW. -/
def panelBad (h : PanelHead) (fmt dx dw : Nat) : Bool :=
  h.version != 1 || h.rsv || h.fmt != fmt || h.strips == 0 || decide (32 < h.strips) || h.kstripes == 0 ||
    decide (4096 < h.kstripes) || h.ntiles == 0 || decide (1024 < h.ntiles) || (decide (0 < h.thr) && decide (h.thr < 8)) ||
    (h.cnt.take h.strips).sum != h.nblk || (h.cnt.drop h.strips).any (· != 0) ||
    dx != panelIndexBytes h.nblk || dw != h.nblk * blockBytes h.fmt

/-- The plan of a panel from its header and index region. -/
def planOf (sa : Nat) (l : List Byte) : PanelPlan :=
  let h := panelHeadOf l
  let strips := panelStrips (l.drop 128) (h.cnt.take h.strips) 0
  { sa := sa, tiles := panelTiles h strips, next := 0, kstripes := h.kstripes,
    disorder := disorderOf strips, range := rangeOf strips h.kstripes }

/-- The terms of one column of an NZB tile, by physical row: block column cc of each block the strip took. Element k is
the matrix element stripe * 16 + i. -/
def nzbRows (fmt : Nat) (blocks : List NzbBlock) (cc : Nat) : List (List Term) :=
  let we := elemBits fmt
  (List.range 128).map fun r =>
    (blocks.filter fun b => b.slot == r / 16).map fun b =>
      { k := b.stripe * 16 + r % 16, v := decodeElem fmt (bitsAt b.data ((cc * 16 + r % 16) * we) we) }

/-- The blocks of a strip that repeat a stripe already placed in it (R124). -/
def repeats : List NzbBlock → List NzbBlock → List NzbBlock
  | _, [] => []
  | seen, b :: t => if seen.any fun x => x.stripe == b.stripe then b :: repeats seen t else repeats (b :: seen) t

/-- The blocks of pass x of an expanded NZB tile (R124): pass o below O holds the blocks of offer o that repeat no
stripe; each further pass one repeat of the tile. -/
def passBlocks (fmt : Nat) (strips : List (List NzbBlock)) (x : Nat) : List (List NzbBlock) :=
  let o := slotOffers fmt
  if x < o then strips.map fun s => s.filter fun b => b.offer == x && !(repeats [] s).contains b
  else
    let extra := strips.flatMap (repeats [])
    strips.map fun s => s.filter fun b => extra[x - o]? == some b

/-- The passes of an expanded NZB tile. -/
def nzbPasses (fmt : Nat) (strips : List (List NzbBlock)) : Nat :=
  slotOffers fmt + (strips.flatMap (repeats [])).length

end Sys2Proof.Machine
end

