-- ==== Sys2Proof/Machine/Seq.lean ====
section
/-!
DEFINITION. The common control instructions, BARRIER, FRAME and ILOAD (R33, R37 to R40, R318, R461).
-/
namespace Sys2Proof.Machine

/-- Every instruction of the engine has executed its last Stacks write and has every acknowledgement (R33, R97). -/
def engineIdle (s : State) (c : CoreId) (q : SeqId) : Bool :=
  let x := getSeq s c q
  x.infl.isEmpty && x.writes.isEmpty &&
    !((getCore s c).txns.any fun t => t.tag.toNat / 256 == q.val) &&
    (if h : q.val < 4 then !((vget (getCore s c).lasts ⟨q.val, h⟩).drainQ.any (·.drain)) else true) &&
    (q != awlSeq || (getCore s c).awl.redo.isEmpty)

/-- NOP (R37): one issue cycle. -/
def execNop (c : CoreId) (q : SeqId) (w : BitVec 120) (s : State) : Out :=
  .next (controlInstr s c q (instrWord 0x00 w) (mask128 119 0) [] (thenAdvance c q 0x00 id))

/-- The sequencer stops with its HALT code; its RUN bit clears (log 18). -/
def haltSeq (s : State) (c : CoreId) (q : SeqId) (code : BitVec 16) : State :=
  let s := modSeq (issued s c q 0x01) c q fun x => { x with st := .halted, ended := true, haltCode := code }
  modCore s c fun k => { k with seqRun := setBit k.seqRun q.val false }

/-- HALT (R37): CODE 0 is a normal end; any other aborts and kills the job with CODE in the records. -/
def execHalt (c : CoreId) (q : SeqId) (w : BitVec 120) (s : State) : Out :=
  .next (controlInstr s c q (instrWord 0x01 w) (mask128 119 16) [] fun s =>
    let code := w.extractLsb' 0 16
    let s := haltSeq s c q code
    if code = 0 then s
    else faultRecords (modCore s c fun k => { k with seqErr := setBit k.seqErr q.val true }) c q 0x01 code)

/-- WAIT (R33): issues only when every earlier instruction of the engine has completed. -/
def execWait (c : CoreId) (q : SeqId) (w : BitVec 120) (s : State) : Out :=
  .next (controlInstr s c q (instrWord 0x02 w) (mask128 119 0) [] fun s =>
    if engineIdle s c q then thenAdvance c q 0x02 id s else setSt s c q .waitDrain)

/-- LOOP (R37, R461): LEN 0 faults BAD_OPC, a body past the half PC_RANGE, a fifth level LOOP_DEPTH; COUNT 0 skips
the body. -/
def execLoop (c : CoreId) (q : SeqId) (w : BitVec 120) (s : State) : Out :=
  .next (controlInstr s c q (instrWord 0x03 w) (mask128 119 44) [] fun s =>
    let x := getSeq s c q
    let count := fld w 0 32
    let len := fld w 32 12
    if len = 0 then seqFault s c q 0x03 0x01
    else if halfLen q ≤ x.pc + len then seqFault s c q 0x03 0x0E
    else if 4 ≤ x.loops.length then seqFault s c q 0x03 0x05
    else if count = 0 then goOn (issued s c q 0x03) c q 0x03 (x.pc + 1 + len)
    else modSeq (issued s c q 0x03) c q fun y =>
      { y with pc := y.pc + 1, loops := { first := y.pc + 1, len := len, left := count } :: y.loops })

/-- The levels that a jump to n leaves open: the outer ones while each body holds n (R461). -/
def levelsAround (n : Nat) (l : List LoopLevel) : List LoopLevel :=
  (l.reverse.takeWhile fun x => decide (x.first ≤ n) && decide (n < x.first + x.len)).reverse

/-- JMP (R37, R461): OFFSET instructions from this one, inside the active half or PC_RANGE. -/
def execJmp (c : CoreId) (q : SeqId) (w : BitVec 120) (s : State) : Out :=
  .next (controlInstr s c q (instrWord 0x04 w) (mask128 119 32) [] fun s =>
    let x := getSeq s c q
    let n : Int := x.pc + sfld w 0 32
    if 0 ≤ n ∧ n < halfLen q then
      modSeq (issued s c q 0x04) c q fun y => { y with pc := n.toNat, loops := levelsAround n.toNat y.loops }
    else seqFault s c q 0x04 0x0E)

/-- A descriptor with DELTA added to its SA modulo 2^32. -/
def addSa (d : Word128) (delta : BitVec 32) : Word128 := d.extractLsb' 32 96 ++ (d.extractLsb' 0 32 + delta)

/-- The state with descriptor i of a sequencer's table written. -/
def setDesc (s : State) (c : CoreId) (q : SeqId) (i : Nat) (d : Word128) : State :=
  modSeq s c q fun x => { x with desc := smapSet 0 x.desc i d }

/-- DADV (R37): adds DELTA to the SA of descriptor D. -/
def execDadv (c : CoreId) (q : SeqId) (w : BitVec 120) (s : State) : Out :=
  let d := fld w 112 8
  .next (controlInstr s c q (instrWord 0x05 w) (mask128 111 32) [d]
    (thenAdvance c q 0x05 fun s => setDesc s c q d (addSa (descAt s c q d) (w.extractLsb' 0 32))))

/-- Reads of the first n bytes of an operand's byte stream, under its own tag mode. -/
def readFirst (s : State) (c : CoreId) (o : Nat) (d : Descr) (n : Nat) : List Access :=
  reads o (placeOf s c d) d.tm 0 (takePieces d.pieces n)

/-- The accesses of the phase that finished last. -/
def lastGot (y : InFlight) : List Access := y.got.getLastD []

/-- DLOAD (R37, R65): the first 16 bytes of E's byte stream, under E's TM, become descriptor D. -/
def execDload (c : CoreId) (q : SeqId) (w : BitVec 120) (ev : List EccEvent) (s : State) : Out :=
  let v := viewOf s c q (instrWord 0x06 w)
  let d := fld w 112 8
  let e := fld w 104 8
  let o := opnd v c q e
  .next (engineInstr s c q (instrWord 0x06 w) (mask128 103 0) ev
    { names := [d, e], ops := [(e, 0)],
      bad := if o.badForm || o.bytes < 16 then some 0x04 else descFault s c [o] }
    fun s y =>
      if y.got.isEmpty then .access (readFirst s c 0 o 16)
      else if opndPoison (lastGot y) 0 then .fault 0x0A
      else .finish fun s => setDesc s c q d (BitVec.ofNat 128 (leNat (opndData (lastGot y) 0))))

/-- SWAPI (R37, R461): waits for the inactive half, then goes to instruction 0 of it. -/
def execSwapi (c : CoreId) (q : SeqId) (w : BitVec 120) (s : State) : Out :=
  .next (controlInstr s c q (instrWord 0x07 w) (mask128 119 0) [] fun s =>
    if (getSeq s c q).altReady then
      modSeq (issued s c q 0x07) c q fun x => { x with half := !x.half, pc := 0, loops := [], altReady := false }
    else setSt s c q .waitImem)

/-- A CTL flit of core c (R220): subtype and argument in AUX. -/
def ctlFlit (s : State) (c d : CoreId) (q : SeqId) (aux : Nat) : Flit where
  vc := 0
  typ := 5
  src := BitVec.ofNat 4 c.val
  dst := BitVec.ofNat 4 d.val
  job := (getCore s c).jobId
  poison := false
  tm := 0
  mc := false
  eng := BitVec.ofNat 4 q.val
  status := 0
  tag := 0
  addr := 0
  route := routeOf s c d
  aux := BitVec.ofNat 64 aux
  data := []

/-- A BARRIER completes when every core of its mask has arrived (R40); the arrivals it takes are used up. -/
def barrierCheck (s : State) (c : CoreId) : State :=
  let k := getCore s c
  match k.barrier with
  | none => s
  | some (id, cores) =>
    if cores.all fun d => k.arrivals.contains (d, id) then
      let s := modCore s c fun k => { k with
        barrier := none, arrivals := k.arrivals.filter fun a => !(a.2 == id && cores.contains a.1) }
      setSt s c ccSeq .issuing
    else s

/-- The image cores of a CORE_MASK, as placed cores (R316). -/
def maskCores (s : State) (c : CoreId) (m : Nat) : List CoreId :=
  ((List.range 12).filter fun i => m.testBit i).map (placedCore s c)

/-- Common opcodes 0x0C to 0x0E belong to the core controller only (R37). -/
def ccOnly (s : State) (q : SeqId) (c : CoreId) (opc : BitVec 8) (f : State → State) : State :=
  if q = ccSeq then f s else seqFault s c q opc 0x01

/-- BARRIER (R40): its arrival goes to every core of CORE_MASK, its own included; it waits for theirs. -/
def execBarrier (c : CoreId) (q : SeqId) (w : BitVec 120) (s : State) : Out :=
  .next (controlInstr s c q (instrWord 0x0C w) (mask128 119 24 ||| mask128 15 12) [] fun s =>
    ccOnly s q c 0x0C fun s =>
      let m := fld w 0 12
      let id := w.extractLsb' 16 8
      if 2 ^ jobCores s c ≤ m then seqFault s c q 0x0C 0x01
      else
        let cores := maskCores s c m
        if cores.any fun d => noRoute s c d.val then seqFault s c q 0x0C 0x0D
        else
          let s := cores.foldl (fun s d => sendFlit s (ctlFlit s c d q (1 + 256 * id.toNat))) (issued s c q 0x0C)
          let s := modCore s c fun k => { k with barrier := some (id, cores) }
          let s := advance (setSt s c q .waitBarrier) c q 0x0C
          if (getSeq s c q).st = .fault then s else barrierCheck s c)

/-- FRAME (R39): the core's next frame table. -/
def execFrame (c : CoreId) (q : SeqId) (w : BitVec 120) (s : State) : Out :=
  .next (controlInstr s c q (instrWord 0x0D w) (mask128 119 3) [] fun s =>
    ccOnly s q c 0x0D (thenAdvance c q 0x0D fun s =>
      modCore s c fun k => { k with framePend := some (w.extractLsb' 0 3) }))

/-- FRAME_TAKES_EFFECT (R39): all 640 banks switch to the requested table. -/
def execFrameTakesEffect (c : CoreId) (s : State) : Out :=
  .next (match (getCore s c).framePend with
    | none => s
    | some t => modCore s c fun k => { k with frameSel := t, framePend := none })

/-- A half of IMEM that holds these instructions, the rest HALT CODE 0xFFFF (R318). -/
def imemOf (l : List Byte) : SMap Word128 :=
  (((chunk 16 l).map fun b => BitVec.ofNat 128 (leNat b)).zipIdx.map fun p => (p.2, p.1)).filter fun p => p.2 != haltFill

/-- ILOAD's effect (R37, R318): the inactive half and ALT_READY, or half 0 of a dormant sequencer, which starts. -/
def iloadInto (s : State) (c : CoreId) (t : SeqId) (l : List Byte) : State :=
  if (getSeq s c t).dormant then
    let s := modSeq s c t fun x => { x with imem0 := imemOf l, pc := 0, half := false, st := .issuing }
    modCore s c fun k =>
      if k.st = .paused then { k with saved := setBit k.saved t.val true }
      else { k with seqRun := setBit k.seqRun t.val true }
  else modSeq s c t fun x =>
    if x.half then { x with imem0 := imemOf l, altReady := true } else { x with imem1 := imemOf l, altReady := true }

/-- ILOAD (R37, R38, R65): copies D's byte stream, rows in order, into the inactive half of sequencer SEQ. -/
def execIload (c : CoreId) (q : SeqId) (w : BitVec 120) (ev : List EccEvent) (s : State) : Out :=
  let v := viewOf s c q (instrWord 0x0E w)
  let d := fld w 112 8
  let t := seqOf (fld w 0 4)
  let o := opnd v c q d
  .next (if q = ccSeq then
    engineInstr s c q (instrWord 0x0E w) (mask128 111 4) ev
      { names := [d], ops := [(d, 0)],
        held := if (getSeq s c t).altReady && !(getSeq s c t).dormant then some .waitImem else none,
        bad := if o.badForm || decide (halfLen t * 16 < o.bytes) || o.bytes % 16 != 0 then some 0x04
               else descFault s c [o] }
      fun s y =>
        if y.got.isEmpty then .access (readFirst s c 0 o o.bytes)
        else if opndPoison (lastGot y) 0 then .fault 0x0A
        else .finish fun s => iloadInto s c t (opndData (lastGot y) 0)
    else controlInstr s c q (instrWord 0x0E w) 0 [] fun s => seqFault s c q 0x0E 0x01)

/-- BARRIER_TIMEOUT (R40, R48): a BARRIER that has waited the job's tag timeout faults, unless the timeout is 0 or
the job is paused. -/
def execBarrierTimeout (c : CoreId) (s : State) : Out :=
  .next (if (getCore s c).barrier.isSome && (getCore s c).stk.tagTmoUs != 0 && (getCore s c).st == .running then
    seqFault (modCore s c fun k => { k with barrier := none }) c ccSeq 0x0C 0x07
  else s)

end Sys2Proof.Machine
end

