-- ==== Sys2Proof/Machine/Last.lean ====
section
/-!
DEFINITION. The Lasts (R83 to R107) and their sparse execution (R108 to R126, R132, R136): LCFG, LOADW, STREAM, DRAIN,
ACCLD, LPAIR and the events of the array.
-/
namespace Sys2Proof.Machine

/-- The load, stream and drain opcodes wait for their queue in program order (R97): no earlier instruction in flight
of the same group. -/
def queueTurn (s : State) (c : CoreId) (q : SeqId) (word : Word128) (ops : List (BitVec 8)) : Bool :=
  match (getSeq s c q).infl.find? fun y => ops.contains (opcodeOf y.word) with
  | some y => y.word == word
  | none => true

/-- No instruction queued or in flight, no vector in the array (R99, R103). -/
def lastEmpty (s : State) (c : CoreId) (l : Fin 4) : Bool :=
  let x := getLast s c l
  x.loadQ.isEmpty && x.streamQ.isEmpty && x.arr.isEmpty && x.drainQ.isEmpty && (getSeq s c (lastSeq l)).infl.isEmpty

/-- A Last with a new shape (R99): both planes empty, accumulators as they are. -/
def lastShaped (sh : BitVec 3) (x : LastState) : LastState :=
  { x with shape := sh, p0 := Plane.init, p1 := Plane.init, curLoad := 0, swapped := true }

/-- LCFG (R98, R99). -/
def execLcfg (c : CoreId) (l : Fin 4) (w : BitVec 120) (s : State) : Out :=
  let q := lastSeq l
  let sh := w.extractLsb' 0 3
  .next (controlInstr s c q (instrWord 0x10 w) (mask128 119 3) [] fun s =>
    if 6 ≤ sh.toNat then seqFault s c q 0x10 0x11
    else if lastEmpty s c l then thenAdvance c q 0x10 (fun s => modLast s c l (lastShaped sh)) s
    else setSt s c q .waitDrain)

/-- Descriptor indices D to D + n - 1. -/
def descRun (d n : Nat) : List Nat := (List.range n).map fun p => d + p

/-- The operands of a run of descriptors; indices past 255 are not there and fault LAST_GEOM. -/
def descsAt (s : State) (c : CoreId) (q : SeqId) (l : List Nat) : List Descr :=
  (l.filter fun i => decide (i < 256)).map (opnd s c q)

/-- Some total differs from n (R90). -/
def lengthOff (ds : List Descr) (n : Nat) : Bool := ds.any fun d => d.bytes != n

/-- A sparse event of Last l (R123, R125, Table 05-10): counted and logged. -/
def sparseLog (s : State) (c : CoreId) (l : Fin 4) (kind col row index : Nat) : State :=
  modLast s c l fun x => { x with
    spCnt := satAdd x.spCnt 1
    spLog := BitVec.ofNat 64 (kind + 8 + col % 512 * 16 + row % 128 * 8192 + index % 65536 * 2 ^ 20 +
      (getCore s c).jobId.toNat * 2 ^ 36) }

/-- The next issue of a sequencer faults with a code, unless one is already due (R123, R125). -/
def faultNext (s : State) (c : CoreId) (q : SeqId) (code : BitVec 8) : State :=
  modSeq s c q fun x => { x with pendFault := if x.pendFault = 0 then code else x.pendFault }

/-- An S24 tile as the format decoder leaves it (R122 to R124). -/
def checkS24 (s : State) (c : CoreId) (l : Fin 4) (p : Plane) : State × Plane :=
  let x := getLast s c l
  let rp := partRows x.shape
  let bad := p.side.zipIdx.filterMap fun e => (badGroup e.1 p.fmt rp (partCols x.shape)).map fun b => (e.2, b)
  match bad with
  | [] => (s, p)
  | (part, b) :: _ =>
    let col := part % colGroups x.shape * partCols x.shape + b.1
    let row := part / colGroups x.shape * rp + b.2.1
    let s := sparseLog s c l 0 col row b.2.2
    if x.fallback then (s, { p with waits := true })
    else (faultNext s c (lastSeq l) 0x20, { p with violated := bad.map (·.1) })

/-- The tile holds the block of a strip and stripe; its slot. -/
def blockIn (strips : List (List NzbBlock)) (b : Option (Nat × Nat)) : Option (Nat × Nat × Nat) :=
  match b with
  | none => none
  | some (j, k) => (((strips.getD j []).find? fun x => x.stripe == k).map fun x => (j, k, x.slot))

/-- An NZB tile as the format decoder leaves it (R122 to R125). -/
def checkNzb (s : State) (c : CoreId) (l : Fin 4) (p : Plane) (plan : PanelPlan) : State × Plane :=
  match blockIn p.blocks plan.range with
  | some (j, k, b) =>
    (faultNext (sparseLog s c l 2 (16 * j) (16 * b) k) c (lastSeq l) 0x21, { p with violated := [0] })
  | none =>
    match blockIn p.blocks plan.disorder with
    | none => (s, p)
    | some (j, k, b) =>
      let s := sparseLog s c l 1 (16 * j) (16 * b) k
      if (getLast s c l).fallback then (s, { p with waits := true })
      else (faultNext s c (lastSeq l) 0x20, { p with violated := [0] })

/-- The load queue takes a load (R92). -/
def acceptLoad (s : State) (c : CoreId) (l : Fin 4) (p : Plane) (target : Bool) : State :=
  modLast s c l fun x => { x with loadQ := x.loadQ ++ [{ plane := p, target := target }] }

/-- The panel plan a LOADW uses (R117, R118): the one held when DX names the same SA, else a new one. -/
def planFor (s : State) (c : CoreId) (l : Fin 4) (sa : Nat) (side : List Byte) : PanelPlan :=
  match (getLast s c l).plan with
  | some p => if p.sa = sa then p else planOf sa side
  | none => planOf sa side

/-- The strips of the tile a plan loads next, with block data cut from what was read block by block. -/
def tileData (plan : PanelPlan) (bb : Nat) (data : List Byte) : List (List NzbBlock) :=
  let tile := plan.tiles.getD (plan.next % plan.tiles.length) []
  let order := tile.flatten.map (·.blk)
  tile.map fun s => s.map fun b => { b with data := slice data (order.idxOf b.blk * bb) bb }

/-- LOADW (R90, R92, R98, R100, R115 to R118, R122). -/
def execLoadw (c : CoreId) (l : Fin 4) (w : BitVec 120) (ev : List EccEvent) (s : State) : Out :=
  let v := viewOf s c (lastSeq l) (instrWord 0x11 w)
  let q := lastSeq l
  let x := getLast s c l
  let dw := fld w 112 8
  let dx := fld w 104 8
  let fmt := fld w 100 4
  let sp := fld w 98 2
  let n := if sp = 3 then 1 else parts x.shape
  let noSide := sp != 3 && sideBytes fmt sp x.shape == 0
  let is := descRun dw n ++ (if noSide then [] else descRun dx n)
  let ws := (descsAt v c q (descRun dw n)).map fun d => { d with tm := 0 }
  let xs := if noSide then [] else (descsAt v c q (descRun dx n)).map fun d => { d with tm := 0 }
  let geom := is.any (fun i => decide (255 < i)) || (if sp = 3 then x.shape != 0
    else lengthOff ws (weightBytes fmt sp x.shape) || lengthOff xs (sideBytes fmt sp x.shape))
  let readAll := fun (o : Nat) (ds : List Descr) => ds.zipIdx.flatMap fun d => reads (o + d.2) (placeOf s c d.1) 0 0 d.1.pieces
  let mkPlane := fun (serial : Nat) => { Plane.init with serial := serial, fmt := fmt, sp := sp }
  .next (engineInstr s c q (instrWord 0x11 w) (mask128 97 0) ev
    { names := is, ops := (is.filter fun i => decide (i < 256) && (opnd v c q i).rmt).map fun i => (i, 0),
      bad := (descFault s c (ws ++ xs)).or
        (if (cellOf fmt sp).isNone then some 0x10 else if geom then some 0x13 else none)
      notes := [x.serial + 1, b2n (!x.cur)]
      atIssue := fun s => modLast s c l fun x =>
        { x with opSeq := x.opSeq + 1, serial := x.serial + 1, newFmt := fmt, newSp := sp, swapped := false } }
    fun s y =>
      let serial := y.notes.getD 0 0
      let target := y.notes.getD 1 0 == 1
      let ready := queueTurn s c q (instrWord 0x11 w) [0x11] && decide ((getLast s c l).loadQ.length < 2)
      if sp ≠ 3 then
        if y.got.isEmpty then .access (readAll 0 ws ++ readAll 16 xs)
        else if (lastGot y).any (·.poison) then .fault 0x0A
        else if !ready then .hold
        else .finish fun s =>
          let p := { mkPlane serial with
            words := (List.range n).map fun i => opndData (lastGot y) i
            side := (List.range n).map fun i => opndData (lastGot y) (16 + i) }
          let r := if sp = 1 then checkS24 s c l p else (s, p)
          acceptLoad r.1 c l r.2 target
      else
        let dxd := xs.headD (descrOf 0)
        let dwd := ws.headD (descrOf 0)
        let bb := blockBytes fmt
        match y.got with
        | [] => .access (readAll 16 xs)
        | side :: rest =>
          let sd := opndData side 16
          let plan := planFor s c l dxd.sa sd
          if side.any (·.poison) then .fault 0x0A
          else if dxd.bytes < 128 || panelBad (panelHeadOf sd) fmt dxd.bytes dwd.bytes then .fault 0x22
          else if plan.tiles.length ≠ (panelHeadOf sd).ntiles then .fault 0x22
          else match rest with
            | [] =>
              let tile := plan.tiles.getD (plan.next % plan.tiles.length) []
              .access (tile.flatten.flatMap fun b =>
                reads 0 (placeOf s c dwd) 0 0 (takePieces (dropPieces dwd.pieces (b.blk * bb)) bb))
            | data :: _ =>
              if data.any (·.poison) then .fault 0x0A
              else if !ready then .hold
              else .finish fun s =>
                let blocks := tileData plan bb (opndData data 0)
                let s := modLast s c l fun x => { x with
                  plan := some { plan with next := (plan.next + 1) % plan.tiles.length }
                  empties := satAdd x.empties (256 - blocks.flatten.length) }
                let r := checkNzb s c l { mkPlane serial with blocks := blocks, kstripes := plan.kstripes } plan
                acceptLoad r.1 c l r.2 target)

/-- The load a STREAM uses, wherever it is: in a plane or still in the load queue. -/
def planeBySerial (x : LastState) (n : Nat) : Option Plane :=
  ([x.p0, x.p1] ++ x.loadQ.map (·.plane)).find? fun p => p.serial == n && n != 0

/-- Whether the present load of a plane is still needed by a STREAM queued or in flight (R92). -/
def planeNeeded (s : State) (c : CoreId) (l : Fin 4) (plane : Bool) (serial : Nat) : Bool :=
  let x := getLast s c l
  serial != 0 && ((x.streamQ.any fun j => j.plane == plane && j.needs == serial) ||
    (getSeq s c (lastSeq l)).infl.any fun y => opcodeOf y.word == 0x12 && y.notes.getD 2 0 == serial)

/-- The plane a bit names. -/
def planeAt (x : LastState) (b : Bool) : Plane := if b then x.p1 else x.p0

/-- The Last with one plane changed. -/
def setPlane (x : LastState) (b : Bool) (p : Plane) : LastState := if b then { x with p1 := p } else { x with p0 := p }

/-- The stripes that an NZB plane's tile offers. -/
def planeStripes (p : Plane) : List Nat := (p.blocks.flatten.map (·.stripe)).eraseDups

/-- The pieces of row r of an operand that hold an offered stripe (R120), each with its place in the row. -/
def stripePieces (d : Descr) (r we : Nat) (stripes : List Nat) : List (Nat × Piece) :=
  let ps := runPieces (wrap32 (d.rowStart r)) d.rowlen
  let at_ := ps.foldl (fun (acc : List (Nat × Piece) × Nat) p => (acc.1 ++ [(acc.2, p)], acc.2 + p.len)) ([], 0)
  at_.1.filter fun e => stripes.any fun k =>
    decide (k * 2 * we < e.1 + e.2.len) && decide (e.1 < (k + 1) * 2 * we)

/-- A row put back together from what was read of it, bytes not read 0. -/
def rowFrom (len : Nat) (parts : List (Nat × List Byte)) : List Byte :=
  parts.foldl (fun l p => patch l p.1 p.2) (List.replicate len 0)

/-- The accesses of one vector's row: all of it, or on an NZB plane the slots that hold offered stripes. -/
def rowPieces (nzb : Option (Nat × List Nat)) (d : Descr) (r : Nat) : List (Nat × Piece) :=
  match nzb with
  | some (we, st) => stripePieces d r we st
  | none => ((runPieces (wrap32 (d.rowStart r)) d.rowlen).foldl
      (fun (acc : List (Nat × Piece) × Nat) p => (acc.1 ++ [(acc.2, p)], acc.2 + p.len)) ([], 0)).1

/-- The rows of an operand as read, row by row, from its accesses in order. -/
def rowsBack (len : Nat) : List (List (Nat × Piece)) → List Access → List (List Byte)
  | [], _ => []
  | r :: t, l => rowFrom len ((r.zip l).map fun e => (e.1.1, e.2.data)) :: rowsBack len t (l.drop r.length)

/-- The reads of some rows of an operand. -/
def rowReads (s : State) (c : CoreId) (o : Nat) (d : Descr) (rows : List (List (Nat × Piece))) : List Access :=
  rows.flatMap fun r => reads o (placeOf s c d) d.tm 0 (r.map (·.2))

/-- What a STREAM asks at issue (Tables 04-5, 04-6, 05-4): the plane it uses, its format and sparsity. -/
structure StreamUse where
  plane  : Bool
  serial : Nat
  fmt    : Nat
  sp     : Nat
  deriving DecidableEq, Repr

/-- The plane a STREAM with this SWP uses. -/
def streamUse (x : LastState) (swp : Bool) : StreamUse :=
  if swp then { plane := !x.cur, serial := x.serial, fmt := x.newFmt, sp := x.newSp }
  else { plane := x.cur, serial := x.curLoad, fmt := x.curFmt, sp := x.curSp }

/-- The faults of a STREAM's formats, entries, lengths and plane in the order of Table 04-6. -/
def streamBad (x : LastState) (u : StreamUse) (swp sel : Bool) (afmt e m : Nat) (overs : Bool) (da das : List Descr) :
    Option (BitVec 8) :=
  let none_ := if swp then x.swapped else decide (x.curLoad = 0)
  let vb := vecElems u.fmt u.sp x.shape * elemBits afmt / 8
  let sb := vecElems u.fmt u.sp x.shape / 32
  let geom :=
    if u.sp = 3 then da.any fun d => !sel && d.rows != m
    else if sel then da.any (fun d => d.rowlen != vb) || das.any (fun d => d.rowlen != sb)
    else lengthOff da (m * vb) || lengthOff das (m * sb)
  if decide (0xA < afmt) || (!none_ && !pairOk u.fmt afmt) then some 0x10
  else if m = 0 ∨ partEntries x.shape < e + m then some 0x12
  else if overs || (!none_ && geom) then some 0x13
  else if none_ then some 0x14
  else none

/-- A gathered row that the operand does not have faults the next issue (R125). -/
def gatherOut (s : State) (c : CoreId) (l : Fin 4) (out : Option Nat) : State :=
  match out with
  | some k => faultNext (sparseLog s c l 3 0 0 k) c (lastSeq l) 0x21
  | none => s

/-- The stream queue takes a STREAM of m entries; one of no entries leaves nothing to stream (R94, R132). -/
def takeStream (s : State) (c : CoreId) (l : Fin 4) (sel : Bool) (m : Nat) (job : StreamJob) : State :=
  modLast s c l fun x => { x with
    streamQ := if job.count = 0 then x.streamQ else x.streamQ ++ [job]
    short := if sel then satAdd x.short (m - job.count) else x.short }

/-- The next phase of a STREAM whose plane p is known; v is the state with the descriptors of its issue. -/
def streamPhase (v s : State) (c : CoreId) (l : Fin 4) (w : BitVec 120) (y : InFlight) (p : Plane) : Phase :=
  let q := lastSeq l
  let x := getLast s c l
  let afmt := fld w 100 4
  let m := fld w 83 7
  let sel := bit w 73
  let dm := opnd v c q (fld w 74 8)
  let nz := p.sp == 3
  let shape := x.shape
  let n := if nz then 1 else parts shape
  let da := (List.range n).map fun i => opnd v c q (fld w 112 8 + i)
  let das := if hasScale afmt && !nz then (List.range n).map fun i => opnd v c q (fld w 104 8 + i) else []
  let nzb := if nz then some (elemBits afmt, planeStripes p) else none
  let pre := if sel then 2 else 0
  let head := maskHeadOf (opndData (y.got.getD 0 []) 64)
  let ents := if sel then maskEntries head (opndData (y.got.getD 1 []) 64) else List.range m
  let rowsOf := fun (d : Descr) (z : Option (Nat × List Nat)) (vb : Nat) =>
    if sel || nz then (ents.filter fun r => decide (r < d.rows)).map (rowPieces z d)
    else (List.range m).map fun j =>
      ((takePieces (dropPieces d.pieces (j * vb)) vb).foldl
        (fun (acc : List (Nat × Piece) × Nat) p => (acc.1 ++ [(acc.2, p)], acc.2 + p.len)) ([], 0)).1
  let vb := if nz then (da.headD dm).rowlen else vecElems p.fmt p.sp shape * elemBits afmt / 8
  let sb := vecElems p.fmt p.sp shape / 32
  if nz && da.any fun d => decide (d.rowlen < p.kstripes * 2 * elemBits afmt) then .fault 0x22
  else if sel && y.got.isEmpty then .access (maskHeadReads s c 64 dm 0)
  else if sel && (y.got.getD 0 []).any (·.poison) then .fault 0x0A
  else if sel && (head.bad dm.bytes || decide (m < head.count)) then .fault 0x23
  else if sel && y.got.length = 1 then .access (maskEntryReads s c 64 dm 0 head)
  else if sel && (y.got.getD 1 []).any (·.poison) then .fault 0x0A
  else if sel && !rising ents then .fault 0x23
  else if y.got.length = pre then
    .access ((da.zipIdx.flatMap fun d => rowReads s c (2 * d.2) d.1 (rowsOf d.1 nzb vb)) ++
      das.zipIdx.flatMap fun d => rowReads s c (2 * d.2 + 1) d.1 (rowsOf d.1 none sb))
  else if (lastGot y).any (·.poison) then .fault 0x0A
  else if !(queueTurn s c q (instrWord 0x12 w) [0x12] && decide (x.streamQ.length < 2)) then .hold
  else
    let got := lastGot y
    let out := if sel then maskOut head ((da.headD dm).rows) ents else none
    let back := fun (ds : List Descr) (odd : Nat) (z : Option (Nat × List Nat)) (len : Nat) =>
      ds.zipIdx.map fun d =>
        let rows := rowsBack len (rowsOf d.1 z len) (got.filter fun a => a.opnd == 2 * d.2 + odd)
        if sel then ents.map fun r => rows.getD ((ents.filter fun k => decide (k < d.1.rows)).idxOf r) (List.replicate len 0)
        else rows
    .finish fun s => takeStream (gatherOut s c l out) c l sel m {
      seq := y.notes.getD 0 0, plane := y.notes.getD 1 0 == 1, needs := y.notes.getD 2 0, afmt := afmt, acc := bit w 98,
      half := bit w 97, entry := fld w 90 6, gather := sel, count := ents.length, next := 0, pass := 0,
      poison := out.isSome, acts := back da 0 nzb vb, scales := back das 1 none sb }

/-- STREAM (R90, R94, R98, R100, R120, R132). Notes: its place in program order, plane, load, entries of a mask. -/
def execStream (c : CoreId) (l : Fin 4) (w : BitVec 120) (ev : List EccEvent) (s : State) : Out :=
  let v := viewOf s c (lastSeq l) (instrWord 0x12 w)
  let q := lastSeq l
  let x := getLast s c l
  let daI := fld w 112 8
  let dasI := fld w 104 8
  let afmt := fld w 100 4
  let swp := bit w 99
  let dmI := fld w 74 8
  let sel := bit w 73
  let u := streamUse x swp
  let n := if u.sp = 3 then 1 else parts x.shape
  let scaled := hasScale afmt && u.sp != 3
  let is := descRun daI n ++ (if scaled then descRun dasI n else [])
  let da := descsAt v c q (descRun daI n)
  let das := if scaled then descsAt v c q (descRun dasI n) else []
  let dm := opnd v c q dmI
  .next (engineInstr s c q (instrWord 0x12 w) (mask128 72 0 ||| (if sel then 0 else mask128 81 74)) ev
    { names := is ++ (if sel then [dmI] else []),
      ops := (is.filter fun i => decide (i < 256)).map (fun i => (i, 0)) ++ (if sel then [(dmI, 0)] else []),
      bad := (descFault s c (da ++ das ++ (if sel then [dm] else []))).or
        (streamBad x u swp sel afmt (fld w 90 6) (fld w 83 7) (is.any fun i => decide (255 < i)) da das)
      notes := [x.opSeq + 1, b2n u.plane, u.serial]
      atIssue := fun s => modLast s c l fun x => { x with
        opSeq := x.opSeq + 1, cur := u.plane, curLoad := u.serial, curFmt := u.fmt, curSp := u.sp
        swapped := if swp then true else x.swapped } }
    fun s y =>
      match planeBySerial (getLast s c l) (y.notes.getD 2 0) with
      | none => .hold
      | some p => streamPhase v s c l w y p)

/-- LAST_PLANE_START (R92): the oldest load writes its plane once no vector still to enter uses that plane's present
load; its queue entry frees. -/
def execLastPlaneStart (c : CoreId) (l : Fin 4) (s : State) : Out :=
  let x := getLast s c l
  .next (if !coreClocked s c then s
    else match x.loadQ with
    | [] => s
    | j :: t =>
      if planeNeeded s c l j.target (planeAt x j.target).serial then s
      else modLast s c l fun x => { setPlane x j.target j.plane with loadQ := t })

/-- DENSE_FALLBACK_REEXEC (R124): the violated tile runs as X dense sub-tiles; counted, and an INFO record written. -/
def execDenseFallbackReexec (c : CoreId) (l : Fin 4) (s : State) : Out :=
  let x := getLast s c l
  let go := fun (b : Bool) =>
    let p := planeAt x b
    let n := if p.sp = 3 then nzbPasses p.fmt p.blocks else expandPasses p.fmt
    let s := modLast s c l fun x => { setPlane x b { p with waits := false, passes := n } with
      fbCnt := satAdd x.fbCnt 1, spLog := x.spLog ||| 4 }
    writeRecord s { recOf s 1 c.val l.val 3 0 0x20 with
      op := BitVec.ofNat 16 (0x11 + 256 * l.val), job := (getCore s c).jobId.setWidth 8,
      detail := leBytes 8 (getLast s c l).spLog.toNat ++ leBytes 4 (getLast s c l).fbCnt.toNat }
  .next (if x.p0.waits then go false else if x.p1.waits then go true else s)

/-- The earlier accesses of R95 leave a vector of `seq` free to enter for this entry. -/
def entryFree (x : LastState) (seq : Nat) (half : Bool) (entry : Nat) : Bool :=
  !(x.drainQ.any fun d => decide (d.seq < seq) && d.half == half && decide (d.entry + d.next ≤ entry) &&
    decide (entry < d.entry + d.count))

/-- The landing values of vector j of a job in pass p over a plane: every column of every partition. -/
def vectorVals (x : LastState) (p : Plane) (j : StreamJob) : List FlyVal :=
  let shape := x.shape
  let rp := partRows shape
  let cp := partCols shape
  let ep := partEntries shape
  let we := elemBits j.afmt
  if p.sp = 3 then
    let blocks := if p.passes = 0 then p.blocks else passBlocks p.fmt p.blocks j.pass
    let row := (j.acts.getD 0 []).getD j.next []
    let act := fun k => decodeElem j.afmt (bitsAt row (k * we) we)
    (List.range 512).map fun col =>
      { idx := b2n j.half * 32768 + (j.entry + j.next) * 512 + col,
        bits := columnValue (nzbRows p.fmt (blocks.getD (col / 16) []) (col % 16)) act,
        bad := j.poison || !p.violated.isEmpty }
  else
    (List.range (parts shape)).flatMap fun pt =>
      let row := (j.acts.getD pt []).getD j.next []
      let sc := (j.scales.getD pt []).getD j.next []
      let act := fun k =>
        let v := decodeElem j.afmt (bitsAt row (k * we) we)
        if hasScale j.afmt then withScale v ((sc.getD (k / 32) 0).toNat) else v
      let g := pt / colGroups shape
      let h := pt % colGroups shape
      let dd := (cellD p.fmt 0).d
      (List.range cp).map fun cc =>
        let rows := columnTerms (p.words.getD pt []) (p.side.getD pt []) p.fmt p.sp rp cc
        { idx := b2n j.half * 32768 + (g * ep + j.entry + j.next) * 512 + h * cp + cc,
          bits := if p.passes = 0 then columnValue rows act else expandedValue rows act j.pass (rp * dd) dd,
          bad := j.poison || p.violated.contains pt }

/-- The injection that LAST_INJ arms for the residue path (Table 04-8): column and first row of the segment. -/
def armed (x : LastState) (target : Bool) : Bool := bit x.inj 11 && bit x.inj 12 == target

/-- LAST_INJ with ARM cleared. -/
def disarm (x : LastState) : LastState := { x with inj := x.inj &&& 0xFFFFF7FF#32 }

/-- The stream queue after a vector of its head entered: the next vector, the next pass, or the next job. -/
def afterEnter (p : Plane) : List StreamJob → List StreamJob
  | [] => []
  | j :: t =>
    if j.next + 1 < j.count then { j with next := j.next + 1 } :: t
    else if j.pass + 1 < p.passes then { j with next := 0, pass := j.pass + 1 } :: t
    else t

/-- LAST_VECTOR_ENTER (R94, R95, R101, R116, R124): the next vector of the oldest STREAM enters row 0. -/
def execLastVectorEnter (c : CoreId) (l : Fin 4) (s : State) : Out :=
  let x := getLast s c l
  .next (if !coreClocked s c then s
    else match x.streamQ with
    | [] => s
    | j :: _ =>
      let p := planeAt x j.plane
      if p.serial ≠ j.needs || p.waits || !entryFree x j.seq j.half (j.entry + j.next) then s
      else
        let inj := armed x false
        let hit : List Mismatch := if inj then
          [{ col := finOf 512 (by decide) (fld x.inj 0 9), seg := finOf 4 (by decide) (fld x.inj 9 2), storage := false }]
          else []
        let v : Flying := {
          seq := j.seq, half := j.half, entry := j.entry + j.next, acc := j.acc || decide (0 < j.pass)
          vals := vectorVals x p j, hit := hit }
        modLast s c l fun x =>
          let x := if inj then disarm x else x
          { x with
            arr := x.arr ++ [v], streamQ := afterEnter p x.streamQ
            gathered := if j.gather && j.pass == 0 then satAdd x.gathered 1 else x.gathered })

/-- A residue, parity or duplex finding (R102, R104, R409): the record of class COMPUTE, and the third at one column
within 24 h makes the Last SUSPECT. -/
def computeRecord (s : State) (c : CoreId) (l : Fin 4) (m : Mismatch) (entry : Nat) (half : Bool) (where_ cnt : Nat) : State :=
  let s := bumpGen s
  let s := modLast s c l fun x =>
    let h := (m.col.val, s.reg.time.toNat) :: recent s dayNs x.misTimes
    { x with misTimes := h, suspect := x.suspect || decide (3 ≤ (h.filter fun e => e.1 == m.col.val).length) }
  writeRecord s { recOf s 1 c.val l.val 2 2 0 with
    job := (getCore s c).jobId.setWidth 8,
    detail := leBytes 1 entry ++ leBytes 1 (b2n half) ++ leBytes 2 m.col.val ++ leBytes 1 m.seg.val ++
      leBytes 1 where_ ++ [0, 0] ++ leBytes 4 cnt }

/-- One mismatch (R102): counted in LAST_RES_CNT, logged in LAST_RES_LOG, recorded. -/
def resMismatch (s : State) (c : CoreId) (l : Fin 4) (entry : Nat) (half : Bool) (m : Mismatch) : State :=
  let s := modLast s c l fun x => { x with
    resCnt := satAdd x.resCnt 1
    resLog := BitVec.ofNat 32 (m.col.val + m.seg.val * 512 + entry % 64 * 2048 + b2n half * 2 ^ 17 + b2n m.storage * 2 ^ 18 +
      2 ^ 19 + (getCore s c).jobId.toNat * 2 ^ 20) }
  computeRecord s c l m entry half (b2n m.storage) (getLast s c l).resCnt.toNat

/-- The row group that a segment belongs to. -/
def segGroup (shape : BitVec 3) (g : Nat) : Nat := g * 32 / partRows shape

/-- The accumulator index of a column and segment for an entry of the partition. -/
def misIndex (shape : BitVec 3) (half : Bool) (entry : Nat) (m : Mismatch) : Nat :=
  b2n half * 32768 + (segGroup shape m.seg.val * partEntries shape + entry) * 512 + m.col.val

/-- An accumulator at reset. -/
def accZero : AccVal := { bits := 0, poison := false }

/-- One value lands (R88). -/
def landVal (shape : BitVec 3) (f : Flying) (mis : List Mismatch) (acc : SMap AccVal) (v : FlyVal) : SMap AccVal :=
  let old := smapGet accZero acc v.idx
  let bad := v.bad || mis.any fun m => misIndex shape f.half f.entry m == v.idx
  smapSet accZero acc v.idx
    (if f.acc then { bits := f32Add old.bits v.bits, poison := old.poison || bad } else { bits := v.bits, poison := bad })

/-- The accumulator entry of a partition is final for an operation of `seq`: no earlier vector aimed at it is still to
land (R95). -/
def entryFinal (s : State) (c : CoreId) (l : Fin 4) (seq : Nat) (half : Bool) (entry : Nat) : Bool :=
  let x := getLast s c l
  !(x.arr.any fun f => decide (f.seq < seq) && f.half == half && f.entry == entry) &&
    !(x.streamQ.any fun j => decide (j.seq < seq) && j.half == half && decide (j.entry ≤ entry) &&
      decide (entry < j.entry + j.count) &&
      (decide (j.entry + j.next ≤ entry) || decide (j.pass + 1 < (planeAt x j.plane).passes) || (planeAt x j.plane).waits)) &&
    !((getSeq s c (lastSeq l)).infl.any fun y => opcodeOf y.word == 0x12 && decide (y.notes.getD 0 0 < seq) &&
      bit y.word 97 == half && decide (fld y.word 90 6 ≤ entry) && decide (entry < fld y.word 90 6 + fld y.word 83 7))

/-- One entry of an ACCLD in every partition (R88, R95). -/
def accldEntry (x : LastState) (d : DrainJob) : SMap AccVal :=
  let cp := partCols x.shape
  let wb := elemBits d.fmt / 8
  (List.range (parts x.shape)).foldl (fun acc p =>
    let row := slice (d.input.getD p []) (d.next * cp * wb) (cp * wb)
    (List.range cp).foldl (fun acc cc =>
      let i := b2n d.half * 32768 + (p / colGroups x.shape * partEntries x.shape + d.entry + d.next) * 512 +
        p % colGroups x.shape * cp + cc
      let v := f32Bits (decodeElem d.fmt (leAt row (cc * wb) wb))
      let old := smapGet accZero acc i
      smapSet accZero acc i
        (if d.flag then { bits := f32Add old.bits v, poison := old.poison } else { bits := v, poison := false })) acc) x.acc

/-- ACCLD at the head of the drain queue writes its entries, each once earlier vectors have landed (R95, R96); n bounds
the entries of both queue places. -/
def pumpAccld (c : CoreId) (l : Fin 4) : Nat → State → State
  | 0, s => s
  | n + 1, s =>
    match (getLast s c l).drainQ with
    | [] => s
    | d :: t =>
      if d.drain || !entryFinal s c l d.seq d.half (d.entry + d.next) then s
      else pumpAccld c l n (modLast s c l fun x => { x with
        acc := accldEntry x d, drainQ := if d.next + 1 < d.count then { d with next := d.next + 1 } :: t else t })

/-- LAST_VECTOR_LAND (R94, R102): the oldest vector in the array lands; a mismatch poisons its value. -/
def execLastVectorLand (c : CoreId) (l : Fin 4) (mis : List Mismatch) (s : State) : Out :=
  let x := getLast s c l
  .next (if !coreClocked s c then s
    else match x.arr with
    | [] => s
    | f :: t =>
      let hits := f.hit ++ mis
      let s := modLast s c l fun x => { x with arr := t, acc := f.vals.foldl (landVal x.shape f hits) x.acc }
      let s := hits.foldl (fun s m =>
        resMismatch s c l (segGroup x.shape m.seg.val * partEntries x.shape + f.entry) f.half m) s
      pumpAccld c l 128 s)

/-- The faults of DRAIN and ACCLD in the order of Table 04-6. -/
def drainBad (x : LastState) (fmtOk overs : Bool) (fmt e m : Nat) (ds : List Descr) : Option (BitVec 8) :=
  if !fmtOk then some 0x10
  else if m = 0 ∨ partEntries x.shape < e + m then some 0x12
  else if overs || lengthOff ds (m * partCols x.shape * elemBits fmt / 8) then some 0x13
  else none

/-- DRAIN (R96 to R98, R100): it enters the drain queue, which reads its entries. -/
def execDrain (c : CoreId) (l : Fin 4) (w : BitVec 120) (s : State) : Out :=
  let v := viewOf s c (lastSeq l) (instrWord 0x13 w)
  let q := lastSeq l
  let x := getLast s c l
  let fmt := fld w 108 4
  let is := descRun (fld w 112 8) (parts x.shape)
  let ds := descsAt v c q is
  let word := instrWord 0x13 w
  .next (engineInstr s c q word (mask128 92 32) []
    { names := is, ops := (is.filter fun i => decide (i < 256)).map fun i => (i, 3),
      bad := (descFault s c ds).or
        (drainBad x (fmt == 0xB || fmt == 8 || fmt == 9) (is.any fun i => decide (255 < i)) fmt (fld w 100 6) (fld w 93 7) ds)
      notes := [x.opSeq + 1]
      atIssue := fun s => modLast s c l fun x => { x with opSeq := x.opSeq + 1 } }
    fun s y =>
      if !(queueTurn s c q word [0x13, 0x14] && decide ((getLast s c l).drainQ.length < 2)) then .hold
      else .finish fun s => modLast s c l fun x => { x with drainQ := x.drainQ ++ [{
        seq := y.notes.getD 0 0, drain := true, half := bit w 107, entry := fld w 100 6, count := fld w 93 7, next := 0,
        fmt := fmt, flag := bit w 106, alpha := w.extractLsb' 0 32, descs := is.map (descAt v c q), input := [] }] })

/-- ACCLD (R95, R97, R98, R100): its input is read under the descriptor's tag mode (log 19). -/
def execAccld (c : CoreId) (l : Fin 4) (w : BitVec 120) (ev : List EccEvent) (s : State) : Out :=
  let v := viewOf s c (lastSeq l) (instrWord 0x14 w)
  let q := lastSeq l
  let x := getLast s c l
  let fmt := fld w 108 4
  let is := descRun (fld w 112 8) (parts x.shape)
  let ds := descsAt v c q is
  let word := instrWord 0x14 w
  .next (engineInstr s c q word (mask128 92 0) ev
    { names := is, ops := (is.filter fun i => decide (i < 256)).map fun i => (i, 0),
      bad := (descFault s c ds).or
        (drainBad x (fmt == 0xB || fmt == 8) (is.any fun i => decide (255 < i)) fmt (fld w 100 6) (fld w 93 7) ds)
      notes := [x.opSeq + 1]
      atIssue := fun s => modLast s c l fun x => { x with opSeq := x.opSeq + 1 } }
    fun s y =>
      if y.got.isEmpty then .access (ds.zipIdx.flatMap fun d => reads d.2 (placeOf s c d.1) d.1.tm 0 d.1.pieces)
      else if (lastGot y).any (·.poison) then .fault 0x0A
      else if !(queueTurn s c q word [0x13, 0x14] && decide ((getLast s c l).drainQ.length < 2)) then .hold
      else .finish fun s =>
        pumpAccld c l 128 (modLast s c l fun x => { x with drainQ := x.drainQ ++ [{
          seq := y.notes.getD 0 0, drain := false, half := bit w 107, entry := fld w 100 6, count := fld w 93 7, next := 0,
          fmt := fmt, flag := bit w 106, alpha := 0, descs := [],
          input := (List.range (parts x.shape)).map fun p => opndData (lastGot y) p }] }))

/-- Output writes of an engine after its instruction (R96): presented in order after those still open; the ones that do
not execute stay open. -/
def pushWrites (s : State) (c : CoreId) (q : SeqId) (opc : BitVec 8) (l : List Access) : State :=
  let open_ := (getSeq s c q).writes
  let s := modSeq s c q fun x => { x with writes := [] }
  match tryAll c q [] [] s (open_ ++ l) with
  | (s, l, none) => modSeq s c q fun x => { x with writes := l.filter fun a => a.phase != .done }
  | (s, l, some f) => seqFault (modSeq s c q fun x => { x with writes := l.filter fun a => a.phase != .done }) c q opc f

/-- The values of one entry of a partition, column by column. -/
def entryVals (x : LastState) (p entry : Nat) (half : Bool) : List AccVal :=
  let cp := partCols x.shape
  (List.range cp).map fun cc => smapGet accZero x.acc
    (b2n half * 32768 + (p / colGroups x.shape * partEntries x.shape + entry) * 512 + p % colGroups x.shape * cp + cc)

/-- One accumulator value as a DRAIN writes it (R96): ALPHA, then OFMT. -/
def drainValue (fmt : Nat) (alpha bits : BitVec 32) : Nat := (convert fmt rne (f32Val (f32Mul bits alpha))).1

/-- The poison of each piece of an entry's output: some value it holds part of is poisoned (R102). -/
def pieceBad (wb : Nat) (bad : List Bool) : List Piece → Nat → List Bool
  | [], _ => []
  | p :: t, at_ =>
    (((bad.drop (at_ / wb)).take ((at_ + p.len - 1) / wb + 1 - at_ / wb)).any id) :: pieceBad wb bad t (at_ + p.len)

/-- The output writes of one entry of one partition. -/
def drainWrites (s : State) (c : CoreId) (x : LastState) (d : DrainJob) (p : Nat) (extra : Nat → Bool) : List Access :=
  let o := descrOf (d.descs.getD p 0)
  let cp := partCols x.shape
  let wb := elemBits d.fmt / 8
  let vals := entryVals x p (d.entry + d.next) d.half
  let data := vals.flatMap fun v => leBytes wb (drainValue d.fmt d.alpha v.bits)
  let bad := vals.zipIdx.map fun v => v.1.poison || extra (p % colGroups x.shape * cp + v.2)
  let ps := takePieces (dropPieces o.pieces (d.next * cp * wb)) (cp * wb)
  writesFrom p (placeOf s c o) o.tm 0 true ps data (pieceBad wb bad ps 0)

/-- The indices of one entry in every partition. -/
def entryIndices (x : LastState) (entry : Nat) (half : Bool) : List Nat :=
  (List.range (rowGroups x.shape)).flatMap fun g => (List.range 512).map fun col =>
    b2n half * 32768 + (g * partEntries x.shape + entry) * 512 + col

/-- Duplex findings of one entry (R104): counted per value, the first column logged. -/
def dupMismatch (s : State) (c : CoreId) (l : Fin 4) (entry : Nat) (half : Bool) (ms : List Mismatch) : State :=
  match ms with
  | [] => s
  | m :: _ =>
    let col := ms.foldl (fun k m => min k m.col.val) m.col.val
    let s := modLast s c l fun x => { x with
      dupCnt := satAdd x.dupCnt ms.length
      dupLog := BitVec.ofNat 32 (entry % 64 + b2n half * 64 + col * 128 + 2 ^ 16 + (getCore s c).jobId.toNat * 2 ^ 17) }
    ms.foldl (fun s m => computeRecord s c l m entry half 2 (getLast s c l).dupCnt.toNat) s

/-- DRAIN_ENTRY_READ (R95, R96, R102, R104): the DRAIN at the head of its queue reads one final entry, converts it and
presents it for writing. -/
def execDrainEntryRead (c : CoreId) (l : Fin 4) (mis : List Mismatch) (s : State) : Out :=
  let x := getLast s c l
  .next (if !coreClocked s c then s
    else match x.drainQ with
    | [] => s
    | d :: t =>
      let entry := d.entry + d.next
      if !d.drain || !entryFinal s c l d.seq d.half entry then s
      else
        let inj := x.paired && armed x true
        let dup := (if x.paired then mis.filter fun m => !m.storage else []) ++ (if inj then
          [{ col := finOf 512 (by decide) (fld x.inj 0 9), seg := finOf 4 (by decide) (fld x.inj 9 2), storage := false }]
          else [])
        let par := mis.filter (·.storage)
        let extra := fun (g col : Nat) => (dup ++ par).any fun m => m.col.val == col && segGroup x.shape m.seg.val == g
        let out := (List.range (parts x.shape)).flatMap fun p => drainWrites s c x d p (extra (p / colGroups x.shape))
        let s := modLast s c l fun x =>
          let x := if inj then disarm x else x
          { x with
            acc := if d.flag then (entryIndices x entry d.half).foldl (fun a i => smapSet accZero a i accZero) x.acc else x.acc
            drainQ := if d.next + 1 < d.count then { d with next := d.next + 1 } :: t else t }
        let s := par.foldl (fun s m =>
          resMismatch s c l (segGroup x.shape m.seg.val * partEntries x.shape + entry) d.half m) s
        let s := dupMismatch s c l entry d.half dup
        pumpAccld c l 128 (pushWrites s c (lastSeq l) 0x13 out))

/-- The other Last of a pair (R103). -/
def partner (l : Fin 4) : Fin 4 := if l.val % 2 = 0 then finOf 4 (by decide) (l.val + 1) else finOf 4 (by decide) (l.val - 1)

/-- The leader of a pair. -/
def isLeader (l : Fin 4) : Bool := l.val % 2 == 0

/-- The job's image declares duplex (FLAGS bit 3, R105). -/
def dupDeclared (s : State) (c : CoreId) : Bool :=
  match jobOn s c with
  | some j => bit j.flags 3
  | none => false

/-- LPAIR ON (R103): the later of the two completes the pairing; the leader goes on, the follower waits. -/
def execLpairOn (c : CoreId) (l : Fin 4) (w : BitVec 120) (s : State) : Out :=
  let q := lastSeq l
  let x := getLast s c l
  let lead := if isLeader l then l else partner l
  .next (if !bit w 0 || x.follower || x.pairWait then s
    else controlInstr s c q (instrWord 0x15 w) (mask128 119 1) [] fun s =>
      if x.paired then seqFault s c q 0x15 0x15
      else if !dupDeclared s c then seqFault s c q 0x15 0x17
      else if !lastEmpty s c l then setSt s c q .waitDrain
      else
        let s := setSt (issued s c q 0x15) c q .waitBarrier
        if (getLast s c (partner l)).pairWait then
          let s := modLast s c lead fun x => { x with paired := true, pairWait := false }
          let s := modLast s c (partner lead) fun x => { x with paired := true, follower := true, pairWait := false }
          advance (setSt s c (lastSeq lead) .issuing) c (lastSeq lead) 0x15
        else modLast s c l fun x => { x with pairWait := true })

/-- LPAIR OFF (R103, R104): on the leader it ends the pairing; the follower keeps the leader's planes and accumulators
and goes on after its LPAIR. -/
def execLpairOff (c : CoreId) (l : Fin 4) (w : BitVec 120) (s : State) : Out :=
  let q := lastSeq l
  .next (if bit w 0 then s
    else controlInstr s c q (instrWord 0x15 w) (mask128 119 1) [] fun s =>
      let x := getLast s c l
      if !isLeader l then seqFault s c q 0x15 0x15
      else if !lastEmpty s c l then setSt s c q .waitDrain
      else if !x.paired then thenAdvance c q 0x15 id s
      else thenAdvance c q 0x15 (fun s =>
        let s := modLast s c l fun x => { x with paired := false }
        let s := modLast s c (partner l) fun y => { y with
          paired := false, follower := false, shape := x.shape, cur := x.cur, curLoad := x.curLoad, curFmt := x.curFmt
          curSp := x.curSp, newFmt := x.newFmt, newSp := x.newSp, swapped := x.swapped, serial := x.serial
          p0 := x.p0, p1 := x.p1, acc := x.acc, plan := x.plan }
        advance (setSt s c (lastSeq (partner l)) .issuing) c (lastSeq (partner l)) 0x15) s)

/-- LAST_PAIR_TIMEOUT (R100, R48): an LPAIR ON that has waited the job's tag timeout faults, unless the timeout is 0 or
the job is paused. -/
def execLastPairTimeout (c : CoreId) (l : Fin 4) (s : State) : Out :=
  .next (if (getLast s c l).pairWait && (getCore s c).stk.tagTmoUs != 0 && (getCore s c).st == .running then
    seqFault (modLast s c l fun x => { x with pairWait := false }) c (lastSeq l) 0x15 0x16
  else s)

end Sys2Proof.Machine
end

