-- ==== Sys2Proof/Machine/Awl.lean ====
section
/-!
DEFINITION. The Awl (R138 to R160): AVLD, AMV, ASEQ and the dense fallback of its rows.
-/
namespace Sys2Proof.Machine

/-- Elements of one vector register (R138). -/
def vregElems : Nat := 8192

/-- Bits of one line of the weight stream (R138). -/
def lineBits : Nat := 131072

/-- The opcodes that the Awl queue takes in program order (R149). -/
def awlOps : List (BitVec 8) := [0x10, 0x11, 0x12]

/-- An Awl instruction takes its effect after the earlier ones and after any re-execution (R149, R151). -/
def awlTurn (s : State) (c : CoreId) (word : Word128) : Bool :=
  queueTurn s c awlSeq word awlOps && (getCore s c).awl.redo.isEmpty

/-- A vector's elements into its registers from register v up, with the length loaded (R145). -/
def loadVector (a : AwlState) (v : Nat) (l : List (BitVec 16)) : AwlState :=
  { a with
    vregs := (l.zipIdx).foldl (fun m e => smapSet 0 m (v * vregElems + e.2) e.1) a.vregs
    lens := (List.range (cdiv l.length vregElems)).foldl (fun t i =>
      if h : v + i < 32 then t.set (v + i) l.length h else t) a.lens }

/-- One activation as BF16 (R145): FP32 rounds to nearest even. -/
def toBf16 (fmt bits : Nat) : BitVec 16 :=
  if fmt = 8 then BitVec.ofNat 16 bits else BitVec.ofNat 16 (convert 8 rne (decodeElem fmt bits)).1

/-- AVLD (R145, R149, R150). -/
def execAvld (c : CoreId) (w : BitVec 120) (ev : List EccEvent) (s : State) : Out :=
  let v := viewOf s c awlSeq (instrWord 0x10 w)
  let di := fld w 112 8
  let fmt := fld w 108 4
  let vb := fld w 103 5
  let nv := fld w 98 5 + 1
  let k := fld w 82 16 + 1
  let m := cdiv k vregElems
  let d := opnd v c awlSeq di
  let word := instrWord 0x10 w
  let wb := elemBits fmt / 8
  .next (engineInstr s c awlSeq word (mask128 81 0) ev
    { names := [di], ops := [(di, 0)],
      bad := (descFault s c [d]).or
        (if fmt != 8 && fmt != 0xB then some 0x10 else if 32 < vb + nv * m then some 0x11
         else if d.bytes < nv * k * wb then some 0x12 else none) }
    fun s y =>
      if y.got.isEmpty then .access (reads 0 (placeOf s c d) d.tm 0 (takePieces d.pieces (nv * k * wb)))
      else if (lastGot y).any (·.poison) then .fault 0x0A
      else if !awlTurn s c word then .hold
      else .finish fun s =>
        let l := opndData (lastGot y) 0
        modAwl s c fun a => (List.range nv).foldl (fun a j =>
          loadVector a (vb + j * m) ((List.range k).map fun i => toBf16 fmt (leAt l ((j * k + i) * wb) wb))) a)

/-- The Awl accepts a weight format and form (Table 06-1). -/
def awlForm (fmt sp : Nat) : Bool :=
  if fmt = 0 ∨ fmt = 1 ∨ fmt = 8 then true else (fmt == 5 || fmt == 6 || fmt == 7) && sp != 3

/-- RL breaks R141. -/
def rlBad (fmt sp rl : Nat) : Bool := (hasScale fmt || sp == 1 || sp == 2) && rl % 32 != 0

/-- Bytes of a row record (Table 06-2). -/
def rowBytes (fmt sp rl : Nat) : Nat :=
  let we := elemBits fmt
  let sc := if hasScale fmt then rl / 32 else 0
  match sp with
  | 1 => rl / 2 * we / 8 + sc + rl / 8
  | 2 => rl / 4 * we / 8 + sc + rl / 16
  | _ => rl * we / 8 + sc

/-- Bytes of descriptor i's share of a stream of n bytes over k descriptors (R139): units u = i, i + k, ... -/
def shareBytes (n k i : Nat) : Nat :=
  ((List.range (cdiv n 2048)).filter fun u => u % k == i).foldl (fun t u => t + min 2048 (n - u * 2048)) 0

/-- A stream put together from its descriptors' shares (R139). -/
def weave (k : Nat) (l : List (List Byte)) : List Byte :=
  let n := (l.map (·.length)).sum
  (List.range (cdiv n 2048)).flatMap fun u =>
    (((l.getD (u % k) []).drop (u / k * 2048)).take 2048)

/-- A weight of the stream: element k of its row, the bit at which its value field begins, and the value. -/
structure WTerm where
  k   : Nat
  pos : Nat
  v   : Val
  deriving DecidableEq, Repr

/-- The mask or position of group g of a row record. -/
def rowIndex (rec : List Byte) (fmt sp rl g : Nat) : Nat :=
  let n := if sp = 1 then 4 else 2
  let at_ := (if sp = 1 then rl / 2 else rl / 4) * elemBits fmt + (if hasScale fmt then rl / 32 * 8 else 0)
  bitsAt rec (at_ + g * n) n

/-- The stored weights of a row record (R141), with bit positions counted from its start. -/
def recordTerms (rec : List Byte) (fmt sp rl : Nat) : List WTerm :=
  let we := elemBits fmt
  let sc := (if sp = 1 then rl / 2 else if sp = 2 then rl / 4 else rl) * we / 8
  let val := fun (slot k : Nat) =>
    let v := decodeElem fmt (bitsAt rec (slot * we) we)
    if hasScale fmt then withScale v ((rec.getD (sc + k / 32) 0).toNat) else v
  if sp = 1 then
    (List.range (rl / 4)).flatMap fun g =>
      (((maskPos (rowIndex rec fmt sp rl g)).take 2).zipIdx).map fun x =>
        { k := 4 * g + x.1, pos := (2 * g + x.2) * we, v := val (2 * g + x.2) (4 * g + x.1) }
  else if sp = 2 then
    (List.range (rl / 4)).map fun g =>
      let k := 4 * g + rowIndex rec fmt sp rl g
      { k := k, pos := g * we, v := val g k }
  else (List.range rl).map fun k => { k := k, pos := k * we, v := val k k }

/-- The first malformed S24 mask of a row record. -/
def recordBad (rec : List Byte) (fmt sp rl : Nat) : Option Nat :=
  if sp = 1 then
    ((List.range (rl / 4)).map (rowIndex rec fmt sp rl)).find? fun m => decide (2 < (maskPos m).length)
  else none

/-- The expansion of a violated row (R124, R151): a dense row of its own. -/
def expandRow (fmt rl : Nat) (l : List WTerm) : List WTerm :=
  (List.range rl).map fun k =>
    { k := k, pos := k * elemBits fmt,
      v := match l.find? fun t => t.k == k with | some t => t.v | none => .fin false 0 0 }

/-- Terms grouped by line, lines in stream order. -/
def byLine (l : List WTerm) : List (List WTerm) :=
  ((l.map fun t => t.pos / lineBits).eraseDups).map fun n => l.filter fun t => t.pos / lineBits == n

/-- A row's sum for one vector (R143): each segment exact, rounded once, added in stream order. -/
def rowSum (l : List WTerm) (x : Nat → Val) : BitVec 32 :=
  f32Bits (runSegs ((byLine l).map fun g => (toF32 rne (sumV (g.map fun t => (mulV t.v (x t.k)).1)).1).1))

/-- An output as OFMT writes it. -/
def outBits (fmt : Nat) (b : BitVec 32) : Nat := (convert fmt rne (f32Val b)).1

/-- What the decoder found in one output group (R151): the outputs of each vector it spoils, the kind and index it
logs, and the row. -/
structure AwlBad where
  row   : Nat
  count : Nat
  kind  : Nat
  index : Nat
  deriving DecidableEq, Repr

/-- What an AMV computes: the rows' terms (output n of each vector sums row n; with TR, rows are multiplied by element
r), and what the decoder found. -/
structure AwlStream where
  rows : List (List WTerm)
  bad  : List AwlBad
  deriving DecidableEq, Repr

/-- Rows of records from a stream, numbered from `first`. -/
def recordRows (l : List Byte) (fmt sp rl n : Nat) : AwlStream :=
  let rb := rowBytes fmt sp rl
  let recs := (List.range n).map fun i => slice l (i * rb) rb
  { rows := recs.zipIdx.map fun r => (recordTerms r.1 fmt sp rl).map fun t => { t with pos := t.pos + r.2 * rb * 8 }
    bad := recs.zipIdx.filterMap fun r => (recordBad r.1 fmt sp rl).map fun m =>
      { row := r.2, count := 1, kind := 0, index := m } }

/-- One NZB panel at byte `at_` of the stream (R142): its outputs' terms and findings, with outputs counted from `o`. -/
def panelRows (l : List Byte) (at_ o : Nat) : AwlStream :=
  let h := panelHeadOf (slice l at_ 128)
  let idx := l.drop (at_ + 128)
  let strips := panelStrips idx (h.cnt.take h.strips) 0
  let base := at_ + panelIndexBytes h.nblk
  let we := elemBits h.fmt
  let bb := blockBytes h.fmt
  let col := fun (s : List BlockRef) (cc : Nat) =>
    (s.filter fun b => decide (b.stripe < h.kstripes)).flatMap fun b => (List.range 16).map fun i =>
      let pos := (base + b.blk * bb) * 8 + (cc * 16 + i) * we
      { k := b.stripe * 16 + i, pos := pos, v := decodeElem h.fmt (bitsAt l pos we) : WTerm }
  let bad := strips.zipIdx.filterMap fun s =>
    match rangeOf [s.1] h.kstripes with
    | some (_, k) => some { row := o + 16 * s.2, count := 16, kind := 2, index := k : AwlBad }
    | none => (disorderOf [s.1]).map fun d => { row := o + 16 * s.2, count := 16, kind := 1, index := d.2 : AwlBad }
  { rows := strips.flatMap fun s => (List.range 16).map (col s), bad := bad }

/-- n panels back to back: none when a header breaks NZB_FORM, a panel's K differs from the vector length, or the
stream's length differs (R142, Table 05-4). -/
def panelsFrom (l : List Byte) (fmt rl : Nat) : Nat → Nat → Nat → AwlStream → Except (BitVec 8) AwlStream
  | 0, at_, _, acc => if at_ = l.length then .ok acc else .error 0x12
  | n + 1, at_, o, acc =>
    let h := panelHeadOf (slice l at_ 128)
    let nb := panelIndexBytes h.nblk
    if l.length < at_ + 128 then .error 0x12
    else if panelBad h fmt nb (h.nblk * blockBytes h.fmt) then .error 0x22
    else if (panelTiles h (panelStrips (l.drop (at_ + 128)) (h.cnt.take h.strips) 0)).length ≠ h.ntiles then .error 0x22
    else if h.kstripes * 16 ≠ rl then .error 0x12
    else
      let p := panelRows l at_ o
      panelsFrom l fmt rl n (at_ + nb + h.nblk * blockBytes fmt) (o + 16 * h.strips)
        { rows := acc.rows ++ p.rows, bad := acc.bad ++ p.bad }

/-- The first registers of the vectors an AMV uses (R146, R152). -/
def amvVectors (a : AwlState) (seq : Bool) (vb nv m : Nat) : List Nat :=
  if seq then (List.range nv).filter fun i => bit a.mask i else (List.range nv).map fun j => vb + j * m

/-- The registers do not hold vectors of length n (AWL_VREG, Table 06-4). -/
def vregBad (a : AwlState) (starts : List Nat) (n : Nat) : Bool :=
  let m := cdiv n vregElems
  starts.any fun v => decide (32 < v + m) || (List.range m).any fun i =>
    if h : v + i < 32 then a.lens[v + i] != n else true

/-- Element k of the vector from register v. -/
def vecElem (a : AwlState) (v k : Nat) : Val := decodeElem 8 (smapGet 0 a.vregs (v * vregElems + k)).toNat

/-- The outputs of one vector (R143, R146). -/
def amvOutputs (a : AwlState) (t : AwlStream) (tr : Bool) (rl : Nat) (v : Nat) : List (BitVec 32) :=
  if tr then
    let all := t.rows.zipIdx.flatMap fun r => r.1.map fun x => (r.2, x)
    (List.range rl).map fun n =>
      let col := (all.filter fun e => e.2.k == n).map fun e => { e.2 with k := e.1 }
      rowSum col (vecElem a v)
  else t.rows.map fun r => rowSum r (vecElem a v)

/-- A sparse event of the Awl (Table 06-10). -/
def awlLog (s : State) (c : CoreId) (b : AwlBad) (fell : Bool) : State :=
  modAwl s c fun a => { a with
    spLog := BitVec.ofNat 64 (b.kind + 4 * b2n fell + 8 + b.row % 2 ^ 22 * 16 + b.index % 65536 * 2 ^ 26 +
      (getCore s c).jobId.toNat * 2 ^ 42) }

/-- The INFO record of a fallback (R151). -/
def awlFallback (s : State) (c : CoreId) (b : AwlBad) : State :=
  let s := awlLog (modAwl s c fun a => { a with fbCnt := satAdd a.fbCnt 1 }) c b true
  let a := (getCore s c).awl
  writeRecord s { recOf s 3 c.val 0 3 0 0x20 with
    op := 0x0611, job := (getCore s c).jobId.setWidth 8, detail := leBytes 8 a.spLog.toNat ++ leBytes 4 a.fbCnt.toNat }

/-- Output n of a vector lies in a spoiled group. -/
def spoiled (l : List AwlBad) (n : Nat) : Bool := l.any fun b => decide (b.row ≤ n) && decide (n < b.row + b.count)

/-- For each piece, whether some output it holds part of satisfies p. -/
def pieceHits (ow : Nat) (p : Nat → Bool) : List Piece → Nat → List Bool
  | [], _ => []
  | x :: t, at_ =>
    ((List.range ((at_ + x.len - 1) / ow + 1 - at_ / ow)).any fun i => p (at_ / ow + i)) :: pieceHits ow p t (at_ + x.len)

/-- The effect of an AMV whose stream is decoded (R143, R146, R151): its outputs go to DO; those that spoil are
poisoned or wait for the re-execution. -/
def amvFinish (s : State) (c : CoreId) (od : Descr) (t : AwlStream) (range : List AwlBad) (starts : List Nat)
    (tr : Bool) (fmt rl ofmt lines : Nat) : State :=
  let a := (getCore s c).awl
  let ow := elemBits ofmt / 8
  let fb := a.fallback
  let s24 := t.bad.filter fun b => b.kind == 0
  let nzb1 := t.bad.filter fun b => b.kind == 1
  let nzb2 := (t.bad.filter fun b => b.kind == 2) ++ range
  let redo := if fb then s24 else []
  let fatal := (if fb then [] else s24 ++ nzb1) ++ nzb2
  let t := { t with rows := t.rows.zipIdx.map fun r =>
    if (redo.any fun b => b.row == r.2) then expandRow fmt rl r.1 else r.1 }
  let outs := starts.map fun v => amvOutputs a t tr rl v
  let n := if tr then rl else t.rows.length
  let data := outs.flatten.flatMap fun b => leBytes ow (outBits ofmt b)
  let ps := takePieces od.pieces data.length
  let bad := pieceHits ow (fun i => if tr then !fatal.isEmpty else spoiled fatal (i % n)) ps 0
  let late := pieceHits ow (fun i => !tr && spoiled redo (i % n)) ps 0
  let ws := (writesFrom 0 (placeOf s c od) od.tm 0 (decide (1 < ps.length)) ps data bad).zip late
  let now := (ws.filter fun e => !e.2).map (·.1)
  let later := (ws.filter fun e => e.2).map (·.1)
  let s := modAwl s c fun a => { a with
    lines := a.lines + BitVec.ofNat 64 lines
    spCnt := satAdd a.spCnt (t.bad.length + range.length)
    redo := redo.zipIdx.map fun b =>
      { row := b.1.row, index := b.1.index, writes := if b.2 + 1 = redo.length then later else [] } }
  let s := match t.bad ++ range with
    | [] => s
    | b :: _ => awlLog s c ((nzb2 ++ [b]).headD b) false
  let s := if fb then nzb1.foldl (fun s b => awlFallback s c b) s else s
  let s := if !nzb2.isEmpty then faultNext s c awlSeq 0x21
    else if fatal.isEmpty then s else faultNext s c awlSeq 0x20
  pushWrites s c awlSeq 0x11 now

/-- AMV (R139 to R143, R146, R149 to R152). -/
def execAmv (c : CoreId) (w : BitVec 120) (ev : List EccEvent) (s : State) : Out :=
  let v := viewOf s c awlSeq (instrWord 0x11 w)
  let q := awlSeq
  let dw := fld w 112 8
  let doI := fld w 104 8
  let dmI := fld w 96 8
  let fmt := fld w 92 4
  let sp := fld w 90 2
  let sel := bit w 89
  let tr := bit w 88
  let ofmt := fld w 84 4
  let vb := fld w 79 5
  let nv := fld w 74 5 + 1
  let seq := bit w 73
  let nstr := fld w 70 3
  let rl := fld w 54 16 + 1
  let nr := fld w 32 22 + 1
  let k := if nstr ≤ 4 then 2 ^ nstr else 1
  let is := descRun dw k
  let ds := descsAt v c q is
  let od := opnd v c q doI
  let dm := opnd v c q dmI
  let rb := rowBytes fmt sp rl
  let ow := elemBits ofmt / 8
  let word := instrWord 0x11 w
  let a := (getCore s c).awl
  let m := cdiv (if tr then nr else rl) vregElems
  let loading := (getSeq s c q).infl.any fun y => opcodeOf y.word == 0x10 || opcodeOf y.word == 0x12
  let fmtBad := !awlForm fmt sp || (tr && sp != 0) || (ofmt != 8 && ofmt != 0xB)
  let vBad := (seq && vb != 0) || (!(tr && sel) && (decide (32 < (if seq then 0 else vb + (nv - 1) * m) + m) ||
    (!loading && vregBad a (amvVectors a seq vb nv m) (if tr then nr else rl))))
  let geom := decide (4 < nstr) || (sel && nstr != 0) || is.any (fun i => decide (255 < i)) || rlBad fmt sp rl ||
    (sp != 3 && (if sel then ds.any fun d => d.rowlen != nr * rb
      else ds.zipIdx.any fun d => d.1.bytes != shareBytes (nr * rb) k d.2))
  .next (engineInstr s c q word (mask128 31 0 ||| (if sel then 0 else mask128 103 96)) ev
    { names := is ++ [doI] ++ (if sel then [dmI] else []),
      ops := (if sel then [(dmI, 0)] else (is.filter fun i => decide (i < 256)).map fun i => (i, 0)) ++ [(doI, 3)],
      bad := (descFault s c (ds ++ [od] ++ (if sel then [dm] else []))).or
        (if fmtBad then some 0x10 else if vBad then some 0x11 else if geom then some 0x12 else none) }
    fun s y =>
      let pre := if sel then 2 else 0
      let head := maskHeadOf (opndData (y.got.getD 0 []) 64)
      let ents := if sel then maskEntries head (opndData (y.got.getD 1 []) 64) else []
      let d0 := ds.headD dm
      let inside := ents.filter fun e => decide (e < d0.rows) && decide (e < head.items)
      if sel && y.got.isEmpty then .access (maskHeadReads s c 64 dm 0)
      else if sel && (y.got.getD 0 []).any (·.poison) then .fault 0x0A
      else if sel && head.bad dm.bytes then .fault 0x23
      else if sel && y.got.length = 1 then .access (maskEntryReads s c 64 dm 0 head)
      else if sel && (y.got.getD 1 []).any (·.poison) then .fault 0x0A
      else if sel && !rising ents then .fault 0x23
      else if y.got.length = pre then
        .access (if sel then inside.flatMap fun e =>
            reads 0 (placeOf s c d0) d0.tm 0 (runPieces (wrap32 (d0.rowStart e)) d0.rowlen)
          else ds.zipIdx.flatMap fun d => reads d.2 (placeOf s c d.1) d.1.tm 0 d.1.pieces)
      else if (lastGot y).any (·.poison) then .fault 0x0A
      else if !awlTurn s c word then .hold
      else
        let data := weave k ((List.range k).map fun i => opndData (lastGot y) i)
        let rows := if sel then inside.length * nr else nr
        let dec : Except (BitVec 8) AwlStream :=
          if sp = 3 then panelsFrom data fmt rl rows 0 0 { rows := [], bad := [] }
          else .ok (recordRows data fmt sp rl rows)
        match dec with
        | .error f => .fault f
        | .ok t =>
          -- rows of entries out of range are not read; their outputs are poisoned in their places
          let t := if sel && sp != 3 then { t with
              rows := ents.flatMap fun e =>
                if inside.contains e then (t.rows.drop (inside.idxOf e * nr)).take nr else List.replicate nr []
              bad := t.bad.map fun b => { b with
                row := ents.idxOf (inside.getD (b.row / nr) 0) * nr + b.row % nr } } else t
          let range := ents.zipIdx.filterMap fun e =>
            if inside.contains e.1 then none else some { row := e.2 * nr, count := nr, kind := 3, index := e.1 : AwlBad }
          let vlen := if tr then (if sel then ents.length * nr else nr) else rl
          let a := (getCore s c).awl
          let starts := amvVectors a seq vb nv (cdiv vlen vregElems)
          let n := if tr then rl else t.rows.length
          if vregBad a starts vlen then .fault 0x11
          else if od.bytes < starts.length * n * ow then .fault 0x12
          else .finish fun s => amvFinish s c od t range starts tr fmt rl ofmt (cdiv data.length 16384))

/-- AWL_FALLBACK_REEXEC (R151): one row is re-executed by dense expansion; after the last, the outputs that waited are
written. -/
def execAwlFallbackReexec (c : CoreId) (s : State) : Out :=
  .next (match (getCore s c).awl.redo with
    | [] => s
    | r :: t =>
      let s := modAwl s c fun a => { a with redo := t }
      let s := awlFallback s c { row := r.row, count := 1, kind := 0, index := r.index }
      pushWrites s c awlSeq 0x11 r.writes)

/-- ASEQ OP 0 (R152): applies the 192-byte record at D. -/
def execAseqApply (c : CoreId) (w : BitVec 120) (ev : List EccEvent) (s : State) : Out :=
  let v := viewOf s c awlSeq (instrWord 0x12 w)
  let di := fld w 112 8
  let d := opnd v c awlSeq di
  let word := instrWord 0x12 w
  .next (if bit w 0 then s
    else engineInstr s c awlSeq word (mask128 111 1) ev
      { names := [di], ops := [(di, 0)],
        bad := if d.badForm || decide (d.bytes < 192) then some 0x04 else descFault s c [d] }
      fun s y =>
        if y.got.isEmpty then .access (readFirst s c 0 d 192)
        else if (lastGot y).any (·.poison) then .fault 0x0A
        else if !awlTurn s c word then .hold
        else .finish fun s =>
          let r := opndData (lastGot y) 0
          let set : BitVec 32 := BitVec.ofNat 32 (leAt r 0 4)
          let clr : BitVec 32 := BitVec.ofNat 32 (leAt r 4 4)
          modAwl s c fun a => { a with
            mask := (a.mask &&& ~~~clr) ||| set
            pos := (allFin 32).foldl (fun p i =>
              if bit set i.val then vset p i (BitVec.ofNat 32 (leAt r (64 + 4 * i.val) 4)) else p) a.pos })

/-- ASEQ OP 1 (R152): one more position for every live slot, after the earlier instructions of the Awl. -/
def execAseqAdvance (c : CoreId) (w : BitVec 120) (s : State) : Out :=
  let word := instrWord 0x12 w
  .next (if bit w 0 then
    engineInstr s c awlSeq word (mask128 119 1) [] { names := [], ops := [], bad := none } fun s _ =>
      if !awlTurn s c word then .hold
      else .finish fun s => modAwl s c fun a => { a with
        pos := (allFin 32).foldl (fun p i => if bit a.mask i.val then vmod p i (· + 1) else p) a.pos }
  else s)

end Sys2Proof.Machine
end

