-- ==== Sys2Proof/Machine/Stacks.lean ====
section
/-!
DEFINITION. Banks at work: one access in a frame slot (R42, R54 to R62), remote accesses at their target (R231, R36,
R74, R77), patrol, repair and retirement (R52, R53, R66), the Carrel mirror (R78) and the end of a scrub (R79).
-/
namespace Sys2Proof.Machine

/-- Open access n of a sequencer. -/
def openAt (x : SeqState) (n : Nat) : Option Access := (openAccesses x)[n]?

/-- The list of instructions in flight with open access n replaced. -/
def setInFlight (a : Access) : List InFlight → Nat → List InFlight
  | [], _ => []
  | y :: t, n =>
    if n < y.todo.length then { y with todo := y.todo.set n a } :: t else y :: setInFlight a t (n - y.todo.length)

/-- Open access n replaced; an output write that has executed leaves the list. -/
def setOpen (x : SeqState) (n : Nat) (a : Access) : SeqState :=
  let m := (x.infl.flatMap (·.todo)).length
  if n < m then { x with infl := setInFlight a x.infl n }
  else if a.phase = .done then { x with writes := x.writes.eraseIdx (n - m) }
  else { x with writes := x.writes.set (n - m) a }

/-- The open accesses that `hit` names change; output writes that have executed leave the list. -/
def settle (x : SeqState) (hit : Access → Bool) (f : Access → Access) : SeqState :=
  { x with
    infl := x.infl.map fun y => { y with todo := y.todo.map fun a => if hit a then f a else a }
    writes := (x.writes.map fun a => if hit a then f a else a).filter fun a => a.phase != .done }

/-- The accesses presented before access n that can hold it back. -/
def presentedBefore (x : SeqState) (n : Nat) : List Access := (openAccesses x).take n

/-- Open access n of a sequencer can execute now: a local access, not held back, that passes. -/
def canExecute (s : State) (c : CoreId) (x : SeqState) (n : Nat) : Bool :=
  match openAt x n with
  | none => false
  | some a => a.place == .here && (match a.phase with | .todo => true | .parked _ => true | _ => false) &&
      !heldBack s c (presentedBefore x n) a && localPasses s c a

/-- The first access of a sequencer that can execute at a bank (R61). -/
def firstAble (s : State) (c : CoreId) (x : SeqState) (bank : Nat) : Option Nat :=
  (List.range (openAccesses x).length).find? fun n => canExecute s c x n &&
    (match openAt x n with | some a => bankOf s c a.addr == bank | none => false)

/-- The DMA requesters in their turn at a bank: DMA0-DMA7 then the CC, after the one served last (R61). -/
def dmaOrder (s : State) (c : CoreId) (bank : Nat) : List SeqId :=
  let last := smapGet 0 (getCore s c).stk.dmaTurn bank
  (List.range 9).map fun i => seqOf (7 + ((if last = 0 then 0 else last - 7 + 1) + i) % 9)

/-- The bank serves this access of sequencer q now (R61). -/
def isChosen (s : State) (c : CoreId) (q : SeqId) (n bank : Nat) : Bool :=
  firstAble s c (getSeq s c q) bank == some n &&
    (decide (q.val < 7) ||
      ((dmaOrder s c bank).find? fun r => (firstAble s c (getSeq s c r) bank).isSome) == some q)

/-- A bank executes open access n of sequencer q in a slot of its class, or the access parks (R42, R59 to R61). -/
def execEngineAccess (s : State) (c : CoreId) (cyc : Nat) (q : SeqId) (n : Nat) (e : Ecc) : State :=
  let x := getSeq s c q
  match openAt x n with
  | none => s
  | some a =>
    let bank := bankOf s c a.addr
    if a.place ≠ .here || frameOwner (frameTable (getCore s c)) cyc ≠ frameClass q
        || heldBack s c (presentedBefore x n) a then s
    else match a.phase with
      | .done => s
      | .sent _ => s
      | _ =>
        if localPasses s c a then
          if isChosen s c q n bank then
            let r := execLocal s c a e
            let s := modSeq r.1 c q fun x => setOpen x n r.2
            if q.val < 7 then s else modStk s c fun k => { k with dmaTurn := smapSet 0 k.dmaTurn bank q.val }
          else s
        else
          let r := parkLocal s c [] a
          modSeq r.1 c q fun x => setOpen x n r.2

/-- The answer to a request flit (R231): RDR with data, or ACK. -/
def responseFlit (f : Flit) (status : BitVec 4) (data : List Byte) (poison : Bool) : Flit where
  vc := 2
  typ := if f.typ = 0 then 3 else 4
  src := f.dst
  dst := f.src
  job := f.job
  poison := poison
  tm := f.tm
  mc := false
  eng := f.eng
  status := status
  tag := f.tag
  addr := f.addr
  route := f.route
  aux := 0
  data := data

/-- The answer enters Lacing. -/
def respond (s : State) (f : Flit) (status : BitVec 4) (data : List Byte) (poison : Bool) : State :=
  sendFlit s (responseFlit f status data poison)

/-- The target takes nothing (R229, R231 check 1): fenced, in reset, off or LOST, or its Stacks domain is down. -/
def targetDown (s : State) (c : CoreId) : Bool :=
  let k := getCore s c
  k.fenced || k.st == .off || k.st == .reset || k.st == .lost ||
    (vget s.power.doms (stkDomain s c)).state != 1

/-- The set that holds SA is in SCRUB or HOLD (R79). -/
def inScrub (k : StkState) (sa : Nat) : Bool := k.hold || bit k.scrub (setOfWindow k (sa / setBytes))

/-- A remote read is served: from sets allocated to the reader's own job, and not in SCRUB (R36, R231 check 2). -/
def remoteReadOk (s : State) (c : CoreId) (f : Flit) : Bool :=
  let k := getCore s c
  f.job != 0 && k.jobId == f.job && decide (flitSa f < allocEnd s c) && !inScrub k.stk (flitSa f)

/-- The write flit covers its whole slot. -/
def coversSlot (f : Flit) : Bool := f.typ == 1 || f.aux == BitVec.allOnes 64

/-- The Carrel check of a Lacing write (R74). -/
def lacingWriteOk (s : State) (c : CoreId) (f : Flit) : Option (Fin 64) :=
  let k := (getCore s c).stk
  if stkSize s c ≤ flitSa f || inScrub k (flitSa f) then none
  else match carrelAt k (flitSa f) with
    | none => none
    | some i =>
      let r := vget k.carrels i
      if bit r.jobMask f.job.toNat && f.job != 0 && bit r.coreMask f.src.toNat && r.tmreq == f.tm &&
          (r.tmreq != 3 || coversSlot f) then some i
      else none

/-- Runs of enabled bytes. -/
def byteRuns (aux : BitVec 64) : List Nat := bitList aux

/-- The bytes of a write flit applied to a slot (R221): a WR replaces it, a WRP writes its enabled bytes. -/
def applyWriteFlit (s : State) (c : CoreId) (f : Flit) : State :=
  let sa := flitSa f / 64 * 64
  if coversSlot f then stkPut s c sa 0 (slice f.data 0 64) f.poison
  else (byteRuns f.aux).foldl (fun s i => stkPut s c sa i (slice f.data i 1) f.poison) s

/-- What service of a remote access comes to: answered, or it must wait on its tag. -/
inductive Served where
  | answered (s : State)
  | waits

/-- A remote access in its Remote slot (R231): the checks in order, the tag, and the access with its answer. FILLED
counts the slot writes that passed (R78). -/
def serveRemote (s : State) (c : CoreId) (f : Flit) (e : Ecc) : Served :=
  let sa := flitSa f / 64 * 64
  let slot := slotOf c sa
  if targetDown s c then .answered (respond s f 3 [] false)
  else if f.typ = 0 then
    if !remoteReadOk s c f then .answered (respond s f 1 [] false)
    else if !tagPasses f.tm (isFull s slot) then .waits
    else
      let s := eccRead s c sa e false
      let data := memRead s.mem (stacksAddr c sa) 64
      let bad := isPoison s slot
      let s := countConsumed (setFull s slot (tagAfter f.tm (isFull s slot))) c sa f.tm
      .answered (respond s f 0 data bad)
  else match lacingWriteOk s c f with
    | none => .answered (respond s f 2 [] false)
    | some i =>
      if !tagPasses f.tm (isFull s slot) then .waits
      else
        let s := applyWriteFlit s c f
        let s := setFull s slot (tagAfter f.tm (isFull s slot))
        let s := modCarrel s c i fun r => { r with filled := r.filled + 1 }
        .answered (respond s f 0 [] false)

/-- The bank of a remote access. -/
def remoteBank (s : State) (c : CoreId) (r : RemoteAccess) : Nat := bankOf s c (flitSa r.flit)

/-- The remote access that bank serves next in its arrival order: parked ones that pass, or the head of the queue
(R58, R61). -/
def remoteChosen (s : State) (c : CoreId) (n : Nat) : Bool :=
  let l := (getCore s c).stk.remote
  match l[n]? with
  | none => false
  | some r => r.parked ||
      !((l.take n).any fun x => !x.parked && remoteBank s c x == remoteBank s c r)

/-- A remote access held by the core executes in a Remote slot, or parks in one of entries 12-15 (R58, R60). -/
def execRemoteAccess (s : State) (c : CoreId) (cyc n : Nat) (e : Ecc) : State :=
  match (getCore s c).stk.remote[n]? with
  | none => s
  | some r =>
    if frameOwner (frameTable (getCore s c)) cyc ≠ 8 || !remoteChosen s c n then s
    else match serveRemote s c r.flit e with
      | .answered t => modStk t c fun k => { k with remote := k.remote.eraseIdx n }
      | .waits =>
        if r.parked then s
        else
          let bank := remoteBank s c r
          let m := remoteWaiters s c bank
          if m < 4 then
            noteWaiters (modStk s c fun k => { k with remote := k.remote.set n { r with parked := true } }) c
              (localWaiters s c bank + m + 1) false
          else noteWaiters s c 0 true

/-- STACKS_ACCESS_EXECUTE (R42): one access in the slot of core cycle `cyc`. -/
def execStacksAccessExecute (c : CoreId) (cyc : Nat) (a : AccessRef) (ecc : Ecc) (s : State) : Out :=
  .next (match a with
    | .engine q n => if coreClocked s c then execEngineAccess s c cyc q n ecc else s
    | .issue _ => s
    | .remote n => execRemoteAccess s c cyc n ecc)

/-- The opcode that a fault of open access n names: its instruction's, or the last issued. -/
def opcodeOfOpen (x : SeqState) (n : Nat) : BitVec 8 :=
  match x.infl.find? fun y => decide (n < y.todo.length) with
  | some y => opcodeOf y.word
  | none => x.lastOpc

/-- The job's tag timeout is on and running: not 0 (R62), and the job not paused (R332). -/
def tagTimeoutRuns (s : State) (c : CoreId) : Bool :=
  (getCore s c).stk.tagTmoUs != 0 && (getCore s c).st == .running

/-- The ESEND that sequencer q carries waits for a receiver that answers CARREL_FULL (R280). -/
def esendWaits (s : State) (c : CoreId) (q : SeqId) : Bool :=
  s.eyes.sessions.any fun x => x.unacked.any fun u => u.core == some (c, q) && u.full != 0

/-- TAG_TIMEOUT (R62): an access in a tag wait is freed unexecuted and its sequencer faults, or its answer says so; an
instruction held at issue stays unissued and faults, and so does an ESEND that waits on CARREL_FULL (R280). -/
def execTagTimeout (c : CoreId) (a : AccessRef) (s : State) : Out :=
  .next (if !tagTimeoutRuns s c then s
    else match a with
      | .engine q n =>
        match openAt (getSeq s c q) n with
        | some x => (match x.phase with
          | .parked _ => seqFault s c q (opcodeOfOpen (getSeq s c q) n) 0x06
          | _ => s)
        | none => s
      | .issue q =>
        if (getSeq s c q).st = .waitTag then
          seqFault s c q (opcodeOf (fetched (getSeq s c q))) 0x06
        else if esendWaits s c q then seqFault s c q 0x16 0x06
        else s
      | .remote n =>
        match (getCore s c).stk.remote[n]? with
        | some r =>
          if r.parked then
            modStk (respond s r.flit 4 [] false) c fun k => { k with remote := k.remote.eraseIdx n }
          else s
        | none => s)

/-- CORRECTED_WRITEBACK (R64): the corrected slot is written back, its data and tag as they are. -/
def execCorrectedWriteback (c : CoreId) (sa : BitVec 32) (s : State) : Out :=
  .next (modStk s c fun k => { k with fixups := k.fixups.erase (slotOf c sa.toNat) })

/-- PATROL_READ (R66): the check codes of an in-service slot outside SCRUB; a pass ends with the last slot. -/
def execPatrolRead (c : CoreId) (sa : BitVec 32) (ecc : Ecc) (s : State) : Out :=
  let a := sa.toNat / 64 * 64
  .next (if stkSize s c ≤ a || inScrub (getCore s c).stk a || targetDown s c then s
    else
      let s := eccRead s c a ecc true
      let k := (getCore s c).stk
      if k.patrolAt ≠ a then s
      else if a + 64 < stkSize s c then modStk s c fun k => { k with patrolAt := a + 64 }
      else modStk s c fun k => { k with patrolAt := 0, passes := k.passes + 1 })

/-- The slots of a bank: rows of window set w. -/
def bankSlots (c : CoreId) (w b : Nat) : List Nat :=
  (List.range 32768).map fun r => slotOf c (w * setBytes + r * 2048 + b * 64)

/-- Zeros, empty tags and no poison in one bank (R53). -/
def scrubBank (s : State) (c : CoreId) (w b : Nat) : State :=
  let here := fun n => decide (slotOf c (w * setBytes) ≤ n) && decide (n < slotOf c ((w + 1) * setBytes)) &&
    decide (n % 32 = b)
  { s with
    mem := s.mem.filter fun x => !here (x.1 / 64)
    full := s.full.filter fun n => !here n
    poison := s.poison.filter fun n => !here n }

/-- The window set of a physical set. -/
def windowOf (k : StkState) (set : Nat) : Nat := ((bitList k.insvc).filter fun t => decide (t < set)).length

/-- BANK_REPAIR (R53): on a core with no job, a REPAIR_PENDING bank takes a free spare of its cluster and is
scrubbed; with none free its set is marked for retirement. -/
def execBankRepair (c : CoreId) (bank : Fin 640) (s : State) : Out :=
  let k := (getCore s c).stk
  let set := bank.val / 32
  let spare := if set < 10 then k.spareC0 else k.spareC1
  .next (if (getCore s c).jobId ≠ 0 || !k.repairPend.contains bank.val then s
    else
      let s := modStk s c fun k => { k with repairPend := setDel k.repairPend bank.val }
      if spare = 0 then noted (modStk s c fun k => { k with retirePend := setBit k.retirePend set true })
      else
        let s := modStk s c fun k => { k with
          repaired := setAdd k.repaired bank.val
          spareC0 := if set < 10 then k.spareC0 - 1 else k.spareC0
          spareC1 := if set < 10 then k.spareC1 else k.spareC1 - 1
          ueSlots := k.ueSlots.filter fun e => bankOf s c ((e.1 * 64) % 0x80000000) != bank.val }
        let s := scrubBank s c (windowOf k set) (bank.val % 32)
        let s := condAppend s (unitWord 5 c.val bank.val) 0x02 1 (BitVec.ofNat 16 (16 - spare)) 0
        writeRecord s { recOf s 5 c.val bank.val 0x01 1 0 with
          flags := 1, detail := [0, 0, 0, 0] ++ leBytes 2 bank.val ++ leBytes 1 set })

/-- SET_RETIRE (R51, R53): on a core with no job, a set marked for retirement leaves service, STK_SIZE drops by
64 MiB and the window sets above it shift down; a core that would keep 17 sets becomes LOST instead. -/
def execSetRetire (c : CoreId) (set : Fin 20) (s : State) : Out :=
  let k := (getCore s c).stk
  .next (if (getCore s c).jobId ≠ 0 || !bit k.retirePend set.val || !bit k.insvc set.val then s
    else if popcount k.insvc ≤ 18 then
      loseCore (condAppend s (unitWord 0 c.val 0) 0x01 1 0 0) c
    else
      let s := modStk s c fun k => { k with
        insvc := setBit k.insvc set.val false, retirePend := setBit k.retirePend set.val false
        repairPend := k.repairPend.filter fun b => b / 32 != set.val }
      let s := loseBytes s (stacksAddr c (stkSize s c)) setBytes
      let s := condAppend s (unitWord 5 c.val (0x800000 + set.val)) 0x03 1 0 0
      writeRecord s { recOf s 5 c.val (0x800000 + set.val) 0x01 1 0 with
        flags := 3, detail := [0, 0, 0, 0, 0, 0] ++ leBytes 1 set.val })

/-- The mirror entry that a Carrel's registers give (Table 03-12). -/
def mirrorOf (r : Carrel) : MirrorEntry where
  filled := r.filled
  consumed := r.consumed
  drops := r.drops
  denied := r.denied
  state := BitVec.ofNat 32 (b2n r.opened + 256 * r.owner.toNat + 65536 * r.openSeq.toNat)

/-- CARREL_MIRROR_UPDATE (R78): the status mirror follows the Carrel. -/
def execCarrelMirrorUpdate (c : CoreId) (k : Fin 64) (s : State) : Out :=
  .next (modStk s c fun x => { x with mirror := vset x.mirror k (mirrorOf (vget x.carrels k)) })

/-- Zeros, empty tags and no poison in the first n bytes of core c's Stacks (R79). -/
def scrubRange (s : State) (c : CoreId) (n : Nat) : State :=
  loseBytes s (stacksAddr c 0) n

/-- The scrub of a core ends (R79, R183, R334 step 5): its sets and Welt caches are zero, dense fallback is off, and it
is IDLE with no job and gated clusters; a LOST core stays LOST, and a core still fenced by a reset waits for its
release (R398). -/
def endScrub (s : State) (c : CoreId) : State :=
  let s := scrubRange s c (stkSize s c)
  let s := modStk s c fun k => { k with scrub := 0, hold := false }
  modCore s c fun k => { k with
    st := if k.st = .lost then .lost else if k.fenced then .reset else .idle
    jobId := 0, clGate := 3, ungating := 0, sets := 0, seqRun := 0, saved := 0, frameSel := 0, framePend := none,
    arrivals := [], barrier := none
    welts := k.welts.map fun w => { w with cache := [], cpoison := [] }
    lasts := k.lasts.map fun l => { l with fallback := false }
    awl := { k.awl with fallback := false } }

/-- The mailbox holds a JOB_KILL that has killed job j (R313: its time takes in the scrub). -/
def killFor (m : Mailbox) (j : BitVec 6) : Bool :=
  m.own && m.waiting && m.result.isNone && m.code == 0x24 && memGet m.payload 0 == j.setWidth 8

/-- JOB_KILL of job j ends OK. -/
def finishKill (s : State) (j : BitVec 6) : State :=
  modReg s fun r => { r with
    mailboxes := r.mailboxes.map fun m => if killFor m j then { m with result := some (0, [], 0) } else m }

/-- The job leaves when no core of it is in SCRUB or HOLD: its ID is free (R334 step 5). -/
def freeJob (s : State) (j : BitVec 6) : State :=
  noted (modReg (finishKill s j) fun r => { r with jobs := r.jobs.filter fun x => x.id != j })

/-- SCRUB_COMPLETE (R79): the scrub of a job's sets ends. Cores held under a debug unlock stay in HOLD, and the job
with them. -/
def execScrubComplete (job : BitVec 6) (s : State) : Out :=
  .next (match findJob s job with
    | none => s
    | some j =>
      if j.state ≠ 6 || j.draining then s
      else
        let now := j.cores.filter fun c => !(getCore s c).stk.hold
        let s := now.foldl endScrub s
        if now.length = j.cores.length then freeJob s job
        else noted (modJob (finishKill s job) job fun x =>
          { x with cores := x.cores.filter fun c => (getCore s c).stk.hold }))

end Sys2Proof.Machine
end

