-- ==== Sys2Proof/Machine/Carrel.lean ====
section
/-!
DEFINITION. FILL and COPY (R67 to R70), and the Carrels: their record, opening, closing and release of parked writes
(R71 to R77).
-/
namespace Sys2Proof.Machine

/-- TAGOP on one slot (Table 03-7): leave, set empty, set full. -/
def applyTagop (s : State) (op : Nat) (slot : Nat) : State :=
  if op = 1 then setFull s slot false else if op = 2 then setFull s slot true else s

/-- The pieces of a stream cover all 64 bytes of a slot (R68). -/
def coversWhole (ps : List Piece) (slot : Nat) : Bool :=
  (List.range 64).all fun i => ps.any fun p => p.slot == slot && decide (p.lo ≤ i) && decide (i < p.lo + p.len)

/-- A byte stream written over pieces: the bytes, piece by piece. -/
def putPieces (base : Nat) : List Piece → List (Byte × Bool) → List Host.Cell → List Host.Cell
  | [], _, m => m
  | p :: t, l, m => putPieces base t (l.drop p.len) (memWrite m (base + p.slot + p.lo) ((l.take p.len).map (·.1)))

/-- The pieces that received some poisoned byte. -/
def badPieces : List Piece → List (Byte × Bool) → List Nat
  | [], _ => []
  | p :: t, l => if (l.take p.len).any (·.2) then p.slot :: badPieces t (l.drop p.len) else badPieces t (l.drop p.len)

/-- The distinct slots of a list of pieces. -/
def slotsOf (ps : List Piece) : List Nat := (ps.map (·.slot)).eraseDups

/-- A stream of bytes, each with the poison of the slot that supplied it, written slot by slot (R68): whole slots take
the stream's poison, partial ones keep theirs and add it; TAGOP acts on every slot touched. -/
def putStream (s : State) (c : CoreId) (ps : List Piece) (l : List (Byte × Bool)) (tagop : Nat) : State :=
  let bad := badPieces ps l
  let s := { s with mem := putPieces (stacksAddr c 0) ps l s.mem }
  (slotsOf ps).foldl (fun s a =>
    let n := slotOf c a
    let p := bad.contains a
    let whole := coversWhole ps a
    let s := setPoison s n (if whole then p else p || isPoison s n)
    let s := if whole then noteFull s c n else s
    applyTagop s tagop n) s

/-- The descriptor with its tag mode ignored (R68). -/
def Descr.plain (d : Descr) : Descr := { d with tm := 0 }

/-- FILL's constant as a byte of slot offset i: the low WIDTH bits repeat from the slot's byte 0 (R68). -/
def fillByte (value : BitVec 64) (width : Nat) (i : Nat) : Byte := value.extractLsb' (8 * (i % 2 ^ width)) 8

/-- FILL (R67, R68, R70). -/
def execFill (c : CoreId) (d : Fin 8) (w : BitVec 120) (s : State) : Out :=
  let q := dmaSeq d
  let v := viewOf s c q (instrWord 0x10 w)
  let o := (opnd v c q (fld w 112 8)).plain
  let tagop := fld w 110 2
  let width := fld w 108 2
  let value := w.extractLsb' 0 64
  .next (engineInstr s c q (instrWord 0x10 w) (mask128 107 64 ||| (mask128 63 0 &&& ~~~ mask128 (8 * 2 ^ width - 1) 0)) []
    { names := [fld w 112 8], ops := [],
      bad := (descFault s c [o]).or (if tagop = 3 then some 0x10 else if o.rmt then some 0x12 else none) }
    fun s _ => if !classHasSlot (frameTable (getCore s c)) 7 then .hold else .finish fun s =>
      let ps := o.pieces
      putStream s c ps (ps.flatMap fun p => (List.range p.len).map fun i => (fillByte value width (p.lo + i), false)) tagop)

/-- The bytes of local pieces with the poison of the slot each lies in. -/
def readStream (s : State) (c : CoreId) (ps : List Piece) : List (Byte × Bool) :=
  ps.flatMap fun p => (memRead s.mem (stacksAddr c p.slot + p.lo) p.len).map fun b => (b, isPoison s (slotOf c p.slot))

/-- COPY (R67, R68, R70). -/
def execCopy (c : CoreId) (d : Fin 8) (w : BitVec 120) (ev : List EccEvent) (s : State) : Out :=
  let q := dmaSeq d
  let v := viewOf s c q (instrWord 0x11 w)
  let o := (opnd v c q (fld w 112 8)).plain
  let r := (opnd v c q (fld w 104 8)).plain
  let tagop := fld w 102 2
  .next (engineInstr s c q (instrWord 0x11 w) (mask128 101 0) ev
    { names := [fld w 112 8, fld w 104 8], ops := [],
      bad := (descFault s c [o, r]).or
        (if tagop = 3 || o.bytes ≠ r.bytes then some 0x10
         else if !o.rmt && !r.rmt && footMeet 64 o r then some 0x11
         else if o.rmt || r.rmt then some 0x12 else none) }
    fun s _ => if !classHasSlot (frameTable (getCore s c)) 7 then .hold else .finish fun s =>
      let s := (slotsOf r.pieces).foldl (fun s a => eccRead s c a (eccAt ev false (a / 64)) false) s
      putStream s c o.pieces (readStream s c r.pieces) tagop)

/-- A Carrel record's reserved bits are set, or a field is out of form (Tables 03-9, 03-11): P image cores. -/
def carrelForm (r : List Byte) (p : Nat) : Bool :=
  leAt r 0 4 % 64 != 0 || leAt r 4 4 % 64 != 0 || leAt r 4 4 == 0 || leAt r 0x18 1 % 4 == 1 || leAt r 0x18 1 % 4 == 2 ||
    leAt r 0x18 1 / 4 != 0 || leAt r 8 8 % 2 == 1 || decide (2 ^ p ≤ leAt r 0x10 2) || decide (512 ≤ leAt r 0x12 2) ||
    leAt r 0x14 4 / 2 ^ 24 % 128 != 0 || leAt r 0x19 7 != 0

/-- The record's range leaves STK_SIZE or the job's sets. -/
def carrelRange (r : List Byte) (endSa : Nat) : Bool := decide (endSa < leAt r 0 4 + leAt r 4 4)

/-- The record shares a slot with an open Carrel. -/
def carrelOverlap (k : StkState) (r : List Byte) : Bool :=
  (allFin 64).any fun i =>
    let x := vget k.carrels i
    x.opened && decide (x.base.toNat < leAt r 0 4 + leAt r 4 4) && decide (leAt r 0 4 < x.base.toNat + x.length.toNat)

/-- The fault of opening Carrel i with a record, in the order of R73. -/
def carrelFault (s : State) (c : CoreId) (i : Fin 64) (r : List Byte) : Option (BitVec 8) :=
  let k := (getCore s c).stk
  if (vget k.carrels i).opened then some 0x13
  else if carrelForm r (jobCores s c) then some 0x12
  else if carrelRange r (allocEnd s c) then some 0x11
  else if carrelOverlap k r then some 0x10
  else none

/-- Placed cores of a CORE_MASK as a mask (R316). -/
def placedMask (s : State) (c : CoreId) (m : Nat) : BitVec 12 :=
  (maskCores s c m).foldl (fun x d => setBit x d.val true) 0

/-- Carrel i opens with a record (R73): its counters zero, its OPEN_SEQ one higher. -/
def openCarrel (s : State) (c : CoreId) (i : Fin 64) (r : List Byte) : State :=
  let j := (getCore s c).jobId
  let m := placedMask s c (leAt r 0x10 2)
  noted (modCarrel s c i fun x => {
    opened := true, tmreq := BitVec.ofNat 2 (leAt r 0x18 1), job := j, hostMask := BitVec.ofNat 9 (leAt r 0x12 2)
    base := BitVec.ofNat 32 (leAt r 0 4), length := BitVec.ofNat 32 (leAt r 4 4), jobMask := BitVec.ofNat 64 (leAt r 8 8)
    coreMask := m, eys := BitVec.ofNat 24 (leAt r 0x14 4), eysEn := decide (2 ^ 31 ≤ leAt r 0x14 4)
    filled := 0, consumed := 0, drops := 0, denied := 0, openSeq := x.openSeq + 1, owner := j })

/-- Parked Lacing writes on a Carrel's slots are released with CARREL_DENIED (R77). -/
def releaseParked (s : State) (c : CoreId) (r : Carrel) : State :=
  let hit := fun (x : RemoteAccess) => x.parked && x.flit.typ != 0 && decide (r.base.toNat ≤ flitSa x.flit) &&
    decide (flitSa x.flit < r.base.toNat + r.length.toNat)
  let s := ((getCore s c).stk.remote.filter hit).foldl (fun s x => respond s x.flit 2 [] false) s
  modStk s c fun k => { k with remote := k.remote.filter fun x => !hit x }

/-- A Carrel closes (R77): its registers read zero, its counters and OPEN_SEQ stay. -/
def closeCarrel (s : State) (c : CoreId) (i : Fin 64) : State :=
  let r := vget (getCore s c).stk.carrels i
  if r.opened then
    let s := modCarrel s c i fun x => { x with
      opened := false, tmreq := 0, job := 0, hostMask := 0, base := 0, length := 0, jobMask := 0, coreMask := 0,
      eys := 0, eysEn := false }
    noted (releaseParked s c r)
  else s

/-- Every Carrel of a core closes (R77). -/
def closeAll (s : State) (c : CoreId) : State := (allFin 64).foldl (fun s i => closeCarrel s c i) s

/-- A core controller index field of 6 bits. -/
def carrelIdx (w : BitVec 120) : Fin 64 := finOf 64 (by decide) (fld w 0 6)

/-- CROPEN (R73, R65): opens Carrel K with the record in the first 32 bytes of D's byte stream. -/
def execCropen (c : CoreId) (w : BitVec 120) (ev : List EccEvent) (s : State) : Out :=
  let v := viewOf s c ccSeq (instrWord 0x10 w)
  let d := fld w 112 8
  let o := opnd v c ccSeq d
  .next (engineInstr s c ccSeq (instrWord 0x10 w) (mask128 111 6) ev
    { names := [d], ops := if o.rmt then [(d, 0)] else [],
      bad := if o.badForm || decide (o.bytes < 32) then some 0x04 else descFault s c [o] }
    fun s y =>
      if y.got.isEmpty then .access (reads 0 (placeOf s c o) 0 0 (takePieces o.pieces 32))
      else if opndPoison (lastGot y) 0 then .fault 0x0A
      else match carrelFault s c (carrelIdx w) (opndData (lastGot y) 0) with
        | some f => .fault f
        | none => .finish fun s => openCarrel s c (carrelIdx w) (opndData (lastGot y) 0))

/-- CRCLOSE (R77): takes effect at issue; a Carrel that is not open faults CARREL_NONE. -/
def execCrclose (c : CoreId) (w : BitVec 120) (s : State) : Out :=
  .next (controlInstr s c ccSeq (instrWord 0x11 w) (mask128 119 6) [] fun s =>
    if (vget (getCore s c).stk.carrels (carrelIdx w)).opened then
      thenAdvance c ccSeq 0x11 (fun s => closeCarrel s c (carrelIdx w)) s
    else seqFault s c ccSeq 0x11 0x14)

end Sys2Proof.Machine
end

