-- ==== Sys2Proof/Machine/Dma.lean ====
section
/-!
DEFINITION. The tier instructions of the DMA sequencers (R244 to R251): XLOAD, XSTORE, XGATHER and XMOVE.
-/
namespace Sys2Proof.Machine

/-- Descriptor i of a sequencer's table as a memory descriptor (R244). -/
def memOpnd (s : State) (c : CoreId) (q : SeqId) (i : Nat) : MemDescr := memDescrOf (descAt s c q i)

/-- A memory footprint lies in the job's windows with right b (R251, R322). -/
def memAllowed (s : State) (c : CoreId) (b : Nat) (d : MemDescr) : Bool := inWindows (jobWindows s c) b d.lo d.hi

/-- The Stacks checks of a tier instruction: R35 on its descriptors, and a header's SA whatever its TM (R247). -/
def tierStkFault (s : State) (c : CoreId) (ds : List Descr) (hdr : Option Descr) : Option (BitVec 8) :=
  let all := ds ++ hdr.toList
  if all.any (·.badForm) then some 0x04
  else if all.any (·.badAlign) || hdr.any (fun h => h.sa % 64 != 0) then some 0x03
  else if all.any (badRange s c) then some 0x02
  else none

/-- Two memory footprints share a slot (Table 03-8). -/
def memMeet (a b : MemDescr) : Bool := decide (a.lo / 64 ≤ b.hi / 64) && decide (b.lo / 64 ≤ a.hi / 64)

/-- What a tier instruction asks of R251: its Stacks descriptors (the header's apart), its memory descriptors with the
right each needs, the TAGOP 11 or unequal bytes of DMA_FORM, an overlap, and its own MEM_FORM cases. -/
structure TierCheck where
  stackList  : List Descr
  hdr     : Option Descr
  mem     : List (MemDescr × Nat)
  badSize : Bool
  overlap : Bool
  badForm : Bool

/-- The first fault of a tier instruction in the order of R251. -/
def tierFault (s : State) (c : CoreId) (t : TierCheck) : Option (BitVec 8) :=
  (tierStkFault s c t.stackList t.hdr).or <|
    if t.mem.any fun m => m.1.rowlen == 0 || m.1.rows == 0 then some 0x04
    else if t.badSize then some 0x10
    else if t.overlap then some 0x11
    else if (t.stackList ++ t.hdr.toList).any (·.rmt) then some 0x12
    else if t.mem.any fun m => !memPopulated s m.1 then some 0x13
    else if t.mem.any fun m => m.1.ma % 64 != 0 || m.1.rowlen % 64 != 0 then some 0x14
    else if t.badForm || t.mem.any (·.1.rsv) then some 0x15
    else if t.mem.any fun m => !memAllowed s c m.2 m.1 then some 0x08
    else none

/-- The bytes of accesses in order, each with the poison of its slot. -/
def gotStream (l : List Access) : List (Byte × Bool) := l.flatMap fun a => a.data.map fun b => (b, a.poison)

/-- The poison of each piece that a stream of bytes fills (R246). -/
def streamPieceBad : List Piece → List (Byte × Bool) → List Bool
  | [], _ => []
  | p :: t, l => (l.take p.len).any (·.2) :: streamPieceBad t (l.drop p.len)

/-- Reads of a memory footprint. -/
def memReads (o : Nat) (prio : BitVec 2) (d : MemDescr) : List Access := reads o .memory 0 prio d.pieces

/-- Writes of a stream over a memory footprint. -/
def memWrites (o : Nat) (prio : BitVec 2) (d : MemDescr) (l : List (Byte × Bool)) : List Access :=
  writesFrom o .memory 0 prio true d.pieces (l.map (·.1)) (streamPieceBad d.pieces l)

/-- A landing header (Table 10-7). -/
def landingHeader (ma bytes entry ltag : Nat) (bad : Bool) : List Byte :=
  leBytes 8 ma ++ leBytes 4 bytes ++ leBytes 4 entry ++ leBytes 2 ltag ++ leBytes 1 (b2n bad) ++ List.replicate 45 0

/-- The write-fill of a landing header at SA (R247). -/
def headerWrite (o sa : Nat) (data : List Byte) : List Access :=
  [{ opnd := o, place := .here, write := true, addr := sa, lo := 0, len := 64, tm := 3, prio := 0, multi := false,
     data := data, poison := false, phase := .todo }]

/-- The DMA class has no slot in the frame table in use, so no data write executes (R39). -/
def dmaShut (s : State) (c : CoreId) : Bool := !classHasSlot (frameTable (getCore s c)) 7

/-- The opcode word's PRIO bit (Table 10-6). -/
def prioOf (w : BitVec 120) : BitVec 2 := if bit w 92 then 1 else 0

/-- XLOAD (R246, R247): the data, then the landing header when HDR is set. -/
def execXload (c : CoreId) (d : Fin 8) (w : BitVec 120) (s : State) : Out :=
  let q := dmaSeq d
  let word := instrWord 0x12 w
  let v := viewOf s c q word
  let o := (opnd v c q (fld w 112 8)).plain
  let m := memOpnd v c q (fld w 104 8)
  let hdr := bit w 95
  let h := opnd v c q (fld w 96 8)
  let tagop := fld w 93 2
  .next (engineInstr s c q word
    (mask128 91 16 ||| (if hdr then 0 else mask128 103 96 ||| mask128 15 0)) []
    { names := [fld w 112 8, fld w 104 8] ++ (if hdr then [fld w 96 8] else []), ops := [],
      bad := tierFault s c {
        stackList := [o], hdr := if hdr then some h else none, mem := [(m, 0)]
        badSize := tagop = 3 || o.bytes != m.bytes, overlap := false, badForm := false } }
    fun s y =>
      if y.got.isEmpty then .access (memReads 0 (prioOf w) m)
      else if y.got.length = 1 then
        if dmaShut s c then .hold
        else .act fun s => putStream s c o.pieces (gotStream (y.got.getD 0 [])) tagop
      else if hdr ∧ y.got.length = 2 then
        .access (headerWrite 1 h.sa
          (landingHeader m.ma m.bytes 0 (fld w 0 16) ((y.got.getD 0 []).any (·.poison))))
      else .finish id)

/-- XSTORE (R246): D read under its TM, then written to memory. -/
def execXstore (c : CoreId) (d : Fin 8) (w : BitVec 120) (ev : List EccEvent) (s : State) : Out :=
  let q := dmaSeq d
  let word := instrWord 0x13 w
  let v := viewOf s c q word
  let o := opnd v c q (fld w 112 8)
  let m := memOpnd v c q (fld w 104 8)
  .next (engineInstr s c q word (mask128 103 93 ||| mask128 91 0) ev
    { names := [fld w 112 8, fld w 104 8], ops := [(fld w 112 8, 0)],
      bad := tierFault s c {
        stackList := [o], hdr := none, mem := [(m, 1)], badSize := o.bytes != m.bytes, overlap := false
        badForm := false } }
    fun _ y =>
      if y.got.isEmpty then .access (reads 0 .here o.tm (prioOf w) o.pieces)
      else if y.got.length = 1 then .access (memWrites 1 (prioOf w) m (gotStream (y.got.getD 0 [])))
      else .finish id)

/-- XMOVE (R246): memory to memory. -/
def execXmove (c : CoreId) (d : Fin 8) (w : BitVec 120) (s : State) : Out :=
  let q := dmaSeq d
  let word := instrWord 0x15 w
  let v := viewOf s c q word
  let n := memOpnd v c q (fld w 112 8)
  let m := memOpnd v c q (fld w 104 8)
  .next (engineInstr s c q word (mask128 103 93 ||| mask128 91 0) []
    { names := [fld w 112 8, fld w 104 8], ops := [],
      bad := tierFault s c {
        stackList := [], hdr := none, mem := [(m, 0), (n, 1)], badSize := n.bytes != m.bytes, overlap := memMeet n m
        badForm := false } }
    fun _ y =>
      if y.got.isEmpty then .access (memReads 0 (prioOf w) m)
      else if y.got.length = 1 then .access (memWrites 1 (prioOf w) n (gotStream (y.got.getD 0 [])))
      else .finish id)

/-- The check of item k of an XGATHER before any of its data moves (R246), in the order of R251: its destination and
header slot in Stacks, its footprints in populated memory, its windows. -/
def itemFault (s : State) (c : CoreId) (src : MemDescr) (dst : Descr ⊕ MemDescr) (hsa : Option Nat) :
    Option (BitVec 8) :=
  let stk := (match dst with
    | .inl d => badRange s c d
    | .inr _ => false) || hsa.any fun a => !inAlloc s c a (a + 63)
  let mem := (src, 0) :: (match dst with
    | .inl _ => []
    | .inr d => [(d, 1)])
  if stk then some 0x02
  else if mem.any fun m => !memPopulated s m.1 then some 0x13
  else if mem.any fun m => !memAllowed s c m.2 m.1 then some 0x08
  else none

/-- XGATHER (R246, R247): the mask, then item by item its data and its header. Each item takes three phases. -/
def execXgather (c : CoreId) (d : Fin 8) (w : BitVec 120) (ev : List EccEvent) (s : State) : Out :=
  let q := dmaSeq d
  let word := instrWord 0x14 w
  let v := viewOf s c q word
  let hdr := bit w 95
  let dmem := bit w 91
  let tagop := fld w 93 2
  let o := (opnd v c q (fld w 112 8)).plain
  let om := memOpnd v c q (fld w 112 8)
  let m := memOpnd v c q (fld w 104 8)
  let dm := opnd v c q (fld w 96 8)
  let h := opnd v c q (fld w 80 8)
  let dstep := fld w 32 32
  .next (engineInstr s c q word
    (mask128 89 88 ||| mask128 79 64 ||| (if hdr then 0 else mask128 87 80) ||| (if dmem then mask128 94 93 else 0)) ev
    { names := [fld w 112 8, fld w 104 8, fld w 96 8] ++ (if hdr then [fld w 80 8] else []),
      ops := [(fld w 96 8, 0)],
      bad := tierFault s c {
        stackList := if dmem then [dm] else [o, dm], hdr := if hdr then some h else none
        mem := (m, 0) :: (if dmem then [(om, 1)] else [])
        badSize := tagop = 3 || (if dmem then om.bytes else o.bytes) != m.bytes
        overlap := dmem && memMeet om m, badForm := (hdr && dmem) || dstep % 64 != 0 } }
    fun s y =>
      let head := maskHeadOf (opndData (y.got.getD 0 []) 64)
      let ents := maskEntries head (opndData (y.got.getD 1 []) 64)
      if y.got.isEmpty then .access (maskHeadReads s c 64 dm (prioOf w))
      else if (y.got.getD 0 []).any (·.poison) then .fault 0x0A
      else if head.bad dm.bytes then .fault 0x23
      else if y.got.length = 1 then .access (maskEntryReads s c 64 dm (prioOf w) head)
      else if (y.got.getD 1 []).any (·.poison) then .fault 0x0A
      else if !rising ents then .fault 0x23
      else if ents.any fun e => decide (head.items ≤ e) then .fault 0x21
      else
        let k := (y.got.length - 2) / 3
        let part := (y.got.length - 2) % 3
        if ents.length ≤ k then .finish id
        else
          let e := ents.getD k 0
          let src := m.shift (e * fld w 0 32 * 64)
          let off := (if bit w 90 then e else k) * dstep
          let dst : Descr ⊕ MemDescr := if dmem then .inr (om.shift off) else .inl { o with sa := o.sa + off }
          let hsa := h.sa + k * 64
          if part = 0 then
            match itemFault s c src dst (if hdr then some hsa else none) with
            | some f => .fault f
            | none => .access (memReads 0 (prioOf w) src)
          else if part = 1 then
            let data := gotStream (lastGot y)
            match dst with
            | .inr n => .access (memWrites 1 (prioOf w) n data)
            | .inl n => if dmaShut s c then .hold else .act fun s => putStream s c n.pieces data tagop
          else if hdr then
            .access (headerWrite 2 hsa
              (landingHeader src.ma src.bytes e head.group ((y.got.getD (2 + 3 * k) []).any (·.poison))))
          else .act id)

end Sys2Proof.Machine
end

