-- ==== Sys2Proof/Machine/Ez.lean ====
section
/-!
DEFINITION. The EZ link form (R133 to R135): groups of up to 64 elements, raw, packed or all-zero.
-/
namespace Sys2Proof.Machine

/-- Exponent and mantissa bits of an EZ element format (Table 05-8); INT8 has no exponent. -/
structure EzFmt where
  code : Nat
  exp  : Nat
  man  : Nat
  int8 : Bool
  deriving DecidableEq, Repr

/-- The EZ element formats (Table 05-8). -/
def ezFmt (code : Nat) : Option EzFmt :=
  match code with
  | 0x0 => some { code := 0x0, exp := 4, man := 3, int8 := false }
  | 0x1 => some { code := 0x1, exp := 5, man := 2, int8 := false }
  | 0x2 => some { code := 0x2, exp := 0, man := 7, int8 := true }
  | 0x8 => some { code := 0x8, exp := 8, man := 7, int8 := false }
  | 0x9 => some { code := 0x9, exp := 5, man := 10, int8 := false }
  | 0xB => some { code := 0xB, exp := 8, man := 23, int8 := false }
  | _ => none

/-- Bytes of one element. -/
def EzFmt.bytes (f : EzFmt) : Nat := (f.exp + f.man + 1) / 8

/-- The exponent field of an element. -/
def EzFmt.expOf (f : EzFmt) (x : Nat) : Nat := x / 2 ^ f.man % 2 ^ f.exp

/-- The low n bits of v, bit 0 first. -/
def putBits : Nat → Nat → List Bool
  | 0, _ => []
  | n + 1, v => (v % 2 == 1) :: putBits n (v / 2)

/-- n bits from the front of a stream as a number, bit 0 first, and the rest; missing bits read 0. -/
def getBits : Nat → List Bool → Nat × List Bool
  | 0, l => (0, l)
  | n + 1, [] => ((getBits n []).1 * 2, [])
  | n + 1, b :: t => (b2n b + 2 * (getBits n t).1, (getBits n t).2)

/-- The bits of a byte string, bit 0 of each byte first. -/
def bitsOfBytes (l : List Byte) : List Bool := l.flatMap fun b => putBits 8 b.toNat

/-- Bits packed into n bytes, bit 0 of each byte first, padded with zeros. -/
def bytesOfBits : Nat → List Bool → List Byte
  | 0, _ => []
  | n + 1, l => BitVec.ofNat 8 (getBits 8 l).1 :: bytesOfBits n (getBits 8 l).2

/-- The run code before a non-zero element (R134). -/
def ezRun (run : Nat) : List Bool := if run = 0 then [false] else true :: putBits 6 run

/-- A non-zero element in packed mode (R134): sign, exponent delta and mantissa, or INT8's eight bits. -/
def ezElem (f : EzFmt) (ebase dw x : Nat) : List Bool :=
  if f.int8 then putBits 8 x
  else putBits 1 (x / 2 ^ (f.exp + f.man)) ++ putBits dw (f.expOf x - ebase) ++ putBits f.man x

/-- The packed body of a group; `run` counts the zeros since the last non-zero element. -/
def ezPacked (f : EzFmt) (ebase dw : Nat) : Nat → List Nat → List Bool
  | _, [] => []
  | run, x :: t =>
    if x = 0 then ezPacked f ebase dw (run + 1) t else ezRun run ++ ezElem f ebase dw x ++ ezPacked f ebase dw 0 t

/-- EBASE of a group (Table 05-8). -/
def ezBase (f : EzFmt) (l : List Nat) : Nat :=
  match (l.filter (· ≠ 0)).map f.expOf with
  | [] => 0
  | e :: t => if f.int8 then 0 else t.foldl min e

/-- The fewest bits that hold n. -/
def bitLen (n : Nat) : Nat := if n = 0 then 0 else Nat.log2 n + 1

/-- DW of a group (R135). -/
def ezWidth (f : EzFmt) (l : List Nat) : Nat :=
  if f.int8 then 0 else bitLen (((l.filter (· ≠ 0)).map fun x => f.expOf x - ezBase f l).foldl max 0)

/-- A group's header (Table 05-8). -/
def ezHeader (f : EzFmt) (mode : Nat) (l : List Nat) : List Byte :=
  [BitVec.ofNat 8 (f.code + 16 * mode), BitVec.ofNat 8 (ezBase f l), BitVec.ofNat 8 (l.filter (· ≠ 0)).length,
   BitVec.ofNat 8 (ezWidth f l)]

/-- The one encoding of a group (R135). -/
def ezGroup (f : EzFmt) (l : List Nat) : List Byte :=
  let raw := l.flatMap (leBytes f.bytes)
  let bits := ezPacked f (ezBase f l) (ezWidth f l) 0 l
  let n := (bits.length + 7) / 8
  if l.all (· == 0) then ezHeader f 2 l
  else if n < raw.length then ezHeader f 1 l ++ bytesOfBits n bits
  else ezHeader f 0 l ++ raw

/-- A byte string as elements. -/
def ezElems (f : EzFmt) (l : List Byte) : List Nat := (chunk f.bytes l).map leNat

/-- The EZ payload of a byte string (R134). -/
def ezEncode (f : EzFmt) (l : List Byte) : List Byte := (chunk 64 (ezElems f l)).flatMap (ezGroup f)

/-- The non-zero element at the front of a packed body. -/
def ezTake (f : EzFmt) (ebase dw : Nat) (l : List Bool) : Nat × List Bool :=
  if f.int8 then getBits 8 l
  else
    let s := getBits 1 l
    let e := getBits dw s.2
    let m := getBits f.man e.2
    (s.1 * 2 ^ (f.exp + f.man) + (ebase + e.1) % 2 ^ f.exp * 2 ^ f.man + m.1, m.2)

/-- The elements of a packed body with n non-zero ones, up to the last of them, and the bits after. -/
def ezUnpack (f : EzFmt) (ebase dw : Nat) : Nat → List Bool → List Nat × List Bool
  | 0, l => ([], l)
  | n + 1, l =>
    let r := if (getBits 1 l).1 = 0 then (0, (getBits 1 l).2) else getBits 6 (getBits 1 l).2
    let x := ezTake f ebase dw r.2
    let t := ezUnpack f ebase dw n x.2
    (List.replicate r.1 0 ++ x.1 :: t.1, t.2)

/-- A group of n elements at the front of a payload, and the bytes after it; none when it is malformed. -/
def ezUngroup (f : EzFmt) (n : Nat) (l : List Byte) : Option (List Nat × List Byte) :=
  let h := (slice l 0 4).map (·.toNat)
  let mode := h.getD 0 0 / 16
  let body := l.drop 4
  if l.length < 4 ∨ h.getD 0 0 % 16 ≠ f.code ∨ 64 < h.getD 2 0 ∨ 8 < h.getD 3 0 then none
  else if mode = 2 then some (List.replicate n 0, body)
  else if mode = 0 then
    (if body.length < n * f.bytes then none else some (ezElems f (body.take (n * f.bytes)), body.drop (n * f.bytes)))
  else if mode = 1 then
    let x := ezUnpack f (h.getD 1 0) (h.getD 3 0) (h.getD 2 0) (bitsOfBytes body)
    if n < x.1.length then none
    else some (x.1 ++ List.replicate (n - x.1.length) 0, body.drop (body.length - x.2.length / 8))
  else none

/-- The elements of a payload of `groups` groups with n elements in all. -/
def ezGroups (f : EzFmt) : Nat → Nat → List Byte → Option (List Nat)
  | 0, _, _ => some []
  | k + 1, n, l =>
    match ezUngroup f (min n 64) l with
    | none => none
    | some (xs, rest) => (ezGroups f k (n - 64) rest).map (xs ++ ·)

/-- The bytes that an EZ payload of n elements expands to (R133). -/
def ezDecode (f : EzFmt) (n : Nat) (l : List Byte) : Option (List Byte) :=
  (ezGroups f (cdiv n 64) n l).map fun xs => xs.flatMap (leBytes f.bytes)

end Sys2Proof.Machine
end

