-- ==== Sys2Proof/Machine/Hash.lean ====
section
/-!
DEFINITION. The check codes and hashes the spec names: CRC-32C, SHA-384, HMAC-SHA-384, HKDF-SHA-384 (R299, R302,
R311, R314, R391) and the counter generator CBG-128 (R198 to R200).
-/
namespace Sys2Proof.Machine

/-- One CRC-32C bit step, reflected polynomial 0x82F63B78. -/
def crcBit (c : BitVec 32) : BitVec 32 := if c.getLsbD 0 then (c >>> 1) ^^^ 0x82F63B78#32 else c >>> 1

/-- CRC-32C of a byte string. -/
def crc32c (l : List Byte) : BitVec 32 :=
  ~~~ (l.foldl (fun c b => Nat.repeat crcBit 8 (c ^^^ b.setWidth 32)) 0xFFFFFFFF#32)

/-- The first 80 primes' cube-root fractions that SHA-384 uses. -/
def shaK1 : List (BitVec 64) := [0x428a2f98d728ae22, 0x7137449123ef65cd, 0xb5c0fbcfec4d3b2f, 0xe9b5dba58189dbbc,
  0x3956c25bf348b538, 0x59f111f1b605d019, 0x923f82a4af194f9b, 0xab1c5ed5da6d8118, 0xd807aa98a3030242,
  0x12835b0145706fbe, 0x243185be4ee4b28c, 0x550c7dc3d5ffb4e2, 0x72be5d74f27b896f, 0x80deb1fe3b1696b1,
  0x9bdc06a725c71235, 0xc19bf174cf692694, 0xe49b69c19ef14ad2, 0xefbe4786384f25e3, 0x0fc19dc68b8cd5b5,
  0x240ca1cc77ac9c65, 0x2de92c6f592b0275, 0x4a7484aa6ea6e483, 0x5cb0a9dcbd41fbd4, 0x76f988da831153b5,
  0x983e5152ee66dfab, 0xa831c66d2db43210, 0xb00327c898fb213f, 0xbf597fc7beef0ee4, 0xc6e00bf33da88fc2,
  0xd5a79147930aa725, 0x06ca6351e003826f, 0x142929670a0e6e70, 0x27b70a8546d22ffc, 0x2e1b21385c26c926,
  0x4d2c6dfc5ac42aed, 0x53380d139d95b3df, 0x650a73548baf63de, 0x766a0abb3c77b2a8, 0x81c2c92e47edaee6,
  0x92722c851482353b]

def shaK2 : List (BitVec 64) := [0xa2bfe8a14cf10364, 0xa81a664bbc423001, 0xc24b8b70d0f89791, 0xc76c51a30654be30,
  0xd192e819d6ef5218, 0xd69906245565a910, 0xf40e35855771202a, 0x106aa07032bbd1b8, 0x19a4c116b8d2d0c8,
  0x1e376c085141ab53, 0x2748774cdf8eeb99, 0x34b0bcb5e19b48a8, 0x391c0cb3c5c95a63, 0x4ed8aa4ae3418acb,
  0x5b9cca4f7763e373, 0x682e6ff3d6b2b8a3, 0x748f82ee5defb2fc, 0x78a5636f43172f60, 0x84c87814a1f0ab72,
  0x8cc702081a6439ec, 0x90befffa23631e28, 0xa4506cebde82bde9, 0xbef9a3f7b2c67915, 0xc67178f2e372532b,
  0xca273eceea26619c, 0xd186b8c721c0c207, 0xeada7dd6cde0eb1e, 0xf57d4f7fee6ed178, 0x06f067aa72176fba,
  0x0a637dc5a2c898a6, 0x113f9804bef90dae, 0x1b710b35131c471b, 0x28db77f523047d84, 0x32caab7b40c72493,
  0x3c9ebe0a15c9bebc, 0x431d67c49c100d4c, 0x4cc5d4becb3e42b6, 0x597f299cfc657e2a, 0x5fcb6fab3ad6faec,
  0x6c44198c4a475817]

/-- The SHA-384 initial value. -/
def sha384Init : List (BitVec 64) := [0xcbbb9d5dc1059ed8, 0x629a292a367cd507, 0x9159015a3070dd17,
  0x152fecd8f70e5939, 0x67332667ffc00b31, 0x8eb44a8768581511, 0xdb0c2e0d64f98fa7, 0x47b5481dbefa4fa4]

/-- The message schedule, kept newest first, extended by n words. -/
def shaSchedule : Nat → List (BitVec 64) → List (BitVec 64)
  | 0, w => w
  | n + 1, w =>
    let w2 := w.getD 1 0
    let w15 := w.getD 14 0
    let s0 := w15.rotateRight 1 ^^^ w15.rotateRight 8 ^^^ (w15 >>> 7)
    let s1 := w2.rotateRight 19 ^^^ w2.rotateRight 61 ^^^ (w2 >>> 6)
    shaSchedule n ((w.getD 15 0 + s0 + w.getD 6 0 + s1) :: w)

/-- One SHA-512 round on the eight working words. -/
def shaRound (v : List (BitVec 64)) (kw : BitVec 64 × BitVec 64) : List (BitVec 64) :=
  match v with
  | [a, b, c, d, e, f, g, h] =>
    let t1 := h + (e.rotateRight 14 ^^^ e.rotateRight 18 ^^^ e.rotateRight 41) + ((e &&& f) ^^^ (~~~ e &&& g))
      + kw.1 + kw.2
    let t2 := (a.rotateRight 28 ^^^ a.rotateRight 34 ^^^ a.rotateRight 39) + ((a &&& b) ^^^ (a &&& c) ^^^ (b &&& c))
    [t1 + t2, a, b, c, d + t1, e, f, g]
  | _ => v

/-- The number a big-endian byte string spells. -/
def beNat (l : List Byte) : Nat := leNat l.reverse

/-- One 128-byte block. -/
def shaBlock (hs : List (BitVec 64)) (block : List Byte) : List (BitVec 64) :=
  let w := (shaSchedule 64 (((chunk 8 block).map fun b => BitVec.ofNat 64 (beNat b)).reverse)).reverse
  List.zipWith (· + ·) hs (((shaK1 ++ shaK2).zip w).foldl shaRound hs)

/-- SHA-384. -/
def sha384 (l : List Byte) : List Byte :=
  let padLen := (239 - l.length % 128) % 128
  let m := l ++ 0x80#8 :: List.replicate padLen 0 ++ beBytes 16 (8 * l.length)
  (((chunk 128 m).foldl shaBlock sha384Init).take 6).flatMap fun h => beBytes 8 h.toNat

/-- HMAC-SHA-384. -/
def hmac384 (key msg : List Byte) : List Byte :=
  let k0 := if 128 < key.length then sha384 key else key
  let k := k0 ++ List.replicate (128 - k0.length) 0
  sha384 (k.map (· ^^^ 0x5C#8) ++ sha384 (k.map (· ^^^ 0x36#8) ++ msg))

/-- HKDF-SHA-384 with an empty salt, first 32 bytes (R302). -/
def hkdf32 (ikm info : List Byte) : List Byte :=
  (hmac384 (hmac384 (List.replicate 48 0) ikm) (info ++ [1])).take 32

/-- The ASCII bytes of a string. -/
def ascii (s : String) : List Byte := s.toList.map fun c => BitVec.ofNat 8 c.toNat

/-- One CBG-128 round i under key words k (R200). -/
def cbgRound (k : List (BitVec 32)) (v : List (BitVec 32)) (i : Nat) : List (BitVec 32) :=
  match v with
  | [a, b, c, d] =>
    let x0 := a + k.getD (i % 4) 0 + BitVec.ofNat 32 (i * 0x9E3779B9) + b
    let x3 := (d ^^^ x0).rotateLeft 16
    let x2 := c + x3
    let x1 := (b ^^^ x2).rotateLeft 12
    let y0 := x0 + x1
    let y3 := (x3 ^^^ y0).rotateLeft 8
    let y2 := x2 + y3
    let y1 := (x1 ^^^ y2).rotateLeft 7
    [y0, y1, y2, y3]
  | _ => v

/-- CBG-128 (R200): four output words from the key and the counter. -/
def cbg128 (key : BitVec 128) (ctr : List (BitVec 32)) : List (BitVec 32) :=
  let k := (List.range 4).map fun i => key.extractLsb' (32 * i) 32
  List.zipWith (· + ·) ((List.range 10).foldl (cbgRound k) ctr) ctr

/-- The draw of chain position p (R199): purpose 1 WCVT, 2 WOPT. -/
def srDraw (key : BitVec 128) (purpose sid tile : Nat) (step : BitVec 32) (p : Nat) : BitVec 32 :=
  (cbg128 key [BitVec.ofNat 32 (p / 4), BitVec.ofNat 32 (tile + 65536 * sid), step, BitVec.ofNat 32 purpose]).getD
    (p % 4) 0

/-- D of R198: SHA-384 of "NZCBG1", the SEED and the NONCE. -/
def cbgDigest (seed : BitVec 64) (nonce : BitVec 32) : List Byte :=
  sha384 (ascii "NZCBG1" ++ leBytes 8 seed.toNat ++ leBytes 4 nonce.toNat)

/-- A part's provenance record of a type and unit (Table 01-8), where the model's flash names no other (log 7). -/
def provDefault (typ unit : Nat) : List Byte :=
  let fmax := if typ = 1 then 1500 else if typ = 2 then 1000 else 9600
  let r := leBytes 1 typ ++ leBytes 1 unit ++ leBytes 2 1 ++ List.replicate 8 0x20 ++ [1, 0, 0] ++
    leBytes 1 (if typ = 1 then unit else 0xFF) ++ leBytes 2 0 ++ leBytes 2 fmax ++ leBytes 2 800 ++ List.replicate 10 0 ++
    List.replicate 16 0x20 ++ List.replicate 12 0
  r ++ leBytes 4 (crc32c r).toNat

/-- The place of a record among the thirty: fields, edge dies, stacks. -/
def provIndex (typ unit : Nat) : Nat := if typ = 1 then unit else if typ = 2 then 12 + unit else 14 + unit

/-- Its two copies (R25). -/
def provCopies (s : State) (typ unit : Nat) : List Byte × List Byte :=
  s.flash.prov.getD (provIndex typ unit) (provDefault typ unit, provDefault typ unit)

/-- A record's CRC is right (Table 01-8). -/
def provGood (l : List Byte) : Bool := leAt l 60 4 == (crc32c (slice l 0 60)).toNat

/-- The record in use: the first copy, or the second when the first fails its CRC (R26). -/
def provRecord (s : State) (typ unit : Nat) : List Byte :=
  let p := provCopies s typ unit
  if provGood p.1 then p.1 else p.2

end Sys2Proof.Machine
end

