-- ==== Sys2Proof/Machine/Tiers.lean ====
section
/-!
DEFINITION. The memory tiers (R239 to R264): where a device address lies, the classes of memory errors, row repair
and retirement, the controllers' queues, refresh, retraining, patrol and the bypass of a failed router.
-/
namespace Sys2Proof.Machine

/-- Where a device address lies (R240 to R243): tier, stack or channel, PC or sub-channel, the local offset there and
its page. The page of an LPDDR5X sub-channel is 2 KiB (log 31). -/
structure MemWhere where
  lp    : Bool
  unit  : Fin 16
  pc    : Nat
  loc   : Nat
  page  : Nat
  deriving DecidableEq, Repr

/-- The region of a stack (R240). -/
def regionOf (unit : Fin 16) : Fin 8 := finOf 8 (by decide) (unit.val / 2)

/-- The PC index of a granule and the number of granules before it there (R241, R242). -/
def pcOf (r : Region) (g : Nat) : Nat × Nat :=
  let p := popcount r.live
  if p = 64 then ((g ^^^ (g >>> 6) ^^^ (g >>> 12)) % 64, g / 64) else ((bitList r.live).getD (g % max p 1) 0, g / max p 1)

/-- Where device address a lies. -/
def memWhere (t : Tiers) (a : Nat) : MemWhere :=
  if a / regionBytes < 8 then
    let q := finOf 8 (by decide) (a / regionBytes)
    let o := a % regionBytes
    let x := pcOf (vget t.regions q) (o / 256)
    let p := x.2 * 256 + o % 256
    { lp := false, unit := finOf 16 (by decide) (2 * q.val + x.1 / 32), pc := x.1 % 32, loc := p, page := p / 1024 }
  else
    let o := a - 0x20000000000
    let order := liveChannels t
    let n := max order.length 1
    let off := o / 4096 / n * 4096 + o % 4096
    let l := off / 1024 * 256 + off % 256
    { lp := true, unit := order.getD (o / 4096 % n) 0, pc := off / 256 % 4, loc := l, page := l / 2048 }

/-- The granule of a region that lies at index j of PC pcx (the inverse of R241, R242). -/
def granuleOf (r : Region) (pcx j : Nat) : Nat :=
  let p := popcount r.live
  if p = 64 then j * 64 + (pcx ^^^ j ^^^ (j >>> 6)) % 64 else j * p + (bitList r.live).idxOf pcx

/-- The slot addresses of the page that holds address a. -/
def pageSlots (t : Tiers) (a : Nat) : List Nat :=
  let w := memWhere t a
  if w.lp then
    let order := liveChannels t
    (List.range 8).flatMap fun i =>
      let off := (w.page * 8 + i) * 1024 + w.pc * 256
      let o := (off / 4096 * order.length + order.idxOf w.unit) * 4096 + off % 4096
      (List.range 4).map fun k => 0x20000000000 + o + 64 * k
  else
    let q := regionOf w.unit
    let pcx := w.unit.val % 2 * 32 + w.pc
    (List.range 4).flatMap fun i =>
      let g := granuleOf (vget t.regions q) pcx (w.page * 4 + i)
      (List.range 4).map fun k => q.val * regionBytes + g * 256 + 64 * k

/-- One number for a PC or sub-channel, and one for a row of it. -/
def MemWhere.unitKey (w : MemWhere) : Nat := b2n w.lp * 4096 + w.unit.val * 64 + w.pc

def MemWhere.rowKey (w : MemWhere) : Nat := w.unitKey * 2 ^ 32 + w.page

/-- The UNIT word's parts of a memory unit (Table 12-10). -/
def MemWhere.recUnit (w : MemWhere) : Nat × Nat := (if w.lp then 9 else 8, w.pc * 256 + w.unit.val)

/-- Row, bank group with bank, and stack ID of a place (Table 10-4); LPDDR5X gives its page. -/
def MemWhere.row (w : MemWhere) : Nat := if w.lp then w.page else w.loc / 16384 / 3

def MemWhere.bank (w : MemWhere) : Nat := if w.lp then 0 else w.loc / 1024 % 16

def MemWhere.sid (w : MemWhere) : Nat := if w.lp then 0 else w.loc / 16384 % 3

/-- The state with the tiers changed. -/
def modTiers (s : State) (f : Tiers → Tiers) : State := { s with tiers := f s.tiers }

/-- Stack u and channel u changed. -/
def modStack (s : State) (u : Fin 16) (f : Stack → Stack) : State :=
  modTiers s fun t => { t with stackList := vmod t.stackList u f }

def modChan (s : State) (u : Fin 16) (f : Channel → Channel) : State :=
  modTiers s fun t => { t with chans := vmod t.chans u f }

/-- The PC or channel is RETIRE_PENDING (R260). -/
def unitPending (t : Tiers) (w : MemWhere) : Bool :=
  if w.lp then (vget t.chans w.unit).state == 2
  else bit (vget t.regions (regionOf w.unit)).pend (w.unit.val % 2 * 32 + w.pc)

/-- The PC or channel is out of service for retraining (R257). -/
def unitRetraining (t : Tiers) (w : MemWhere) : Bool :=
  if w.lp then (vget t.chans w.unit).state == 1 else (vget t.stackList w.unit).retrain == some w.pc

/-- A record of class MEMORY about a unit (Tables 12-9, 17-2). -/
def memRecord (s : State) (w : MemWhere) (a : Nat) (sev flags : BitVec 8) (job : BitVec 6) (action : Nat) : State :=
  let counts := if w.lp then ((vget s.tiers.chans w.unit).ce, (vget s.tiers.chans w.unit).ue)
    else ((vget s.tiers.stackList w.unit).ce, (vget s.tiers.stackList w.unit).ue)
  writeRecord s { recOf s w.recUnit.1 15 w.recUnit.2 0x08 sev 0 with
    addr := BitVec.ofNat 64 a, job := job.setWidth 8, flags := flags,
    detail := leBytes 4 w.row ++ leBytes 1 w.bank ++ leBytes 1 w.sid ++ leBytes 1 (if w.lp then w.pc else 0) ++
      leBytes 1 action ++ leBytes 2 counts.1.toNat ++ leBytes 2 counts.2.toNat }

/-- The last logged error (Table 10-12). -/
def logMem (s : State) (w : MemWhere) (a : Nat) (ue perm : Bool) (job : BitVec 6) : State :=
  modTiers s fun t => { t with
    errLog := BitVec.ofNat 32 (w.unit.val + 16 * b2n w.lp + 32 * w.pc + 1024 * b2n ue + 2048 * b2n perm + 4096 +
      8192 * job.toNat)
    errAddr := BitVec.ofNat 48 a }

/-- A unit is marked RETIRE_PENDING (R258). -/
def retirePending (s : State) (w : MemWhere) (a : Nat) : State :=
  if unitPending s.tiers w then s
  else
    let s := if w.lp then modChan s w.unit fun c => { c with state := 2 }
      else modTiers s fun t => { t with regions := vmod t.regions (regionOf w.unit) fun r =>
        { r with pend := setBit r.pend (w.unit.val % 2 * 32 + w.pc) true, state := if r.state = 0 then 2 else r.state } }
    memRecord s w a 1 1 0 0

/-- 30 days in ns. -/
def monthNs : Nat := 30 * dayNs

/-- A row is permanently faulty (R258): it awaits repair; too many rows of one PC or sub-channel mark the unit. -/
def permanentRow (s : State) (w : MemWhere) (a : Nat) (job : BitVec 6) : State :=
  let now := s.reg.time.toNat
  if s.tiers.permRows.any fun e => e.2.1 == w.rowKey then s
  else
    let s := modTiers s fun t => { t with permRows := (w.unitKey, w.rowKey, now) :: t.permRows }
    let s := memRecord (logMem s w a true true job) w a 1 1 job 5
    let n := (s.tiers.permRows.filter fun e => e.1 == w.unitKey && decide (now ≤ e.2.2 + monthNs)).length
    if s.tiers.pcRows.toNat < n then retirePending s w a else s

/-- A training failure (R258). -/
def trainingFailure (s : State) (w : MemWhere) (a : Nat) : State :=
  let s := modTiers s fun t => { t with trainFails := (w.unitKey, s.reg.time.toNat) :: t.trainFails }
  let n := (s.tiers.trainFails.filter fun e => e.1 == w.unitKey).length
  if s.tiers.trainFail.toNat ≤ n then retirePending s w a else s

/-- An unrequested retraining counts toward the health score of the owning core (Table 17-4). -/
def noteRetrain (s : State) (node : Nat) : State :=
  { s with lacing := { s.lacing with
      retrainTimes := (node, s.reg.time.toNat) :: recent s dayNs s.lacing.retrainTimes } }

/-- The unit starts retraining (R257), when no other PC of its stack or channel of its edge die does. -/
def startRetrain (s : State) (w : MemWhere) : State :=
  if w.lp then
    if (allFin 16).any fun l => decide (l.val / 8 = w.unit.val / 8) && (vget s.tiers.chans l).state == 1 then s
    else if (vget s.tiers.chans w.unit).state = 0 then modChan s w.unit fun c => { c with state := 1 } else s
  else if (vget s.tiers.stackList w.unit).retrain.isSome then s
  else modStack s w.unit fun k => { k with retrain := some w.pc }

/-- The field of the core that owns a stack (Table 10-3). -/
def ownerField (unit : Fin 16) : Nat := nodeOfPort unit.val

/-- A correction at address a: counted, logged; corrections at two slots of one row within 24 h make the row
permanent (R258). -/
def memCorrected (s : State) (w : MemWhere) (a : Nat) (job : BitVec 6) : State :=
  let now := s.reg.time.toNat
  let s := if w.lp then modChan s w.unit fun c => { c with ce := satAdd c.ce 1 }
    else modStack s w.unit fun k => { k with ce := satAdd k.ce 1 }
  let s := logMem s w a false false job
  let s := modTiers s fun t => { t with
    ceTimes := (if w.lp then 99 else ownerField w.unit, now) :: recent s hourNs t.ceTimes
    ceRows := (w.rowKey, a / 64, now) :: t.ceRows.filter fun e => decide (now ≤ e.2.2 + dayNs) }
  let s := bumpGen s
  if s.tiers.ceRows.any fun e => e.1 == w.rowKey && e.2.1 != a / 64 then permanentRow s w a job else s

/-- An uncorrectable error at address a (R254, R258): the slot is poisoned; a second one after a full write is
permanent. -/
def memUncorrected (s : State) (w : MemWhere) (a : Nat) (job : BitVec 6) : State :=
  let slot := a / 64
  let again := s.tiers.ueSlots.contains (slot, true)
  let s := if w.lp then modChan s w.unit fun c => { c with ue := satAdd c.ue 1 }
    else modStack s w.unit fun k => { k with ue := satAdd k.ue 1 }
  let s := logMem (setPoison s slot true) w a true again job
  let s := modTiers s fun t => { t with ueSlots := (slot, false) :: t.ueSlots.filter fun e => e.1 != slot }
  let s := memRecord s w a 2 0 job 0
  if again then permanentRow s w a job else s

/-- A request that still fails after two retries (R258): its unit retrains, and a second one within 24 h is a
training failure. -/
def memRequestFailed (s : State) (w : MemWhere) (a : Nat) : State :=
  let seen := (recent s dayNs s.tiers.requestFails).any fun e => e.1 == w.unitKey
  let s := modTiers s fun t => { t with
    requestFails := (w.unitKey, s.reg.time.toNat) :: recent s dayNs t.requestFails }
  let s := startRetrain s w
  let s := if w.lp then s else noteRetrain s (ownerField w.unit)
  if seen then trainingFailure s w a else s

/-- What an access meets (Table 10-10), and whether it goes through now. -/
def memMeets (s : State) (a : Nat) (ev : MemEvent) (job : BitVec 6) : State × Bool :=
  let w := memWhere s.tiers a
  match ev with
  | .clean => (s, true)
  | .correctable => (memCorrected s w a job, true)
  | .onDie => (bumpGen (modStack s w.unit fun k => if w.lp then k else { k with ceDie := satAdd k.ceDie 1 }), true)
  | .link => (bumpGen (modChan s w.unit fun c => if w.lp then { c with linkCe := satAdd c.linkCe 1 } else c), true)
  | .retried =>
    (bumpGen (if w.lp then modChan s w.unit fun c => { c with linkCe := satAdd c.linkCe 1 }
      else modStack s w.unit fun k => { k with ce := satAdd k.ce 1 }), true)
  | .uncorrectable => (memUncorrected s w a job, true)
  | .failed => (memRequestFailed s w a, false)

/-- A full write of a slot after an uncorrectable error there (R258). -/
def noteFullMem (s : State) (slot : Nat) : State :=
  modTiers s fun t => { t with ueSlots := t.ueSlots.map fun e => if e.1 = slot then (slot, true) else e }

/-- A write reaches memory (R248, R254); a RETIRE_PENDING unit discards and counts it (R260). -/
def memPut (s : State) (a : Nat) (data : List Byte) (poison : Bool) : State :=
  let w := memWhere s.tiers a
  if unitPending s.tiers w then
    if w.lp then modChan s w.unit fun c => { c with drops := satAdd c.drops 1 }
    else modStack s w.unit fun k => { k with drops := satAdd k.drops 1 }
  else
    let s := putSlot s a data poison
    if a % 64 = 0 ∧ data.length = 64 then noteFullMem s (a / 64) else s

/-- What a read of n bytes at a finds: its bytes, and poison stored there or of a RETIRE_PENDING unit (R254, R260). -/
def memTake (s : State) (a n : Nat) : List Byte × Bool :=
  (memRead s.mem a n, isPoison s (a / 64) || unitPending s.tiers (memWhere s.tiers a))

/-- The state of an engine's memory access once the controller has answered. -/
def settleMem (s : State) (r : MemReq) (data : List Byte) (poison : Bool) : State :=
  let s := modTiers s fun t => { t with queue := t.queue.filter fun x => x.id != r.id }
  match r.from_ with
  | .none => s
  | .engine c q => modSeq s c q fun x => settle x
      (fun a => a.place == .memory && a.phase == .sent r.id)
      (fun a => if a.write then { a with phase := .done }
        else { a with data := slice data a.lo a.len, poison := poison, phase := .done })

/-- The class in which a request is served: an aged one as demand (R249). -/
def MemReq.cls (r : MemReq) : Nat := if r.aged then 0 else r.prio.toNat

/-- A request is behind an earlier one to its slot (R248). -/
def behindSlot (l : List MemReq) (r : MemReq) : Bool :=
  (l.takeWhile fun x => x.id != r.id).any fun x => x.addr / 64 == r.addr / 64

/-- The controller answers: its domain is on, and the unit is not retraining (R257, R261). -/
def memServes (s : State) (r : MemReq) : Bool := memUp s r.addr && !unitRetraining s.tiers (memWhere s.tiers r.addr)

/-- MEM_WRITE_ACCEPT (R248): the write enters, every later read returns it, and it is acknowledged. -/
def execMemWriteAccept (id : Nat) (ev : MemEvent) (s : State) : Out :=
  .next (match s.tiers.queue.find? fun r => r.id == id with
    | none => s
    | some r =>
      if !r.write || behindSlot s.tiers.queue r || !memServes s r then s
      else match memMeets s r.addr ev r.job with
        | (s, false) => s
        | (s, true) => settleMem (memPut s r.addr r.data r.poison) r [] false)

/-- MEM_READ_SERVE (R248 to R250): the read's data go to its requester; of the reads waiting for one PC or
sub-channel a better class goes first. -/
def execMemReadServe (id : Nat) (ev : MemEvent) (s : State) : Out :=
  .next (match s.tiers.queue.find? fun r => r.id == id with
    | none => s
    | some r =>
      let w := memWhere s.tiers r.addr
      let better := s.tiers.queue.any fun x => !x.write && decide (x.cls < r.cls) &&
        (memWhere s.tiers x.addr).unitKey == w.unitKey && !behindSlot s.tiers.queue x
      if r.write || better || behindSlot s.tiers.queue r || !memServes s r then s
      else match memMeets s r.addr ev r.job with
        | (s, false) => s
        | (s, true) =>
          let d := memTake s (r.addr / 64 * 64) 64
          settleMem s r d.1 d.2)

/-- MEM_REQUEST_AGE (R249): a request that has waited AGE_US is served as demand. -/
def execMemRequestAge (id : Nat) (s : State) : Out :=
  .next (modTiers s fun t => { t with queue := t.queue.map fun r => if r.id = id then { r with aged := true } else r })

/-- MEM_REFRESH (R256): refresh at the rate that the stack's temperature readout or MR4 asks for. -/
def execMemRefresh (lp : Bool) (unit : Fin 16) (temp : BitVec 8) (s : State) : Out :=
  .next (if lp then
      (if (vget s.tiers.chans unit).state = 3 then s
       else modChan s unit fun c => { c with refRate := if temp.toNat ≤ 2 then temp.setWidth 3 else c.refRate })
    else modStack s unit fun k => { k with temp := temp, hot := decide (85 < temp.toNat) })

/-- The slot that ends a patrol pass: the last populated one. -/
def lastMemSlot (t : Tiers) : Nat :=
  if 0 < lpSize t then 0x20000000000 + lpSize t - 64
  else ((allFin 8).filter fun q => decide (0 < popcount (vget t.regions q).live)).foldl
    (fun _ q => q.val * regionBytes + regionCap (vget t.regions q) - 64) 0

/-- MEM_PATROL_READ (R255): the checks of one populated slot in the background class; a pass ends with the last. -/
def execMemPatrolRead (da : BitVec 48) (ev : MemEvent) (s : State) : Out :=
  let a := da.toNat / 64 * 64
  .next (if !populated s.tiers a || !memUp s a || unitRetraining s.tiers (memWhere s.tiers a) ||
        unitPending s.tiers (memWhere s.tiers a) then s
    else match memMeets s a ev 0 with
      | (s, false) => s
      | (s, true) => modTiers s fun t => { t with
          patrolAt := if a = lastMemSlot t then 0 else a + 64
          passes := if a = lastMemSlot t then t.passes + 1 else t.passes })

/-- A unit of the row's operands. -/
def memUnitOf (lp : Bool) (unit : Fin 16) (pc : Fin 32) : MemWhere :=
  { lp := lp, unit := unit, pc := if lp then pc.val % 4 else pc.val, loc := 0, page := 0 }

/-- MEM_RETRAIN_DONE (R257, R258): the unit returns to service, a failing lane repaired; a failed training counts. -/
def execMemRetrainDone (lp : Bool) (unit : Fin 16) (pc : Fin 32) (ok laneRepaired : Bool) (s : State) : Out :=
  let w := memUnitOf lp unit pc
  .next (if !unitRetraining s.tiers w then s
    else
      let s := if lp then modChan s unit fun c => { c with state := 0 }
        else modStack s unit fun k => { k with
          retrain := none, lanes := if laneRepaired then satAdd k.lanes 1 else k.lanes }
      let s := modTiers s fun t => { t with
        ctrl := if fld t.ctrl 0 4 = unit.val ∧ bit t.ctrl 4 = lp then setBit t.ctrl 10 false else t.ctrl }
      noted (if ok then s else trainingFailure s w 0))

/-- MEM_ROW_REPAIR (R258, R259): sPPR of a permanently faulty row. The row is recorded for hPPR and its slots read
poisoned until their next full write; a bank without repair resource marks its unit. -/
def execMemRowRepair (da : BitVec 48) (ok : Bool) (s : State) : Out :=
  let a := da.toNat
  let w := memWhere s.tiers a
  .next (if !populated s.tiers a || !(s.tiers.permRows.any fun e => e.2.1 == w.rowKey) ||
        s.tiers.hpprRows.contains w.rowKey then s
    else if !ok then retirePending s w a
    else
      let s := (pageSlots s.tiers a).foldl (fun s x => setPoison s (x / 64) true) s
      let s := modTiers s fun t => { t with
        hpprRows := setAdd t.hpprRows w.rowKey
        ueSlots := t.ueSlots.filter fun e => !(pageSlots s.tiers a).contains (e.1 * 64) }
      let s := if w.lp then s else modStack s w.unit fun k => { k with ppr := satAdd k.ppr 1 }
      let s := condAppend s (unitWord w.recUnit.1 15 w.recUnit.2) 0x05 1 0
        (BitVec.ofNat 32 (w.row % 32768 + w.bank * 32768 + w.sid * 524288))
      memRecord s w a 1 1 0 5)

/-- Some existing job has a window that meets bytes lo to hi. -/
def windowMeets (s : State) (lo hi : Nat) : Bool :=
  s.reg.jobs.any fun j => j.windows.any fun w => decide (w.base < hi) && decide (lo < w.base + w.len)

/-- Zeros without poison in the n bytes from a (R260). -/
def zeroRange (s : State) (a n : Nat) : State :=
  { s with mem := memErase s.mem a n, poison := setErase s.poison (a / 64) (n / 64) }

/-- MEM_RETIRE_APPLY (R260): the interleave is rebuilt around a RETIRE_PENDING unit once no job holds a window there
and, for LPDDR5X, no partner Duplicate is held. -/
def execMemRetireApply (lp : Bool) (unit : Fin 16) (pc : Fin 32) (s : State) : Out :=
  let w := memUnitOf lp unit pc
  let q := regionOf unit
  .next (if !unitPending s.tiers w then s
    else if lp then
      if windowMeets s 0x20000000000 0x40000000000 || s.flash.pairing.isSome then s
      else
        let s := modChan s unit fun c => { c with state := 3 }
        let s := zeroRange s 0x20000000000 0x20000000000
        let s := modTiers s fun t => { t with chans := t.chans.map fun c =>
          if c.state = 3 then c else { c with invalid := true } }
        let s := condAppend s (unitWord 9 15 unit.val) 0x06 1 0 0
        memRecord s w 0x20000000000 2 3 0 6
    else if windowMeets s (q.val * regionBytes) ((q.val + 1) * regionBytes) then s
    else
      let x := unit.val % 2 * 32 + pc.val
      let s := zeroRange s (q.val * regionBytes) regionBytes
      let s := modTiers s fun t => { t with regions := vmod t.regions q fun r =>
        let p := setBit r.pend x false
        { r with live := setBit r.live x false, pend := p, invalid := true
                 state := if r.state = 2 ∧ p = 0 then 0 else r.state } }
      let s := condAppend s (unitWord 8 15 w.recUnit.2) 0x06 1 0 0
      memRecord s w (q.val * regionBytes) 2 3 0 6)

/-- The link over which a region's controllers are reached once the router of its core has failed (R261). -/
def bypassLink (region : Fin 8) : Fin 23 :=
  finOf 23 (by decide) ([8, 8, 14, 14, 10, 10, 16, 16].getD region.val 8)

/-- HBM_BYPASS_SWITCH (R261): the pair's controllers move onto the seam link to the partner router; with that router
failed too, or no working lace, the region stays DOWN. -/
def execHbmBypassSwitch (region : Fin 8) (s : State) : Out :=
  let n := nodeOfPort (2 * region.val)
  let l := bypassLink region
  let k := vget s.lacing.links l
  .next (if nodeUp s n || (vget s.tiers.regions region).state ≠ 3 || !nodeUp s (bypassPartner n) || k.failed ||
        k.a.active = 0 || k.b.active = 0 then s
    else
      let s := modTiers s fun t => { t with regions := vmod t.regions region fun r => { r with state := 1 } }
      let s := { s with lacing := { s.lacing with links := vmod s.lacing.links l fun k => { k with bypass := true } } }
      noted (routeChange s 0xFF l.val))

end Sys2Proof.Machine
end

