-- ==== Sys2Proof/Machine/Mirror.lean ====
section
/-!
DEFINITION. The status mirror (R20, R78, R289, R429): what each 64-byte slot of it reads as.
-/
namespace Sys2Proof.Machine

/-- SEQ that the next error record will carry (R289, R311). -/
def errNextSeq (s : State) : Nat := s.reg.bootCount.toNat % 65536 * 2 ^ 48 + s.reg.errNext.toNat

/-- The device header (Table 12-3). -/
def deviceHeader (s : State) : List Byte :=
  leBytes 4 s.reg.devState.toNat ++ leBytes 4 s.reg.bootCount.toNat ++ leBytes 8 s.reg.time.toNat ++
    leBytes 8 s.reg.invGen.toNat ++ leBytes 8 (errNextSeq s) ++ leBytes 4 s.reg.ownerState.toNat ++ leBytes 4 0 ++
    leBytes 8 s.reg.lastCtr.toNat ++ List.replicate 16 0

/-- A SNAP entry (Table 17-8). -/
def snapEntry (shared : Bool) (c : SnapCfg) : List Byte :=
  let f := c.flying
  let d := c.done.head?
  leBytes 1 c.job.toNat ++ leBytes 1 (f.elim 0 fun x => x.stage.toNat) ++
    leBytes 1 (f.elim 0 fun x => x.data.toNat) ++
    leBytes 1 (b2n shared + 2 * f.elim 0 fun x => b2n x.replaced) ++
    leBytes 8 (d.elim 0 fun x => x.step.toNat) ++ leBytes 8 (f.elim 0 fun x => x.step.toNat) ++
    leBytes 4 (f.elim 0 fun x => x.id.toNat) ++ leBytes 4 (d.elim 0 fun x => x.id.toNat) ++ leBytes 4 0

/-- The health and snapshot block (Table 17-8). -/
def healthBlock (s : State) : List Byte :=
  leBytes 4 s.resil.healthGen.toNat ++ leBytes 1 s.resil.devScore.toNat ++ leBytes 1 s.resil.edgePts.toNat ++ [0, 0] ++
    s.resil.scores.toList ++ List.replicate 12 0 ++ ((s.resil.snaps.filter fun c => c.job != 0).take 8).flatMap (snapEntry s.resil.sharedFeed)

/-- DIST up to its entries (Table 01-4). -/
def distHeader (s : State) : List Byte :=
  leBytes 4 s.lacing.distGen.toNat ++ leBytes 4 s.lacing.distEpoch.toNat ++ leBytes 1 12 ++ leBytes 1 31 ++ leBytes 2 4 ++
    leBytes 2 s.lacing.vlacMv.toNat ++ leBytes 2 s.lacing.tlacQ.toNat ++ leBytes 2 s.lacing.distHop.toNat ++
    leBytes 2 s.lacing.distBnd.toNat ++ List.replicate 44 0

/-- DIST entry number i. -/
def distBytes (s : State) (i : Nat) : List Byte := leBytes 4 (smapGet 0 s.lacing.dist i).toNat

/-- A Carrel's mirror entry as bytes (Table 03-12). -/
def carrelBytes (m : MirrorEntry) : List Byte :=
  leBytes 8 m.filled.toNat ++ leBytes 8 m.consumed.toNat ++ leBytes 4 m.drops.toNat ++ leBytes 4 m.denied.toNat ++
    leBytes 4 m.state.toNat ++ leBytes 4 0

/-- The 64 bytes of the mirror at offset off, a multiple of 64. -/
def mirrorSlot (s : State) (off : Nat) : List Byte :=
  if off = 0 then deviceHeader s
  else if 0x400 ≤ off ∧ off < 0x600 then slice (healthBlock s) (off - 0x400) 64
  else if off = 0x8000 then distHeader s
  else if 0x8040 ≤ off ∧ off < 0x8640 then
    (List.range 16).flatMap fun i => let n := (off - 0x8040) / 4 + i
      if n < 372 then distBytes s n else [0, 0, 0, 0]
  else if 0x10000 ≤ off ∧ off < 0x16000 then
    (List.range 2).flatMap fun i =>
      let n := (off - 0x10000) / 32 + i
      carrelBytes (vget (getCore s (coreOf (n / 64))).stk.mirror (finOf 64 (by decide) (n % 64)))
  else List.replicate 64 0

/-- A VF's view of the mirror: DIST, and the Carrel entries of the cores of its job (R266). -/
def mirrorSlotVf (s : State) (cores : List CoreId) (off : Nat) : List Byte :=
  if 0x8000 ≤ off ∧ off < 0x8640 then mirrorSlot s off
  else if 0x10000 ≤ off ∧ off < 0x16000 ∧ cores.contains (coreOf ((off - 0x10000) / 2048)) then mirrorSlot s off
  else List.replicate 64 0

end Sys2Proof.Machine
end

