-- ==== Sys2Proof/Machine/Lacing.lean ====
section
/-!
DEFINITION. Lacing (R210 to R238): laces, spares and links, flits at their destination, credits and tags, failed
routers, DIST, and UCIe modules (R18). A flit in `flight` leaves it when it arrives; a flit that no unit of the model
sent comes from a die in the EDS position (R285).
-/
namespace Sys2Proof.Machine

/-- The state with Lacing changed. -/
def modLacing (s : State) (f : Lacing → Lacing) : State := { s with lacing := f s.lacing }

/-- The state with link l changed. -/
def modLink (s : State) (l : Fin 23) (f : Link → Link) : State := modLacing s fun x => { x with links := vmod x.links l f }

/-- Direction A (false) or B (true) of a link. -/
def Link.dir (k : Link) (d : Bool) : LinkDir := if d then k.b else k.a

/-- The state with one direction of link l changed. -/
def modDir (s : State) (l : Fin 23) (d : Bool) (f : LinkDir → LinkDir) : State :=
  modLink s l fun k => if d then { k with b := f k.b } else { k with a := f k.a }

/-- Active laces of a direction. -/
def LinkDir.width (d : LinkDir) : Nat := popcount d.active

/-- Laces that neither carry beats nor are retired, train or retrain: spares (R213). -/
def LinkDir.spares (d : LinkDir) : List Nat :=
  (List.range 18).filter fun i => !bit d.active i && !bit d.retired i && !d.training.contains i && d.retrain != some i

/-- A record of class LINK about a lace (Tables 12-10, 17-2). -/
def linkRecord (s : State) (l : Fin 23) (d : Bool) (lace : Nat) (sev flags : BitVec 8) : State :=
  let k := vget s.lacing.links l
  writeRecord s { recOf s 6 15 (65536 * b2n d + 256 * l.val + lace) 0x06 sev 0 with
    flags := flags
    detail := leBytes 4 k.replays.toNat ++ leBytes 1 k.a.width ++ leBytes 1 k.b.width ++ leBytes 1 k.a.spares.length ++
      leBytes 1 k.b.spares.length }

/-- A link fails (R218): it enters the fault table, and DIST_GEN rises. -/
def failLink (s : State) (l : Fin 23) : State :=
  if (vget s.lacing.links l).failed then s
  else noted (routeChange (modLink s l fun k => { k with failed := true }) 0xFF l.val)

/-- The routers at the two ends of a link count an event of it for the health score (Table 17-4). -/
def noteLinkEvent (s : State) (l : Fin 23) : State :=
  noteRetrain (noteRetrain s (linkEnds l.val).1) (linkEnds l.val).2

/-- A lace is retired (R217): it leaves service, a free spare trains in its place, the condition report and a record
keep it; a direction below MIN_WIDTH fails its link (R218). -/
def retireLace (s : State) (l : Fin 23) (d : Bool) (lace : Fin 18) : State :=
  let x := (vget s.lacing.links l).dir d
  if 17 ≤ l.val || bit x.retired lace.val then s
  else
    let s := modDir s l d fun x =>
      let x := { x with
        active := setBit x.active lace.val false, retired := setBit x.retired lace.val true
        training := x.training.filter fun i => i != lace.val
        retrain := if x.retrain = some lace.val then none else x.retrain
        replays := smapSet 0 x.replays lace.val 0 }
      if x.width + x.training.length < 16 then { x with training := x.training ++ x.spares.take 1 } else x
    let s := modLink s l fun k => { k with retires := satAdd k.retires 1 }
    let s := condAppend s (unitWord 6 15 (65536 * b2n d + 256 * l.val + lace.val)) 0x04 3 0 0
    let s := linkRecord (noteLinkEvent s l) l d lace.val 1 3
    if ((vget s.lacing.links l).dir d).width < clampNat 4 16 (fld s.lacing.errThr 8 5) then failLink s l else s

/-- LACE_BEAT_RECEIVE (R216, R217): a beat that fails its CRC is refused and replayed; a replayed beat that passes is
a transient error, and CRC_LIM of them within 1 s, or three failed replays, retire the lace. -/
def execLaceBeatReceive (link : Fin 23) (dir : Bool) (lace : Fin 18) (ok : Bool) (s : State) : Out :=
  let k := vget s.lacing.links link
  let x := k.dir dir
  let n := smapGet 0 x.replays lace.val
  let now := s.reg.time.toNat
  .next (if 17 ≤ link.val || k.failed || !bit x.active lace.val then s
    else if ok then
      if n = 0 then s
      else
        let times := (lace.val, now) :: x.errTimes.filter fun e => decide (now ≤ e.2 + 1000000000)
        let s := modDir s link dir fun x => { x with replays := smapSet 0 x.replays lace.val 0, errTimes := times }
        let s := bumpGen (modLink s link fun k => { k with replays := satAdd k.replays 1 })
        if clampNat 1 255 (fld s.lacing.errThr 0 8) ≤ (times.filter fun e => e.1 == lace.val).length then
          retireLace s link dir lace
        else s
    else if n < 3 then modDir s link dir fun x => { x with replays := smapSet 0 x.replays lace.val (n + 1) }
    else retireLace s link dir lace)

/-- LACE_RETIRE (R217): a permanently faulty lace. -/
def execLaceRetire (link : Fin 23) (dir : Bool) (lace : Fin 18) (s : State) : Out :=
  .next (retireLace s link dir lace)

/-- LACE_HANDSHAKE_TIMEOUT (R217, R218): a lace held for 1 µs; with every lace held the link fails. -/
def execLaceHandshakeTimeout (link : Fin 23) (dir : Bool) (lace : Fin 18) (s : State) : Out :=
  .next (if bit ((vget s.lacing.links link).dir dir).active lace.val then retireLace s link dir lace else s)

/-- SPARE_LACE_TRAINED (R217): the spare enters service. -/
def execSpareLaceTrained (link : Fin 23) (dir : Bool) (lace : Fin 18) (s : State) : Out :=
  .next (if ((vget s.lacing.links link).dir dir).training.contains lace.val then
      noted (modDir s link dir fun x => { x with
        active := setBit x.active lace.val true, training := x.training.filter fun i => i != lace.val })
    else s)

/-- A lace is taken out of service for retraining (R219); a free spare covers it. -/
def startLaceRetrain (s : State) (l : Fin 23) (d : Bool) (lace : Fin 18) : State :=
  modDir s l d fun x =>
    if x.retrain.isSome || bit x.retired lace.val then x
    else
      let was := bit x.active lace.val
      let x := { x with active := setBit x.active lace.val false, retrain := some lace.val }
      match x.spares with
      | i :: _ => if was then { x with active := setBit x.active i true } else x
      | [] => x

/-- LACE_RETRAIN_DONE (R217, R219): back in service, or a spare when one has taken its place; a failed one retires. -/
def execLaceRetrainDone (link : Fin 23) (dir : Bool) (lace : Fin 18) (ok : Bool) (s : State) : Out :=
  .next (if ((vget s.lacing.links link).dir dir).retrain ≠ some lace.val then s
    else
      let s := modDir s link dir fun x => { x with
        retrain := none
        active := if ok ∧ x.width + x.training.length < 16 then setBit x.active lace.val true else x.active }
      let s := modLink s link fun k => { k with
        ctrl := if fld k.ctrl 0 5 = lace.val ∧ bit k.ctrl 5 = dir then setBit k.ctrl 6 false else k.ctrl }
      if ok then noted s else retireLace s link dir lace)

/-- A flit has arrived: it is no longer on its way. -/
def landed (s : State) (f : Flit) : State := modLacing s fun x => { x with flight := x.flight.erase f }

/-- A flit that the target cannot take yet waits on its way under credit (R58, R235). -/
def waitOutside (s : State) (f : Flit) : State :=
  if s.lacing.flight.contains f then s else sendFlit s f

/-- The Remote queue of the flit's bank holds eight accesses (R58). -/
def remoteFull (s : State) (c : CoreId) (f : Flit) : Bool :=
  decide (8 ≤ ((getCore s c).stk.remote.filter fun r =>
    !r.parked && bankOf s c (flitSa r.flit) == bankOf s c (flitSa f)).length)

/-- The check code event of a memory access. -/
def eccEvent (e : Ecc) : MemEvent :=
  match e with
  | .clean => .clean
  | .correctable => .correctable
  | .uncorrectable => .uncorrectable

/-- The bytes that a write flit enables, as runs of one byte, put into memory (R221, R254). -/
def memPutFlit (s : State) (f : Flit) : State :=
  let a := f.addr.toNat * 64
  if coversSlot f then memPut s a (slice f.data 0 64) f.poison
  else (byteRuns f.aux).foldl (fun s i => memPut s (a + i) (slice f.data i 1) f.poison) s

/-- A request at a memory controller (R211, R248). -/
def memoryFlit (s : State) (f : Flit) (ecc : Ecc) : State :=
  let a := f.addr.toNat * 64
  if !memUp s a then respond s f 3 [] false
  else match memMeets s a (eccEvent ecc) f.job with
    | (s, _) =>
      if f.typ = 0 then
        let d := memTake s a 64
        respond s f 0 d.1 d.2
      else respond (memPutFlit s f) f 0 [] false

/-- The status that denies a request: reads ACCESS_DENIED, writes CARREL_DENIED (Table 09-5). -/
def denial (f : Flit) : BitVec 4 := if f.typ = 0 then 1 else 2

/-- A request arrives at its target (R58, R229, R231): the queue of its Stacks bank, a memory controller, or the status
mirror. A slot at or above STK_SIZE is denied on arrival, and other addresses reach nothing of a job (R12). -/
def requestArrives (s : State) (f : Flit) (ecc : Ecc) : State :=
  let a := f.addr.toNat * 64
  if h : f.dst.toNat < 12 ∧ 0x80000000 * f.dst.toNat + 0x080000000000 ≤ a ∧ a < 0x80000000 * (f.dst.toNat + 1) + 0x080000000000 then
    let c : CoreId := ⟨f.dst.toNat, h.1⟩
    if !nodeUp s (fieldOf s c).val then waitOutside s f
    else if targetDown s c then respond (landed s f) f 3 [] false
    else if stkSize s c ≤ flitSa f then respond (landed s f) f (denial f) [] false
    else if !coreClocked s c || remoteFull s c f then waitOutside s f
    else modStk (landed s f) c fun k => { k with remote := k.remote ++ [{ flit := f, parked := false }] }
  else if populated s.tiers a then memoryFlit (landed s f) f ecc
  else if f.dst = 14 ∧ f.typ = 0 ∧ 0x0F0014000000 ≤ a ∧ a < 0x0F0014100000 then
    respond (landed s f) f 0 (mirrorSlot s (a - 0x0F0014000000)) false
  else respond (landed s f) f (denial f) [] false

/-- RD (R231). -/
def execRd (f : Flit) (ecc : Ecc) (s : State) : Out := .next (if f.typ = 0 then requestArrives s f ecc else s)

/-- WR (R231). -/
def execWr (f : Flit) (s : State) : Out := .next (if f.typ = 1 then requestArrives s f .clean else s)

/-- WRP (R231). -/
def execWrp (f : Flit) (s : State) : Out := .next (if f.typ = 2 then requestArrives s f .clean else s)

/-- The fault code of a response status (R232). -/
def statusFault (st : BitVec 4) : BitVec 8 :=
  match st.toNat with
  | 1 => 0x08
  | 2 => 0x09
  | 3 => 0x0B
  | 4 => 0x06
  | _ => 0x0D

/-- The access that waits for transaction `tag`. -/
def awaits (tag : Nat) (a : Access) : Bool := a.phase == .sent tag && (match a.place with | .remote _ => true | _ => false)

/-- The opcode that a failing transaction names: its instruction's, or the last issued. -/
def opcodeOfTag (x : SeqState) (tag : Nat) : BitVec 8 :=
  match x.infl.find? fun y => y.todo.any (awaits tag) with
  | some y => opcodeOf y.word
  | none => x.lastOpc

/-- A transaction ends with a status other than OK: its sequencer faults with the matching code (R232). -/
def failTxn (s : State) (c : CoreId) (tag : Nat) (st : BitVec 4) : State :=
  let q := seqOf (tag / 256)
  let x := getSeq s c q
  if x.st = .fault || !((openAccesses x).any (awaits tag)) then s
  else
    let s := modSeq s c q fun x => { x with writes := x.writes.filter fun a => !awaits tag a }
    seqFault s c q (opcodeOfTag x tag) (statusFault st)

/-- The answer to transaction `tag` of core c (R232): its access completes, or its sequencer faults; an answer to no
transaction is discarded and counted (R230, R236). -/
def answerTxn (s : State) (c : CoreId) (tag : Nat) (f : Flit) : State :=
  if !((getCore s c).txns.any fun t => t.tag.toNat == tag) then
    modLacing s fun x => { x with late := satAdd x.late 1 }
  else
    let s := modCore s c fun k => { k with txns := k.txns.filter fun t => t.tag.toNat != tag }
    if f.status ≠ 0 then failTxn s c tag f.status
    else modSeq s c (seqOf (tag / 256)) fun x => settle x (awaits tag) fun a =>
      if a.write then { a with phase := .done }
      else { a with data := slice f.data a.lo a.len, poison := f.poison, phase := .done }

/-- RDR (R232): the data of a read, or its status. -/
def execRdr (f : Flit) (s : State) : Out :=
  .next (if h : f.typ = 3 ∧ f.dst.toNat < 12 then answerTxn (landed s f) ⟨f.dst.toNat, h.2⟩ f.tag.toNat f
    else landed s f)

/-- ACK (R231, R232): one or more consecutive writes complete. -/
def execAck (f : Flit) (s : State) : Out :=
  .next (if h : f.typ = 4 ∧ f.dst.toNat < 12 then
      (List.range (fld f.aux 0 12 + 1)).foldl
        (fun s i => answerTxn s ⟨f.dst.toNat, h.2⟩ ((f.tag.toNat + i) % 4096) f) (landed s f)
    else landed s f)

/-- BARRIER_ARRIVAL (R40): held, one per core and BAR_ID, or it completes the core controller's BARRIER. -/
def execBarrierArrival (f : Flit) (s : State) : Out :=
  .next (if h : f.typ = 5 ∧ fld f.aux 0 8 = 1 ∧ f.dst.toNat < 12 ∧ f.src.toNat < 12 then
      let c : CoreId := ⟨f.dst.toNat, h.2.2.1⟩
      let d : CoreId := ⟨f.src.toNat, h.2.2.2⟩
      let s := landed s f
      if targetDown s c || (getCore s c).jobId ≠ f.job || f.job = 0 then s
      else barrierCheck (modCore s c fun k => { k with
        arrivals := if k.arrivals.contains (d, f.aux.extractLsb' 8 8) then k.arrivals
          else k.arrivals ++ [(d, f.aux.extractLsb' 8 8)] }) c
    else s)

/-- CREDIT_RESYNC (R220): the message is taken; it carries nothing that the spec gives a further effect. -/
def execCreditResync (f : Flit) (s : State) : Out :=
  .next (if f.typ = 5 ∧ fld f.aux 0 8 = 2 then landed s f else s)

/-- IKIED_MGMT_MSG (R220): taken by Ikied; the spec gives its contents no layout. -/
def execIkiedMgmtMsg (f : Flit) (s : State) : Out :=
  .next (if f.typ = 5 ∧ 0x10 ≤ fld f.aux 0 8 ∧ fld f.aux 0 8 < 0x20 then landed s f else s)

/-- CREDIT_RETURN (R223, R225): an engine regains an injection credit of VC1 or VC3. -/
def execCreditReturn (c : CoreId) (q : SeqId) (vc3 : Bool) (s : State) : Out :=
  .next (modSeq s c q fun x =>
    if vc3 then { x with credit3 := min 32 (x.credit3 + 1) } else { x with credit1 := min 16 (x.credit1 + 1) })

/-- A transaction's way there or back, as its ROUTE took it, crosses something failed (R230). -/
def txnCut (s : State) (t : Txn) : Bool :=
  let a := (fieldOf s (coreOf t.flit.src.toNat)).val
  let b := (fieldOf s (coreOf t.flit.dst.toNat)).val
  t.flit.route != 2 && (!pathUp s (meshPath (t.flit.route == 1) a b) || !pathUp s (meshPath (t.flit.route == 1) b a))

/-- A memory request's way to its controller crosses something failed. -/
def memCut (s : State) (c : CoreId) (r : MemReq) : Bool :=
  let t := memTarget (memUnit s.tiers r.addr)
  let a := (fieldOf s c).val
  !pathUp s (meshPath false a (nodeOfPort (t - 12))) || noRoute s c t

/-- OUTSTANDING_PATH_ABORT (R230): a source node completes with TARGET_DOWN every outstanding transaction that
crossed the failed element; its tags are held. -/
def execOutstandingPathAbort (n : Fin 15) (s : State) : Out :=
  .next (if h : n.val < 12 then
      let c : CoreId := ⟨n.val, h⟩
      let cut := (getCore s c).txns.filter (txnCut s)
      let s := modCore s c fun k => { k with
        txns := k.txns.filter fun t => !cut.contains t, quarantine := k.quarantine ++ cut.map (·.tag) }
      let s := cut.foldl (fun s t => failTxn s c t.tag.toNat 3) s
      let lost := s.tiers.queue.filter fun r => (match r.from_ with
        | .engine d _ => d == c && memCut s c r
        | .none => false)
      lost.foldl (fun s r => match r.from_ with
        | .none => s
        | .engine _ q =>
          let s := modTiers s fun t => { t with queue := t.queue.filter fun x => x.id != r.id }
          if (getSeq s c q).st = .fault then s else seqFault s c q (getSeq s c q).lastOpc 0x0B) s
    else s)

/-- TAG_QUARANTINE_END (R230): the tag is usable again. -/
def execTagQuarantineEnd (c : CoreId) (tag : BitVec 12) (s : State) : Out :=
  .next (modCore s c fun k => { k with quarantine := k.quarantine.erase tag })

/-- The HBM region whose router is field n. -/
def regionAt (n : Nat) : Option (Fin 8) := (allFin 8).find? fun q => nodeOfPort (2 * q.val) == n

/-- ROUTER_FAIL (R24, R228, R229): the router of core n forwards nothing; its links fail, its stacks are DOWN until a
bypass, and the fault table and DIST change. -/
def execRouterFail (n : CoreId) (s : State) : Out :=
  let f := (fieldOf s n).val
  .next (if !nodeUp s f then s
    else
      let s := setNode s (finOf 15 (by decide) f) 2
      let s := match regionAt f with
        | some q => modTiers s fun t => { t with regions := vmod t.regions q fun r => { r with state := 3 } }
        | none => s
      noted (routeChange s f 0xFF))

/-- DIST_RECOMPUTE (R21, R22): the delays from the hop-delay monitors; not before the first rewrite of DIST. -/
def execDistRecompute (hopPs bndPs vlacMv tlacQ : BitVec 16) (s : State) : Out :=
  .next (if s.lacing.distGen = 0 then s
    else rewriteDist (modLacing s fun x => { x with
      hopPs := hopPs, bndPs := bndPs, distHop := hopPs, distBnd := bndPs, vlacMv := vlacMv, tlacQ := tlacQ }) false)

/-- The edge link of a UCIe site (Table 01-2). -/
def siteLink (u : Fin 16) : Fin 23 :=
  finOf 23 (by decide) ([17, 17, 17, 18, 18, 19, 19, 19, 20, 20, 20, 21, 21, 22, 22, 22].getD u.val 17)

/-- A record of class PORT (Tables 12-10, 17-2). -/
def portRecord (s : State) (kind index : Nat) (sev flags : BitVec 8) (state mode width errs moved : Nat) : State :=
  writeRecord s { recOf s 10 15 (256 * kind + index) 0x09 sev 0 with
    flags := flags
    detail := leBytes 1 state ++ leBytes 1 mode ++ leBytes 1 width ++ [0] ++ leBytes 4 errs ++ leBytes 2 moved }

/-- The state with a UCIe site changed. -/
def modSite (s : State) (u : Fin 16) (f : Site → Site) : State := { s with sites := vmod s.sites u f }

/-- UCIE_MODULE_FAIL (R18): the edge link loses a module; with none left it fails. -/
def execUcieModuleFail (site : Fin 16) (s : State) : Out :=
  let x := vget s.sites site
  let l := siteLink site
  .next (if x.state ≠ 3 ∧ x.state ≠ 4 then s
    else
      let s := modSite s site fun x => { x with state := 0, down := satAdd x.down 1 }
      let s := modLink s l fun k => { k with modules := k.modules - 1 }
      let s := portRecord s 3 site.val 1 0 0 x.rate.toNat (if x.x32 then 32 else 64) x.retry.toNat 0
      if (vget s.lacing.links l).modules = 0 then failLink s l else s)

end Sys2Proof.Machine
end

