-- ==== Sys2Proof/Machine/Eyes.lean ====
section
/-!
DEFINITION. The Eyelets and the EYT transport (R275 to R282, R412, R418): packets, sessions, ESEND, exactly-once
application under the Carrel rules, acknowledgement and retransmission, link events and the frames the Nozer answers.
-/
namespace Sys2Proof.Machine

/-- The state with the Eyelets changed. -/
def modEyes (s : State) (f : Eyes → Eyes) : State := { s with eyes := f s.eyes }

/-- Eyelet p changed. -/
def modEye (s : State) (p : Fin 8) (f : EyePort → EyePort) : State := modEyes s fun e => { e with ports := vmod e.ports p f }

/-- The session with a number. -/
def findSession (s : State) (n : BitVec 24) : Option Session := s.eyes.sessions.find? fun x => x.num == n

/-- The state with session n changed. -/
def modSession (s : State) (n : BitVec 24) (f : Session → Session) : State :=
  modEyes s fun e => { e with sessions := e.sessions.map fun x => if x.num = n then f x else x }

/-- The 32 header bytes of a packet (Table 11-6). -/
def packetHeader (p : Packet) : List Byte :=
  leBytes 1 (16 + p.typ.toNat) ++ leBytes 1 (b2n p.ez + 2 * b2n p.auth + 4 * b2n p.last + 8 * b2n p.retx) ++
    leBytes 2 p.payload.length ++ leBytes 4 p.session.toNat ++ leBytes 4 p.psn.toNat ++ leBytes 4 p.ackPsn.toNat ++
    leBytes 8 p.taddr.toNat ++ leBytes 2 p.elems.toNat ++ leBytes 1 p.efmt.toNat ++ [0] ++ leBytes 4 p.msg.toNat

/-- A packet of a session without payload. -/
def blankPacket (x : Session) (typ : BitVec 4) : Packet where
  typ := typ
  ez := false
  auth := x.auth
  last := false
  retx := false
  session := x.num
  psn := 0
  ackPsn := 0
  taddr := 0
  elems := 0
  efmt := 0
  msg := 0
  payload := []
  tag := []

/-- The authentication tag of a packet under its session's key (R277). -/
def sealPacket (x : Session) (p : Packet) : Packet :=
  if x.auth then { p with auth := true, tag := Config.gcmTag x.key (packetHeader { p with auth := true }) p.payload }
  else { p with auth := false, tag := [] }

/-- A packet leaves through the session's home Eyelet (R276); with no port up it is not sent. -/
def emit (s : State) (x : Session) (p : Packet) : State :=
  match x.home with
  | none => s
  | some port => modEyes s fun e => { e with out := e.out ++ [{
      port := port, peer := x.peer, sport := Config.udpHash x.num (p.psn.extractLsb' 0 3)
      dport := (vget e.ports port).udp, dscp := x.dscp, pkt := sealPacket x p }] }

/-- Sequence number a comes before b (R277: numbers wrap). -/
def before (a b : BitVec 32) : Bool := decide (0 < (b - a).toNat) && decide ((b - a).toNat < 2 ^ 31)

/-- The Eyelets exist: the die in the EDS position is EDS, or provides EYT (R285). -/
def eytPresent (s : State) : Bool :=
  (allFin 16).any fun u =>
    let x := vget s.sites u
    decide (8 ≤ u.val) && (x.state == 3 || x.state == 4) && (x.role == 2 || (x.role == 3 && bit x.rsp 49))

/-- Sessions homed on a port. -/
def homed (s : State) (p : Fin 8) : Nat := (s.eyes.sessions.filter fun x => x.home == some p && x.state != 2).length

/-- The up port that homes the fewest sessions (R281, R282). -/
def bestPort (s : State) : Option (Fin 8) :=
  ((allFin 8).filter fun p => (vget s.eyes.ports p).state == 1).foldl (fun b p => match b with
    | none => some p
    | some q => if homed s p < homed s q then some p else some q) none

/-- The IPv6 link-local address of an Eyelet: its MAC address is the board's base plus p (R276). -/
def linkLocal (s : State) (p : Fin 8) : BitVec 128 :=
  let m := s.flash.macBase + BitVec.ofNat 48 p.val
  0xFE80#16 ++ 0#48 ++ (m.extractLsb' 24 24 ^^^ 0x020000#24) ++ 0xFFFE#16 ++ m.extractLsb' 0 24

/-- The address a session's packets come from: the port's set address, or its link-local one. -/
def portAddr (s : State) (p : Fin 8) : BitVec 128 :=
  if (vget s.eyes.ports p).addr = 0 then linkLocal s p else (vget s.eyes.ports p).addr

/-- An unsettled packet is sent again (R280). -/
def resend (s : State) (x : Session) (u : Unacked) : State := emit s x { u.pkt with retx := true }

/-- The partner's window that Duplicate packets address (R416, R418). -/
def dupWindow (s : State) : Option (Nat × Nat) := s.flash.pairing.map fun p => (p.base, p.len)

/-- FEED_ID of the board; 0 when the descriptor's CRC fails (R456). -/
def boardFeed (s : State) : BitVec 64 := if s.flash.boardOk then s.flash.feedId else 0

/-- The session parameters of OPEN and OPEN_ACK: kind, job, AUTH, status, window length, FEED_ID and serial (log 33). -/
def openPayload (s : State) (x : Session) (status : Nat) : List Byte :=
  leBytes 1 (b2n x.dup) ++ leBytes 1 x.job.toNat ++ leBytes 1 (b2n x.auth) ++ leBytes 1 status ++
    leBytes 8 ((dupWindow s).elim 0 fun w => w.2) ++ leBytes 8 (boardFeed s).toNat ++
    slice (provRecord s 1 0) 32 16

/-- A session moves to another port (R282): it sends MOVE and its unsettled packets there. -/
def moveSession (s : State) (n : BitVec 24) : State :=
  match findSession s n with
  | none => s
  | some x =>
    match bestPort s with
    | none => modSession s n fun x => { x with home := none }
    | some p =>
      let x := { x with home := some p }
      let s := modSession s n fun y => { y with home := some p }
      if x.state = 0 ∧ x.initiator then emit s x { blankPacket x 3 with payload := openPayload s x 0 }
      else if x.state ≠ 1 then s
      else
        let s := emit s x { blankPacket x 7 with payload := beBytes 16 (portAddr s p).toNat }
        x.unacked.foldl (fun s u => resend s x u) s

/-- Every session leaves a port (R282). -/
def leavePort (s : State) (p : Fin 8) : State :=
  (s.eyes.sessions.filter fun x => x.home == some p && x.state != 2).foldl (fun s x => moveSession s x.num) s

/-- Sessions that have no home take one when a port comes up (R282). -/
def rehome (s : State) : State :=
  (s.eyes.sessions.filter fun x => x.home == none && x.state != 2).foldl (fun s x => moveSession s x.num) s

/-- A record of class PORT about an Eyelet (Table 17-2). -/
def eyeRecord (s : State) (p : Fin 8) (sev flags : BitVec 8) (moved : Nat) : State :=
  let x := vget s.eyes.ports p
  portRecord s 2 p.val sev flags x.state.toNat x.mode.toNat 8 x.uncorr.toNat moved

/-- An Eyelet is retired (R282): recorded in the condition report, its sessions move. -/
def retireEye (s : State) (p : Fin 8) : State :=
  if (vget s.eyes.ports p).state = 3 then s
  else
    let n := homed s p
    let s := leavePort (modEye s p fun x => { x with state := 3 }) p
    eyeRecord (condAppend s (unitWord 10 15 (512 + p.val)) 0x07 2 0 0) p 1 3 n

/-- An ESEND in flight uses session n. -/
def esendOn (x : SeqState) (n : BitVec 24) : Bool :=
  x.infl.any fun y => opcodeOf y.word == 0x16 &&
    (smapGet 0 y.view (fld y.word 104 8)).extractLsb' 48 24 == n

/-- Every ESEND in flight on a session faults (R278). -/
def faultEsends (s : State) (n : BitVec 24) (code : BitVec 8) : State :=
  (allFin 12).foldl (fun s c => (allFin 8).foldl (fun s d =>
    if esendOn (getSeq s c (dmaSeq d)) n then seqFault s c (dmaSeq d) 0x16 code else s) s) s

/-- The state with every snapshot of every configuration changed. -/
def mapSnaps (s : State) (f : Snapshot → Snapshot) : State :=
  { s with resil := { s.resil with snaps := s.resil.snaps.map fun c =>
      { c with flying := c.flying.map f, done := c.done.map f, kept := c.kept.map f } } }

/-- The Duplicate layer is EMPTY (R418): no snapshot is held by the partner, none is on its way, and a RESTORE that reads
from it fails. -/
def emptyDuplicate (s : State) : State :=
  let s := dropRestore s (fun c => c.restore.any fun r => r.source == 0 && !r.replay) 21
  mapSnaps s fun f => { f with data := f.data &&& 6, trailer := f.trailer &&& 6, dataMsg := none, trailMsg := none }

/-- The pairing ends on this side (R418): its window is free and its contents gone. -/
def unpair (s : State) : State :=
  let s := match s.flash.pairing with
    | some p => loseBytes s p.base p.len
    | none => s
  let s := modFlash s fun f => { f with pairing := none }
  { s with resil := { s.resil with sharedFeed := false, peerFeed := 0, peerSerial := [], peerLen := 0 } }

/-- A message that the partner refused confirms nothing (R423). -/
def spoilMessage (s : State) (m : BitVec 32) : State :=
  mapSnaps s fun f => { f with
    dataMsg := if f.dataMsg = some m then none else f.dataMsg
    trailMsg := if f.trailMsg = some m then none else f.trailMsg }

/-- A session is over: it leaves the list (R281). -/
def dropSession (s : State) (n : BitVec 24) : State :=
  let dup := match findSession s n with
    | some x => x.dup
    | none => false
  let s := if dup then emptyDuplicate s else s
  modEyes s fun e => { e with sessions := e.sessions.filter fun x => x.num != n }

/-- This end closes a session with CLOSE (R281). -/
def closeSession (s : State) (n : BitVec 24) : State :=
  match findSession s n with
  | none => s
  | some x => noted (dropSession (if x.state = 1 then emit s x (blankPacket x 5) else s) n)

/-- A job's end closes its sessions (R281). -/
def closeJobSessions (s : State) (j : BitVec 6) : State :=
  (s.eyes.sessions.filter fun x => !x.dup && x.job == j).foldl (fun s x => closeSession s x.num) s

/-- ESEND's target descriptor (R278): TA, session, and whether a reserved bit is set. -/
def targetOf (w : Word128) : Nat × BitVec 24 × Bool := (fld w 0 48, w.extractLsb' 48 24, fld w 72 56 != 0)

/-- The session is open for the job on core c (R278). -/
def sessionOpen (s : State) (c : CoreId) (n : BitVec 24) : Bool :=
  (getCore s c).jobId != 0 && s.eyes.sessions.any fun x =>
    x.num == n && x.state == 1 && !x.dup && x.job == (getCore s c).jobId

/-- A packet's worth of source bytes: its offset, the bytes, and whether it is one poisoned slot (R278, R412). -/
structure Parcel where
  off  : Nat
  data : List Byte
  bad  : Bool
  deriving DecidableEq, Repr

/-- The 64-byte units of a stream with their poison, gathered into packets of up to 4,096 bytes; a poisoned slot goes
alone (R278, R412). `acc` is the packet being filled, from offset `at_`. -/
def parcelsFrom : Nat → List Byte → List (List (Byte × Bool)) → List Parcel
  | at_, acc, [] => if acc.isEmpty then [] else [{ off := at_, data := acc, bad := false }]
  | at_, acc, u :: t =>
    let b := u.map (·.1)
    if u.any (·.2) then
      (if acc.isEmpty then [] else [{ off := at_, data := acc, bad := false }]) ++
        { off := at_ + acc.length, data := [], bad := true } :: parcelsFrom (at_ + acc.length + u.length) [] t
    else if 4096 ≤ acc.length + b.length then
      { off := at_, data := acc ++ b, bad := false } :: parcelsFrom (at_ + acc.length + b.length) [] t
    else parcelsFrom at_ (acc ++ b) t

/-- The packets of an ESEND. -/
def parcels (l : List (Byte × Bool)) : List Parcel := parcelsFrom 0 [] (chunk 64 l)

/-- A DATA packet (Table 11-6): EZ unless the slot travels poisoned. -/
def dataPacket (x : Session) (ta msg : Nat) (ez : Option EzFmt) (last : Bool) (p : Parcel) : Packet :=
  let base := { blankPacket x 1 with psn := x.psn, taddr := BitVec.ofNat 48 (ta + p.off), msg := BitVec.ofNat 32 msg, last := last }
  match ez with
  | some f =>
    if p.bad then base
    else { base with ez := true, payload := ezEncode f p.data, elems := BitVec.ofNat 16 (p.data.length / f.bytes),
                     efmt := BitVec.ofNat 4 f.code }
  | none => { base with payload := p.data }

/-- A packet that must be settled is sent: it takes the session's next PSN (R280), and waits while 4,096 packets are
not settled. -/
def sendTracked (s : State) (x : Session) (p : Packet) (core : Option (CoreId × SeqId)) : State :=
  if 4096 ≤ x.unacked.length then modSession s x.num fun y => { y with psn := y.psn + 1, queue := y.queue ++ [p] }
  else
    let s := modSession s x.num fun y => { y with
      psn := y.psn + 1, unacked := y.unacked ++ [{ pkt := p, core := core, tries := 0, full := 0 }] }
    emit s x p

/-- Packets that waited are sent as others settle (R280); k bounds the number. -/
def pump (n : BitVec 24) : Nat → State → State
  | 0, s => s
  | k + 1, s => match findSession s n with
    | none => s
    | some x => match x.queue with
      | [] => s
      | p :: t =>
        if 4096 ≤ x.unacked.length then s
        else pump n k (emit (modSession s n fun y => { y with
          queue := t, unacked := y.unacked ++ [{ pkt := p, core := none, tries := 0, full := 0 }] }) x p)

/-- ESEND (R278, R412): D is read under its TM and sent in DATA packets; it completes when all are acknowledged. -/
def execEsend (c : CoreId) (d : Fin 8) (w : BitVec 120) (ev : List EccEvent) (s : State) : Out :=
  let q := dmaSeq d
  let word := instrWord 0x16 w
  let v := viewOf s c q word
  let o := opnd v c q (fld w 112 8)
  let t := targetOf (descAt v c q (fld w 104 8))
  let ez := if bit w 91 then ezFmt (fld w 87 4) else none
  .next (engineInstr s c q word
    (mask128 103 93 ||| mask128 86 0 ||| (if bit w 91 ∧ ez.isSome then 0 else mask128 90 87) |||
      (if bit w 91 ∧ ez.isNone then mask128 91 91 else 0)) ev
    { names := [fld w 112 8, fld w 104 8], ops := [(fld w 112 8, 0)],
      bad := (descFault s c [o]).or
        (if o.rmt then some 0x12 else if t.1 % 64 != 0 then some 0x14 else if t.2.2 then some 0x15
         else if !sessionOpen s c t.2.1 then some 0x16 else none)
      notes := [((findSession s t.2.1).elim 0 fun x => x.msg.toNat)]
      atIssue := fun s => modSession s t.2.1 fun x => { x with msg := x.msg + 1 } }
    fun s y =>
      let m := y.notes.getD 0 0
      if y.got.isEmpty then .access (reads 0 .here o.tm (prioOf w) o.pieces)
      else match findSession s t.2.1 with
        | none => .fault 0x16
        | some x =>
          let ps := parcels (gotStream (y.got.getD 0 []))
          let k := y.got.length - 1
          match ps[k]? with
          | some p =>
            if 4096 ≤ x.unacked.length then .hold
            else .act fun s => sendTracked s x (dataPacket x t.1 m ez (decide (k + 1 = ps.length)) p) (some (c, q))
          | none =>
            if x.unacked.any fun u => u.core == some (c, q) && u.pkt.msg.toNat == m then .hold else .finish id)

/-- The packet's tag verifies, where its session is authenticated (R277). -/
def authentic (x : Session) (p : Packet) : Bool :=
  if x.auth then p.auth && p.tag == Config.gcmTag x.key (packetHeader p) p.payload else !p.auth

/-- A packet is dropped and counted (R277). -/
def dropPacket (s : State) : State := modEyes s fun e => { e with dropped := e.dropped + 1 }

/-- The port takes frames (R282). -/
def portUp (s : State) (p : Fin 8) : Bool := (vget s.eyes.ports p).state == 1

/-- The entries of a SACK bitmap after `low` (Table 11-7). -/
def sackBits (x : Session) (low : BitVec 32) : Nat :=
  (List.range 64).foldl (fun n i =>
    if x.applied.any fun a => a.1 == low + 1 + BitVec.ofNat 32 i then n + 2 ^ i else n) 0

/-- This end acknowledges a session's packets, reporting the entries given (R277, R280). -/
def sendAck (s : State) (n : BitVec 24) (entries : List (BitVec 32 × BitVec 8)) : State :=
  match findSession s n with
  | none => s
  | some x =>
    let body := leBytes 8 (sackBits x x.ackLow) ++
      entries.flatMap fun e => leBytes 4 e.1.toNat ++ leBytes 1 e.2.toNat ++ [0, 0, 0]
    emit (modSession s n fun x => { x with unsent := 0 }) x { blankPacket x 2 with ackPsn := x.ackLow, payload := body }

/-- An ACK for a session that does not exist here reports NO_SESSION (R277); it goes back on the same port. -/
def ackNoSession (s : State) (port : Fin 8) (p : Packet) : State :=
  modEyes s fun e => { e with out := e.out ++ [{
    port := port, peer := 0, sport := Config.udpHash p.session (p.psn.extractLsb' 0 3)
    dport := (vget e.ports port).udp, dscp := 0
    pkt := { p with typ := 2, ez := false, auth := false, last := false, retx := false, psn := 0, ackPsn := 0, taddr := 0
                    elems := 0, efmt := 0, msg := 0, tag := []
                    payload := leBytes 8 0 ++ leBytes 4 p.psn.toNat ++ [9, 0, 0, 0] } }] }

/-- The slots of a DATA packet: address, bytes, poison (R279, R412). A poisoned slot carries no bytes. -/
def packetSlots (ta : Nat) (data : List Byte) (bad : Bool) : List (Nat × List Byte × Bool) :=
  if bad then [(ta, [], true)] else (chunk 64 data).zipIdx.map fun d => (ta + 64 * d.2, d.1, false)

/-- The core whose Stacks window holds a device address. -/
def stacksCore (a : Nat) : Option CoreId :=
  if 0x080000000000 ≤ a ∧ a < 0x080000000000 + 12 * 0x80000000 then some (coreOf ((a - 0x080000000000) / 0x80000000))
  else none

/-- What a host or Eyelet write meets at one slot (R74, R75): the status of Table 09-5, 8 for a full slot, or the
Carrel that takes it. `may` is the writer's rule of R74. -/
def carrelMeets (s : State) (a : Nat) (whole : Bool) (may : Carrel → Bool) : Except (BitVec 8) (CoreId × Fin 64) :=
  match stacksCore a with
  | none => .error 2
  | some c =>
    let sa := (a - 0x080000000000) % 0x80000000
    if targetDown s c then .error 3
    else if stkSize s c ≤ sa || inScrub (getCore s c).stk sa then .error 2
    else match carrelAt (getCore s c).stk sa with
      | none => .error 2
      | some i =>
        let r := vget (getCore s c).stk.carrels i
        if !may r || (r.tmreq == 3 && !whole) then .error 2
        else if r.tmreq == 3 && isFull s (a / 64) then .error 8
        else .ok (c, i)

/-- DENIED counts a denied slot of the Carrel that holds it (Table 03-12). -/
def countDenied (s : State) (a : Nat) : State :=
  match stacksCore a with
  | none => s
  | some c => match carrelAt (getCore s c).stk ((a - 0x080000000000) % 0x80000000) with
    | some i => modCarrel s c i fun r => { r with denied := satAdd r.denied 1 }
    | none => s

/-- n free bytes, one draw for each (log 10). -/
def freeBytes : Nat → State → List Byte × State
  | 0, s => ([], s)
  | n + 1, s =>
    let r := takeFree s
    let t := freeBytes n r.2
    (r.1.extractLsb' 0 8 :: t.1, t.2)

/-- A host or Eyelet write lands in a Carrel (R74, R78): its bytes, its tag, FILLED. -/
def carrelPut (s : State) (c : CoreId) (i : Fin 64) (a lo : Nat) (data : List Byte) (bad : Bool) : State :=
  let sa := (a - 0x080000000000) % 0x80000000
  let r := vget (getCore s c).stk.carrels i
  let s := stkPut s c sa lo data bad
  let s := if r.tmreq = 3 then setFull s (a / 64) true else s
  modCarrel s c i fun r => { r with filled := r.filled + 1 }

/-- One slot of an Eyelet write; the status of the first denial stands. -/
def putEytSlot (n : BitVec 24) (x : State × BitVec 8) (d : Nat × List Byte × Bool) : State × BitVec 8 :=
  match carrelMeets x.1 d.1 (d.2.2 || decide (d.2.1.length = 64)) fun r => r.eysEn && r.eys == n with
  | .error st => (if st = 2 then countDenied x.1 d.1 else x.1, if x.2 = 0 then st else x.2)
  | .ok (c, i) =>
    if d.2.2 then
      let f := freeBytes 64 x.1
      (carrelPut f.2 c i d.1 0 f.1 true, x.2)
    else (carrelPut x.1 c i d.1 0 d.2.1 false, x.2)

/-- The bytes of a DATA packet: expanded from EZ, or none when the form is broken (R133, R279). -/
def packetData (p : Packet) : Option (List Byte) :=
  if p.ez then match ezFmt p.efmt.toNat with
    | some f => ezDecode f p.elems.toNat p.payload
    | none => none
  else some p.payload

/-- A DATA packet of a Duplicate session is written into the reserved window (R418). -/
def putDuplicate (s : State) (p : Packet) (data : List Byte) : State × BitVec 8 :=
  match dupWindow s with
  | none => (s, 1)
  | some (base, len) =>
    let n := if p.payload.isEmpty then 64 else data.length
    if len < p.taddr.toNat + n then (s, 1)
    else if p.payload.isEmpty then
      let f := freeBytes 64 s
      (memPut f.2 (base + p.taddr.toNat) f.1 true, 0)
    else (((chunk 64 data).zipIdx).foldl (fun s d => memPut s (base + p.taddr.toNat + 64 * d.2) d.1 false) s, 0)

/-- A DATA packet is applied (R279): every slot of a write-fill must be empty, or the whole packet is CARREL_FULL;
else each slot that passes is written and the first denial is the status. -/
def applyData (s : State) (x : Session) (p : Packet) (data : List Byte) : State × BitVec 8 :=
  if x.dup then putDuplicate s p data
  else
    let slots := packetSlots p.taddr.toNat data p.payload.isEmpty
    let full := slots.any fun d =>
      match carrelMeets s d.1 (d.2.2 || decide (d.2.1.length = 64)) fun r => r.eysEn && r.eys == x.num with
      | .error st => st == 8
      | .ok _ => false
    if full then (s, 8) else slots.foldl (putEytSlot x.num) (s, 0)

/-- The cumulative sequence number after PSNs have been applied; n bounds the run. -/
def runLow (l : List (BitVec 32 × BitVec 8)) : Nat → BitVec 32 → BitVec 32
  | 0, a => a
  | n + 1, a => if l.any fun e => e.1 == a then runLow l n (a + 1) else a

/-- A LAST packet may be applied (R279): every PSN before it is applied, or is itself a held LAST, and its message is
the next. -/
def lastReady (x : Session) (p : Packet) : Bool :=
  p.msg == x.lastMsg + 1 && (List.range (p.psn - x.ackLow).toNat).all fun i =>
    let n := x.ackLow + BitVec.ofNat 32 i
    (x.applied.any fun e => e.1 == n) || x.held.any fun h => h.psn == n

/-- A packet is applied and its PSN settled, unless its slot was full (R279, R280). -/
def takeData (s : State) (n : BitVec 24) (p : Packet) : State :=
  match findSession s n, packetData p with
  | some x, some data =>
    match applyData s x p data with
    | (s, st) =>
      let s := if st = 8 then s else modSession s n fun y =>
        let applied := y.applied ++ [(p.psn, st)]
        { y with applied := applied, ackLow := runLow applied applied.length y.ackLow, unsent := y.unsent + 1
                 lastMsg := if p.last then p.msg else y.lastMsg }
      if st ≠ 0 then sendAck s n [(p.psn, st)]
      else if p.last then sendAck s n []
      else match findSession s n with
        | some y => if 16 ≤ y.unsent then sendAck s n [] else s
        | none => s
  | _, _ => dropPacket s

/-- Held LAST packets are applied as they become ready; n bounds the number. -/
def releaseHeld (n : BitVec 24) : Nat → State → State
  | 0, s => s
  | k + 1, s =>
    match findSession s n with
    | none => s
    | some x =>
      match x.held.find? (lastReady x) with
      | none => s
      | some p =>
        let s := modSession s n fun y => { y with held := y.held.filter fun h => h.psn != p.psn }
        releaseHeld n k (takeData s n p)

/-- EYT_DATA (R279, R280, R412): a packet is applied exactly once, a LAST one in its order. -/
def execEytData (port : Fin 8) (p : Packet) (s : State) : Out :=
  .next (if !portUp s port || p.typ ≠ 1 then s
    else match findSession s p.session with
      | none => ackNoSession s port p
      | some x =>
        if x.state ≠ 1 then ackNoSession s port p
        else if !authentic x p then dropPacket s
        else match x.applied.find? fun e => e.1 == p.psn with
          | some e => sendAck s x.num (if e.2 = 0 then [] else [e])
          | none =>
            if before p.psn x.ackLow then sendAck s x.num []
            else if x.held.any fun h => h.psn == p.psn then s
            else if p.last && !lastReady x p then modSession s x.num fun y => { y with held := y.held ++ [p] }
            else releaseHeld x.num (x.held.length + 1) (takeData s x.num p))

/-- The status that an ACK gives a PSN: its entry, or OK when the cumulative number or the bitmap covers it. -/
def ackStatus (p : Packet) (n : BitVec 32) : Option (BitVec 8) :=
  let entry := (chunk 8 (p.payload.drop 8)).find? fun e => leAt e 0 4 == n.toNat
  match entry with
  | some e => some (BitVec.ofNat 8 (leAt e 4 1))
  | none =>
    let d := (n - (p.ackPsn + 1)).toNat
    if before n p.ackPsn ∨ (d < 64 ∧ (leAt p.payload 0 8).testBit d) then some 0 else none

/-- The fault code of an EYT status (R278). -/
def eytFault (st : BitVec 8) : BitVec 8 :=
  if st = 9 then 0x16 else statusFault (st.setWidth 4)

/-- One unsettled packet meets an ACK: settled, failed, or kept (R278, R280). -/
def settleUnacked (n : BitVec 24) (p : Packet) (s : State) (u : Unacked) : State :=
  let drop := modSession s n fun x => { x with unacked := x.unacked.filter fun v => v.pkt.psn != u.pkt.psn }
  match ackStatus p u.pkt.psn with
  | none => s
  | some st =>
    if st = 8 then modSession s n fun x => { x with
      unacked := x.unacked.map fun v => if v.pkt.psn = u.pkt.psn then { v with full := v.full + 1 } else v }
    else if st = 0 then drop
    else match u.core with
      | none =>
        if u.pkt.typ = 8 then dropRestore drop (fun c => c.restore.any fun r => r.source == 0 && !r.replay) 21
        else spoilMessage drop u.pkt.msg
      | some (c, q) => if esendOn (getSeq drop c q) n then seqFault drop c q 0x16 (eytFault st) else drop

/-- The highest PSN that an ACK's bitmap shows. -/
def topSack (p : Packet) : Option (BitVec 32) :=
  ((List.range 64).filter fun i => (leAt p.payload 0 8).testBit i).getLast?.map fun i => p.ackPsn + 1 + BitVec.ofNat 32 i

/-- EYT_ACK (R277, R278, R280): PSNs are settled, failures fault their senders, gaps are sent again. -/
def execEytAck (port : Fin 8) (p : Packet) (s : State) : Out :=
  .next (if !portUp s port || p.typ ≠ 2 then s
    else match findSession s p.session with
      | none => s
      | some x =>
        if !authentic x p then dropPacket s
        else
          let s := pump x.num x.queue.length (x.unacked.foldl (settleUnacked x.num p) s)
          match topSack p, findSession s p.session with
          | some top, some y =>
            (y.unacked.filter fun u => before u.pkt.psn top && u.full == 0).foldl (fun s u => resend s y u) s
          | _, _ => s)

/-- Two Nozers share a feed (R417). -/
def sharesFeed (a b : BitVec 64) : Bool := a == b || a == 0 || b == 0

/-- A PAIR waits for its session to open. -/
def pairWaits (m : Mailbox) : Bool :=
  m.own && m.phase == 2 && m.code == 0xC6 && m.waiting && m.result.isNone && smapGet 0 m.payload 0 == 0

/-- A PAIR that waits has ended. -/
def endPair (s : State) (st : BitVec 16) (resp : List Byte) : State :=
  modReg s fun r => { r with
    mailboxes := r.mailboxes.map fun m =>
      if pairWaits m then { m with result := some (st, resp, BitVec.ofNat 32 resp.length) } else m }

/-- A pairing that does not come about: PAIR ends with a status, and nothing is reserved (R416, R417). -/
def endPairing (s : State) (st : BitVec 16) : State :=
  if s.reg.mailboxes.toList.any pairWaits then
    endPair (modFlash s fun f => { f with pairing := none }) st []
  else s

/-- The partner's window length, FEED_ID and serial arrive in OPEN or OPEN_ACK of the Duplicate session, and the PAIR
that waits for them ends (R416, R417): refused at basic level when the two share a feed. -/
def notePeer (s : State) (n : BitVec 24) (p : Packet) : State :=
  let feed := BitVec.ofNat 64 (leAt p.payload 12 8)
  let shared := sharesFeed (boardFeed s) feed
  let s := { s with resil := { s.resil with
      peerLen := leAt p.payload 4 8, peerFeed := feed, peerSerial := slice p.payload 20 16, sharedFeed := shared } }
  if shared && s.reg.mailboxes.toList.any (fun m => pairWaits m && !m.expert) then
    let s := endPairing (closeSession s n) 18
    { s with resil := { s.resil with sharedFeed := false } }
  else
    let s := modFlash s fun f => { f with pairing := f.pairing.map fun q => { q with shared := shared } }
    endPair s 0 (leBytes 8 feed.toNat ++ slice p.payload 20 16 ++ leBytes 1 (b2n shared) ++ List.replicate 7 0)

/-- A session opens at this end. -/
def openSession (s : State) (n : BitVec 24) (p : Packet) : State :=
  let s := modSession s n fun x => { x with state := 1 }
  noted (match findSession s n with
    | some x => if x.dup then notePeer s n p else s
    | none => s)

/-- EYT_OPEN (R281): accepted where a matching session command was given and the session is not in use; else answered
NO_SESSION. -/
def execEytOpen (port : Fin 8) (p : Packet) (s : State) : Out :=
  .next (if !portUp s port || p.typ ≠ 3 then s
    else match findSession s p.session with
      | none => modEyes s fun e => { e with out := e.out ++ [{
          port := port, peer := 0, sport := Config.udpHash p.session 0, dport := (vget e.ports port).udp, dscp := 0
          pkt := { p with typ := 4, auth := false, tag := [], payload := patch p.payload 3 [9] } }] }
      | some x =>
        if !authentic x p then dropPacket s
        else if x.state ≠ 0 || decide (leAt p.payload 0 1 ≠ b2n x.dup) then
          emit s x { blankPacket x 4 with payload := openPayload s x 9 }
        else emit (openSession s x.num p) x { blankPacket x 4 with payload := openPayload s x 0 })

/-- EYT_OPEN_ACK (R281): the session opens, or waits for the peer's own OPEN when it was refused. -/
def execEytOpenAck (port : Fin 8) (p : Packet) (s : State) : Out :=
  .next (if !portUp s port || p.typ ≠ 4 then s
    else match findSession s p.session with
      | none => s
      | some x =>
        if !authentic x p && decide (leAt p.payload 3 1 = 0) then dropPacket s
        else if x.state ≠ 0 then s
        else if leAt p.payload 3 1 = 0 then openSession s x.num p
        else modSession s x.num fun y => { y with initiator := false })

/-- EYT_CLOSE (R281, R418): the session ends; an ESEND in flight on it finds no session; that of the pairing takes
it along. -/
def execEytClose (port : Fin 8) (p : Packet) (s : State) : Out :=
  .next (if !portUp s port || p.typ ≠ 5 then s
    else match findSession s p.session with
      | none => s
      | some x =>
        if !authentic x p then dropPacket s
        else
          let s := dropSession (faultEsends s x.num 0x16) x.num
          noted (if s.flash.pairing.any fun q => q.session == x.num then unpair (endPairing s 20) else s))

/-- EYT_KEEPALIVE (R281): the session lives; a cumulative acknowledgement it carries counts (R277). -/
def execEytKeepalive (port : Fin 8) (p : Packet) (s : State) : Out :=
  .next (if !portUp s port || p.typ ≠ 6 then s
    else match findSession s p.session with
      | none => s
      | some x =>
        if !authentic x p then dropPacket s
        else if p.ackPsn = 0 then s
        else pump x.num x.queue.length (x.unacked.foldl (settleUnacked x.num { p with payload := [] }) s))

/-- EYT_MOVE (R282): the address to which this end sends from now on. -/
def execEytMove (port : Fin 8) (p : Packet) (s : State) : Out :=
  .next (if !portUp s port || p.typ ≠ 7 then s
    else match findSession s p.session with
      | none => s
      | some x =>
        if !authentic x p then dropPacket s
        else
          let s := modSession s x.num fun y => { y with peer := BitVec.ofNat 128 (beNat (slice p.payload 0 16)) }
          match findSession s x.num with
          | some y => y.unacked.foldl (fun s u => resend s y u) s
          | none => s)

/-- The RRESP packets that answer a read of the reserved window; a poisoned slot goes alone without payload (R412). -/
def rrespParcels (s : State) (base off len : Nat) : List Parcel :=
  parcels ((List.range (len / 64)).flatMap fun i =>
    let d := memTake s (base + off + 64 * i) 64
    d.1.map fun b => (b, d.2))

/-- EYT_RREQ (R418): slots of the reserved window are read back; TADDR is an offset, the payload its length. -/
def execEytRreq (port : Fin 8) (p : Packet) (s : State) : Out :=
  .next (if !portUp s port || p.typ ≠ 8 then s
    else match findSession s p.session with
      | none => ackNoSession s port p
      | some x =>
        if !authentic x p then dropPacket s
        else
          let len := leAt p.payload 0 8
          match dupWindow s with
          | some (base, n) =>
            if !x.dup || decide (n < p.taddr.toNat + len) then sendAck s x.num [(p.psn, 1)]
            else (rrespParcels s base p.taddr.toNat len).foldl (fun s r =>
              emit s x { blankPacket x 9 with
                psn := p.psn, taddr := BitVec.ofNat 48 (p.taddr.toNat + r.off), payload := r.data, msg := p.msg }) s
          | none => sendAck s x.num [(p.psn, 1)])

/-- The Internet checksum's sum of 16-bit words (big-endian). -/
def inetSum : List Byte → Nat
  | a :: b :: t => a.toNat * 256 + b.toNat + inetSum t
  | [a] => a.toNat * 256
  | [] => 0

/-- An ICMPv6 message with its checksum over the pseudo-header (the referenced standard, R276). -/
def icmp6 (src dst : BitVec 128) (typ : Nat) (body : List Byte) : List Byte :=
  let m := leBytes 1 typ ++ [0, 0, 0] ++ body
  let n := inetSum (beBytes 16 src.toNat ++ beBytes 16 dst.toNat ++ beBytes 4 m.length ++ [0, 0, 0, 58] ++ m)
  let f := n % 65536 + n / 65536
  let f := f % 65536 + f / 65536
  patch m 2 (beBytes 2 (65535 - f))

/-- The addresses of a port (R276). -/
def ownAddr (s : State) (p : Fin 8) (a : BitVec 128) : Bool := a == linkLocal s p || (a != 0 && a == (vget s.eyes.ports p).addr)

/-- A frame is discarded and counted (R276). -/
def discardFrame (s : State) (p : Fin 8) : State := modEye s p fun x => { x with discards := x.discards + 1 }

/-- A frame is sent. -/
def sendFrame (s : State) (p : Fin 8) (l : List Byte) : State := modEyes s fun e => { e with frames := e.frames ++ [(p, l)] }

/-- NEIGHBOUR_DISCOVERY (R276): a solicitation of an own address is answered with an advertisement that gives the
port's MAC address. -/
def execNeighbourDiscovery (port : Fin 8) (target src : BitVec 128) (s : State) : Out :=
  .next (if !portUp s port then s
    else if ownAddr s port target then
      let mac := beBytes 6 (s.flash.macBase + BitVec.ofNat 48 port.val).toNat
      sendFrame s port (icmp6 target src 136 ([0x60, 0, 0, 0] ++ beBytes 16 target.toNat ++ [2, 1] ++ mac))
    else discardFrame s port)

/-- ICMPV6_ECHO (R276): a request for an own address is answered with the same data. -/
def execIcmpv6Echo (port : Fin 8) (dst src : BitVec 128) (data : List Byte) (s : State) : Out :=
  .next (if !portUp s port then s
    else if ownAddr s port dst then sendFrame s port (icmp6 dst src 129 data) else discardFrame s port)

/-- FOREIGN_FRAME (R276): discarded and counted. -/
def execForeignFrame (port : Fin 8) (s : State) : Out := .next (if portUp s port then discardFrame s port else s)

/-- EYT_RTO_EXPIRE (R280): the packet is sent again. -/
def execEytRtoExpire (sess : BitVec 24) (psn : BitVec 32) (s : State) : Out :=
  .next (match findSession s sess with
    | none => s
    | some x => match x.unacked.find? fun u => u.pkt.psn == psn with
      | none => s
      | some u =>
        if x.state = 2 then s
        else resend (modSession s sess fun y => { y with
          unacked := y.unacked.map fun v => if v.pkt.psn = psn then { v with tries := v.tries + 1 } else v }) x u)

/-- CARREL_FULL_RETRY (R280): a packet that met a full slot is sent again after its wait. -/
def execCarrelFullRetry (sess : BitVec 24) (psn : BitVec 32) (s : State) : Out :=
  .next (match findSession s sess with
    | none => s
    | some x => match x.unacked.find? fun u => u.pkt.psn == psn && decide (0 < u.full) with
      | none => s
      | some u => if x.state = 2 then s else resend s x u)

/-- EYT_ACK_DELAY (R280): the delayed ACK. -/
def execEytAckDelay (sess : BitVec 24) (s : State) : Out :=
  .next (match findSession s sess with
    | none => s
    | some x => if x.state = 1 ∧ 0 < x.unsent then sendAck s sess [] else s)

/-- EYT_KEEPALIVE_TIMER (R281): after 10 ms idle this end sends KEEPALIVE. -/
def execEytKeepaliveTimer (sess : BitVec 24) (s : State) : Out :=
  .next (match findSession s sess with
    | none => s
    | some x => if x.state = 1 then emit s x { blankPacket x 6 with ackPsn := x.ackLow } else s)

/-- EYT_SESSION_DEAD (R278, R281): the session is LOST, and every ESEND in flight on it faults EYT_LOST. -/
def execEytSessionDead (sess : BitVec 24) (s : State) : Out :=
  .next (match findSession s sess with
    | none => s
    | some x =>
      if x.state = 2 then s
      else
        let s := if x.dup && x.state == 0 then endPairing s 20 else s
        let s := if x.dup then emptyDuplicate s else s
        let s := modSession s sess fun y => { y with state := 2, home := none }
        let s := modEyes s fun e => { e with lost := satAdd e.lost 1 }
        noted (faultEsends s sess 0x17))

/-- One hour of link-down events. -/
def recentTimes (s : State) (span : Nat) (l : List Nat) : List Nat := l.filter fun t => decide (s.reg.time.toNat ≤ t + span)

/-- EYELET_LINK_DOWN (R282): counted; its sessions move, and more than FLAPS within 1 h retire the port. -/
def execEyeletLinkDown (port : Fin 8) (s : State) : Out :=
  .next (if !portUp s port then s
    else
      let times := s.reg.time.toNat :: recentTimes s hourNs (vget s.eyes.ports port).downTimes
      let s := modEye s port fun x => { x with state := 2, downs := satAdd x.downs 1, downTimes := times }
      if clampNat 1 255 (fld s.eyes.thr 0 8) < times.length then retireEye s port else noted (leavePort s port))

/-- EYELET_LINK_UP (R282): a configured port is up; a training failure retires it. -/
def execEyeletLinkUp (port : Fin 8) (ok : Bool) (s : State) : Out :=
  let x := vget s.eyes.ports port
  .next (if !x.configured || x.state = 1 || x.state = 3 || !eytPresent s then s
    else if ok then noted (rehome (modEye s port fun x => { x with state := 1 })) else retireEye s port)

/-- PFC_PAUSE_FRAME (R276): the enabled priority pauses or resumes; any other is discarded and counted. -/
def execPfcPauseFrame (port : Fin 8) (prio : Fin 8) (pause : Bool) (s : State) : Out :=
  .next (if !portUp s port then s
    else if (vget s.eyes.ports port).pfc.toNat = prio.val + 1 then modEye s port fun x => { x with paused := pause }
    else discardFrame s port)

/-- PRE_FEC_BER_LIMIT (R282): the port is retired. -/
def execPreFecBerLimit (port : Fin 8) (s : State) : Out := .next (if portUp s port then retireEye s port else s)

end Sys2Proof.Machine
end

