-- ==== Sys2Proof/Machine/Freq.lean ====
section
/-!
DEFINITION. Frequencies: VF tables, the limits of a region and the lowest one in force (R357, R364, Table 15-2), with
the caps of failed sensors (R373) and of compatibility mode (R345).
-/
namespace Sys2Proof.Machine

/-- A thermal or governor limit that limits nothing (Table 15-6). -/
def noLimit : BitVec 11 := 0x7FF

/-- The clock region of core c. -/
def coreRegion (c : CoreId) : Fin 15 := finOf 15 (by decide) c.val

/-- The voltage in force at a VF point (R357): fused, aged and offset, at most 900 mV. -/
def VfPoint.mv (p : VfPoint) : Nat := min 900 (p.fused.toNat + p.ageMv.toNat + p.offMv.toNat)

/-- The valid points of a VF table. -/
def vfPoints (p : CorePower) : List VfPoint := p.vf.toList.filter (·.valid)

/-- The frequency of a core's lowest VF point. -/
def lowestPoint (p : CorePower) : Nat := (vfPoints p).foldl (fun m x => min m x.mhz.toNat) 0x7FF

/-- The voltage at which frequency f runs: that of the lowest point at or above f (R357). -/
def voltageAt (p : CorePower) (f : Nat) : Nat :=
  match (vfPoints p).filter fun x => decide (f ≤ x.mhz.toNat) with
  | [] => 900
  | x :: t => (t.foldl (fun b y => if y.mhz.toNat < b.mhz.toNat then y else b) x).mv

/-- The common voltage of compatibility mode caps a core at its highest point at or below that voltage (R345). -/
def compatCap (w : Power) (p : CorePower) : Nat :=
  ((vfPoints p).filter fun x => decide (x.mv ≤ w.compatMv.toNat)).foldl (fun m x => max m x.mhz.toNat) (lowestPoint p)

/-- Sensors that a region has (Table 15-4). -/
def sensorCount (r : Fin 15) : Nat := if r.val < 12 then 16 else if r.val < 14 then 8 else 4

/-- A sensor is failed, or treated as failed (R373). -/
def Sensor.bad (x : Sensor) : Bool := x.failed || x.disable

/-- The failed sensors of a region. -/
def failedSensors (s : State) (r : Fin 15) : Nat :=
  (((vget s.thermal.regions r).sensors.toList.take (sensorCount r)).filter Sensor.bad).length

/-- The limits of a region with their codes of CLK_REG_r.LIMIT, in code order (R364). Failed sensors cap a region
(R373), and so does compatibility mode (R345); a feed group in FAULT holds every core at its lowest point (R348). -/
def limitsOf (s : State) (r : Fin 15) : List (Nat × Nat) :=
  let k := vget s.clock.regions r
  let cap : List (Nat × Nat) := if k.cap = 0 then [] else [(1, k.cap.toNat)]
  let lim := (vget s.thermal.regions r).lim
  let therm : List (Nat × Nat) := if lim = noLimit then [] else [(2, lim.toNat)]
  if r.val < 12 then
    let p := vget s.power.cores (coreOf r.val)
    [(0, if s.power.compat then min p.fmax.toNat (compatCap s.power p) else p.fmax.toNat)] ++ cap ++
      (if 4 < failedSensors s r then [(1, 1000)] else []) ++ therm ++
      (if p.govMhz = noLimit then [] else [(3, p.govMhz.toNat)]) ++
      (if (allFin 6).any fun g => (vget s.power.fgs g).fault then [(3, lowestPoint p)] else []) ++
      (if k.margin = noLimit then [] else [(4, k.margin.toNat)])
  else if r.val < 14 then
    [(0, k.rated.toNat)] ++ cap ++ (if 2 < failedSensors s r then [(1, k.rated.toNat / 2)] else []) ++ therm
  else [(0, k.rated.toNat)]

/-- The lowest limit in force and its code; of equal limits the first in code order. -/
def targetOfRegion (s : State) (r : Fin 15) : Nat × Nat :=
  (limitsOf s r).foldl (fun b x => if x.2 < b.2 then x else b) (0, (vget s.clock.regions r).rated.toNat + 0x800)

/-- TGT_MHZ of a region. -/
def targetMhz (s : State) (r : Fin 15) : Nat := (targetOfRegion s r).2


/-- The lowest margin code of a region over the last ms (R368). -/
def lowOf (s : State) (r : Fin 15) : BitVec 6 :=
  let k := vget s.clock.regions r
  if s.reg.time.toNat ≤ k.lowAt + 10 ^ 6 then k.low else 0x3F

/-- The region's WARN flag: LOW below CLK_CTRL.WARN (R368). -/
def marginWarns (s : State) (r : Fin 15) : Bool := decide (lowOf s r < s.clock.warn)

/-- The hottest region and its temperature, the lower region number first (THM_STAT). -/
def hottest (s : State) : Nat × BitVec 16 :=
  (allFin 15).foldl (fun b r =>
    let t := (vget s.thermal.regions r).tempQ
    if b.2.toInt < t.toInt then (r.val, t) else b) (0, (vget s.thermal.regions 0).tempQ)

end Sys2Proof.Machine
end

