-- ==== Sys2Proof/Machine/Flags.lean ====
section
/-!
DEFINITION. Every flag computation the spec gives: the stream status word of a Welt (R168, Table 07-2), NaN writes and
FIRSTNP, and the OR word that WFLAG reads. The flags of each arithmetic step and conversion are computed where the step
is (Num, NumFn: Table 08-2).
-/
namespace Sys2Proof.Machine

/-- The first NaN among the elements written, with their scale bytes where the format has them. -/
def firstNan (code : Nat) (scales : List Nat) (l : List Nat) : Option Nat :=
  (l.zipIdx.find? fun e => isNanBits code e.1 || (hasScale code && scales.getD (e.2 / 32) 0 == 0xFF)).map (·.2)

/-- The flags with NP as the elements written give it. -/
def withNp (f : Fl) (np : Option Nat) : Fl := if np.isSome then f ||| flNP else f &&& ~~~flNP

/-- The status word of a completed instruction (Table 07-2). -/
def sswOf (f : Fl) (np : Option Nat) : BitVec 32 :=
  let k := match np with
    | some i => if i ≤ 0xFFFE then i else 0xFFFF
    | none => 0xFFFF
  BitVec.ofNat 32 (f.toNat + 65536 * k)

/-- The Welt after an instruction with these flags completed (R168). -/
def WeltState.setSsw (x : WeltState) (f : Fl) (np : Option Nat) : WeltState :=
  { x with ssw := sswOf (withNp f np) np, sswOr := x.sswOr ||| withNp f np }

end Sys2Proof.Machine
end

