-- ==== Sys2Proof/Machine/WeltOps.lean ====
section
/-!
DEFINITION. The arithmetic of the Welt: WOP functions (R170), block conversion (R171, R190, R191, R194, R197),
reductions (R172), softmax (R173), the optimizer (R175), the shadow comparison (R176, R205) and the selection rule
(R129).
-/
namespace Sys2Proof.Machine

/-- Formats of a WOP, WRED or WSMX operand: those without a block scale, FX40 apart (R170, R189). -/
def plainFmt (code : Nat) : Bool := code ≤ 2 || code == 8 || code == 9 || code == 0xB || code == 0xD

/-- n elements of a stream, as bits. -/
def elemsOf (code : Nat) (l : List Byte) (n : Nat) : List Nat := (List.range n).map (elemAt code l)

/-- A source element in FP32 (R170): exact, but INT32 rounds. -/
def srcVal (r : Rnd) (code bits : Nat) : Val × Fl :=
  if code = 0xD then toF32 r (decodeElem code bits) else (decodeElem code bits, 0)

/-- A value rounded to the precision of the lanes: FP32, or BF16 under PREC 1. -/
def laneRound (prec : Bool) (r : Rnd) (v : Val) : Val × Fl :=
  if prec then
    let c := convert 8 r v
    (decodeElem 8 c.1, c.2)
  else toF32 r v

/-- A result of an exact operation, rounded to the lanes. -/
def stepV (prec : Bool) (r : Rnd) (x : Val × Fl) : Val × Fl :=
  let y := laneRound prec r x.1
  (y.1, x.2 ||| y.2)

/-- 1.0. -/
def oneV : Val := .fin false 1 0

/-- 1 / sqrt a (R170), with the sticky digits of the root of the reciprocal. -/
def rsqrtV (a : Val) : Val × Fl :=
  match a with
  | .nan => (.nan, 0)
  | .inf n => if n then (.nan, flIV) else (.fin false 0 0, 0)
  | .fin n m e =>
    if m = 0 then (.inf n, flDZ)
    else if n then (.nan, flIV)
    else
      -- 1/sqrt(m 2^e) = sqrt(1 / (m 2^e)); the quotient carries a sticky digit, and so does the root
      let q := divMag 1 0 m e
      let r := sqrtMag q.1 q.2
      (.fin false r.1 r.2, 0)

/-- The functions with one operand: ABS, NEG, RCP, SQRT, RSQRT, EXP, LOG, TANH, SIGMOID, SILU, GELU. -/
def isUnary (fn : Nat) : Bool := fn == 6 || fn == 7 || (decide (9 ≤ fn) && decide (fn ≤ 0x11))

/-- c of a function is 1, so RND applies to its FP32 step (Table 07-4). -/
def roundsInLane (fn : Nat) : Bool := decide (fn ≤ 7) || fn == 0xC || decide (0x12 ≤ fn)

/-- A WOP function other than ROPE on one element (Table 07-4), in the precision of the lanes. -/
def wopFn (fn : Nat) (prec : Bool) (r : Rnd) (a b c : Val) : Val × Fl :=
  let r := if roundsInLane fn then r else rne
  let down := r.mode == 3
  match fn with
  | 0x00 => stepV prec r (addV down a b)
  | 0x01 => stepV prec r (addV down a b.neg)
  | 0x02 => stepV prec r (mulV a b)
  | 0x03 =>
    let p := mulV a b
    let q := addV down p.1 c
    stepV prec r (q.1, p.2 ||| q.2)
  | 0x04 => stepV prec r (maxV a b)
  | 0x05 => stepV prec r (minV a b)
  | 0x06 => stepV prec r (a.abs, 0)
  | 0x07 => stepV prec r (a.neg, 0)
  | 0x08 => stepV prec r (divV a b)
  | 0x09 => stepV prec r (divV oneV a)
  | 0x0A => stepV prec r (sqrtV a)
  | 0x0B => stepV prec r (rsqrtV a)
  | 0x0C => expV r a
  | 0x0D => logV r a
  | 0x0E => tanhV r a
  | 0x0F => sigmoidV r a
  | 0x10 => siluV r a
  | 0x11 => geluV r a
  | _ => (if ltV b a then oneV else .fin false 0 0, 0)

/-- ROPE on one pair (Table 07-4): the second product rounds, then one FMA. -/
def ropeFn (prec : Bool) (r : Rnd) (a0 a1 b0 b1 : Val) : (Val × Fl) × (Val × Fl) :=
  let down := r.mode == 3
  let one := fun (x y u w : Val) (sub : Bool) =>
    let p := stepV prec r (mulV u w)
    let q := mulV x y
    let t := addV down q.1 (if sub then p.1.neg else p.1)
    let z := stepV prec r (t.1, t.2 ||| q.2)
    (z.1, z.2 ||| p.2)
  (one a0 b0 a1 b1 true, one a0 b1 a1 b0 false)

/-- What an element-wise instruction writes: the elements' bits and the flags. -/
structure Elems where
  bits  : List Nat
  flags : Fl
  deriving DecidableEq, Repr

/-- The OR of flags. -/
def orFl (l : List Fl) : Fl := l.foldl (· ||| ·) 0

/-- An element's bits with only the sign changed: ABS and NEG keep a NaN's payload (R193). -/
def signOnly (fn code bits : Nat) : Nat :=
  let h := 2 ^ (elemBits code - 1)
  if fn = 6 then bits % h else if bits < h then bits + h else bits - h

/-- WOP on N elements (R170): A and B as bits, the index of B for each element, C as bits. -/
def wopElems (fn : Nat) (prec : Bool) (r : Rnd) (af bf df : Nat) (a b c : List Nat) (ix : Nat → Nat) (n : Nat) : Elems :=
  let av := a.map (srcVal r af)
  let bv := b.map (srcVal r bf)
  let cv := c.map (srcVal r df)
  let geta := fun i => av.getD i (.nan, 0)
  let getb := fun i => bv.getD (ix i) (.nan, 0)
  let raw := if fn = 0x12 then
      (List.range (n / 2)).flatMap fun j =>
        let x := ropeFn prec r (geta (2 * j)).1 (geta (2 * j + 1)).1 (getb (2 * j)).1 (getb (2 * j + 1)).1
        [x.1, x.2]
    else (List.range n).map fun i => wopFn fn prec r (geta i).1 (getb i).1 (cv.getD i (.nan, 0)).1
  let out := raw.zipIdx.map fun x =>
    if (fn = 6 ∨ fn = 7) ∧ af = df ∧ isNanBits af (a.getD x.2 0) then (signOnly fn af (a.getD x.2 0), x.1.2)
    else
      let y := convert df r x.1.1
      (y.1, x.1.2 ||| y.2)
  { bits := out.map (·.1),
    flags := orFl (out.map (·.2)) ||| orFl (av.map (·.2)) ||| orFl (bv.map (·.2)) ||| orFl (cv.map (·.2)) }

/-- e_max of R191. -/
def eMax (code : Nat) : Int :=
  match code with
  | 3 => 8
  | 4 => 15
  | 5 => 4
  | _ => 2

/-- The largest magnitude of finite values, as mantissa and exponent. -/
def maxMag (l : List Val) : Nat × Int :=
  l.foldl (fun a v => match v with
    | .fin _ m e => if magLt a.1 a.2 m e then (m, e) else a
    | _ => a) (0, 0)

/-- The destination's largest magnitude: 7 for INT4. -/
def topMag (code : Nat) : Nat × Int :=
  match shapeOf code with
  | .flt eb mb bias kind => maxFinite eb mb bias kind
  | _ => (7, 0)

/-- The scale byte of a block (R171, R191). -/
def blockScale (code : Nat) (scl : Bool) (l : List Val) : Nat :=
  if l.any fun v => match v with | .fin _ _ _ => false | _ => true then 0xFF
  else
    let a := maxMag l
    if a.1 = 0 then 0x7F
    else
      let lg : Int := Nat.log2 a.1 + a.2
      let k : Int :=
        if scl then
          let t := topMag code
          let k0 : Int := lg - (Nat.log2 t.1 + t.2)
          if magLt t.1 (t.2 + k0) a.1 a.2 then k0 + 1
          else if magLt t.1 (t.2 + k0 - 1) a.1 a.2 then k0 else k0 - 1
        else lg - eMax code
      (max (-127) (min 127 k) + 127).toNat

/-- One element of a scaled block (R191, R194); in a block whose scale is 0xFF a finite value's bits are left open. -/
def blockElem (code scale : Nat) (r : Rnd) (src : Nat) (v : Val) : Nat × Fl :=
  let open_ := (Config.nanBlockElem code src).toNat % 2 ^ elemBits code
  if scale = 0xFF then
    match v with
    | .fin _ _ _ => (open_, 0)
    | _ => if code = 3 ∨ code = 4 ∨ code = 0xA then convert code r v
      else (open_, match v with | .inf _ => flIV | _ => 0)
  else convert code r (v.scale (127 - (scale : Int)))

/-- What a WCVT writes: elements, scale bytes, flags. -/
structure Converted where
  bits   : List Nat
  scales : List Nat
  flags  : Fl
  deriving DecidableEq, Repr

/-- WCVT of values with their source bits (R171): `draw i` is the rounding of element i. -/
def cvtElems (df : Nat) (scl : Bool) (rnd : Nat → Rnd) (l : List (Nat × Val)) : Converted :=
  if hasScale df then
    let blocks := chunk 32 l
    let sc := blocks.map fun b => blockScale df scl (b.map (·.2))
    let out := l.zipIdx.map fun x => blockElem df (sc.getD (x.2 / 32) 0) (rnd x.2) x.1.1 x.1.2
    { bits := out.map (·.1), scales := sc, flags := orFl (out.map (·.2)) }
  else
    let out := l.zipIdx.map fun x => convert df (rnd x.2) x.1.2
    { bits := out.map (·.1), scales := [], flags := orFl (out.map (·.2)) }

/-- A partial result of a reduction: its value, and ARGMAX's index (-1 none). -/
structure Red where
  v : Val
  i : Int
  deriving DecidableEq, Repr

/-- One element entering a reduction (R172). -/
def redIn (fn : Nat) (v : Val) (idx : Nat) : Red × Fl :=
  match fn with
  | 3 =>
    let p := mulV v v
    let q := toF32 rne p.1
    ({ v := q.1, i := -1 }, p.2 ||| q.2)
  | 4 => ({ v := v.abs, i := -1 }, 0)
  | 5 => ({ v := v, i := if v = .nan then -1 else idx }, 0)
  | _ => ({ v := v, i := -1 }, 0)

/-- Two partial results joined: FP32 adds for SUM and SUMSQ; the extremum; ARGMAX's greatest, lowest index on ties. -/
def redJoin (fn : Nat) (a b : Red) : Red × Fl :=
  match fn with
  | 0 | 3 =>
    let p := addV false a.v b.v
    let q := toF32 rne p.1
    ({ v := q.1, i := -1 }, p.2 ||| q.2)
  | 2 =>
    let p := minV a.v b.v
    ({ v := p.1, i := -1 }, p.2)
  | 5 =>
    match a.v, b.v with
    | .nan, .nan => (a, flNANIN)
    | .nan, _ => (b, flNANIN)
    | _, .nan => (a, flNANIN)
    | x, y => (if ranksBelow x y || (!ranksBelow y x && decide (b.i < a.i)) then b else a, 0)
  | _ =>
    let p := maxV a.v b.v
    ({ v := p.1, i := -1 }, p.2)

/-- Joining where one side may be absent. -/
def redOpt (fn : Nat) (a b : Option Red) : Option Red × Fl :=
  match a, b with
  | none, y => (y, 0)
  | x, none => (x, 0)
  | some x, some y =>
    let r := redJoin fn x y
    (some r.1, r.2)

/-- Elements in order. -/
def redFold (fn : Nat) (l : List Red) : Option Red × Fl :=
  l.foldl (fun acc x =>
    let r := redOpt fn acc.1 (some x)
    (r.1, acc.2 ||| r.2)) (none, 0)

/-- One level of the pairwise tree: entry 2i with 2i + 1. -/
def pairUp (fn : Nat) : List (Option Red) → List (Option Red) × Fl
  | a :: b :: t =>
    let r := redOpt fn a b
    let u := pairUp fn t
    (r.1 :: u.1, r.2 ||| u.2)
  | l => (l, 0)

/-- n levels. -/
def pairLevels (fn : Nat) : Nat → List (Option Red) → List (Option Red) × Fl
  | 0, l => (l, 0)
  | n + 1, l =>
    let r := pairUp fn l
    let u := pairLevels fn n r.1
    (u.1, r.2 ||| u.2)

/-- A row in the order of AX = 0 (R172): lane j mod 512, then nine levels. -/
def redLanes (fn : Nat) (l : List Red) : Option Red × Fl :=
  let lanes := (List.range 512).map fun j =>
    redFold fn ((List.range (cdiv (l.length - j) 512)).filterMap fun k => l[j + 512 * k]?)
  let t := pairLevels fn 9 (lanes.map (·.1))
  ((t.1.headD none), t.2 ||| orFl (lanes.map (·.2)))

/-- The outputs of a reduction over sequences of values (R172): `base` is the chain position of each sequence's first
element, `carry` the results to continue from. -/
def reduceAll (fn : Nat) (lanes : Bool) (base : Nat) (carry : Option (List Red)) (seqs : List (List Val)) :
    List Red × Fl :=
  let out := seqs.zipIdx.map fun s =>
    let ins := s.1.zipIdx.map fun e => redIn fn e.1 (base + e.2)
    let r := if lanes then redLanes fn (ins.map (·.1)) else redFold fn (ins.map (·.1))
    let c := match carry with
      | some l => redOpt fn l[s.2]? r.1
      | none => (r.1, 0)
    (c.1.getD { v := .fin false 0 0, i := -1 }, orFl (ins.map (·.2)) ||| r.2 ||| c.2)
  (out.map (·.1), orFl (out.map (·.2)))

/-- The columns of rows of equal length g. -/
def columnsOf (g : Nat) (rows : List (List Val)) : List (List Val) :=
  (List.range g).map fun k => rows.map fun r => r.getD k (.fin false 0 0)

/-- An FP32 step on two values, with its flags. -/
def f32Step (x : Val × Fl) : Val × Fl := stepV false rne x

/-- A softmax row (R173): the written bits of each element, (m, s), flags. -/
structure SoftRow where
  bits  : List Nat
  m     : Val
  s     : Val
  flags : Fl
  deriving DecidableEq, Repr

/-- The largest of the values. -/
def maxOf (l : List Val) : Val × Fl :=
  match l with
  | [] => (.inf true, 0)
  | a :: t => t.foldl (fun acc x =>
      let r := maxV acc.1 x
      (r.1, acc.2 ||| r.2)) (a, 0)

/-- EXPS on one row (R173): scale, valid elements. -/
def softRow (df : Nat) (scale : Val) (lim : Nat) (a : List Val) : SoftRow :=
  let x := (a.take lim).map fun v => f32Step (mulV scale v)
  let m := maxOf (x.map (·.1))
  let nil := (convert df rne (.fin false 0 0)).1
  let rest := List.replicate (a.length - lim) nil
  let fx := orFl (x.map (·.2)) ||| m.2
  if m.1 = .inf true then
    { bits := List.replicate a.length nil, m := m.1, s := .fin false 0 0, flags := fx }
  else
    let d := x.map fun v =>
      let t := f32Step (addV false v.1 m.1.neg)
      let e := expV rne t.1
      let c := convert df rne e.1
      (c.1, t.2 ||| e.2 ||| c.2)
    let s := redLanes 0 (d.map fun e => ({ v := (toF32 rne (decodeElem df e.1)).1, i := -1 } : Red))
    { bits := d.map (·.1) ++ rest, m := m.1, s := (s.1.getD { v := .fin false 0 0, i := -1 }).v,
      flags := fx ||| orFl (d.map (·.2)) ||| s.2 }

/-- MERGE on one row of statistics pairs (R173): weights' bits, (m, S), flags. -/
def mergeRow (df : Nat) (l : List (Val × Val)) : SoftRow :=
  let m := maxOf (l.map (·.1))
  let e := l.map fun p =>
    let t := f32Step (addV false p.1 m.1.neg)
    let x := expV rne t.1
    (x.1, t.2 ||| x.2)
  let terms := (l.zip e).map fun p => f32Step (mulV p.1.2 p.2.1)
  let s := redLanes 0 (terms.map fun t => ({ v := t.1, i := -1 } : Red))
  let tot := (s.1.getD { v := .fin false 0 0, i := -1 }).v
  let w := e.map fun x =>
    let q := f32Step (divV x.1 tot)
    let c := convert df rne q.1
    (c.1, q.2 ||| c.2)
  { bits := w.map (·.1), m := m.1, s := tot,
    flags := m.2 ||| orFl (e.map (·.2)) ||| orFl (terms.map (·.2)) ||| s.2 ||| orFl (w.map (·.2)) }

/-- The parameter record of WOPT (R175). -/
structure OptPar where
  lr     : Val
  beta1  : Val
  beta2  : Val
  eps    : Val
  wd     : Val
  bc1    : Val
  bc2    : Val
  gscale : Val
  deriving DecidableEq, Repr

/-- R175's record. -/
def optParOf (l : List Byte) : OptPar :=
  let v := fun i => decodeElem cF32 (leAt l (4 * i) 4)
  { lr := v 0, beta1 := v 1, beta2 := v 2, eps := v 3, wd := v 4, bc1 := v 5, bc2 := v 6, gscale := v 7 }

/-- One updated element (R175): master, m, v and working bits, and the flags. -/
structure Updated where
  master : Nat
  m      : Nat
  v      : Nat
  work   : Nat
  flags  : Fl
  deriving DecidableEq, Repr

/-- The optimizer on one element (R175); each step rounds to FP32 to nearest even, the master once to FX40. -/
def optElem (p : OptPar) (adam : Bool) (wf : Nat) (r : Rnd) (master : Nat) (grad m v : Val) : Updated :=
  let w := f32Step (decodeElem 0xC master, 0)
  let g := f32Step (mulV p.gscale grad)
  let mul := fun (x y : Val) => f32Step (mulV x y)
  let add := fun (x y : Val) => f32Step (addV false x y)
  let wd := mul p.wd w.1
  let res : Val × Val × Val × Fl :=
    if adam then
      let c1 := add oneV p.beta1.neg
      let m0 := mul p.beta1 m
      let m1 := mul c1.1 g.1
      let m2 := add m0.1 m1.1
      let c2 := add oneV p.beta2.neg
      let v0 := mul p.beta2 v
      let v1 := mul c2.1 g.1
      let v2 := mul v1.1 g.1
      let v3 := add v0.1 v2.1
      let n := mul m2.1 p.bc1
      let d0 := mul v3.1 p.bc2
      let d1 := f32Step (sqrtV d0.1)
      let d2 := add d1.1 p.eps
      let q := f32Step (divV n.1 d2.1)
      let u := add q.1 wd.1
      (m2.1, v3.1, u.1, orFl [c1.2, m0.2, m1.2, m2.2, c2.2, v0.2, v1.2, v2.2, v3.2, n.2, d0.2, d1.2, d2.2, q.2, u.2])
    else
      let m0 := mul p.beta1 m
      let m1 := add m0.1 g.1
      let u := add m1.1 wd.1
      (m1.1, v, u.1, orFl [m0.2, m1.2, u.2])
  let step := mul p.lr res.2.2.1
  let s := addV false (decodeElem 0xC master) step.1.neg
  let nm := convert 0xC rne s.1
  let wk := convert wf r (decodeElem 0xC nm.1)
  { master := nm.1, m := (convert cF32 rne res.1).1, v := (convert cF32 rne res.2.1).1, work := wk.1,
    flags := orFl [w.2, g.2, wd.2, res.2.2.2, step.2, s.2, nm.2, wk.2] }

/-- The reference sum of WSHDW (R176) and the sum of magnitudes S (R205), in K order. -/
def shadowSums (ts : List (Val × Val)) : Val × Val :=
  ts.foldl (fun acc t =>
    let p := (mulV t.1 t.2).1
    ((toF32 rne (addV false acc.1 p).1).1, (toF32 rne (addV false acc.2 p.abs).1).1)) (.fin false 0 0, .fin false 0 0)

/-- Half the spacing of a format at |y|. -/
def halfSpacing (code : Nat) (y : Val) : Val :=
  match shapeOf code, y with
  | .flt _ mb bias _, .fin _ m e => .fin false 1 ((if m = 0 then (1 : Int) - bias - mb else quantum mb bias m e) - 1)
  | _, _ => .fin false 0 0

/-- a < b for magnitudes of finite values. -/
def magBelow (a b : Val) : Bool := ltV a b

/-- The bin of an output's relative error (R205, Table 08-5). -/
def shadowBin (code : Nat) (y ref s : Val) : Nat :=
  match y, ref with
  | .nan, .nan => 0
  | .nan, _ => 15
  | _, .nan => 15
  | .inf a, .inf b => if a = b then 0 else 15
  | .inf _, _ => 15
  | _, .inf _ => 15
  | _, _ =>
    if s.isZero then (if y.isZero && ref.isZero then 0 else 15)
    else
      let d := (addV false (addV false y ref.neg).1.abs (halfSpacing code y).neg).1
      if d.isZero || d.sign then 0
      else if !magBelow d (s.scale (-13)) then 15
      else if magBelow d (s.scale (-26)) then 1
      else ((List.range 13).find? fun i => magBelow d (s.scale (Int.ofNat i - 25))).getD 12 + 2

/-- a ranks above b in a selection: by value, or by magnitude under ABS. -/
def scoreAbove (abs : Bool) (a b : Val) : Bool := if abs then ltV b.abs a.abs else ltV b a

/-- An item inserted after those of larger or equal score. -/
def insertScore (abs : Bool) (x : Nat × Val) : List (Nat × Val) → List (Nat × Val)
  | [] => [x]
  | y :: t => if scoreAbove abs x.2 y.2 then x :: y :: t else y :: insertScore abs x t

/-- Largest first, ties to the lower item. -/
def rankScores (abs : Bool) (l : List (Nat × Val)) : List (Nat × Val) := l.foldl (fun acc x => insertScore abs x acc) []

/-- The items a group selects, ascending (R129), and whether a NaN score was passed over. `theta` none is SELTOP. -/
def selectItems (l : List Val) (theta : Option Val) (cap : Nat) (abs : Bool) (lo hi : Nat) : List Nat × Fl :=
  let u := l.length
  let always := fun i => decide (i < lo) || decide (u ≤ i + hi)
  let rest := (l.zipIdx.map fun x => (x.2, x.1)).filter fun x => !always x.1
  let live := rest.filter fun x => x.2 != .nan
  let cand := match theta with
    | none => live
    | some t => live.filter fun x => t != .nan && !ltV (if abs then x.2.abs else x.2) t
  let kept := ((rankScores abs cand).take cap).map (·.1)
  ((List.range u).filter fun i => always i || kept.contains i, flIf (rest.any fun x => x.2 == .nan) flNANIN)

end Sys2Proof.Machine
end

