-- ==== Sys2Proof/Machine/Welt.lean ====
section
/-!
DEFINITION. The Welts (R161 to R186): operands in Stacks or in the operand cache, the instructions of Table 07-3, the
shadow check (R204 to R209) and the cache's repair.
-/
namespace Sys2Proof.Machine

/-- Bytes of the operand cache (R161). -/
def cacheBytes : Nat := 0x80000

/-- An operand of a Welt instruction (R162, R163): its descriptor index, whether it lies in the cache, whether it is a
destination, and the bytes used of its stream (none: all of them). -/
structure WOpnd where
  idx    : Nat
  cached : Bool
  dst    : Bool
  len    : Option Nat
  deriving DecidableEq, Repr

/-- Bytes of n elements of a format (R163). -/
def streamBytes (code n : Nat) : Nat := cdiv (n * elemBits code) 8

/-- The bytes an operand uses. -/
def WOpnd.used (o : WOpnd) (d : Descr) : Nat := o.len.getD d.bytes

/-- A cache descriptor as an address in the cache. -/
def cacheBad (d : Descr) : Bool := d.rmt || d.core != 0 || decide (d.lo < 0) || decide ((cacheBytes : Int) ≤ d.hi)

/-- Bytes of pieces of the cache. -/
def cacheRead (x : WeltState) (ps : List Piece) : List Byte :=
  ps.flatMap fun p => (List.range p.len).map fun i => smapGet 0 x.cache (p.slot + p.lo + i)

/-- Some line of the pieces is poisoned (R181, R182). -/
def cachePoison (x : WeltState) (ps : List Piece) : Bool := ps.any fun p => x.cpoison.contains (p.slot / 64)

/-- Bytes written over pieces of the cache; a full write of a line clears its poison (R182). -/
def cacheWrite (x : WeltState) (ps : List Piece) (l : List Byte) : WeltState :=
  let m := (ps.foldl (fun (acc : List (Nat × Byte) × List Byte) p =>
    (((acc.2.take p.len).zipIdx).foldl (fun m e => smapSet 0 m (p.slot + p.lo + e.2) e.1) acc.1, acc.2.drop p.len)) (x.cache, l)).1
  let whole := (slotsOf ps).filter (coversWhole ps)
  { x with
    cache := m
    cpoison := x.cpoison.filter fun n => !whole.contains (n * 64)
    ueLines := x.ueLines.map fun e => if whole.contains (e.1 * 64) then (e.1, true) else e }

/-- A permanent cache segment (R182): to be remapped when the core holds no job. -/
def markSegment (s : State) (c : CoreId) (wl : Fin 2) (seg : Nat) : State :=
  if (getWelt s c wl).permSegs.contains seg then s
  else
    let s := modWelt s c wl fun x => { x with permSegs := setAdd x.permSegs seg }
    writeRecord s { recOf s 2 c.val wl.val 2 1 0 with flags := 1, job := (getCore s c).jobId.setWidth 8 }

/-- An error the check code of a cache line reports (R182). -/
def cacheError (s : State) (c : CoreId) (wl : Fin 2) (line : Nat) (ue : Bool) : State :=
  let s := bumpGen s
  let seg := line / 1024
  if ue then
    let again := (getWelt s c wl).ueLines.contains (line, true)
    let s := modWelt s c wl fun x => { x with
      cue := satAdd x.cue 1, cpoison := setAdd x.cpoison line
      ueLines := (line, false) :: x.ueLines.filter fun e => e.1 != line }
    if again then markSegment s c wl seg else s
  else
    let s := modWelt s c wl fun x => { x with
      cce := satAdd x.cce 1, ceTimes := (seg, s.reg.time.toNat) :: recent s hourNs x.ceTimes }
    if 64 < ((getWelt s c wl).ceTimes.filter fun e => e.1 == seg).length then markSegment s c wl seg else s

/-- The cache operands of an instruction by its word (Table 07-3). -/
def cacheOpnds (w : Word128) : List Nat :=
  let pick := fun (l : List (Nat × Nat)) => (l.filter fun e => bit w e.1).map fun e => fld w e.2 8
  match (opcodeOf w).toNat with
  | 0x10 => pick [(47, 112), (46, 104), (45, 96), (44, 88)]
  | 0x11 => pick [(74, 112), (74, 104), (73, 96), (73, 88)]
  | 0x12 => pick [(90, 112), (89, 104)]
  | 0x13 => pick [(85, 112), (84, 104), (83, 96)]
  | 0x14 => pick [(91, 112), (90, 96)]
  | 0x15 => pick [(90, 112), (91, 96)]
  | 0x1A => [fld w 104 8]
  | 0x1B => [fld w 104 8]
  | _ => []

/-- The cache interlock (R165): a cache footprint of this instruction meets one of an instruction in flight. -/
def cacheBusy (s : State) (c : CoreId) (wl : Fin 2) (os : List WOpnd) : Bool :=
  let q := weltSeq wl
  let mine := (os.filter (·.cached)).map fun o => opnd s c q o.idx
  (getSeq s c q).infl.any fun y =>
    (cacheOpnds y.word).any fun i => mine.any (footMeet 1 (descrOf (smapGet 0 y.view i)))

/-- R164: a destination is exactly a source's footprint, or meets none of them. -/
def overlapBad (l : List (WOpnd × Descr)) : Bool :=
  l.any fun d => d.1.dst && l.any fun e => !e.1.dst && d.1.cached == e.1.cached &&
    (d.1.cached || (d.2.rmt == e.2.rmt && (!d.2.rmt || d.2.core == e.2.core))) &&
    !footSame d.2 e.2 && footMeet (if d.1.cached then 1 else 64) d.2 e.2

/-- The checks of a Welt instruction (R162 to R164, R180): R35 on Stacks descriptors, reserved bits of a cache
descriptor (R461), then its own faults, each with its code, in rising order. -/
def weltBad (s : State) (c : CoreId) (l : List (WOpnd × Descr)) (own : List (Nat × Bool)) : Option (BitVec 8) :=
  let all := own ++ [(0x12, overlapBad l || l.any fun e => decide (e.2.bytes < e.1.used e.2)),
    (0x13, l.any fun e => e.1.cached && cacheBad e.2)]
  let hit := all.filter (·.2)
  (if l.any fun e => e.1.cached && e.2.rsv then some 0x04
    else descFault s c ((l.filter fun e => !e.1.cached).map (·.2))).or
    (if hit.isEmpty then none else some (BitVec.ofNat 8 (hit.foldl (fun n e => min n e.1) 255)))

/-- What an instruction computed: the bytes of each destination (by operand position) with the poison of each
destination byte range (true: all of it), flags, first NaN, elements processed, and what else it changes. -/
structure WRes where
  outs  : List (Nat × List Byte × Nat)
  flags : Fl
  np    : Option Nat
  elems : Nat
  deriving DecidableEq, Repr

/-- Pieces of an operand's first bytes. -/
def usedPieces (o : WOpnd) (d : Descr) : List Piece := takePieces d.pieces (o.used d)

/-- The data of operand position i: what was read of it, or its bytes in the cache. -/
def weltData (x : WeltState) (l : List (WOpnd × Descr)) (got : List Access) (i : Nat) : List Byte :=
  match l[i]? with
  | some (o, d) => if o.cached then cacheRead x (usedPieces o d) else opndData got i
  | none => []

/-- The reads of the sources in Stacks. -/
def weltReads (s : State) (c : CoreId) (l : List (WOpnd × Descr)) : List Access :=
  l.zipIdx.flatMap fun e => if e.1.1.dst || e.1.1.cached then []
    else reads e.2 (placeOf s c e.1.2) e.1.2.tm 0 (usedPieces e.1.1 e.1.2)

/-- Some source arrived poisoned, in Stacks or in the cache. -/
def weltPoison (x : WeltState) (l : List (WOpnd × Descr)) (got : List Access) : Bool :=
  got.any (·.poison) || l.any fun e => !e.1.dst && e.1.cached && cachePoison x (usedPieces e.1 e.2)

/-- The writes of the destinations in Stacks. -/
def weltWrites (s : State) (c : CoreId) (l : List (WOpnd × Descr)) (r : WRes) : List Access :=
  r.outs.flatMap fun e =>
    match l[e.1]? with
    | some (o, d) =>
      if o.cached then []
      else
        let ps := takePieces d.pieces e.2.1.length
        writesFrom (16 + e.1) (placeOf s c d) d.tm 0 (decide (1 < ps.length)) ps e.2.1 []
    | none => []

/-- The effect of completing: destinations in the cache, status word, element count. -/
def weltFinish (s : State) (c : CoreId) (wl : Fin 2) (l : List (WOpnd × Descr)) (r : WRes) : State :=
  let x := r.outs.foldl (fun x e =>
    match l[e.1]? with
    | some (o, d) => if o.cached then cacheWrite x (takePieces d.pieces e.2.1.length) e.2.1 else x
    | none => x) (getWelt s c wl)
  modWelt s c wl fun _ => { x.setSsw r.flags r.np with elems := x.elems + BitVec.ofNat 64 r.elems }

/-- The check-code events that an instruction presented now meets in the cache lines of its sources. -/
def weltCacheEvents (s : State) (c : CoreId) (wl : Fin 2) (word : Word128) (l : List (WOpnd × Descr)) (ev : List EccEvent) :
    State :=
  let q := weltSeq wl
  let x := getSeq s c q
  let live := (flightOf s c q word).isSome || (mayIssue s c q && fetched x == word && decide (x.infl.length < 2))
  if live then
    (ev.filter fun e => e.cache && l.any fun o => o.1.cached && !o.1.dst &&
      ((usedPieces o.1 o.2).any fun p => p.slot / 64 == e.at_)).foldl (fun s e => cacheError s c wl e.at_ e.ue) s
  else s

/-- A Welt instruction of the plain shape: read the sources, compute, write the destinations, complete. `own` are its
own faults, `held` its own condition, `notes` and `atIssue` what issue records, `compute` its results from its
operands' bytes and notes, `post` what else completing does. -/
def weltInstr (s : State) (c : CoreId) (wl : Fin 2) (word rsv : Word128) (ev : List EccEvent) (os : List WOpnd)
    (own : List (Nat × Bool)) (held : Bool) (notes : List Nat) (atIssue : State → State)
    (compute : (Nat → List Byte) → List Nat → WRes) (post : (Nat → List Byte) → State → State) : State :=
  let q := weltSeq wl
  let v := viewOf s c q word
  let l := os.map fun o => (o, opnd v c q o.idx)
  let s := weltCacheEvents s c wl word l ev
  engineInstr s c q word rsv ev
    { names := os.map (·.idx), ops := (os.filter fun o => !o.cached).map fun o => (o.idx, if o.dst then 3 else 0),
      bad := weltBad s c l own, held := if held || cacheBusy s c wl os then some .waitDrain else none,
      notes := notes, atIssue := atIssue }
    fun s y =>
      let got := y.got.getD 0 []
      let data := weltData (getWelt s c wl) l got
      match y.got.length with
      | 0 => .access (weltReads s c l)
      | 1 => if weltPoison (getWelt s c wl) l got then .fault 0x0A else .access (weltWrites s c l (compute data y.notes))
      | _ => .finish fun s => post data (weltFinish s c wl l (compute data y.notes))

/-- The WOP function takes operand B as a stream or a repeated stream. -/
def wopUsesB (fn bm : Nat) : Bool := !isUnary fn && bm != 1

/-- WOP (R170). -/
def execWop (c : CoreId) (wl : Fin 2) (w : BitVec 120) (ev : List EccEvent) (s : State) : Out :=
  let word := instrWord 0x10 w
  let af := fld w 84 4
  let bf := fld w 80 4
  let df := fld w 76 4
  let fn := fld w 70 6
  let rnd := fld w 67 3
  let prec := bit w 66
  let bm := fld w 64 2
  let n := fld w 48 16
  let g := fld w 0 16
  let useB := wopUsesB fn bm
  let useC := fn == 3
  let nb := if bm = 2 then n / g else if bm = 3 then g else n
  let os : List WOpnd :=
    [{ idx := fld w 112 8, cached := bit w 47, dst := false, len := some (streamBytes af n) }] ++
    (if useB then [{ idx := fld w 104 8, cached := bit w 46, dst := false, len := some (streamBytes bf nb) }] else []) ++
    (if useC then [{ idx := fld w 96 8, cached := bit w 45, dst := false, len := some (streamBytes df n) }] else []) ++
    [{ idx := fld w 88 8, cached := bit w 44, dst := true, len := some (streamBytes df n) }]
  let rsv := mask128 43 32 ||| (if bm = 0 then mask128 31 0 else if bm = 1 then 0 else mask128 31 16) |||
    (if useB then 0 else mask128 83 80 ||| mask128 46 46) ||| (if isUnary fn || useB then 0 else mask128 111 104) |||
    (if useC then 0 else mask128 45 45)
  let fmts := [af, df] ++ (if useB then [bf] else [])
  let opBad := decide (0x13 < fn) || decide (3 < rnd) || (bm != 0 && isUnary fn) || (prec && decide (7 < fn))
  let fmtBad := fmts.any fun f => !plainFmt f || (prec && f != 0 && f != 1 && f != 8)
  let geom := n == 0 || (decide (2 ≤ bm) && (g == 0 || n % g != 0)) || (fn == 0x12 && n % 2 != 0)
  let ix := fun i => if bm = 0 then i else if bm = 1 then 0 else if bm = 2 then i / g else i % g
  let run := fun (data : Nat → List Byte) =>
    let a := elemsOf af (data 0) n
    let b := if useB then elemsOf bf (data 1) nb else [fld w 0 32]
    let cc := if useC then elemsOf df (data (if useB then 2 else 1)) n else []
    wopElems fn prec (rndMode rnd) af (if useB then bf else cF32) df a b cc ix n
  .next (weltInstr s c wl word rsv ev os [(0x10, opBad), (0x11, fmtBad), (0x12, geom)] false [] id
    (fun data _ =>
      let r := run data
      { outs := [(os.length - 1, packElems df r.bits, 0)], flags := r.flags, np := firstNan df [] r.bits, elems := n })
    fun _ s => s)

/-- The job on core c declares FX40 (FLAGS bit 1). -/
def fx40Declared (s : State) (c : CoreId) : Bool :=
  match jobOn s c with
  | some j => bit j.flags 1
  | none => false

/-- Stochastic rounding is applied: not under profile G (R4). -/
def srApplied (s : State) : Bool := s.flash.profile != 1

/-- The rounding of element i: stochastic with its draw, or the mode given. -/
def elemRnd (sr : Bool) (key : BitVec 128) (purpose sid tile : Nat) (step : BitVec 32) (pos : Nat) (mode : Nat) (i : Nat) : Rnd :=
  if sr then { mode := 4, draw := srDraw key purpose sid tile step ((pos + i) % 2 ^ 32) } else rndMode mode

/-- WCVT (R171, R166, R197 to R199). Notes: chain position, step, whether stochastic rounding applies. -/
def execWcvt (c : CoreId) (wl : Fin 2) (w : BitVec 120) (ev : List EccEvent) (s : State) : Out :=
  let word := instrWord 0x11 w
  let af := fld w 84 4
  let df := fld w 80 4
  let rnd := fld w 77 3
  let n := fld w 48 16
  let ca := bit w 74
  let cd := bit w 73
  let sa := hasScale af
  let sd := hasScale df
  let os : List WOpnd :=
    [{ idx := fld w 112 8, cached := ca, dst := false, len := some (streamBytes af n) }] ++
    (if sa then [{ idx := fld w 104 8, cached := ca, dst := false, len := some (cdiv n 32) }] else []) ++
    [{ idx := fld w 96 8, cached := cd, dst := true, len := some (streamBytes df n) }] ++
    (if sd then [{ idx := fld w 88 8, cached := cd, dst := true, len := some (cdiv n 32) }] else [])
  let rsv := mask128 72 64 ||| mask128 15 0 ||| (if rnd = 4 then 0 else mask128 47 16) ||| (if sd then 0 else mask128 76 76)
  let k := if sa then 2 else 1
  let x := getWelt s c wl
  let start := if bit w 75 then x.pos.toNat else 0
  let sr := rnd == 4 && srApplied s
  let fx := (af == 0xC || df == 0xC) && !fx40Declared s c
  .next (weltInstr s c wl word rsv ev os
    [(0x10, decide (4 < rnd)), (0x11, decide (0xD < af) || decide (0xD < df)), (0x12, n == 0), (0x15, fx)] false
    [start, x.step.toNat, b2n sr] (fun s => modWelt s c wl fun x => { x with pos := BitVec.ofNat 32 (start + n) })
    (fun data notes =>
      let sr := notes.getD 2 0 == 1
      let bits := elemsOf af (data 0) n
      let vals := elemVals af (data 0) (data 1) n
      let r := cvtElems df (bit w 76) (elemRnd sr x.key 1 (fld w 32 16) (fld w 16 16) (BitVec.ofNat 32 (notes.getD 1 0))
        (notes.getD 0 0) (if rnd = 4 then 0 else rnd)) (bits.zip vals)
      { outs := [(k, packElems df r.bits, 0)] ++ (if sd then [(k + 1, r.scales.map (BitVec.ofNat 8 ·), 0)] else []),
        flags := r.flags ||| flIf (rnd == 4 && !sr) flSR, np := firstNan df r.scales r.bits, elems := n })
    fun _ s => s)

/-- The opcodes of the Welt that keep a carry. -/
def wredInFlight (s : State) (c : CoreId) (wl : Fin 2) : Bool :=
  (getSeq s c (weltSeq wl)).infl.any fun y => opcodeOf y.word == 0x12

/-- The results of a WRED (R172, R166). -/
def wredRun (x : WeltState) (af df fn g n : Nat) (ax chn : Bool) (rnd : Rnd) (l : List Byte) : List Red × Elems :=
  let src := (elemsOf af l n).map (srcVal rne af)
  let rows := chunk g (src.map (·.1))
  let seqs := if ax then columnsOf g rows else rows
  let carry := if chn then x.carry.map fun k => (k.vals.zip k.idxs).map fun e =>
    ({ v := f32Val e.1, i := e.2.toInt } : Red) else none
  let base := if chn then (match x.carry with | some k => k.count | none => 0) else 0
  let r := reduceAll fn (!ax) base carry seqs
  let out := r.1.map fun e => if fn = 5 then ((BitVec.ofInt 32 e.i).toNat, (0 : Fl)) else convert df rnd e.v
  (r.1, { bits := out.map (·.1), flags := orFl (src.map (·.2)) ||| r.2 ||| orFl (out.map (·.2)) })

/-- WRED (R166, R172). -/
def execWred (c : CoreId) (wl : Fin 2) (w : BitVec 120) (ev : List EccEvent) (s : State) : Out :=
  let word := instrWord 0x12 w
  let af := fld w 100 4
  let df := fld w 96 4
  let fn := fld w 93 3
  let ax := bit w 92
  let chn := bit w 91
  let rnd := fld w 86 3
  let n := fld w 64 16
  let g := fld w 48 16
  let outs := if ax then g else n / g
  let os : List WOpnd :=
    [{ idx := fld w 112 8, cached := bit w 90, dst := false, len := some (streamBytes af n) },
     { idx := fld w 104 8, cached := bit w 89, dst := true, len := some (streamBytes df outs) }]
  let fmtBad := !plainFmt af || (if fn = 5 then df != 0xD else !plainFmt df)
  let chain := chn && (match (getWelt s c wl).carry with | some k => k.vals.length != outs | none => true)
  let run := fun (x : WeltState) (l : List Byte) => wredRun x af df fn g n ax chn (rndMode rnd) l
  let x := getWelt s c wl
  .next (weltInstr s c wl word (mask128 85 80 ||| mask128 47 0) ev os
    [(0x10, decide (5 < fn) || decide (3 < rnd)), (0x11, fmtBad), (0x12, n == 0 || g == 0 || n % g != 0), (0x14, chain)]
    (wredInFlight s c wl) [] id
    (fun data _ =>
      let r := (run x (data 0)).2
      { outs := [(1, packElems df r.bits, 0)], flags := r.flags, np := firstNan df [] r.bits, elems := n })
    fun data s =>
      let r := (run x (data 0)).1
      let base := if chn then (match x.carry with | some k => k.count | none => 0) else 0
      modWelt s c wl fun x => { x with carry := some {
        vals := r.map fun e => f32Bits e.v, idxs := r.map fun e => BitVec.ofInt 32 e.i
        count := base + (if ax then n / g else g) } })

/-- The operands of a WSMX: scores, exponentials or weights, statistics. -/
def wsmxOpnds (w : BitVec 120) (alen dlen clen : Nat) : List WOpnd :=
  [{ idx := fld w 112 8, cached := bit w 85, dst := false, len := some alen },
   { idx := fld w 104 8, cached := bit w 84, dst := true, len := some dlen },
   { idx := fld w 96 8, cached := bit w 83, dst := true, len := some clen }]

/-- A statistics pair as two FP32 values. -/
def pairBytes (m s : Val) : List Byte := leBytes 4 (convert cF32 rne m).1 ++ leBytes 4 (convert cF32 rne s).1

/-- What a WSMX writes. -/
def softRes (df n : Nat) (rows : List SoftRow) : WRes :=
  let bits := rows.flatMap (·.bits)
  { outs := [(1, packElems df bits, 0), (2, rows.flatMap fun r => pairBytes r.m r.s, 0)],
    flags := orFl (rows.map (·.flags)), np := firstNan df [] bits, elems := n }

/-- WSMX EXPS (R173). -/
def execWsmxExps (c : CoreId) (wl : Fin 2) (w : BitVec 120) (ev : List EccEvent) (s : State) : Out :=
  let word := instrWord 0x13 w
  let af := fld w 92 4
  let df := fld w 88 4
  let fn := fld w 86 2
  let n := fld w 64 16
  let g := fld w 48 16
  let lim := if fld w 32 16 = 0 then g else fld w 32 16
  let os := wsmxOpnds w (streamBytes af n) (streamBytes df n) (8 * (n / g))
  .next (if fn = 1 then s else weltInstr s c wl word (mask128 82 80) ev os
    [(0x10, decide (1 < fn)), (0x11, !plainFmt af || !plainFmt df), (0x12, n == 0 || g == 0 || n % g != 0)] false [] id
    (fun data _ =>
      let src := (elemsOf af (data 0) n).map (srcVal rne af)
      let r := softRes df n ((chunk g (src.map (·.1))).map (softRow df (f32Val (w.extractLsb' 0 32)) lim))
      { r with flags := r.flags ||| orFl (src.map (·.2)) })
    fun _ s => s)

/-- WSMX MERGE (R173): N counts pairs of FP32 values. -/
def execWsmxMerge (c : CoreId) (wl : Fin 2) (w : BitVec 120) (ev : List EccEvent) (s : State) : Out :=
  let word := instrWord 0x13 w
  let af := fld w 92 4
  let df := fld w 88 4
  let n := fld w 64 16
  let g := fld w 48 16
  let os := wsmxOpnds w (8 * n) (streamBytes df n) (8 * (n / g))
  .next (if fld w 86 2 ≠ 1 then s else weltInstr s c wl word (mask128 82 80 ||| mask128 47 0) ev os
    [(0x11, af != 0xB || !plainFmt df), (0x12, n == 0 || g == 0 || n % g != 0)] false [] id
    (fun data _ =>
      let ps := (List.range n).map fun i =>
        (decodeElem cF32 (leAt (data 0) (8 * i) 4), decodeElem cF32 (leAt (data 0) (8 * i + 4) 4))
      softRes df n ((chunk g ps).map (mergeRow df)))
    fun _ s => s)

/-- Rows of RB bytes in a table's stream. -/
def tableRows (d : Descr) (rb : Nat) : Nat := if rb = 0 then 0 else d.bytes / rb

/-- The pieces of table row i (R174). -/
def rowPiecesOf (d : Descr) (rb i : Nat) : List Piece := takePieces (dropPieces d.pieces (i * rb)) rb

/-- The index phases of WGTH and WSCT (R131, R174): the indices once known, or what to do next. `off` phases of the
instruction's own reads follow. -/
def indexPhase (s : State) (c : CoreId) (di : Descr) (sel : Bool) (iw n : Nat) (y : InFlight) :
    Except Phase (List Nat × Nat × Nat) :=
  let head := maskHeadOf (opndData (y.got.getD 0 []) 64)
  if y.got.isEmpty then
    .error (.access (if sel then maskHeadReads s c 64 di 0
      else reads 64 (placeOf s c di) di.tm 0 (takePieces di.pieces (n * iw))))
  else if (y.got.getD 0 []).any (·.poison) then .error (.fault 0x0A)
  else if !sel then
    .ok ((List.range n).map fun i => leAt (opndData (y.got.getD 0 []) 64) (i * iw) iw, 1, 2 ^ 32)
  else if head.bad di.bytes then .error (.fault 0x23)
  else if y.got.length = 1 then .error (.access (maskEntryReads s c 64 di 0 head))
  else if (y.got.getD 1 []).any (·.poison) then .error (.fault 0x0A)
  else
    let e := maskEntries head (opndData (y.got.getD 1 []) 64)
    if rising e then .ok (e, 2, head.items) else .error (.fault 0x23)

/-- The checks of WGTH and WSCT common to both: 0x12 beside R163 and R164. -/
def gatherGeom (w : BitVec 120) (dt : Descr) (cachedT : Bool) : Bool :=
  let rb := fld w 48 16
  rb == 0 || (!bit w 92 && fld w 64 16 == 0) || (!cachedT && dt.tm != 0 && rb % 64 != 0)

/-- WGTH (R174, R181). -/
def execWgth (c : CoreId) (wl : Fin 2) (w : BitVec 120) (ev : List EccEvent) (s : State) : Out :=
  let q := weltSeq wl
  let word := instrWord 0x14 w
  let v := viewOf s c q word
  let sel := bit w 92
  let iw := if bit w 93 then 4 else 2
  let n := fld w 64 16
  let rb := fld w 48 16
  let os : List WOpnd :=
    [{ idx := fld w 112 8, cached := bit w 91, dst := false, len := none },
     { idx := fld w 104 8, cached := false, dst := false, len := some (if sel then 64 else n * iw) },
     { idx := fld w 96 8, cached := bit w 90, dst := true, len := some (if sel then 0 else n * rb) }]
  let l := os.map fun o => (o, opnd v c q o.idx)
  let dt := opnd v c q (fld w 112 8)
  let di := opnd v c q (fld w 104 8)
  let dd := opnd v c q (fld w 96 8)
  let s := weltCacheEvents s c wl word l ev
  .next (engineInstr s c q word (mask128 89 80 ||| mask128 47 0) ev
    { names := os.map (·.idx), ops := ((os.drop 1).filter fun o => !o.cached).map fun o => (o.idx, if o.dst then 3 else 0),
      bad := weltBad s c l [(0x10, fld w 94 2 != 0), (0x12, gatherGeom w dt (bit w 91))],
      held := if cacheBusy s c wl os then some .waitDrain else none }
    fun s y =>
      match indexPhase s c di sel iw n y with
      | .error p => p
      | .ok (ix, k, lim) =>
        let rows := tableRows dt rb
        let ok := fun i => decide (i < rows) && decide (i < lim)
        let good := ix.filter ok
        let cachedT := bit w 91
        let x := getWelt s c wl
        if dd.bytes < ix.length * rb then .fault 0x12
        else if y.got.length = k then
          .access (if cachedT then [] else good.flatMap fun i => reads 0 (placeOf s c dt) dt.tm 0 (rowPiecesOf dt rb i))
        else
          let got := y.got.getD k []
          if y.got.length = k + 1 && (got.any (·.poison) || (cachedT && good.any fun i => cachePoison x (rowPiecesOf dt rb i))) then .fault 0x0A
          else
            let flat := opndData got 0
            let row := fun i =>
              if !ok i then List.replicate rb 0
              else if cachedT then cacheRead x (rowPiecesOf dt rb i)
              else slice flat (good.idxOf i * rb) rb
            let outs := ix.map fun i => (row i, !ok i)
            if y.got.length = k + 1 then
              .access (if bit w 90 then [] else outs.zipIdx.flatMap fun e =>
                let ps := rowPiecesOf dd rb e.2
                writesFrom 16 (placeOf s c dd) dd.tm 0 true ps e.1.1 (ps.map fun _ => e.1.2))
            else .finish fun s =>
              let r : WRes := { outs := [(2, outs.flatMap (·.1), 0)], flags := 0, np := none, elems := ix.length }
              let s := weltFinish s c wl l r
              if ix.all ok then s else faultNext s c q 0x21)

/-- An element-wise add of two rows with round-to-nearest-even (R174). -/
def addRows (code : Nat) (a b : List Byte) : List Byte × Fl :=
  let n := a.length * 8 / elemBits code
  let out := (List.range n).map fun i =>
    let t := addV false (decodeElem code (elemAt code a i)) (decodeElem code (elemAt code b i))
    let r := convert code rne t.1
    (r.1, t.2 ||| r.2)
  (packElems code (out.map (·.1)), orFl (out.map (·.2)))

/-- The rows a scatter writes, in index order: row number and bytes (R174). `table` holds each row's present bytes. -/
def scatterRows (code : Option Nat) : List (Nat × List Byte) → List (Nat × List Byte) → List (Nat × List Byte) × Fl
  | [], _ => ([], 0)
  | (i, r) :: t, table =>
    let old := match table.find? fun e => e.1 == i with | some e => e.2 | none => []
    let x := match code with | some f => addRows f old r | none => (r, 0)
    let u := scatterRows code t ((i, x.1) :: table)
    ((i, x.1) :: u.1, x.2 ||| u.2)

/-- WSCT (R174, R181). -/
def execWsct (c : CoreId) (wl : Fin 2) (w : BitVec 120) (ev : List EccEvent) (s : State) : Out :=
  let q := weltSeq wl
  let word := instrWord 0x15 w
  let v := viewOf s c q word
  let sel := bit w 92
  let iw := if bit w 93 then 4 else 2
  let n := fld w 64 16
  let rb := fld w 48 16
  let fn := fld w 94 2
  let code : Option Nat := if fn = 1 then some cF32 else if fn = 2 then some 8 else none
  let ct := bit w 91
  let cs := bit w 90
  let os : List WOpnd :=
    [{ idx := fld w 112 8, cached := cs, dst := false, len := some (if sel then 0 else n * rb) },
     { idx := fld w 104 8, cached := false, dst := false, len := some (if sel then 64 else n * iw) },
     { idx := fld w 96 8, cached := ct, dst := true, len := none }]
  let l := os.map fun o => (o, opnd v c q o.idx)
  let ds := opnd v c q (fld w 112 8)
  let di := opnd v c q (fld w 104 8)
  let dt := opnd v c q (fld w 96 8)
  let s := weltCacheEvents s c wl word l ev
  .next (engineInstr s c q word (mask128 89 80 ||| mask128 47 0) ev
    { names := os.map (·.idx), ops := ((os.take 2).filter fun o => !o.cached).map fun o => (o.idx, 0),
      bad := weltBad s c l [(0x10, fn == 3), (0x12, gatherGeom w dt ct || (fn == 1 && rb % 4 != 0) || (fn == 2 && rb % 2 != 0))],
      held := if cacheBusy s c wl os then some .waitDrain else none }
    fun s y =>
      match indexPhase s c di sel iw n y with
      | .error p => p
      | .ok (ix, k, lim) =>
        let rows := tableRows dt rb
        let ok := fun i => decide (i < rows) && decide (i < lim)
        let good := (ix.filter ok).eraseDups
        let x := getWelt s c wl
        let srcPs := takePieces ds.pieces (ix.length * rb)
        if ds.bytes < ix.length * rb then .fault 0x12
        else if y.got.length = k then
          .access ((if cs then [] else reads 0 (placeOf s c ds) ds.tm 0 srcPs) ++
            (if ct || code.isNone then [] else good.flatMap fun i => reads 1 (placeOf s c dt) 0 0 (rowPiecesOf dt rb i)))
        else
          let got := y.got.getD k []
          let bad := got.any (·.poison) || (cs && cachePoison x srcPs) ||
            (ct && code.isSome && good.any fun i => cachePoison x (rowPiecesOf dt rb i))
          if y.got.length = k + 1 && bad then .fault 0x0A
          else
            let src := if cs then cacheRead x srcPs else opndData got 0
            let tab := opndData got 1
            let table := good.zipIdx.map fun e =>
              (e.1, if ct then cacheRead x (rowPiecesOf dt rb e.1) else slice tab (e.2 * rb) rb)
            let r := scatterRows code ((ix.zipIdx.filter fun e => ok e.1).map fun e => (e.1, slice src (e.2 * rb) rb)) table
            if y.got.length = k + 1 then
              .access (if ct then [] else r.1.flatMap fun e =>
                writesFrom 16 (placeOf s c dt) dt.tm 0 true (rowPiecesOf dt rb e.1) e.2 [])
            else .finish fun s =>
              let s := weltFinish s c wl l { outs := [], flags := r.2, np := none, elems := ix.length }
              let s := if ct then modWelt s c wl fun x => r.1.foldl (fun x e => cacheWrite x (rowPiecesOf dt rb e.1) e.2) x else s
              if ix.all ok then s else faultNext s c q 0x21)

/-- The updated elements of a WOPT (R175). -/
def woptRun (gf wf n : Nat) (adam : Bool) (rnd : Nat → Rnd) (data : Nat → List Byte) : List Updated :=
  let p := optParOf (data (if adam then 4 else 3))
  (List.range n).map fun i =>
    optElem p adam wf (rnd i) (elemAt 0xC (data 0) i) (decodeElem gf (elemAt gf (data 1) i))
      (decodeElem cF32 (elemAt cF32 (data 2) i)) (if adam then decodeElem cF32 (elemAt cF32 (data 3) i) else .fin false 0 0)

/-- WOPT (R175, R166, R199). Notes as WCVT. -/
def execWopt (c : CoreId) (wl : Fin 2) (w : BitVec 120) (ev : List EccEvent) (s : State) : Out :=
  let word := instrWord 0x16 w
  let gf := fld w 68 4
  let wf := fld w 64 4
  let fn := fld w 62 2
  let sr := bit w 61
  let n := fld w 44 16
  let adam := fn == 1
  let src := fun (i len : Nat) => ({ idx := i, cached := false, dst := false, len := some len } : WOpnd)
  let dst := fun (i len : Nat) => ({ idx := i, cached := false, dst := true, len := some len } : WOpnd)
  let mw := fld w 112 8
  let d1 := fld w 96 8
  let d2 := fld w 88 8
  let os := [src mw (5 * n), src (fld w 104 8) (streamBytes gf n), src d1 (4 * n)] ++ (if adam then [src d2 (4 * n)] else []) ++
    [{ src (fld w 72 8) 64 with len := some 64 }] ++ [dst mw (5 * n), dst d1 (4 * n)] ++ (if adam then [dst d2 (4 * n)] else []) ++
    [dst (fld w 80 8) (streamBytes wf n)]
  let x := getWelt s c wl
  let start := if bit w 60 then x.pos.toNat else 0
  let rs := sr && srApplied s
  let k := if adam then 5 else 4
  let fmtBad := (gf != 8 && gf != 0xB) || !(wf == 0 || wf == 1 || wf == 8 || wf == 9 || wf == 0xB)
  .next (weltInstr s c wl word (mask128 11 0 ||| (if sr then 0 else mask128 43 12)) ev os
    [(0x10, decide (1 < fn)), (0x11, fmtBad), (0x12, n == 0), (0x15, !fx40Declared s c)] false
    [start, x.step.toNat, b2n rs] (fun s => modWelt s c wl fun x => { x with pos := BitVec.ofNat 32 (start + n) })
    (fun data notes =>
      let rs := notes.getD 2 0 == 1
      let u := woptRun gf wf n adam (elemRnd rs x.key 2 (fld w 28 16) (fld w 12 16) (BitVec.ofNat 32 (notes.getD 1 0))
        (notes.getD 0 0) 0) data
      let work := u.map (·.work)
      let np := (firstNan 0xC [] (u.map (·.master))).or ((firstNan cF32 [] (u.map (·.m))).or
        ((firstNan cF32 [] (u.map (·.v))).or (firstNan wf [] work)))
      { outs := [(k, packElems 0xC (u.map (·.master)), 0), (k + 1, packElems cF32 (u.map (·.m)), 0)] ++
          (if adam then [(k + 2, packElems cF32 (u.map (·.v)), 0), (k + 3, packElems wf work, 0)]
           else [(k + 2, packElems wf work, 0)]),
        flags := orFl (u.map (·.flags)) ||| flIf (sr && !rs) flSR, np := np, elems := n })
    fun _ s => s)

/-- The sampler's decision on a 32-bit value (R204): the low RATE bits are zero. -/
def sampled (rate : BitVec 5) (v : BitVec 64) : Bool := v.toNat % 2 ^ 32 % 2 ^ clampNat 6 16 rate.toNat == 0

/-- The state with the numeric block of a core changed. -/
def modNum (s : State) (c : CoreId) (f : NumState → NumState) : State := modCore s c fun k => { k with num := f k.num }

/-- The reference terms of one output: stored weights against the activations, in K order. -/
def shadowTerms (rec act scales : List Byte) (af bf sp k : Nat) : List (Val × Val) :=
  let a := elemVals af act scales k
  (recordTerms rec bf sp k).map fun t => (t.v, a.getD t.k (.fin false 0 0))

/-- The bins of every output of an executed WSHDW (R176, R205). -/
def shadowBins (af bf sp k no m ofmt : Nat) (data : Nat → List Byte) (scaled : Bool) : List Nat :=
  let rb := rowBytes bf sp k
  let we := elemBits af
  let tile := data (if scaled then 3 else 2)
  (List.range m).flatMap fun j =>
    let act := (List.range (cdiv (k * we) 8)).map fun b => BitVec.ofNat 8 (bitsAt (data 0) (j * k * we + 8 * b) 8)
    let sc := if scaled then slice (data 1) (j * (k / 32)) (k / 32) else []
    (List.range no).map fun o =>
      let s := shadowSums (shadowTerms (slice (data (if scaled then 2 else 1)) (o * rb) rb) act sc af bf sp k)
      shadowBin ofmt (decodeElem ofmt (elemAt ofmt tile (j * no + o))) s.1 s.2

/-- A NUMERIC record (R206, Table 17-2). -/
def numericRecord (s : State) (c : CoreId) (wl : Fin 2) (sev : BitVec 8) : State :=
  let n := (getCore s c).num
  writeRecord s { recOf s 2 c.val wl.val 4 sev 0 with
    op := BitVec.ofNat 16 (0x17 + 256 * (4 + wl.val)), job := (getCore s c).jobId.setWidth 8,
    detail := leBytes 8 n.log.toNat ++ leBytes 2 (n.window.foldl (· + ·) 0) }

/-- One output's hard alarm (R206, R409). -/
def hardAlarm (s : State) (c : CoreId) (wl : Fin 2) (last out bin : Nat) : State :=
  let s := modNum s c fun n => { n with
    hard := satAdd n.hard 1, hardNew := true
    log := BitVec.ofNat 64 (last + 4 * wl.val + out % 32768 * 8 + bin * 2 ^ 18 + (getCore s c).jobId.toNat * 2 ^ 22 + 2 ^ 28)
    hardTimes := (last, s.reg.time.toNat) :: recent s dayNs n.hardTimes }
  let s := bumpGen s
  let many := 2 ≤ ((getCore s c).num.hardTimes.filter fun e => e.1 == last).length
  let s := if many then modLast s c (finOf 4 (by decide) last) fun x => { x with suspect := true } else s
  numericRecord s c wl 2

/-- Deposits and alarms of an executed WSHDW (R205, R206). -/
def shadowFinish (s : State) (c : CoreId) (wl : Fin 2) (last : Nat) (bins : List Nat) : State :=
  let n0 := (getCore s c).num
  let hb := clampNat 13 15 n0.hardBin.toNat
  let sb := clampNat 8 14 n0.softBin.toNat
  let hits := (bins.filter fun b => decide (sb ≤ b)).length
  let win := (n0.window ++ [hits]).drop (n0.window.length + 1 - 64)
  let s := modNum s c fun n => { n with
    bins := bins.foldl (fun v b => if h : b < 16 then vmod v ⟨b, h⟩ fun k => satAdd k 1 else v) n.bins
    window := win }
  let s := (bins.zipIdx.filter fun e => decide (hb ≤ e.1)).foldl (fun s e => hardAlarm s c wl last e.2 e.1) s
  let s := modWelt s c wl fun x => { x with shRun := satAdd x.shRun 1 }
  if clampNat 1 255 n0.softLim.toNat < win.foldl (· + ·) 0 then
    let s := numericRecord (modNum s c fun n => { n with
      soft := satAdd n.soft 1, softNew := true, softTimes := s.reg.time.toNat :: n.softTimes.take 63 }) c wl 1
    bumpGen (modNum s c fun n => { n with window := [] })
  else s

/-- WSHDW (R176, R204 to R207). Notes: 1 when the sampler executes it. -/
def execWshdw (c : CoreId) (wl : Fin 2) (w : BitVec 120) (ev : List EccEvent) (s : State) : Out :=
  let q := weltSeq wl
  let word := instrWord 0x17 w
  let v := viewOf s c q word
  let af := fld w 84 4
  let bf := fld w 80 4
  let sp := fld w 78 2
  let ofmt := fld w 74 4
  let k := fld w 58 16 + 1
  let no := fld w 48 10 + 1
  let m := fld w 42 6 + 1
  let last := fld w 40 2
  let scaled := hasScale af
  let src := fun (i len : Nat) => ({ idx := i, cached := false, dst := false, len := some len } : WOpnd)
  let os := [src (fld w 112 8) (cdiv (m * k * elemBits af) 8)] ++ (if scaled then [src (fld w 104 8) (m * (k / 32))] else []) ++
    [src (fld w 96 8) (no * rowBytes bf sp k), src (fld w 88 8) (m * no * elemBits ofmt / 8)]
  let l := os.map fun o => (o, opnd v c q o.idx)
  let d := takeFree s
  let go := sampled (getCore s c).num.rate d.1
  .next (engineInstr s c q word (mask128 39 0) ev
    { names := os.map (·.idx), ops := os.map fun o => (o.idx, 0),
      bad := weltBad s c l [(0x10, sp == 3), (0x11, !pairOk bf af || (cellOf bf sp).isNone || !(ofmt == 0xB || ofmt == 8 || ofmt == 9)),
        (0x12, decide (512 < no) || rlBad bf sp k || (scaled && k % 32 != 0))]
      notes := [b2n go], atIssue := fun s => (takeFree s).2 }
    fun s y =>
      if y.notes.getD 0 0 = 0 then .finish fun s => modWelt s c wl fun x => { x with shSkip := satAdd x.shSkip 1 }
      else if y.got.isEmpty then .access (weltReads s c l)
      else if (lastGot y).any (·.poison) then .fault 0x0A
      else .finish fun s =>
        let bins := shadowBins af bf sp k no m ofmt (weltData (getWelt s c wl) l (lastGot y)) scaled
        let hb := clampNat 13 15 (getCore s c).num.hardBin.toNat
        let s := shadowFinish s c wl last bins
        let s := modWelt s c wl fun x => { x.setSsw 0 none with elems := x.elems + BitVec.ofNat 64 (m * no) }
        if (getCore s c).num.hardKill && bins.any fun b => decide (hb ≤ b) then seqFault s c q 0x17 0x17 else s)

/-- One mask a selector writes: its header and entries (R130, R177). -/
structure SelMask where
  head : MaskHead
  ents : List Nat
  deriving DecidableEq, Repr

/-- The masks of all groups, in order, and the flags (R129, R177). -/
def selMasks (rows u sbits : Nat) (code : Nat) (theta : Option Val) (cap : Nat) (abs : Bool) (lo hi ch wid kind mpg step : Nat)
    (l : List Byte) : List SelMask × Fl :=
  let out := (List.range rows).map fun g =>
    let row := slice l (g * u * sbits / 8) (u * sbits / 8)
    let r := selectItems ((elemsOf code row u).map (decodeElem code)) theta cap abs lo hi
    ((List.range mpg).map fun j =>
      let e := (r.1.drop (j * ch)).take ch
      ({ head := { count := e.length, items := u, width := wid, kind := kind, group := g % 65536, step := step
                   first := j * ch, rsv := false }, ents := e } : SelMask), r.2)
  (out.flatMap (·.1), orFl (out.map (·.2)))

/-- The selectors (R129 to R131, R177): entries of every mask by plain writes, then each header by write-fill, in order.
`theta` none is SELTOP. -/
def selector (s : State) (c : CoreId) (wl : Fin 2) (word rsv : Word128) (ev : List EccEvent) (theta : Option Val)
    (cap : Nat) : State :=
  let q := weltSeq wl
  let v := viewOf s c q word
  let ds := opnd v c q (fld word 112 8)
  let dm := (opnd v c q (fld word 104 8)).plain
  let bf := bit word 103
  let code := if bf then 8 else cF32
  let sbits := elemBits code
  let wid := if bit word 101 then 4 else 2
  let ch := fld word 80 16
  let lo := fld word 56 8
  let hi := fld word 48 8
  let mpg := if ch = 0 then 0 else cdiv (cap + lo + hi) ch
  let u := ds.rowlen * 8 / sbits
  let os : List WOpnd := [{ idx := fld word 112 8, cached := false, dst := false, len := none },
    { idx := fld word 104 8, cached := false, dst := true, len := some 0 }]
  let l := [(os.headD { idx := 0, cached := false, dst := false, len := none }, ds),
    ({ idx := fld word 104 8, cached := false, dst := true, len := some 0 }, dm)]
  let geom := ch == 0 || ds.rowlen * 8 % sbits != 0 || dm.sa % 64 != 0 || dm.rowlen % 64 != 0 || decide (dm.stride % 64 ≠ 0) ||
    decide (dm.rowlen < 64 + cdiv (ch * wid) 64 * 64) || decide (dm.rows < ds.rows * mpg) || (wid == 2 && decide (65536 < u))
  engineInstr s c q word rsv ev
    { names := os.map (·.idx), ops := [(fld word 112 8, 0)] ++ (if dm.rmt then [(fld word 104 8, 3)] else []),
      bad := weltBad s c l [(0x12, geom)], notes := [(getWelt s c wl).step.toNat] }
    fun s y =>
      if y.got.isEmpty then .access (weltReads s c l)
      else if (y.got.getD 0 []).any (·.poison) then .fault 0x0A
      else
        let r := selMasks ds.rows u sbits code theta cap (bit word 102) lo hi ch wid (fld word 99 2) mpg (y.notes.getD 0 0)
          (opndData (y.got.getD 0 []) 0)
        let at_ := fun i => runPieces (wrap32 (dm.rowStart i))
        if y.got.length = 1 then
          .access (r.1.zipIdx.flatMap fun e =>
            let b := maskEntryBytes wid e.1.ents
            writesFrom 1 (placeOf s c dm) 0 0 true (dropPieces (at_ e.2 (64 + b.length)) 64) b [])
        else match r.1[y.got.length - 2]? with
          | some e => .access (writesFrom 2 (placeOf s c dm) 3 0 true (at_ (y.got.length - 2) 64) (maskHeadBytes e.head) [])
          | none => .finish fun s => modWelt s c wl fun x => { x.setSsw r.2 none with
              elems := x.elems + BitVec.ofNat 64 (ds.rows * u)
              selGroups := satAdd x.selGroups ds.rows, selMasks := satAdd x.selMasks r.1.length }

/-- SELTOP (R129, R177). -/
def execSeltop (c : CoreId) (wl : Fin 2) (w : BitVec 120) (ev : List EccEvent) (s : State) : Out :=
  .next (selector s c wl (instrWord 0x18 w) (mask128 98 96 ||| mask128 79 74 ||| mask128 47 0) ev none (fld w 64 10 + 1))

/-- SELTHR (R129, R177). -/
def execSelthr (c : CoreId) (wl : Fin 2) (w : BitVec 120) (ev : List EccEvent) (s : State) : Out :=
  .next (selector s c wl (instrWord 0x19 w) (mask128 98 96 ||| mask128 47 32) ev (some (f32Val (w.extractLsb' 0 32))) (fld w 64 16))

/-- CFILL (R178). -/
def execCfill (c : CoreId) (wl : Fin 2) (w : BitVec 120) (ev : List EccEvent) (s : State) : Out :=
  let word := instrWord 0x1A w
  let v := viewOf s c (weltSeq wl) word
  let os : List WOpnd := [{ idx := fld w 112 8, cached := false, dst := false, len := none },
    { idx := fld w 104 8, cached := true, dst := true, len := none }]
  let off := (opnd v c (weltSeq wl) (fld w 112 8)).bytes != (opnd v c (weltSeq wl) (fld w 104 8)).bytes
  .next (weltInstr s c wl word (mask128 103 0) ev os [(0x12, off)] false [] id
    (fun data _ => { outs := [(1, data 0, 0)], flags := 0, np := none, elems := 0 }) fun _ s => s)

/-- CEVICT (R178). -/
def execCevict (c : CoreId) (wl : Fin 2) (w : BitVec 120) (ev : List EccEvent) (s : State) : Out :=
  let word := instrWord 0x1B w
  let v := viewOf s c (weltSeq wl) word
  let os : List WOpnd := [{ idx := fld w 112 8, cached := false, dst := true, len := none },
    { idx := fld w 104 8, cached := true, dst := false, len := none }]
  let off := (opnd v c (weltSeq wl) (fld w 112 8)).bytes != (opnd v c (weltSeq wl) (fld w 104 8)).bytes
  .next (weltInstr s c wl word (mask128 103 0) ev os [(0x12, off)] false [] id
    (fun data _ => { outs := [(0, data 1, 0)], flags := 0, np := none, elems := 0 }) fun _ s => s)

/-- WSTEP with INC 0 (R179): WELT_STEP takes VALUE. -/
def execWstepLoad (c : CoreId) (wl : Fin 2) (w : BitVec 120) (s : State) : Out :=
  .next (if bit w 32 then s else controlInstr s c (weltSeq wl) (instrWord 0x1C w) (mask128 119 33) []
    (thenAdvance c (weltSeq wl) 0x1C fun s => modWelt s c wl fun x => { x with step := w.extractLsb' 0 32 }))

/-- WSTEP with INC 1 (R169, R179). -/
def execWstepInc (c : CoreId) (wl : Fin 2) (w : BitVec 120) (s : State) : Out :=
  .next (if bit w 32 then controlInstr s c (weltSeq wl) (instrWord 0x1C w) (mask128 119 33 ||| mask128 31 0) []
    (thenAdvance c (weltSeq wl) 0x1C fun s => modWelt s c wl fun x => { x with step := x.step + 1 }) else s)

/-- WFLAG OP 00 (R179): the OR word into bytes 0-3 of the slot at D, the rest zero, then cleared. OP 11 faults WELT_OP. -/
def execWflagStore (c : CoreId) (wl : Fin 2) (w : BitVec 120) (s : State) : Out :=
  let q := weltSeq wl
  let word := instrWord 0x1D w
  let v := viewOf s c q word
  let op := fld w 32 2
  let o := opnd v c q (fld w 112 8)
  .next (if op = 1 ∨ op = 2 then s
    else if op = 3 then controlInstr s c q word (mask128 111 34 ||| mask128 31 9) [] fun s => seqFault s c q 0x1D 0x10
    else engineInstr s c q word (mask128 111 34 ||| mask128 31 0) []
      { names := [fld w 112 8], ops := [(fld w 112 8, 1)], bad := descFault s c [o],
        held := if engineIdle s c q then none else some .waitDrain }
      fun s y =>
        if y.got.isEmpty then
          .access (writesFrom 0 (placeOf s c o) o.tm 0 false [{ slot := o.sa / 64 * 64, lo := 0, len := 64 }]
            (leBytes 4 (getWelt s c wl).sswOr.toNat ++ List.replicate 60 0) [])
        else .finish fun s => modWelt s c wl fun x => { x with sswOr := 0 })

/-- WFLAG OP 01 (R179): faults WELT_FLAG when a tested flag is set. -/
def execWflagCheck (c : CoreId) (wl : Fin 2) (w : BitVec 120) (s : State) : Out :=
  let q := weltSeq wl
  .next (if fld w 32 2 ≠ 1 then s
    else controlInstr s c q (instrWord 0x1D w) (mask128 119 34 ||| mask128 31 9) [] fun s =>
      if !engineIdle s c q then setSt s c q .waitDrain
      else if (getWelt s c wl).sswOr &&& w.extractLsb' 0 9 ≠ 0 then seqFault s c q 0x1D 0x16
      else thenAdvance c q 0x1D id s)

/-- WFLAG OP 10 (R179). -/
def execWflagClear (c : CoreId) (wl : Fin 2) (w : BitVec 120) (s : State) : Out :=
  let q := weltSeq wl
  .next (if fld w 32 2 ≠ 2 then s
    else controlInstr s c q (instrWord 0x1D w) (mask128 119 34 ||| mask128 31 0) [] fun s =>
      if !engineIdle s c q then setSt s c q .waitDrain
      else thenAdvance c q 0x1D (fun s => modWelt s c wl fun x => { x with sswOr := 0 }) s)

/-- CACHE_SEGMENT_REMAP (R182): with no job on the core, a permanent segment takes the spare; a second one makes the
core LOST. -/
def execCacheSegmentRemap (c : CoreId) (wl : Fin 2) (seg : Fin 8) (s : State) : Out :=
  let x := getWelt s c wl
  .next (if (getCore s c).jobId ≠ 0 || !x.permSegs.contains seg.val then s
    else if x.spSeg = 0xF then
      let s := modWelt s c wl fun x => { x with
        permSegs := setDel x.permSegs seg.val, spSeg := BitVec.ofNat 4 seg.val
        ueLines := x.ueLines.filter fun e => e.1 / 1024 != seg.val
        ceTimes := x.ceTimes.filter fun e => e.1 != seg.val }
      bumpGen (condAppend s (unitWord 2 c.val wl.val) 0x0B 1 (BitVec.ofNat 16 seg.val) 0)
    else loseCore (condAppend s (unitWord 0 c.val 0) 0x01 1 0 0) c)

end Sys2Proof.Machine
end

