-- ==== Sys2Proof/Machine/RegFile.lean ====
section
/-!
DEFINITION. The registers that REGRD and REGWR reach (R44, R305 to R307) as one table: where each register lies, how it
reads (Tables 02-6 to 18-8), which bits REGWR may write, when, and what a write does (R45, R82, R107, R137, R160, R186,
R209, R238, R264, R287, R360, R380, R446).
-/
namespace Sys2Proof.Machine

/-- A register array of the allow-list (Table 12-6): its place, write condition and mask, its value, the status a write
of a new value ends with (0 when allowed), and the write itself: new value, then the bits of MASK, of instance i. -/
structure RegRow where
  addr  : Nat
  step  : Nat
  inst  : Nat
  cond  : Nat
  wmask : Word
  read  : State → Nat → Word
  check : State → Nat → Word → Word → BitVec 16
  write : State → Nat → Word → Word → State

/-- A word from its fields, each a place and a value. -/
def pk (l : List (Nat × Nat)) : Word := BitVec.ofNat 64 (l.foldl (fun n x => n + x.2 * 2 ^ x.1) 0)

/-- A register that REGWR may not write. -/
def roReg (addr step inst : Nat) (read : State → Nat → Word) : RegRow :=
  { addr := addr, step := step, inst := inst, cond := 0, wmask := 0, read := read,
    check := fun _ _ _ _ => 0, write := fun s _ _ _ => s }

/-- BAD_FORM unless every value lies within its limits. -/
def within (l : List (Nat × Nat × Nat)) : BitVec 16 :=
  if l.all fun x => decide (x.2.1 ≤ x.1) && decide (x.1 ≤ x.2.2) then 0 else 4

/-- A register that REGWR may write under a condition. -/
def rwReg (addr step inst cond : Nat) (wmask : Word) (read : State → Nat → Word)
    (check : State → Nat → Word → Word → BitVec 16) (write : State → Nat → Word → Word → State) : RegRow :=
  { addr := addr, step := step, inst := inst, cond := cond, wmask := wmask, read := read, check := check, write := write }

/-- No further check. -/
def noCheck : State → Nat → Word → Word → BitVec 16 := fun _ _ _ _ => 0

/-- A W1C bit of a stored word: writing 1 clears it. -/
def w1c {w : Nat} (x : BitVec w) (i : Nat) (v m : Word) : BitVec w := if bit v i && bit m i then setBit x i false else x

/-- The address of the control block of core c (R44). -/
def coreBase (c : CoreId) : Nat := 0x0F0000000000 + c.val * 0x01000000

/-- JOB_CORE_ID (Table 02-6). -/
def coreIdWord (s : State) (c : CoreId) : Word :=
  let f := (fieldOf s c).val
  pk [(0, c.val), (4, f / 3), (6, f % 3), (8, f / 6), (9, b2n (f % 3 != 1))]

/-- JOB_SEQ_RUN as written: the sequencers whose bits change stop or go on; a dormant one starts at instruction 0 of
half 0 (Table 02-8, R45, R318). -/
def writeSeqRun (s : State) (c : CoreId) (v : Word) : State :=
  modCore s c fun k => { k with
    seqRun := v.setWidth 16
    seqs := (allFin 16).foldl (fun l q =>
      if bit v q.val && !bit k.seqRun q.val then
        vmod l q fun x => { x with st := if x.st = .halted && !x.ended then .issuing else x.st }
      else l) k.seqs }

/-- The control registers of core c (Table 02-5). -/
def jobRows (c : CoreId) : List RegRow :=
  let b := coreBase c
  [ roReg b 8 1 (fun s _ => coreIdWord s c),
    roReg (b + 8) 8 1 (fun s _ => let k := getCore s c
      pk [(0, k.st.code), (8, k.jobId.toNat), (16, b2n k.fenced)]),
    rwReg (b + 0x10) 8 1 3 0xFFFF (fun s _ => (getCore s c).seqRun.setWidth 64) noCheck
      (fun s _ v _ => writeSeqRun s c v),
    roReg (b + 0x18) 8 1 (fun s _ => (getCore s c).seqErr.setWidth 64),
    roReg (b + 0x20) 8 1 (fun s _ => (getCore s c).clGate.setWidth 64),
    roReg (b + 0x28) 8 1 (fun s _ => (getCore s c).frameSel.setWidth 64),
    roReg (b + 0x30) 8 1 (fun s _ => (getCore s c).cycles),
    roReg (b + 0x100000) 0x40000 16 (fun s i => let x := getSeq s c (seqOf i)
      pk [(0, x.pc), (12, b2n x.half)]),
    roReg (b + 0x100008) 0x40000 16 (fun s i => let x := getSeq s c (seqOf i)
      pk [(0, x.st.code), (4, x.infl.length), (6, b2n x.altReady), (16, x.lastOpc.toNat), (24, x.fault.toNat)]) ]

/-- The STK_ registers of core c (Tables 03-13 to 03-16, R82). -/
def stkRows (c : CoreId) : List RegRow :=
  let b := coreBase c + 0x800000
  let k := fun s => (getCore s c).stk
  [ roReg b 8 1 (fun s _ => BitVec.ofNat 64 (stkSize s c)),
    roReg (b + 8) 8 1 (fun s _ => pk [(0, (k s).insvc.toNat), (32, (k s).retirePend.toNat)]),
    roReg (b + 0x10) 8 1 (fun s _ => pk [(0, (k s).spareC0), (8, (k s).spareC1), (16, (k s).repairPend.length)]),
    roReg (b + 0x18) 8 1 (fun s _ => (k s).tagTmoUs.setWidth 64),
    rwReg (b + 0x20) 8 1 1 0xFF
      (fun s _ => pk [(0, max 1 (k s).periodH.toNat), (16, (k s).passes.toNat)]) noCheck
      (fun s _ v _ => modStk s c fun k => { k with periodH := v.setWidth 8 }),
    roReg (b + 0x28) 8 1 (fun s _ => (k s).ce.setWidth 64),
    roReg (b + 0x30) 8 1 (fun s _ => (k s).ue.setWidth 64),
    rwReg (b + 0x38) 8 1 1 0x80000000000
      (fun s _ => pk [(0, (k s).logSa.toNat), (32, (k s).logBank.toNat), (42, b2n (k s).logUe), (43, b2n (k s).logValid)])
      noCheck (fun s _ v m => modStk s c fun k => { k with logValid := k.logValid && !(bit v 43 && bit m 43) }),
    rwReg (b + 0x40) 8 1 1 0x100 (fun s _ => pk [(0, (k s).hwm.toNat), (8, b2n (k s).bp)]) noCheck
      (fun s _ v m => modStk s c fun k => if bit v 8 && bit m 8 then { k with bp := false, hwm := 0 } else k),
    roReg (b + 0x48) 8 1 (fun s _ => pk [(0, (k s).scrub.toNat), (20, b2n (k s).hold)]),
    roReg (b + 0x100) 8 8 (fun s i => (vget (k s).frames (finOf 8 (by decide) i)).setWidth 64),
    roReg (b + 0x1000) 0x20 64 (fun s i => let x := vget (k s).carrels (finOf 64 (by decide) i)
      pk [(0, b2n x.opened), (1, x.tmreq.toNat), (8, x.job.toNat), (16, x.hostMask.toNat)]),
    roReg (b + 0x1008) 0x20 64 (fun s i => let x := vget (k s).carrels (finOf 64 (by decide) i)
      pk [(0, x.base.toNat), (32, x.length.toNat)]),
    roReg (b + 0x1010) 0x20 64 (fun s i => (vget (k s).carrels (finOf 64 (by decide) i)).jobMask),
    roReg (b + 0x1018) 0x20 64 (fun s i => let x := vget (k s).carrels (finOf 64 (by decide) i)
      pk [(0, x.coreMask.toNat), (32, x.eys.toNat), (63, b2n x.eysEn)]) ]

/-- LAST_STAT (Table 04-8). A plane is written in one step of the model, so LOADING reads 0 between steps (log 3). -/
def lastStat (x : LastState) : Word :=
  pk [(0, b2n x.cur), (1, b2n (x.p0.serial != 0)), (2, b2n (x.p1.serial != 0)), (4, b2n (!x.arr.isEmpty)),
    (5, b2n x.paired), (6, b2n x.follower), (8, x.shape.toNat), (12, x.loadQ.length), (14, x.streamQ.length),
    (16, x.drainQ.length)]

/-- The LAST_ and sparse registers of the Lasts of core c (Tables 04-8, 05-10, R107, R137). -/
def lastRows (c : CoreId) : List RegRow :=
  let b := coreBase c + 0x900000
  let x := fun (s : State) (i : Nat) => getLast s c (finOf 4 (by decide) i)
  let m := fun (s : State) (i : Nat) => modLast s c (finOf 4 (by decide) i)
  let st := 0x10000
  [ roReg b st 4 (fun s i => lastStat (x s i)),
    roReg (b + 8) st 4 (fun s i => (x s i).resCnt.setWidth 64),
    rwReg (b + 0x10) st 4 1 0x80000 (fun s i => (x s i).resLog.setWidth 64) noCheck
      (fun s i v k => m s i fun x => { x with resLog := w1c x.resLog 19 v k }),
    roReg (b + 0x18) st 4 (fun s i => (x s i).dupCnt.setWidth 64),
    rwReg (b + 0x20) st 4 1 0x10000 (fun s i => (x s i).dupLog.setWidth 64) noCheck
      (fun s i v k => m s i fun x => { x with dupLog := w1c x.dupLog 16 v k }),
    rwReg (b + 0x28) st 4 2 0x1FFF (fun s i => (x s i).inj.setWidth 64) noCheck
      (fun s i v _ => m s i fun x => { x with inj := v.setWidth 13 |>.setWidth 32 }),
    rwReg (b + 0x200) st 4 2 1 (fun s i => BitVec.ofNat 64 (b2n (x s i).fallback)) noCheck
      (fun s i v _ => m s i fun x => { x with fallback := bit v 0 }),
    roReg (b + 0x208) st 4 (fun s i => (x s i).spCnt.setWidth 64),
    rwReg (b + 0x210) st 4 1 8 (fun s i => (x s i).spLog) noCheck
      (fun s i v k => m s i fun x => { x with spLog := w1c x.spLog 3 v k }),
    roReg (b + 0x218) st 4 (fun s i => (x s i).fbCnt.setWidth 64),
    roReg (b + 0x220) st 4 (fun s i => let y := x s i
      pk [(0, y.plan.elim 0 (·.next)), (10, y.plan.elim 0 (·.tiles.length)), (21, b2n y.plan.isSome),
        (32, y.empties.toNat)]),
    roReg (b + 0x228) st 4 (fun s i => pk [(0, (x s i).gathered.toNat), (32, (x s i).short.toNat)]) ]

/-- Slots of the frame table in use that have an owner code, over n cycles. -/
def slotsOwned (s : State) (c : CoreId) (cls n : Nat) : Nat :=
  ((List.range n).filter fun i => frameOwner (frameTable (getCore s c)) i == cls).length

/-- The AWL_ registers of core c (Table 06-10, R160). A line is decoded in one step of the model (log 3). -/
def awlRows (c : CoreId) : List RegRow :=
  let b := coreBase c + 0xA00000
  let x := fun s => (getCore s c).awl
  [ roReg b 8 1 (fun s _ => pk [(0, (getSeq s c awlSeq).infl.length), (2, b2n (x s).latch), (4, slotsOwned s c 6 8),
      (8, popcount (x s).mask)]),
    roReg (b + 8) 8 1 (fun s _ => (x s).mask.setWidth 64),
    roReg (b + 0x10) 8 1 (fun s _ => (x s).lines),
    roReg (b + 0x18) 8 1 (fun s _ => (x s).stall),
    rwReg (b + 0x20) 8 1 2 1 (fun s _ => BitVec.ofNat 64 (b2n (x s).fallback)) noCheck
      (fun s _ v _ => modAwl s c fun x => { x with fallback := bit v 0 }),
    roReg (b + 0x28) 8 1 (fun s _ => (x s).spCnt.setWidth 64),
    rwReg (b + 0x30) 8 1 1 8 (fun s _ => (x s).spLog) noCheck
      (fun s _ v k => modAwl s c fun x => { x with spLog := w1c x.spLog 3 v k }),
    roReg (b + 0x38) 8 1 (fun s _ => (x s).fbCnt.setWidth 64),
    roReg (b + 0x100) 8 32 (fun s i => (vget (x s).pos (finOf 32 (by decide) i)).setWidth 64) ]

/-- The WELT_ registers of the Welts of core c (Table 07-7, R186). -/
def weltRows (c : CoreId) : List RegRow :=
  let b := coreBase c + 0xB00000
  let x := fun (s : State) (i : Nat) => getWelt s c (finOf 2 (by decide) i)
  let st := 0x10000
  [ roReg b st 2 (fun s i => pk [(0, (getSeq s c (seqOf (4 + i))).infl.length), (3, b2n (x s i).carry.isSome),
      (4, slotsOwned s c (4 + i) 16), (8, b2n (bit (getCore s c).clGate i))]),
    roReg (b + 8) st 2 (fun s i => (x s i).ssw.setWidth 64),
    rwReg (b + 0x10) st 2 4 0x1FF (fun s i => (x s i).sswOr.setWidth 64) noCheck
      (fun s i v k => modWelt s c (finOf 2 (by decide) i) fun x => { x with sswOr := x.sswOr &&& ~~~(v &&& k).setWidth 9 }),
    roReg (b + 0x18) st 2 (fun s i => (x s i).step.setWidth 64),
    roReg (b + 0x20) st 2 (fun s i => pk [(0, (x s i).pos.toNat), (32, (x s i).carry.elim 0 (·.vals.length))]),
    roReg (b + 0x28) st 2 (fun s i => (x s i).elems),
    roReg (b + 0x30) st 2 (fun s i => (x s i).stall),
    roReg (b + 0x38) st 2 (fun s i => pk [(0, (x s i).cce.toNat), (16, (x s i).cue.toNat), (32, (x s i).spSeg.toNat)]),
    roReg (b + 0x40) st 2 (fun s i => pk [(0, (x s i).selGroups.toNat), (32, (x s i).selMasks.toNat)]),
    roReg (b + 0x48) st 2 (fun s i => pk [(0, (x s i).shRun.toNat), (32, (x s i).shSkip.toNat)]) ]

/-- The numeric block of core c (Table 08-7, R209). -/
def numRows (c : CoreId) : List RegRow :=
  let b := coreBase c + 0xB20000
  let x := fun s => (getCore s c).num
  [ rwReg b 8 1 2 0x1FFFF1F
      (fun s _ => pk [(0, clampNat 6 16 (x s).rate.toNat), (8, (x s).hardBin.toNat), (12, (x s).softBin.toNat),
        (16, (x s).softLim.toNat), (24, b2n (x s).hardKill)])
      (fun _ _ v _ => within [(fld v 8 4, 13, 15), (fld v 12 4, 8, 14), (fld v 16 8, 1, 255)])
      (fun s _ v _ => modNum s c fun x => { x with
        rate := v.extractLsb' 0 5, hardBin := v.extractLsb' 8 4, softBin := v.extractLsb' 12 4
        softLim := v.extractLsb' 16 8, hardKill := bit v 24 }),
    roReg (b + 8) 8 1 (fun s _ => pk [(0, b2n (x s).det), (1, b2n (x s).keyed), (16, (x s).keyFp.toNat)]),
    rwReg (b + 0x10) 8 1 1 0x300000000
      (fun s _ => pk [(0, (x s).soft.toNat), (16, (x s).hard.toNat), (32, b2n (x s).softNew), (33, b2n (x s).hardNew)])
      noCheck (fun s _ v m => modNum s c fun x => { x with
        softNew := x.softNew && !(bit v 32 && bit m 32), hardNew := x.hardNew && !(bit v 33 && bit m 33) }),
    rwReg (b + 0x18) 8 1 1 0x10000000 (fun s _ => (x s).log) noCheck
      (fun s _ v m => modNum s c fun x => { x with log := w1c x.log 28 v m }),
    roReg (b + 0x100) 8 16 (fun s i => (vget (x s).bins (finOf 16 (by decide) i)).setWidth 64) ]

/-- The links of three and of two modules (R18). -/
def linkModules (l : Fin 23) : Nat := if l.val = 18 ∨ l.val = 21 then 2 else 3

/-- A link reports FAILED (R229): it has failed, or ends at a failed router and no bypass holds it. -/
def linkFailed (s : State) (l : Fin 23) : Bool :=
  let k := vget s.lacing.links l
  k.failed || (!k.bypass && !(nodeUp s (linkEnds l.val).1 && nodeUp s (linkEnds l.val).2))

/-- LAC_LINK_STAT.STATE (Table 09-7). -/
def linkState (s : State) (l : Fin 23) : Nat :=
  let k := vget s.lacing.links l
  if linkFailed s l then 3
  else if k.a.retrain.isSome || k.b.retrain.isSome then 2
  else if l.val < 17 then (if k.a.width < 16 ∨ k.b.width < 16 then 1 else 0)
  else if k.modules < linkModules l then 1 else 0

/-- The width of a direction as LAC_LINK_STAT reports it: laces, or modules for links 17 to 22; 0 once failed. -/
def linkWidth (s : State) (l : Fin 23) (d : Bool) : Nat :=
  let k := vget s.lacing.links l
  if linkFailed s l then 0 else if l.val < 17 then (k.dir d).width else k.modules

/-- LAC_LINK_MAPA or MAPB. -/
def mapWord (s : State) (l : Fin 23) (d : Bool) : Word :=
  let x := (vget s.lacing.links l).dir d
  pk [(0, if linkFailed s l then 0 else x.active.toNat), (18, x.retired.toNat)]

/-- A write of LAC_LINK_CTRL that retrains beside another retraining lace, or retires below MIN_WIDTH, is refused with
BUSY (R238); a lace above 17 is out of range. -/
def linkCtrlCheck (s : State) (l : Fin 23) (v : Word) : BitVec 16 :=
  let d := (vget s.lacing.links l).dir (bit v 5)
  if 17 < fld v 0 5 then 4
  else if bit v 6 && d.retrain.isSome then 1
  else if bit v 7 && bit d.active (fld v 0 5) && decide (d.width - 1 + min 1 d.spares.length < fld s.lacing.errThr 8 5) then 1
  else 0

/-- A write of LAC_LINK_CTRL: RETRAIN and RETIRE act at once on LACE of DIR (R217, R219, R238). -/
def writeLinkCtrl (s : State) (l : Fin 23) (v : Word) : State :=
  let lace := finOf 18 (by decide) (fld v 0 5)
  let s := modLink s l fun k => { k with ctrl := (v.setWidth 7).setWidth 32 }
  let s := if bit v 6 then startLaceRetrain s l (bit v 5) lace else s
  if bit v 7 then retireLace s l (bit v 5) lace else s

/-- The LAC_ registers (Table 09-7, R238). -/
def lacRows : List RegRow :=
  let b := 0x0F0010000000
  let k := fun (s : State) (i : Nat) => vget s.lacing.links (finOf 23 (by decide) i)
  [ roReg b 8 1 (fun _ _ => 1),
    rwReg (b + 8) 8 1 1 0xFFF
      (fun s _ => pk [(0, max 1 (fld s.lacing.arb 0 4)), (4, max 1 (fld s.lacing.arb 4 4)), (8, max 1 (fld s.lacing.arb 8 4))])
      noCheck (fun s _ v _ => modLacing s fun x => { x with arb := (v.setWidth 12).setWidth 32 }),
    rwReg (b + 0x10) 8 1 1 0x1FFF (fun s _ => s.lacing.errThr.setWidth 64)
      (fun _ _ v _ => within [(fld v 0 8, 1, 255), (fld v 8 5, 4, 16)])
      (fun s _ v _ => modLacing s fun x => { x with errThr := (v.setWidth 13).setWidth 32 }),
    roReg (b + 0x18) 8 1 (fun s _ => pk [(0, s.lacing.hopPs.toNat), (16, s.lacing.bndPs.toNat)]),
    roReg (b + 0x20) 8 1 (fun s _ => s.lacing.late.setWidth 64),
    roReg (b + 0x100) 8 15 (fun s i => (vget s.lacing.nodes (finOf 15 (by decide) i)).setWidth 64),
    roReg (b + 0x1000) 0x40 23 (fun s i => let l := finOf 23 (by decide) i
      pk [(0, linkState s l), (2, linkWidth s l false), (7, linkWidth s l true)]),
    roReg (b + 0x1008) 0x40 23 (fun s i => mapWord s (finOf 23 (by decide) i) false),
    roReg (b + 0x1010) 0x40 23 (fun s i => mapWord s (finOf 23 (by decide) i) true),
    roReg (b + 0x1018) 0x40 23 (fun s i => pk [(0, (k s i).replays.toNat), (32, (k s i).retires.toNat)]),
    rwReg (b + 0x1020) 0x40 17 5 0xFF (fun s i => (k s i).ctrl.setWidth 64)
      (fun s i v _ => linkCtrlCheck s (finOf 23 (by decide) i) v) (fun s i v _ => writeLinkCtrl s (finOf 23 (by decide) i) v),
    roReg (b + 0x1020 + 17 * 0x40) 0x40 6 (fun s i => (k s (17 + i)).ctrl.setWidth 64) ] ++
  (List.range 15).map fun n => roReg (b + 0x2000 + n * 128) 8 15 fun s d => (smapGet 7 s.lacing.ft (n * 16 + d)).setWidth 64

/-- The unit that MEM_CTRL names (R257). -/
def memCtrlUnit (v : Word) : MemWhere :=
  memUnitOf (bit v 4) (finOf 16 (by decide) (fld v 0 4)) (finOf 32 (by decide) (fld v 5 5))

/-- A RETRAIN while another retraining runs on the same stack or edge die is refused with BUSY (R264). -/
def memCtrlCheck (s : State) (v : Word) : BitVec 16 :=
  let w := memCtrlUnit v
  if !bit v 10 then 0
  else if w.lp then
    (if (allFin 16).any fun l => decide (l.val / 8 = w.unit.val / 8) && (vget s.tiers.chans l).state == 1 then 1 else 0)
  else if (vget s.tiers.stackList w.unit).retrain.isSome then 1 else 0

/-- A write of MEM_CTRL: RETRAIN starts the retraining of R257. -/
def writeMemCtrl (s : State) (v : Word) : State :=
  let s := modTiers s fun t => { t with ctrl := (v.setWidth 11).setWidth 32 }
  if bit v 10 then startRetrain s (memCtrlUnit v) else s

/-- Writing 1 to an INVALID bit clears it (Table 10-12); for LPDDR5X the bit is the window's, shown by every channel. -/
def clearInvalid (s : State) (lp : Bool) (q : Fin 8) : State :=
  noted (modTiers s fun t =>
    if lp then { t with chans := t.chans.map fun c => { c with invalid := false } }
    else { t with regions := vmod t.regions q fun r => { r with invalid := false } })

/-- The MEM_ registers (Table 10-12, R264). -/
def memRows : List RegRow :=
  let b := 0x0F0011000000
  let t := fun s : State => s.tiers
  let q := fun (s : State) (i : Nat) => vget (t s).regions (finOf 8 (by decide) i)
  let k := fun (s : State) (i : Nat) => vget (t s).stackList (finOf 16 (by decide) i)
  let h := fun (s : State) (i : Nat) => vget (t s).chans (finOf 16 (by decide) i)
  [ roReg b 8 1 (fun s _ => pk [(0, 1), (16, (t s).mbps.toNat)]),
    rwReg (b + 8) 8 1 1 0xFF (fun s _ => BitVec.ofNat 64 (max 1 (t s).ageUs.toNat)) noCheck
      (fun s _ v _ => modTiers s fun t => { t with ageUs := v.setWidth 8 }),
    rwReg (b + 0x10) 8 1 1 0xFFF (fun s _ => pk [(0, (t s).pcRows.toNat), (8, (t s).trainFail.toNat)])
      (fun _ _ v _ => within [(fld v 0 8, 1, 255), (fld v 8 4, 1, 15)])
      (fun s _ v _ => modTiers s fun t => { t with pcRows := v.extractLsb' 0 8, trainFail := v.extractLsb' 8 4 }),
    rwReg (b + 0x18) 8 1 1 0xFF (fun s _ => pk [(0, (t s).periodH.toNat), (16, (t s).passes.toNat)])
      (fun _ _ v _ => within [(fld v 0 8, 1, 255)])
      (fun s _ v _ => modTiers s fun t => { t with periodH := v.extractLsb' 0 8 }),
    roReg (b + 0x20) 8 1 (fun s _ => pk [(0, (t s).lpMts.toNat), (16, (t s).present.toNat), (32, (t s).gib.toNat)]),
    roReg (b + 0x28) 8 1 (fun s _ => BitVec.ofNat 64 (lpSize (t s))),
    rwReg (b + 0x30) 8 1 1 0x1000 (fun s _ => (t s).errLog.setWidth 64) noCheck
      (fun s _ v m => modTiers s fun t => { t with errLog := w1c t.errLog 12 v m }),
    roReg (b + 0x38) 8 1 (fun s _ => (t s).errAddr.setWidth 64),
    rwReg (b + 0x40) 8 1 5 0x7FF (fun s _ => (t s).ctrl.setWidth 64) (fun s _ v _ => memCtrlCheck s v)
      (fun s _ v _ => writeMemCtrl s v),
    rwReg (b + 0x100) 0x20 8 1 0x200
      (fun s i => pk [(0, (q s i).state.toNat), (2, popcount (q s i).live), (9, b2n (q s i).invalid)]) noCheck
      (fun s i v m => if bit v 9 && bit m 9 then clearInvalid s false (finOf 8 (by decide) i) else s),
    roReg (b + 0x108) 0x20 8 (fun s i => (q s i).live),
    roReg (b + 0x110) 0x20 8 (fun s i => (q s i).pend),
    roReg (b + 0x200) 0x10 16 (fun s i => pk [(0, (k s i).ce.toNat), (16, (k s i).ue.toNat), (32, (k s i).ceDie.toNat),
      (48, (k s i).ppr.toNat)]),
    roReg (b + 0x208) 0x10 16 (fun s i => pk [(0, (k s i).temp.toNat), (8, b2n (k s i).hot),
      (9, b2n (k s i).retrain.isSome), (10, (k s i).lanes.toNat)]),
    roReg (b + 0x400) 0x10 16 (fun s i => pk [(0, (h s i).ce.toNat), (16, (h s i).ue.toNat), (32, (h s i).linkCe.toNat),
      (48, (h s i).drops.toNat)]),
    rwReg (b + 0x408) 0x10 16 1 4
      (fun s i => pk [(0, (h s i).state.toNat), (2, b2n (h s i).invalid), (3, (h s i).refRate.toNat)]) noCheck
      (fun s _ v m => if bit v 2 && bit m 2 then clearInvalid s true 0 else s) ]

/-- PCI_LINK.FUNC: the enabled functions (Table 11-10). -/
def funcMask (s : State) : Nat :=
  (allFin 9).foldl (fun n f => n + b2n (vget s.pcie.fns f).enabled * 2 ^ f.val) 0

/-- The PCI_, UCI_ and EYE_ registers (Table 11-10, R287). -/
def portRows : List RegRow :=
  let n := 0x0F0015000000
  let e := 0x0F0016000000
  let p := fun (s : State) (i : Nat) => vget s.eyes.ports (finOf 8 (by decide) i)
  let u := fun (s : State) (i : Nat) => vget s.sites (finOf 16 (by decide) i)
  [ roReg n 8 1 (fun s _ => pk [(0, s.pcie.speed.toNat), (4, s.pcie.width.toNat), (9, b2n s.pcie.flit), (10, funcMask s)]),
    roReg (n + 8) 8 1 (fun s _ => pk [(0, s.pcie.corr.toNat), (16, s.pcie.uncorr.toNat), (32, s.pcie.apDeny.toNat)]),
    roReg (n + 0x100) 8 9 (fun s i => let f := vget s.pcie.fns (finOf 9 (by decide) i)
      pk [(30, f.apBase.toNat), (48, f.apLog2.toNat)]),
    roReg (n + 0x200) 8 1 (fun s _ => pk [(0, s.vault.state.toNat), (2, s.vault.speed.toNat), (16, s.vault.timeouts.toNat)]),
    roReg (n + 0x100000) 0x10 16 (fun s i => let x := u s i
      pk [(0, x.state.toNat), (3, x.rate.toNat), (6, b2n x.x32), (7, x.role.toNat), (16, x.repaired.toNat)]),
    roReg (n + 0x100008) 0x10 16 (fun s i => pk [(0, (u s i).retry.toNat), (32, (u s i).down.toNat)]),
    rwReg e 8 1 1 0x3FFFFFF (fun s _ => s.eyes.thr.setWidth 64)
      (fun _ _ v _ => within [(fld v 0 8, 1, 255), (fld v 8 8, 10, 255), (fld v 16 10, 10, 1000)])
      (fun s _ v _ => modEyes s fun x => { x with thr := (v.setWidth 26).setWidth 32 }),
    roReg (e + 8) 8 1 (fun s _ => pk [(0, (s.eyes.sessions.filter (·.state == 1)).length), (16, s.eyes.lost.toNat)]),
    roReg (e + 0x100) 0x10 8 (fun s i => pk [(0, (p s i).mode.toNat), (3, (p s i).state.toNat),
      (8, homed s (finOf 8 (by decide) i)), (16, (p s i).downs.toNat)]),
    roReg (e + 0x108) 0x10 8 (fun s i => pk [(0, (p s i).corr.toNat), (32, (p s i).uncorr.toNat)]) ]

/-- PWR_STAT (Table 14-5). -/
def pwrStat (w : Power) : Word :=
  let g := fun f : FeedGroup → Bool => (allFin 6).foldl (fun n i => n + b2n (f (vget w.fgs i)) * 2 ^ i.val) 0
  let sus := g (·.suspect)
  let flt := g (·.fault)
  pk [(0, sus), (6, flt), (12, b2n w.pwrFault), (13, b2n w.thrSust), (14, b2n w.thrPeak),
    (15, b2n (sus != 0 || flt != 0)), (16, w.feedLost.toNat)]

/-- A new SUST_W above 2,800 W (1,900 W in compatibility mode) needs PWR_LIMIT: DENIED (R360). -/
def sustCheck (s : State) (v : Word) : BitVec 16 :=
  let w := fld v 0 12
  if (if s.power.compat then 1900 else 2800) < w then 9 else if w < 1500 then 4 else 0

/-- The PWR_ registers (Table 14-5, R360). -/
def pwrRows : List RegRow :=
  let b := 0x0F0012000000
  let w := fun s : State => s.power
  let p := fun (s : State) (i : Nat) => vget (w s).cores (coreOf i)
  [ roReg b 8 1 (fun s _ => pk [(0, 1), (16, b2n (w s).compat)]),
    rwReg (b + 8) 8 1 1 0xFFF (fun s _ => pk [(0, (w s).sustW.toNat), (16, (w s).peakW.toNat)])
      (fun s _ v _ => sustCheck s v)
      (fun s _ v _ => noted { s with power := { s.power with sustW := v.setWidth 12 } }),
    roReg (b + 0x10) 8 1 (fun s _ => pk [(0, (w s).nowW.toNat), (16, (w s).avgW.toNat), (32, (w s).instW.toNat)]),
    rwReg (b + 0x18) 8 1 1 0x7F1F
      (fun s _ => pk [(0, clampNat 1 25 (w s).slope.toNat), (8, (w s).lead.toNat), (16, (w s).notices.toNat)])
      (fun _ _ v _ => within [(fld v 8 7, 10, 100)])
      (fun s _ v _ => { s with power := { s.power with slope := v.extractLsb' 0 5, lead := v.extractLsb' 8 7 } }),
    roReg (b + 0x20) 8 1 (fun s _ => pwrStat (w s)),
    roReg (b + 0x100) 8 6 (fun s i => let g := vget (w s).fgs (finOf 6 (by decide) i)
      pk [(0, g.ampsD.toNat), (16, g.senseMv.toNat), (28, if g.fault then 2 else b2n g.suspect), (32, g.expD.toNat)]),
    roReg (b + 0x200) 8 30 (fun s i => let d := vget (w s).doms (finOf 30 (by decide) i)
      pk [(0, d.state.toNat), (2, b2n d.clamp), (4, d.mv.toNat), (16, d.ampsD.toNat), (32, d.trips.toNat)]),
    rwReg (b + 0x400) 8 12 1 0x1FC00000
      (fun s i => pk [(0, (p s i).fmax.toNat), (11, (p s i).fused.toNat), (22, (p s i).ceil.toNat), (32, (p s i).imaxD.toNat)])
      (fun _ _ v _ => within [(fld v 22 7, 10, 100)])
      (fun s i v _ => { s with power := { s.power with
        cores := vmod s.power.cores (coreOf i) fun p => { p with ceil := v.extractLsb' 22 7 } } }) ] ++
  (allFin 12).map fun c => rwReg (b + 0x800 + c.val * 0x80) 8 16 2 0x3F00000000
    (fun s i => let x := vget (p s c.val).vf (finOf 16 (by decide) i)
      pk [(0, x.mhz.toNat), (11, b2n x.valid), (12, x.mv), (22, x.ageMv.toNat), (32, x.offMv.toNat)])
    (fun _ _ v _ => within [(fld v 32 6, 0, 50)])
    (fun s i v _ => { s with power := { s.power with
      cores := vmod s.power.cores c fun p => { p with
        vf := vmod p.vf (finOf 16 (by decide) i) fun x => { x with offMv := v.extractLsb' 32 6 } } } })

/-- The state with a clock region changed. -/
def modRegion (s : State) (r : Fin 15) (f : ClockRegion → ClockRegion) : State :=
  { s with clock := { s.clock with regions := vmod s.clock.regions r f } }

/-- The state with a thermal region changed. -/
def modTherm (s : State) (r : Fin 15) (f : ThermRegion → ThermRegion) : State :=
  { s with thermal := { s.thermal with regions := vmod s.thermal.regions r f } }

/-- CLK_REG_r (Table 15-6). -/
def clkReg (s : State) (r : Fin 15) : Word :=
  let k := vget s.clock.regions r
  let t := targetOfRegion s r
  pk [(0, k.cur.toNat), (11, b2n k.stopped), (16, t.2), (27, t.1), (32, k.cap.toNat), (48, k.changes.toNat)]

/-- Replica paths of a region (R367). -/
def pathCount (r : Fin 15) : Nat := if r.val < 12 then 24 else if r.val < 14 then 8 else 4

/-- The CLK_ registers (Table 15-6, R380). -/
def clkRows : List RegRow :=
  let b := 0x0F0012001000
  let k := fun (s : State) (i : Nat) => vget s.clock.regions (finOf 15 (by decide) i)
  [ roReg b 8 1 (fun _ _ => 1),
    roReg (b + 8) 8 1 (fun s _ => pk [(0, b2n s.clock.lock), (1, b2n s.clock.holdover), (16, s.clock.losses.toNat)]),
    rwReg (b + 0x10) 8 1 1 0xFFFF0FFF
      (fun s _ => pk [(0, s.clock.warn.toNat), (6, s.clock.stretch.toNat), (16, s.clock.strLim.toNat)])
      (fun _ _ v _ => within [(fld v 0 6, 1, 63), (fld v 6 6, 0, min 7 (fld v 0 6 - 1)), (fld v 16 16, 1, 65535)])
      (fun s _ v _ => { s with clock := { s.clock with
        warn := v.extractLsb' 0 6, stretch := v.extractLsb' 6 6, strLim := v.extractLsb' 16 16 } }),
    roReg (b + 0x100) 0x20 15 (fun s i => clkReg s (finOf 15 (by decide) i)),
    rwReg (b + 0x108) 0x20 15 1 0x80
      (fun s i => pk [(0, (lowOf s (finOf 15 (by decide) i)).toNat), (6, b2n (marginWarns s (finOf 15 (by decide) i))), (7, b2n (k s i).warnNew), (8, (k s i).path.toNat),
        (16, (k s i).lowLife.toNat)]) noCheck
      (fun s i v m => modRegion s (finOf 15 (by decide) i) fun k => { k with
        warnNew := k.warnNew && !(bit v 7 && bit m 7) }),
    roReg (b + 0x110) 0x20 15 (fun s i => (k s i).str),
    roReg (b + 0x118) 0x20 15 (fun s i => (k s i).strPs) ] ++
  (allFin 15).map fun r => roReg (b + 0x400 + r.val * 0x100) 8 (pathCount r) fun s i =>
    let x := vget s.clock.regions r
    pk [(0, (smapGet 0x3F x.rpCode i).toNat), (6, (smapGet 0x3F x.rpMin i).toNat)]

/-- A region's failed sensors were sensor i treated as failed. -/
def failedWith (s : State) (r : Fin 15) (i : Nat) : Nat :=
  let l := (vget s.thermal.regions r).sensors.toList.take (sensorCount r)
  (l.zipIdx.filter fun x => x.1.bad || x.2 == i).length

/-- A DISABLE that leaves a core with more than four failed sensors, or an edge die with more than two, is refused with
BUSY (R380). -/
def disableCheck (s : State) (r : Fin 15) (i : Nat) (v : Word) : BitVec 16 :=
  if bit v 17 && ((decide (r.val < 12) && decide (4 < failedWith s r i)) ||
    (decide (12 ≤ r.val) && decide (r.val < 14) && decide (2 < failedWith s r i))) then 1 else 0

/-- The temperature of a region: the hottest reading among its working sensors (R372). -/
def hottestReading (r : Fin 15) (x : ThermRegion) : BitVec 16 :=
  match (x.sensors.toList.take (sensorCount r)).filter fun y => !y.bad with
  | [] => x.tempQ
  | y :: t => t.foldl (fun m z => if m.toInt < z.tempQ.toInt then z.tempQ else m) y.tempQ

/-- The region's temperature taken again from its sensors. -/
def retakeTemp (s : State) (r : Fin 15) : State :=
  modTherm s r fun x => { x with tempQ := hottestReading r x }

/-- A sensor newly treated as failed is recorded in the condition report (R373). -/
def sensorFailed (s : State) (r : Fin 15) (i : Nat) : State :=
  condAppend s (unitWord 12 (if r.val < 12 then r.val else 15) (r.val * 256 + i)) 0x0A 11 (BitVec.ofNat 16 i) 0

/-- A write of THM_SENS_r_s.DISABLE: the sensor is treated as failed (R373, R380). -/
def writeDisable (s : State) (r : Fin 15) (i : Fin 16) (on : Bool) : State :=
  let was := (vget (vget s.thermal.regions r).sensors i).bad
  let s := retakeTemp (modTherm s r fun x => { x with sensors := vmod x.sensors i fun y => { y with disable := on } }) r
  if on && !was then sensorFailed s r i.val else s

/-- The THM_ registers (Table 15-6, R380). -/
def thmRows : List RegRow :=
  let b := 0x0F0012003000
  let x := fun (s : State) (i : Nat) => vget s.thermal.regions (finOf 15 (by decide) i)
  [ rwReg b 8 1 1 0xFFFF0000
      (fun s _ => pk [(0, s.thermal.throttleQ.toNat), (16, s.thermal.hystQ.toNat), (24, s.thermal.hbmLim.toNat)])
      (fun _ _ v _ => within [(fld v 16 8, 4, 40), (fld v 24 8, 85, 105)])
      (fun s _ v _ => { s with thermal := { s.thermal with hystQ := v.extractLsb' 16 8, hbmLim := v.extractLsb' 24 8 } }),
    roReg (b + 8) 8 1 (fun s _ =>
      let h := hottest s
      pk [(0, h.2.toNat), (16, h.1), (20, b2n ((allFin 15).any fun r => (vget s.thermal.regions r).crit)),
        (32, (allFin 15).foldl (fun n r => n + b2n ((vget s.thermal.regions r).lim != noLimit) * 2 ^ r.val) 0)]),
    roReg (b + 0x100) 8 15 (fun s i => pk [(0, (x s i).tempQ.toNat), (16, (x s i).lim.toNat), (27, b2n (x s i).crit),
      (28, min 15 (failedSensors s (finOf 15 (by decide) i))), (32, (x s i).steps.toNat)]) ] ++
  (allFin 15).map fun r => rwReg (b + 0x200 + r.val * 0x80) 8 (sensorCount r) 5 0x20000
    (fun s i => let y := vget (vget s.thermal.regions r).sensors (seqOf i)
      pk [(0, y.tempQ.toNat), (16, b2n y.failed), (17, b2n y.disable)])
    (fun s i v _ => disableCheck s r i v) (fun s i v _ => writeDisable s r (seqOf i) (bit v 17))

/-- The event numbers of Table 18-1, each with its place in the ledger (R430); none for an unallocated number. -/
def ledgerEntry (evt : Nat) : Option Nat :=
  let b := evt / 4096 % 16
  let i := evt % 4096
  if b < 12 then
    if i < 256 then (if i % 64 < 48 then some (b * 560 + i / 64 * 48 + i % 64) else none)
    else if i < 384 then (if (i - 256) % 64 < 40 then some (b * 560 + 192 + (i - 256) / 64 * 40 + (i - 256) % 64) else none)
    else if i < 432 then some (b * 560 + 272 + (i - 384))
    else if i < 448 then none
    else if i < 576 then some (b * 560 + 320 + (i - 448))
    else if i < 592 then some (b * 560 + 448 + (i - 576))
    else if i < 672 then some (b * 560 + 464 + (i - 592))
    else if i < 688 then some (b * 560 + 544 + (i - 672))
    else none
  else if b = 12 then
    if i < 276 then some (6720 + i) else if 512 ≤ i ∧ i < 572 then some (6996 + (i - 512)) else none
  else if b = 13 then
    if i < 128 then some (7056 + i) else if 256 ≤ i ∧ i < 320 then some (7184 + (i - 256)) else none
  else if b = 14 then (if i < 128 then some (7248 + i) else none)
  else (if i < 24 then some (7376 + i) else none)

/-- A counter never configured reads as Counter.init. -/
def counterOf (s : State) (evt : Nat) : Counter := smapGet Counter.init s.pmu.counters evt

/-- The state with an allocated counter changed (R430: an unallocated event ignores writes). -/
def modCounter (s : State) (evt : Nat) (f : Counter → Counter) : State :=
  if (ledgerEntry evt).isSome then
    { s with pmu := { s.pmu with counters := smapSet Counter.init s.pmu.counters evt (f (counterOf s evt)) } }
  else s

/-- The event is a Last's top-down event (Table 18-3). -/
def topDown (evt : Nat) : Bool := decide (evt / 4096 % 16 < 12) && decide (evt % 4096 < 256) && decide (evt % 64 < 16)

/-- The class of an event (Table 18-2). -/
def classOf (evt : Nat) : BitVec 4 := if topDown evt then 1 else Config.eventClass evt

/-- The event of ledger entry j (Table 18-1, the inverse of `ledgerEntry`). Ledger order is the order of numbers. -/
def eventAt (j : Nat) : Nat :=
  let i := j % 560
  if j < 6720 then
    j / 560 * 4096 + (
      if i < 192 then i / 48 * 64 + i % 48
      else if i < 272 then 256 + (i - 192) / 40 * 64 + (i - 192) % 40
      else if i < 320 then 384 + (i - 272)
      else if i < 448 then 448 + (i - 320)
      else if i < 464 then 576 + (i - 448)
      else if i < 544 then 592 + (i - 464)
      else 672 + (i - 544))
  else if j < 6996 then 12 * 4096 + (j - 6720)
  else if j < 7056 then 12 * 4096 + 512 + (j - 6996)
  else if j < 7184 then 13 * 4096 + (j - 7056)
  else if j < 7248 then 13 * 4096 + 256 + (j - 7184)
  else if j < 7376 then 14 * 4096 + (j - 7248)
  else 15 * 4096 + (j - 7376)

/-- The allocated events in ledger order. -/
def allEvents : List Nat := (List.range 7400).map eventAt

/-- The unit of an event can count now (R9, R433, R440): units LOST, retired or without power keep their values, and a
Last classes slots only while its core holds a job and its cluster is ungated. -/
def eventLive (s : State) (evt : Nat) : Bool :=
  let b := evt / 4096 % 16
  let i := evt % 4096
  if b < 12 then
    let c := coreOf b
    if 592 ≤ i ∧ i < 672 then (vget s.power.doms (stkDomain s c)).state == 1 && (getCore s c).st != .lost
    else coreClocked s c && (!topDown evt || ((getCore s c).jobId != 0 && ungated (getCore s c) (seqOf (i / 64))))
  else if b = 12 then
    if i < 276 then !linkFailed s (finOf 23 (by decide) (i / 12))
    else nodeUp s (finOf 15 (by decide) ((i - 512) / 4))
  else if b = 13 ∧ 256 ≤ i then (vget s.tiers.chans (finOf 16 (by decide) ((i - 256) / 4))).state != 3
  else if b = 14 ∧ 32 ≤ i ∧ i < 96 then (vget s.eyes.ports (finOf 8 (by decide) ((i - 32) / 8))).state != 3
  else if b = 14 ∧ 96 ≤ i then (vget s.sites (finOf 16 (by decide) ((i - 96) / 2))).state != 5
  else true

/-- An amount of events since the last look: a free value (log 10; the model does not follow cycles, log 3). -/
def freeCount (s : State) (evt : Nat) : Nat := (Config.freeValue (s.openCtr + (ledgerEntry evt).getD 0)).toNat % 2 ^ 48

/-- The 16 top-down events of a Last count alike, so the sums of Table 18-3 hold between what they count. -/
def sumsHold (s : State) (evt : Nat) : Bool :=
  (List.range 16).all fun i =>
    let k := counterOf s (evt / 64 * 64 + i)
    k.filt == 0 && k.mode == (counterOf s evt).mode

/-- What an event has counted since the last look (R440, Table 18-3). -/
def newCount (s : State) (evt : Nat) : Nat :=
  let sum := fun (l : List Nat) => (l.map fun i => freeCount s (evt / 64 * 64 + i)).sum
  let i := evt % 64
  if !eventLive s evt then 0
  else if topDown evt && sumsHold s evt then
    if i = 0 then sum [1, 5, 6, 7, 8, 9, 10, 11, 12, 13, 14, 15]
    else if i = 2 then sum [5, 6, 7, 8]
    else if i = 3 then sum [9, 10, 11, 12, 13]
    else if i = 4 then sum [14, 15]
    else freeCount s evt
  else freeCount s evt

/-- A counter after n more events (R433): it stays at its largest value, with OVF, once an increment would pass it. -/
def Counter.after (k : Counter) (n : Nat) : Counter :=
  if k.count.toNat + n < 2 ^ 48 then { k with count := BitVec.ofNat 48 (k.count.toNat + n) }
  else { k with count := BitVec.allOnes 48, ovf := true }

/-- The events of a list have counted on: those of one counter, or of all at a latch. -/
def countOn (s : State) (l : List Nat) : State :=
  let t := l.foldl (fun m e => smapSet Counter.init m e ((counterOf s e).after (newCount s e))) s.pmu.counters
  { s with openCtr := s.openCtr + 7400, pmu := { s.pmu with counters := t } }

/-- Every allocated counter changed at once. -/
def mapCounters (s : State) (f : Nat → Counter → Counter) : State :=
  { s with pmu := { s.pmu with counters :=
      (allEvents.map fun e => (e, f e (counterOf s e))).filter fun p => decide (p.2 ≠ Counter.init) } }

/-- The events that a look at one counter advances: a Last's top-down events together. -/
def eventGroup (evt : Nat) : List Nat :=
  if topDown evt then (List.range 16).map fun i => evt / 64 * 64 + i else if (ledgerEntry evt).isSome then [evt] else []

/-- MODE as it reads: 0 for an edge-only event (R432). -/
def modeOf (s : State) (evt : Nat) : Bool := (counterOf s evt).mode && !bit (Config.eventAttr evt) 0

/-- PMU_CNT_e, which is also the layout of a ledger entry (R438). -/
def counterWord (k : Counter) : Word := pk [(0, k.count.toNat), (48, b2n k.ovf), (49, b2n k.delta)]

/-- PMU_EVCTL_e (Table 18-8). -/
def evctlWord (s : State) (evt : Nat) : Word :=
  if (ledgerEntry evt).isSome then
    let k := counterOf s evt
    pk [(0, b2n (modeOf s evt)), (1, k.filt.toNat), (4, b2n k.delta), (5, b2n k.rclr), (8, (classOf evt).toNat),
      (12, (Config.eventAttr evt).toNat)]
  else 0

/-- The state with the performance monitor changed. -/
def modPmu (s : State) (f : Pmu → Pmu) : State := { s with pmu := f s.pmu }

/-- A new PERIOD_NS in force: the next record says that the period changed (R439, Table 18-4). -/
def setPeriod (p : Pmu) (v : BitVec 30) : Pmu := { p with period := v, changed := p.changed || p.period != v }

/-- The PMU_ registers (Table 18-8, R446). -/
def pmuRows : List RegRow :=
  let b := 0x0F0013000000
  let p := fun s : State => s.pmu
  let f := fun (s : State) (i : Nat) => vget (p s).filters (finOf 7 (by decide) i)
  let mf := fun (s : State) (i : Nat) g => modPmu s fun p => { p with filters := vmod p.filters (finOf 7 (by decide) i) g }
  [ roReg b 8 1 (fun _ _ => 0x1CE80001),
    rwReg (b + 8) 8 1 1 0x3FFFFFFF00000001
      (fun s _ => pk [(0, b2n (p s).ledEn), (32, clampNat 1000 1000000000 (p s).period.toNat)]) noCheck
      (fun s _ v _ => modPmu s fun p => { setPeriod p (v.extractLsb' 32 30) with ledEn := bit v 0 }),
    roReg (b + 0x10) 8 1 (fun s _ => pk [(0, (p s).ledRecs.toNat), (16, (p s).ledBase.toNat)]),
    roReg (b + 0x18) 8 1 (fun s _ => (p s).ledHead),
    roReg (b + 0x20) 8 1 (fun s _ => (p s).ledSkip.setWidth 64),
    roReg (b + 0x28) 8 1 (fun s _ => pk [(0, (p s).slipRecs.toNat), (16, (p s).slipBase.toNat)]),
    roReg (b + 0x30) 8 1 (fun s _ => (p s).slipHead),
    roReg (b + 0x38) 8 1 (fun s _ => pk [(0, (p s).slipSkip.toNat), (32, (p s).slipFilt.toNat)]),
    rwReg (b + 0x100) 0x20 7 1 0x3FFFFFF3F07 (fun s i => (f s i).a) noCheck
      (fun s i v _ => mf s i fun x => { x with a := v &&& 0x3FFFFFF3F07 }),
    rwReg (b + 0x108) 0x20 7 1 0xFFFFFFFFFFC0 (fun s i => (f s i).lo) noCheck
      (fun s i v _ => mf s i fun x => { x with lo := v &&& 0xFFFFFFFFFFC0 }),
    rwReg (b + 0x110) 0x20 7 1 0xFFFFFFFFFFC0 (fun s i => (f s i).hi) noCheck
      (fun s i v _ => mf s i fun x => { x with hi := v &&& 0xFFFFFFFFFFC0 }),
    rwReg (b + 0x200) 8 16 1 7 (fun s i => (vget (p s).clsel (seqOf i)).setWidth 64) noCheck
      (fun s i v _ => modPmu s fun p => { p with clsel := vset p.clsel (seqOf i) (v.setWidth 3) }),
    rwReg (b + 0x400) 8 12 1 0xFFFFFF001FFFFF (fun s i => vget (p s).slipCtrl (coreOf i))
      (fun _ _ v _ => within [(fld v 16 5, 0, 20)])
      (fun s i v _ => modPmu s fun p => { p with slipCtrl := vset p.slipCtrl (coreOf i) (v &&& 0xFFFFFF001FFFFF) }) ] ++
  (List.range 16).map (fun k => roReg (b + 0x100000 + k * 0x8000) 8 4096 fun s i => counterWord (counterOf s (k * 4096 + i))) ++
  (List.range 16).map fun k => rwReg (b + 0x200000 + k * 0x8000) 8 4096 1 0x3F
    (fun s i => evctlWord s (k * 4096 + i)) noCheck
    (fun s i v _ => modCounter s (k * 4096 + i) fun x => { x with
      mode := bit v 0, filt := v.extractLsb' 1 3, delta := bit v 4, rclr := bit v 5 })

/-- The rows of one core's control block. -/
def coreRows (c : CoreId) : List RegRow :=
  jobRows c ++ stkRows c ++ lastRows c ++ awlRows c ++ weltRows c ++ numRows c

/-- The published allow-list (R305): every register that a chapter opens to REGRD. -/
def allowList : List RegRow :=
  (allFin 12).flatMap coreRows ++ lacRows ++ memRows ++ portRows ++ pwrRows ++ clkRows ++ thmRows ++ pmuRows

/-- The instance of a row that lies at an address. -/
def RegRow.at (r : RegRow) (a : Nat) : Option Nat :=
  if r.addr ≤ a ∧ (a - r.addr) % r.step = 0 ∧ (a - r.addr) / r.step < r.inst then some ((a - r.addr) / r.step) else none

/-- The first row of a list that holds an address, with its instance. -/
def rowAt (a : Nat) : List RegRow → Option (RegRow × Nat)
  | [] => none
  | r :: t => match r.at a with
    | some i => some (r, i)
    | none => rowAt a t

/-- The core whose control block holds an address (R44). -/
def blockCore (a : Nat) : Option CoreId :=
  if 0x0F0000000000 ≤ a ∧ a < 0x0F000C000000 then some (coreOf ((a - 0x0F0000000000) / 0x01000000)) else none

/-- The register at an address, on the allow-list. -/
def regAt (a : Nat) : Option (RegRow × Nat) :=
  match blockCore a with
  | some c => rowAt a (coreRows c)
  | none => rowAt a (lacRows ++ memRows ++ portRows ++ pwrRows ++ clkRows ++ thmRows ++ pmuRows)

/-- The event of a PMU_CNT_e address. -/
def countEvent (a : Nat) : Option Nat :=
  if 0x0F0013100000 ≤ a ∧ a < 0x0F0013180000 ∧ a % 8 = 0 then some ((a - 0x0F0013100000) / 8) else none

/-- A read of a register by REGRD: a counter has counted on, and one whose RCLR is 1 clears after the read (R433, R446). -/
def readReg (s : State) (a : Nat) : Word × State :=
  match regAt a, countEvent a with
  | none, _ => (0, s)
  | some (r, i), none => (r.read s i, s)
  | some (r, i), some e =>
    let s := if (ledgerEntry e).isSome then countOn s (eventGroup e) else s
    (r.read s i, if (counterOf s e).rclr then modCounter s e fun k => { k with count := 0, ovf := false } else s)

/-- The write condition of a row for its core (Table 12-6). -/
def condHolds (s : State) (r : RegRow) (a : Nat) : Bool :=
  match blockCore a with
  | none => true
  | some c =>
    let st := (getCore s c).st
    if r.cond = 2 then st == .idle || st == .loaded
    else if r.cond = 3 then st == .paused
    else if r.cond = 4 then st == .paused || st == .idle || st == .loaded
    else true

/-- PWR_VF_c_k asks for the STATE of its core, which its address names (R360). -/
def vfCond (s : State) (a : Nat) : Bool :=
  if 0x0F0012000800 ≤ a ∧ a < 0x0F0012000E00 then
    let st := (getCore s (coreOf ((a - 0x0F0012000800) / 128))).st
    st == .idle || st == .loaded
  else true

/-- The value a REGWR entry leaves: bits outside MASK keep their values (R307). -/
def merged (old data mask : Word) : Word := (old &&& ~~~mask) ||| (data &&& mask)

/-- The status of one REGWR entry (R307): 0 when it may be written. -/
def regwrCheck (s : State) (a : Nat) (data mask : Word) : BitVec 16 :=
  match regAt a with
  | none => 9
  | some (r, i) =>
    if mask &&& ~~~r.wmask ≠ 0 then 9
    else if !condHolds s r a || !vfCond s a then 1
    else r.check s i (merged (r.read s i) data mask) mask

/-- The write of one REGWR entry. A W1C bit outside MASK is written as 0, which the write operations see from MASK. -/
def regwrApply (s : State) (a : Nat) (data mask : Word) : State :=
  match regAt a with
  | none => s
  | some (r, i) => r.write s i (merged (r.read s i) data mask) mask

/-- An allow-list entry as ALLOW_READ returns it (Table 12-6). -/
def allowBytes (r : RegRow) : List Byte :=
  leBytes 8 r.addr ++ leBytes 4 r.step ++ leBytes 2 r.inst ++ leBytes 1 r.cond ++ leBytes 1 0 ++ leBytes 8 r.wmask.toNat ++
    leBytes 8 0

end Sys2Proof.Machine
end

