-- ==== Sys2Proof/Machine/Mailbox.lean ====
section
/-!
DEFINITION. Mailboxes (R288 to R297): reading a command's fields, running it, ending it with a STATUS and a response,
and answering (R292, R299). The families of commands build on these.
-/
namespace Sys2Proof.Machine

/-- Mailbox k. -/
def getMb (s : State) (k : Fin 16) : Mailbox := vget s.reg.mailboxes k

/-- The state with mailbox k changed. -/
def modMb (s : State) (k : Fin 16) (f : Mailbox → Mailbox) : State :=
  modReg s fun r => { r with mailboxes := vmod r.mailboxes k f }

/-- Payload bytes off to off+n-1 of a mailbox. -/
def payBytes (m : Mailbox) (off n : Nat) : List Byte := memRead m.payload off n

/-- A payload field, little-endian. -/
def pf (m : Mailbox) (off n : Nat) : Nat := leNat (payBytes m off n)

/-- Status codes (Table 12-4). -/
def stBusy : BitVec 16 := 1
def stNotLicensed : BitVec 16 := 2
def stBadCode : BitVec 16 := 3
def stBadForm : BitVec 16 := 4
def stNotOwner : BitVec 16 := 5
def stBadCheck : BitVec 16 := 6
def stStale : BitVec 16 := 7
def stLocked : BitVec 16 := 8
def stDenied : BitVec 16 := 9
def stNoSuch : BitVec 16 := 10
def stNoResource : BitVec 16 := 11
def stBadState : BitVec 16 := 12
def stNotPresent : BitVec 16 := 13
def stBadSignature : BitVec 16 := 14
def stRollback : BitVec 16 := 15
def stMalformed : BitVec 16 := 16
def stTooSmall : BitVec 16 := 17
def stSharedFeed : BitVec 16 := 18
def stCancelled : BitVec 16 := 19
def stTimeout : BitVec 16 := 20
def stDeviceFault : BitVec 16 := 21

/-- The mailbox runs a command of this code that has not begun to act. -/
def running (s : State) (k : Fin 16) (code : Nat) : Bool :=
  let m := getMb s k
  m.own && m.phase == 2 && m.code.toNat == code && m.result.isNone && !m.waiting

/-- The mailbox's command has begun and ends at a later event (a scrub, a grant, a packet from the partner). -/
def waits (s : State) (k : Fin 16) : State := modMb s k fun m => { m with waiting := true }

/-- The mailbox runs a command of this code that has begun and not ended. -/
def waitsOn (s : State) (k : Fin 16) (code : Nat) : Bool :=
  let m := getMb s k
  m.own && m.phase == 2 && m.code.toNat == code && m.result.isNone && m.waiting

/-- A command has ended: its STATUS, its response bytes in the mailbox, and RSIZE wait for COMMAND_COMPLETE. -/
def endsWith (s : State) (k : Fin 16) (st : BitVec 16) (resp : List Byte) (rsize : Nat) : State :=
  modMb s k fun m => { m with result := some (st, resp, BitVec.ofNat 32 rsize) }

/-- A command has ended with a STATUS and a response. -/
def ends (s : State) (k : Fin 16) (st : BitVec 16) (resp : List Byte) : State := endsWith s k st resp resp.length

/-- A mailbox command: where it runs, the checks of step 7 are made again on the present state (R291), and it has its
effect or ends with their STATUS. -/
def command (s : State) (k : Fin 16) (code : Nat) (allow : State → Mailbox → BitVec 16)
    (effect : State → Mailbox → State) : Out :=
  .next (if running s k code then
      (if allow s (getMb s k) = 0 then effect s (getMb s k) else ends s k (allow s (getMb s k)) [])
    else s)

/-- A command whose payload byte `off` names the operation `op` (SNAP_CFG, SNAP_NOW, PMU_CFG, COND_EDIT). -/
def commandOp (s : State) (k : Fin 16) (code off op : Nat) (allow : State → Mailbox → BitVec 16)
    (effect : State → Mailbox → State) : Out :=
  if pf (getMb s k) off 1 = op then command s k code allow effect else .next s

/-- No check of step 7. -/
def always (_ : State) (_ : Mailbox) : BitVec 16 := 0

/-- The mailboxes a function holds, ascending (R266). -/
def mailboxesOf (s : State) (fn : Fin 9) : List (Fin 16) := (allFin 16).filter fun k => (getMb s k).fn == fn

/-- The mailbox that function fn reaches at BAR0 offset k × 0x1000 (R266, R288). -/
def mailboxAt (s : State) (fn : Fin 9) (k : Nat) : Option (Fin 16) :=
  if fn = 0 then
    if h : k < 16 then (if (getMb s ⟨k, h⟩).fn = 0 then some ⟨k, h⟩ else none) else none
  else if k < 3 then (mailboxesOf s fn)[k]? else none

/-- The MSI-X vector of a mailbox for the function that holds it (R270). -/
def mailboxVector (s : State) (k : Fin 16) : Nat :=
  if (getMb s k).fn = 0 then k.val else (mailboxesOf s (getMb s k).fn).idxOf k

/-- The CHECK of a command (R299): over CTRL[7:0] as written, CODE, PLEN, SEQ, COUNTER and the payload. -/
def commandCheck (key : List Byte) (m : Mailbox) (ctrl : BitVec 32) : List Byte :=
  (hmac384 key (ascii "NZCMD1" ++ [ctrl.extractLsb' 0 8] ++ leBytes 2 m.code.toNat ++ leBytes 2 m.plen.toNat ++
    leBytes 4 m.seq.toNat ++ leBytes 8 m.counter.toNat ++ payBytes m 0 m.plen.toNat)).take 24

/-- The CHECK of a response (R299). -/
def responseCheck (key : List Byte) (m : Mailbox) (st : BitVec 16) (resp : List Byte) : List Byte :=
  (hmac384 key (ascii "NZRSP1" ++ leBytes 2 m.code.toNat ++ leBytes 4 m.seq.toNat ++ leBytes 8 m.counter.toNat ++
    leBytes 2 st.toNat ++ leBytes 2 resp.length ++ resp)).take 24

/-- A mailbox that no longer holds a command. -/
def Mailbox.released (m : Mailbox) : Mailbox :=
  { m with own := false, cancel := false, phase := 0, progress := 0, result := none, waiting := false, aband := false }

/-- The answer to a command (R292): STATUS, RLEN, RSIZE, the response and, in MB0-MB1, its CHECK; then OWN and PHASE 0
and the mailbox's vector. The result of an abandoned command is discarded (R271). A part without an owner has no key:
its response CHECK is zero (log 40). -/
def answer (s : State) (k : Fin 16) (st : BitVec 16) (resp : List Byte) (rsize : BitVec 32) : State :=
  let m := getMb s k
  if m.aband then bumpGen (modMb s k Mailbox.released)
  else
    let check := if k.val < 2 then
      memWrite [] 0 (if s.reg.ownerState = 0 then List.replicate 24 0 else responseCheck s.reg.key m st resp) else m.check
    let s := modMb s k fun m => { m.released with
      status := st, rlen := BitVec.ofNat 16 resp.length, rsize := rsize, check := check
      payload := memWrite m.payload 0 resp }
    raiseVec (bumpGen s) m.fn (mailboxVector s k)

/-- The answer of a refused or cancelled command: a STATUS and no response. -/
def refuse (s : State) (k : Fin 16) (st : BitVec 16) : State := answer s k st [] 0

/-- The job of the caller: that of the VF that holds the mailbox. -/
def callerJob (s : State) (m : Mailbox) : Option Job :=
  if m.fn = 0 then none else s.reg.jobs.find? fun j => j.func == m.fn

/-- A range of device memory that a command may name (R304): a multiple of 64, inside populated HBM or LPDDR5X. -/
def memRangeOk (s : State) (a n : Nat) : Bool :=
  a % 64 == 0 && decide (0 < n) && rangePopulated s.tiers a (a + n - 1)

/-- From a VF, a range must lie inside the memory windows of its job (R304). -/
def callerReaches (s : State) (m : Mailbox) (a n : Nat) : Bool :=
  m.fn == 0 || match callerJob s m with
    | none => false
    | some j => j.windows.any fun w => decide (w.base ≤ a) && decide (a + n ≤ w.base + w.len)

/-- The command names a job (R331 to R335): NO_SUCH when there is none, DENIED when it is not the caller's. -/
def namedJob (s : State) (m : Mailbox) (off : Nat) : Except (BitVec 16) Job :=
  match s.reg.jobs.find? fun j => j.id.toNat == pf m off 1 with
  | none => .error stNoSuch
  | some j => if m.fn ≠ 0 ∧ j.func ≠ m.fn then .error stDenied else .ok j

/-- The cores that a mask names. -/
def coresIn (mask : Nat) : List CoreId := (allFin 12).filter fun c => mask.testBit c.val

/-- A mask of cores. -/
def coreMaskOf (l : List CoreId) : Nat := l.foldl (fun n c => n ||| 2 ^ c.val) 0

/-- A record of class SECURITY about a command (R300, R303, Table 17-2). -/
def securityRecord (s : State) (m : Mailbox) (sev : BitVec 8) (st : BitVec 16) : State :=
  writeRecord s { recOf s 13 15 0 0x0D sev st with
    op := m.code, detail := leBytes 8 m.counter.toNat ++ leBytes 1 (min 255 s.reg.fails) }

end Sys2Proof.Machine
end

