-- ==== Sys2Proof/Machine/Takedown.lean ====
section
/-!
DEFINITION. Taking down jobs, units and the device: the drain of a kill and the end of a job (R333, R334, R398), engine
resets (R397), domains that go off (R342, R343, R349), and DEV_STATE FAILED (R384).
-/
namespace Sys2Proof.Machine

/-- A Last reset with its sequencer's engine (R397): empty, unpaired, its counters, logs and histories kept. -/
def resetLast (x : LastState) : LastState :=
  { LastState.init with
    resCnt := x.resCnt, resLog := x.resLog, dupCnt := x.dupCnt, dupLog := x.dupLog, fallback := x.fallback
    spCnt := x.spCnt, spLog := x.spLog, fbCnt := x.fbCnt, misTimes := x.misTimes, suspect := x.suspect }

/-- A Welt reset (R397): its cache zeroed, no carry. -/
def resetWelt (x : WeltState) : WeltState := { x with carry := none, pos := 0, cache := [], cpoison := [] }

/-- The Awl reset (R397): its vector store empty. -/
def resetAwl (x : AwlState) : AwlState :=
  { x with vregs := [], lens := Vector.replicate 32 0, latch := false, redo := [] }

/-- An engine reset (R397): a Last, Welt, Awl or DMA sequencer and its engine. -/
def resetEngine (s : State) (c : CoreId) (q : SeqId) : State :=
  let s := modSeq s c q fun x => { SeqState.init with imem0 := x.imem0, imem1 := x.imem1, desc := x.desc }
  if h : q.val < 4 then modLast s c ⟨q.val, h⟩ resetLast
  else if q.val < 6 then modWelt s c (finOf 2 (by decide) (q.val - 4)) resetWelt
  else if q = awlSeq then modAwl s c resetAwl
  else s

/-- The engines of core c that faulted are reset (R397): never the core controller. -/
def resetFaulted (s : State) (c : CoreId) : State :=
  ((allFin 16).filter fun q => q != ccSeq && (getSeq s c q).st == .fault).foldl (fun s q => resetEngine s c q) s

/-- Nothing of core c's engines stays in flight: instructions, queued work, tags and memory requests not yet accepted
(R334, R398 step 3). -/
def absorb (s : State) (c : CoreId) : State :=
  let s := modCore s c fun k => { k with
    seqs := k.seqs.map fun x => { x with
      infl := [], writes := [], loops := [], pendFault := 0, st := if x.st = .fault then .fault else .halted
      credit1 := 16, credit3 := 32 }
    lasts := k.lasts.map fun l => { l with
      loadQ := [], streamQ := [], arr := [], drainQ := [], plan := none, paired := false, follower := false, pairWait := false }
    awl := { k.awl with redo := [], latch := false }
    txns := [], arrivals := [], barrier := none, framePend := none, ungating := 0 }
  modTiers s fun t => { t with queue := t.queue.filter fun r => match r.from_ with
    | .engine d _ => d != c
    | .none => true }

/-- Remote accesses parked on core c's slots are answered with a status (R79, R398). -/
def releaseWaiters (s : State) (c : CoreId) (st : BitVec 4) : State :=
  let l := (getCore s c).stk.remote
  let s := (l.filter (·.parked)).foldl (fun s x => respond s x.flit st [] false) s
  modStk s c fun k => { k with remote := k.remote.filter fun x => !x.parked }

/-- The physical sets that hold window sets 0 to n - 1. -/
def setsMask (k : StkState) (n : Nat) : BitVec 20 := ((bitList k.insvc).take n).foldl (fun m t => setBit m t true) 0

/-- One core of a job taken down (R334 steps 2 to 4). -/
def drainCore (s : State) (held : Bool) (c : CoreId) : State :=
  let s := releaseWaiters (closeAll (absorb s c) c) c 1
  let s := resetFaulted s c
  modStk s c fun k =>
    if held then { k with hold := true } else { k with scrub := setsMask k (getCore s c).sets }

/-- The drain of job id is over (R334): tags abandoned, Carrels and sessions closed, its sets in SCRUB, or in HOLD where a
debug unlock given before the kill covers the core (normal ends scrub as well: R333 takes the job down as for a kill). -/
def drainJob (s : State) (id : BitVec 6) : State :=
  match findJob s id with
  | none => s
  | some j =>
    let s := j.cores.foldl (fun s c => drainCore s (j.hold.contains c) c) s
    noted (modJob (closeJobSessions s id) id fun x => { x with draining := false })

/-- KILL_DRAIN_END (R334, R398). -/
def execKillDrainEnd (job : BitVec 6) (s : State) : Out :=
  .next (match findJob s job with
    | some j => if j.state = 6 ∧ j.draining then drainJob s job else s
    | none => s)

/-- A sequencer keeps the job from its normal end (R333): it runs, or has run and has not ended with CODE 0, or still has
work in flight. -/
def seqUnfinished (s : State) (c : CoreId) (q : SeqId) : Bool :=
  let x := getSeq s c q
  bit (getCore s c).seqRun q.val || bit (getCore s c).saved q.val ||
    (x.ran && !(x.ended && x.haltCode == 0 && engineIdle s c q))

/-- Every sequencer of the job that has run has halted with CODE 0 and nothing is in flight (R333). -/
def jobFinished (s : State) (j : Job) : Bool :=
  (j.cores.any fun c => (allFin 16).any fun q => (getSeq s c q).ran) &&
    j.cores.all fun c => (getCore s c).txns.isEmpty && (allFin 16).all fun q => !seqUnfinished s c q

/-- JOB_NORMAL_END (R333): taken down as for a kill, without the drain, with a record of class JOB, INFO, CODE 0. -/
def execJobNormalEnd (job : BitVec 6) (s : State) : Out :=
  .next (match findJob s job with
    | none => s
    | some j =>
      if (j.state = 4 ∨ j.state = 5) ∧ jobFinished s j then
        let s := j.cores.foldl (fun s c => modCore s c fun k => { k with st := .scrub, seqRun := 0, saved := 0 }) s
        let s := modJob s job fun x =>
          { x with state := 6, killed := true, normal := true, lastFault := 0, hold := heldCores s x.cores }
        let s := writeRecord (stopSnaps s job) { recOf s 0 15 0 0x05 0 0 with job := job.setWidth 8, detail := jobDetail none j }
        drainJob s job
      else s)

/-- Every job dies; where the cause is no fault of a sequencer the code is 0, none (R349, R363, R378, R385, R406). -/
def killAll (s : State) (code : BitVec 16) (unit : Nat × Nat × Nat) : State :=
  s.reg.jobs.foldl (fun s j => if j.killed then s else killJob s j.id code 0 unit none) s

/-- DEV_STATE becomes FAILED (R384). -/
def failDevice (s : State) : State := noted (modReg s fun r => { r with devState := 3 })

/-- A record of severity FATAL when the event killed a job or left the device FAILED, else ERROR (R407). -/
def fatalOr (fatal : Bool) : BitVec 8 := if fatal then 3 else 2

/-- Some job not yet killed is placed on core c. -/
def liveJobOn (s : State) (c : CoreId) : Bool := (jobOn s c).any fun j => !j.killed

/-- The state with a power domain changed. -/
def modDom (s : State) (d : Fin 30) (f : PowerDomain → PowerDomain) : State :=
  { s with power := { s.power with doms := vmod s.power.doms d f } }

/-- The core whose compute or Stacks domain is d. -/
def coreOfDomain (s : State) (d : Fin 30) : Option CoreId :=
  if d.val < 24 then (allFin 12).find? fun c => (fieldOf s c).val == d.val % 12 else none

/-- The boundary agent fences core c; its router forwards only (R229, R398). -/
def fenceCore (s : State) (c : CoreId) : State := forwardOnly (modCore s c fun k => { k with fenced := true }) c

/-- The fence of core c lifts (R398). -/
def liftFence (s : State) (c : CoreId) : State :=
  let s := modCore s c fun k => { k with fenced := false }
  if vget s.lacing.nodes (routerOf s c) = 1 then setNode s (routerOf s c) 0 else s

/-- LPDDR5X loses its contents. -/
def loseLp (s : State) : State := loseBytes s 0x020000000000 0x060000000000

/-- What is left of a domain's units once it is off (R342, R343): a core is OFF, its Stacks, HBM or LPDDR5X keep
nothing, a link is down. -/
def domainGone (s : State) (d : Fin 30) : State :=
  match coreOfDomain s d with
  | some c =>
    if d.val < 12 then
      modCore (fenceCore (absorb s c) c) c fun k => { k with st := if k.st = .lost then .lost else .off, seqRun := 0 }
    else
      let s := releaseWaiters s c 3
      modStk (loseBytes s (stacksAddr c 0) 0x80000000) c fun k => { k with scrub := 0, hold := false, fixups := [] }
  | none =>
    if d = 26 then loseBytes s 0 (4 * regionBytes)
    else if d = 27 then loseBytes s (4 * regionBytes) (4 * regionBytes)
    else if d = 28 then { loseLp s with pcie := { s.pcie with up := false, speed := 0, width := 0, flit := false } }
    else if d = 29 then
      modEyes (loseLp s) fun e => { e with ports := e.ports.map fun p => { p with state := if p.state = 3 then 3 else 0 } }
    else if d = 24 then modLacing s fun x => { x with flight := [], nodes := Vector.replicate 15 3 }
    else s

/-- A domain reads OFF, or TRIPPED, its clamps closed (R343, R349). -/
def domainOff (s : State) (d : Fin 30) (trip : Bool) : State :=
  let s := domainGone s d
  noted (modDom s d fun x => { x with
    state := if trip || x.state == 3 then 3 else 0, clamp := true, mv := 0, ampsD := 0
    latched := x.latched || trip, trips := if trip then satAdd x.trips 1 else x.trips })

/-- The order in which domains come up (R342). -/
def domainOrder : List (Fin 30) :=
  [25, 28, 24, 29, 26, 27, 12, 0, 13, 1, 14, 2, 15, 3, 16, 4, 17, 5, 18, 6, 19, 7, 20, 8, 21, 9, 22, 10, 23, 11]

/-- Domains switched off in the reverse order (R342), those of `keep` apart. -/
def powerDown (s : State) (keep : List (Fin 30)) : State :=
  (domainOrder.reverse.filter fun d => !keep.contains d).foldl
    (fun s d => if (vget s.power.doms d).state = 0 || (vget s.power.doms d).state = 3 then s else domainOff s d false) s

/-- PWR_FAULT asserts (R348, R349, R378). -/
def assertPwrFault (s : State) : State := { s with power := { s.power with pwrFault := true } }

end Sys2Proof.Machine
end

