-- ==== Sys2Proof/Machine/Power.lean ====
section
/-!
DEFINITION. Power delivery (R341 to R356): domains and their trips, feed groups, load notices, and the governor.
-/
namespace Sys2Proof.Machine

/-- The state with power delivery changed. -/
def modPower (s : State) (f : Power → Power) : State := { s with power := f s.power }

/-- The feed groups of a domain, each with its part of the domain's current in sixths (Table 14-2). -/
def feedShares (d : Fin 30) : List (Fin 6 × Nat) :=
  let f := d.val % 12
  if d.val < 24 then [(finOf 6 (by decide) (f / 6 * 3 + f % 3), 6)]
  else if d = 24 then (allFin 6).map fun g => (g, 1)
  else if d = 26 then [(0, 3), (3, 3)]
  else if d = 27 then [(2, 3), (5, 3)]
  else if d = 29 then [(4, 6)]
  else [(1, 6)]

/-- The feed group that serves core c. -/
def coreFeed (s : State) (c : CoreId) : Fin 6 := finOf 6 (by decide) ((fieldOf s c).val / 6 * 3 + (fieldOf s c).val % 3)

/-- Maximum current of a domain, 0.1 A (Table 14-1). -/
def domainMaxD (s : State) (d : Fin 30) : Nat :=
  if d.val < 12 then (match coreOfDomain s d with | some c => (vget s.power.cores c).imaxD.toNat | none => 0)
  else if d.val < 24 then 160 else if d = 24 then 420 else if d = 25 then 80 else if d.val < 28 then 240 else 450

/-- Inrush plus idle current of a domain, 0.1 A (Table 14-1). -/
def inrushIdleD (d : Fin 30) : Nat :=
  if d.val < 12 then 520 else if d.val < 24 then 160 else if d = 24 then 440 else if d = 25 then 120
  else if d.val < 28 then 180 else 320

/-- The step that one unit of a notice's pulse stands for, 0.1 A: 5 % of the group maximum (R345, R354). -/
def noticeUnit (w : Power) : Nat := if w.compat then 1200 else 175

/-- The notices of one step of n units on an output: a change above 100 % takes more than one (R354). -/
def noticesOf (g : Fin 6) (rise : Bool) : Nat → Nat → List Notice
  | 0, _ => []
  | k + 1, n => if n = 0 then [] else { fg := g, rise := rise, width := 50 * min 20 n } :: noticesOf g rise k (n - 20)

/-- A committed step of a domain's current is announced on the outputs of its groups when it reaches 5 % of the group
maximum there; in compatibility mode on LN0 and LN3 alike (R345, R354). -/
def announce (s : State) (d : Fin 30) (ampsD : Nat) (rise : Bool) : State :=
  let groups := if s.power.compat then [((0 : Fin 6), 6), (3, 6)] else feedShares d
  let l := groups.flatMap fun g =>
    let a := ampsD * g.2 / 6
    if a < noticeUnit s.power then [] else noticesOf g.1 rise 64 (cdiv a (noticeUnit s.power))
  modPower s fun w => { w with sent := w.sent ++ l, notices := satAdd w.notices l.length }

/-- An activity step of core c is announced: the spec gives its size no value, so it is a free value up to IMAX
(log 10). -/
def announceActivity (s : State) (c : CoreId) (rise : Bool) : State :=
  let r := takeFree s
  announce r.2 (coreDomain s c) (r.1.toNat % ((vget s.power.cores c).imaxD.toNat + 1)) rise

/-- A record of class POWER (Table 17-2). -/
def powerRecord (s : State) (index : Nat) (sev : BitVec 8) (ampsD senseMv expD : Nat) : State :=
  writeRecord s { recOf s 11 15 index 0x0A sev 0 with
    detail := leBytes 2 ampsD ++ leBytes 2 senseMv ++ leBytes 2 expD ++ leBytes 2 s.power.nowW.toNat ++
      leBytes 2 s.power.instW.toNat }

/-- The domain belongs to the order of R342: a device domain, or one of a core that is not LOST. -/
def inOrder (s : State) (d : Fin 30) : Bool :=
  decide (24 ≤ d.val) || match coreOfDomain s d with | some c => (getCore s c).st != .lost | none => false

/-- A domain that is on or on its way. -/
def domainUp (s : State) (d : Fin 30) : Bool := (vget s.power.doms d).state == 1

/-- No domain before d in the order is off, and for an HBM PHY domain the board's power-good input is high (R342). -/
def mayRise (s : State) (d : Fin 30) : Bool :=
  (d != 26 || vget s.power.hbmPg 0) && (d != 27 || vget s.power.hbmPg 1) &&
  ((domainOrder.takeWhile (· != d)).filter (inOrder s)).all (domainUp s)

/-- No domain after d in the order is on (R342). -/
def mayFall (s : State) (d : Fin 30) : Bool :=
  (((domainOrder.dropWhile (· != d)).drop 1).filter (inOrder s)).all fun e => (vget s.power.doms e).state == 0 ||
    (vget s.power.doms e).state == 3

/-- The job on the core of domain d, if any. -/
def domainJob (s : State) (d : Fin 30) : Option Job := (coreOfDomain s d).bind (jobOn s)

/-- The checks of DOMAIN (R343). -/
def domainAllow (s : State) (m : Mailbox) : BitVec 16 :=
  let d := finOf 30 (by decide) (pf m 0 1)
  let x := vget s.power.doms d
  let on := pf m 1 1 == 1
  if (domainJob s d).isSome && !(m.expert && !on) then stBusy
  else if !inOrder s d then stNotPresent
  else if x.latched then stBadState
  else if on then (if x.state == 1 || mayRise s d then 0 else stBadState)
  else if 24 ≤ d.val then stBadState
  else if x.state == 0 || mayFall s d then 0 else stBadState

/-- DOMAIN (R343): asks for a grant, or switches off, at expert level after killing the core's job. -/
def execDomain (mb : Fin 16) (s : State) : Out :=
  command s mb 0x61 domainAllow fun s m =>
    let d := finOf 30 (by decide) (pf m 0 1)
    let x := vget s.power.doms d
    if pf m 1 1 = 1 then
      if x.state = 1 then ends s mb 0 []
      else modPower (waits s mb) fun w => { w with requests := w.requests ++ [
        { dom := d, makeRoom := m.expert && decide (pf m 2 1 = 1), granted := false, leadDone := false, mb := some mb }] }
    else if x.state = 0 then ends s mb 0 []
    else
      let s := match domainJob s d with
        | some j => if j.killed then s else killJob s j.id 0 0 (0, 15, 0) none
        | none => s
      let s := match coreOfDomain s d with
        | some c => fenceCore s c
        | none => s
      modPower (waits s mb) fun w => { w with offs := w.offs ++ [d] }

/-- Rises already committed in a feed group, 0.1 A: granted requests that are not yet on. -/
def committedIn (w : Power) (g : Fin 6) : Nat :=
  (w.requests.filter (·.granted)).foldl (fun n r =>
    n + (((feedShares r.dom).filter fun p => p.1 == g).foldl (fun k p => k + inrushIdleD r.dom * p.2 / 6) 0)) 0

/-- Rises already committed, 0.1 A. -/
def committed (w : Power) : Nat := (w.requests.filter (·.granted)).foldl (fun n r => n + inrushIdleD r.dom) 0

/-- The limit of a feed group, 0.1 A (R353); in compatibility mode the group maximum of R345. -/
def feedLimit (w : Power) (g : Fin 6) : Nat :=
  if w.compat then 24000 else if (vget w.fgs g).suspect then 2450 else 3500

/-- The package test of R353 at VIN 1.60 V: 0.1 A is 0.16 W. -/
def packageRoom (w : Power) (d : Fin 30) : Bool :=
  decide (w.instW.toNat * 100 + (committed w + inrushIdleD d) * 16 ≤ w.peakW.toNat * 100)

/-- The feed-group test of R353. -/
def feedRoom (w : Power) (d : Fin 30) : Bool :=
  (feedShares d).all fun p =>
    decide ((vget w.fgs p.1).ampsD.toNat + committedIn w p.1 + inrushIdleD d * p.2 / 6 ≤ feedLimit w p.1)

/-- Requests not yet granted, in arrival order. -/
def waitingRequests (w : Power) : List PowerRequest := w.requests.filter fun r => !r.granted

/-- DOMAIN_POWER_GRANT (R353): the oldest request whose tests hold is granted and announced. -/
def execDomainPowerGrant (d : Fin 30) (s : State) : Out :=
  .next (if (waitingRequests s.power).head?.any (fun r => r.dom == d) && packageRoom s.power d && feedRoom s.power d &&
      mayRise s d then
    announce (modPower s fun w => { w with
      requests := w.requests.map fun r => if r.dom = d then { r with granted := true } else r }) d (inrushIdleD d) true
  else s)

/-- LOAD_NOTICE_LEAD_END (R343, R356): the lead time has passed, and the regulator soft-starts the domain. -/
def execLoadNoticeLeadEnd (d : Fin 30) (s : State) : Out :=
  .next (if s.power.requests.any fun r => r.dom == d && r.granted && !r.leadDone then
    noted (modDom (modPower s fun w => { w with
      requests := w.requests.map fun r => if r.dom = d then { r with leadDone := true } else r }) d
      fun x => { x with state := 2 })
  else s)

/-- The units of a domain that has come up (R343 step 3, R366): a core leaves reset at its target frequency, its router
as it was; Stacks answer again. -/
def domainReady (s : State) (d : Fin 30) : State :=
  match coreOfDomain s d with
  | some c =>
    if d.val < 12 then
      if (getCore s c).st = .lost then s
      else
        let s := modCore s c fun k => { CoreState.init with
          st := .idle, stk := k.stk, cycles := 0, nextTag := k.nextTag, quarantine := k.quarantine }
        liftFence (modRegion s (coreRegion c) fun r => { r with cur := BitVec.ofNat 11 (targetMhz s (coreRegion c)) }) c
    else if (getCore s c).st = .lost then s
    else modStk s c fun k => { k with scrub := 0, hold := false }
  | none => s

/-- DOMAIN_SOFT_START_DONE (R343): clamps open, reset releases, the command ends OK. -/
def execDomainSoftStartDone (d : Fin 30) (mv : BitVec 12) (s : State) : Out :=
  .next (match s.power.requests.find? fun r => r.dom == d && r.leadDone with
    | none => s
    | some r =>
      let s := modDom s d fun x => { x with state := 1, clamp := false, mv := mv }
      let s := noted (domainReady (modPower s fun w => { w with requests := w.requests.filter fun x => x.dom != d }) d)
      match r.mb with
      | some k => if waitsOn s k 0x61 then ends s k 0 [] else s
      | none => s)

/-- DOMAIN_POWER_OFF_DONE (R343): its core drained and scrubbed, the domain reads OFF. -/
def execDomainPowerOffDone (d : Fin 30) (s : State) : Out :=
  .next (if s.power.offs.contains d && (domainJob s d).isNone then
      let s := domainOff (modPower s fun w => { w with offs := w.offs.filter (· != d) }) d false
      (allFin 16).foldl (fun s k =>
        if waitsOn s k 0x61 && pf (getMb s k) 0 1 == d.val && pf (getMb s k) 1 1 == 0 then ends s k 0 [] else s) s
    else s)

/-- DOMAIN_GRANT_TIMEOUT (R353): the request ends BUSY, and the domain stays OFF. -/
def execDomainGrantTimeout (d : Fin 30) (s : State) : Out :=
  .next (match s.power.requests.find? fun r => r.dom == d && !r.granted with
    | none => s
    | some r =>
      let s := modPower s fun w => { w with requests := w.requests.filter fun x => x.dom != d }
      match r.mb with
      | some k => if waitsOn s k 0x61 then ends s k stBusy [] else s
      | none => s)

/-- Jobs that hold a window meeting addresses lo to hi - 1. -/
def jobsIn (s : State) (lo hi : Nat) : List Job :=
  s.reg.jobs.filter fun j => !j.killed && j.windows.any fun w => decide (w.base < hi) && decide (lo < w.base + w.len) && w.len != 0

/-- Those jobs die with TARGET_DOWN. -/
def killJobs (s : State) (l : List Job) (code : BitVec 16) (unit : Nat × Nat × Nat) : State :=
  l.foldl (fun s j => killJob s j.id code 0 unit none) s

/-- Outstanding reads of a range of memory return poison (Table 14-3). -/
def poisonReads (s : State) (hit : Nat → Bool) : State :=
  let l := s.tiers.queue.filter fun r => !r.write && hit r.addr
  let s := modTiers s fun t => { t with queue := t.queue.filter fun r => r.write || !hit r.addr }
  l.foldl (fun s r => settleMem s r (List.replicate 64 0) true) s

/-- What the trip of a domain does beyond the domain itself (Table 14-3). -/
def tripEffects (s : State) (d : Fin 30) : State :=
  let u := (11, 15, d.val)
  match coreOfDomain s d with
  | some c =>
    if d.val < 12 then loseCore (fenceCore s c) c
    else
      let l := (getCore s c).stk.remote.filter fun x => x.flit.typ == 0
      let s := l.foldl (fun s x => respond s x.flit 0 (List.replicate 64 0) true) s
      let s := modStk s c fun k => { k with remote := k.remote.filter fun x => x.flit.typ != 0 }
      let s := loseCore s c
      if domainUp s (coreDomain s c) then modPower s fun w => { w with offs := w.offs ++ [coreDomain s c] } else s
  | none =>
    if d = 24 then assertPwrFault (failDevice (killAll s 0 u))
    else if d = 25 then assertPwrFault (powerDown (killAll s 0 u) [25])
    else if d = 26 ∨ d = 27 then
      let q := if d = 26 then 0 else 4
      let lo := q * regionBytes
      let hi := (q + 4) * regionBytes
      let s := poisonReads s fun a => decide (lo ≤ a) && decide (a < hi)
      let s := killJobs s (jobsIn s lo hi) 0x0B u
      modTiers s fun t => { t with
        regions := (allFin 8).foldl (fun v i => if i.val / 4 = q / 4 then vmod v i fun r => { r with state := 3 } else v) t.regions }
    else if d = 28 then assertPwrFault (failDevice (killAll s 0 u))
    else if d = 29 then
      let s := poisonReads s fun a => decide (0x20000000000 ≤ a)
      let l := s.reg.jobs.filter fun j => !j.killed && (j.windows.any (fun w => decide (0x20000000000 ≤ w.base)) ||
        s.eyes.sessions.any fun x => !x.dup && x.job == j.id && x.state == 1)
      let s := killJobs s l 0x0B u
      let s := modEyes s fun e => { e with sessions := e.sessions.map fun x => { x with state := 2, home := none } }
      modTiers s fun t => { t with
        chans := (allFin 16).foldl (fun v i => if 8 ≤ i.val then vmod v i fun c => { c with state := 3 } else v) t.chans }
    else s

/-- The trip of a domain (R349, R392): clamps closed, latched off, its results, and a record and TRIP entry. -/
def tripDomain (s : State) (d : Fin 30) (ampsD : BitVec 16) : State :=
  let before := (s.reg.jobs.filter (·.killed)).length
  let s := tripEffects (domainOff s d true) d
  let fatal := decide (before < (s.reg.jobs.filter (·.killed)).length) || s.reg.devState == 3
  let s := condAppend s (unitWord 11 15 d.val) 0x0D 7 (BitVec.ofNat 16 d.val) 0
  powerRecord s d.val (fatalOr fatal) ampsD.toNat 0 0

/-- DOMAIN_TRIP (R349): a regulator over 125 % of its domain's maximum. -/
def execDomainTrip (d : Fin 30) (ampsD : BitVec 16) (s : State) : Out :=
  .next (if domainUp s d && decide (domainMaxD s d * 125 < ampsD.toNat * 100) then tripDomain s d ampsD else s)

/-- The state with a feed group changed. -/
def modFeed (s : State) (n : Fin 6) (f : FeedGroup → FeedGroup) : State := modPower s fun w => { w with fgs := vmod w.fgs n f }

/-- The mean sense voltage of the other groups, times 5. -/
def otherSense (w : Power) (n : Fin 6) : Nat :=
  ((allFin 6).filter (· != n)).foldl (fun t i => t + (vget w.fgs i).senseMv.toNat) 0

/-- FEED_SUSPECT (R347): low share and low sense, in native delivery only (R346). -/
def execFeedSuspect (n : Fin 6) (ampsD expD : BitVec 16) (senseMv : BitVec 12) (s : State) : Out :=
  let x := vget s.power.fgs n
  .next (if s.power.compat || x.suspect || x.fault || expD.toNat < 500 || expD.toNat * 70 ≤ ampsD.toNat * 100 ||
      otherSense s.power n ≤ (senseMv.toNat + 25) * 5 then s
    else
      let s := modFeed s n fun x => { x with suspect := true, ampsD := ampsD, expD := expD, senseMv := senseMv }
      powerRecord (noted s) (0x40 + n.val) 1 ampsD.toNat senseMv.toNat expD.toNat)

/-- FEED_FAULT (R348): PWR_FAULT asserts, and every core runs at its lowest VF point under a ceiling of 25 %. -/
def execFeedFault (n : Fin 6) (ampsD expD : BitVec 16) (senseMv : BitVec 12) (s : State) : Out :=
  .next (if s.power.compat || (vget s.power.fgs n).fault ||
      !(decide (senseMv.toNat < 1400) || decide (1850 < senseMv.toNat) || decide (4200 < ampsD.toNat)) then s
    else
      let s := modFeed s n fun x => { x with fault := true, ampsD := ampsD, expD := expD, senseMv := senseMv }
      powerRecord (noted (assertPwrFault s)) (0x40 + n.val) 2 ampsD.toNat senseMv.toNat expD.toNat)

/-- A power loss (R346, R451): every domain is off, and nothing in memory is left. -/
def powerLoss (s : State) : State := modPower (powerDown s []) fun w => { w with requests := [], offs := [] }

/-- FEED_LOST (R346): in compatibility mode; loss of both feeds is a power loss. -/
def execFeedLost (b : Fin 2) (senseMv : BitVec 12) (s : State) : Out :=
  .next (if !s.power.compat || bit s.power.feedLost b.val || 700 ≤ senseMv.toNat then s
    else
      let s := modPower s fun w => { w with feedLost := setBit w.feedLost b.val true }
      let s := powerRecord (noted s) (0x40 + 3 * b.val) 2 0 senseMv.toNat 0
      if s.power.feedLost = 3 then powerLoss s else s)

/-- The ceiling in force on core c, % of IMAX (R348, R350, R377): 25 while a feed group is in FAULT or the core's region
is at its critical step. -/
def ceilingOf (s : State) (c : CoreId) : Nat :=
  let x := clampNat 10 100 (vget s.power.cores c).ceil.toNat
  if ((allFin 6).any fun g => (vget s.power.fgs g).fault) || (vget s.thermal.regions (coreRegion c)).crit then min x 25 else x

/-- The most that core c's allowance may move in 1 µs, 0.1 A (R350). -/
def slopeStep (s : State) (c : CoreId) : Nat :=
  clampNat 1 25 s.power.slope.toNat * (vget s.power.cores c).imaxD.toNat / 100

/-- A value moved toward a goal by at most a step. -/
def moveToward (x goal step : Nat) : Nat := if x < goal then min goal (x + step) else max goal (x - step)

/-- A request with MAKE_ROOM waits on a feed group of core c (R353). -/
def roomWanted (s : State) (c : CoreId) : Bool :=
  (waitingRequests s.power).any fun r => r.makeRoom && (feedShares r.dom).any fun p => p.1 == coreFeed s c

/-- The feed group of core c is SUSPECT and above 245 A (R347). -/
def feedOver (s : State) (c : CoreId) : Bool :=
  let g := vget s.power.fgs (coreFeed s c)
  g.suspect && decide (2450 < g.ampsD.toNat)

/-- Core c's allowance after 1 µs (R350, R351): lowered for PEAK_W in proportion to its activity, lowered for its feed
group or to make room, held while a rise would pass PEAK_W, else moved toward what its engines ask for. -/
def nextAllow (s : State) (act : Nat) (c : CoreId) : Nat :=
  let p := vget s.power.cores c
  let step := slopeStep s c
  let top := ceilingOf s c * p.imaxD.toNat / 100
  let overs := decide (s.power.peakW.toNat < s.power.instW.toNat)
  let hold := decide (s.power.peakW.toNat * 100 < s.power.instW.toNat * 100 + committed s.power * 16)
  let goal := min top (if act < p.allowD then act else top)
  if overs then p.allowD - step * act / max p.imaxD.toNat 1
  else if feedOver s c || roomWanted s c then p.allowD - step
  else if hold && decide (p.allowD < goal) then p.allowD
  else moveToward p.allowD goal step

/-- More than span ns have passed since an event, or it never happened. -/
def longSince (s : State) (span : Nat) (t : Option Nat) : Bool :=
  match t with
  | none => true
  | some x => decide (x + span ≤ s.reg.time.toNat)

/-- The governor limit of core c at a sample: one step of 50 MHz lower, at most once per 100 µs and not below the lowest
VF point, while its SUSPECT feed group is above 245 A (R347, log 66). -/
def feedLowered (s : State) (c : CoreId) : CorePower :=
  let p := vget s.power.cores c
  let base := min p.govMhz.toNat (targetMhz s (coreRegion c))
  if feedOver s c && longSince s 100000 p.loweredNs && decide (lowestPoint p < base) then
    { p with govMhz := BitVec.ofNat 11 (max (lowestPoint p) (base - 50)), loweredNs := some s.reg.time.toNat }
  else p

/-- GOVERNOR_PEAK_TICK (R344, R347, R350, R351): a 1 µs sample, and the allowances and limits that follow from it. -/
def execGovernorPeakTick (p : PowerSample) (s : State) : Out :=
  .next (let s := modPower s fun w => { w with
      instW := p.instW, nowW := p.nowW
      fgs := (allFin 6).foldl (fun v i => vmod v i fun x => { x with ampsD := vget p.fgAmpsD i, senseMv := vget p.fgSense i }) w.fgs }
    let hold := decide (s.power.peakW.toNat * 100 < s.power.instW.toNat * 100 + committed s.power * 16)
    modPower s fun w => { w with
      thrPeak := hold
      cores := (allFin 12).foldl (fun v c =>
        vset v c { feedLowered s c with allowD := nextAllow s (vget p.activity c).toNat c }) w.cores })

/-- The cores that the governor may lower (R352): above their lowest VF point, not lowered within 100 µs. -/
def mayLower (s : State) (c : CoreId) : Bool :=
  (getCore s c).st != .lost && decide (lowestPoint (vget s.power.cores c) < targetMhz s (coreRegion c)) &&
    longSince s 100000 (vget s.power.cores c).loweredNs

/-- The first element of a list that a measure ranks highest. -/
def bestOf {α : Type} (f : α → Nat) : List α → Option α
  | [] => none
  | x :: t => some (t.foldl (fun b y => if f b < f y then y else b) x)

/-- The governor limit of core c lowered by 50 MHz, not below its lowest VF point (R352). -/
def lowerCore (s : State) (c : CoreId) : State :=
  let base := min (vget s.power.cores c).govMhz.toNat (targetMhz s (coreRegion c))
  modPower s fun w => { w with
    govNs := some s.reg.time.toNat
    cores := vmod w.cores c fun p => { p with
      govMhz := BitVec.ofNat 11 (max (lowestPoint p) (base - 50)), loweredNs := some s.reg.time.toNat } }

/-- The governor limit of core c raised by 50 MHz, gone once it reaches Fmax (R352). -/
def raiseCore (s : State) (c : CoreId) : State :=
  modPower s fun w => { w with
    raisedNs := some s.reg.time.toNat
    cores := vmod w.cores c fun p => { p with
      govMhz := if p.fmax.toNat ≤ p.govMhz.toNat + 50 then noLimit else p.govMhz + 50 } }

/-- GOVERNOR_SUST_TICK (R352): above SUST_W the compute-heaviest core is lowered, one per 10 µs; below 98 % of it the
most-lowered is raised, one per 100 µs. -/
def execGovernorSustTick (avgW : BitVec 16) (activity : Vector (BitVec 16) 12) (s : State) : Out :=
  .next (let s := modPower s fun w => { w with avgW := avgW, thrSust := decide (w.sustW.toNat < avgW.toNat) }
    if s.power.sustW.toNat < avgW.toNat then
      if longSince s 10000 s.power.govNs then
        match bestOf (fun c => (vget activity c).toNat) ((allFin 12).filter (mayLower s)) with
        | some c => lowerCore s c
        | none => s
      else s
    else if avgW.toNat * 100 < s.power.sustW.toNat * 98 && longSince s 100000 s.power.raisedNs then
      match bestOf (fun c => (vget s.power.cores c).fmax.toNat - (vget s.power.cores c).govMhz.toNat)
          ((allFin 12).filter fun c => (vget s.power.cores c).govMhz != noLimit) with
      | some c => raiseCore s c
      | none => s
    else s)

/-- The check of PWR_LIMIT on the state: in compatibility mode at most 1,900 W (R345). -/
def pwrLimitAllow (s : State) (m : Mailbox) : BitVec 16 :=
  if s.power.compat && decide (1900 < pf m 0 2) then stBadForm else 0

/-- PWR_LIMIT (R358): the sustained power limit. -/
def execPwrLimit (mb : Fin 16) (s : State) : Out :=
  command s mb 0x60 pwrLimitAllow fun s m =>
    ends (noted (modPower s fun w => { w with sustW := BitVec.ofNat 12 (pf m 0 2) })) mb 0 []

/-- The HBM power-good input of a side. -/
def setHbmPg (s : State) (side : Fin 2) (b : Bool) : State := modPower s fun w => { w with hbmPg := vset w.hbmPg side b }

/-- HBM_PG_DEASSERT (R452): while its PHY domain is on, a trip of D26 or D27. -/
def execHbmPgDeassert (side : Fin 2) (s : State) : Out :=
  let d : Fin 30 := if side = 0 then 26 else 27
  .next (let s := setHbmPg s side false
    if domainUp s d then tripDomain s d 0 else s)

/-- A rail's range in mV and its absolute maximum (Tables 19-2, 19-5). -/
def railLimits (r : Rail) : Nat × Nat × Nat :=
  match r with
  | .vin _ => (1450, 1800, 2000)
  | .vc _ => (750, 850, 1000)
  | .hbmVdd _ => (1067, 1133, 1320)
  | .hbmVddq _ => (380, 420, 600)
  | .hbmVpp _ => (1710, 1890, 2200)
  | .vddqLp _ => (475, 570, 700)
  | .vio => (1710, 1890, 2100)

/-- VIN and the compatibility feeds stay under R348 and R346 until PERST# (R451). -/
def coreRail (r : Rail) : Bool :=
  match r with
  | .vin _ => true
  | .vc _ => true
  | _ => false

/-- RAIL_OUT_OF_RANGE (R451, R457): a power loss, unless PERST# is asserted; beyond the absolute maximum the spec says
only that the part may be damaged. -/
def execRailOutOfRange (rail : Rail) (mv : Nat) (s : State) : Out :=
  let x := railLimits rail
  if x.2.2 < mv then .fault .absoluteMaximum
  else .next (if s.pins.perst || (decide (x.1 ≤ mv) && decide (mv ≤ x.2.1)) then s
    else
      let s := modPower s fun w => { w with railsBad := true }
      if coreRail rail then s else powerLoss s)

/-- The board's HBM power-good input of a side is high (R342). -/
def hbmGood (s : State) (side : Fin 2) : Bool := vget s.power.hbmPg side

end Sys2Proof.Machine
end

