-- ==== Sys2Proof/Machine/Clock.lean ====
section
/-!
DEFINITION. Clocks and temperature (R357, R358, R361 to R378): caps, the reference, frequency changes, replica margin,
stretching, ageing, sensors and throttling.
-/
namespace Sys2Proof.Machine

/-- The core of a clock region, or 15 for an edge die or the management region. -/
def regionCore (r : Fin 15) : Nat := if r.val < 12 then r.val else 15

/-- The region's top frequency: a core's present Fmax, else the rated clock (R364). -/
def topMhz (s : State) (r : Fin 15) : Nat :=
  if r.val < 12 then (vget s.power.cores (coreOf r.val)).fmax.toNat else (vget s.clock.regions r).rated.toNat

/-- The region's floor (R374): a core's lowest VF point, else half the rated clock. -/
def floorMhz (s : State) (r : Fin 15) : Nat :=
  if r.val < 12 then lowestPoint (vget s.power.cores (coreOf r.val)) else (vget s.clock.regions r).rated.toNat / 2

/-- The cap that CLOCK_CAP sets (Table 15-2): rounded down to a multiple of 25 MHz, for cores at least 600 MHz. -/
def capOf (_ : State) (r : Fin 15) (mhz : Nat) : Nat :=
  if mhz = 0 then 0
  else min 2025 (max (if r.val < 12 then 600 else 0) (mhz / 25 * 25))

/-- A cap on the clock of a LOST core is refused: the unit is not present. -/
def clockCapAllow (s : State) (m : Mailbox) : BitVec 16 :=
  if pf m 0 1 < 12 && (getCore s (coreOf (pf m 0 1))).st == .lost then stNotPresent else 0

/-- CLOCK_CAP (R364). -/
def execClockCap (mb : Fin 16) (s : State) : Out :=
  command s mb 0x62 clockCapAllow fun s m =>
    let r := finOf 15 (by decide) (pf m 0 1)
    ends (modRegion s r fun k => { k with cap := BitVec.ofNat 11 (capOf s r (pf m 2 2)) }) mb 0 []

/-- THERMAL (R378): the throttle point. -/
def execThermal (mb : Fin 16) (s : State) : Out :=
  command s mb 0x63 always fun s m =>
    ends (noted { s with thermal := { s.thermal with throttleQ := BitVec.ofNat 10 (pf m 0 2) } }) mb 0 []

/-- Stretches of region r in the last ms. -/
def stretchesMs (s : State) (r : Fin 15) : Nat := (recentTimes s (10 ^ 6) (vget s.clock.regions r).strTimes).length

/-- A record of class CLOCK about a region's generator (Table 17-2). -/
def clockRecord (s : State) (r : Fin 15) (sev : BitVec 8) (stretches : Nat) : State :=
  let k := vget s.clock.regions r
  writeRecord s { recOf s 12 (regionCore r) (r.val * 256 + 0xFF) 0x0C sev 0 with
    detail := leBytes 1 (lowOf s r).toNat ++ leBytes 1 k.path.toNat ++ leBytes 2 k.cur.toNat ++ leBytes 4 stretches }

/-- REF_LOSS (R363): holdover, counted and recorded. -/
def execRefLoss (s : State) : Out :=
  .next (if s.clock.holdover || (vget s.power.doms 25).state != 1 then s
    else clockRecord { s with clock := { s.clock with
      refOk := false, lock := false, holdover := true, losses := satAdd s.clock.losses 1 } } 14 2 0)

/-- REF_RETURN (R363): the generators relock without a stop. -/
def execRefReturn (s : State) : Out :=
  .next (if s.clock.holdover then { s with clock := { s.clock with refOk := true, lock := true, holdover := false } } else s)

/-- HOLDOVER_EXPIRE (R363): every job dies, the device fails, and the record goes to the journal. -/
def execHoldoverExpire (s : State) : Out :=
  .next (if s.clock.holdover && s.reg.devState != 3 then
      clockRecord (failDevice (killAll s 0 (12, 15, 14 * 256 + 0xFF))) 14 3 0
    else s)

/-- The region can change frequency now: it runs, is not fenced for a reset (R399), and made no change within 10 µs
(R365). -/
def mayChange (s : State) (r : Fin 15) : Bool :=
  let k := vget s.clock.regions r
  !k.stopped && decide (r.val < 14) && decide (targetMhz s r ≠ k.cur.toNat) && longSince s 10000 k.changedAt &&
    (decide (12 ≤ r.val) || (coreClocked s (coreOf r.val) && !(getCore s (coreOf r.val)).fenced)) &&
    (decide (r.val < 12) || domainUp s (if r.val = 12 then 28 else 29))

/-- FREQ_CHANGE_START (R365, R366): toward the lowest limit in force now; a core's raise is announced. -/
def execFreqChangeStart (r : Fin 15) (s : State) : Out :=
  .next (if mayChange s r then
      let t := targetMhz s r
      let s := if r.val < 12 ∧ (vget s.clock.regions r).cur.toNat < t then announceActivity s (coreOf r.val) true else s
      modRegion s r fun k => { k with stopped := true, goal := BitVec.ofNat 11 t, changedAt := some s.reg.time.toNat }
    else s)

/-- FREQ_CHANGE_RESTART (R366): the clock restarts at the new frequency. -/
def execFreqChangeRestart (r : Fin 15) (s : State) : Out :=
  .next (if (vget s.clock.regions r).stopped then
      noted (modRegion s r fun k => { k with stopped := false, cur := k.goal, changes := k.changes + 1 })
    else s)

/-- A replica path reports a code (R367, R368). -/
def noteCode (s : State) (r : Fin 15) (code : BitVec 6) (path : BitVec 5) : State :=
  let low := lowOf s r
  modRegion s r fun k => { k with
    rpCode := smapSet 0x3F k.rpCode path.toNat code
    rpMin := smapSet 0x3F k.rpMin path.toNat (if code < smapGet 0x3F k.rpMin path.toNat then code else smapGet 0x3F k.rpMin path.toNat)
    low := if code < low then code else k.low
    path := if code < low then path else k.path
    lowAt := if code < low then s.reg.time.toNat else k.lowAt
    lowLife := if code < k.lowLife then code else k.lowLife }

/-- MARGIN_WARN (R368): at most one record per region per minute. -/
def execMarginWarn (r : Fin 15) (code : BitVec 6) (path : BitVec 5) (s : State) : Out :=
  .next (if pathCount r ≤ path.toNat || s.clock.warn ≤ code then s
    else
      let s := modRegion (noteCode s r code path) r fun k => { k with warnNew := true }
      if longSince s (60 * 10 ^ 9) (vget s.clock.regions r).warnAt then
        modRegion (clockRecord s r 1 (stretchesMs s r)) r fun k => { k with warnAt := some s.reg.time.toNat }
      else s)

/-- The time a stretch adds, ps, and the state after (R369): 12.5 % of the period for code 3, 25 % for 2, 37.5 % for 1,
50 % for 0; for a code of 4 to 7 the spec gives no value, so it is a free value up to 50 % (log 10). -/
def stretchPs (s : State) (r : Fin 15) (code : BitVec 6) : Nat × State :=
  let period := 10 ^ 6 / max 1 (vget s.clock.regions r).cur.toNat
  if code.toNat ≤ 3 then (period * (4 - code.toNat) / 8, s)
  else
    let f := takeFree s
    (f.1.toNat % (period / 2 + 1), f.2)

/-- PERIOD_STRETCH (R369, R370): one stretched period, counted; none while the region is stopped. -/
def execPeriodStretch (r : Fin 15) (code : BitVec 6) (path : BitVec 5) (s : State) : Out :=
  .next (if (vget s.clock.regions r).stopped || pathCount r ≤ path.toNat || s.clock.stretch < code then s
    else
      let e := stretchPs (noteCode s r code path) r code
      let now := s.reg.time.toNat
      bumpGen (modRegion e.2 r fun k => { k with
        str := satAdd k.str 1, strPs := satAdd k.strPs e.1, strTimes := now :: recentTimes s (10 ^ 6) k.strTimes }))

/-- STRETCH_LIMIT_EXCEEDED (R371): the margin limit lowers by 50 MHz, not below the region's floor. -/
def execStretchLimitExceeded (r : Fin 15) (n : BitVec 32) (s : State) : Out :=
  .next (if n.toNat ≤ s.clock.strLim.toNat || 14 ≤ r.val then s
    else
      let base := min (vget s.clock.regions r).margin.toNat (topMhz s r)
      let s := modRegion s r fun k => { k with
        margin := BitVec.ofNat 11 (max (floorMhz s r) (base - 50)), marginAt := some s.reg.time.toNat }
      clockRecord s r 1 n.toNat)

/-- MARGIN_LIMIT_RAISE (R371): 50 MHz after 10 s, gone once it reaches the present Fmax. -/
def execMarginLimitRaise (r : Fin 15) (s : State) : Out :=
  let k := vget s.clock.regions r
  .next (if k.margin = noLimit || !longSince s (10 * 10 ^ 9) k.marginAt then s
    else modRegion s r fun k => { k with
      margin := if topMhz s r ≤ k.margin.toNat + 50 then noLimit else k.margin + 50
      marginAt := some s.reg.time.toNat })

/-- The old point whose voltage a frequency takes: the lowest valid one at or above it. -/
def pointFor (p : CorePower) (f : Nat) : VfPoint :=
  match (vfPoints p).filter fun x => decide (f ≤ x.mhz.toNat) with
  | [] => vget p.vf 15
  | x :: t => t.foldl (fun b y => if y.mhz.toNat < b.mhz.toNat then y else b) x

/-- The VF table rebuilt for a lower Fmax (R357, R358): 16 points from 600 MHz to it, each at the voltage data of the old
point that its frequency took. -/
def rebuildVf (p : CorePower) (fmax : Nat) : CorePower :=
  { p with
    fmax := BitVec.ofNat 11 fmax
    vf := (allFin 16).foldl (fun v k =>
      let f := 600 + (fmax - 600) * k.val / 15
      vset v k { pointFor p f with mhz := BitVec.ofNat 11 f }) p.vf }

/-- The state with core c's power data changed. -/
def modCorePower (s : State) (c : CoreId) (f : CorePower → CorePower) : State :=
  modPower s fun w => { w with cores := vmod w.cores c f }

/-- A core is marked LOST in the condition report with a reason, and becomes LOST. -/
def markLost (s : State) (c : CoreId) (reason : BitVec 8) : State :=
  if (getCore s c).st = .lost then s else loseCore (condAppend s (unitWord 0 c.val 0) 0x01 reason 0 0) c

/-- VF_AGE_STEP (R358): AGE_MV rises by 5 mV up to 50; a point that would need more than 0.90 V lowers the present Fmax
by 50 MHz instead, and a core below 1,000 MHz is marked LOST. -/
def execVfAgeStep (c : CoreId) (k : Fin 16) (s : State) : Out :=
  let p := vget s.power.cores c
  let x := vget p.vf k
  .next (if !x.valid || (getCore s c).st == .lost then s
    else if 900 < x.fused.toNat + x.ageMv.toNat + 5 + x.offMv.toNat then
      let f := p.fmax.toNat - 50
      let s := modCorePower s c fun p => rebuildVf p f
      let s := noted (condAppend s (unitWord 0 c.val 0) 0x09 6 (BitVec.ofNat 16 f) 0)
      if f < 1000 then markLost s c 6 else s
    else if 50 ≤ x.ageMv.toNat then s
    else
      let s := modCorePower s c fun p => { p with vf := vmod p.vf k fun x => { x with ageMv := x.ageMv + 5 } }
      condAppend s (unitWord 0 c.val 0) 0x08 6 (BitVec.ofNat 16 (k.val + 16 * (x.ageMv.toNat + 5))) 0)

/-- A record of class THERMAL (Table 17-2). -/
def thermalRecord (s : State) (r : Fin 15) (i : Nat) (sev : BitVec 8) : State :=
  writeRecord s { recOf s 12 (regionCore r) (r.val * 256 + i) 0x0B sev 0 with
    detail := leBytes 1 i ++ [0] ++ leBytes 2 (vget s.thermal.regions r).lim.toNat ++ leBytes 2 (hottest s).2.toNat }

/-- The hottest working sensor of a region. -/
def hotSensor (x : ThermRegion) (r : Fin 15) : Nat :=
  (((x.sensors.toList.take (sensorCount r)).zipIdx.find? fun y => !y.1.bad && y.1.tempQ == x.tempQ).map (·.2)).getD 0

/-- The domains that a thermal trip leaves on (R378). -/
def tripKeeps (r : Fin 15) : List (Fin 30) := if r.val = 12 ∨ r.val = 14 then [] else [25, 28]

/-- The thermal trip (R378): domains off and latched, PWR_FAULT, every job dead, DEV_STATE FAILED. -/
def thermalTrip (s : State) (r : Fin 15) (i : Nat) : State :=
  let s := killAll s 0 (12, regionCore r, r.val * 256 + i)
  let s := thermalRecord (failDevice s) r i 3
  let s := assertPwrFault (powerDown s (tripKeeps r))
  let s := modPower s fun w => { w with
    requests := [], offs := []
    doms := (allFin 30).foldl (fun v d => if (tripKeeps r).contains d then v else vmod v d fun x => { x with latched := true }) w.doms }
  { s with thermal := { s.thermal with tripped := true } }

/-- The critical step and its end (R377), the management warning (R374), and how long the region has been cool (R375). -/
def judgeRegion (s : State) (r : Fin 15) (was : BitVec 16) : State :=
  let x := vget s.thermal.regions r
  let t := x.tempQ.toInt
  let thr : Int := s.thermal.throttleQ.toNat
  let cool := decide (t < thr - s.thermal.hystQ.toNat)
  let s := modTherm s r fun x => { x with
    below := if cool then some (x.below.getD s.reg.time.toNat) else none
    crit := x.crit && decide (thr ≤ t) }
  let s := if r = 14 ∧ thr ≤ t ∧ was.toInt < thr then thermalRecord s r (hotSensor x r) 1 else s
  if 440 ≤ t ∧ !x.crit then
    let s := modTherm s r fun x => { x with
      crit := true, lim := if r = 14 then x.lim else BitVec.ofNat 11 (floorMhz s r)
      steps := if r = 14 then x.steps else satAdd x.steps 1, lowered := some s.reg.time.toNat }
    thermalRecord (noted s) r (hotSensor x r) 2
  else s

/-- A sensor that has failed is recorded; a core with more than eight failed sensors is marked LOST (R373). -/
def failSensor (s : State) (r : Fin 15) (i : Fin 16) : State :=
  if (vget (vget s.thermal.regions r).sensors i).bad then
    modTherm s r fun x => { x with sensors := vmod x.sensors i fun y => { y with failed := true } }
  else
    let s := modTherm s r fun x => { x with sensors := vmod x.sensors i fun y => { y with failed := true } }
    let s := sensorFailed s r i.val
    if r.val < 12 ∧ 8 < failedSensors s r then markLost s (coreOf r.val) 11 else s

/-- SENSOR_SAMPLE (R372, R373, R377, R378): one reading; `apart` says that it has differed from its region's mean by more
than 15 °C for 1 ms. -/
def execSensorSample (r : Fin 15) (i : Fin 16) (tempQ : BitVec 16) (apart : Bool) (s : State) : Out :=
  .next (if sensorCount r ≤ i.val then s
    else
      let was := (vget s.thermal.regions r).tempQ
      let old := vget (vget s.thermal.regions r).sensors i
      let out := decide (tempQ.toInt < -160) || decide (600 < tempQ.toInt)
      let s := modTherm s r fun x => { x with sensors := vmod x.sensors i fun y => { y with tempQ := tempQ } }
      let s := if (out || apart) && !old.failed then failSensor s r i else s
      let bad := (vget (vget s.thermal.regions r).sensors i).bad
      let n := if bad || decide (tempQ.toInt < 460) then 0 else old.trips + 1
      let s := modTherm s r fun x => { x with sensors := vmod x.sensors i fun y => { y with trips := n } }
      let s := bumpGen (judgeRegion (retakeTemp s r) r was)
      if 2 ≤ n ∧ !s.thermal.tripped then thermalTrip s r i.val else s)

/-- The temperature that throttling sees (R374, R376): a core that owns a stack above HBM_LIM reads at least
THROTTLE_Q. -/
def throttleTemp (s : State) (r : Fin 15) : Int :=
  let t := (vget s.thermal.regions r).tempQ.toInt
  let owns := decide (r.val < 12) && (allFin 16).any fun u =>
    ownerField u == (fieldOf s (coreOf r.val)).val && decide (s.thermal.hbmLim < (vget s.tiers.stackList u).temp)
  if owns then max t s.thermal.throttleQ.toNat else t

/-- A region that thermal control may lower now (R374): at or above THROTTLE_Q, not lowered within 200 µs, above its
floor. -/
def mayThrottle (s : State) (r : Fin 15) : Bool :=
  let x := vget s.thermal.regions r
  decide (r.val < 14) && decide ((s.thermal.throttleQ.toNat : Int) ≤ throttleTemp s r) && longSince s 200000 x.lowered &&
    decide (floorMhz s r < min x.lim.toNat (topMhz s r))

/-- The hottest of a list of regions, the lower number first. -/
def hottestOf (s : State) : List (Fin 15) → Option (Fin 15)
  | [] => none
  | r :: t => some (t.foldl (fun b q => if throttleTemp s b < throttleTemp s q then q else b) r)

/-- THERMAL_CHECK (R374): the hottest such region's thermal limit lowers by 50 MHz. -/
def execThermalCheck (s : State) : Out :=
  .next (match hottestOf s ((allFin 15).filter (mayThrottle s)) with
    | none => s
    | some r =>
      let x := vget s.thermal.regions r
      let base := min x.lim.toNat (topMhz s r)
      let s := modTherm s r fun x => { x with
        lim := BitVec.ofNat 11 (max (floorMhz s r) (base - 50)), steps := satAdd x.steps 1
        lowered := some s.reg.time.toNat }
      if x.lim = noLimit then thermalRecord s r (hotSensor x r) 1 else s)

/-- A throttled region that has been cool for 1 ms (R375). -/
def mayRelease (s : State) (r : Fin 15) : Bool :=
  let x := vget s.thermal.regions r
  x.lim != noLimit && (match x.below with
    | some t => decide (t + 10 ^ 6 ≤ s.reg.time.toNat)
    | none => false)

/-- THERMAL_RELEASE (R375): the most-lowered such region rises by 50 MHz, one per ms; its limit goes once it reaches the
present Fmax or the rated clock. -/
def execThermalRelease (s : State) : Out :=
  .next (if !longSince s (10 ^ 6) s.thermal.raisedAt then s
    else match bestOf (fun r => topMhz s r - (vget s.thermal.regions r).lim.toNat) ((allFin 15).filter (mayRelease s)) with
    | none => s
    | some r =>
      let s := modTherm s r fun x => { x with
        lim := if topMhz s r ≤ x.lim.toNat + 50 then noLimit else x.lim + 50 }
      { s with thermal := { s.thermal with raisedAt := some s.reg.time.toNat } })

end Sys2Proof.Machine
end

