-- ==== Sys2Proof/Machine/Image.lean ====
section
/-!
DEFINITION. The job image (R314 to R323): its header, sections and entries, and the checks that make one malformed.
-/
namespace Sys2Proof.Machine

/-- An entry of the directory (Table 13-1). -/
structure Section where
  typ   : Nat
  count : Nat
  off   : Nat
  len   : Nat
  rsv   : Nat

/-- Header fields (Table 13-1). -/
def imgFlags (i : List Byte) : BitVec 32 := BitVec.ofNat 32 (leAt i 0x20 4)
def imgCores (i : List Byte) : Nat := leAt i 0x28 1
def imgPlaces (i : List Byte) : Nat := leAt i 0x29 1
def imgFrames (i : List Byte) : Nat := leAt i 0x2A 1

/-- Directory entry n. -/
def dirEntry (i : List Byte) (n : Nat) : Section where
  typ := leAt i (0x40 + 16 * n) 2
  rsv := leAt i (0x42 + 16 * n) 2
  count := leAt i (0x44 + 16 * n) 4
  off := leAt i (0x48 + 16 * n) 4
  len := leAt i (0x4C + 16 * n) 4

/-- The directory entries in use. -/
def sections (i : List Byte) : List Section := (List.range (min 12 (leAt i 0x2D 1))).map (dirEntry i)

/-- The entry size of a section type (Table 13-2). -/
def entrySize (t : Nat) : Nat := [0, 16, 4, 4, 1, 16, 16, 48, 16, 32, 32].getD t 0

/-- The entries of section type t; none when it is absent. -/
def entries (i : List Byte) (t : Nat) : List (List Byte) :=
  match (sections i).find? fun x => x.typ == t with
  | none => []
  | some x => (List.range x.count).map fun n => slice i (x.off + n * entrySize t) (entrySize t)

/-- The section is present. -/
def hasSection (i : List Byte) (t : Nat) : Bool := (sections i).any fun x => x.typ == t

/-- Two byte ranges share a byte. -/
def overlaps (a n b m : Nat) : Bool := decide (a < b + m) && decide (b < a + n) && decide (0 < n) && decide (0 < m)

/-- No two elements of a list are in a relation. -/
def noPair {α : Type} (r : α → α → Bool) : List α → Bool
  | [] => true
  | x :: t => (t.all fun y => !r x y) && noPair r t

/-- The header obeys Table 13-1. -/
def headerOk (i : List Byte) : Bool :=
  leAt i 0 4 == 0x494A5A4E && leAt i 4 2 == 1 && leAt i 6 2 == 256 && decide (leAt i 0x20 4 < 64) &&
    decide (1 ≤ imgCores i) && decide (imgCores i ≤ 12) && decide (1 ≤ imgPlaces i) && decide (imgPlaces i ≤ 5) &&
    decide (1 ≤ imgFrames i) && decide (imgFrames i ≤ 8) &&
    (leAt i 0x2B 1 == 0 || (decide (6 ≤ leAt i 0x2B 1) && decide (leAt i 0x2B 1 ≤ 16))) && decide (leAt i 0x2C 1 ≤ 2) &&
    decide (4 ≤ leAt i 0x2D 1) && decide (leAt i 0x2D 1 ≤ 10) && leAt i 0x2E 2 == 0 && leAt i 0x34 12 == 0 &&
    (crc32c (patch i 0x30 [0, 0, 0, 0])).toNat == leAt i 0x30 4

/-- The COUNT a section must have (Table 13-2). -/
def countOk (i : List Byte) (x : Section) : Bool :=
  if x.typ = 1 then x.count == imgPlaces i
  else if x.typ = 2 then x.count == imgCores i
  else if x.typ = 3 then x.count == imgFrames i
  else if x.typ = 4 then x.count == imgPlaces i * imgCores i * imgCores i
  else if x.typ = 5 then decide (1 ≤ x.count) && decide (x.count ≤ 384)
  else if x.typ = 9 then decide (x.count ≤ 16)
  else true

/-- The directory obeys R314 and R315. -/
def dirOk (i : List Byte) : Bool :=
  let l := sections i
  (l.all fun x => decide (1 ≤ x.typ) && decide (x.typ ≤ 10) && x.rsv == 0 && x.off % 64 == 0 &&
    decide (x.off + x.len ≤ i.length) && x.len == x.count * entrySize x.typ && countOk i x) &&
    noPair (fun x y => x.typ == y.typ || overlaps x.off x.len y.off y.len) l &&
    [1, 2, 3, 5].all (hasSection i) &&
    leAt i (0x40 + 16 * leAt i 0x2D 1) (192 - 16 * leAt i 0x2D 1) == 0

/-- A DATA field and its bytes lie inside the image (R315). -/
def dataOk (i : List Byte) (a n : Nat) : Bool := a % 16 == 0 && decide (a + n ≤ i.length)

/-- The placed cores of a PLACE entry. -/
def placeCores (i : List Byte) (e : List Byte) : List Nat := (List.range (imgCores i)).map fun k => leAt e k 1

/-- A PLACE entry is in form: one core each, none twice (log 41), 0xFF beyond P. -/
def placeOk (i : List Byte) (e : List Byte) : Bool :=
  let l := placeCores i e
  (l.all fun c => decide (c < 12)) && noPair (· == ·) l &&
    ((List.range 12).all fun k => decide (k < imgCores i) || leAt e k 1 == 0xFF) && leAt e 12 4 == 0

/-- SETS of image core k (R320). -/
def imgSets (i : List Byte) (k : Nat) : Nat := ((entries i 2).find? fun e => leAt e 0 1 == k).elim 0 fun e => leAt e 1 1

/-- A frame word has a Remote slot and no reserved code (R56). -/
def frameOk (w : Nat) : Bool :=
  let l := (List.range 8).map fun k => w / 16 ^ k % 16
  l.all (fun o => decide (o ≤ 9) || o == 15) && l.contains 8

/-- A CODE entry is in form (R318). -/
def codeOk (i : List Byte) (e : List Byte) : Bool :=
  let q := leAt e 1 1
  decide (leAt e 0 1 < imgCores i) && decide (q < 16) && decide (leAt e 2 1 ≤ 1) && leAt e 3 1 == 0 && leAt e 12 4 == 0 &&
    leAt e 4 4 % 16 == 0 && leAt e 4 4 != 0 && decide (leAt e 4 4 ≤ 16 * halfLen (seqOf q)) && dataOk i (leAt e 8 4) (leAt e 4 4)

/-- A DESC entry is in form (R319). -/
def descOk (i : List Byte) (e : List Byte) : Bool :=
  let n := leAt e 4 2
  decide (leAt e 0 1 < imgCores i) && decide (leAt e 1 1 < 16) && leAt e 3 1 == 0 && leAt e 6 2 == 0 && leAt e 12 4 == 0 &&
    decide (1 ≤ n) && decide (leAt e 2 1 + n ≤ 256) && dataOk i (leAt e 8 4) (16 * n)

/-- A CARREL entry is in form and its record passes the checks of Table 03-11 (R321). -/
def declOk (i : List Byte) (e : List Byte) : Bool :=
  let r := slice e 16 32
  decide (leAt e 0 1 < imgCores i) && decide (leAt e 1 1 < 64) && decide (leAt e 2 1 ≤ 3) && decide (leAt e 3 1 ≤ 2) &&
    leAt e 4 12 == 0 && !carrelForm r (imgCores i) && !carrelRange r (imgSets i (leAt e 0 1) * setBytes)

/-- Two declarations of one Carrel, or two on one core whose ranges share a slot. -/
def declClash (x y : List Byte) : Bool :=
  leAt x 0 1 == leAt y 0 1 && (leAt x 1 1 == leAt y 1 1 || overlaps (leAt x 16 4) (leAt x 20 4) (leAt y 16 4) (leAt y 20 4))

/-- A CONST entry is in form (R320). -/
def constOk (i : List Byte) (e : List Byte) : Bool :=
  decide (leAt e 0 1 < imgCores i) && decide (leAt e 1 1 ≤ 1) && leAt e 2 2 == 0 && leAt e 4 4 % 64 == 0 &&
    leAt e 8 4 % 64 == 0 && decide (leAt e 4 4 + leAt e 8 4 ≤ imgSets i (leAt e 0 1) * setBytes) &&
    dataOk i (leAt e 12 4) (leAt e 8 4)

/-- A WINDOW entry is in form (R322). -/
def windowOk (s : State) (e : List Byte) : Bool :=
  let b := leAt e 0 8
  let n := leAt e 8 8
  b % 65536 == 0 && n % 65536 == 0 && decide (leAt e 16 1 < 16) && leAt e 17 15 == 0 &&
    (n == 0 || rangePopulated s.tiers b (b + n - 1))

/-- A WINDOW entry as a window. -/
def windowFrom (e : List Byte) : Window := { base := leAt e 0 8, len := leAt e 8 8, rights := BitVec.ofNat 8 (leAt e 16 1) }

/-- A WEIGHT entry is in form (R323). -/
def weightOk (i : List Byte) (e : List Byte) : Bool :=
  let a := leAt e 8 8
  let n := leAt e 16 8
  let k := leAt e 28 4
  decide (leAt e 24 1 ≤ 0xB) && decide (leAt e 25 1 ≤ 4) && leAt e 26 2 == 0 &&
    ((entries i 9).any fun w => decide (leAt w 0 8 ≤ a) && decide (a + n ≤ leAt w 0 8 + leAt w 8 8) &&
      decide (leAt w 16 1 % 2 = 1)) &&
    (if leAt e 25 1 = 4 then k == 0xFFFFFFFF
     else k == 0xFFFFFFFF || ((entries i 10)[k]?).any fun x => leAt x 25 1 == 4)

/-- The image obeys R314 to R323 and R56. -/
def imageOk (s : State) (i : List Byte) : Bool :=
  headerOk i && dirOk i && (entries i 1).all (placeOk i) &&
    ((entries i 2).all fun e => decide (leAt e 0 1 < imgCores i) && decide (1 ≤ leAt e 1 1) && decide (leAt e 1 1 ≤ 20) &&
      leAt e 2 2 == 0) &&
    noPair (fun x y => leAt x 0 1 == leAt y 0 1) (entries i 2) &&
    ((entries i 3).all fun e => frameOk (leAt e 0 4)) && ((entries i 4).all fun e => decide (leAt e 0 1 ≤ 2)) &&
    (entries i 5).all (codeOk i) && (entries i 6).all (descOk i) && (entries i 7).all (declOk i) &&
    noPair declClash (entries i 7) && (entries i 8).all (constOk i) &&
    noPair (fun x y => leAt x 0 1 == leAt y 0 1 && overlaps (leAt x 4 4) (leAt x 8 4) (leAt y 4 4) (leAt y 8 4)) (entries i 8) &&
    (entries i 9).all (windowOk s) &&
    noPair (fun x y => overlaps (leAt x 0 8) (leAt x 8 8) (leAt y 0 8) (leAt y 8 8)) (entries i 9) &&
    (entries i 10).all (weightOk i)

end Sys2Proof.Machine
end

