-- ==== Sys2Proof/Machine/Jobs.lean ====
section
/-!
DEFINITION. Jobs (R324 to R338): loading an image, starting, pausing, resuming, killing and reporting a job, and the
cluster gates of the core controller.
-/
namespace Sys2Proof.Machine

/-- The placements of an image (Table 13-2). -/
def placements (i : List Byte) : List (List Nat) := (entries i 1).map (placeCores i)

/-- A placed core that can take sets of an image core (R328). -/
def coreFits (s : State) (c : CoreId) (sets : Nat) : Bool :=
  let k := getCore s c
  k.st == .idle && !k.fenced && !k.stk.hold && decide (sets * setBytes ≤ stkSize s c)

/-- A placement fits (R328). -/
def placeFits (s : State) (i : List Byte) (l : List Nat) : Bool :=
  l.zipIdx.all fun p => coreFits s (coreOf p.1) (imgSets i p.2)

/-- The placement that JOB_LOAD takes: the one named, or with 0xFF the first that fits (R328). -/
def choosePlace (s : State) (i : List Byte) (pl : Nat) : Option Nat :=
  let l := placements i
  if pl = 0xFF then (List.range l.length).find? fun n => placeFits s i (l.getD n [])
  else if pl < l.length ∧ placeFits s i (l.getD pl []) then some pl else none

/-- The next free job ID after the one given last (R329). -/
def freeJobId (r : Registrar) : Option (BitVec 6) :=
  ((List.range 63).map fun i => BitVec.ofNat 6 ((r.nextJob.toNat + 62 + i) % 63 + 1)).find? fun n =>
    !r.jobs.any fun j => j.id == n

/-- The windows of an image (R322). -/
def imageWindows (i : List Byte) : List Window := (entries i 9).map windowFrom

/-- Two windows share a byte. -/
def Window.meets (a b : Window) : Bool := overlaps a.base a.len b.base b.len

/-- A window that something else writes (R322, R326). -/
def Window.written (w : Window) : Bool := bit w.rights 1 || bit w.rights 3

/-- Ranges of memory that no window may meet: the rings of the performance monitor and the Duplicate window of a
pairing (R437, R416). -/
def reservedRanges (s : State) : List Window :=
  (if s.pmu.ledRecs = 0 then [] else
    [{ base := s.pmu.ledBase.toNat * 65536, len := s.pmu.ledRecs.toNat * 59264, rights := 2 }]) ++
  (if s.pmu.slipRecs = 0 then [] else
    [{ base := s.pmu.slipBase.toNat * 65536, len := s.pmu.slipRecs.toNat * 64, rights := 2 }]) ++
  (match s.flash.pairing with
    | some p => [{ base := p.base, len := p.len, rights := 2 }]
    | none => [])

/-- The windows of an image against those of every other job (R326). -/
def windowsFree (s : State) (l : List Window) : Bool :=
  let taken := s.reg.jobs.flatMap (·.windows)
  (l.all fun w => (taken.all fun x => !(w.meets x && (w.written || x.written))) &&
    (reservedRanges s).all fun x => !w.meets x)

/-- The image lies inside a function's grant (R325, R327). -/
def inGrant (s : State) (fn : Fin 9) (a n : Nat) : Bool :=
  match vget s.reg.grants fn with
  | none => false
  | some l => l.any fun w => decide (w.base ≤ a) && decide (a + n ≤ w.base + w.len)

/-- A slot of a range of memory is poisoned. -/
def anyPoison (s : State) (a n : Nat) : Bool := s.poison.any fun k => decide (a / 64 ≤ k) && decide (k * 64 < a + n)

/-- FLAGS of an image that profile G disables (Table 13-3). -/
def unlicensed (s : State) (i : List Byte) : Bool := s.flash.profile == 1 && (imgFlags i &&& 0x1E) != 0

/-- The image that a JOB_LOAD names. -/
def loadImage (s : State) (m : Mailbox) : List Byte := memRead s.mem (pf m 0 8) (pf m 8 8)

/-- The checks of JOB_LOAD in the order of Table 13-3. -/
def jobLoadAllow (s : State) (m : Mailbox) : BitVec 16 :=
  let i := loadImage s m
  let fn := finOf 9 (by decide) (pf m 16 1)
  let pl := pf m 17 1
  if leAt i 0x10 8 ≠ pf m 8 8 then stBadForm
  else if pl ≠ 0xFF ∧ 1 ≤ imgPlaces i ∧ imgPlaces i ≤ 5 ∧ imgPlaces i ≤ pl then stBadForm
  else if m.fn ≠ 0 && (fn != m.fn || !inGrant s fn (pf m 0 8) (pf m 8 8)) then stDenied
  else if anyPoison s (pf m 0 8) (pf m 8 8) || !imageOk s i then stMalformed
  else if unlicensed s i then stNotLicensed
  else if 8 ≤ s.reg.jobs.length || (freeJobId s.reg).isNone || (fn != 0 && s.reg.jobs.any fun j => j.func == fn) then
    stNoResource
  else if !windowsFree s (imageWindows i) then stNoResource
  else if (choosePlace s i pl).isNone then stNoResource
  else 0

/-- The bytes that the last CODE entry of a sequencer's half loads, if any (R318). -/
def codeBytes (i : List Byte) (k : Nat) (q : SeqId) (half : Nat) : Option (List Byte) :=
  ((entries i 5).reverse.find? fun e => leAt e 0 1 == k && leAt e 1 1 == q.val && leAt e 2 1 == half).map fun e =>
    slice i (leAt e 8 4) (leAt e 4 4)

/-- The descriptor table that the DESC entries of a sequencer give (R319). -/
def descTable (i : List Byte) (k : Nat) (q : SeqId) : SMap Word128 :=
  ((entries i 6).filter fun e => leAt e 0 1 == k && leAt e 1 1 == q.val).foldl (fun t e =>
    (List.range (leAt e 4 2)).foldl (fun t n =>
      smapSet 0 t (leAt e 2 1 + n) (BitVec.ofNat 128 (leAt i (leAt e 8 4 + 16 * n) 16))) t) []

/-- A sequencer as JOB_LOAD leaves it (R318, R319, R330). -/
def loadSeq (i : List Byte) (k : Nat) (q : SeqId) : SeqState :=
  { SeqState.init with
    imem0 := ((codeBytes i k q 0).map imemOf).getD []
    imem1 := ((codeBytes i k q 1).map imemOf).getD []
    altReady := (codeBytes i k q 1).isSome
    dormant := (codeBytes i k q 0).isNone
    desc := descTable i k q }

/-- The frame tables of an image; those beyond NFRAME repeat T0 (R330). -/
def imageFrames (i : List Byte) : Vector (BitVec 32) 8 :=
  let l := (entries i 3).map fun e => BitVec.ofNat 32 (leAt e 0 4)
  (allFin 8).foldl (fun v n => vset v n (l.getD n.val (l.getD 0 defaultFrame))) (Vector.replicate 8 defaultFrame)

/-- A CONST entry copied to core c with its tags (R320). -/
def loadConst (i : List Byte) (c : CoreId) (s : State) (e : List Byte) : State :=
  let sa := leAt e 4 4
  let n := leAt e 8 4
  let s := setBytesAt s (stacksAddr c sa) (slice i (leAt e 12 4) n)
  (List.range (n / 64)).foldl (fun s k =>
    setPoison (setFull s (slotOf c (sa + 64 * k)) (leAt e 1 1 == 1)) (slotOf c (sa + 64 * k)) false) s

/-- Image core k loaded onto core c (R330). -/
def loadCore (i : List Byte) (id : BitVec 6) (s : State) (k : Nat) (c : CoreId) : State :=
  let s := modCore s c fun x => { x with
    st := .loaded, jobId := id, sets := imgSets i k, seqRun := 0, saved := 0, frameSel := 0, framePend := none
    seqs := (allFin 16).foldl (fun v q => vset v q (loadSeq i k q)) x.seqs
    stk := { x.stk with frames := imageFrames i } }
  ((entries i 8).filter fun e => leAt e 0 1 == k).foldl (loadConst i c) s

/-- A declared Carrel of an image (R321). -/
def declOf (e : List Byte) : CarrelDecl where
  icore := leAt e 0 1
  k := finOf 64 (by decide) (leAt e 1 1)
  selfJob := bit (BitVec.ofNat 8 (leAt e 2 1)) 0
  ownFn := bit (BitVec.ofNat 8 (leAt e 2 1)) 1
  tagInit := BitVec.ofNat 8 (leAt e 3 1)
  record := slice e 16 32

/-- The job that an image becomes at placement pl (R314, R317, R330). -/
def jobOf (i : List Byte) (id : BitVec 6) (pl : Nat) (fn : Fin 9) : Job :=
  let l := ((placements i).getD pl []).map coreOf
  let p := imgCores i
  { id := id, state := 3, cores := l, place := BitVec.ofNat 8 pl, func := fn
    imageId := BitVec.ofNat 64 (leAt i 8 8), seed := BitVec.ofNat 64 (leAt i 0x18 8), flags := imgFlags i
    tagTmoUs := BitVec.ofNat 32 (leAt i 0x24 4), shRate := BitVec.ofNat 8 (leAt i 0x2B 1)
    fcastD := BitVec.ofNat 8 (leAt i 0x2C 1), sets := (List.range p).map (imgSets i)
    windows := imageWindows i, decls := (entries i 7).map declOf
    pins := (((entries i 4).drop (pl * p * p)).take (p * p)).map fun e => BitVec.ofNat 8 (leAt e 0 1)
    coded := l.zipIdx.flatMap fun x => ((allFin 16).filter fun q => (codeBytes i x.2 q 0).isSome).map fun q => (x.1, q)
    startNs := 0, lastFault := 0, killed := false, normal := false, draining := false, hold := [], aband := false }

/-- JOB_LOAD's effect (R324, R325, R329, R330). -/
def loadJob (s : State) (i : List Byte) (id : BitVec 6) (pl : Nat) (fn : Fin 9) : State :=
  let j := jobOf i id pl fn
  let s := j.cores.zipIdx.foldl (fun s x => loadCore i id s x.2 x.1) s
  noted (modReg s fun r => { r with
    jobs := r.jobs ++ [j]
    nextJob := BitVec.ofNat 6 (id.toNat % 63 + 1)
    grants := vset r.grants fn (some j.windows) })

/-- JOB_LOAD (R327, R328, R330, R271): a load whose mailbox an FLR has abandoned kills the job it loaded. -/
def execJobLoad (mb : Fin 16) (s : State) : Out :=
  command s mb 0x20 jobLoadAllow fun s m =>
    let i := loadImage s m
    match freeJobId s.reg, choosePlace s i (pf m 17 1) with
    | some id, some pl =>
      let s := loadJob s i id pl (finOf 9 (by decide) (pf m 16 1))
      let l := ((placements i).getD pl []).map coreOf
      let s := if m.aband then
          killJob (modReg s fun r => { r with grants := vset r.grants (finOf 9 (by decide) (pf m 16 1)) none }) id 0 0x20 (0, 15, 0) none
        else s
      ends s mb 0 (leBytes 1 id.toNat ++ leBytes 1 pl ++ leBytes 2 (coreMaskOf l) ++ [0, 0, 0, 0])
    | _, _ => ends s mb stNoResource []

/-- A command on a job in one of the given states (Table 13-4). -/
def jobIn (states : List (BitVec 8)) (s : State) (m : Mailbox) : BitVec 16 :=
  match namedJob s m 0 with
  | .error e => e
  | .ok j => if states.contains j.state then 0 else stBadState

/-- The job a mailbox command names in its first byte. -/
def jobNamed (s : State) (m : Mailbox) : Option Job := findJob s (BitVec.ofNat 6 (pf m 0 1))

/-- STK_SIZE of every placed core still holds the job's sets (R331). -/
def setsHold (s : State) (j : Job) : Bool :=
  j.cores.zipIdx.all fun x => decide (j.sets.getD x.2 0 * setBytes ≤ stkSize s x.1)

/-- The checks of JOB_START (R331). -/
def jobStartAllow (s : State) (m : Mailbox) : BitVec 16 :=
  let st := jobIn [3] s m
  if st ≠ 0 then st
  else match jobNamed s m with
    | some j => if setsHold s j then 0 else stNoResource
    | none => stNoSuch

/-- A declared record with SELF_JOB and OWN_FN in it (R321). -/
def declRecord (j : Job) (d : CarrelDecl) : List Byte :=
  let jm := leAt d.record 8 8
  let hm := leAt d.record 0x12 2
  let r := patch d.record 8 (leBytes 8 (if d.selfJob then (BitVec.ofNat 64 jm ||| BitVec.ofNat 64 (2 ^ j.id.toNat)).toNat else jm))
  patch r 0x12 (leBytes 2 (if d.ownFn then (BitVec.ofNat 16 hm ||| BitVec.ofNat 16 (2 ^ j.func.val)).toNat else hm))

/-- A declared Carrel opens, and TAGINIT sets its tags (R321, R331). -/
def openDecl (j : Job) (s : State) (d : CarrelDecl) : State :=
  match j.cores[d.icore]? with
  | none => s
  | some c =>
    let s := openCarrel s c d.k (declRecord j d)
    if d.tagInit = 0 then s
    else (List.range (leAt d.record 4 4 / 64)).foldl (fun s n =>
      setFull s (slotOf c (leAt d.record 0 4 + 64 * n)) (d.tagInit == 2)) s

/-- A Last at the start of a job: empty planes and queues, shape 1 x 1, unpaired, its per-job counters zero (R99,
R124); accumulators, logs and an armed injection stay. -/
def startLast (fallback : Bool) (x : LastState) : LastState :=
  { LastState.init with
    acc := x.acc, resCnt := x.resCnt, resLog := x.resLog, dupCnt := x.dupCnt, dupLog := x.dupLog, inj := x.inj
    fallback := x.fallback || fallback, spCnt := x.spCnt, spLog := x.spLog, fbCnt := x.fbCnt
    misTimes := x.misTimes, suspect := x.suspect }

/-- A Welt at the start of a job: its key, no carry, per-job counters zero (R198, R166, Table 07-7). -/
def startWelt (key : BitVec 128) (x : WeltState) : WeltState :=
  { x with
    key := key, carry := none, pos := 0, elems := 0, stall := 0, selGroups := 0, selMasks := 0, shRun := 0, shSkip := 0 }

/-- The Awl at the start of a job: FALLBACK, its per-job counters zero (R151, Table 06-10). -/
def startAwl (fallback : Bool) (x : AwlState) : AwlState :=
  { x with fallback := x.fallback || fallback, lines := 0, stall := 0, latch := false, redo := [] }

/-- The numeric block at the start of a job (R198, R207, R209). -/
def startNum (j : Job) (fp : BitVec 16) (x : NumState) : NumState :=
  { x with
    det := bit j.flags 0, keyed := true, keyFp := fp, bins := Vector.replicate 16 0
    rate := if j.shRate = 0 then x.rate else j.shRate.setWidth 5 }

/-- Core c prepared for the start of its job (R331 steps 1 to 3 and 5). -/
def prepareCore (j : Job) (key : BitVec 128) (fp : BitVec 16) (s : State) (c : CoreId) : State :=
  announceActivity (modCore s c fun k => { k with
    num := startNum j fp k.num, frameSel := 0, framePend := none, clGate := 0, ungating := 0
    stk := { k.stk with tagTmoUs := j.tagTmoUs }
    lasts := k.lasts.map (startLast (bit j.flags 5)), welts := k.welts.map (startWelt key)
    awl := startAwl (bit j.flags 5) k.awl }) c true

/-- The sequencers of core c that have half-0 code start (R331 step 6). -/
def runCore (j : Job) (s : State) (c : CoreId) : State :=
  let l := (j.coded.filter fun x => x.1 == c).map fun x => x.2.val
  modCore s c fun k => { k with
    st := .running
    seqRun := l.foldl (fun m q => setBit m q true) 0
    seqs := (allFin 16).foldl (fun v q => if l.contains q.val then vmod v q fun x => { x with st := .issuing } else v) k.seqs }

/-- The start of a job (R331): the key is drawn anew unless the image is deterministic (R198). -/
def startJob (s : State) (j : Job) : State :=
  let det := bit j.flags 0
  let r := if det then (0, s) else takeFree s
  let d := cbgDigest j.seed (r.1.setWidth 32)
  let key := BitVec.ofNat 128 (leNat (d.take 16))
  let fp := BitVec.ofNat 16 (leNat ((d.drop 16).take 2))
  let s := j.cores.foldl (prepareCore j key fp) r.2
  let decls := (List.range 64).flatMap fun n => j.decls.filter fun x => x.k.val == n
  let s := decls.foldl (openDecl j) s
  let s := j.cores.foldl (runCore j) s
  noted (modJob s j.id fun x => { x with state := 4, startNs := s.reg.time })

/-- JOB_START (R331). -/
def execJobStart (mb : Fin 16) (s : State) : Out :=
  command s mb 0x21 jobStartAllow fun s m =>
    match jobNamed s m with
    | some j => ends (startJob s j) mb 0 []
    | none => s

/-- Nothing issues on a job's cores, and their run masks are saved (R332). -/
def pauseCores (s : State) (j : Job) : State :=
  j.cores.foldl (fun s c => modCore s c fun k => { k with st := .paused, saved := k.seqRun, seqRun := 0 }) s

/-- JOB_PAUSE (R332). -/
def execJobPause (mb : Fin 16) (s : State) : Out :=
  command s mb 0x22 (jobIn [4]) fun s m =>
    match jobNamed s m with
    | some j =>
      ends (noted (modJob (pauseCores s j) j.id fun x => { x with state := 5 })) mb 0 []
    | none => s

/-- JOB_RESUME (R332): the saved mask OR the present one. -/
def execJobResume (mb : Fin 16) (s : State) : Out :=
  command s mb 0x23 (jobIn [5]) fun s m =>
    match jobNamed s m with
    | some j =>
      let s := j.cores.foldl (fun s c => modCore s c fun k =>
        { k with st := .running, seqRun := k.saved ||| k.seqRun, saved := 0 }) s
      ends (noted (modJob s j.id fun x => { x with state := 4 })) mb 0 []
    | none => s

/-- JOB_KILL (R334): the command ends OK when the scrub frees the job (R313). -/
def execJobKill (mb : Fin 16) (s : State) : Out :=
  command s mb 0x24 (jobIn [3, 4, 5]) fun s m =>
    waits (killJob s (BitVec.ofNat 6 (pf m 0 1)) 0 0 (0, 15, 0) none) mb

/-- A job's entry in INVENTORY (Table 12-8, section 9). -/
def jobEntry (j : Job) : List Byte :=
  leBytes 1 j.id.toNat ++ leBytes 1 j.state.toNat ++ leBytes 2 (coreMaskOf j.cores) ++ leBytes 1 j.func.val ++
    leBytes 1 j.place.toNat ++
    leBytes 1 (b2n (bit j.flags 0) + 2 * b2n (bit j.flags 1) + 4 * b2n (bit j.flags 3) + 8 * b2n (bit j.flags 5)) ++
    leBytes 1 j.lastFault.toNat ++ leBytes 8 j.startNs.toNat ++ leBytes 8 j.imageId.toNat ++ List.replicate 8 0

/-- JOB_STATUS (R304). -/
def execJobStatus (mb : Fin 16) (s : State) : Out :=
  command s mb 0x25 (jobIn [3, 4, 5, 6]) fun s m =>
    match jobNamed s m with
    | some j => ends s mb 0 (jobEntry j)
    | none => s

/-- The engines of cluster k hold no queued and no in-flight instruction (R338). -/
def clusterIdle (s : State) (c : CoreId) (k : Nat) : Bool :=
  (allFin 16).all fun q => clusterOf q != some k || (engineIdle s c q &&
    (if h : q.val < 4 then
      let x := vget (getCore s c).lasts ⟨q.val, h⟩
      x.loadQ.isEmpty && x.streamQ.isEmpty && x.arr.isEmpty && x.drainQ.isEmpty
    else true))

/-- The clusters that a CLGATE newly gates can be gated now (R338). -/
def mayGate (s : State) (c : CoreId) (g : BitVec 2) : Bool :=
  (List.range 2).all fun k => !bit g k || bit (getCore s c).clGate k || clusterIdle s c k

/-- JOB_CL_GATE written (R30, R338): a cluster that ungates is announced and still ungating. -/
def writeGate (s : State) (c : CoreId) (g : BitVec 2) : State :=
  let up := (getCore s c).clGate &&& ~~~g
  let s := modCore s c fun k => { k with clGate := g, ungating := (k.ungating ||| up) &&& ~~~g }
  noted (if up = 0 then s else announceActivity s c true)

/-- CLGATE (R337, R338): waits for idle clusters, writes, and stays in flight until its change has taken effect. -/
def execClgate (c : CoreId) (w : BitVec 120) (s : State) : Out :=
  let g := w.extractLsb' 0 2
  .next (engineInstr s c ccSeq (instrWord 0x13 w) (mask128 119 2) [] { names := [], ops := [], bad := none } fun s y =>
    if y.got.isEmpty then (if mayGate s c g then .act fun s => writeGate s c g else .hold)
    else if (getCore s c).ungating &&& ~~~g = 0 then .finish id else .hold)

/-- CLUSTER_UNGATE_DONE (R30): 2 µs after the write. -/
def execClusterUngateDone (c : CoreId) (k : Fin 2) (s : State) : Out :=
  .next (modCore s c fun x => { x with ungating := setBit x.ungating k.val false })

end Sys2Proof.Machine
end

