-- ==== Sys2Proof/Machine/Snap.lean ====
section
/-!
DEFINITION. Step boundaries, snapshots and restores (R416 to R429): STEPEND, the freeze and its manifest, streaming to
the layers, confirmation, commit and failure, RESTORE and its judgement, and the pairing with a partner.
-/
namespace Sys2Proof.Machine

/-- The state with the health and snapshot block changed. -/
def modResil (s : State) (f : Resil → Resil) : State := { s with resil := f s.resil }

/-- The snapshot configuration of a job. -/
def findCfg (s : State) (j : BitVec 6) : Option SnapCfg := s.resil.snaps.find? fun c => c.job == j

/-- The state with the snapshot configuration of a job changed. -/
def modCfg (s : State) (j : BitVec 6) (f : SnapCfg → SnapCfg) : State :=
  modResil s fun r => { r with snaps := r.snaps.map fun c => if c.job = j then f c else c }

/-- A configuration with nothing configured: a job that marks steps and takes no snapshot. -/
def SnapCfg.blank (j : Job) (now : Nat) : SnapCfg where
  job := j.id
  imageId := j.imageId
  payload := []
  layers := 0
  commit := 0
  steps := 0
  ms := 0
  hthr := 160
  tol := 0x3A800000
  stage := 0
  stageLen := 0
  ranges := []
  armed := false
  nowDue := false
  since := 0
  sinceNs := now
  flying := none
  done := []
  kept := none
  nextId := 1
  arrived := []
  restore := none
  devOver := false

/-- A record of class SNAPSHOT (Tables 17-2, 17-6): snapshot, step, layer (255 none), event, and AUX. -/
def snapRecord (s : State) (j : BitVec 6) (id : BitVec 32) (step : BitVec 64) (layer event : Nat) (sev : BitVec 8)
    (aux : List Byte) : State :=
  writeRecord s { recOf s 14 15 0 0x10 sev 0 with
    job := j.setWidth 8
    detail := leBytes 4 id.toNat ++ leBytes 8 step.toNat ++ leBytes 1 layer ++ leBytes 1 event ++ aux }

/-- Bytes of memory from a to a+n-1 that differ from 0, by their offset from a. -/
def cutMem (m : List Host.Cell) (a n : Nat) : List (Nat × Byte) :=
  (m.filter fun e => decide (a ≤ e.1) && decide (e.1 < a + n)).map fun e => (e.1 - a, e.2)

/-- n bytes of memory at a replaced by those of a cut, from its offset off; poison and old contents go. -/
def memPaste (s : State) (a off n : Nat) (l : List (Nat × Byte)) : State :=
  let m := (l.filter fun e => decide (off ≤ e.1) && decide (e.1 < off + n)).foldl
    (fun m e => memSet m (a + (e.1 - off)) e.2) (memErase s.mem a n)
  { s with mem := m, poison := setErase s.poison (a / 64) (n / 64) }

/-- The bytes of the ranges of a configuration. -/
def rangeSum (l : List (Nat × Nat)) : Nat := l.foldl (fun n r => n + r.2) 0

/-- The chunks of 1 MiB that n bytes make (R422). -/
def chunkCount (n : Nat) : Nat := cdiv n 0x100000

/-- The bytes of a manifest (R422) of w Welts, r ranges and n bytes of copies. -/
def manifestLen (w r n : Nat) : Nat := 90 + 4 * w + 16 * r + 4 * chunkCount n + 24

/-- Where the trailer follows a manifest: at the next slot. -/
def trailerOff (n mlen : Nat) : Nat := cdiv (n + mlen) 64 * 64

/-- The CRC-32C of chunk i of n staged bytes. -/
def chunkCrc (l : List (Nat × Byte)) (n i : Nat) : BitVec 32 :=
  crc32c (memRead l (i * 0x100000) (min 0x100000 (n - i * 0x100000)))

/-- A manifest up to its CHECK (R422): MAGIC, IMAGE_ID, SNAP_ID, step record, SEED, FLAGS.DET, placement, RNG counters,
ranges, chunk CRCs. -/
def manifestBody (j : Job) (c : SnapCfg) (f : Snapshot) (copies : List (Nat × Byte)) : List Byte :=
  ascii "NZSN" ++ leBytes 8 j.imageId.toNat ++ leBytes 4 f.id.toNat ++ slice f.record 0 64 ++ leBytes 8 j.seed.toNat ++
    leBytes 1 (b2n f.det) ++ leBytes 1 f.place.toNat ++ f.rng.flatMap (fun r => leBytes 4 r.toNat) ++
    c.ranges.flatMap (fun r => leBytes 8 r.1 ++ leBytes 8 r.2) ++
    (List.range (chunkCount f.size)).flatMap fun i => leBytes 4 (chunkCrc copies f.size i).toNat

/-- SNAPKEY of a configuration (R421). -/
def snapKey (c : SnapCfg) : List Byte := slice c.payload 52 32

/-- A manifest with its CHECK (R422). -/
def manifestOf (j : Job) (c : SnapCfg) (f : Snapshot) (copies : List (Nat × Byte)) : List Byte :=
  let b := manifestBody j c f copies
  b ++ (hmac384 (snapKey c) b).take 24

/-- Its vault ABSENT or RETIRED (R417, R424). -/
def vaultOut (s : State) : Bool := s.vault.state == 0 || s.vault.state == 3

/-- COMMIT extended under R417: between Nozers that share a feed the vault, or the archive when the vault is out. -/
def wideCommit (s : State) (c : SnapCfg) : BitVec 3 :=
  if s.resil.sharedFeed then c.commit ||| (if vaultOut s then 4 else 2) else c.commit

/-- A snapshot is due for a configuration (R420). -/
def snapDue (s : State) (c : SnapCfg) : Bool :=
  !c.payload.isEmpty && (c.armed || c.nowDue || (c.steps != 0 && decide (c.steps.toNat ≤ c.since)) ||
    (c.ms != 0 && decide (c.sinceNs + c.ms.toNat * 10 ^ 6 ≤ s.reg.time.toNat)))

/-- The freeze starts (R419, R420): each Welt's WELT_STEP is recorded as its RNG counter. -/
def startFreeze (s : State) (j : Job) (c : SnapCfg) (record : List Byte) : State :=
  let commit := wideCommit s c
  let f : Snapshot := {
    id := c.nextId, stage := 1, step := BitVec.ofNat 64 (leAt record 0 8), record := record
    rng := j.cores.flatMap fun k => [(getWelt s k 0).step, (getWelt s k 1).step]
    commit := commit, layers := c.layers ||| commit, data := 0, trailer := 0, failed := 0, trailerRec := []
    replaced := false, place := j.place, det := bit j.flags 0
    half := c.done.head?.any fun d => !d.half
    size := rangeSum c.ranges, ranges := c.ranges.length, image := [], dataMsg := none, trailMsg := none }
  noted (modCfg s j.id fun c => { c with
    flying := some f, nextId := c.nextId + 1, armed := false, nowDue := false, since := 0, sinceNs := s.reg.time.toNat
    done := c.done.take 1, kept := none })

/-- Every STEPEND that waits completes (R419). -/
def releaseSteps (s : State) (j : BitVec 6) : State := modCfg s j fun c => { c with arrived := [] }

/-- All cores of a job have arrived at STEPEND. -/
def allArrived (j : Job) (c : SnapCfg) : Bool := j.cores.all fun k => c.arrived.any fun a => a.1 == k

/-- The record of image core 0 (R419). -/
def stepRecord (j : Job) (c : SnapCfg) : List Byte :=
  match c.arrived.find? fun a => some a.1 == j.cores.head? with
  | some a => a.2
  | none => []

/-- A boundary goes on (R419, R420): a due snapshot freezes, waiting while another is uncommitted; otherwise the job
does. -/
def passBoundary (s : State) (id : BitVec 6) : State :=
  match findJob s id, findCfg s id with
  | some j, some c =>
    if !allArrived j c then s
    else if !snapDue s c then releaseSteps s id
    else if c.flying.isSome then s
    else startFreeze s j c (stepRecord j c)
  | _, _ => s

/-- The session to the partner, when it is open. -/
def dupSession (s : State) : Option Session :=
  match s.flash.pairing with
  | none => none
  | some p => match findSession s p.session with
    | some x => if x.dup && x.state == 1 then some x else none
    | none => none

/-- Where a snapshot lies in the partner's window: the slot of its half (R418). -/
def dupBase (s : State) (half : Bool) : Nat := if half then s.resil.peerLen / 128 * 64 else 0

/-- Staged bytes sent to the partner as one message at an offset (R418, R423). -/
def sendDuplicate (s : State) (at_ : Nat) (l : List Byte) : State :=
  match dupSession s with
  | none => s
  | some x =>
    let m := x.msg.toNat
    let ps := parcels (l.map fun b => (b, false))
    let s := modSession s x.num fun y => { y with msg := y.msg + 1 }
    ps.zipIdx.foldl (fun s p => match findSession s x.num with
      | some y => sendTracked s y (dataPacket y at_ m none (decide (p.2 + 1 = ps.length)) p.1) none
      | none => s) s

/-- A Write to the vault drive (R273). -/
def vaultWrite (s : State) (j : BitVec 6) (id : BitVec 32) (trailer : Bool) : State :=
  { s with vault := { s.vault with
      cmds := s.vault.cmds ++ [{ id := s.vault.nextCmd, job := j, snap := id, trailer := trailer, flush := false, retried := false }]
      nextCmd := s.vault.nextCmd + 1 } }

/-- The bytes a snapshot takes in a layer: copies, manifest, trailer. -/
def snapBytes (f : Snapshot) : Nat := trailerOff f.size (manifestLen f.rng.length f.ranges f.size) + 64

/-- A layer can take a snapshot (R424): its session is open, its drive there, its window or buffer large enough. -/
def layerTakes (s : State) (c : SnapCfg) (f : Snapshot) (layer : Nat) : Bool :=
  if layer = 0 then (dupSession s).isSome && decide (snapBytes f ≤ s.resil.peerLen / 128 * 64)
  else if layer = 1 then !vaultOut s
  else decide (snapBytes f ≤ leAt c.payload 44 8)

/-- The snapshot of a configuration with an ID, changed wherever it stands. -/
def SnapCfg.modSnap (c : SnapCfg) (id : BitVec 32) (g : Snapshot → Snapshot) : SnapCfg :=
  let h : Snapshot → Snapshot := fun f => if f.id = id then g f else f
  { c with flying := c.flying.map h, done := c.done.map h, kept := c.kept.map h }

/-- The state with a snapshot changed. -/
def modSnap (s : State) (j : BitVec 6) (id : BitVec 32) (g : Snapshot → Snapshot) : State :=
  modCfg s j fun c => c.modSnap id g

/-- The message number that the partner's session gives next. -/
def nextMsg (s : State) : Option (BitVec 32) := (dupSession s).map (·.msg)

/-- Data streams to one layer (R423): DATA packets, an NVMe Write, or upstream writes and a zero-length read. -/
def streamData (s : State) (j : BitVec 6) (c : SnapCfg) (f : Snapshot) (layer : Nat) : State :=
  let n := f.size + manifestLen f.rng.length f.ranges f.size
  if layer = 0 then
    sendDuplicate (modSnap s j f.id fun x => { x with dataMsg := nextMsg s }) (dupBase s f.half) (memRead f.image 0 n)
  else if layer = 1 then vaultWrite s j f.id false
  else
    let a := leAt c.payload 36 8
    { s with pcie := { s.pcie with
        upstream := s.pcie.upstream ++ [(a, memRead f.image 0 f.size), (a + f.size, memRead f.image f.size (n - f.size)), (a, [])] } }

/-- The trailer goes to one layer (R423). -/
def streamTrailer (s : State) (j : BitVec 6) (c : SnapCfg) (f : Snapshot) (layer : Nat) : State :=
  let at_ := snapBytes f - 64
  if layer = 0 then
    sendDuplicate (modSnap s j f.id fun x => { x with trailMsg := nextMsg s }) (dupBase s f.half + at_) f.trailerRec
  else if layer = 1 then vaultWrite s j f.id true
  else { s with pcie := { s.pcie with upstream := s.pcie.upstream ++ [(leAt c.payload 36 8 + at_, f.trailerRec)] } }

/-- The layers that a mask names. -/
def layersIn (m : BitVec 3) : List Nat := bitList m

/-- The uncommitted snapshot fails or is abandoned (R422, R424); what a layer confirmed of it, the layer keeps. -/
def dropFlying (s : State) (j : BitVec 6) : State := modCfg s j SnapCfg.stopped

/-- The snapshot commits once every layer of COMMIT has confirmed data and trailer (R423). -/
def tryCommit (s : State) (id : BitVec 6) : State :=
  match findCfg s id with
  | none => s
  | some c => match c.flying with
    | none => s
    | some f =>
      if !f.trailerRec.isEmpty && (f.data &&& f.trailer &&& f.commit) == f.commit then
        let s := modCfg s id fun c => { c with flying := none, done := f :: c.done.take 1 }
        passBoundary (noted (snapRecord s id f.id f.step 255 3 0 [])) id
      else noted (modSnap s id f.id fun x => { x with
        stage := if x.stage = 2 ∧ (x.data &&& x.commit) = x.commit then 3 else x.stage })

/-- A layer of the uncommitted snapshot fails (R424): in COMMIT it is replaced by the next configured layer in the order
Duplicate, vault, archive, and without one the snapshot fails. -/
def failLayer (s : State) (id : BitVec 6) (layer : Nat) : State :=
  match findCfg s id with
  | none => s
  | some c => match c.flying with
    | none => s
    | some f =>
      if bit f.failed layer || !bit f.layers layer then s
      else
        let failed := setBit f.failed layer true
        let s := modSnap s id f.id fun x => { x with failed := failed }
        if !bit f.commit layer then noted (snapRecord s id f.id f.step layer 4 1 [])
        else
          match (layersIn f.layers).find? fun l => !bit failed l && !bit f.commit l with
          | some l =>
            let s := modSnap s id f.id fun x => { x with
              commit := setBit (setBit x.commit layer false) l true, replaced := true }
            tryCommit (snapRecord s id f.id f.step layer 4 1 []) id
          | none => passBoundary (noted (snapRecord (dropFlying s id) id f.id f.step layer 5 2 [])) id

/-- The trailer of the snapshot in flight is the step record of the STEPEND after it (R423). -/
def writeTrailer (s : State) (id : BitVec 6) (record : List Byte) : State :=
  match findCfg s id with
  | none => s
  | some c => match c.flying with
    | none => s
    | some f =>
      if f.stage = 1 || !f.trailerRec.isEmpty then s
      else
        let f := { f with trailerRec := slice record 0 64 }
        let s := modSnap s id f.id fun x => { x with trailerRec := f.trailerRec }
        (layersIn (f.layers &&& ~~~f.failed)).foldl (fun s l => streamTrailer s id c f l) s

/-- RESTORE's response (R426); REALIGNED reads 1 when a Welt was realigned, as in the worked example. -/
def restoreResp (r : Restore) (result : Nat) (diff : BitVec 32) : List Byte :=
  leBytes 8 r.snap.step.toNat ++ leBytes 1 result ++ leBytes 1 (min 1 r.realigned) ++ [0, 0] ++ leBytes 4 diff.toNat

/-- The replayed step's LOSS against the trailer's (R428): RESULT, the relative difference, and whether it passes. -/
def judgeLoss (exact : Bool) (tol loss ref : BitVec 32) : Nat × BitVec 32 × Bool :=
  if loss = ref then (0, 0, true)
  else
    let l := f32Val loss
    let r := f32Val ref
    let d := (addV false l r.neg).1.abs
    let q := (divV d r.abs).1
    if exact then (2, f32Bits q, false)
    else if q == .nan || ltV (f32Val tol) q then (2, f32Bits q, false)
    else (1, f32Bits q, true)

/-- A RESTORE that waits for its replayed step is judged (R426, R428): a failure pauses the job after this STEPEND. -/
def judgeRestore (s : State) (id : BitVec 6) (record : List Byte) : State :=
  match findJob s id, findCfg s id with
  | some j, some c => match c.restore with
    | none => s
    | some r =>
      if !r.replay then s
      else
        let s := modCfg s id fun c => { c with restore := none }
        if r.bare || !bit (BitVec.ofNat 32 (leAt r.snap.trailerRec 0x1C 4)) 0 ||
            !bit (BitVec.ofNat 32 (leAt record 0x1C 4)) 0 then
          ends s r.mb 0 (restoreResp r 3 0)
        else
          let exact := bit j.flags 0 && r.snap.det && j.place == r.snap.place
          match judgeLoss exact c.tol (BitVec.ofNat 32 (leAt record 0x18 4)) (BitVec.ofNat 32 (leAt r.snap.trailerRec 0x18 4)) with
          | (res, diff, ok) =>
            if ok then
              ends (snapRecord s id r.snap.id r.snap.step r.source 8 0 []) r.mb 0 (restoreResp r res diff)
            else
              let s := snapRecord s id r.snap.id r.snap.step r.source 9 2 []
              let s := if j.state = 4 then noted (modJob (pauseCores s j) id fun x => { x with state := 5 }) else s
              ends s r.mb stDeviceFault (restoreResp r res diff)
  | _, _ => s

/-- Core c arrives at STEPEND with its step record (R419); the last core of the job makes the boundary. -/
def arriveStep (s : State) (c : CoreId) (record : List Byte) : State :=
  match jobOn s c with
  | none => s
  | some j =>
    let s := if (findCfg s j.id).isSome then s
      else modResil s fun r => { r with snaps := r.snaps ++ [SnapCfg.blank j s.reg.time.toNat] }
    let s := modCfg s j.id fun x => { x with arrived := x.arrived ++ [(c, record)] }
    match findCfg s j.id with
    | none => s
    | some x =>
      if !allArrived j x then s
      else
        let rec0 := stepRecord j x
        let s := writeTrailer (judgeRestore s j.id rec0) j.id rec0
        passBoundary (modCfg s j.id fun x => { x with since := x.since + 1 }) j.id

/-- Core c waits at a STEPEND. -/
def atStep (s : State) (c : CoreId) : Bool :=
  match jobOn s c with
  | none => false
  | some j => (findCfg s j.id).any fun x => x.arrived.any fun a => a.1 == c

/-- The image of core c's job sets SNAP (R316). -/
def snapsSteps (s : State) (c : CoreId) : Bool := (jobOn s c).any fun j => bit j.flags 4

/-- STEPEND (R419, R65): reads the 64-byte step record and waits for the job's other cores and any due snapshot's freeze;
without SNAP in the image it has no effect (R316). -/
def execStepend (c : CoreId) (w : BitVec 120) (ev : List EccEvent) (s : State) : Out :=
  let word := instrWord 0x12 w
  let v := viewOf s c ccSeq word
  let d := fld w 112 8
  let o := opnd v c ccSeq d
  .next (if !snapsSteps s c then
      controlInstr s c ccSeq word (mask128 111 0) [d] (thenAdvance c ccSeq 0x12 id)
    else engineInstr s c ccSeq word (mask128 111 0) ev
      { names := [d], ops := [(d, 0)], bad := if o.badForm || decide (o.bytes < 64) then some 0x04 else descFault s c [o] }
      fun s y =>
        if y.got.isEmpty then .access (readFirst s c 0 o 64)
        else if y.got.length = 1 then
          (if opndPoison (lastGot y) 0 then .fault 0x0A
           else if atStep s c then .hold
           else .act fun s => arriveStep s c (opndData (lastGot y) 0))
        else if atStep s c then .hold
        else .finish id)

/-- The ranges of a configuration copied to its staging area, one after another. -/
def copyRanges (s : State) : Nat → List (Nat × Nat) → State
  | _, [] => s
  | a, r :: t => copyRanges (memPaste s a 0 r.2 (cutMem s.mem r.1 r.2)) (a + r.2) t

/-- A byte string as a cut of memory. -/
def cutOf (l : List Byte) : List (Nat × Byte) := memWrite [] 0 l

/-- SNAPSHOT_FREEZE_DONE (R422, R423): the copies and the manifest lie in staging, the STEPENDs complete, and streaming
starts; a poisoned slot in a range fails the snapshot, and the job goes on. -/
def execSnapshotFreezeDone (job : BitVec 6) (s : State) : Out :=
  .next (match findJob s job, findCfg s job with
    | some j, some c => match c.flying with
      | none => s
      | some f =>
        if f.stage ≠ 1 then s
        else if c.ranges.any fun r => anyPoison s r.1 r.2 then
          noted (releaseSteps (snapRecord (modCfg s job fun c => { c with flying := none }) job f.id f.step 255 6 2 []) job)
        else
          let s := copyRanges s c.stage c.ranges
          let copies := cutMem s.mem c.stage f.size
          let m := manifestOf j c f copies
          let s := memPaste s (c.stage + f.size) 0 (cdiv m.length 64 * 64) (cutOf m)
          let f := { f with image := cutMem s.mem c.stage (f.size + m.length), stage := 2 }
          let s := releaseSteps (modSnap s job f.id fun _ => f) job
          let s := noted (snapRecord s job f.id f.step 255 1 0 [])
          (layersIn f.layers).foldl (fun s l =>
            if layerTakes s c f l then streamData s job c f l else failLayer s job l) s
    | _, _ => s)

/-- The layers' confirmation of data or trailer of a snapshot (R423). -/
def confirmLayer (s : State) (j : BitVec 6) (f : Snapshot) (layer : Nat) (trailer : Bool) : State :=
  let s := modSnap s j f.id fun x =>
    if trailer then { x with trailer := setBit x.trailer layer true } else { x with data := setBit x.data layer true }
  tryCommit (snapRecord s j f.id f.step layer 2 0 []) j

/-- The partner has acknowledged every packet of a message (R423). -/
def messageSettled (s : State) (m : Option (BitVec 32)) : Bool :=
  match m, dupSession s with
  | some m, some x => !(x.unacked.any fun u => u.pkt.typ == 1 && u.pkt.msg == m) && !(x.queue.any fun p => p.typ == 1 && p.msg == m)
  | _, _ => false

/-- A layer has taken what a confirmation needs (R423): packets acknowledged, or NVMe Writes and Flush complete. -/
def layerSettled (s : State) (j : BitVec 6) (f : Snapshot) (layer : Nat) (trailer : Bool) : Bool :=
  if layer = 0 then messageSettled s (if trailer then f.trailMsg else f.dataMsg)
  else s.vault.state == 1 && !(s.vault.cmds.any fun x => x.job == j && x.snap == f.id && x.trailer == trailer)

/-- A snapshot still waits for a layer's confirmation. -/
def awaitsLayer (f : Snapshot) (layer : Nat) (trailer : Bool) : Bool :=
  bit f.layers layer && !bit f.failed layer &&
    (if trailer then !f.trailerRec.isEmpty && bit f.data layer && !bit f.trailer layer
     else decide (f.stage ≠ 1) && !bit f.data layer)

/-- The snapshots of a configuration, oldest first. -/
def SnapCfg.inOrder (c : SnapCfg) : List Snapshot := c.done.reverse ++ c.flying.toList

/-- SNAP_LAYER_CONFIRM (R423): Duplicate or vault confirms the oldest snapshot that waits for it; the archive is confirmed
by the host. -/
def execSnapLayerConfirm (job : BitVec 6) (layer : Fin 3) (trailer : Bool) (s : State) : Out :=
  .next (match findCfg s job with
    | none => s
    | some c =>
      if layer = 2 || job = 0 then s
      else match c.inOrder.find? fun f => awaitsLayer f layer.val trailer with
        | none => s
        | some f => if layerSettled s job f layer.val trailer then confirmLayer s job f layer.val trailer else s)

/-- SNAP_LAYER_FAIL (R424). -/
def execSnapLayerFail (job : BitVec 6) (layer : Fin 3) (s : State) : Out :=
  .next (match findCfg s job with
    | none => s
    | some c => if job ≠ 0 ∧ c.flying.any (fun f => decide (f.stage ≠ 1)) then failLayer s job layer.val else s)

/-- ARCHIVE_CONFIRM_TIMEOUT (R424): the archive fails where the host has still to confirm. -/
def execArchiveConfirmTimeout (job : BitVec 6) (s : State) : Out :=
  .next (match findCfg s job with
    | none => s
    | some c =>
      if job ≠ 0 ∧ c.flying.any (fun f => awaitsLayer f 2 false || awaitsLayer f 2 true) then failLayer s job 2 else s)

/-- A field of SNAP_CFG's payload names a job whose image sets SNAP (R421). -/
def snapJob (states : List (BitVec 8)) (s : State) (m : Mailbox) : BitVec 16 :=
  match namedJob s m 0 with
  | .error e => e
  | .ok j => if states.contains j.state && bit j.flags 4 then 0 else stBadState

/-- The ranges of a SNAP_CFG payload (R421). -/
def cfgRanges (m : Mailbox) : List (Nat × Nat) := (List.range (pf m 84 2)).map fun i => (pf m (92 + 16 * i) 8, pf m (100 + 16 * i) 8)

/-- The checks of SNAP_CFG OP 0 (R421). -/
def snapCfgAllow (s : State) (m : Mailbox) : BitVec 16 :=
  let st := snapJob [3, 4, 5] s m
  if st ≠ 0 then st
  else match jobNamed s m with
    | none => stNoSuch
    | some j =>
      let l := cfgRanges m
      let inside (b a n : Nat) : Bool := decide (0 < n) && inWindows j.windows b a (a + n - 1 : Nat)
      if l.all (fun r => inside 0 r.1 r.2) && inside 1 (pf m 20 8) (pf m 28 8) &&
          decide (rangeSum l + 0x20000 ≤ pf m 28 8) then 0
      else stBadForm

/-- A configuration as SNAP_CFG sets it; a configuration of the same image that has lost its job hands on its
snapshots. -/
def cfgOf (s : State) (j : Job) (m : Mailbox) : SnapCfg :=
  let old := match findCfg s j.id with
    | some c => c
    | none => match s.resil.snaps.find? fun (c : SnapCfg) => c.job == 0 && c.imageId == j.imageId with
      | some c => { c with job := j.id, since := 0, sinceNs := s.reg.time.toNat }
      | none => SnapCfg.blank j s.reg.time.toNat
  { old with
    payload := payBytes m 0 (92 + 16 * pf m 84 2), layers := BitVec.ofNat 3 (pf m 2 1), commit := BitVec.ofNat 3 (pf m 3 1)
    steps := BitVec.ofNat 32 (pf m 4 4), ms := BitVec.ofNat 32 (pf m 8 4)
    hthr := if pf m 12 1 = 0 then 160 else BitVec.ofNat 8 (pf m 12 1)
    tol := if pf m 16 4 = 0 then 0x3A800000 else BitVec.ofNat 32 (pf m 16 4)
    stage := pf m 20 8, stageLen := pf m 28 8, ranges := cfgRanges m }

/-- The bytes of the manifest that a job's snapshots will have (R421). -/
def jobManifest (j : Job) (c : SnapCfg) : Nat := manifestLen (2 * j.cores.length) c.ranges.length (rangeSum c.ranges)

/-- SNAP_CFG OP 0 (R421). -/
def execSnapCfgSet (mb : Fin 16) (s : State) : Out :=
  commandOp s mb 0x70 1 0 snapCfgAllow fun s m =>
    match jobNamed s m with
    | none => s
    | some j =>
      let c := cfgOf s j m
      let s := modResil s fun r => { r with
        snaps := (r.snaps.filter fun x => x.job != j.id && !(x.job == 0 && x.imageId == j.imageId)) ++ [c] }
      ends (noted s) mb 0 (leBytes 8 (jobManifest j c))

/-- A job with a configuration. -/
def snapConfigured (states : List (BitVec 8)) (s : State) (m : Mailbox) : BitVec 16 :=
  let st := snapJob states s m
  if st ≠ 0 then st
  else if ((jobNamed s m).bind fun j => findCfg s j.id).any fun c => !c.payload.isEmpty then 0 else stBadState

/-- SNAP_CFG OP 1 (R421): the payload with SNAPKEY zeroed. -/
def execSnapCfgRead (mb : Fin 16) (s : State) : Out :=
  commandOp s mb 0x70 1 1 (snapConfigured [3, 4, 5]) fun s m =>
    match (jobNamed s m).bind fun j => findCfg s j.id with
    | some c => ends s mb 0 (patch c.payload 52 (List.replicate 32 0))
    | none => s

/-- SNAP_CFG OP 2 (R415): the six caps of Table 17-4. -/
def execSnapCfgCaps (mb : Fin 16) (s : State) : Out :=
  commandOp s mb 0x70 1 2 always fun s m =>
    let b := fun i => BitVec.ofNat 8 (pf m (2 + i) 1)
    ends (noted (modResil s fun r => { r with caps := #v[b 0, b 1, b 2, b 3, b 4, b 5] })) mb 0 []

/-- SNAP_NOW's response (R425). -/
def snapNowResp (id : BitVec 32) : List Byte := leBytes 4 id.toNat ++ [0, 0, 0, 0]

/-- SNAP_NOW OP 0 (R420): a snapshot is due at the next STEPEND; the response holds the SNAP_ID it will have. -/
def execSnapNowTake (mb : Fin 16) (s : State) : Out :=
  commandOp s mb 0x71 1 0 (snapConfigured [3, 4, 5]) fun s m =>
    match (jobNamed s m).bind fun j => findCfg s j.id with
    | some c => ends (noted (modCfg s c.job fun c => { c with nowDue := true })) mb 0 (snapNowResp c.nextId)
    | none => s

/-- The snapshot that a SNAP_NOW confirms: still unconfirmed by the archive in data or trailer (R423). -/
def archiveTarget (c : SnapCfg) (m : Mailbox) : Option Snapshot :=
  c.inOrder.find? fun f => f.id.toNat == pf m 4 4 && (awaitsLayer f 2 false || awaitsLayer f 2 true)

/-- The checks of SNAP_NOW OP 1. -/
def archiveAllow (s : State) (m : Mailbox) : BitVec 16 :=
  let st := snapConfigured [3, 4, 5] s m
  if st ≠ 0 then st
  else if (((jobNamed s m).bind fun j => findCfg s j.id).bind fun c => archiveTarget c m).isSome then 0 else stNoSuch

/-- SNAP_NOW OP 1 (R423): the host has the archive; what has been written of data and trailer is confirmed. -/
def execSnapNowArchiveConfirm (mb : Fin 16) (s : State) : Out :=
  commandOp s mb 0x71 1 1 archiveAllow fun s m =>
    match (jobNamed s m).bind fun j => findCfg s j.id with
    | none => s
    | some c => match archiveTarget c m with
      | none => s
      | some f =>
        let s := if awaitsLayer f 2 false then confirmLayer s c.job f 2 false else s
        let s := if f.trailerRec.isEmpty then s else confirmLayer s c.job f 2 true
        ends s mb 0 (snapNowResp f.id)

/-- The checks of SNAP_NOW OP 2. -/
def abandonAllow (s : State) (m : Mailbox) : BitVec 16 :=
  let st := snapConfigured [3, 4, 5] s m
  if st ≠ 0 then st
  else if ((jobNamed s m).bind fun j => findCfg s j.id).any fun c =>
      c.flying.any fun f => f.id.toNat == pf m 4 4 then 0
  else stNoSuch

/-- SNAP_NOW OP 2 (R424): the uncommitted snapshot is abandoned; one still freezing lets its STEPENDs go. -/
def execSnapNowAbandon (mb : Fin 16) (s : State) : Out :=
  commandOp s mb 0x71 1 2 abandonAllow fun s m =>
    match (jobNamed s m).bind fun j => findCfg s j.id with
    | none => s
    | some c =>
      let freezing := c.flying.any fun f => f.stage == 1
      let s := dropFlying s c.job
      let s := if freezing then releaseSteps s c.job else passBoundary s c.job
      ends (noted s) mb 0 (snapNowResp (BitVec.ofNat 32 (pf m 4 4)))

/-- The snapshot that RESTORE's SLOT names (R426). -/
def restoreSnap (c : SnapCfg) (slot : Nat) : Option Snapshot :=
  if slot = 2 then c.kept else c.done[slot]?

/-- The checks of RESTORE (R426). -/
def restoreAllow (s : State) (m : Mailbox) : BitVec 16 :=
  let st := snapConfigured [3] s m
  if st ≠ 0 then st
  else match jobNamed s m with
    | none => stNoSuch
    | some j => match findCfg s j.id with
      | none => stBadState
      | some c =>
        let src := pf m 1 1
        if c.restore.isSome then stBadState
        else match restoreSnap c (pf m 2 1) with
          | none => stNoSuch
          | some f =>
            if !bit f.data src || (pf m 2 1 != 2 && !bit f.trailer src) then stNoSuch
            else if src = 0 && (dupSession s).isNone then stNotPresent
            else if src = 1 && s.vault.state != 1 then stNotPresent
            else if src = 2 && !s.pcie.up then stNotPresent
            else if !setsHold s j then stNoResource
            else 0

/-- A RESTORE ends before its replay. -/
def failRestore (s : State) (id : BitVec 6) (r : Restore) (st : BitVec 16) : State :=
  ends (modCfg s id fun c => { c with restore := none }) r.mb st []

/-- The ranges of a manifest that holds w RNG counters and r ranges. -/
def manifestRanges (man : List Byte) (w r : Nat) : List (Nat × Nat) :=
  (List.range r).map fun i => (leAt man (90 + 4 * w + 16 * i) 8, leAt man (98 + 4 * w + 16 * i) 8)

/-- The staged copies go back to their ranges. -/
def pasteRanges (s : State) (img : List (Nat × Byte)) : Nat → List (Nat × Nat) → State
  | _, [] => s
  | off, r :: t => pasteRanges (memPaste s r.1 off r.2 img) img (off + r.2) t

/-- The largest difference between saved RNG counters and the cursor, and how many differ (R427). -/
def rngDrift (l : List (BitVec 32)) (step : BitVec 32) : Nat × Nat :=
  let d := (l.filter fun x => x != step).map fun x => max x.toNat step.toNat - min x.toNat step.toNat
  (d.length, d.foldl max 0)

/-- A restore whose bytes are all here (R426 steps 1 to 5): the manifest is checked, the ranges go back, every Welt starts
with the cursor's step, and the job starts. -/
def applyRestore (s : State) (id : BitVec 6) : State :=
  match findJob s id, findCfg s id with
  | some j, some c => match c.restore with
    | none => s
    | some r =>
      let f := r.snap
      let w := f.rng.length
      let mlen := manifestLen w f.ranges f.size
      let man := memRead r.got f.size mlen
      let body := man.take (mlen - 24)
      if man.take 4 != ascii "NZSN" || leAt man 4 8 != j.imageId.toNat || man.drop (mlen - 24) != (hmac384 (snapKey c) body).take 24 then
        failRestore s id r stBadSignature
      else
        let ranges := manifestRanges man w f.ranges
        let crcs := (List.range (chunkCount f.size)).all fun i =>
          (chunkCrc r.got f.size i).toNat == leAt man (90 + 4 * w + 16 * f.ranges + 4 * i) 4
        if r.bad || !crcs then failRestore s id r stDeviceFault
        else
          let s := pasteRanges s r.got 0 ranges
          let step := f.step.setWidth 32
          let drift := rngDrift f.rng step
          let s := startJob s j
          let s := j.cores.foldl (fun s k => modCore s k fun x => { x with
            welts := x.welts.map fun y => { y with step := step } }) s
          let s := if drift.1 = 0 then s else snapRecord s id f.id f.step r.source 7 1 (leBytes 2 drift.1 ++ leBytes 4 drift.2)
          modCfg s id fun c => { c with restore := some { r with replay := true, realigned := drift.1 } }
  | _, _ => s

/-- A read request of up to 4,096 bytes of the partner's window (R418). -/
def readPartner (s : State) (at_ n : Nat) : State :=
  match dupSession s with
  | none => s
  | some x =>
    sendTracked s x { blankPacket x 8 with psn := x.psn, taddr := BitVec.ofNat 48 at_, payload := leBytes 8 n } none

/-- RESTORE (R426): from the vault or the archive the bytes are here; from the Duplicate they are asked for. -/
def execRestore (mb : Fin 16) (s : State) : Out :=
  command s mb 0x72 restoreAllow fun s m =>
    match (jobNamed s m).bind fun j => findCfg s j.id with
    | none => s
    | some c => match restoreSnap c (pf m 2 1) with
      | none => s
      | some f =>
        let src := pf m 1 1
        let n := snapBytes f
        let r : Restore := {
          mb := mb, snap := f, source := src, left := if src = 0 then List.range (n / 64) else []
          got := if src = 0 then [] else f.image, bad := false, bare := decide (pf m 2 1 = 2), replay := false, realigned := 0 }
        let s := modCfg (waits s mb) c.job fun c => { c with restore := some r }
        if src = 0 then
          (List.range (cdiv n 4096)).foldl (fun s i => readPartner s (dupBase s f.half + 4096 * i) (min 4096 (n - 4096 * i))) s
        else applyRestore s c.job

/-- What an RRESP brings to a RESTORE: slots from the offset off of the snapshot. -/
def takeSlots (r : Restore) (off : Nat) (p : Packet) : Restore :=
  let n := if p.payload.isEmpty then 1 else cdiv p.payload.length 64
  let l := (List.range n).map fun i => off / 64 + i
  { r with
    left := r.left.filter fun k => !l.contains k
    got := memWrite r.got off p.payload
    bad := r.bad || (p.payload.isEmpty && r.left.contains (off / 64)) }

/-- A read request is settled once every slot it asked for is here. -/
def readSettled (base : Nat) (left : List Nat) (u : Unacked) : Bool :=
  u.pkt.typ == 8 && !(left.any fun k =>
    decide (u.pkt.taddr.toNat ≤ base + 64 * k) && decide (base + 64 * k < u.pkt.taddr.toNat + leAt u.pkt.payload 0 8))

/-- EYT_RRESP (R412, R418, R426): slots of the partner's window reach the RESTORE that asked for them. -/
def execEytRresp (port : Fin 8) (p : Packet) (s : State) : Out :=
  .next (if !portUp s port || p.typ ≠ 9 then s
    else match findSession s p.session with
      | none => s
      | some x =>
        if !authentic x p || !x.dup then dropPacket s
        else match s.resil.snaps.find? fun c => c.restore.any fun r => r.source == 0 && !r.left.isEmpty with
          | none => s
          | some c => match c.restore with
            | none => s
            | some r =>
              let base := dupBase s r.snap.half
              if p.taddr.toNat < base then s
              else
                let r := takeSlots r (p.taddr.toNat - base) p
                let s := modCfg s c.job fun c => { c with restore := some r }
                let s := modSession s x.num fun y => { y with unacked := y.unacked.filter fun u => !readSettled base r.left u }
                let s := pump x.num x.queue.length s
                if r.left.isEmpty then applyRestore s c.job else s)

/-- The window that PAIR reserves (R416). -/
def pairWindow (m : Mailbox) : Window := { base := pf m 24 8, len := pf m 32 8, rights := 2 }

/-- The checks of PAIR (R416): not paired, a window of populated LPDDR5X that meets no window of a job. -/
def pairAllow (s : State) (m : Mailbox) : BitVec 16 :=
  let w := pairWindow m
  if s.flash.pairing.isSome then stBadState
  else if !eytPresent s then stNotPresent
  else if w.base % 65536 != 0 || w.len % 65536 != 0 || w.len = 0 || w.base < 0x020000000000 ||
      !rangePopulated s.tiers w.base (w.base + w.len - 1) then stBadForm
  else if (findSession s (BitVec.ofNat 24 (pf m 4 4))).isSome then stNoResource
  else if windowsFree s [w] then 0 else stNoResource

/-- A session that opens (R281): it sends OPEN from its home Eyelet. -/
def newSession (num : BitVec 24) (dup auth : Bool) (job : BitVec 6) (dscp : BitVec 8) (peer : BitVec 128) (key : List Byte)
    (home : Option (Fin 8)) : Session where
  num := num
  dup := dup
  job := job
  auth := auth
  key := key
  dscp := dscp
  peer := peer
  home := home
  initiator := true
  state := 0
  psn := 0
  msg := 0
  unacked := []
  queue := []
  applied := []
  held := []
  lastMsg := BitVec.allOnes 32
  unsent := 0
  ackLow := 0

/-- The session joins the list and OPEN is sent. -/
def addSession (s : State) (x : Session) : State :=
  let s := modEyes s fun e => { e with sessions := e.sessions ++ [x] }
  noted (emit s x { blankPacket x 3 with payload := openPayload s x 0 })

/-- The pairing's session (R416): kind DUPLICATE, AUTH on. -/
def pairSession (s : State) (p : Pairing) : Session := newSession p.session true true 0 0 p.peer p.key (bestPort s)

/-- PAIR (R416, R417): the window is reserved and the session opens; the command ends when the partner answers. -/
def execPair (mb : Fin 16) (s : State) : Out :=
  commandOp s mb 0xC6 0 0 pairAllow fun s m =>
    let p : Pairing := {
      session := BitVec.ofNat 24 (pf m 4 4), peer := BitVec.ofNat 128 (beNat (payBytes m 8 16))
      base := pf m 24 8, len := pf m 32 8, key := payBytes m 40 32, shared := false }
    let s := modFlash s fun f => { f with pairing := some p }
    waits (addSession s (pairSession s p)) mb

/-- UNPAIR needs a pairing. -/
def unpairAllow (s : State) (_ : Mailbox) : BitVec 16 := if s.flash.pairing.isSome then 0 else stBadState

/-- UNPAIR (R418): the session closes, which ends the pairing on the other side, and the window's contents are gone. -/
def execUnpair (mb : Fin 16) (s : State) : Out :=
  commandOp s mb 0xC6 0 1 unpairAllow fun s _ =>
    match s.flash.pairing with
    | none => s
    | some p => ends (noted (unpair (closeSession (endPairing s stCancelled) p.session))) mb 0 (List.replicate 32 0)

end Sys2Proof.Machine
end

