-- ==== Sys2Proof/Machine/Host.lean ====
section
/-!
DEFINITION. The host port and the vault port (R265 to R274, R288, R290, R411): BAR0 and BAR2 requests, configuration,
function level resets, link events, DOE, the aperture and reload commands, and the NVMe commands of the vault.
-/
namespace Sys2Proof.Machine

/-- The state with the host port changed. -/
def modPcie (s : State) (f : Pcie → Pcie) : State := { s with pcie := f s.pcie }

/-- The state with a function changed. -/
def modFn (s : State) (fn : Fin 9) (f : PcieFn → PcieFn) : State := modPcie s fun p => { p with fns := vmod p.fns fn f }

/-- The function takes memory requests (R265, R383): link up, endpoint ready, enabled, not in D3hot. -/
def decodes (s : State) (fn : Fin 9) : Bool :=
  let f := vget s.pcie.fns fn
  s.pcie.up && s.pcie.ready && f.enabled && !f.d3hot

/-- BAR0 holds mailboxes: unless DEV_STATE is FAILED (R384) for another cause than a trip of D24 or the thermal trip, which
leave them served through EDN (Table 14-3, R378). -/
def mailboxesServed (s : State) : Bool := s.reg.devState != 3 || (vget s.power.doms 24).latched || s.thermal.tripped

/-- The bytes of a function's aperture (Table 11-10). -/
def apSize (f : PcieFn) : Nat := 2 ^ f.apLog2.toNat * 2 ^ 30

/-- The device address of an aperture offset (R267). -/
def apAddr (f : PcieFn) (off : Nat) : Nat := f.apBase.toNat * 2 ^ 30 + off

/-- A request split at 64-byte slots, ascending: each part's address and length; k bounds the parts. -/
def slotParts : Nat → Nat → Nat → List (Nat × Nat)
  | 0, _, _ => []
  | k + 1, a, n =>
    if n = 0 then []
    else
      let m := min n (64 - a % 64)
      (a, m) :: slotParts k (a + m) (n - m)

/-- A function may reach n bytes of memory with right b (Table 11-3, R324, R325): the PF anywhere, a VF inside its
grant. -/
def hostMemOk (s : State) (fn : Fin 9) (b a n : Nat) : Bool :=
  rangePopulated s.tiers a (a + n - 1 : Nat) && memUp s a && (fn == 0 || match vget s.reg.grants fn with
    | none => false
    | some l => inWindow l b a (a + n - 1 : Nat))

/-- The rule of R74 for a host write: HOSTMASK sets the function; a VF-bound job's Carrels take only that VF's (R324). -/
def hostWriter (s : State) (fn : Fin 9) (r : Carrel) : Bool :=
  bit r.hostMask fn.val && match findJob s r.job with
    | some j => j.func == 0 || j.func == fn
    | none => true

/-- A denied slot of a host write counts in AP_DENY (R267, R398). -/
def denySlot (s : State) : State := modPcie s fun p => { p with apDeny := satAdd p.apDeny 1 }

/-- A host write to memory takes effect in arrival order at the controller (R248, R267): behind requests that wait for
the slot, else at once. -/
def hostMemWrite (s : State) (a : Nat) (d : List Byte) : State :=
  if s.tiers.queue.any fun r => r.addr / 64 == a / 64 then
    queueMem s { id := 0, from_ := .none, write := true, addr := a, data := d, poison := false, prio := 0, aged := false, job := 0 }
  else memPut s a d false

/-- One slot of a BAR2 write (R74, R75, R267). -/
def hostWriteSlot (fn : Fin 9) (s : State) (a : Nat) (d : List Byte) : State :=
  if (stacksCore a).isSome then
    match carrelMeets s (a / 64 * 64) (decide (d.length = 64)) (hostWriter s fn) with
    | .ok (c, i) => carrelPut s c i (a / 64 * 64) (a % 64) d false
    | .error 8 => match stacksCore a with
      | none => s
      | some c => match carrelAt (getCore s c).stk ((a - 0x080000000000) % 0x80000000) with
        | some i => modCarrel s c i fun r => { r with drops := satAdd r.drops 1 }
        | none => s
    | .error _ => denySlot (countDenied s a)
  else if hostMemOk s fn 3 a d.length then hostMemWrite s a d
  else denySlot s

/-- BAR2_WRITE (R267): slot by slot in ascending order. -/
def execBar2Write (fn : Fin 9) (off : Nat) (bytes : List Byte) (s : State) : Out :=
  let f := vget s.pcie.fns fn
  .next (if !decodes s fn || decide (apSize f < off + bytes.length) then s
    else (slotParts (bytes.length + 1) (apAddr f off) bytes.length).foldl (fun s p =>
      hostWriteSlot fn s p.1 (slice bytes (p.1 - apAddr f off) p.2)) s)

/-- The host may read a slot of Stacks (R76, R79): inside an open Carrel whose HOSTMASK sets its function. -/
def hostReadsStacks (s : State) (fn : Fin 9) (c : CoreId) (a : Nat) : Bool :=
  let sa := (a - 0x080000000000) % 0x80000000
  !targetDown s c && decide (sa < stkSize s c) && !inScrub (getCore s c).stk sa &&
    (carrelAt (getCore s c).stk sa).any fun i => bit (vget (getCore s c).stk.carrels i).hostMask fn.val

/-- A slot of a BAR2 read is allowed (Table 11-3). -/
def hostReadOk (s : State) (fn : Fin 9) (a n : Nat) : Bool :=
  match stacksCore a with
  | some c => hostReadsStacks s fn c a
  | none => hostMemOk s fn 2 a n

/-- What the check codes report at a slot of a host read: events name device slots (address / 64). -/
def eccOf (ev : List EccEvent) (slot : Nat) : Ecc :=
  match ev.find? fun e => !e.cache && e.at_ == slot with
  | some e => if e.ue then .uncorrectable else .correctable
  | none => .clean

/-- Memory with the queued writes of one slot applied (R248). -/
def afterQueued (s : State) (slot : Nat) : State :=
  (s.tiers.queue.filter fun r => r.write && r.addr / 64 == slot).foldl (fun s r => memPut s r.addr r.data r.poison) s

/-- One slot of a BAR2 read: its bytes and whether it is poisoned (R65, R260, R267). -/
def hostReadSlot (ev : List EccEvent) (x : State × List Byte × Bool) (p : Nat × Nat) : State × List Byte × Bool :=
  match stacksCore p.1 with
  | some c =>
    let s := eccRead x.1 c ((p.1 - 0x080000000000) % 0x80000000 / 64 * 64) (eccOf ev (p.1 / 64)) false
    (s, x.2.1 ++ memRead s.mem p.1 p.2, x.2.2 || isPoison s (p.1 / 64))
  | none =>
    let s := (memMeets x.1 (p.1 / 64 * 64) (eccEvent (eccOf ev (p.1 / 64))) 0).1
    let d := memTake (afterQueued s (p.1 / 64)) p.1 p.2
    (s, x.2.1 ++ d.1, x.2.2 || d.2)

/-- The state with a read completion sent: no bytes for Completer Abort. -/
def complete (s : State) (fn : Fin 9) (off : Nat) (l : List Byte) (ep : Bool) : State :=
  modPcie s fun p => { p with completions := p.completions ++ [(fn, off, l, ep)] }

/-- BAR2_READ (R267): a read that touches a denied slot completes with Completer Abort. -/
def execBar2Read (fn : Fin 9) (off len : Nat) (ev : List EccEvent) (s : State) : Out :=
  let f := vget s.pcie.fns fn
  let parts := slotParts (len + 1) (apAddr f off) len
  .next (if !decodes s fn || decide (apSize f < off + len) then s
    else if parts.all fun p => hostReadOk s fn p.1 p.2 then
      let r := parts.foldl (hostReadSlot ev) (s, [], false)
      complete r.1 fn off r.2.1 r.2.2
    else complete s fn off [] false)

/-- A bit vector with byte i replaced. -/
def putByte {w : Nat} (x : BitVec w) (i : Nat) (b : Byte) : BitVec w :=
  (x &&& ~~~((0xFF#8).setWidth w <<< (8 * i))) ||| (b.setWidth w <<< (8 * i))

/-- A host byte in a mailbox (Table 12-1): payload, CODE, PLEN, SEQ, COUNTER and CHECK take it, every other field is
Ikied's. -/
def mbByte (m : Mailbox) (off : Nat) (b : Byte) : Mailbox :=
  if 0x40 ≤ off then { m with payload := smapSet 0 m.payload (off - 0x40) b }
  else if 4 ≤ off ∧ off < 6 then { m with code := putByte m.code (off - 4) b }
  else if 6 ≤ off ∧ off < 8 then { m with plen := putByte m.plen (off - 6) b }
  else if 8 ≤ off ∧ off < 12 then { m with seq := putByte m.seq (off - 8) b }
  else if 0x10 ≤ off ∧ off < 0x18 then { m with counter := putByte m.counter (off - 0x10) b }
  else if 0x18 ≤ off ∧ off < 0x30 then { m with check := smapSet 0 m.check (off - 0x18) b }
  else m

/-- Vectors left pending that may now be sent (R270). -/
def deliver (s : State) (fn : Fin 9) : State :=
  (List.range 17).foldl (fun s v =>
    let f := vget s.pcie.fns fn
    if bit f.pba v && f.msixEn && !msixMasked f v then
      raiseVec (modFn s fn fun g => { g with pba := setBit g.pba v false }) fn v
    else s) s

/-- The MSI-X table of a function in BAR0 and its bytes (Table 11-2). -/
def tableAt (fn : Fin 9) : Nat × Nat := if fn = 0 then (0x200000, 17 * 16) else (0x1F0000, 4 * 16)

/-- One byte of a BAR0 write: a mailbox the function reaches whose OWN is 0, or its MSI-X table. -/
def bar0Byte (fn : Fin 9) (s : State) (off : Nat) (b : Byte) : State :=
  let t := tableAt fn
  if t.1 ≤ off ∧ off < t.1 + t.2 then modFn s fn fun f => { f with table := smapSet 0 f.table (off - t.1) b }
  else if off < 0x10000 then
    match mailboxAt s fn (off / 0x1000) with
    | some k => if (getMb s k).own then s else modMb s k fun m => mbByte m (off % 0x1000) b
    | none => s
  else s

/-- BAR0_WRITE (R266, R270, R288, R290): discarded where nothing takes it; CTRL is written by MAILBOX_OWN_WRITE. -/
def execBar0Write (fn : Fin 9) (off : Nat) (bytes : List Byte) (s : State) : Out :=
  .next (if !decodes s fn || !mailboxesServed s then s
    else deliver (bytes.zipIdx.foldl (fun s b => bar0Byte fn s (off + b.2) b.1) s) fn)

/-- A mailbox's header (Table 12-1). -/
def mbHeader (m : Mailbox) : List Byte :=
  leBytes 4 (b2n m.own + 2 * b2n m.cancel + 4 * b2n m.expert + 16 * m.phase.toNat + 65536 * m.progress.toNat) ++
    leBytes 2 m.code.toNat ++ leBytes 2 m.plen.toNat ++ leBytes 4 m.seq.toNat ++ leBytes 2 m.status.toNat ++
    leBytes 2 m.rlen.toNat ++ leBytes 8 m.counter.toNat ++ memRead m.check 0 24 ++ leBytes 4 m.rsize.toNat ++
    List.replicate 12 0

/-- A byte that a host read of BAR0 sees (R266, R288, R384): a view, which no command takes. -/
def bar0View (s : State) (fn : Fin 9) (off : Nat) : Byte :=
  let t := tableAt fn
  let slot := off % 64
  if s.reg.devState = 3 ∧ !(mailboxesServed s && decide (off < 0x10000)) then
    (if fn = 0 ∧ 0x100000 ≤ off ∧ off < 0x100040 then (deviceHeader s).getD slot 0 else 0xFF)
  else if t.1 ≤ off ∧ off < t.1 + t.2 then smapGet 0 (vget s.pcie.fns fn).table (off - t.1)
  else if t.1 + 0x1000 ≤ off ∧ off < t.1 + 0x1008 then
    (((vget s.pcie.fns fn).pba.setWidth 64) >>> (8 * (off % 8))).setWidth 8
  else if off < 0x10000 then
    match mailboxAt s fn (off / 0x1000) with
    | none => 0xFF
    | some k =>
      let m := getMb s k
      if off % 0x1000 < 64 then (mbHeader m).getD (off % 0x1000) 0 else smapGet 0 m.payload (off % 0x1000 - 64)
  else if fn = 0 ∧ 0x100000 ≤ off ∧ off < 0x200000 then (mirrorSlot s ((off - 0x100000) / 64 * 64)).getD slot 0
  else if fn ≠ 0 ∧ 0x100000 ≤ off ∧ off < 0x180000 then
    let cores := ((s.reg.jobs.filter fun j => j.func == fn).map (·.cores)).flatten
    (mirrorSlotVf s cores ((off - 0x100000) / 64 * 64)).getD slot 0
  else 0xFF

/-- A function's configuration as it leaves reset (R271). -/
def resetFn (f : PcieFn) : PcieFn := { PcieFn.init with enabled := f.enabled }

/-- A command abandoned (R271): one accepted runs on and its result is discarded; one only posted is gone. -/
def abandon (m : Mailbox) : Mailbox :=
  if !m.own then m else if m.phase = 0 ∧ m.result.isNone then m.released else { m with aband := true }

/-- The FLR of a VF (R271, R325). -/
def flr (s : State) (fn : Fin 9) : State :=
  let s := (s.reg.jobs.filter fun j => j.func == fn && !j.killed).foldl (fun s j => killJob s j.id 0 0 (0, 15, 0) none) s
  let s := modReg s fun r => { r with
    mailboxes := r.mailboxes.map fun m => if m.fn = fn then abandon m else m
    grants := vset r.grants fn none }
  noted (modFn s fn resetFn)

/-- The VF with index v is function v + 1. -/
def vfOf (v : Fin 8) : Fin 9 := finOf 9 (by decide) (v.val + 1)

/-- FLR_VF (R271). -/
def execFlrVf (v : Fin 8) (s : State) : Out :=
  .next (if (vget s.pcie.fns (vfOf v)).enabled then flr s (vfOf v) else s)

/-- FLR_PF (R271, R325): the commands of MB0 and MB1 are abandoned, the PF's configuration, VF Enable with it, is reset,
its grant ends, and no job dies. -/
def execFlrPf (s : State) : Out :=
  .next (if !(vget s.pcie.fns 0).enabled then s
    else
      let s := modReg s fun r => { r with
        mailboxes := vmod (vmod r.mailboxes 0 abandon) 1 abandon
        grants := vset r.grants 0 none }
      let s := modPcie s fun p => { p with fns := vset (p.fns.map fun f => { f with enabled := false }) 0 (resetFn (vget p.fns 0)) }
      noted s)

/-- VF_ENABLE_CLEAR (R271): an FLR of every VF. -/
def execVfEnableClear (s : State) : Out :=
  .next ((allFin 8).foldl (fun s v =>
    if (vget s.pcie.fns (vfOf v)).enabled then modFn (flr s (vfOf v)) (vfOf v) fun f => { f with enabled := false } else s) s)

/-- PCIE_LINK_DOWN (R271). -/
def execPcieLinkDown (s : State) : Out :=
  .next (if s.pcie.up then noted (modPcie s fun p => { p with up := false, speed := 0, width := 0, flit := false }) else s)

/-- A link width of R265. -/
def linkWidthOk (w : Nat) : Bool := w == 1 || w == 2 || w == 4 || w == 8 || w == 16

/-- PCIE_LINK_UP (R265, R271): Flit Mode is the mode of 64 GT/s; completions that waited are delivered. -/
def execPcieLinkUp (speed : Fin 7) (width : Fin 17) (s : State) : Out :=
  .next (if s.pcie.up || s.pins.perst || !domainUp s 28 || speed = 0 || !linkWidthOk width.val then s
    else
      let l := s.pcie.waiting
      let s := modPcie s fun p => { p with
        up := true, speed := BitVec.ofNat 4 speed.val, width := BitVec.ofNat 5 width.val
        flit := decide (speed.val = 6), waiting := [] }
      l.foldl (fun s v => raiseVec s v.1 v.2) (noted s))

/-- POWERSTATE_D3HOT (R265): the function stops decoding memory space. -/
def execPowerstateD3hot (fn : Fin 9) (s : State) : Out :=
  .next (if s.pcie.up && s.pcie.ready && (vget s.pcie.fns fn).enabled then modFn s fn fun f => { f with d3hot := true } else s)

/-- PCIE_CONFIG_WRITE (R265, R268, R270): Request Retry Status before the endpoint is ready. -/
def execPcieConfigWrite (fn : Fin 9) (op : ConfigWrite) (s : State) : Out :=
  .next (if !s.pcie.up || !s.pcie.ready || !(vget s.pcie.fns fn).enabled then s
    else match op with
      | .vfEnable =>
        if fn = 0 then noted (modPcie s fun p => { p with fns := p.fns.map fun f => { f with enabled := true } }) else s
      | .resizeBar2 n =>
        if fn ≠ 0 ∧ 4 < n.val then s else modFn s fn fun f => { f with apLog2 := BitVec.ofNat 3 n.val }
      | .msixEnable on => deliver (modFn s fn fun f => { f with msixEn := on }) fn
      | .msixMask on => deliver (modFn s fn fun f => { f with msixMask := on }) fn
      | .toD0 => modFn s fn fun f => { f with d3hot := false })

/-- SPDM_DOE_REQUEST (R265): answered on the PF. -/
def execSpdmDoeRequest (req : List Byte) (s : State) : Out :=
  .next (if s.pcie.up && s.pcie.ready && (vget s.pcie.fns 0).enabled then
      modPcie s fun p => { p with doe := p.doe ++ [Config.spdmAnswer req] }
    else s)

/-- HOST_LANE_FAULT (R411): the link trains narrower, and a PORT record says so. -/
def execHostLaneFault (width : Fin 17) (s : State) : Out :=
  .next (if s.pcie.up && linkWidthOk width.val && decide (width.val < s.pcie.width.toNat) then
      let s := modPcie s fun p => { p with width := BitVec.ofNat 5 width.val }
      portRecord s 0 0 1 1 1 s.pcie.speed.toNat width.val s.pcie.uncorr.toNat 0
    else s)

/-- The checks of APERTURE (R268, R304). -/
def apertureAllow (s : State) (m : Mailbox) : BitVec 16 :=
  let fn := finOf 9 (by decide) (pf m 8 1)
  if m.fn ≠ 0 && m.fn != fn then stDenied
  else if pf m 0 8 % apSize (vget s.pcie.fns fn) ≠ 0 || 2 ^ 48 ≤ pf m 0 8 then stBadForm
  else 0

/-- APERTURE (R268). -/
def execAperture (mb : Fin 16) (s : State) : Out :=
  command s mb 0x30 apertureAllow fun s m =>
    ends (modFn s (finOf 9 (by decide) (pf m 8 1)) fun f => { f with apBase := BitVec.ofNat 18 (pf m 0 8 / 2 ^ 30) }) mb 0 []

/-- MEM_STATUS (R263, R304): INVALID is acknowledged. -/
def execMemStatus (mb : Fin 16) (s : State) : Out :=
  command s mb 0x31 always fun s m =>
    ends (clearInvalid s (decide (pf m 0 1 = 1)) (finOf 8 (by decide) (pf m 1 1))) mb 0 []

/-- The state with the vault changed. -/
def modVault (s : State) (f : Vault → Vault) : State := { s with vault := f s.vault }

/-- An NVMe command leaves the list, and a Write on a drive with a volatile cache is followed by Flush (R273). -/
def nvmeDone (s : State) (x : Nvme) : State :=
  modVault s fun v =>
    let l := v.cmds.filter fun y => y.id != x.id
    if !x.flush && v.wcache then
      { v with cmds := l ++ [{ x with id := v.nextCmd, flush := true, retried := false }], nextCmd := v.nextCmd + 1 }
    else { v with cmds := l }

/-- The vault is RETIRED (R274): in the condition report, with a record. -/
def retireVault (s : State) : State :=
  let s := condAppend (modVault s fun v => { v with state := 3, cmds := [] }) (unitWord 10 15 256) 0x07 2 0 0
  portRecord s 1 0 1 3 3 s.vault.speed.toNat 4 s.vault.timeouts.toNat 0

/-- The drive controller is reset and its commands are issued again; three resets within 24 h retire the vault
(R274). -/
def resetDrive (s : State) : State :=
  let l := s.reg.time.toNat :: recentTimes s dayNs s.vault.resets
  let s := modVault s fun v => { v with resets := l, cmds := v.cmds.map fun x => { x with retried := false } }
  if 3 ≤ l.length then retireVault s else noted s

/-- A command that fails or times out is retried once; a second time resets the controller (R274). -/
def nvmeRetry (s : State) (x : Nvme) : State :=
  if x.retried then resetDrive s
  else modVault s fun v => { v with cmds := v.cmds.map fun y => if y.id = x.id then { y with retried := true } else y }

/-- The outstanding NVMe command with an ID. -/
def nvmeOf (s : State) (id : Nat) : Option Nvme := if s.vault.state = 1 then s.vault.cmds.find? fun x => x.id == id else none

/-- NVME_CMD_COMPLETE (R273). -/
def execNvmeCmdComplete (id : Nat) (ok : Bool) (s : State) : Out :=
  .next (match nvmeOf s id with
    | none => s
    | some x => if ok then nvmeDone s x else nvmeRetry s x)

/-- NVME_CMD_TIMEOUT (R274). -/
def execNvmeCmdTimeout (id : Nat) (s : State) : Out :=
  .next (match nvmeOf s id with
    | none => s
    | some x => nvmeRetry (modVault (bumpGen s) fun v => { v with timeouts := satAdd v.timeouts 1 }) x)

/-- VAULT_SURPRISE_REMOVAL (R274). -/
def execVaultSurpriseRemoval (s : State) : Out :=
  .next (if s.vault.state = 1 ∨ s.vault.state = 2 then
      let s := modVault s fun v => { v with state := 0, cmds := [] }
      portRecord s 1 0 1 0 0 s.vault.speed.toNat 4 s.vault.timeouts.toNat 0
    else s)

/-- PORT_CFG needs the Eyelet (R282, R285). -/
def portCfgAllow (s : State) (m : Mailbox) : BitVec 16 :=
  if !eytPresent s || !s.flash.boardOk || (vget s.eyes.ports (finOf 8 (by decide) (pf m 0 1))).state = 3 then stNotPresent else 0

/-- PORT_CFG (R276, R282): mode, DSCP, PFC, UDP port and address; a port that changes its mode trains again, and its
sessions move. -/
def execPortCfg (mb : Fin 16) (s : State) : Out :=
  command s mb 0x40 portCfgAllow fun s m =>
    let p := finOf 8 (by decide) (pf m 0 1)
    let mode := BitVec.ofNat 3 (pf m 1 1)
    let was := vget s.eyes.ports p
    let s := modEye s p fun x => { x with
      mode := mode, dscp := BitVec.ofNat 8 (pf m 2 1), pfc := BitVec.ofNat 8 (pf m 3 1)
      udp := BitVec.ofNat 16 (pf m 4 2), addr := BitVec.ofNat 128 (beNat (payBytes m 8 16)), configured := true
      paused := x.paused && x.pfc.toNat == pf m 3 1
      state := if x.state = 1 ∧ x.mode ≠ mode then 2 else x.state }
    let s := if was.state = 1 ∧ was.mode ≠ mode then leavePort s p else s
    ends (noted s) mb 0 []

/-- The checks of SESS_OPEN (R281, R285, R304). -/
def sessOpenAllow (s : State) (m : Mailbox) : BitVec 16 :=
  if !eytPresent s then stNotPresent
  else if (findSession s (BitVec.ofNat 24 (pf m 0 4))).isSome then stNoResource
  else if pf m 4 1 = 1 then 0
  else match namedJob s m 5 with
    | .error e => e
    | .ok j => if j.state = 6 then stBadState else 0

/-- SESS_OPEN (R281): the session takes its home Eyelet and sends OPEN; HOME 0xFF when no port is up. -/
def execSessOpen (mb : Fin 16) (s : State) : Out :=
  command s mb 0x41 sessOpenAllow fun s m =>
    let home := bestPort s
    let x := newSession (BitVec.ofNat 24 (pf m 0 4)) (decide (pf m 4 1 = 1)) (decide (pf m 6 1 = 1)) (BitVec.ofNat 6 (pf m 5 1))
      (BitVec.ofNat 8 (pf m 7 1)) (BitVec.ofNat 128 (beNat (payBytes m 8 16)))
      (if pf m 6 1 = 1 then payBytes m 24 32 else []) home
    ends (addSession s x) mb 0 (leBytes 1 (home.elim 0xFF (·.val)) ++ List.replicate 7 0)

/-- The checks of SESS_CLOSE (R304): from a VF only its own job's sessions. -/
def sessCloseAllow (s : State) (m : Mailbox) : BitVec 16 :=
  match findSession s (BitVec.ofNat 24 (pf m 0 4)) with
  | none => stNoSuch
  | some x => if m.fn ≠ 0 && (x.dup || !(callerJob s m).any fun j => j.id == x.job) then stDenied else 0

/-- SESS_CLOSE (R281, R304): an ESEND in flight on the session faults. -/
def execSessClose (mb : Fin 16) (s : State) : Out :=
  command s mb 0x42 sessCloseAllow fun s m =>
    let n := BitVec.ofNat 24 (pf m 0 4)
    ends (closeSession (faultEsends s n 0x16) n) mb 0 []

end Sys2Proof.Machine
end

