-- ==== Sys2Proof/Machine/Health.lean ====
section
/-!
DEFINITION. The health risk score (R413 to R415), the self-test of a SUSPECT engine (R409), and the loss of a Registrar
core (R410).
-/
namespace Sys2Proof.Machine

/-- Points of the corrections of core c in the last hour: its Stacks, its Welt caches, the stacks it owns (Table 17-4). -/
def correctionPoints (s : State) (c : CoreId) : Nat :=
  let k := getCore s c
  let n := (recent s hourNs k.stk.ceTimes).length + (recent s hourNs (vget k.welts 0).ceTimes).length +
    (recent s hourNs (vget k.welts 1).ceTimes).length +
    ((recent s hourNs s.tiers.ceTimes).filter fun e => e.1 == (fieldOf s c).val).length
  10 * Nat.log2 (1 + n)

/-- Points of silent data in the last 24 h (Table 17-4). -/
def silentPoints (s : State) (c : CoreId) : Nat :=
  let k := getCore s c
  40 * ((allFin 4).foldl (fun n l => n + (recent s dayNs (vget k.lasts l).misTimes).length) 0) +
    80 * (recent s dayNs k.num.hardTimes).length + 20 * (recentTimes s dayNs k.num.softTimes).length

/-- Points of the margin of a region (Table 17-4). -/
def marginPoints (s : State) (r : Fin 15) : Nat := 3 * (s.clock.warn.toNat + 4 - (lowOf s r).toNat)

/-- Points of the stretched periods of a region in the last 1 ms (Table 17-4). -/
def stretchPoints (s : State) (r : Fin 15) : Nat := 40 * stretchesMs s r / max 1 s.clock.strLim.toNat

/-- Points of the feed that serves core c (Table 17-4). -/
def feedPoints (s : State) (c : CoreId) : Nat :=
  let g := vget s.power.fgs (coreFeed s c)
  if s.power.compat then (if s.power.feedLost = 0 then 0 else 60)
  else if g.fault then 100 else if g.suspect then 60 else 0

/-- Points of the link events at a router in the last 24 h (Table 17-4). -/
def linkPoints (s : State) (node : Nat) : Nat :=
  8 * ((recent s dayNs s.lacing.retrainTimes).filter fun e => e.1 == node).length

/-- The components of core c in table order, each up to its cap. -/
def corePoints (s : State) (c : CoreId) : List Nat :=
  let r := finOf 15 (by decide) c.val
  List.zipWith (fun n (k : BitVec 8) => min n k.toNat)
    [correctionPoints s c, silentPoints s c, marginPoints s r, stretchPoints s r, feedPoints s c,
      linkPoints s (routerOf s c).val] s.resil.caps.toList

/-- A core that is not LOST and not OFF is scored. -/
def coreScored (s : State) (c : CoreId) : Bool := !((getCore s c).st == .lost || (getCore s c).st == .off)

/-- The score of core c (R413). -/
def coreScore (s : State) (c : CoreId) : Nat := if coreScored s c then min 255 (corePoints s c).sum else 0

/-- The edge component (R414): the margin and stretch terms of EDN and EDS and the link terms of the edge nodes. -/
def edgeScore (s : State) : Nat :=
  let t := fun (r : Fin 15) => min (marginPoints s r) (vget s.resil.caps 2).toNat + min (stretchPoints s r) (vget s.resil.caps 3).toNat
  let l := fun n => min (linkPoints s n) (vget s.resil.caps 5).toNat
  min 60 (t 12 + t 13 + l 12 + l 13 + l 14)

/-- A threshold's state after a score (R415): over from the threshold on, until 16 below it. -/
def overAt (was : Bool) (score thr : Nat) : Bool := if was then decide (thr < score + 16) else decide (thr ≤ score)

/-- The HTHR that counts for a core: that of the job it holds, else 160. -/
def coreHthr (s : State) (c : CoreId) : Nat :=
  match findCfg s (getCore s c).jobId with
  | some g => if (getCore s c).jobId = 0 then 160 else g.hthr.toNat
  | none => 160

/-- The lowest HTHR configured, 160 when no job configures one: where the device score gives its WARN record. -/
def deviceHthr (s : State) : Nat :=
  match (s.resil.snaps.filter fun c => c.job != 0).map fun c => c.hthr.toNat with
  | [] => 160
  | h :: t => t.foldl min h

/-- A record of class HEALTH (Tables 17-2, 12-10); core 15 is the device. -/
def healthRecord (s : State) (core : Nat) (sev : BitVec 8) (score prev : Nat) (pts : List Nat) : State :=
  writeRecord s { recOf s 0 core 0 0x11 sev 0 with
    detail := leBytes 1 score ++ leBytes 1 prev ++ leBytes 1 (if core < 12 then core else 255) ++ [0] ++
      pts.flatMap (leBytes 1) }

/-- The bits of `over` after a score: 96, HTHR, 224. -/
def overBits (was : BitVec 3) (score hthr : Nat) : BitVec 3 :=
  BitVec.ofNat 3 (b2n (overAt (bit was 0) score 96) + 2 * b2n (overAt (bit was 1) score hthr) +
    4 * b2n (overAt (bit was 2) score 224))

/-- The thresholds a score newly crosses write their records (R415). -/
def crossings (s : State) (core : Nat) (was now : BitVec 3) (score prev : Nat) (pts : List Nat) : State :=
  let new := now &&& ~~~was
  let s := if bit new 0 then healthRecord s core 1 score prev pts else s
  let s := if bit new 1 then healthRecord s core 1 score prev pts else s
  if bit new 2 then healthRecord s core 2 score prev pts else s

/-- The score of one core is updated; crossing HTHR arms the next snapshot of its job (R415). -/
def scoreCore (s : State) (c : CoreId) : State :=
  let i := finOf 13 (by decide) c.val
  let was := vget s.resil.overs i
  let score := coreScore s c
  let now := overBits was score (coreHthr s c)
  let s := crossings s c.val was now score (vget s.resil.scores c).toNat (corePoints s c)
  let s := modResil s fun r => { r with scores := vset r.scores c (BitVec.ofNat 8 score), overs := vset r.overs i now }
  if bit (now &&& ~~~was) 1 && (getCore s c).jobId != 0 then modCfg s (getCore s c).jobId fun g => { g with armed := true } else s

/-- The device score is updated (R414); crossing a job's HTHR arms that job's next snapshot (R415). -/
def scoreDevice (s : State) : State :=
  let edge := edgeScore s
  let score := min 255 (s.resil.scores.toList.foldl (fun n x => max n x.toNat) 0 + edge)
  let was := vget s.resil.overs 12
  let now := overBits was score (deviceHthr s)
  let s := crossings s 15 was now score s.resil.devScore.toNat []
  modResil s fun r => { r with
    devScore := BitVec.ofNat 8 score, edgePts := BitVec.ofNat 8 edge, overs := vset r.overs 12 now
    snaps := r.snaps.map fun g =>
      let o := overAt g.devOver score g.hthr.toNat
      if g.job = 0 then g else { g with devOver := o, armed := g.armed || (o && !g.devOver) } }

/-- HEALTH_SCORE_UPDATE (R413 to R415, R429). -/
def execHealthScoreUpdate (s : State) : Out :=
  .next (if s.reg.devState ≠ 1 then s
    else
      let t := scoreDevice ((allFin 12).foldl scoreCore s)
      let t := modResil t fun r => { r with healthGen := r.healthGen + 1 }
      if t.resil.scores = s.resil.scores ∧ t.resil.devScore = s.resil.devScore then t else noted t)

/-- An engine is SUSPECT (R409): a Last 0-3, a Welt 4-5, the Awl 6. -/
def engineSuspect (s : State) (c : CoreId) (e : Fin 7) : Bool :=
  if h : e.val < 4 then (getLast s c ⟨e.val, h⟩).suspect
  else if e.val < 6 then (getWelt s c (finOf 2 (by decide) (e.val - 4))).suspect
  else (getCore s c).awl.suspect

/-- SUSPECT is cleared (R409). -/
def clearSuspect (s : State) (c : CoreId) (e : Fin 7) : State :=
  if h : e.val < 4 then modLast s c ⟨e.val, h⟩ fun x => { x with suspect := false, misTimes := [] }
  else if e.val < 6 then modWelt s c (finOf 2 (by decide) (e.val - 4)) fun x => { x with suspect := false }
  else modAwl s c fun x => { x with suspect := false }

/-- SUSPECT_ENGINE_TEST (R409, R404): only on a core that holds no job; a failure makes the core LOST. -/
def execSuspectEngineTest (c : CoreId) (e : Fin 7) (pass : Bool) (s : State) : Out :=
  .next (if (getCore s c).jobId ≠ 0 ∨ (getCore s c).st ≠ .idle ∨ !engineSuspect s c e then s
    else if pass then clearSuspect s c e
    else markLost s c 9)

/-- REGISTRAR_CORE_FAIL (R410): the core is retired, the commands that run on it end with DEVICE_FAULT, and with fewer
than two left DEV_STATE becomes FAILED. Mailbox k runs on the (k mod n)-th of the n working cores. -/
def execRegistrarCoreFail (n : Fin 4) (s : State) : Out :=
  .next (if !vget s.reg.cores n then s
    else
      let alive := (allFin 4).filter fun i => vget s.reg.cores i
      let hit := (allFin 16).filter fun k => (getMb s k).own && (getMb s k).phase == 2 &&
        (getMb s k).result.isNone && alive[k.val % alive.length]? == some n
      let s := hit.foldl (fun s k => ends s k stDeviceFault []) s
      let s := modReg s fun r => { r with cores := vset r.cores n false }
      let dead := decide (alive.length ≤ 2)
      let s := writeRecord s { recOf s 13 15 n.val 0x0E (fatalOr dead) 0 with flags := 2, detail := leBytes 4 s.flash.running.toNat }
      if dead then failDevice s else s)

end Sys2Proof.Machine
end

