-- ==== Sys2Proof/Machine/SelfTest.lean ====
section
/-!
DEFINITION. SELFTEST (R397, R403, R404): its targets, the reset it makes at expert level, the handling of what fails, and
its response. What the test measures is the row's operand (log 15).
-/
namespace Sys2Proof.Machine

/-- How many units a target has (Table 16-9). -/
def testUnits (target : Nat) : Nat := [12, 48, 24, 12, 24, 12, 2, 16, 16, 23, 8, 16].getD target 0

/-- The cores that a compute target concerns (Table 16-9): a partition's cores that are not LOST. -/
def testCores (s : State) (target index : Nat) : List CoreId :=
  if target = 1 then [coreOf (index / 4)]
  else if target = 2 ∨ target = 4 then [coreOf (index / 2)]
  else if target = 6 then (allFin 12).filter fun c => (fieldOf s c).val / 6 == index && (getCore s c).st != .lost
  else [coreOf index]

/-- A memory or link target is there (Table 12-4: NOT_PRESENT). -/
def testPresent (s : State) (target index : Nat) : Bool :=
  if target = 8 then (vget s.tiers.chans (finOf 16 (by decide) index)).state != 3
  else if target = 9 then !linkFailed s (finOf 23 (by decide) index)
  else if target = 10 then eytPresent s && (vget s.eyes.ports (finOf 8 (by decide) index)).state != 3
  else if target = 11 then (vget s.sites (finOf 16 (by decide) index)).state != 5
  else true

/-- The checks of SELFTEST (R403). -/
def selftestAllow (s : State) (m : Mailbox) : BitVec 16 :=
  let target := pf m 0 1
  let index := pf m 1 1
  if target < 7 then
    let l := testCores s target index
    if l.isEmpty || l.any fun c => (getCore s c).st == .lost then stNotPresent
    else if l.any fun c => (getCore s c).st == .off then stBadState
    else if l.any fun c => (getCore s c).st == .reset || ((getCore s c).jobId != 0 && !m.expert) then stBusy
    else 0
  else if testPresent s target index then 0 else stNotPresent

/-- Every engine of core c is reset. -/
def resetUnits (s : State) (c : CoreId) : State := (allFin 16).foldl (fun s q => resetEngine s c q) (absorb s c)

/-- A core-level reset (R397, R398): fenced, every unit reset, its sets in SCRUB; RESET_RELEASE ends it. -/
def resetCore (s : State) (c : CoreId) : State :=
  let s := resetUnits (fenceCore s c) c
  modCore s c fun k => { k with
    st := if k.jobId = 0 then .reset else k.st
    stk := { k.stk with scrub := k.stk.scrub ||| k.stk.insvc } }

/-- A cluster-level reset (R29): its Lasts and its Welt, and its sets scrubbed. -/
def resetCluster (s : State) (c : CoreId) (k : Nat) : State :=
  let s := ((allFin 16).filter fun q => clusterOf q == some k).foldl (fun s q => resetEngine s c q) s
  let w := (List.range (popcount (getCore s c).stk.insvc)).filter fun w => setOfWindow (getCore s c).stk w / 10 == k
  w.foldl (fun s w => loseBytes s (stacksAddr c (w * setBytes)) setBytes) s

/-- The reset that SELFTEST makes first at expert level (Tables 16-7, 16-9); the cores' jobs die. -/
def testReset (s : State) (target index : Nat) : State :=
  let l := testCores s target index
  let s := l.foldl (fun s c => match jobOn s c with
    | some j => if j.killed then s else killJob s j.id 0 0x50 (0, c.val, 0) none
    | none => s) s
  if target = 1 then resetEngine s (coreOf (index / 4)) (seqOf (index % 4))
  else if target = 2 then resetEngine s (coreOf (index / 2)) (seqOf (4 + index % 2))
  else if target = 3 then resetEngine s (coreOf index) awlSeq
  else if target = 4 then resetCluster s (coreOf (index / 2)) (index % 2)
  else l.foldl resetCore s

/-- The core of the first failing unit, when the target concerns it; else the target's first core. -/
def failedCore (s : State) (target index : Nat) (r : TestOutcome) : Option CoreId :=
  let l := testCores s target index
  match l.find? fun c => c.val == fld r.failUnit 24 4 with
  | some c => some c
  | none => l.head?

/-- A compute unit that failed makes its core LOST; Stacks banks are marked REPAIR_PENDING (R404). -/
def testCompute (s : State) (target index : Nat) (r : TestOutcome) : State :=
  match failedCore s target index r with
  | none => s
  | some c =>
    let s := r.failBanks.foldl (fun s b => markRepair s c 0 b.val) s
    if r.pass || target == 5 || !r.failBanks.isEmpty then s
    else
      let q := engineUnit (if target = 1 then seqOf (index % 4) else if target = 2 then seqOf (4 + index % 2) else awlSeq)
      let u := if target = 1 ∨ target = 2 ∨ target = 3 then q else (0, 0)
      markLost (writeRecord s { recOf s u.1 c.val u.2 2 2 0 with flags := 3, op := 0 }) c 9

/-- A memory or link unit that failed follows R258 or R217 (R404); for a stack, a link and a channel the failing unit
names the PC, the lace or the sub-channel. -/
def testLink (s : State) (target index : Nat) (r : TestOutcome) : State :=
  let u := r.failUnit
  if r.pass then s
  else if target = 7 then
    trainingFailure s (memUnitOf false (finOf 16 (by decide) index) (finOf 32 (by decide) (fld u 8 5))) 0
  else if target = 8 then
    trainingFailure s (memUnitOf true (finOf 16 (by decide) index) (finOf 32 (by decide) (fld u 8 5))) 0
  else if target = 9 then retireLace s (finOf 23 (by decide) index) (bit u 16) (finOf 18 (by decide) (fld u 0 8))
  else s

/-- Units that are out of service for good: LOST cores, retired laces, units with a retirement pending. -/
def retiredCount (s : State) : Nat :=
  ((allFin 12).filter fun c => (getCore s c).st == .lost).length +
    (allFin 23).foldl (fun n l => n + popcount (vget s.lacing.links l).a.retired + popcount (vget s.lacing.links l).b.retired) 0 +
    (allFin 8).foldl (fun n q => n + popcount (vget s.tiers.regions q).pend) 0 +
    ((allFin 16).filter fun l => (vget s.tiers.chans l).state == 2).length

/-- RESULT and DETAIL (R404). -/
def testResponse (before after : State) (r : TestOutcome) : List Byte :=
  leBytes 4 (b2n r.pass + 2 * b2n (!r.pass) + 4 * b2n (decide (retiredCount before < retiredCount after)) +
    8 * b2n r.repaired + 2 ^ 8 * r.tested.toNat + 2 ^ 16 * r.failures.toNat) ++
  leBytes 4 (if r.pass then 0 else r.failUnit.toNat) ++
  leBytes 8 (if before.reg.errNext = after.reg.errNext then 0 else errNextSeq before) ++
  leBytes 1 r.marginMin.toNat ++ [0, 0, 0] ++ leBytes 4 r.durUs.toNat ++ List.replicate 8 0

/-- SELFTEST (R403, R404). -/
def execSelftest (mb : Fin 16) (r : TestOutcome) (s : State) : Out :=
  command s mb 0x50 selftestAllow fun s m =>
    let target := pf m 0 1
    let index := pf m 1 1
    let t := if target < 7 && m.expert then testReset s target index else s
    let t := if target < 7 then testCompute t target index r else testLink t target index r
    modMb (ends (bumpGen t) mb 0 (testResponse s t r)) mb fun m => { m with progress := 1000 }

end Sys2Proof.Machine
end

