-- ==== Sys2Proof/Machine/Startup.lean ====
section
/-!
DEFINITION. Start-up and resets (R381 to R402): what a whole-device reset keeps, boot verification and slot fallback, the
condition report and the licence at start-up, discovery of partner dies, microcode agents, READY, the watchdog, PERST#,
DEVICE_RESET, and the release of a unit's reset.
-/
namespace Sys2Proof.Machine

/-- A snapshot configuration after its job has ended: what the layers hold (R424, R426). -/
def SnapCfg.archived (c : SnapCfg) : SnapCfg :=
  { c.stopped with job := 0, arrived := [], restore := none, armed := false, nowDue := false }

/-- A power domain as a reset leaves it: off, a latch kept until power is removed (R349, R381). -/
def PowerDomain.afterReset (x : PowerDomain) : PowerDomain :=
  if x.latched then { PowerDomain.init with latched := true, state := 3 } else PowerDomain.init

/-- A mailbox as DEVICE_RESET leaves it (R296): back with the PF; a command in it is posted and no more. -/
def Mailbox.afterReset (m : Mailbox) : Mailbox :=
  { m with fn := 0, phase := 0, progress := 0, result := none, waiting := false, aband := false, order := 0, cancel := false }

/-- The machine as a whole-device reset leaves it before start-up runs (R296, R381, R385): flash, pins, latches held until
power is removed, what layers of snapshots hold, messages already sent, the model's own queue and counter. `host` keeps
the host link, the configuration of every function, the mailboxes, D25 and D28. -/
def coldState (s : State) (host : Bool) : State :=
  let z := State.reset
  { z with
    flash := s.flash, pins := s.pins, pending := s.pending, openCtr := s.openCtr
    vault := { z.vault with wcache := s.vault.wcache }
    eyes := { z.eyes with out := s.eyes.out, frames := s.eyes.frames }
    sites := s.sites.map fun x => { Site.init with downBoots := x.downBoots }
    resil := { z.resil with
      snaps := (s.resil.snaps.map SnapCfg.archived).filter fun c => !c.done.isEmpty || c.kept.isSome }
    power := { z.power with
      doms := (allFin 30).foldl (fun v d =>
        if host && (d == 25 || d == 28) then vset v d (vget s.power.doms d) else vmod v d PowerDomain.afterReset) s.power.doms
      fgs := s.power.fgs.map fun g => { FeedGroup.init with suspect := g.suspect, fault := g.fault }
      pwrFault := s.power.pwrFault, hbmPg := s.power.hbmPg, compat := s.power.compat, sent := s.power.sent }
    thermal := { z.thermal with tripped := s.thermal.tripped }
    pcie := if host then s.pcie else { z.pcie with
      irqs := s.pcie.irqs, completions := s.pcie.completions, upstream := s.pcie.upstream, doe := s.pcie.doe }
    reg := { z.reg with
      bootCount := s.reg.bootCount, ownerState := if s.reg.ownerState = 0 then 0 else 1, key := s.reg.key
      lastCtr := s.reg.ctrHigh, ctrHigh := s.reg.ctrHigh, clrBoots := s.reg.clrBoots, journal := s.reg.journal
      mailboxes := if host then s.reg.mailboxes.map Mailbox.afterReset else z.reg.mailboxes
      renumber := host && s.reg.renumber } }

/-- A firmware slot. -/
def fwSlot (f : Flash) (b : Bool) : FwSlot := if b then f.slotB else f.slotA

/-- A slot passes R386: its image verifies and its SVN is at least the fused counter. -/
def slotPasses (f : Flash) (b : Bool) : Bool := (fwSlot f b).valid && decide (f.fwCtr ≤ (fwSlot f b).svn.toNat)

/-- A record of class FIRMWARE (Table 17-2). -/
def firmwareRecord (s : State) (kind core index : Nat) (sev : BitVec 8) (x : FwSlot) (part : Nat) (slot : Bool) : State :=
  writeRecord s { recOf s kind core index 0x0E sev 0 with
    detail := leBytes 4 x.version.toNat ++ leBytes 4 x.svn.toNat ++ leBytes 1 part ++ leBytes 1 (b2n slot) }

/-- The boot ROM takes a slot (R386, R388): a pending one on trial, else the active one, else the other, which becomes
active with an ERROR record. `other` makes it leave the slot that did not reach READY (R383). None when both fail. -/
def bootSlot (s : State) (other : Bool) : Option State :=
  let f := s.flash
  match f.pending with
  | some b =>
    if slotPasses f b && !other then some (modFlash s fun f => { f with trial := true, running := (fwSlot f b).version })
    else
      let s := modFlash s fun f => { f with pending := none, trial := false }
      if slotPasses f f.active then some (modFlash s fun f => { f with running := (fwSlot f f.active).version })
      else none
  | none =>
    if slotPasses f f.active && !other then
      some (modFlash s fun f => { f with trial := false, running := (fwSlot f f.active).version })
    else if slotPasses f !f.active then
      let s := modFlash s fun f => { f with active := !f.active, trial := false, running := (fwSlot f !f.active).version }
      some (firmwareRecord s 13 15 0 2 (fwSlot s.flash s.flash.active) 1 s.flash.active)
    else if slotPasses f f.active then
      some (modFlash s fun f => { f with trial := false, running := (fwSlot f f.active).version })
    else none

/-- A domain switched on at start-up (R342, R343): unless latched off. Stacks, HBM PHY and edge dies run at 0.75 V, a core
at its VF table's top point; D24's voltage is a free value of Table 14-1's range. -/
def powerOn (s : State) (d : Fin 30) : State :=
  if (vget s.power.doms d).latched then s
  else
    let r := if d = 24 then takeFree s else (0, s)
    let p := vget (vget s.power.cores (coreOf d.val)).vf 15
    let mv := if d = 24 then BitVec.ofNat 12 (650 + r.1.toNat % 201)
      else if d.val < 12 then (if s.power.compat then s.flash.boardMv else BitVec.ofNat 12 (p.fused.toNat + p.ageMv.toNat + p.offMv.toNat))
      else 750
    modDom r.2 d fun x => { x with state := 1, clamp := false, mv := mv }

/-- The entries in force at start-up (R391): the factory section, and the field entries of a valid copy. -/
def reportInForce (f : Flash) : List CondEntry := f.factory ++ (if f.copyOk then uncleared f.field else [])

/-- Two TRIP entries of a domain within 30 days of each other (R392). -/
def trippedTwice (l : List CondEntry) (d : Nat) : Bool :=
  let days := (l.filter fun e => e.action == 0x0D && fld e.unit 28 4 == 11 && fld e.unit 0 24 == d).map fun e => e.day.toNat
  days.zipIdx.any fun x => days.zipIdx.any fun y => x.2 != y.2 && decide (x.1 ≤ y.1) && decide (y.1 ≤ x.1 + 30)

/-- Both copies of a unit's provenance record fail (R26). -/
def provFails (s : State) (typ unit : Nat) : Bool :=
  let p := provCopies s typ unit
  !provGood p.1 && !provGood p.2

/-- The factory section marks a field LOST. -/
def factoryLost (f : Flash) (n : Nat) : Bool :=
  f.factory.any fun e => e.action == 0x01 && fld e.unit 28 4 == 0 && fld e.unit 24 4 == n

/-- The report marks a field LOST (R391, R392). -/
def reportLost (f : Flash) (n : Nat) : Bool :=
  let l := reportInForce f
  (l.any fun e => e.action == 0x01 && fld e.unit 28 4 == 0 && fld e.unit 24 4 == n) || trippedTwice l n || trippedTwice l (n + 12)

/-- A folio that R395 accepts. -/
def folioOk (s : State) (x : Folio) : Bool :=
  let f := s.flash
  let none_ := (List.range 12).all fun n => !factoryLost f n
  x.sigOk && decide (f.licCtr ≤ x.svn.toNat) && x.serial == slice (provRecord s 1 0) 32 16 &&
    (if x.profile = 2 then decide (x.retired.toNat < 12) && (factoryLost f x.retired.toNat || none_)
     else decide (x.profile.toNat < 2) && x.retired == 0xFF && none_)

/-- The field that an E11 folio retires on a part with twelve good fields (R395). -/
def folioRetires (s : State) : Option Nat :=
  match s.flash.folio with
  | some x => if folioOk s x && x.profile == 2 && (List.range 12).all (fun n => !factoryLost s.flash n) then some x.retired.toNat else none
  | none => none

/-- The fields whose cores are LOST at a reset. -/
def lostFields (s : State) : List Nat :=
  (List.range 12).filter fun n => reportLost s.flash n || provFails s 1 n || folioRetires s == some n

/-- The core numbering of a reset (R394): the field of each core. -/
def numbering (s : State) (compact : Bool) : Vector CoreId 12 :=
  let lost := lostFields s
  let order := (List.range 12).filter (fun n => !lost.contains n) ++ lost
  (allFin 12).foldl (fun v c => vset v c (if compact then coreOf (order.getD c.val 0) else c)) (Vector.replicate 12 (0 : CoreId))

/-- The core of a field. -/
def coreAtField (s : State) (n : Nat) : Option CoreId := (allFin 12).find? fun c => (fieldOf s c).val == n

/-- A lace the report retires: a spare takes its place (R214, R217). -/
def reportLace (s : State) (idx : Nat) : State :=
  let l := finOf 23 (by decide) (idx / 256 % 256)
  let d := decide (idx / 65536 % 2 = 1)
  let s := modDir s l d fun x =>
    let x := { x with active := setBit x.active (idx % 256) false, retired := setBit x.retired (idx % 256) true }
    match x.spares.head? with
    | some i => if x.width < 16 then { x with active := setBit x.active i true } else x
    | none => x
  if ((vget s.lacing.links l).dir d).width < clampNat 4 16 (fld s.lacing.errThr 8 5) then
    modLink s l fun k => { k with failed := true }
  else s

/-- A part of the report that names a memory unit. -/
def reportMem (s : State) (kind idx : Nat) : State :=
  let u := finOf 16 (by decide) (idx % 256)
  if kind = 8 then
    modTiers s fun t => { t with regions := vmod t.regions (regionOf u) fun r =>
      { r with live := setBit r.live (u.val % 2 * 32 + idx / 256 % 32) false } }
  else modChan s u fun c => { c with state := 3 }

/-- A port that the report retires. -/
def reportPort (s : State) (idx : Nat) : State :=
  if idx / 256 = 2 then modEye s (finOf 8 (by decide) idx) fun x => { x with state := 3 }
  else if idx / 256 = 1 then modVault s fun v => { v with state := 3 }
  else modSite s (finOf 16 (by decide) idx) fun x => { x with state := 5 }

/-- What an entry of the report does to the unit of a core. -/
def reportCore (s : State) (c : CoreId) (e : CondEntry) : State :=
  let idx := fld e.unit 0 24
  if e.action = 0x02 then
    modStk s c fun k => { k with
      repaired := setAdd k.repaired idx
      spareC0 := if idx / 32 < 10 then k.spareC0 - 1 else k.spareC0
      spareC1 := if idx / 32 < 10 then k.spareC1 else k.spareC1 - 1 }
  else if e.action = 0x03 then
    modStk s c fun k => { k with insvc := if 18 < popcount k.insvc then setBit k.insvc (idx % 32) false else k.insvc }
  else if e.action = 0x08 then
    modCorePower s c fun p => { p with vf := vmod p.vf (finOf 16 (by decide) (fld e.arg 0 4)) fun x =>
      { x with ageMv := e.arg.extractLsb' 4 6 } }
  else if e.action = 0x09 then
    modRegion (modCorePower s c fun p => rebuildVf p e.arg.toNat) (finOf 15 (by decide) c.val) fun r => { r with
      cur := e.arg.setWidth 11, rated := e.arg.setWidth 11, goal := e.arg.setWidth 11 }
  else if e.action = 0x0B then modWelt s c (finOf 2 (by decide) idx) fun x => { x with spSeg := e.arg.setWidth 4 }
  else s

/-- The state with an agent changed. -/
def modAgent (s : State) (i : Fin 440) (f : Agent → Agent) : State := { s with agents := vmod s.agents i f }

/-- One entry of the condition report applied (R391, Table 16-5). LOST cores are marked before, TRIP entries count with
them, and a repaired row stays repaired by hPPR. -/
def applyEntry (s : State) (e : CondEntry) : State :=
  let kind := fld e.unit 28 4
  let idx := fld e.unit 0 24
  if e.action = 0x04 then reportLace s idx
  else if e.action = 0x06 then reportMem s kind idx
  else if e.action = 0x07 then reportPort s idx
  else if e.action = 0x0A then
    modTherm s (finOf 15 (by decide) (idx / 256)) fun x => { x with
      sensors := vmod x.sensors (finOf 16 (by decide) idx) fun y => { y with failed := true } }
  else if e.action = 0x0C then modAgent s (finOf 440 (by decide) e.arg.toNat) fun a => { a with retired := true }
  else match coreAtField s (fld e.unit 24 4) with
    | some c => reportCore s c e
    | none => s

/-- Steps 7 and 8 of Table 16-1 (R26, R391, R392, R394): provenance, then the report, then LOST cores; a unit without a
good provenance record is marked LOST. -/
def applyReport (s : State) : State :=
  let s := if s.flash.copyOk then s
    else writeRecord s { recOf s 13 15 0 0x0F 2 0 with flags := 0 }
  let lost := lostFields s
  let s := modReg s fun r => { r with fieldOf := numbering s r.renumber, renumber := false }
  let s := ((List.range 12).filter fun n => provFails s 1 n).foldl (fun s n => match coreAtField s n with
    | some c => condAppend s (unitWord 0 c.val 0) 0x01 4 0 0
    | none => s) s
  let s := ((List.range 16).filter fun n => provFails s 3 n).foldl (fun s n =>
    let s := condAppend s (unitWord 8 15 n) 0x01 4 0 0
    (List.range 32).foldl (fun s p => reportMem s 8 (p * 256 + n)) s) s
  let s := (dropReplaced (reportInForce s.flash)).foldl applyEntry s
  lost.foldl (fun s n => match coreAtField s n with
    | some c => loseCore s c
    | none => s) s

/-- Step 9 (R1, R395): the licence folio sets the profile. -/
def applyLicence (s : State) : State :=
  match s.flash.folio with
  | none => modFlash s fun f => { f with licState := 0, profile := 1 }
  | some x =>
    if folioOk s x then
      let s := match folioRetires s with
        | some n => match coreAtField s n with
          | some c => condAppend s (unitWord 0 c.val 0) 0x01 5 0 0
          | none => s
        | none => s
      modFlash s fun f => { f with licState := 1, profile := x.profile, licCtr := max f.licCtr x.svn.toNat }
    else
      firmwareRecord (modFlash s fun f => { f with licState := 2, profile := 1 }) 13 15 0 1
        { valid := false, live := false, version := 0, svn := x.svn } 0 false

/-- Step 10 for the cores (R342): D12 + c and D00 + c of each enabled core; the core is held in reset. -/
def powerCore (s : State) (c : CoreId) : State :=
  if (getCore s c).st = .lost then s
  else
    let s := powerOn (powerOn s (stkDomain s c)) (coreDomain s c)
    if domainUp s (coreDomain s c) && domainUp s (stkDomain s c) then modCore s c fun k => { k with st := .reset }
    else modCore (fenceCore s c) c fun k => { k with st := .off }

/-- Step 11 (R400, R402): the broadcast reaches every agent, which runs its new image from the release of its reset. -/
def loadAgents (s : State) : State :=
  { s with agents := s.agents.map fun a => if a.retired then a else { Agent.init with slot := !a.slot } }

/-- Steps 10 and 11 (R342, R382): D26 and D27 once the HBM power-good inputs are high, then the cores. -/
def powerTiers (s : State) : State :=
  let s := if hbmGood s 0 && !domainUp s 26 then powerOn s 26 else s
  let s := if hbmGood s 1 && !domainUp s 27 then powerOn s 27 else s
  let ready := (domainUp s 26 || (vget s.power.doms 26).latched) && (domainUp s 27 || (vget s.power.doms 27).latched)
  let waits := (allFin 12).any fun c => !domainUp s (coreDomain s c)
  if ready && waits then loadAgents ((allFin 12).foldl powerCore s) else s

/-- The agents of the board descriptor and MODESEL (R345, R455, R456). -/
def applyBoard (s : State) : State :=
  let s := if s.flash.boardOk then s else writeRecord s (recOf s 13 15 0 0x0F 2 0)
  let c := s.pins.modeselHigh
  let s := if s.flash.boardOk && s.flash.boardCompat != c then powerRecord s 25 2 0 0 0 else s
  let s := modPower s fun w => { w with
    compat := c, compatMv := if c then s.flash.boardMv else 0
    sustW := if c then 1900 else w.sustW, peakW := if c then 2300 else w.peakW }
  modTiers s fun t => { t with
    lpMts := s.flash.lpMts, present := if s.flash.boardOk then s.flash.lpChannels else 0, gib := s.flash.lpGib }

/-- OWNCLR low at two consecutive start-ups returns the part to UNOWNED (R301). -/
def sampleOwnclr (s : State) : State :=
  if !s.pins.ownclrLow then modReg s fun r => { r with clrBoots := 0 }
  else if 1 ≤ s.reg.clrBoots then
    modReg s fun r => { r with clrBoots := 0, ownerState := 0, key := [], lastCtr := 0, ctrHigh := 0 }
  else modReg s fun r => { r with clrBoots := r.clrBoots + 1 }

/-- Steps 4 to 11 of Table 16-1 (R382 to R384). `other` boots the other slot. -/
def startUp (s : State) (other : Bool) : State :=
  match bootSlot s other with
  | none => failDevice (firmwareRecord s 13 15 0 3 (fwSlot s.flash s.flash.active) 1 s.flash.active)
  | some s =>
    let s := powerOn (powerOn s 24) 29
    if !domainUp s 24 || !domainUp s 25 || !domainUp s 28 then failDevice (powerRecord s 24 3 0 0 0)
    else powerTiers (applyLicence (applyReport (applyBoard s)))

/-- The clock entry at start-up (R363, R381): the reference is there and the generators lock. -/
def lockClock (s : State) : State := { s with clock := { s.clock with refOk := true, lock := true } }

/-- The endpoint answers configuration requests, and the PF is there (Table 16-1 step 12). -/
def endpointReady (s : State) : State :=
  modPcie s fun p => { p with ready := true, fns := vmod p.fns 0 fun f => { f with enabled := true } }

/-- PERST_ASSERT (R271, R381): every job dies, and every domain goes off in reverse order. -/
def execPerstAssert (s : State) : Out :=
  .next (if s.pins.perst then s
    else
      let s := powerDown (killAll s 0 (0, 15, 0)) []
      let s := coldState s false
      { s with pins := { s.pins with perst := true } })

/-- PERST_DEASSERT (R301, R381 to R384): start-up from step 1. -/
def execPerstDeassert (s : State) : Out :=
  .next (if !s.pins.perst then s
    else
      let s := coldState s false
      let s := powerOn { s with pins := { s.pins with perst := false } } 25
      if !domainUp s 25 then s
      else endpointReady (startUp (powerOn (sampleOwnclr (lockClock s)) 28) false))

/-- HBM_PG_ASSERT (R342, R382): during start-up the PHY domains and the cores may now come up. -/
def execHbmPgAssert (side : Fin 2) (s : State) : Out :=
  .next (let s := setHbmPg s side true
    if !s.pins.perst && s.reg.devState == 0 && domainUp s 24 && domainUp s 29 then noted (powerTiers s) else s)

/-- POWER_REMOVAL (R349, R450, R454): with PERST# asserted the rails go, and with them every latch. -/
def execPowerRemoval (s : State) : Out :=
  .next (if !s.pins.perst then s
    else
      let s := coldState s false
      { s with
        power := { Power.init with compat := s.power.compat, sent := s.power.sent }
        thermal := Thermal.init })

/-- The domains that hold a site's mainband (R14, R382). -/
def siteUp (s : State) (u : Fin 16) : Bool := domainUp s (if u.val = 3 ∨ u.val = 4 then 25 else 24)

/-- The role a site's edge asks for (R284, R390). -/
def roleFits (u : Fin 16) (role : Nat) : Bool := if u.val < 8 then role == 1 else role == 2 || role == 3

/-- EDN answers no discovery: start-up fails (R384). -/
def ednSilent (s : State) : Bool := (allFin 16).all fun u => decide (8 ≤ u.val) || (vget s.sites u).tries == 3 ||
  (vget s.sites u).state == 5

/-- A site that discovery gives up (R284): DOWN after three tries. -/
def siteFails (s : State) (u : Fin 16) : State :=
  let s := noted (modSite s u fun x => { x with state := 0, role := 0, rsp := 0, prov := [], tries := 3 })
  if s.reg.devState = 0 ∧ ednSilent s then failDevice s else s

/-- DISC_RSP (R284): the answer is kept, or a role that does not fit the edge leaves the site DOWN. -/
def execDiscRsp (site : Fin 16) (payload : BitVec 64) (s : State) : Out :=
  let x := vget s.sites site
  .next (if !siteUp s site || x.state ≠ 0 || 3 ≤ x.tries then s
    else if roleFits site (fld payload 0 4) then
      noted (modSite s site fun x => { x with state := 1, role := payload.extractLsb' 0 4, rsp := payload, prov := [] })
    else siteFails s site)

/-- The 64 bytes a partner has answered. -/
def siteRecord (x : Site) : List Byte :=
  (List.range 8).flatMap fun i => match x.prov.find? fun p => p.1 == i with
    | some p => leBytes 8 p.2.toNat
    | none => List.replicate 8 0

/-- DISC_PROV (R284): with all eight answers the record's CRC decides; the mainband trains at the rate and width that both
ends pass. -/
def execDiscProv (site : Fin 16) (index : Fin 8) (data : BitVec 64) (rate : Fin 6) (x32 : Bool) (s : State) : Out :=
  .next (if (vget s.sites site).state ≠ 1 then s
    else
      let s := modSite s site fun x => { x with prov := (index.val, data) :: x.prov.filter fun p => p.1 != index.val }
      let x := vget s.sites site
      if x.prov.length < 8 then s
      else if leAt (siteRecord x) 0 1 = 2 ∧ provGood (siteRecord x) then
        noted (modSite s site fun x => { x with state := if x32 then 4 else 3, rate := BitVec.ofNat 3 rate.val, x32 := x32 })
      else siteFails s site)

/-- DISC_TIMEOUT (R284): after three tries the site stays DOWN. -/
def execDiscTimeout (site : Fin 16) (s : State) : Out :=
  let x := vget s.sites site
  .next (if !siteUp s site || (x.state ≠ 0 ∧ x.state ≠ 1) || 3 ≤ x.tries then s
    else if x.tries = 2 then siteFails s site
    else modSite s site fun x => { x with state := 0, tries := x.tries + 1 })

/-- The part type that an agent takes (R386, R392). -/
def agentPart (i : Fin 440) : Nat :=
  if 436 ≤ i.val then 9
  else if 432 ≤ i.val then 8
  else
    let n := i.val % 36
    if n < 4 then 2 else if n < 6 then 3 else if n = 6 then 4 else if n < 15 then 5 else if n = 15 then 6 else 7

/-- The region of an agent. -/
def agentRegion (i : Fin 440) : Nat := if i.val < 432 then i.val / 36 else if i.val < 436 then 12 else 13

/-- MCD (R400): a packet whose last flit is good is written; its number is AUX[127:112] and its part AUX[139:132]. -/
def execMcd (agent : Fin 440) (f : Flit) (ok : Bool) (s : State) : Out :=
  let n := fld f.aux 16 16
  .next (if f.typ ≠ 6 || (vget s.agents agent).retired || fld f.aux 32 4 ≠ 15 || fld f.aux 36 8 ≠ agentPart agent ||
      !ok || f.poison then s
    else modAgent s agent fun a => { a with got := setAdd a.got n, missing := setDel a.missing n })

/-- An agent holds every packet of its part. -/
def agentDone (s : State) (i : Fin 440) : State :=
  modAgent s i fun a => { a with parts := setAdd a.parts (agentPart i), got := [], missing := [], rounds := 0 }

/-- UCODE_ACK (R401): base AUX[127:112] and bitmap AUX[159:128] of packets missed; base 0 and bitmap 0 for none. The
agent is the one in TAG (log 20). -/
def execUcodeAck (f : Flit) (s : State) : Out :=
  .next (if h : f.tag.toNat < 440 then
      let i : Fin 440 := ⟨f.tag.toNat, h⟩
      let base := fld f.aux 16 16
      if f.typ ≠ 5 || fld f.aux 0 8 ≠ 3 || (vget s.agents i).retired then s
      else if base = 0 ∧ fld f.aux 32 32 = 0 then agentDone s i
      else modAgent s i fun a => { a with
        missing := (bitList (f.aux.extractLsb' 32 32)).foldl (fun l k => setAdd l (base + k)) a.missing }
    else s)

/-- An agent is retired (R401): a bank-set controller takes its set with it, another agent of a core its core; an edge
die's at start-up leaves the device FAILED. -/
def retireAgent (s : State) (i : Fin 440) : State :=
  let core := if i.val < 432 then i.val / 36 else 15
  let s := modAgent s i fun a => { a with retired := true, missing := [] }
  let s := condAppend s (unitWord 15 core i.val) 0x0C 8 (BitVec.ofNat 16 i.val) 0
  let s := firmwareRecord s 15 core i.val 2 (fwSlot s.flash s.flash.active) (agentPart i) s.flash.active
  if 432 ≤ i.val then (if s.reg.devState = 0 then failDevice s else s)
  else
    let c := coreOf core
    let n := i.val % 36
    if n < 16 then markLost s c 8
    else
      let k := (getCore s c).stk
      let set := n - 16
      if popcount k.insvc ≤ 18 then markLost s c 8
      else if (getCore s c).jobId ≠ 0 then noted (modStk s c fun k => { k with retirePend := setBit k.retirePend set true })
      else
        let s := loseBytes s (stacksAddr c (stkSize s c - setBytes)) setBytes
        let s := modStk s c fun k => { k with insvc := setBit k.insvc set false }
        noted (condAppend s (unitWord 5 c.val (0x800000 + set)) 0x03 8 0 0)

/-- Rounds after which an agent is retired: three, and at start-up a fourth load over the sideband for an edge die's
(R401). -/
def roundLimit (s : State) (i : Fin 440) : Nat := if 432 ≤ i.val ∧ s.reg.devState = 0 then 4 else 3

/-- UCODE_REPAIR_ROUND (R401): missed packets are sent again; an agent that still misses one after its last round is
retired. -/
def execUcodeRepairRound (s : State) : Out :=
  .next ((allFin 440).foldl (fun s i =>
    let a := vget s.agents i
    if a.retired || a.missing.isEmpty then s
    else if roundLimit s i ≤ a.rounds then retireAgent s i
    else modAgent s i fun a => { a with rounds := a.rounds + 1 }) s)

/-- REGION_ACTIVATE (R402): once every agent of a region holds its part, all switch slots at one stop. -/
def execRegionActivate (r : Fin 15) (s : State) : Out :=
  let l := (allFin 440).filter fun i => agentRegion i == r.val && !(vget s.agents i).retired
  .next (if !l.isEmpty && l.all (fun i => (vget s.agents i).parts.contains (agentPart i)) then
      l.foldl (fun s i => modAgent s i fun a => { a with slot := !a.slot, parts := [] }) s
    else s)

/-- The channels that training leaves in service (R243, R262, R285): populated, trained, and on a die that provides
them. -/
def trainChannels (s : State) (failed : BitVec 16) : State :=
  let eds := (allFin 16).any fun u =>
    let x := vget s.sites u
    decide (8 ≤ u.val) && (x.state == 3 || x.state == 4) && (x.role == 2 || bit x.rsp 48)
  let s := modTiers s fun t => { t with present := if eds then t.present else t.present &&& 0x00FF }
  (allFin 16).foldl (fun s l =>
    if bit failed l.val && bit s.tiers.present l.val && (vget s.tiers.chans l).state != 3 then
      memRecord (condAppend (modChan s l fun c => { c with state := 3 }) (unitWord 9 15 l.val) 0x06 2 0 0)
        (memUnitOf true l 0) 0 1 3 0 6
    else s) s

/-- The pseudo-channels that failed their training are retired (R258, R384). -/
def trainHbm (s : State) (l : List (Fin 16 × Fin 32)) : State :=
  l.foldl (fun s p =>
    let w := memUnitOf false p.1 p.2
    if bit (vget s.tiers.regions (regionOf p.1)).live (p.1.val % 2 * 32 + p.2.val) then
      memRecord (condAppend (reportMem s 8 (p.2.val * 256 + p.1.val)) (unitWord 8 15 w.recUnit.2) 0x06 2 0 0) w 0 1 3 0 6
    else s) s

/-- Regions whose domain is off, or that have no PC, are DOWN; one with fewer than 64 has less capacity and is UP
(Table 10-12). -/
def settleRegions (s : State) : State :=
  modTiers s fun t => { t with regions := (allFin 8).foldl (fun v q => vmod v q fun r => { r with
    state := if !domainUp s (if q.val < 4 then 26 else 27) || r.live == 0 then 3 else 0 }) t.regions }

/-- The edge links after discovery (R18, R390): a link's working modules; none fails it. A site DOWN at two consecutive
start-ups is retired. -/
def settleSites (s : State) : State :=
  let s := (allFin 16).foldl (fun s u =>
    let x := vget s.sites u
    if x.state = 3 ∨ x.state = 4 then modSite s u fun x => { x with downBoots := 0 }
    else if x.state = 5 then s
    else if 1 ≤ x.downBoots then
      let s := modSite s u fun x => { x with state := 5 }
      portRecord (condAppend s (unitWord 10 15 (768 + u.val)) 0x07 2 0 0) 3 u.val 1 3 5 0 0 0 0
    else modSite s u fun x => { x with state := 0, downBoots := x.downBoots + 1 }) s
  (allFin 23).foldl (fun s l =>
    if l.val < 17 then s
    else
      let n := ((allFin 16).filter fun u => siteLink u == l && ((vget s.sites u).state == 3 || (vget s.sites u).state == 4)).length
      modLink s l fun k => { k with modules := n, failed := k.failed || n == 0 }) s

/-- A core released from reset at the end of start-up (R398, Table 16-8): IDLE at its target frequency. -/
def releaseCore (s : State) (c : CoreId) : State :=
  if (getCore s c).st ≠ .reset || !domainUp s (coreDomain s c) || !domainUp s (stkDomain s c) then s
  else
    let s := modCore s c fun k => { k with st := .idle }
    liftFence (modRegion s (coreRegion c) fun r => { r with cur := BitVec.ofNat 11 (targetMhz s (coreRegion c)) }) c

/-- A posted command that READY finds ends with CANCELLED; vector 16 tells (R296). -/
def cancelPosted (s : State) : State :=
  let s := modReg s fun r => { r with mailboxes := r.mailboxes.map fun m =>
    if m.own then { m.released with status := stCancelled, rlen := 0, rsize := 0 } else m }
  noted s

/-- A trial slot that reached READY is active, and the fused counter rises to its SVN (R387, R388). -/
def settleFirmware (s : State) : State :=
  let s := if s.flash.trial then modFlash s fun f => { f with active := f.pending.getD f.active, pending := none, trial := false } else s
  modFlash s fun f => { f with fwCtr := max f.fwCtr (fwSlot f f.active).svn.toNat }

/-- The pairing's session reopens (R416). -/
def reopenPairing (s : State) : State :=
  match s.flash.pairing with
  | some p =>
    if (findSession s p.session).isSome || !eytPresent s then s
    else modResil (addSession s (pairSession s p)) fun r => { r with sharedFeed := p.shared }
  | none => s

/-- A core still waits for its domains, which the HBM power-good inputs hold back (R342). -/
def coreWaits (s : State) (c : CoreId) : Bool := (getCore s c).st == .reset && !domainUp s (coreDomain s c)

/-- START_UP_READY (R22, R382, R384, R387, R388): training ends, DIST is written for the first time, BOOT_COUNT rises and
DEV_STATE is READY; without an enabled core, or without EDN, it is FAILED. -/
def execStartUpReady (t : Training) (s : State) : Out :=
  .next (if s.reg.devState ≠ 0 || s.pins.perst || !domainUp s 24 || !domainUp s 25 || !domainUp s 28 ||
        (allFin 12).any (coreWaits s) then s
    else
      let s := settleSites s
      let s := trainHbm (trainChannels s t.lpFailed) t.hbmFailed
      let s := settleRegions (modTiers s fun x => { x with mbps := t.hbmMbps, lpMts := t.lpMts })
      let s := modVault s fun v => if v.state = 3 then v else if t.vaultOk then { v with state := 1, speed := t.vaultSpeed } else v
      let s := (allFin 12).foldl releaseCore s
      if ((allFin 12).all fun c => (getCore s c).st == .lost || (getCore s c).st == .off) ||
          !((allFin 16).any fun u => decide (u.val < 8) && ((vget s.sites u).state == 3 || (vget s.sites u).state == 4)) then
        failDevice (writeRecord s (recOf s 0 15 0 0x0F 3 0))
      else
        let s := modLacing s fun x => { x with distHop := x.hopPs, distBnd := x.bndPs }
        let s := rewriteDist s true
        let s := modReg s fun r => { r with bootCount := r.bootCount + 1, devState := 1 }
        cancelPosted (reopenPairing (settleFirmware s)))

/-- START_UP_WATCHDOG (R383, R388): start-up runs again from step 2, from the other slot. -/
def execStartUpWatchdog (s : State) : Out :=
  .next (if s.pins.perst || s.reg.devState ≠ 0 || !domainUp s 25 then s
    else
      let p := s.pcie
      let s := coldState s true
      let s := powerOn { s with pcie := p } 28
      startUp (sampleOwnclr (lockClock s)) true)

/-- DEVICE_RESET_START (R296, R385): every job dies, every domain but D25 and D28 goes off, and the Registrar restarts at
step 4. -/
def execDeviceResetStart (s : State) : Out :=
  .next (if !s.reg.resetDue || s.reg.mailboxes.toList.any (fun m => m.code == 0xC5 && m.result.isSome) then s
    else
      let s := powerDown (killAll s 0 (0, 15, 0)) [25, 28]
      noted (startUp (lockClock (coldState s true)) false))

/-- RESET_RELEASE (R398, R399): the end of a reset's scrub: the fence lifts and the core is IDLE. A core whose job is still
being taken down waits for the scrub. -/
def execResetRelease (c : CoreId) (s : State) : Out :=
  .next (let k := getCore s c
    if k.st ≠ .reset || k.jobId ≠ 0 || k.stk.hold || !domainUp s (coreDomain s c) || !domainUp s (stkDomain s c) then s
    else noted (releaseCore (scrubRange (modStk s c fun k => { k with scrub := 0 }) c (stkSize s c)) c))

end Sys2Proof.Machine
end

