-- ==== Sys2Proof/Machine/Firmware.lean ====
section
/-!
DEFINITION. The owner's commands (R298 to R304, R386 to R396, R406): firmware and licence installation, keys, debug unlock
and debug access, COND_EDIT, DEVICE_RESET, mailbox assignment, the test access port; and the reads of records, of
provenance and of the condition report (R304, R312, R391).
-/
namespace Sys2Proof.Machine

/-- Bytes of a signature block (R386). -/
def sigBytes : Nat := 17056

/-- The keys and signatures of a message under R386: its bytes and its signature block. -/
def verifies (msg sig : List Byte) : Bool :=
  let n := slice sig 0 384
  let e := slice sig 384 4
  let pk := slice sig 784 48
  sha384 (n ++ e) == Config.keyHash1 && sha384 pk == Config.keyHash2 &&
    Config.rsaVerify n e (slice sig 400 384) msg && Config.slhVerify pk (slice sig 832 16224) msg

/-- A part of a firmware image: its type is known, it lies in the body, and its CRC is right (Table 16-2). -/
def partOk (img : List Byte) (body n : Nat) : Bool :=
  let t := leAt img (0x20 + 16 * n) 1
  let off := leAt img (0x24 + 16 * n) 4
  let len := leAt img (0x28 + 16 * n) 4
  decide (1 ≤ t) && decide (t ≤ 9) && decide (off + len ≤ body) &&
    leAt img (0x2C + 16 * n) 4 == (crc32c (slice img (256 + off) len)).toNat

/-- The header of a firmware image and its length agree (Table 16-2). -/
def imageShape (img : List Byte) : Bool :=
  let body := leAt img 0x10 8
  slice img 0 4 == ascii "NZFW" && leAt img 4 2 == 1 && decide (leAt img 6 2 ≤ 1) && decide (leAt img 0x0C 4 ≤ 63) &&
    body % 64 == 0 && decide (body ≤ 33537024) && img.length == 256 + body + sigBytes &&
    decide (1 ≤ leAt img 0x18 4) && decide (leAt img 0x18 4 ≤ 12) && leAt img 0x1C 4 == 0

/-- An image passes R386, its SVN apart. -/
def imageVerifies (img : List Byte) : Bool :=
  let body := leAt img 0x10 8
  imageShape img && ((List.range (leAt img 0x18 4)).all fun n => partOk img body n) &&
    verifies (img.take (256 + body)) (img.drop (256 + body))

/-- The flash with the inactive slot holding an image, pending (R389). -/
def stageImage (f : Flash) (img : List Byte) : Flash :=
  let x : FwSlot := {
    valid := true, live := bit (BitVec.ofNat 16 (leAt img 6 2)) 0
    version := BitVec.ofNat 32 (leAt img 8 4), svn := BitVec.ofNat 32 (leAt img 0x0C 4) }
  if f.active then { f with slotA := x, pending := some false } else { f with slotB := x, pending := some true }

/-- The hand-over of ACTIVATE 1 (R387, R389): every agent switches slots, the new image runs. -/
def handOver (s : State) : State :=
  let b := !s.flash.active
  let x := fwSlot s.flash b
  let s := { s with agents := s.agents.map fun a => if a.retired then a else { a with slot := !a.slot, parts := [], got := [], missing := [], rounds := 0 } }
  modFlash s fun f => { f with
    active := b, pending := none, trial := false, running := x.version, fwCtr := max f.fwCtr x.svn.toNat }

/-- FW_UPDATE (R303, R386 to R389). `agentsOk` says that every agent could be loaded. -/
def execFwUpdate (mb : Fin 16) (agentsOk : Bool) (s : State) : Out :=
  command s mb 0xC0 always fun s m =>
    let a := pf m 0 8
    let n := pf m 8 8
    let img := memRead s.mem a n
    let done := fun (s : State) (st : BitVec 16) (resp : List Byte) => modMb (ends s mb st resp) mb fun m => { m with progress := 1000 }
    if anyPoison s a n || !imageVerifies img then ends s mb stBadSignature []
    else if leAt img 0x0C 4 < s.flash.fwCtr then ends s mb stRollback []
    else
      let t := noted (modFlash s fun f => stageImage f img)
      let x := fwSlot t.flash !t.flash.active
      if pf m 16 1 = 0 then done t 0 (leBytes 4 x.version.toNat ++ [0, 0, 0, 0])
      else if !x.live then done t stBadState []
      else if !agentsOk then
        done (firmwareRecord t 13 15 0 2 x 0 (!t.flash.active)) stDeviceFault []
      else done (noted (handOver t)) 0 (leBytes 4 x.version.toNat ++ [0, 0, 0, 0])

/-- A licence folio's body obeys Table 16-6. -/
def folioShape (l : List Byte) : Bool :=
  slice l 0 4 == ascii "NZLF" && leAt l 4 2 == 1 && decide (leAt l 6 1 ≤ 2) && decide (leAt l 0x28 4 ≤ 63) &&
    slice l 0x30 16 == List.replicate 16 0

/-- The folio that its bytes give. -/
def folioOf (l : List Byte) : Folio :=
  { sigOk := true, profile := BitVec.ofNat 8 (leAt l 6 1), retired := BitVec.ofNat 8 (leAt l 7 1)
    licId := slice l 8 16, serial := slice l 0x18 16, svn := BitVec.ofNat 32 (leAt l 0x28 4) }

/-- LICENCE_INSTALL (R303, R395, R396): the profile holds from the next whole-device reset. -/
def execLicenceInstall (mb : Fin 16) (s : State) : Out :=
  command s mb 0xC1 always fun s m =>
    let a := pf m 0 8
    let l := memRead s.mem a 17120
    let x := folioOf l
    if anyPoison s a 17120 || !verifies (l.take 64) (l.drop 64) then ends s mb stBadSignature []
    else if x.svn.toNat < s.flash.licCtr then ends s mb stRollback []
    else if !folioShape l || !folioOk s x then ends s mb stBadForm []
    else ends (modFlash s fun f => { f with folio := some x }) mb 0 (leBytes 1 x.profile.toNat ++ List.replicate 7 0)

/-- OWNER_SET is for an UNOWNED part (R301, Table 12-5). -/
def ownerSetAllow (s : State) (_ : Mailbox) : BitVec 16 := if s.reg.ownerState = 0 then 0 else stBadState

/-- OWNER_SET (R301): the key, the counter and OWNED. -/
def execOwnerSet (mb : Fin 16) (s : State) : Out :=
  command s mb 0xC9 ownerSetAllow fun s m =>
    let ctr := BitVec.ofNat 64 (pf m 48 8)
    ends (bumpGen (modReg s fun r => { r with key := payBytes m 0 48, lastCtr := ctr, ctrHigh := ctr, ownerState := 1 })) mb 0 []

/-- KEY_CHANGE (R302): the new key is unwrapped, and holds once the command has ended. -/
def execKeyChange (mb : Fin 16) (s : State) : Out :=
  command s mb 0xC2 always fun s m =>
    match Config.gcmOpen (hkdf32 s.reg.key (ascii "NZKEYWRAP1")) (payBytes m 0 12) (payBytes m 12 48) (payBytes m 60 16) with
    | some k => ends (modReg s fun r => { r with newKey := some (slice k 0 48) }) mb 0 []
    | none => ends s mb stBadCheck []

/-- The held sets of core c are scrubbed (R79): SCRUB_COMPLETE ends it. -/
def releaseHold (s : State) (c : CoreId) : State :=
  if (getCore s c).stk.hold then
    noted (modStk s c fun k => { k with hold := false, scrub := setsMask k (getCore s c).sets })
  else s

/-- Held sets that no unlock covers any more are scrubbed, and no kill still draining holds them (R79, R304). -/
def settleHolds (s : State) : State :=
  let s := ((allFin 12).filter fun c => !holdsSets s c).foldl releaseHold s
  modReg s fun r => { r with jobs := r.jobs.map fun j => { j with hold := j.hold.filter (holdsSets s) } }

/-- A debug unlock ends (R304): its held sets are scrubbed; a test port that was used forces a whole-device reset
(R406). -/
def endUnlock (s : State) : State :=
  let used := s.reg.tapUsed
  let s := settleHolds (modReg s fun r => { r with dbgCores := 0, dbgRights := 0, dbgUntil := 0, tapUsed := false })
  noted (if used then modReg s fun r => { r with resetDue := true } else s)

/-- DEBUG_UNLOCK (R304): an unlock of some cores for a time, or the end of the one in force. -/
def execDebugUnlock (mb : Fin 16) (s : State) : Out :=
  command s mb 0xC3 always fun s m =>
    if pf m 4 4 = 0 then ends (endUnlock s) mb 0 []
    else
      let s := modReg s fun r => { r with
        dbgCores := BitVec.ofNat 12 (pf m 0 2), dbgRights := BitVec.ofNat 8 (pf m 2 1)
        dbgUntil := r.time.toNat + pf m 4 4 * 10 ^ 9 }
      ends (noted (settleHolds s)) mb 0 []

/-- DEBUG_UNLOCK_EXPIRE (R304). -/
def execDebugUnlockExpire (s : State) : Out :=
  .next (if s.reg.dbgUntil = 0 ∨ s.reg.time.toNat < s.reg.dbgUntil then s else endUnlock s)

/-- IMEM of a core as DEBUG_READ lays it out (Table 02-5 within each sequencer's window): 128 KiB each, half 1 at 64 KiB. -/
def imemByte (s : State) (c : CoreId) (a : Nat) : Byte :=
  let x := getSeq s c (seqOf (a / 0x20000))
  let i := a % 0x10000 / 16
  let m := if a % 0x20000 < 0x10000 then x.imem0 else x.imem1
  (smapGet haltFill m i).extractLsb' (a % 16 * 8) 8

/-- Descriptor tables as DEBUG_READ lays them out: 4 KiB for each sequencer. -/
def descByte (s : State) (c : CoreId) (a : Nat) : Byte :=
  (smapGet 0 (getSeq s c (seqOf (a / 0x1000))).desc (a % 0x1000 / 16)).extractLsb' (a % 16 * 8) 8

/-- A byte of a DEBUG_READ space: Stacks, IMEM, descriptor tables, or the Welts' caches at 512 KiB each. -/
def debugByte (s : State) (c : CoreId) (space a : Nat) : Byte :=
  if space = 0 then memGet s.mem (stacksAddr c a)
  else if space = 1 then imemByte s c a
  else if space = 2 then descByte s c a
  else memGet (getWelt s c (finOf 2 (by decide) (a / 0x80000))).cache (a % 0x80000)

/-- The size of a DEBUG_READ space. -/
def debugSize (s : State) (c : CoreId) (space : Nat) : Nat :=
  if space = 0 then stkSize s c else if space = 1 then 0x200000 else if space = 2 then 0x10000 else 0x100000

/-- The checks of DEBUG_READ (R304). -/
def debugReadAllow (s : State) (m : Mailbox) : BitVec 16 :=
  let c := coreOf (pf m 0 1)
  if !(getCore s c).stk.hold || !bit s.reg.dbgRights 1 || !bit s.reg.dbgCores c.val ||
      decide (s.reg.dbgUntil ≤ s.reg.time.toNat) then stBadState
  else if debugSize s c (pf m 1 1) < pf m 4 4 + pf m 8 4 then stBadForm
  else 0

/-- DEBUG_READ (R79, R304). -/
def execDebugRead (mb : Fin 16) (s : State) : Out :=
  command s mb 0xC7 debugReadAllow fun s m =>
    ends s mb 0 ((List.range (pf m 8 4)).map fun i => debugByte s (coreOf (pf m 0 1)) (pf m 1 1) (pf m 4 4 + i))

/-- DEBUG_RELEASE (R304). -/
def execDebugRelease (mb : Fin 16) (s : State) : Out :=
  command s mb 0xC8 always fun s m => ends ((coresIn (pf m 0 2)).foldl releaseHold s) mb 0 []

/-- The entry of a COND_EDIT. -/
def editEntry (m : Mailbox) : CondEntry :=
  { unit := BitVec.ofNat 32 (pf m 8 4), action := BitVec.ofNat 8 (pf m 12 1), reason := 10
    arg := BitVec.ofNat 16 (pf m 14 2), arg2 := BitVec.ofNat 32 (pf m 16 4), day := BitVec.ofNat 32 (pf m 20 4) }

/-- The field entries of the copy in use. -/
def fieldEntries (f : Flash) : List CondEntry := if f.copyOk then f.field else []

/-- The checks of COND_EDIT OP 0 (R393): no reserved ACTION or REASON, and a CLEAR names a field entry. -/
def editAllow (s : State) (m : Mailbox) : BitVec 16 :=
  if 1 ≤ pf m 12 1 ∧ pf m 12 1 ≤ 14 ∧ pf m 13 1 ≤ 11 ∧
      (pf m 12 1 ≠ 14 ∨ pf m 16 4 < (fieldEntries s.flash).length) then 0 else stBadForm

/-- COND_EDIT OP 0 (R393): an entry with REASON OWNER. -/
def execCondEditAppend (mb : Fin 16) (s : State) : Out :=
  commandOp s mb 0xC4 0 0 editAllow fun s m =>
    let s := condWrite s (editEntry m)
    ends s mb 0 (leBytes 8 s.flash.gen.toNat)

/-- The checks of COND_EDIT OP 1 (R393). -/
def clearAllow (s : State) (m : Mailbox) : BitVec 16 :=
  if pf m 4 4 < (fieldEntries s.flash).length then 0 else stBadForm

/-- COND_EDIT OP 1 (R393): a CLEAR of a field entry. -/
def execCondEditClear (mb : Fin 16) (s : State) : Out :=
  commandOp s mb 0xC4 0 1 clearAllow fun s m =>
    let s := condAppend s 0 0x0E 10 0 (BitVec.ofNat 32 (pf m 4 4))
    ends s mb 0 (leBytes 8 s.flash.gen.toNat)

/-- DEVICE_RESET (R295, R394): it ends OK, and the reset starts after its answer. Its acceptance has cancelled every queued
command. -/
def execDeviceReset (mb : Fin 16) (s : State) : Out :=
  command s mb 0xC5 always fun s m =>
    ends (modReg s fun r => { r with resetDue := true, renumber := pf m 0 1 == 1 }) mb 0 []

/-- TAP_INSTRUCTION (R406): the instruments need RIGHTS bit 2, and the first such instruction kills every job. -/
def execTapInstruction (i : TapInstruction) (s : State) : Out :=
  let free := match i with
    | .bypass | .idcode | .samplePreload => true
    | .extest | .clamp | .ieee1687 | .ieee1500 => false
  .next (if free || !bit s.reg.dbgRights 2 || decide (s.reg.dbgUntil ≤ s.reg.time.toNat) || s.reg.tapUsed then s
    else modReg (killAll s 0 (13, 15, 0)) fun r => { r with tapUsed := true })

/-- MBX_ASSIGN (R304): not while the mailbox holds a command, and at most three for a VF. -/
def mbxAllow (s : State) (m : Mailbox) : BitVec 16 :=
  let k := finOf 16 (by decide) (pf m 0 1)
  let vf := finOf 9 (by decide) (pf m 1 1)
  if (getMb s k).own then stBusy
  else if vf ≠ 0 ∧ (getMb s k).fn ≠ vf ∧ 3 ≤ (mailboxesOf s vf).length then stNoResource
  else 0

/-- MBX_ASSIGN (R266, R304). -/
def execMbxAssign (mb : Fin 16) (s : State) : Out :=
  command s mb 0x10 mbxAllow fun s m =>
    ends (bumpGen (modMb s (finOf 16 (by decide) (pf m 0 1)) fun x => { x with fn := finOf 9 (by decide) (pf m 1 1) })) mb 0 []

/-- The 64 bytes of an error record (Table 12-9). -/
def recordBytes (r : ErrRec) : List Byte :=
  let b := leBytes 8 r.seq.toNat ++ leBytes 8 r.time.toNat ++ leBytes 8 r.addr.toNat ++ leBytes 4 r.unit.toNat ++
    leBytes 2 r.op.toNat ++ leBytes 1 r.job.toNat ++ leBytes 1 r.cls.toNat ++ leBytes 1 r.sev.toNat ++
    leBytes 1 r.flags.toNat ++ leBytes 2 r.code.toNat ++ leBytes 2 r.tempQ.toNat ++ leBytes 2 r.voltMv.toNat ++
    slice r.detail 0 20
  b ++ leBytes 4 (crc32c b).toNat

/-- A record that the caller may see (R312): a VF only its job's. -/
def recordSeen (s : State) (m : Mailbox) (r : ErrRec) : Bool :=
  m.fn == 0 || (callerJob s m).any fun j => r.job == j.id.setWidth 8

/-- ERR_READ from a VF cannot acknowledge (R312). -/
def errReadAllow (_ : State) (m : Mailbox) : BitVec 16 := if m.fn ≠ 0 ∧ pf m 10 1 % 2 = 1 then stDenied else 0

/-- ERR_READ (R312): at most MAX records from FROM_SEQ on, of the ring or the journal; ACK acknowledges those below
FROM_SEQ. -/
def execErrRead (mb : Fin 16) (s : State) : Out :=
  command s mb 0x03 errReadAllow fun s m =>
    let src := if 2 ≤ pf m 10 1 then s.reg.journal else s.reg.ring
    let l := (src.filter fun r => decide (pf m 0 8 ≤ r.seq.toNat) && recordSeen s m r).take (pf m 8 2)
    let s := if pf m 10 1 % 2 = 1 then
        bumpGen (modReg s fun r => { r with acked := if r.acked.toNat < pf m 0 8 then BitVec.ofNat 64 (pf m 0 8) else r.acked })
      else s
    ends s mb 0 (leBytes 2 l.length ++ List.replicate 6 0 ++ l.flatMap recordBytes)

/-- The record that a partner die has answered at one of its sites, when it is complete (R284). -/
def partnerRecord (s : State) (unit : Nat) : Option (List Byte) :=
  ((allFin 16).find? fun u => u.val / 8 == unit && (vget s.sites u).prov.length == 8).map fun u => siteRecord (vget s.sites u)

/-- PROV_READ's checks (R304, R25): from a VF only the records of the fields of its job's cores; UNIT names one. -/
def provReadAllow (s : State) (m : Mailbox) : BitVec 16 :=
  let t := pf m 0 1
  let own := t == 1 && (callerJob s m).any fun j => j.cores.any fun c => (fieldOf s c).val == pf m 1 1
  if m.fn ≠ 0 && !own then stDenied
  else if pf m 1 1 < (if t = 1 then 12 else if t = 2 then 2 else 16) then 0 else stNoSuch

/-- PROV_READ (R25 to R27, R304): the record in use. -/
def execProvRead (mb : Fin 16) (s : State) : Out :=
  command s mb 0x04 provReadAllow fun s m =>
    let t := pf m 0 1
    let u := pf m 1 1
    let first := provGood (provCopies s t u).1
    let r := match (if t = 2 then partnerRecord s u else none) with
      | some r => r
      | none => provRecord s t u
    ends s mb 0 (leBytes 1 (if first then 1 else 2) ++ List.replicate 7 0 ++ slice r 0 64)

/-- The condition report's bytes, its MAC zero (Tables 16-3, 16-4). -/
def reportBytes (f : Flash) (mac : List Byte) : List Byte :=
  let l := fieldEntries f
  ascii "NZCR" ++ leBytes 2 1 ++ [0, 0] ++ leBytes 4 f.factory.length ++ leBytes 4 l.length ++ leBytes 8 f.gen.toNat ++
    slice mac 0 48 ++ List.replicate 56 0 ++ (f.factory ++ l).flatMap condBytes

/-- The report with its FIELD_MAC (R391). -/
def reportImage (f : Flash) : List Byte := reportBytes f (hmac384 Config.deviceKey (reportBytes f []))

/-- COND_READ (R304, R391): from the PF; an OFFSET beyond the end returns no bytes. -/
def execCondRead (mb : Fin 16) (s : State) : Out :=
  command s mb 0x05 (fun _ m => if m.fn = 0 then 0 else stDenied) fun s m =>
    let r := reportImage s.flash
    let l := (r.drop (pf m 0 4)).take (pf m 4 4)
    ends s mb 0 (leBytes 4 r.length ++ leBytes 4 l.length ++ l)

end Sys2Proof.Machine
end

