-- ==== Sys2Proof/Machine/Inventory.lean ====
section
/-!
DEFINITION. INVENTORY (R308 to R310): the captured state of the whole device in fifteen sections.
-/
namespace Sys2Proof.Machine

/-- A value as n bytes, at its largest when it does not fit. -/
def satBytes (n v : Nat) : List Byte := leBytes n (min v (256 ^ n - 1))

/-- n zero bytes. -/
def gap (n : Nat) : List Byte := List.replicate n 0

/-- Section 1, FIRMWARE (Table 12-8). -/
def invFirmware (s : State) : List Byte :=
  let f := s.flash
  let left := if s.reg.dbgUntil ≤ s.reg.time.toNat then 0 else cdiv (s.reg.dbgUntil - s.reg.time.toNat) (10 ^ 9)
  leBytes 4 f.running.toNat ++ leBytes 4 (match f.pending with | some b => (fwSlot f b).version.toNat | none => 0) ++
    leBytes 4 f.fwCtr ++ leBytes 1 f.profile.toNat ++ leBytes 1 f.licState.toNat ++ gap 2 ++
    slice (if f.licState = 1 then (f.folio.map (·.licId)).getD [] else []) 0 16 ++ leBytes 8 s.reg.lastCtr.toNat ++
    leBytes 8 s.reg.ctrHigh.toNat ++ leBytes 1 s.reg.ownerState.toNat ++ leBytes 1 s.reg.dbgRights.toNat ++
    leBytes 2 s.reg.dbgCores.toNat ++ leBytes 4 left ++ gap 8

/-- The sum of a counter over the four Lasts. -/
def lastSum (k : CoreState) (f : LastState → BitVec 32) : Nat := (k.lasts.toList.map fun x => (f x).toNat).sum

/-- A core's entry in section 2, CORE. -/
def invCore (s : State) (c : CoreId) : List Byte :=
  let k := getCore s c
  let r := finOf 15 (by decide) c.val
  let p := vget s.power.cores c
  let w := fun (f : WeltState → Nat) => leBytes 2 (f (vget k.welts 0)) ++ leBytes 2 (f (vget k.welts 1))
  let flags := b2n k.fenced + 2 * b2n (bit k.clGate 0) + 4 * b2n (bit k.clGate 1) +
    8 * b2n (k.lasts.toList.any (·.paired)) + 16 * b2n k.stk.hold + 32 * b2n (!domainUp s (stkDomain s c))
  leBytes 1 c.val ++ leBytes 1 k.st.code ++ leBytes 1 k.jobId.toNat ++ leBytes 1 flags ++
    leBytes 2 (vget s.clock.regions r).cur.toNat ++ leBytes 2 p.fmax.toNat ++ satBytes 4 (stkSize s c) ++
    leBytes 4 (k.stk.spareC0 + 256 * k.stk.spareC1 + 65536 * k.stk.repairPend.length) ++ leBytes 4 k.stk.ce.toNat ++
    leBytes 4 k.stk.ue.toNat ++ satBytes 4 (lastSum k (·.resCnt)) ++ satBytes 4 (lastSum k (·.dupCnt)) ++
    satBytes 4 (lastSum k (·.spCnt) + k.awl.spCnt.toNat) ++ satBytes 4 (lastSum k (·.fbCnt) + k.awl.fbCnt.toNat) ++
    leBytes 4 k.awl.mask.toNat ++ w (fun x => x.sswOr.toNat) ++ w (fun x => x.cce.toNat) ++ w (fun x => x.cue.toNat) ++
    leBytes 2 k.num.soft.toNat ++ leBytes 2 k.num.hard.toNat ++ leBytes 1 (vget s.resil.scores c).toNat ++
    leBytes 1 (lowOf s r).toNat ++ leBytes 2 (vget s.thermal.regions r).tempQ.toNat ++
    leBytes 8 (vget s.clock.regions r).str.toNat

/-- A domain's entry in section 3, DOMAIN. -/
def invDomain (s : State) (d : Fin 30) : List Byte :=
  let x := vget s.power.doms d
  leBytes 1 d.val ++ leBytes 1 x.state.toNat ++ leBytes 2 x.mv.toNat ++ leBytes 2 x.ampsD.toNat ++ gap 2 ++
    leBytes 4 x.trips.toNat ++ gap 4

/-- A node's entry in section 4, NODE. -/
def invNode (s : State) (n : Fin 15) : List Byte := leBytes 1 n.val ++ leBytes 1 (vget s.lacing.nodes n).toNat ++ gap 6

/-- A link's entry in section 5, LINK. -/
def invLink (s : State) (l : Fin 23) : List Byte :=
  let k := vget s.lacing.links l
  let sp := fun (d : LinkDir) => if l.val < 17 then d.spares.length else 0
  leBytes 1 l.val ++ leBytes 1 (linkState s l) ++ leBytes 1 (linkWidth s l false) ++ leBytes 1 (linkWidth s l true) ++
    leBytes 1 (sp k.a) ++ leBytes 1 (sp k.b) ++ gap 2 ++ leBytes 4 k.replays.toNat ++ leBytes 1 k.retires.toNat ++ gap 3

/-- A stack's part of a region's entry. -/
def invStack (k : Stack) : List Byte :=
  leBytes 2 k.ce.toNat ++ leBytes 2 k.ue.toNat ++ leBytes 1 k.temp.toNat ++ leBytes 1 k.ppr.toNat ++ gap 2

/-- A region's entry in section 6, HBM: stacks 2q and 2q + 1. -/
def invHbm (s : State) (q : Fin 8) : List Byte :=
  let r := vget s.tiers.regions q
  leBytes 1 q.val ++ leBytes 1 r.state.toNat ++ leBytes 1 (popcount r.live) ++ leBytes 1 (b2n r.invalid) ++ gap 4 ++
    leBytes 8 r.live.toNat ++ invStack (vget s.tiers.stackList (finOf 16 (by decide) (2 * q.val))) ++
    invStack (vget s.tiers.stackList (finOf 16 (by decide) (2 * q.val + 1)))

/-- A channel's entry in section 7, LPDDR. -/
def invLp (s : State) (l : Fin 16) : List Byte :=
  let c := vget s.tiers.chans l
  let here := bit s.tiers.present l.val && c.state != 3
  leBytes 1 l.val ++ leBytes 1 (if here then c.state.toNat else 3) ++ leBytes 1 (if here then s.tiers.gib.toNat else 0) ++
    leBytes 1 (b2n c.invalid) ++ leBytes 2 c.ce.toNat ++ leBytes 2 c.ue.toNat ++ leBytes 2 c.linkCe.toNat ++
    leBytes 2 c.drops.toNat ++ leBytes 2 (if here then s.tiers.lpMts.toNat else 0) ++ gap 2

/-- An entry of section 8, PORT. -/
def invPort (kind index state mode width homed vendor part err : Nat) : List Byte :=
  leBytes 1 kind ++ leBytes 1 index ++ leBytes 1 state ++ leBytes 1 mode ++ leBytes 1 width ++ leBytes 1 homed ++
    leBytes 2 vendor ++ leBytes 2 part ++ gap 2 ++ leBytes 4 err

/-- Lanes of an Eyelet mode (Table 11-5). -/
def modeLanes (m : BitVec 3) : Nat := if m = 0 ∨ m = 2 then 8 else if m = 3 then 2 else 4

/-- Section 8, PORT: the host port, the vault port, the Eyelets, the UCIe sites. -/
def invPorts (s : State) : List (List Byte) :=
  [invPort 0 0 (b2n s.pcie.up) s.pcie.speed.toNat s.pcie.width.toNat 0 0 0 s.pcie.uncorr.toNat,
    invPort 1 0 s.vault.state.toNat s.vault.speed.toNat (if s.vault.state = 1 then 4 else 0) 0 0 0 s.vault.timeouts.toNat] ++
  ((allFin 8).map fun p =>
    let x := vget s.eyes.ports p
    invPort 2 p.val x.state.toNat x.mode.toNat (if x.state = 1 then modeLanes x.mode else 0) (min 255 (homed s p)) 0 0 x.uncorr.toNat) ++
  (allFin 16).map fun u =>
    let x := vget s.sites u
    invPort 3 u.val x.state.toNat x.rate.toNat (if x.state = 3 ∨ x.state = 4 then (if x.x32 then 32 else 64) else 0) 0
      (fld x.rsp 16 16) (fld x.rsp 32 16) x.retry.toNat

/-- An open Carrel's entry in section 10, CARREL. -/
def invCarrel (c : CoreId) (k : Fin 64) (x : Carrel) : List Byte :=
  leBytes 1 c.val ++ leBytes 1 k.val ++ leBytes 1 x.job.toNat ++ leBytes 1 x.tmreq.toNat ++ leBytes 4 x.base.toNat ++
    leBytes 4 x.length.toNat ++ leBytes 2 x.hostMask.toNat ++ leBytes 2 x.coreMask.toNat ++
    leBytes 4 (x.eys.toNat + 2 ^ 31 * b2n x.eysEn) ++ leBytes 2 x.openSeq.toNat ++ gap 2

/-- The open Carrels that the caller may see: all, or those of one job. -/
def invCarrels (s : State) (job : Option (BitVec 6)) : List (List Byte) :=
  (allFin 12).flatMap fun c => ((allFin 64).filter fun k =>
    let x := vget (getCore s c).stk.carrels k
    x.opened && (match job with | some j => x.job == j | none => true)).map fun k =>
      invCarrel c k (vget (getCore s c).stk.carrels k)

/-- A mailbox's entry in section 11, MAILBOX. -/
def invMailbox (s : State) (k : Fin 16) : List Byte :=
  let m := getMb s k
  leBytes 1 k.val ++ leBytes 1 m.fn.val ++ leBytes 1 m.phase.toNat ++ gap 1 ++ leBytes 2 m.code.toNat ++
    leBytes 2 m.status.toNat ++ leBytes 4 m.seq.toNat ++ gap 4

/-- Section 12, POWER. VIN_MV is the nominal 1,600 mV of Table 19-2, or the bus in compatibility mode. -/
def invPower (s : State) : List Byte :=
  let w := s.power
  let sus := (allFin 6).foldl (fun n g => n + b2n (vget w.fgs g).suspect * 2 ^ g.val) 0
  let mhz := fun (r : Fin 15) => leBytes 2 (vget s.clock.regions r).cur.toNat
  leBytes 2 w.sustW.toNat ++ leBytes 2 w.peakW.toNat ++ leBytes 2 w.nowW.toNat ++ leBytes 2 w.avgW.toNat ++
    leBytes 2 s.thermal.throttleQ.toNat ++ leBytes 2 (hottest s).2.toNat ++ leBytes 1 (b2n w.compat) ++ leBytes 1 sus ++
    leBytes 1 (b2n w.pwrFault) ++ leBytes 1 s.resil.devScore.toNat ++
    ((allFin 6).flatMap fun g => leBytes 2 (vget w.fgs g).ampsD.toNat) ++
    ((allFin 6).flatMap fun g => leBytes 2 (vget w.fgs g).senseMv.toNat) ++
    leBytes 2 (if w.compat then w.compatMv.toNat else 1600) ++ leBytes 2 (clampNat 1 25 w.slope.toNat) ++
    leBytes 2 (100 * w.lead.toNat) ++ mhz 12 ++ mhz 13 ++ leBytes 2 s.clock.mgmtMhz.toNat ++ gap 12

/-- A core's entry in section 13, SEQPOS. -/
def invSeqpos (s : State) (c : CoreId) : List Byte :=
  leBytes 1 c.val ++ gap 3 ++ (getCore s c).awl.pos.toList.flatMap fun p => leBytes 4 p.toNat

/-- A core's entry in section 14, SHADOW. -/
def invShadow (s : State) (c : CoreId) : List Byte :=
  leBytes 1 c.val ++ gap 7 ++ (getCore s c).num.bins.toList.flatMap fun b => leBytes 8 b.toNat

/-- A section: TYPE, COUNT, ESIZE, and its entries (R309). -/
def invSection (typ size : Nat) (l : List (List Byte)) : List Byte :=
  leBytes 2 typ ++ leBytes 2 l.length ++ leBytes 2 size ++ gap 2 ++ l.flatten

/-- The pending records that the caller may see, oldest first (R309, R312). -/
def invRecords (s : State) (m : Mailbox) : List ErrRec :=
  s.reg.ring.filter fun r => decide (s.reg.acked.toNat ≤ r.seq.toNat) && recordSeen s m r

/-- The cores that the caller may see. -/
def invCores (s : State) (m : Mailbox) : List CoreId :=
  if m.fn = 0 then allFin 12 else match callerJob s m with
    | some j => (allFin 12).filter fun c => j.cores.contains c
    | none => []

/-- The fifteen sections (R309): a VF sees its job, its mailboxes, FIRMWARE and POWER. -/
def invSections (s : State) (m : Mailbox) : List Byte :=
  let pf := m.fn == 0
  let all := fun (l : List (List Byte)) => if pf then l else []
  let cores := invCores s m
  let carrels := if pf then invCarrels s none else match callerJob s m with
    | some j => invCarrels s (some j.id)
    | none => []
  invSection 1 64 [invFirmware s] ++
    invSection 2 72 (cores.map (invCore s)) ++
    invSection 3 16 (all ((allFin 30).map (invDomain s))) ++
    invSection 4 8 (all ((allFin 15).map (invNode s))) ++
    invSection 5 16 (all ((allFin 23).map (invLink s))) ++
    invSection 6 32 (all ((allFin 8).map (invHbm s))) ++
    invSection 7 16 (all ((allFin 16).map (invLp s))) ++
    invSection 8 16 (all (invPorts s)) ++
    invSection 9 32 ((s.reg.jobs.filter fun j => pf || j.func == m.fn).map jobEntry) ++
    invSection 10 24 carrels ++
    invSection 11 16 (((allFin 16).filter fun k => pf || (getMb s k).fn == m.fn).map (invMailbox s)) ++
    invSection 12 64 [invPower s] ++
    invSection 13 132 ((cores.filter fun c => (getCore s c).awl.mask != 0).map (invSeqpos s)) ++
    invSection 14 136 (cores.map (invShadow s)) ++
    invSection 15 64 (((invRecords s m).take 1024).map recordBytes)

/-- The header of the response (Table 12-7). -/
def invHeader (s : State) (m : Mailbox) (total : Nat) (spilled : Bool) : List Byte :=
  let pend := (invRecords s m).length
  leBytes 2 1 ++ leBytes 2 (b2n spilled + 2 * b2n (decide (1024 < pend))) ++ leBytes 4 total ++
    leBytes 8 s.reg.invGen.toNat ++ leBytes 8 s.reg.time.toNat ++ leBytes 4 s.lacing.distGen.toNat ++
    leBytes 4 s.lacing.distEpoch.toNat ++ leBytes 4 s.reg.bootCount.toNat ++ leBytes 2 15 ++
    leBytes 1 s.reg.devState.toNat ++ leBytes 1 m.fn.val ++ leBytes 8 (errNextSeq s) ++ leBytes 4 pend ++
    leBytes 4 s.reg.errLost.toNat ++ gap 8

/-- INVENTORY from a VF spills inside its job's windows (R304). -/
def inventoryAllow (s : State) (m : Mailbox) : BitVec 16 :=
  if pf m 8 8 = 0 || callerReaches s m (pf m 0 8) (pf m 8 8) then 0 else stDenied

/-- INVENTORY (R308 to R310): in the mailbox when it fits, else spilled to device memory with the header alone in the
mailbox. -/
def execInventory (mb : Fin 16) (s : State) : Out :=
  command s mb 0x02 inventoryAllow fun s m =>
    let body := invSections s m
    let total := 64 + body.length
    if total ≤ 4032 then ends s mb 0 (invHeader s m total false ++ body)
    else if pf m 8 8 < total then endsWith s mb stTooSmall (invHeader s m total false) total
    else
      let h := invHeader s m total true
      let a := pf m 0 8
      endsWith (putFresh s a (h ++ body)) mb 0 h total

end Sys2Proof.Machine
end

