-- ==== Sys2Proof/Machine/Pmu.lean ====
section
/-!
DEFINITION. The performance monitor (R430 to R446): PMU_CFG, the event directory, the ledger and call slips. What a counter
counts between two looks is a free value (log 10), because the model does not follow cycles (log 3).
-/
namespace Sys2Proof.Machine

/-- A ring of a PMU_CFG: n bytes at a multiple of 64 KiB in populated HBM, clear of another ring and of every job's
windows (R444). -/
def ringOk (s : State) (a n : Nat) (other : Window) : Bool :=
  let w : Window := { base := a, len := n, rights := 2 }
  a % 65536 == 0 && (n == 0 || (decide (a + n ≤ 8 * regionBytes) && rangePopulated s.tiers a (a + n - 1))) &&
    !(w.meets other) && (s.reg.jobs.flatMap (·.windows)).all fun x => !w.meets x

/-- The ledger's ring. -/
def ledgerRing (p : Pmu) : Window := { base := p.ledBase.toNat * 65536, len := p.ledRecs.toNat * 59264, rights := 2 }

/-- The slip ring. -/
def slipRing (p : Pmu) : Window := { base := p.slipBase.toNat * 65536, len := p.slipRecs.toNat * 64, rights := 2 }

/-- The checks of PMU_CFG OP 0 (R444). -/
def ledgerAllow (s : State) (m : Mailbox) : BitVec 16 :=
  if 2 ≤ pf m 20 2 ∧ ringOk s (pf m 12 8) (pf m 20 2 * 59264) (slipRing s.pmu) then 0 else stNoResource

/-- DELTA of every event set (1) or cleared (2). -/
def setDelta (s : State) (op : Nat) : State :=
  if op = 0 then s else mapCounters s fun _ k => { k with delta := op == 1 }

/-- PMU_CFG OP 0 (R444): a new ring while the ledger runs stops it; it restarts at the next period boundary, and the next
record says so. -/
def execPmuCfgLedger (mb : Fin 16) (s : State) : Out :=
  commandOp s mb 0x80 0 0 ledgerAllow fun s m =>
    let base := BitVec.ofNat 32 (pf m 12 8 / 65536)
    let recs := BitVec.ofNat 16 (pf m 20 2)
    let moved := s.pmu.ledEn && (base != s.pmu.ledBase || recs != s.pmu.ledRecs)
    let s := modPmu s fun p => { setPeriod p (BitVec.ofNat 30 (clampNat 1000 1000000000 (pf m 8 4))) with
      ledEn := pf m 4 1 == 1
      ledBase := base
      ledRecs := recs
      writing := if moved then none else p.writing }
    let s := if moved then modPmu s fun p => { p with changed := true } else s
    ends (setDelta s (pf m 5 1)) mb 0 []

/-- The checks of PMU_CFG OP 1 (R444). -/
def slipsAllow (s : State) (m : Mailbox) : BitVec 16 :=
  if ringOk s (pf m 12 8) (pf m 20 2 * 64) (ledgerRing s.pmu) then 0 else stNoResource

/-- PMU_CFG OP 1 (R441, R444): the sampler of one core or of all, and the ring. -/
def execPmuCfgSlips (mb : Fin 16) (s : State) : Out :=
  commandOp s mb 0x80 0 1 slipsAllow fun s m =>
    let w : BitVec 64 := pk [(0, pf m 6 2), (16, pf m 5 1), (32, pf m 8 4)]
    ends (modPmu s fun p => { p with
      slipBase := BitVec.ofNat 32 (pf m 12 8 / 65536), slipRecs := BitVec.ofNat 16 (pf m 20 2)
      slipCtrl := if pf m 4 1 = 0xFF then Vector.replicate 12 w else vset p.slipCtrl (coreOf (pf m 4 1)) w }) mb 0 []

/-- PMU_CFG OP 2 (R434). -/
def execPmuCfgFilter (mb : Fin 16) (s : State) : Out :=
  commandOp s mb 0x80 0 2 always fun s m =>
    let x : Filter := {
      a := pk [(0, pf m 5 1), (8, pf m 6 1), (16, pf m 8 2), (32, pf m 10 2), (41, pf m 7 1)]
      lo := BitVec.ofNat 64 (pf m 12 8) &&& 0xFFFFFFFFFFC0
      hi := BitVec.ofNat 64 (pf m 20 8) &&& 0xFFFFFFFFFFC0 }
    ends (modPmu s fun p => { p with filters := vset p.filters (finOf 7 (by decide) (pf m 4 1 - 1)) x }) mb 0 []

/-- PMU_CFG OP 3 (R435). -/
def execPmuCfgBinding (mb : Fin 16) (s : State) : Out :=
  commandOp s mb 0x80 0 3 always fun s m =>
    ends (modPmu s fun p => { p with clsel := vset p.clsel (seqOf (pf m 4 1)) (BitVec.ofNat 3 (pf m 5 1)) }) mb 0 []

/-- PMU_CFG OP 4 (R430, R432, R433): an unallocated event ignores it. -/
def execPmuCfgEvent (mb : Fin 16) (s : State) : Out :=
  commandOp s mb 0x80 0 4 always fun s m =>
    ends (modCounter s (pf m 4 2) fun k => { k with
      mode := pf m 6 1 == 1, filt := BitVec.ofNat 3 (pf m 7 1), delta := pf m 8 1 == 1, rclr := pf m 9 1 == 1 }) mb 0 []

/-- The unit of an event, as the directory encodes it (R431, Table 12-10). -/
def eventUnit (evt : Nat) : BitVec 32 :=
  let b := evt / 4096 % 16
  let i := evt % 4096
  if b < 12 then
    if i < 256 then unitWord 1 b (i / 64)
    else if i < 384 then unitWord 2 b ((i - 256) / 64)
    else if i < 448 then unitWord 3 b 0
    else if i < 576 then unitWord 4 b (7 + (i - 448) / 16)
    else if i < 592 then unitWord 4 b 15
    else if i < 672 then unitWord 5 b 0
    else unitWord 0 b 0
  else if b = 12 then (if i < 276 then unitWord 6 15 (i / 12 * 256 + 0xFF) else unitWord 7 15 ((i - 512) / 4))
  else if b = 13 then (if i < 128 then unitWord 8 15 (i / 8) else unitWord 9 15 ((i - 256) / 4))
  else if b = 14 then
    if i < 24 then unitWord 10 15 0
    else if i < 32 then unitWord 10 15 256
    else if i < 96 then unitWord 10 15 (512 + (i - 32) / 8)
    else unitWord 10 15 (768 + (i - 96) / 2)
  else if i < 16 then unitWord 0 15 0 else unitWord 13 15 0

/-- The names of a Last's top-down events (Table 18-3). -/
def topDownNames : List String :=
  ["SLOTS", "RETIRED", "WASTED", "FRONT", "BACK", "W_DUPLEX", "W_FALLBACK", "W_ZERO", "W_CLICK", "F_POWER", "F_TAG",
    "F_SLOT", "F_PLANE", "F_IDLE", "B_OUTTAG", "B_ORDER"]

/-- An event's name, padded with spaces to 24 bytes (R431). -/
def eventNameBytes (evt : Nat) : List Byte :=
  let l := (if topDown evt then ascii (topDownNames.getD (evt % 64) "") else Config.eventName evt).take 24
  l ++ List.replicate (24 - l.length) 0x20

/-- A directory entry (R431). -/
def directoryEntry (evt : Nat) : List Byte :=
  leBytes 2 evt ++ leBytes 1 (classOf evt).toNat ++ leBytes 1 (Config.eventAttr evt).toNat ++
    leBytes 4 (eventUnit evt).toNat ++ eventNameBytes evt

/-- PMU_CFG OP 5 (R431): at most 125 entries from FIRST, in ledger order. -/
def execPmuCfgDirectory (mb : Fin 16) (s : State) : Out :=
  commandOp s mb 0x80 0 5 always fun s m =>
    let n := min 125 (7400 - pf m 4 2)
    ends s mb 0 (leBytes 2 7400 ++ leBytes 2 n ++ [0, 0, 0, 0] ++
      (List.range n).flatMap fun i => directoryEntry (eventAt (pf m 4 2 + i)))

/-- The header of a ledger record (Table 18-4). -/
def ledgerHeader (s : State) : List Byte :=
  let p := s.pmu
  let some1 := p.counters.any fun e => e.2.delta
  let h := leBytes 8 p.ledHead.toNat ++ leBytes 8 s.reg.time.toNat ++
    leBytes 4 (clampNat 1000 1000000000 p.period.toNat) ++ leBytes 2 7400 ++
    leBytes 2 (b2n p.changed + 2 * b2n some1 + 4 * b2n (p.ledSince != 0)) ++ leBytes 4 p.ledSince.toNat ++
    leBytes 4 s.lacing.distGen.toNat ++
    ((allFin 12).flatMap fun c => leBytes 2 (vget s.clock.regions (finOf 15 (by decide) c.val)).cur.toNat) ++ [0, 0, 0, 0]
  h ++ leBytes 4 (crc32c h).toNat

/-- The bytes of a list that differ from 0, by their place. -/
def cells (l : List Byte) : List (Nat × Byte) := (l.zipIdx.filter fun e => e.1 != 0).map fun e => (e.2, e.1)

/-- LEDGER_LATCH (R436 to R439): every counter is copied at one instant and the entries go to the ring; delta counters
clear. A latch while the last record is still being written is skipped. -/
def execLedgerLatch (s : State) : Out :=
  let p := s.pmu
  .next (if !p.ledEn || decide (p.ledRecs.toNat < 2) || (vget s.power.doms 25).state != 1 then s
    else if p.writing.isSome then
      modPmu s fun p => { p with ledSkip := satAdd p.ledSkip 1, ledSince := satAdd p.ledSince 1 }
    else
      let s := { mapCounters s fun e k => k.after (newCount s e) with openCtr := s.openCtr + 7400 }
      let a := p.ledBase.toNat * 65536 + p.ledHead.toNat % p.ledRecs.toNat * 59264
      let words := allEvents.map fun e => counterWord (counterOf s e)
      let h := ledgerHeader s
      let s := { s with
        mem := (cells (words.flatMap fun w => leBytes 8 w.toNat)).foldl (fun m e => memSet m (a + 64 + e.1) e.2)
          (memErase s.mem (a + 64) 59200)
        poison := setErase s.poison (a / 64 + 1) 925 }
      let s := mapCounters s fun _ k => if k.delta then { k with count := 0, ovf := false } else k
      modPmu s fun p => { p with writing := some (a, h), changed := false, ledSince := 0 })

/-- LEDGER_HEADER_WRITE (R438): the header, last. -/
def execLedgerHeaderWrite (s : State) : Out :=
  .next (match s.pmu.writing with
    | none => s
    | some (a, h) =>
      modPmu (putFresh s a h) fun p => { p with writing := none, ledHead := p.ledHead + 1 })

/-- A call slip (Table 18-5). -/
def slipBytes (s : State) (c : CoreId) (q : SeqId) (m : SlipMeasure) (lat : Nat) : List Byte :=
  let h := leBytes 8 s.pmu.slipHead.toNat ++ leBytes 8 m.issueNs.toNat ++ leBytes 1 (getCore s c).jobId.toNat ++
    leBytes 1 c.val ++ leBytes 1 q.val ++ leBytes 1 m.opc.toNat ++ leBytes 2 (m.pc.toNat + 4096 * b2n m.half) ++
    leBytes 2 (m.flags.toNat % 32) ++ leBytes 4 lat ++ leBytes 4 m.pre.toNat ++ leBytes 4 m.tag.toNat ++
    leBytes 4 m.slot.toNat ++ leBytes 4 m.lace.toNat ++ leBytes 4 m.exec.toNat ++ leBytes 4 m.bytes.toNat ++
    leBytes 2 m.stretch.toNat ++ leBytes 2 (vget s.clock.regions (finOf 15 (by decide) c.val)).cur.toNat ++
    leBytes 1 m.cause.toNat ++ [0, 0, 0]
  h ++ leBytes 4 (crc32c h).toNat

/-- CALL_SLIP_WRITE (R441 to R443): a tracked instruction has completed; below MINLAT it only counts in FILTERED. -/
def execCallSlipWrite (c : CoreId) (q : SeqId) (m : SlipMeasure) (s : State) : Out :=
  let p := s.pmu
  let ctrl := vget p.slipCtrl c
  let lat := m.tag.toNat + m.slot.toNat + m.lace.toNat + m.exec.toNat
  .next (if !bit ctrl q.val || p.slipRecs == 0 || (getCore s c).jobId == 0 then s
    else if lat < fld ctrl 32 24 then modPmu s fun p => { p with slipFilt := satAdd p.slipFilt 1 }
    else
      let a := p.slipBase.toNat * 65536 + p.slipHead.toNat % p.slipRecs.toNat * 64
      modPmu (putFresh s a (slipBytes s c q m lat)) fun p => { p with slipHead := p.slipHead + 1 })

end Sys2Proof.Machine
end

