-- ==== Sys2Proof/Machine/RegCmd.lean ====
section
/-!
DEFINITION. Register access at expert level (R305 to R307): REGRD, REGWR, ALLOW_READ, and the expert writes that have
an effect of their own (R45, R107, R217, R219, R257, R380).
-/
namespace Sys2Proof.Machine

/-- The addresses of a REGRD payload (R306). -/
def regrdAddrs (m : Mailbox) : List Nat := (List.range (pf m 0 4)).map fun n => pf m (8 + 8 * n) 8

/-- An address that REGRD reaches: on the allow-list, and from a VF in the control blocks of its job's cores (R306). -/
def regrdReach (s : State) (m : Mailbox) (a : Nat) : Bool :=
  (regAt a).isSome && (m.fn == 0 || match blockCore a, callerJob s m with
    | some c, some j => j.cores.contains c
    | _, _ => false)

/-- REGRD checks every address before it reads any (R306). -/
def regrdAllow (s : State) (m : Mailbox) : BitVec 16 :=
  if (regrdAddrs m).all (regrdReach s m) then 0 else stDenied

/-- Reads of a list of registers in order. -/
def readRegs (s : State) : List Nat → List Byte × State
  | [] => ([], s)
  | a :: t =>
    let r := readReg s a
    let q := readRegs r.2 t
    (leBytes 8 r.1.toNat ++ q.1, q.2)

/-- REGRD (R306, R446). -/
def execRegrd (mb : Fin 16) (s : State) : Out :=
  command s mb 0x90 regrdAllow fun s m =>
    let r := readRegs s (regrdAddrs m)
    ends r.2 mb 0 r.1

/-- One entry of a REGWR payload: address, data, mask (R307). -/
structure RegwrEntry where
  addr : Nat
  data : Word
  mask : Word
  deriving DecidableEq, Repr

/-- The entries of a REGWR payload. -/
def regwrEntries (m : Mailbox) : List RegwrEntry :=
  (List.range (pf m 0 4)).map fun n =>
    { addr := pf m (8 + 24 * n) 8, data := BitVec.ofNat 64 (pf m (16 + 24 * n) 8), mask := BitVec.ofNat 64 (pf m (24 + 24 * n) 8) }

/-- REGWR's effect (R307): the first failing entry decides STATUS and INDEX and nothing is written, or every entry is
applied in order. -/
def regwrEffect (mb : Fin 16) (s : State) (m : Mailbox) : State :=
  match (regwrEntries m).zipIdx.find? fun e => regwrCheck s e.1.addr e.1.data e.1.mask != 0 with
  | some e => ends s mb (regwrCheck s e.1.addr e.1.data e.1.mask) (leBytes 4 e.2 ++ [0, 0, 0, 0])
  | none => ends ((regwrEntries m).foldl (fun s e => regwrApply s e.addr e.data e.mask) s) mb 0
      (leBytes 4 0xFFFFFFFF ++ [0, 0, 0, 0])

/-- REGWR (R307). -/
def execRegwr (mb : Fin 16) (s : State) : Out := command s mb 0x91 always (regwrEffect mb)

/-- A REGWR with an entry for a register that `hit` names. -/
def regwrOf (s : State) (mb : Fin 16) (hit : RegwrEntry → Bool) : Out :=
  if (regwrEntries (getMb s mb)).any hit then command s mb 0x91 always (regwrEffect mb) else .next s

/-- JOB_SEQ_RUN of some core (Table 02-5). -/
def isSeqRun (a : Nat) : Bool :=
  match blockCore a with
  | some c => a == coreBase c + 0x10
  | none => false

/-- LAST_INJ of some Last (Table 04-8). -/
def isLastInj (a : Nat) : Bool :=
  match blockCore a with
  | some c => (List.range 4).any fun l => a == coreBase c + 0x900028 + 0x10000 * l
  | none => false

/-- LAC_LINK_CTRL of some link (Table 09-7). -/
def isLinkCtrl (a : Nat) : Bool := (List.range 17).any fun l => a == 0x0F0010001020 + 0x40 * l

/-- MEM_CTRL (Table 10-12). -/
def isMemCtrl (a : Nat) : Bool := a == 0x0F0011000040

/-- THM_SENS_r_s of some sensor (Table 15-6). -/
def isSensor (a : Nat) : Bool := decide (0x0F0012003200 ≤ a) && decide (a < 0x0F0012003200 + 15 * 0x80)

/-- JOB_SEQ_RUN_WRITE (R45, R332, R318). -/
def execJobSeqRunWrite (mb : Fin 16) (s : State) : Out := regwrOf s mb fun e => isSeqRun e.addr

/-- LAST_INJ_ARM (R106, R107): arms a fault injection of a Last. -/
def execLastInjArm (mb : Fin 16) (s : State) : Out := regwrOf s mb fun e => isLastInj e.addr

/-- LAC_LINK_RETRAIN (R219, R238): one lace leaves service to retrain. -/
def execLacLinkRetrain (mb : Fin 16) (s : State) : Out :=
  regwrOf s mb fun e => isLinkCtrl e.addr && bit e.data 6 && bit e.mask 6

/-- LAC_LINK_RETIRE (R217, R238): one lace is retired. -/
def execLacLinkRetire (mb : Fin 16) (s : State) : Out :=
  regwrOf s mb fun e => isLinkCtrl e.addr && bit e.data 7 && bit e.mask 7

/-- MEM_CTRL_RETRAIN (R257, R264): one HBM PC or LPDDR5X channel retrains. -/
def execMemCtrlRetrain (mb : Fin 16) (s : State) : Out :=
  regwrOf s mb fun e => isMemCtrl e.addr && bit e.data 10 && bit e.mask 10

/-- THM_SENS_DISABLE (R373, R380): the sensor is then treated as failed. -/
def execThmSensDisable (mb : Fin 16) (s : State) : Out := regwrOf s mb fun e => isSensor e.addr

/-- ALLOW_READ (R305): at most 125 entries from FIRST. -/
def execAllowRead (mb : Fin 16) (s : State) : Out :=
  command s mb 0x92 always fun s m =>
    let l := (allowList.drop (pf m 0 4)).take 125
    ends s mb 0 (leBytes 4 allowList.length ++ leBytes 4 l.length ++ l.flatMap allowBytes)

end Sys2Proof.Machine
end

