-- ==== Sys2Proof/Machine/Registrar.lean ====
section
/-!
DEFINITION. How Ikied takes a command (R290 to R303): an OWN write, the seven checks of R291, acceptance, the queue behind
shared resources (R294, R295), cancelling, time limits, and the end of a command (R292).
-/
namespace Sys2Proof.Machine

/-- Payload bytes off to off+n-1 are zero, as reserved bytes must be. -/
def zeros (m : Mailbox) (off n : Nat) : Bool := (payBytes m off n).all (· == 0)

/-- A range that a command names is populated device memory (R304). -/
def namesRange (s : State) (m : Mailbox) (a n : Nat) : Bool := memRangeOk s (pf m a 8) n

/-- The codes of Table 12-5. -/
def knownCodes : List Nat :=
  [0x01, 0x02, 0x03, 0x04, 0x05, 0x10, 0x20, 0x21, 0x22, 0x23, 0x24, 0x25, 0x30, 0x31, 0x40, 0x41, 0x42, 0x50, 0x60, 0x61,
    0x62, 0x63, 0x70, 0x71, 0x72, 0x80, 0x90, 0x91, 0x92, 0xC0, 0xC1, 0xC2, 0xC3, 0xC4, 0xC5, 0xC6, 0xC7, 0xC8, 0xC9]

/-- The codes that MB0 and MB1 alone carry (column From). -/
def ownCodes : List Nat :=
  [0x10, 0x31, 0x40, 0x50, 0x60, 0x61, 0x62, 0x63, 0x70, 0x71, 0x72, 0x80, 0x91, 0xC7, 0xC8]

/-- A critical command (R303): PWR_LIMIT above 2,800 W is one. -/
def isCritical (m : Mailbox) : Bool :=
  let c := m.code.toNat
  decide (0xC0 ≤ c ∧ c ≤ 0xC6) || c == 0xC9 || (c == 0x60 && decide (2800 < pf m 0 2))

/-- Commands that hold the whole device (R295). -/
def wholeDevice (m : Mailbox) : Bool := [0xC0, 0xC1, 0xC2, 0xC4, 0xC5].contains m.code.toNat

/-- Check 1 of R291: the mailbox may carry the command. OWNER_SET is MB0's (R301). -/
def mayCarry (s : State) (k : Fin 16) (m : Mailbox) : Bool :=
  let c := m.code.toNat
  if c = 0xC9 then k.val == 0
  else if isCritical m then decide (k.val < 2) && s.reg.ownerState != 0
  else if ownCodes.contains c || (c == 0x41 && pf m 4 1 == 1) then decide (k.val < 2)
  else true

/-- Check 5: profile G has no snapshot engine and no pairing (R2, R3). -/
def licensedFor (s : State) (m : Mailbox) : Bool :=
  let c := m.code.toNat
  !(s.flash.profile == 1 && (c == 0x70 || c == 0x71 || c == 0x72 || c == 0xC6 || (c == 0x41 && pf m 4 1 == 1)))

/-- The payload fields of a SNAP_CFG (R421). -/
def snapCfgForm (m : Mailbox) : Bool :=
  let n := m.plen.toNat
  match pf m 1 1 with
  | 0 =>
    let r := pf m 84 2
    let h := pf m 12 1
    decide (1 ≤ r ∧ r ≤ 64) && n == 92 + 16 * r && decide (pf m 2 1 ≤ 7) && decide (pf m 3 1 ≤ 7) &&
      pf m 3 1 &&& pf m 2 1 == pf m 3 1 && (h == 0 || decide (64 ≤ h)) && zeros m 13 3 && zeros m 86 6 &&
      (List.range r).all fun i => pf m (92 + 16 * i) 8 % 64 == 0 && pf m (100 + 16 * i) 8 % 64 == 0
  | 1 => n == 8
  | 2 => n == 8 && m.expert
  | _ => false

/-- The payload fields of a PMU_CFG (R437 to R445). -/
def pmuCfgForm (m : Mailbox) : Bool :=
  let n := m.plen.toNat
  zeros m 1 3 && match pf m 0 1 with
  | 0 => n == 28 && decide (pf m 4 1 ≤ 1 ∧ pf m 5 1 ≤ 2) && zeros m 6 2 && zeros m 22 6
  | 1 => n == 28 && decide (pf m 4 1 ≤ 11 ∨ pf m 4 1 = 0xFF) && decide (pf m 5 1 ≤ 20) && decide (pf m 8 4 < 2 ^ 24) && zeros m 22 6
  | 2 => n == 28 && decide (1 ≤ pf m 4 1 ∧ pf m 4 1 ≤ 7)
  | 3 => n == 12 && decide (pf m 4 1 ≤ 15 ∧ pf m 5 1 ≤ 7) && zeros m 6 6
  | 4 => n == 12 && zeros m 10 2
  | 5 => n == 12 && zeros m 6 6
  | _ => false

/-- Check 6: PLEN and the payload fields fit the command (Table 12-5 and the chapter of each function). -/
def formOk (s : State) (m : Mailbox) : Bool :=
  let n := m.plen.toNat
  let eight := fun (from' : Nat) => n == 8 && zeros m from' (8 - from')
  decide (n ≤ 4032) && match m.code.toNat with
  | 0x01 => n == 0
  | 0x02 => n == 16 && (pf m 8 8 == 0 || namesRange s m 0 (pf m 8 8))
  | 0x03 => n == 16 && decide (1 ≤ pf m 8 2 ∧ pf m 8 2 ≤ 62 ∧ pf m 10 1 ≤ 3) && zeros m 11 5
  | 0x04 => eight 2 && decide (1 ≤ pf m 0 1 ∧ pf m 0 1 ≤ 3)
  | 0x05 => n == 8 && decide (pf m 4 4 ≤ 4024)
  | 0x10 => eight 2 && decide (2 ≤ pf m 0 1 ∧ pf m 0 1 ≤ 15 ∧ pf m 1 1 ≤ 8)
  | 0x20 => n == 24 && zeros m 18 6 && decide (256 ≤ pf m 8 8 ∧ pf m 8 8 ≤ 2 ^ 30) && namesRange s m 0 (pf m 8 8) &&
      decide (pf m 16 1 ≤ 8) && (decide (pf m 17 1 ≤ 4) || pf m 17 1 == 0xFF)
  | 0x21 => eight 1
  | 0x22 => eight 1
  | 0x23 => eight 1
  | 0x24 => eight 1
  | 0x25 => eight 1
  | 0x30 => n == 16 && zeros m 9 7 && decide (pf m 8 1 ≤ 8)
  | 0x31 => eight 2 && ((pf m 0 1 == 0 && decide (pf m 1 1 ≤ 7)) || (pf m 0 1 == 1 && pf m 1 1 == 0xFF))
  | 0x40 => n == 24 && zeros m 6 2 && decide (pf m 0 1 ≤ 7 ∧ pf m 1 1 ≤ 4 ∧ pf m 3 1 ≤ 8)
  | 0x41 => n == 56 && decide (pf m 0 4 < 2 ^ 24 ∧ pf m 4 1 ≤ 1 ∧ pf m 6 1 ≤ 1)
  | 0x42 => eight 4
  | 0x50 => eight 3 && decide (pf m 0 1 ≤ 11 ∧ pf m 2 1 ≤ 2) && (pf m 2 1 != 2 || decide (7 ≤ pf m 0 1)) &&
      decide (pf m 1 1 < testUnits (pf m 0 1))
  | 0x60 => eight 2 && decide (1500 ≤ pf m 0 2 ∧ pf m 0 2 ≤ 3000)
  | 0x61 => eight 3 && decide (pf m 0 1 ≤ 29 ∧ pf m 1 1 ≤ 1 ∧ pf m 2 1 ≤ 1) && (pf m 2 1 == 0 || (m.expert && pf m 1 1 == 1))
  | 0x62 => eight 4 && zeros m 1 1 && decide (pf m 0 1 ≤ 13)
  | 0x63 => eight 2 && decide (240 ≤ pf m 0 2 ∧ pf m 0 2 ≤ 420)
  | 0x70 => snapCfgForm m
  | 0x71 => eight 2 && decide (pf m 1 1 ≤ 2)
  | 0x72 => eight 3 && decide (pf m 1 1 ≤ 2 ∧ pf m 2 1 ≤ 2)
  | 0x80 => pmuCfgForm m
  | 0x90 => decide (1 ≤ pf m 0 4 ∧ pf m 0 4 ≤ 503) && n == 8 + 8 * pf m 0 4 && zeros m 4 4
  | 0x91 => decide (1 ≤ pf m 0 4 ∧ pf m 0 4 ≤ 167) && n == 8 + 24 * pf m 0 4 && zeros m 4 4
  | 0x92 => eight 4
  | 0xC0 => n == 24 && zeros m 17 7 && decide (pf m 16 1 ≤ 1) && namesRange s m 0 (pf m 8 8)
  | 0xC1 => n == 16 && zeros m 12 4 && pf m 8 4 == 17120 && namesRange s m 0 17120
  | 0xC2 => n == 76
  | 0xC3 => n == 8 && zeros m 3 1 && decide (pf m 0 2 < 4096 ∧ pf m 2 1 ≤ 7 ∧ pf m 4 4 ≤ 86400)
  | 0xC4 => n == 24 && zeros m 1 3 && decide (pf m 0 1 ≤ 1)
  | 0xC5 => eight 1 && decide (pf m 0 1 ≤ 1) && (pf m 0 1 == 0 || m.expert)
  | 0xC6 => n == 72 && zeros m 1 3 && decide (pf m 0 1 ≤ 1)
  | 0xC7 => n == 12 && zeros m 2 2 && decide (pf m 0 1 ≤ 11 ∧ pf m 1 1 ≤ 3 ∧ pf m 8 4 ≤ 4032)
  | 0xC8 => eight 2 && decide (pf m 0 2 < 4096)
  | 0xC9 => n == 56
  | _ => false

/-- Check 7: the caller's scope and the state of the target, by the checks that the command makes again where it runs. -/
def stateAllow (s : State) (m : Mailbox) : BitVec 16 :=
  match m.code.toNat with
  | 0x02 => inventoryAllow s m
  | 0x03 => errReadAllow s m
  | 0x04 => provReadAllow s m
  | 0x05 => if m.fn = 0 then 0 else stDenied
  | 0x10 => mbxAllow s m
  | 0x20 => jobLoadAllow s m
  | 0x21 => jobStartAllow s m
  | 0x22 => jobIn [4] s m
  | 0x23 => jobIn [5] s m
  | 0x24 => jobIn [3, 4, 5] s m
  | 0x25 => jobIn [3, 4, 5, 6] s m
  | 0x30 => apertureAllow s m
  | 0x40 => portCfgAllow s m
  | 0x41 => sessOpenAllow s m
  | 0x42 => sessCloseAllow s m
  | 0x50 => selftestAllow s m
  | 0x60 => pwrLimitAllow s m
  | 0x61 => domainAllow s m
  | 0x62 => clockCapAllow s m
  | 0x70 => if pf m 1 1 = 0 then snapCfgAllow s m else if pf m 1 1 = 1 then snapConfigured [3, 4, 5] s m else 0
  | 0x71 => if pf m 1 1 = 0 then snapConfigured [3, 4, 5] s m else if pf m 1 1 = 1 then archiveAllow s m else abandonAllow s m
  | 0x72 => restoreAllow s m
  | 0x80 => if pf m 0 1 = 0 then ledgerAllow s m else if pf m 0 1 = 1 then slipsAllow s m else 0
  | 0x90 => regrdAllow s m
  | 0xC4 => if pf m 0 1 = 0 then editAllow s m else clearAllow s m
  | 0xC6 => if pf m 0 1 = 0 then pairAllow s m else unpairAllow s m
  | 0xC7 => debugReadAllow s m
  | 0xC9 => ownerSetAllow s m
  | _ => 0

/-- Checks 5 to 7 of R291. -/
def laterChecks (s : State) (m : Mailbox) : BitVec 16 :=
  if !licensedFor s m then stNotLicensed else if !formOk s m then stBadForm else stateAllow s m

/-- MB0 and MB1 are authenticated while the part has an owner (R298 to R301). -/
def authenticated (s : State) (k : Fin 16) : Bool := decide (k.val < 2) && s.reg.ownerState != 0

/-- The time of a lock (R300): 10 s, doubled by each lock that followed another within 1 h, at most 1 h. -/
def lockNs (r : Registrar) : Nat := min 3600 (10 * 2 ^ (r.locks.length - 1)) * 10 ^ 9

/-- A failed authentication (R300): a record, and the lock at the eighth in a row. -/
def authFail (s : State) (m : Mailbox) (st : BitVec 16) : State :=
  let s := securityRecord (modReg s fun r => { r with fails := r.fails + 1 }) m 1 st
  if s.reg.fails < 8 then s
  else
    let now := s.reg.time.toNat
    bumpGen (modReg s fun r => { r with
      ownerState := 2, fails := 0
      locks := now :: (if r.locks.any fun t => decide (now ≤ t + 3600 * 10 ^ 9) then r.locks else []) })

/-- The counter is consumed (R291, R298): LAST_CTR takes it, and CTR_HIGH stays 65,536 ahead of a counter above it. -/
def consume (s : State) (m : Mailbox) : State :=
  bumpGen (modReg s fun r => { r with
    lastCtr := m.counter, ctrHigh := if r.ctrHigh.toNat < m.counter.toNat then m.counter + 65536 else r.ctrHigh })

/-- The seven checks (R291) in their order: the state they leave, and the STATUS of the first that fails or 0. -/
def judge (s : State) (k : Fin 16) (ctrl : BitVec 32) : State × BitVec 16 :=
  let m := getMb s k
  if !knownCodes.contains m.code.toNat then (s, stBadCode)
  else if !mayCarry s k m then (s, stNotOwner)
  else if !authenticated s k then (s, laterChecks s m)
  else if s.reg.ownerState = 2 then (s, stLocked)
  else if commandCheck s.reg.key m ctrl ≠ memRead m.check 0 24 then (authFail s m stBadCheck, stBadCheck)
  else if m.counter.toNat ≤ s.reg.lastCtr.toNat then (authFail s m stStale, stStale)
  else
    let s := consume s m
    (s, laterChecks s (getMb s k))

/-- The cores of a list and the jobs on them, as resources. -/
def coreKeys (s : State) (l : List CoreId) : List (Nat × Nat) :=
  l.flatMap fun c => (1, c.val) :: (if (getCore s c).jobId = 0 then [] else [(0, (getCore s c).jobId.toNat)])

/-- The cores that a command of the registers or of power concerns: those of control blocks, of a domain, of a region. -/
def regionCores (s : State) (n : Nat) : List CoreId :=
  (allFin 12).filter fun c => (coreDomain s c).val == n || (stkDomain s c).val == n

/-- The resources of a command (R294): job 0, core 1, port 2, Eyelet session 3, memory tiers 4, each with its number. -/
def resources (s : State) (m : Mailbox) : List (Nat × Nat) :=
  let c := m.code.toNat
  if 0x21 ≤ c ∧ c ≤ 0x25 ∨ 0x70 ≤ c ∧ c ≤ 0x72 then [(0, pf m 0 1)]
  else if c = 0x20 then (allFin 12).map fun k => (1, k.val)
  else if c = 0x30 then [(2, 0)]
  else if c = 0x31 then [(4, 0)]
  else if c = 0x40 then [(2, 0x200 + pf m 0 1)]
  else if c = 0x41 ∨ c = 0x42 then [(3, pf m 0 4)]
  else if c = 0xC6 then [(3, pf m 4 4), (4, 0)]
  else if c = 0x50 then
    (if pf m 0 1 < 7 then coreKeys s (testCores s (pf m 0 1) (pf m 1 1))
      else if pf m 0 1 = 10 then [(2, 0x200 + pf m 1 1)] else if pf m 0 1 = 11 then [(2, 0x300 + pf m 1 1)]
      else if pf m 0 1 = 9 then [] else [(4, 0)])
  else if c = 0x61 then coreKeys s (regionCores s (pf m 0 1))
  else if c = 0x62 then (if pf m 0 1 < 12 then coreKeys s [coreOf (pf m 0 1)] else [])
  else if c = 0x91 then coreKeys s ((regwrEntries m).filterMap fun e => blockCore e.addr)
  else if c = 0xC7 then coreKeys s [coreOf (pf m 0 1)]
  else if c = 0xC3 ∨ c = 0xC8 then coreKeys s (coresIn (pf m 0 2))
  else []

/-- Two commands share a resource (R294, R295). -/
def collide (s : State) (a b : Mailbox) : Bool :=
  wholeDevice a || wholeDevice b || (resources s a).any fun r => (resources s b).contains r

/-- A command accepted earlier that has not ended and shares a resource, or a reset about to start (R294, R295). -/
def mustQueue (s : State) (k : Fin 16) : Bool :=
  s.reg.resetDue || (allFin 16).any fun j =>
    let x := getMb s j
    x.own && x.phase != 0 && decide (x.order < (getMb s k).order) && collide s x (getMb s k)

/-- An accepted command runs or queues. NOP ends as soon as it runs. -/
def runOrQueue (s : State) (k : Fin 16) : State :=
  if mustQueue s k then bumpGen (modMb s k fun m => { m with phase := 1 })
  else
    let s := bumpGen (modMb s k fun m => { m with phase := 2 })
    if (getMb s k).code = 1 then answer s k 0 [] 0 else s

/-- A mailbox put into a list in the order of acceptance. -/
def byOrder (s : State) (k : Fin 16) : List (Fin 16) → List (Fin 16)
  | [] => [k]
  | j :: t => if (getMb s k).order ≤ (getMb s j).order then k :: j :: t else j :: byOrder s k t

/-- The QUEUED mailboxes, oldest first. -/
def queuedMailboxes (s : State) : List (Fin 16) :=
  ((allFin 16).filter fun k => (getMb s k).own && (getMb s k).phase == 1).foldr (byOrder s) []

/-- A QUEUED command starts where nothing it waits for is left. -/
def promoteOne (s : State) (k : Fin 16) : State := if mustQueue s k then s else runOrQueue s k

/-- Every QUEUED command that need not wait any more starts, in the order of acceptance (R294). -/
def promote (s : State) : State := (queuedMailboxes s).foldl promoteOne s

/-- A command is accepted (R291): an accepted command resets the failure count (R300), a critical one is recorded (R303),
and DEVICE_RESET ends every queued one (R295). -/
def accept (s : State) (k : Fin 16) : State :=
  let s := modReg s fun r => { r with accepted := r.accepted + 1, fails := if k.val < 2 then 0 else r.fails }
  let s := modMb s k fun m => { m with order := s.reg.accepted, progress := 0, result := none, waiting := false }
  let s := if isCritical (getMb s k) then securityRecord s (getMb s k) 0 0 else s
  let s := if (getMb s k).code = 0xC5 then (queuedMailboxes s).foldl (fun s j => refuse s j stCancelled) s else s
  runOrQueue s k

/-- Ikied takes commands: while READY, and after a trip that leaves the mailboxes served (R296, R378, Table 14-3). -/
def takesCommands (s : State) : Bool := s.reg.devState == 1 || (s.reg.devState == 3 && mailboxesServed s)

/-- Ikied sees a posted command (R291): CANCELLED where CANCEL came first (R293), else the checks. -/
def see (s : State) (k : Fin 16) (ctrl : BitVec 32) : State :=
  if (getMb s k).cancel then refuse s k stCancelled
  else
    let j := judge s k ctrl
    if j.2 = 0 then accept j.1 k else refuse j.1 k j.2

/-- A CANCEL (R293): it ends a command that is posted or QUEUED. -/
def cancelIn (s : State) (k : Fin 16) : State :=
  let m := getMb s k
  if !m.own || m.phase = 2 then s
  else if m.phase = 1 then promote (refuse s k stCancelled)
  else modMb s k fun m => { m with cancel := true }

/-- MAILBOX_OWN_WRITE (R290, R291, R296): a CTRL write with OWN set, its CANCEL and EXPERT with it. -/
def execMailboxOwnWrite (fn : Fin 9) (k : Fin 16) (ctrl : BitVec 32) (s : State) : Out :=
  .next (if !decodes s fn || !mailboxesServed s || !bit ctrl 0 then s
    else match mailboxAt s fn k.val with
    | none => s
    | some k =>
      if (getMb s k).own then (if bit ctrl 1 then cancelIn s k else s)
      else
        let s := modMb s k fun m => { m with own := true, cancel := bit ctrl 1, expert := bit ctrl 2, phase := 0 }
        if takesCommands s then see s k ctrl else s)

/-- MAILBOX_CANCEL (R293). -/
def execMailboxCancel (fn : Fin 9) (k : Fin 16) (s : State) : Out :=
  .next (if !decodes s fn || !mailboxesServed s then s
    else match mailboxAt s fn k.val with
    | none => s
    | some k => cancelIn s k)

/-- QUEUED_TIMEOUT (R294). -/
def execQueuedTimeout (mb : Fin 16) (s : State) : Out :=
  .next (if (getMb s mb).own && (getMb s mb).phase == 1 then promote (refuse s mb stBusy) else s)

/-- AUTH_LOCK_EXPIRE (R300). -/
def execAuthLockExpire (s : State) : Out :=
  .next (if s.reg.ownerState = 2 ∧ (s.reg.locks.headD 0) + lockNs s.reg ≤ s.reg.time.toNat then
      bumpGen (modReg s fun r => { r with ownerState := 1 })
    else s)

/-- COMMAND_COMPLETE (R292): the answer of a command that has ended; a new key holds from here on (R302), and what waited
for the command starts. -/
def execCommandComplete (mb : Fin 16) (s : State) : Out :=
  .next (match (getMb s mb).result with
    | none => s
    | some (st, resp, size) =>
      let change := (getMb s mb).code == 0xC2
      let s := answer s mb st resp size
      let s := if change then modReg s fun r => { r with key := r.newKey.getD r.key, newKey := none } else s
      promote s)

end Sys2Proof.Machine
end

