-- ==== Sys2Proof/Machine/Dispatch.lean ====
section
/-!
DEFINITION. The meaning of every command: one arm per row of the opcode table, each one direct call of that row's own
definition. exec changes everything but the queue, which the step has already shortened.
-/
namespace Sys2Proof.Machine
open Host

/-- What a command does. -/
def exec (i : Instr) (s : State) : Host.Outcome State Fault Refusal :=
  match i with
  | .nop c q w => Sys2Proof.Machine.execNop c q w s
  | .halt c q w => Sys2Proof.Machine.execHalt c q w s
  | .wait c q w => Sys2Proof.Machine.execWait c q w s
  | .loop c q w => Sys2Proof.Machine.execLoop c q w s
  | .jmp c q w => Sys2Proof.Machine.execJmp c q w s
  | .dadv c q w => Sys2Proof.Machine.execDadv c q w s
  | .dload c q w ev => Sys2Proof.Machine.execDload c q w ev s
  | .swapi c q w => Sys2Proof.Machine.execSwapi c q w s
  | .barrier c q w => Sys2Proof.Machine.execBarrier c q w s
  | .frame c q w => Sys2Proof.Machine.execFrame c q w s
  | .frameTakesEffect c => Sys2Proof.Machine.execFrameTakesEffect c s
  | .iload c q w ev => Sys2Proof.Machine.execIload c q w ev s
  | .barrierTimeout c => Sys2Proof.Machine.execBarrierTimeout c s
  | .stacksAccessExecute c cyc a ecc => Sys2Proof.Machine.execStacksAccessExecute c cyc a ecc s
  | .tagTimeout c a => Sys2Proof.Machine.execTagTimeout c a s
  | .correctedWriteback c sa => Sys2Proof.Machine.execCorrectedWriteback c sa s
  | .patrolRead c sa ecc => Sys2Proof.Machine.execPatrolRead c sa ecc s
  | .bankRepair c bank => Sys2Proof.Machine.execBankRepair c bank s
  | .setRetire c set => Sys2Proof.Machine.execSetRetire c set s
  | .carrelMirrorUpdate c k => Sys2Proof.Machine.execCarrelMirrorUpdate c k s
  | .scrubComplete job => Sys2Proof.Machine.execScrubComplete job s
  | .fill c d w => Sys2Proof.Machine.execFill c d w s
  | .copy c d w ev => Sys2Proof.Machine.execCopy c d w ev s
  | .cropen c w ev => Sys2Proof.Machine.execCropen c w ev s
  | .crclose c w => Sys2Proof.Machine.execCrclose c w s
  | .stepend c w ev => Sys2Proof.Machine.execStepend c w ev s
  | .clgate c w => Sys2Proof.Machine.execClgate c w s
  | .clusterUngateDone c k => Sys2Proof.Machine.execClusterUngateDone c k s
  | .lcfg c l w => Sys2Proof.Machine.execLcfg c l w s
  | .loadw c l w ev => Sys2Proof.Machine.execLoadw c l w ev s
  | .stream c l w ev => Sys2Proof.Machine.execStream c l w ev s
  | .drain c l w => Sys2Proof.Machine.execDrain c l w s
  | .accld c l w ev => Sys2Proof.Machine.execAccld c l w ev s
  | .lpairOn c l w => Sys2Proof.Machine.execLpairOn c l w s
  | .lpairOff c l w => Sys2Proof.Machine.execLpairOff c l w s
  | .lastPairTimeout c l => Sys2Proof.Machine.execLastPairTimeout c l s
  | .lastPlaneStart c l => Sys2Proof.Machine.execLastPlaneStart c l s
  | .lastVectorEnter c l => Sys2Proof.Machine.execLastVectorEnter c l s
  | .lastVectorLand c l mis => Sys2Proof.Machine.execLastVectorLand c l mis s
  | .drainEntryRead c l mis => Sys2Proof.Machine.execDrainEntryRead c l mis s
  | .denseFallbackReexec c l => Sys2Proof.Machine.execDenseFallbackReexec c l s
  | .lastInjArm mb => Sys2Proof.Machine.execLastInjArm mb s
  | .avld c w ev => Sys2Proof.Machine.execAvld c w ev s
  | .amv c w ev => Sys2Proof.Machine.execAmv c w ev s
  | .awlFallbackReexec c => Sys2Proof.Machine.execAwlFallbackReexec c s
  | .aseqApply c w ev => Sys2Proof.Machine.execAseqApply c w ev s
  | .aseqAdvance c w => Sys2Proof.Machine.execAseqAdvance c w s
  | .wop c wl w ev => Sys2Proof.Machine.execWop c wl w ev s
  | .wcvt c wl w ev => Sys2Proof.Machine.execWcvt c wl w ev s
  | .wred c wl w ev => Sys2Proof.Machine.execWred c wl w ev s
  | .wsmxExps c wl w ev => Sys2Proof.Machine.execWsmxExps c wl w ev s
  | .wsmxMerge c wl w ev => Sys2Proof.Machine.execWsmxMerge c wl w ev s
  | .wgth c wl w ev => Sys2Proof.Machine.execWgth c wl w ev s
  | .wsct c wl w ev => Sys2Proof.Machine.execWsct c wl w ev s
  | .wopt c wl w ev => Sys2Proof.Machine.execWopt c wl w ev s
  | .wshdw c wl w ev => Sys2Proof.Machine.execWshdw c wl w ev s
  | .seltop c wl w ev => Sys2Proof.Machine.execSeltop c wl w ev s
  | .selthr c wl w ev => Sys2Proof.Machine.execSelthr c wl w ev s
  | .cfill c wl w ev => Sys2Proof.Machine.execCfill c wl w ev s
  | .cevict c wl w ev => Sys2Proof.Machine.execCevict c wl w ev s
  | .wstepLoad c wl w => Sys2Proof.Machine.execWstepLoad c wl w s
  | .wstepInc c wl w => Sys2Proof.Machine.execWstepInc c wl w s
  | .wflagStore c wl w => Sys2Proof.Machine.execWflagStore c wl w s
  | .wflagCheck c wl w => Sys2Proof.Machine.execWflagCheck c wl w s
  | .wflagClear c wl w => Sys2Proof.Machine.execWflagClear c wl w s
  | .cacheSegmentRemap c wl seg => Sys2Proof.Machine.execCacheSegmentRemap c wl seg s
  | .xload c d w => Sys2Proof.Machine.execXload c d w s
  | .xstore c d w ev => Sys2Proof.Machine.execXstore c d w ev s
  | .xgather c d w ev => Sys2Proof.Machine.execXgather c d w ev s
  | .xmove c d w => Sys2Proof.Machine.execXmove c d w s
  | .esend c d w ev => Sys2Proof.Machine.execEsend c d w ev s
  | .laceBeatReceive link dir lace ok => Sys2Proof.Machine.execLaceBeatReceive link dir lace ok s
  | .rd f ecc => Sys2Proof.Machine.execRd f ecc s
  | .wr f => Sys2Proof.Machine.execWr f s
  | .wrp f => Sys2Proof.Machine.execWrp f s
  | .rdr f => Sys2Proof.Machine.execRdr f s
  | .ack f => Sys2Proof.Machine.execAck f s
  | .barrierArrival f => Sys2Proof.Machine.execBarrierArrival f s
  | .creditResync f => Sys2Proof.Machine.execCreditResync f s
  | .ucodeAck f => Sys2Proof.Machine.execUcodeAck f s
  | .ikiedMgmtMsg f => Sys2Proof.Machine.execIkiedMgmtMsg f s
  | .mcd agent f ok => Sys2Proof.Machine.execMcd agent f ok s
  | .creditReturn c q vc3 => Sys2Proof.Machine.execCreditReturn c q vc3 s
  | .laceRetire link dir lace => Sys2Proof.Machine.execLaceRetire link dir lace s
  | .laceHandshakeTimeout link dir lace => Sys2Proof.Machine.execLaceHandshakeTimeout link dir lace s
  | .spareLaceTrained link dir lace => Sys2Proof.Machine.execSpareLaceTrained link dir lace s
  | .lacLinkRetrain mb => Sys2Proof.Machine.execLacLinkRetrain mb s
  | .lacLinkRetire mb => Sys2Proof.Machine.execLacLinkRetire mb s
  | .laceRetrainDone link dir lace ok => Sys2Proof.Machine.execLaceRetrainDone link dir lace ok s
  | .routerFail n => Sys2Proof.Machine.execRouterFail n s
  | .outstandingPathAbort n => Sys2Proof.Machine.execOutstandingPathAbort n s
  | .tagQuarantineEnd c tag => Sys2Proof.Machine.execTagQuarantineEnd c tag s
  | .distRecompute hopPs bndPs vlacMv tlacQ => Sys2Proof.Machine.execDistRecompute hopPs bndPs vlacMv tlacQ s
  | .ucieModuleFail site => Sys2Proof.Machine.execUcieModuleFail site s
  | .memWriteAccept id ev => Sys2Proof.Machine.execMemWriteAccept id ev s
  | .memReadServe id ev => Sys2Proof.Machine.execMemReadServe id ev s
  | .memRequestAge id => Sys2Proof.Machine.execMemRequestAge id s
  | .memRefresh lp unit temp => Sys2Proof.Machine.execMemRefresh lp unit temp s
  | .memPatrolRead da ev => Sys2Proof.Machine.execMemPatrolRead da ev s
  | .memCtrlRetrain mb => Sys2Proof.Machine.execMemCtrlRetrain mb s
  | .memRetrainDone lp unit pc ok laneRepaired => Sys2Proof.Machine.execMemRetrainDone lp unit pc ok laneRepaired s
  | .memRowRepair da ok => Sys2Proof.Machine.execMemRowRepair da ok s
  | .memRetireApply lp unit pc => Sys2Proof.Machine.execMemRetireApply lp unit pc s
  | .hbmBypassSwitch region => Sys2Proof.Machine.execHbmBypassSwitch region s
  | .bar2Write fn off bytes => Sys2Proof.Machine.execBar2Write fn off bytes s
  | .bar2Read fn off len ev => Sys2Proof.Machine.execBar2Read fn off len ev s
  | .perstAssert => Sys2Proof.Machine.execPerstAssert s
  | .perstDeassert => Sys2Proof.Machine.execPerstDeassert s
  | .discRsp site payload => Sys2Proof.Machine.execDiscRsp site payload s
  | .discProv site index data rate x32 => Sys2Proof.Machine.execDiscProv site index data rate x32 s
  | .discTimeout site => Sys2Proof.Machine.execDiscTimeout site s
  | .ucodeRepairRound => Sys2Proof.Machine.execUcodeRepairRound s
  | .regionActivate r => Sys2Proof.Machine.execRegionActivate r s
  | .startUpReady t => Sys2Proof.Machine.execStartUpReady t s
  | .startUpWatchdog => Sys2Proof.Machine.execStartUpWatchdog s
  | .flrVf v => Sys2Proof.Machine.execFlrVf v s
  | .flrPf => Sys2Proof.Machine.execFlrPf s
  | .vfEnableClear => Sys2Proof.Machine.execVfEnableClear s
  | .pcieLinkDown => Sys2Proof.Machine.execPcieLinkDown s
  | .pcieLinkUp speed width => Sys2Proof.Machine.execPcieLinkUp speed width s
  | .powerstateD3hot fn => Sys2Proof.Machine.execPowerstateD3hot fn s
  | .nvmeCmdComplete id ok => Sys2Proof.Machine.execNvmeCmdComplete id ok s
  | .nvmeCmdTimeout id => Sys2Proof.Machine.execNvmeCmdTimeout id s
  | .vaultSurpriseRemoval => Sys2Proof.Machine.execVaultSurpriseRemoval s
  | .eytData port p => Sys2Proof.Machine.execEytData port p s
  | .eytAck port p => Sys2Proof.Machine.execEytAck port p s
  | .eytOpen port p => Sys2Proof.Machine.execEytOpen port p s
  | .eytOpenAck port p => Sys2Proof.Machine.execEytOpenAck port p s
  | .eytClose port p => Sys2Proof.Machine.execEytClose port p s
  | .eytKeepalive port p => Sys2Proof.Machine.execEytKeepalive port p s
  | .eytMove port p => Sys2Proof.Machine.execEytMove port p s
  | .eytRreq port p => Sys2Proof.Machine.execEytRreq port p s
  | .eytRresp port p => Sys2Proof.Machine.execEytRresp port p s
  | .neighbourDiscovery port target src => Sys2Proof.Machine.execNeighbourDiscovery port target src s
  | .icmpv6Echo port dst src data => Sys2Proof.Machine.execIcmpv6Echo port dst src data s
  | .foreignFrame port => Sys2Proof.Machine.execForeignFrame port s
  | .eytRtoExpire sess psn => Sys2Proof.Machine.execEytRtoExpire sess psn s
  | .carrelFullRetry sess psn => Sys2Proof.Machine.execCarrelFullRetry sess psn s
  | .eytAckDelay sess => Sys2Proof.Machine.execEytAckDelay sess s
  | .eytKeepaliveTimer sess => Sys2Proof.Machine.execEytKeepaliveTimer sess s
  | .eytSessionDead sess => Sys2Proof.Machine.execEytSessionDead sess s
  | .eyeletLinkDown port => Sys2Proof.Machine.execEyeletLinkDown port s
  | .eyeletLinkUp port ok => Sys2Proof.Machine.execEyeletLinkUp port ok s
  | .mailboxOwnWrite fn k ctrl => Sys2Proof.Machine.execMailboxOwnWrite fn k ctrl s
  | .mailboxCancel fn k => Sys2Proof.Machine.execMailboxCancel fn k s
  | .queuedTimeout mb => Sys2Proof.Machine.execQueuedTimeout mb s
  | .authLockExpire => Sys2Proof.Machine.execAuthLockExpire s
  | .inventory mb => Sys2Proof.Machine.execInventory mb s
  | .errRead mb => Sys2Proof.Machine.execErrRead mb s
  | .provRead mb => Sys2Proof.Machine.execProvRead mb s
  | .condRead mb => Sys2Proof.Machine.execCondRead mb s
  | .mbxAssign mb => Sys2Proof.Machine.execMbxAssign mb s
  | .jobLoad mb => Sys2Proof.Machine.execJobLoad mb s
  | .jobStart mb => Sys2Proof.Machine.execJobStart mb s
  | .jobPause mb => Sys2Proof.Machine.execJobPause mb s
  | .jobResume mb => Sys2Proof.Machine.execJobResume mb s
  | .jobKill mb => Sys2Proof.Machine.execJobKill mb s
  | .killDrainEnd job => Sys2Proof.Machine.execKillDrainEnd job s
  | .jobNormalEnd job => Sys2Proof.Machine.execJobNormalEnd job s
  | .jobStatus mb => Sys2Proof.Machine.execJobStatus mb s
  | .aperture mb => Sys2Proof.Machine.execAperture mb s
  | .memStatus mb => Sys2Proof.Machine.execMemStatus mb s
  | .portCfg mb => Sys2Proof.Machine.execPortCfg mb s
  | .sessOpen mb => Sys2Proof.Machine.execSessOpen mb s
  | .sessClose mb => Sys2Proof.Machine.execSessClose mb s
  | .selftest mb r => Sys2Proof.Machine.execSelftest mb r s
  | .pwrLimit mb => Sys2Proof.Machine.execPwrLimit mb s
  | .domain mb => Sys2Proof.Machine.execDomain mb s
  | .clockCap mb => Sys2Proof.Machine.execClockCap mb s
  | .thermal mb => Sys2Proof.Machine.execThermal mb s
  | .snapCfgSet mb => Sys2Proof.Machine.execSnapCfgSet mb s
  | .snapCfgRead mb => Sys2Proof.Machine.execSnapCfgRead mb s
  | .snapCfgCaps mb => Sys2Proof.Machine.execSnapCfgCaps mb s
  | .snapNowTake mb => Sys2Proof.Machine.execSnapNowTake mb s
  | .snapNowArchiveConfirm mb => Sys2Proof.Machine.execSnapNowArchiveConfirm mb s
  | .snapNowAbandon mb => Sys2Proof.Machine.execSnapNowAbandon mb s
  | .restore mb => Sys2Proof.Machine.execRestore mb s
  | .pmuCfgLedger mb => Sys2Proof.Machine.execPmuCfgLedger mb s
  | .pmuCfgSlips mb => Sys2Proof.Machine.execPmuCfgSlips mb s
  | .pmuCfgFilter mb => Sys2Proof.Machine.execPmuCfgFilter mb s
  | .pmuCfgBinding mb => Sys2Proof.Machine.execPmuCfgBinding mb s
  | .pmuCfgEvent mb => Sys2Proof.Machine.execPmuCfgEvent mb s
  | .pmuCfgDirectory mb => Sys2Proof.Machine.execPmuCfgDirectory mb s
  | .regrd mb => Sys2Proof.Machine.execRegrd mb s
  | .regwr mb => Sys2Proof.Machine.execRegwr mb s
  | .jobSeqRunWrite mb => Sys2Proof.Machine.execJobSeqRunWrite mb s
  | .thmSensDisable mb => Sys2Proof.Machine.execThmSensDisable mb s
  | .allowRead mb => Sys2Proof.Machine.execAllowRead mb s
  | .fwUpdate mb agentsOk => Sys2Proof.Machine.execFwUpdate mb agentsOk s
  | .licenceInstall mb => Sys2Proof.Machine.execLicenceInstall mb s
  | .keyChange mb => Sys2Proof.Machine.execKeyChange mb s
  | .debugUnlock mb => Sys2Proof.Machine.execDebugUnlock mb s
  | .debugUnlockExpire => Sys2Proof.Machine.execDebugUnlockExpire s
  | .condEditAppend mb => Sys2Proof.Machine.execCondEditAppend mb s
  | .condEditClear mb => Sys2Proof.Machine.execCondEditClear mb s
  | .deviceReset mb => Sys2Proof.Machine.execDeviceReset mb s
  | .deviceResetStart => Sys2Proof.Machine.execDeviceResetStart s
  | .pair mb => Sys2Proof.Machine.execPair mb s
  | .unpair mb => Sys2Proof.Machine.execUnpair mb s
  | .debugRead mb => Sys2Proof.Machine.execDebugRead mb s
  | .debugRelease mb => Sys2Proof.Machine.execDebugRelease mb s
  | .ownerSet mb => Sys2Proof.Machine.execOwnerSet mb s
  | .tapInstruction ir => Sys2Proof.Machine.execTapInstruction ir s
  | .domainPowerGrant d => Sys2Proof.Machine.execDomainPowerGrant d s
  | .loadNoticeLeadEnd d => Sys2Proof.Machine.execLoadNoticeLeadEnd d s
  | .domainSoftStartDone d mv => Sys2Proof.Machine.execDomainSoftStartDone d mv s
  | .domainPowerOffDone d => Sys2Proof.Machine.execDomainPowerOffDone d s
  | .domainGrantTimeout d => Sys2Proof.Machine.execDomainGrantTimeout d s
  | .domainTrip d ampsD => Sys2Proof.Machine.execDomainTrip d ampsD s
  | .feedSuspect n ampsD expD senseMv => Sys2Proof.Machine.execFeedSuspect n ampsD expD senseMv s
  | .feedFault n ampsD expD senseMv => Sys2Proof.Machine.execFeedFault n ampsD expD senseMv s
  | .feedLost b senseMv => Sys2Proof.Machine.execFeedLost b senseMv s
  | .governorPeakTick p => Sys2Proof.Machine.execGovernorPeakTick p s
  | .governorSustTick avgW activity => Sys2Proof.Machine.execGovernorSustTick avgW activity s
  | .hbmPgDeassert side => Sys2Proof.Machine.execHbmPgDeassert side s
  | .railOutOfRange rail mv => Sys2Proof.Machine.execRailOutOfRange rail mv s
  | .refLoss => Sys2Proof.Machine.execRefLoss s
  | .refReturn => Sys2Proof.Machine.execRefReturn s
  | .holdoverExpire => Sys2Proof.Machine.execHoldoverExpire s
  | .freqChangeStart r => Sys2Proof.Machine.execFreqChangeStart r s
  | .freqChangeRestart r => Sys2Proof.Machine.execFreqChangeRestart r s
  | .marginWarn r code path => Sys2Proof.Machine.execMarginWarn r code path s
  | .stretchLimitExceeded r n => Sys2Proof.Machine.execStretchLimitExceeded r n s
  | .marginLimitRaise r => Sys2Proof.Machine.execMarginLimitRaise r s
  | .vfAgeStep c k => Sys2Proof.Machine.execVfAgeStep c k s
  | .sensorSample r n tempQ apart => Sys2Proof.Machine.execSensorSample r n tempQ apart s
  | .thermalCheck => Sys2Proof.Machine.execThermalCheck s
  | .thermalRelease => Sys2Proof.Machine.execThermalRelease s
  | .resetRelease c => Sys2Proof.Machine.execResetRelease c s
  | .snapshotFreezeDone job => Sys2Proof.Machine.execSnapshotFreezeDone job s
  | .snapLayerConfirm job layer trailer => Sys2Proof.Machine.execSnapLayerConfirm job layer trailer s
  | .snapLayerFail job layer => Sys2Proof.Machine.execSnapLayerFail job layer s
  | .archiveConfirmTimeout job => Sys2Proof.Machine.execArchiveConfirmTimeout job s
  | .healthScoreUpdate => Sys2Proof.Machine.execHealthScoreUpdate s
  | .suspectEngineTest c e pass => Sys2Proof.Machine.execSuspectEngineTest c e pass s
  | .registrarCoreFail n => Sys2Proof.Machine.execRegistrarCoreFail n s
  | .hostLaneFault width => Sys2Proof.Machine.execHostLaneFault width s
  | .ledgerLatch => Sys2Proof.Machine.execLedgerLatch s
  | .ledgerHeaderWrite => Sys2Proof.Machine.execLedgerHeaderWrite s
  | .callSlipWrite c q m => Sys2Proof.Machine.execCallSlipWrite c q m s
  | .periodStretch r code path => Sys2Proof.Machine.execPeriodStretch r code path s
  | .hbmPgAssert side => Sys2Proof.Machine.execHbmPgAssert side s
  | .powerRemoval => Sys2Proof.Machine.execPowerRemoval s
  | .bar0Write fn off bytes => Sys2Proof.Machine.execBar0Write fn off bytes s
  | .pcieConfigWrite fn op => Sys2Proof.Machine.execPcieConfigWrite fn op s
  | .spdmDoeRequest req => Sys2Proof.Machine.execSpdmDoeRequest req s
  | .pfcPauseFrame port prio pause => Sys2Proof.Machine.execPfcPauseFrame port prio pause s
  | .preFecBerLimit port => Sys2Proof.Machine.execPreFecBerLimit port s
  | .commandComplete mb => Sys2Proof.Machine.execCommandComplete mb s

end Sys2Proof.Machine
end

