-- ==== Sys2Proof/Safety.lean ====
section
/-!
DEFINITION. What a safe run is, in the terms claims use: a step that answers a next state, and the invariant that every
step keeps.
-/
namespace Sys2Proof

/-- A step of this state answers a next state. -/
def Machine.State.Steps (s : Machine.State) : Prop := ∃ t, Machine.step s = Host.Outcome.next t

/-- Memory, tags and poison are in their one canonical form. -/
def Machine.State.Canonical (s : Machine.State) : Prop :=
  Machine.Memory.wf s.mem = true ∧ Machine.setWf s.full = true ∧ Machine.setWf s.poison = true

/-- The Registrar's lists keep the sizes the spec gives them: 4,096 records in the ring and 256 in the journal (R312), at
most eight jobs (R324), and 4,096 field entries in the condition report (R391). -/
def Machine.State.Bounded (s : Machine.State) : Prop :=
  s.reg.ring.length ≤ 4096 ∧ s.reg.journal.length ≤ 256 ∧ s.reg.jobs.length ≤ 8 ∧ s.flash.field.length ≤ 4096

/-- DEV_STATE and OWNER_STATE hold values of Table 12-3. -/
def Machine.State.LegalModes (s : Machine.State) : Prop := s.reg.devState.toNat ≤ 3 ∧ s.reg.ownerState.toNat ≤ 2

/-- The invariant of the machine, which every step keeps. -/
def Machine.State.Sound (s : Machine.State) : Prop := s.Canonical ∧ s.Bounded ∧ s.LegalModes

namespace Machine

/-- Sequencer q of core c stands at this instruction and may issue it: it runs, fewer than two instructions are in flight,
no earlier DLOAD writes a descriptor that it names, no fault is due, and its reserved bits are zero (R31, R32, R37, R461). -/
def State.Offers (s : State) (c : CoreId) (q : SeqId) (word rsv : Word128) (names : List Nat) : Prop :=
  mayIssue s c q = true ∧ (getSeq s c q).infl.length < 2 ∧ dloadPending (getSeq s c q) names = false ∧
    fetched (getSeq s c q) = word ∧ (getSeq s c q).pendFault = 0 ∧ word &&& rsv = 0

/-- Going on at instruction n leaves the sequencer inside its half, loop levels counted (R461). -/
def State.RunsOn (s : State) (c : CoreId) (q : SeqId) (n : Nat) : Prop :=
  (loopStep n (getSeq s c q).loops).1 < halfLen q

/-- A sequencer that has issued an instruction and goes on at instruction n. -/
def SeqState.past (x : SeqState) (opc : BitVec 8) (n : Nat) : SeqState :=
  { x with
    lastOpc := opc, ran := true, dormant := false, st := .issuing, pc := (loopStep n x.loops).1
    loops := (loopStep n x.loops).2 }

/-- An instruction is in flight, its core lets it go on, and none of its accesses is open. -/
def State.Landed (s : State) (c : CoreId) (q : SeqId) (word : Word128) (y : InFlight) : Prop :=
  carriesOn s c q = true ∧ flightOf s c q word = some y ∧ y.todo = []

/-- Accesses are presented; where all of them execute at once the instruction completes with an effect, else it stays in
flight with those that did not. -/
def presents (s : State) (c : CoreId) (q : SeqId) (word : Word128) (ev : List EccEvent) (l : List Access)
    (f : State → State) : State :=
  match tryFlight s c q word ev l with
  | (t, true) => f (dropFlight t c q word)
  | (t, false) => t

/-- A source operand of a Welt instruction: its descriptor, whether it lies in the cache, and its bytes. -/
def srcOpnd (i : Nat) (cached : Bool) (len : Nat) : WOpnd := { idx := i, cached := cached, dst := false, len := some len }

/-- A destination operand of a Welt instruction. -/
def dstOpnd (i : Nat) (cached : Bool) (len : Nat) : WOpnd := { idx := i, cached := cached, dst := true, len := some len }

/-- The operands of a Welt instruction in flight, with their descriptors as it took them at issue. -/
def weltOperands (y : InFlight) (os : List WOpnd) : List (WOpnd × Descr) := os.map fun o => (o, descrOf (smapGet 0 y.view o.idx))

/-- A Welt instruction is in flight, its sources in Stacks have been read by the accesses a, and no source is poisoned. -/
def State.WeltHas (s : State) (c : CoreId) (wl : Fin 2) (word : Word128) (os : List WOpnd) (y : InFlight) (a : List Access) : Prop :=
  s.Landed c (weltSeq wl) word y ∧ y.got = [a] ∧ weltPoison (getWelt s c wl) (weltOperands y os) a = false

/-- It computes r from its operands' bytes, presents what goes to Stacks and, where all of that executes at once, completes:
results for the cache, status word and element count, and what else its completion does. -/
def weltRuns (s : State) (c : CoreId) (wl : Fin 2) (word : Word128) (ev : List EccEvent) (l : List (WOpnd × Descr)) (a : List Access)
    (r : (Nat → List Byte) → WRes) (post : (Nat → List Byte) → State → State) : State :=
  presents s c (weltSeq wl) word ev (weltWrites s c l (r (weltData (getWelt s c wl) l a))) fun u =>
    post (weltData (getWelt u c wl) l a) (weltFinish u c wl l (r (weltData (getWelt u c wl) l a)))

/-- The mailbox holds a command of this code that runs and passes its checks. -/
def State.Runs (s : State) (k : Fin 16) (code : Nat) (allow : State → Mailbox → BitVec 16) : Prop :=
  running s k code = true ∧ allow s (getMb s k) = 0

/-- Two states differ in core c only. -/
def State.OnlyCore (s t : State) (c : CoreId) : Prop := ∃ k, t = modCore s c fun _ => k

end Machine

end Sys2Proof
end

