-- ==== Sys2Proof/Certificates/Slice0/Obligations.lean ====
section
/-!
DEFINITION. The statements for the provers: what the block does, command family by command family, from the spec's rules.
-/
open Sys2Proof Sys2Proof.Machine

/-- A step takes the command at the front of the queue and has its effect on the state that holds the rest of the queue. -/
def Obligations.StepRunsFront : Prop :=
  ∀ (c : Instr) (rest : List Instr) (s : State), s.pending = c :: rest → step s = exec c { s with pending := rest }

/-- The model's choice (log entry 2): with no command waiting, a step lets one microsecond pass. DEVICE_TIME advances by 1,000 ns
where domain D25 is ON; every core whose clock runs counts its cycles in JOB_CYCLES; nothing else of any core and nothing else of
the device changes. -/
def Obligations.StepIdles : Prop :=
  ∀ s : State, s.pending = [] → ∃ t, step s = .next t ∧
    (t.reg.time = if (vget s.power.doms 25).state = 1 then s.reg.time + 1000 else s.reg.time) ∧
    (∀ c : CoreId, getCore t c = { getCore s c with
      cycles := if (vget s.power.doms 25).state = 1 ∧ coreClocked s c = true then
        (getCore s c).cycles + ((vget s.clock.regions (finOf 15 (by decide) c.val)).cur).setWidth 64 else (getCore s c).cycles }) ∧
    t = { s with cores := t.cores, reg := { s.reg with time := t.reg.time } }

/-- At reset the machine is sound: memory, tags and poison in canonical form, the Registrar's lists inside their sizes, and
DEV_STATE and OWNER_STATE hold values of their table. -/
def Obligations.ResetSound : Prop := State.reset.Sound

/-- From every sound state, whatever command is in front, a step that answers a next state answers a sound one: memory, tags and
poison stay canonical, the ring holds at most 4,096 records, the journal 256, at most eight jobs stand, the report's field section
holds at most 4,096 entries, and DEV_STATE and OWNER_STATE stay values of Table 12-3. -/
def Obligations.StepKeepsSound : Prop := ∀ s t : State, s.Sound → step s = .next t → t.Sound

/-- From every sound state a step that answers a next state leaves the queue without its front command and otherwise as it was:
no command enters the queue by itself, and none is lost or reordered. -/
def Obligations.StepDropsFront : Prop := ∀ s t : State, s.Sound → step s = .next t → t.pending = s.pending.tail

/-- A sequencer that stands at NOP, LOOP, JMP, DADV, SWAPI, WAIT or HALT and may issue executes it. NOP goes on at the next instruction.
LOOP with COUNT 0 skips the body; else it opens a level over the next LEN instructions, at most the fourth. JMP goes OFFSET
instructions on and keeps the levels whose bodies hold its target. DADV adds DELTA to the SA of descriptor D and goes on. SWAPI,
when the other half is loaded, goes to instruction 0 of that half and ends every level. WAIT goes on once its engine is idle. HALT
stops: the sequencer is halted, has ended and holds CODE, and its RUN bit clears (log entry 18); CODE 0 changes nothing else, and any other
CODE sets its bit in JOB_SEQ_ERR and writes the records that kill the job with that CODE. Each equation names the whole next state. -/
def Obligations.SequencerGoesOn : Prop := ∀ (s : State) (c : CoreId) (q : SeqId) (w : BitVec 120),
  (s.Offers c q (instrWord 0x00 w) (mask128 119 0) [] → s.RunsOn c q ((getSeq s c q).pc + 1) →
    exec (.nop c q w) s = .next (modSeq s c q fun x => x.past 0x00 (x.pc + 1))) ∧
  (s.Offers c q (instrWord 0x02 w) (mask128 119 0) [] → engineIdle s c q = true → s.RunsOn c q ((getSeq s c q).pc + 1) →
    exec (.wait c q w) s = .next (modSeq s c q fun x => x.past 0x02 (x.pc + 1))) ∧
  (s.Offers c q (instrWord 0x03 w) (mask128 119 44) [] → fld w 32 12 ≠ 0 → (getSeq s c q).pc + fld w 32 12 < halfLen q →
    (getSeq s c q).loops.length < 4 →
    (fld w 0 32 = 0 → s.RunsOn c q ((getSeq s c q).pc + 1 + fld w 32 12) →
      exec (.loop c q w) s = .next (modSeq s c q fun x => x.past 0x03 (x.pc + 1 + fld w 32 12))) ∧
    (fld w 0 32 ≠ 0 → exec (.loop c q w) s = .next (modSeq s c q fun x => { x with
      lastOpc := 0x03, ran := true, dormant := false, st := .issuing, pc := x.pc + 1,
      loops := { first := x.pc + 1, len := fld w 32 12, left := fld w 0 32 } :: x.loops }))) ∧
  (s.Offers c q (instrWord 0x04 w) (mask128 119 32) [] → ∀ n : Nat, (n : Int) = (getSeq s c q).pc + sfld w 0 32 → n < halfLen q →
    exec (.jmp c q w) s = .next (modSeq s c q fun x => { x with
      lastOpc := 0x04, ran := true, dormant := false, st := .issuing, pc := n, loops := levelsAround n x.loops })) ∧
  (s.Offers c q (instrWord 0x05 w) (mask128 111 32) [fld w 112 8] → s.RunsOn c q ((getSeq s c q).pc + 1) →
    exec (.dadv c q w) s = .next (modSeq s c q fun x => { x.past 0x05 (x.pc + 1) with
      desc := smapSet 0 x.desc (fld w 112 8) (addSa (smapGet 0 x.desc (fld w 112 8)) (w.extractLsb' 0 32)) })) ∧
  (s.Offers c q (instrWord 0x07 w) (mask128 119 0) [] → (getSeq s c q).altReady = true →
    exec (.swapi c q w) s = .next (modSeq s c q fun x => { x with
      lastOpc := 0x07, ran := true, dormant := false, st := .issuing, half := !x.half, pc := 0, loops := [], altReady := false })) ∧
  (s.Offers c q (instrWord 0x01 w) (mask128 119 16) [] → ∃ t, t = modCore s c (fun k => { k with
      seqRun := setBit k.seqRun q.val false,
      seqs := vmod k.seqs q fun x => { x with
        lastOpc := 0x01, ran := true, dormant := false, st := .halted, ended := true, haltCode := w.extractLsb' 0 16 } }) ∧
    (w.extractLsb' 0 16 = 0 → exec (.halt c q w) s = .next t) ∧
    (w.extractLsb' 0 16 ≠ 0 → exec (.halt c q w) s =
      .next (faultRecords (modCore t c fun k => { k with seqErr := setBit k.seqErr q.val true }) c q 0x01 (w.extractLsb' 0 16))))

/-- Where a sequencer may issue, a control instruction with a reserved bit set faults BAD_OPC; LOOP faults BAD_OPC with LEN 0,
PC_RANGE with a body past the half and LOOP_DEPTH as a fifth level; JMP faults PC_RANGE outside the half; BARRIER, FRAME and ILOAD
on a sequencer other than the core controller fault BAD_OPC; and NOP as the last instruction of its half faults PC_RANGE. -/
def Obligations.ControlFaults : Prop := ∀ (s : State) (c : CoreId) (q : SeqId) (w : BitVec 120) (ev : List EccEvent),
  (mayIssue s c q = true → (getSeq s c q).infl.length < 2 → (getSeq s c q).pendFault = 0 →
    (fetched (getSeq s c q) = instrWord 0x00 w → instrWord 0x00 w &&& mask128 119 0 ≠ 0 →
      exec (.nop c q w) s = .next (seqFault s c q 0x00 0x01)) ∧
    (fetched (getSeq s c q) = instrWord 0x04 w → instrWord 0x04 w &&& mask128 119 32 ≠ 0 →
      exec (.jmp c q w) s = .next (seqFault s c q 0x04 0x01))) ∧
  (s.Offers c q (instrWord 0x03 w) (mask128 119 44) [] →
    (fld w 32 12 = 0 → exec (.loop c q w) s = .next (seqFault s c q 0x03 0x01)) ∧
    (fld w 32 12 ≠ 0 → halfLen q ≤ (getSeq s c q).pc + fld w 32 12 → exec (.loop c q w) s = .next (seqFault s c q 0x03 0x0E)) ∧
    (fld w 32 12 ≠ 0 → (getSeq s c q).pc + fld w 32 12 < halfLen q → 4 ≤ (getSeq s c q).loops.length →
      exec (.loop c q w) s = .next (seqFault s c q 0x03 0x05))) ∧
  (s.Offers c q (instrWord 0x04 w) (mask128 119 32) [] →
    (getSeq s c q).pc + sfld w 0 32 < 0 ∨ (halfLen q : Int) ≤ (getSeq s c q).pc + sfld w 0 32 →
    exec (.jmp c q w) s = .next (seqFault s c q 0x04 0x0E)) ∧
  (q ≠ ccSeq →
    (s.Offers c q (instrWord 0x0C w) (mask128 119 24 ||| mask128 15 12) [] →
      exec (.barrier c q w) s = .next (seqFault s c q 0x0C 0x01)) ∧
    (s.Offers c q (instrWord 0x0D w) (mask128 119 3) [] → exec (.frame c q w) s = .next (seqFault s c q 0x0D 0x01)) ∧
    (s.Offers c q (instrWord 0x0E w) 0 [] → exec (.iload c q w ev) s = .next (seqFault s c q 0x0E 0x01))) ∧
  (s.Offers c q (instrWord 0x00 w) (mask128 119 0) [] → ¬s.RunsOn c q ((getSeq s c q).pc + 1) →
    exec (.nop c q w) s = .next (seqFault (issued s c q 0x00) c q 0x00 0x0E))

/-- A fault stops its sequencer: it stands in FAULT at the instruction with the code, nothing of it in flight and its bit set in
JOB_SEQ_ERR. Where a job that is not yet killed holds the core, every core of the job that is not LOST reads SCRUB with no
sequencer running, and the job is killed with the code as its last fault. No byte of memory changes. -/
def Obligations.FaultStopsSequencer : Prop := ∀ (s : State) (c : CoreId) (q : SeqId) (opc code : BitVec 8),
  ∃ t, t = seqFault s c q opc code ∧
    (getSeq t c q).st = .fault ∧ (getSeq t c q).fault = code ∧ (getSeq t c q).infl = [] ∧ (getSeq t c q).pc = (getSeq s c q).pc ∧
    bit (getCore t c).seqErr q.val = true ∧ t.mem = s.mem ∧ t.full = s.full ∧ t.poison = s.poison ∧
    (∀ j, jobOn s c = some j → j.killed = false →
      (∀ d ∈ j.cores, (getCore t d).seqRun = 0 ∧
        (getCore t d).st = if (getCore s d).st = .lost then .lost else .scrub) ∧
      ∃ x, findJob t j.id = some x ∧ x.killed = true ∧ x.state = 6 ∧ x.lastFault = code)

/-- An engine instruction at which a sequencer stands and may issue: a failed check faults it with the check's code; else an
operand whose first slot does not let it begin puts the sequencer in WAIT_TAG; else a remote operand without a credit puts it in
WAIT_CREDIT; else, where nothing of the engine holds it, it enters flight with the descriptors of its issue, is carried as far as
its accesses allow, and the sequencer goes on past it unless it has faulted. -/
def Obligations.EngineIssues : Prop := ∀ (s : State) (c : CoreId) (q : SeqId) (word rsv : Word128) (ev : List EccEvent) (p : Plan)
    (script : State → InFlight → Phase),
  flightOf s c q word = none → s.Offers c q word rsv p.names →
  (∀ f, p.bad = some f → engineInstr s c q word rsv ev p script = seqFault s c q (opcodeOf word) f) ∧
  (p.bad = none →
    ((∃ o ∈ p.ops, tagHolds s c (opnd s c q o.1) = true) →
      engineInstr s c q word rsv ev p script = modSeq s c q fun x => { x with st := .waitTag }) ∧
    ((∀ o ∈ p.ops, tagHolds s c (opnd s c q o.1) = false) →
      ((∃ o ∈ p.ops, noCredit (getSeq s c q) (opnd s c q o.1) o.2 = true) →
        engineInstr s c q word rsv ev p script = modSeq s c q fun x => { x with st := .waitCredit }) ∧
      ((∀ o ∈ p.ops, noCredit (getSeq s c q) (opnd s c q o.1) o.2 = false) → p.held = none →
        ∃ t, t = carry c q word ev script phaseLimit (modSeq (p.atIssue (issued s c q (opcodeOf word))) c q fun x => { x with
            infl := x.infl ++ [{ word := word, view := x.desc, got := [], todo := [], notes := p.notes }] }) ∧
          engineInstr s c q word rsv ev p script =
            if (getSeq t c q).st = .fault then t else advance t c q (opcodeOf word))))

/-- A DLOAD whose operand has been read, none of its slots poisoned, completes: descriptor D becomes the first 16 bytes of the
stream, and nothing else changes but that the instruction leaves flight. An ILOAD so read fills half 0 of a dormant sequencer,
which then runs, or else the inactive half of sequencer SEQ, and marks it loaded. A poisoned slot faults either POISON. -/
def Obligations.LoadsComplete : Prop := ∀ (s : State) (c : CoreId) (q : SeqId) (w : BitVec 120) (ev : List EccEvent) (y : InFlight)
    (l : List Access), y.got = [l] →
  (s.Landed c q (instrWord 0x06 w) y →
    (opndPoison l 0 = false → exec (.dload c q w ev) s =
      .next (modSeq s c q fun x => { x with
        infl := x.infl.filter fun z => z.word != instrWord 0x06 w,
        desc := smapSet 0 x.desc (fld w 112 8) (BitVec.ofNat 128 (leNat (opndData l 0))) })) ∧
    (opndPoison l 0 = true → exec (.dload c q w ev) s = .next (seqFault s c q 0x06 0x0A))) ∧
  (s.Landed c ccSeq (instrWord 0x0E w) y →
    (opndPoison l 0 = true → exec (.iload c ccSeq w ev) s = .next (seqFault s c ccSeq 0x0E 0x0A)) ∧
    (opndPoison l 0 = false → ∀ d : SeqId, d = seqOf (fld w 0 4) → d ≠ ccSeq → ∃ t, exec (.iload c ccSeq w ev) s = .next t ∧
      ((getSeq s c d).dormant = true → (getSeq t c d).imem0 = imemOf (opndData l 0) ∧ (getSeq t c d).pc = 0 ∧
        (getSeq t c d).half = false ∧ ((getCore s c).st = .running → bit (getCore t c).seqRun d.val = true)) ∧
      ((getSeq s c d).dormant = false → getSeq t c d = { getSeq s c d with
          altReady := true,
          imem0 := if (getSeq s c d).half then imemOf (opndData l 0) else (getSeq s c d).imem0,
          imem1 := if (getSeq s c d).half then (getSeq s c d).imem1 else imemOf (opndData l 0) }) ∧
      (∀ e : SeqId, e ≠ d → e ≠ ccSeq → getSeq t c e = getSeq s c e) ∧ s.OnlyCore t c))

/-- On the core controller, BARRIER with every core of its mask placed and reachable sends one arrival with BAR_ID to each core of the
mask, goes on to the next instruction in its PC, and waits (WAIT_BARRIER) until an arrival from every core of the mask is held. FRAME
requests a frame table and goes on; FRAME_TAKES_EFFECT makes the requested table the selected one; nothing else changes. A BARRIER
that waits under a job timeout faults BARRIER_TIMEOUT, and no BARRIER is then open. -/
def Obligations.BarrierAndFrame : Prop := ∀ (s : State) (c : CoreId) (w : BitVec 120),
  (s.Offers c ccSeq (instrWord 0x0C w) (mask128 119 24 ||| mask128 15 12) [] → s.RunsOn c ccSeq ((getSeq s c ccSeq).pc + 1) →
    fld w 0 12 < 2 ^ jobCores s c → (∀ d ∈ maskCores s c (fld w 0 12), noRoute s c d.val = false) →
    ∃ t, exec (.barrier c ccSeq w) s = .next t ∧
      t.lacing.flight.length = s.lacing.flight.length + (maskCores s c (fld w 0 12)).length ∧
      ((∃ d ∈ maskCores s c (fld w 0 12), (d, w.extractLsb' 16 8) ∉ (getCore s c).arrivals) →
        (getCore t c).barrier = some (w.extractLsb' 16 8, maskCores s c (fld w 0 12)) ∧ (getSeq t c ccSeq).st = .waitBarrier) ∧
      ((∀ d ∈ maskCores s c (fld w 0 12), (d, w.extractLsb' 16 8) ∈ (getCore s c).arrivals) →
        (getCore t c).barrier = none ∧ (getSeq t c ccSeq).st = .issuing)) ∧
  (s.Offers c ccSeq (instrWord 0x0D w) (mask128 119 3) [] → s.RunsOn c ccSeq ((getSeq s c ccSeq).pc + 1) →
    exec (.frame c ccSeq w) s = .next (modCore s c fun k => { k with
      framePend := some (w.extractLsb' 0 3), seqs := vmod k.seqs ccSeq fun x => x.past 0x0D (x.pc + 1) })) ∧
  (∀ n, (getCore s c).framePend = some n →
    exec (.frameTakesEffect c) s = .next (modCore s c fun k => { k with frameSel := n, framePend := none })) ∧
  ((getCore s c).barrier.isSome = true → (getCore s c).stk.tagTmoUs ≠ 0 → (getCore s c).st = .running →
    exec (.barrierTimeout c) s = .next (seqFault (modCore s c fun k => { k with barrier := none }) c ccSeq 0x0C 0x07))

/-- In a slot of the requester's class a bank takes an open local access that nothing holds back. One that does not pass takes a waiter
entry while its bank has one of twelve free. One that passes and is chosen executes: a write changes exactly its own bytes to its
data, a read returns the bytes that stand there, a clean read changes no byte, and in both the slot's tag becomes what Table 03-6
gives for the tag mode, no other slot's tag changing. An access that waits on its tag under a running job with a timeout is freed and
its sequencer faults TAG_TIMEOUT; a parked remote access is answered with status TAG_TIMEOUT and leaves. -/
def Obligations.BankExecutesAccess : Prop := ∀ (s : State) (c : CoreId) (cyc n : Nat) (q : SeqId) (e : Ecc) (a : Access),
  (openAt (getSeq s c q) n = some a → a.place = .here → a.phase = .todo ∨ a.phase = .parked true ∨ a.phase = .parked false →
    coreClocked s c = true → frameOwner (frameTable (getCore s c)) cyc = frameClass q →
    heldBack s c (presentedBefore (getSeq s c q) n) a = false →
    (localPasses s c a = true → isChosen s c q n (bankOf s c a.addr) = true →
      ∃ t b, exec (.stacksAccessExecute c cyc (.engine q n) e) s = .next t ∧ b.phase = .done ∧
        getSeq t c q = setOpen (getSeq s c q) n b ∧ (∀ p, p ≠ q → getSeq t c p = getSeq s c p) ∧
        (s.Canonical → isFull t (slotOf c a.addr) = tagAfter a.tm (isFull s (slotOf c a.addr)) ∧
          (∀ m, m ≠ slotOf c a.addr → isFull t m = isFull s m)) ∧
        (a.write = true →
          (∀ x, x < stacksAddr c a.addr + a.lo ∨ stacksAddr c a.addr + a.lo + a.data.length ≤ x → memGet t.mem x = memGet s.mem x) ∧
          (s.Canonical → ∀ i (h : i < a.data.length), memGet t.mem (stacksAddr c a.addr + a.lo + i) = a.data[i]) ∧
          (a.lo = 0 → a.data.length = 64 → a.addr % 64 = 0 → s.Canonical → isPoison t (slotOf c a.addr) = a.poison)) ∧
        (a.write = false → t.mem = s.mem ∧ b.data = memRead s.mem (stacksAddr c a.addr + a.lo) a.len ∧
          (e = .clean → b.poison = isPoison s (slotOf c a.addr) ∧ t.poison = s.poison) ∧
          (e = .uncorrectable → b.poison = true))) ∧
    (localPasses s c a = false → a.phase = .todo → localWaiters s c (bankOf s c a.addr) < 12 →
      ∃ t, exec (.stacksAccessExecute c cyc (.engine q n) e) s = .next t ∧
        getSeq t c q = setOpen (getSeq s c q) n { a with phase := .parked true } ∧
        t.mem = s.mem ∧ t.full = s.full ∧ t.poison = s.poison ∧ s.OnlyCore t c)) ∧
  (openAt (getSeq s c q) n = some a → (∃ b, a.phase = .parked b) → (getCore s c).stk.tagTmoUs ≠ 0 → (getCore s c).st = .running →
    exec (.tagTimeout c (.engine q n)) s = .next (seqFault s c q (opcodeOfOpen (getSeq s c q) n) 0x06)) ∧
  ((getSeq s c q).st = .waitTag → (getCore s c).stk.tagTmoUs ≠ 0 → (getCore s c).st = .running →
    exec (.tagTimeout c (.issue q)) s = .next (seqFault s c q (opcodeOf (fetched (getSeq s c q))) 0x06)) ∧
  (∀ r, (getCore s c).stk.remote[n]? = some r → r.parked = true → (getCore s c).stk.tagTmoUs ≠ 0 → (getCore s c).st = .running →
    exec (.tagTimeout c (.remote n)) s =
      .next (modStk (respond s r.flit 4 [] false) c fun k => { k with remote := k.remote.eraseIdx n }))

/-- A corrected slot is written back and leaves the list of slots that wait for it. A patrol read of the slot whose turn it is moves the
patrol on, and after the last slot starts a new pass that PASSES counts. The mirror entry of a Carrel follows the Carrel. On a core
without a job, a bank marked REPAIR_PENDING takes a free spare of its cluster and reads zeros afterwards, or, with none, has its set
marked for retirement; a set so marked leaves service where at least 18 remain, and STK_SIZE drops by 64 MiB. When the scrub of a killed
job ends with no core held, every core that is neither LOST nor fenced is IDLE with no job, all its Stacks bytes read zero, and the
job's ID is free. -/
def Obligations.StacksUpkeep : Prop := ∀ (s : State) (c : CoreId),
  (∀ sa : BitVec 32, exec (.correctedWriteback c sa) s =
    .next (modStk s c fun k => { k with fixups := k.fixups.erase (slotOf c sa.toNat) })) ∧
  (∀ sa : BitVec 32, sa.toNat % 64 = 0 → sa.toNat < stkSize s c → inScrub (getCore s c).stk sa.toNat = false → targetDown s c = false →
    (getCore s c).stk.patrolAt = sa.toNat →
    exec (.patrolRead c sa .clean) s = .next (modStk s c fun k =>
      if sa.toNat + 64 < stkSize s c then { k with patrolAt := sa.toNat + 64 } else { k with patrolAt := 0, passes := k.passes + 1 })) ∧
  (∀ i : Fin 64, exec (.carrelMirrorUpdate c i) s = .next (modStk s c fun k => { k with
    mirror := vset k.mirror i (mirrorOf (vget k.carrels i)) })) ∧
  (∀ bank : Fin 640, (getCore s c).jobId = 0 → bank.val ∈ (getCore s c).stk.repairPend →
    ((if bank.val / 32 < 10 then (getCore s c).stk.spareC0 else (getCore s c).stk.spareC1) ≠ 0 →
      ∃ t, exec (.bankRepair c bank) s = .next t ∧
        (getCore t c).stk.repaired = setAdd (getCore s c).stk.repaired bank.val ∧
        (getCore t c).stk.repairPend = setDel (getCore s c).stk.repairPend bank.val ∧
        (getCore t c).stk.spareC0 + (getCore t c).stk.spareC1 + 1 = (getCore s c).stk.spareC0 + (getCore s c).stk.spareC1 ∧
        (getCore t c).stk.insvc = (getCore s c).stk.insvc ∧
        (∀ x, memGet t.mem x = 0 ∨ memGet t.mem x = memGet s.mem x) ∧
        (∀ r < 32768, ∀ i < 64, memGet t.mem (stacksAddr c
          (windowOf (getCore s c).stk (bank.val / 32) * setBytes + r * 2048 + bank.val % 32 * 64 + i)) = 0)) ∧
    ((if bank.val / 32 < 10 then (getCore s c).stk.spareC0 else (getCore s c).stk.spareC1) = 0 →
      ∃ t, exec (.bankRepair c bank) s = .next t ∧ bit (getCore t c).stk.retirePend (bank.val / 32) = true ∧ t.mem = s.mem)) ∧
  (∀ set : Fin 20, (getCore s c).jobId = 0 → bit (getCore s c).stk.retirePend set.val = true →
    bit (getCore s c).stk.insvc set.val = true →
    (18 < popcount (getCore s c).stk.insvc → ∃ t, exec (.setRetire c set) s = .next t ∧
      (getCore t c).stk.insvc = setBit (getCore s c).stk.insvc set.val false ∧
      bit (getCore t c).stk.retirePend set.val = false ∧ (getCore t c).st = (getCore s c).st) ∧
    (popcount (getCore s c).stk.insvc ≤ 18 → ∃ t, exec (.setRetire c set) s = .next t ∧ (getCore t c).st = .lost ∧
      (getCore t c).stk.insvc = (getCore s c).stk.insvc)) ∧
  (∀ j : Job, findJob s j.id = some j → j.state = 6 → j.draining = false → (∀ d ∈ j.cores, (getCore s d).stk.hold = false) →
    ∃ t, exec (.scrubComplete j.id) s = .next t ∧ findJob t j.id = none ∧
      (∀ d ∈ j.cores, (getCore t d).jobId = 0 ∧ (getCore t d).sets = 0 ∧
        ((getCore s d).st ≠ .lost → (getCore s d).fenced = false → (getCore t d).st = .idle) ∧
        (∀ sa < stkSize s d, memGet t.mem (stacksAddr d sa) = 0)) ∧
      (∀ d, d ∉ j.cores → getCore t d = getCore s d))

/-- A FILL or COPY in flight on a DMA sequencer whose class owns a frame slot completes. FILL writes its constant's low WIDTH bits, repeated
from each slot's byte 0, over D's byte stream; COPY writes S's byte stream, with the poison of the slots that supplied it, over D's; TAGOP
acts on every destination slot, and every byte outside D's byte stream keeps its value. -/
def Obligations.FillCopyWrite : Prop := ∀ (s : State) (c : CoreId) (d : Fin 8) (w : BitVec 120) (y : InFlight),
  classHasSlot (frameTable (getCore s c)) 7 = true →
  (s.Landed c (dmaSeq d) (instrWord 0x10 w) y → ∀ ps, ps = (descrOf (smapGet 0 y.view (fld w 112 8))).pieces →
    ∃ t, exec (.fill c d w) s = .next t ∧
      t = putStream (dropFlight s c (dmaSeq d) (instrWord 0x10 w)) c ps
        (ps.flatMap fun p => (List.range p.len).map fun i => (fillByte (w.extractLsb' 0 64) (fld w 108 2) (p.lo + i), false))
        (fld w 110 2) ∧
      ∀ x, (∀ p ∈ ps, x < stacksAddr c 0 + p.slot + p.lo ∨ stacksAddr c 0 + p.slot + p.lo + p.len ≤ x) →
        memGet t.mem x = memGet s.mem x) ∧
  (s.Landed c (dmaSeq d) (instrWord 0x11 w) y → ∀ ps rs, ps = (descrOf (smapGet 0 y.view (fld w 112 8))).pieces →
    rs = (descrOf (smapGet 0 y.view (fld w 104 8))).pieces →
    ∃ t, exec (.copy c d w []) s = .next t ∧
      t = putStream (dropFlight s c (dmaSeq d) (instrWord 0x11 w)) c ps (readStream s c rs) (fld w 102 2) ∧
      ∀ x, (∀ p ∈ ps, x < stacksAddr c 0 + p.slot + p.lo ∨ stacksAddr c 0 + p.slot + p.lo + p.len ≤ x) →
        memGet t.mem x = memGet s.mem x)

/-- A CROPEN whose record has been read without poison opens Carrel K where no condition of Table 03-11 holds: every register takes the
record's field, the counters are zero and OPEN_SEQ is one higher; with a condition the sequencer faults with its code, BUSY before FORM
before RANGE before OVERLAP. CRCLOSE of an open Carrel returns its registers to zero and keeps its counters and OPEN_SEQ; of a closed one it
faults CARREL_NONE. No other Carrel and no byte of memory changes. -/
def Obligations.CarrelsOpenAndClose : Prop := ∀ (s : State) (c : CoreId) (w : BitVec 120) (ev : List EccEvent) (k : Fin 64),
  k = carrelIdx w →
  (∀ (y : InFlight) (l : List Access) (r : List Byte), s.Landed c ccSeq (instrWord 0x10 w) y → y.got = [l] →
    opndPoison l 0 = false → r = opndData l 0 →
    ((vget (getCore s c).stk.carrels k).opened = true → exec (.cropen c w ev) s = .next (seqFault s c ccSeq 0x10 0x13)) ∧
    ((vget (getCore s c).stk.carrels k).opened = false →
      (carrelForm r (jobCores s c) = true → exec (.cropen c w ev) s = .next (seqFault s c ccSeq 0x10 0x12)) ∧
      (carrelForm r (jobCores s c) = false →
        (allocEnd s c < leAt r 0 4 + leAt r 4 4 → exec (.cropen c w ev) s = .next (seqFault s c ccSeq 0x10 0x11)) ∧
        (leAt r 0 4 + leAt r 4 4 ≤ allocEnd s c →
          (carrelOverlap (getCore s c).stk r = true → exec (.cropen c w ev) s = .next (seqFault s c ccSeq 0x10 0x10)) ∧
          (carrelOverlap (getCore s c).stk r = false → ∃ t, exec (.cropen c w ev) s = .next t ∧
            vget (getCore t c).stk.carrels k = {
              opened := true, tmreq := BitVec.ofNat 2 (leAt r 0x18 1), job := (getCore s c).jobId
              hostMask := BitVec.ofNat 9 (leAt r 0x12 2), base := BitVec.ofNat 32 (leAt r 0 4)
              length := BitVec.ofNat 32 (leAt r 4 4), jobMask := BitVec.ofNat 64 (leAt r 8 8)
              coreMask := placedMask s c (leAt r 0x10 2), eys := BitVec.ofNat 24 (leAt r 0x14 4)
              eysEn := decide (2 ^ 31 ≤ leAt r 0x14 4), filled := 0, consumed := 0, drops := 0, denied := 0
              openSeq := (vget (getCore s c).stk.carrels k).openSeq + 1, owner := (getCore s c).jobId } ∧
            (∀ i, i ≠ k → vget (getCore t c).stk.carrels i = vget (getCore s c).stk.carrels i) ∧
            t.mem = s.mem ∧ t.full = s.full))))) ∧
  (s.Offers c ccSeq (instrWord 0x11 w) (mask128 119 6) [] →
    ((vget (getCore s c).stk.carrels k).opened = false → exec (.crclose c w) s = .next (seqFault s c ccSeq 0x11 0x14)) ∧
    ((vget (getCore s c).stk.carrels k).opened = true → s.RunsOn c ccSeq ((getSeq s c ccSeq).pc + 1) →
      ∃ t, exec (.crclose c w) s = .next t ∧
        vget (getCore t c).stk.carrels k = { vget (getCore s c).stk.carrels k with
          opened := false, tmreq := 0, job := 0, hostMask := 0, base := 0, length := 0, jobMask := 0, coreMask := 0, eys := 0,
          eysEn := false } ∧
        (∀ i, i ≠ k → vget (getCore t c).stk.carrels i = vget (getCore s c).stk.carrels i) ∧
        getSeq t c ccSeq = (getSeq s c ccSeq).past 0x11 ((getSeq s c ccSeq).pc + 1) ∧ t.mem = s.mem ∧ t.full = s.full))

/-- LCFG with a SHAPE of Table 04-4 waits until the Last is empty, then applies the shape, empties both planes, leaves the accumulators and
goes on; SHAPE 6 and 7 fault LAST_SHAPE. LPAIR ON in an image that declares duplex, on an empty Last: the first of the pair waits in
WAIT_BARRIER, the later one completes the pairing, and the leader goes on; undeclared it faults LAST_DUP_UNDECL, on a Last already paired
LAST_PAIR. The leader's LPAIR OFF ends the pair: the follower takes the leader's planes and accumulators and goes on too; on a follower's
Last it faults LAST_PAIR. An LPAIR ON that waits under a timeout faults LAST_PAIR_TMO. -/
def Obligations.LastShapesAndPairs : Prop := ∀ (s : State) (c : CoreId) (l : Fin 4) (w : BitVec 120),
  (s.Offers c (lastSeq l) (instrWord 0x10 w) (mask128 119 3) [] →
    (6 ≤ fld w 0 3 → exec (.lcfg c l w) s = .next (seqFault s c (lastSeq l) 0x10 0x11)) ∧
    (fld w 0 3 < 6 → lastEmpty s c l = false →
      exec (.lcfg c l w) s = .next (modSeq s c (lastSeq l) fun x => { x with st := .waitDrain })) ∧
    (fld w 0 3 < 6 → lastEmpty s c l = true → s.RunsOn c (lastSeq l) ((getSeq s c (lastSeq l)).pc + 1) →
      exec (.lcfg c l w) s = .next (modCore s c fun k => { k with
        seqs := vmod k.seqs (lastSeq l) fun x => x.past 0x10 (x.pc + 1),
        lasts := vmod k.lasts l (lastShaped (w.extractLsb' 0 3)) }))) ∧
  (s.Offers c (lastSeq l) (instrWord 0x15 w) (mask128 119 1) [] → bit w 0 = true →
    (getLast s c l).follower = false → (getLast s c l).pairWait = false →
    ((getLast s c l).paired = true → exec (.lpairOn c l w) s = .next (seqFault s c (lastSeq l) 0x15 0x15)) ∧
    ((getLast s c l).paired = false → dupDeclared s c = false →
      exec (.lpairOn c l w) s = .next (seqFault s c (lastSeq l) 0x15 0x17)) ∧
    ((getLast s c l).paired = false → dupDeclared s c = true → lastEmpty s c l = true →
      ((getLast s c (partner l)).pairWait = false → ∃ t, exec (.lpairOn c l w) s = .next t ∧ s.OnlyCore t c ∧
        getLast t c l = { getLast s c l with pairWait := true } ∧ (getSeq t c (lastSeq l)).st = .waitBarrier ∧
        getLast t c (partner l) = getLast s c (partner l)) ∧
      ((getLast s c (partner l)).pairWait = true → ∀ lead, lead = (if isLeader l then l else partner l) →
        s.RunsOn c (lastSeq lead) ((getSeq s c (lastSeq lead)).pc + 1) → ∃ t, exec (.lpairOn c l w) s = .next t ∧
        (getLast t c lead).paired = true ∧ (getLast t c lead).follower = (getLast s c lead).follower ∧
        (getLast t c (partner lead)).paired = true ∧ (getLast t c (partner lead)).follower = true ∧
        (getLast t c l).pairWait = false ∧ (getLast t c (partner l)).pairWait = false ∧
        (getSeq t c (lastSeq lead)).st = .issuing ∧ s.OnlyCore t c))) ∧
  (s.Offers c (lastSeq l) (instrWord 0x15 w) (mask128 119 1) [] → bit w 0 = false →
    (isLeader l = false → exec (.lpairOff c l w) s = .next (seqFault s c (lastSeq l) 0x15 0x15)) ∧
    (isLeader l = true → lastEmpty s c l = true → (getLast s c l).paired = true →
      s.RunsOn c (lastSeq l) ((getSeq s c (lastSeq l)).pc + 1) →
      s.RunsOn c (lastSeq (partner l)) ((getSeq s c (lastSeq (partner l))).pc + 1) →
      ∃ t, exec (.lpairOff c l w) s = .next t ∧ s.OnlyCore t c ∧ getLast t c l = { getLast s c l with paired := false } ∧
        (getLast t c (partner l)).paired = false ∧ (getLast t c (partner l)).follower = false ∧
        (getLast t c (partner l)).acc = (getLast s c l).acc ∧ (getLast t c (partner l)).p0 = (getLast s c l).p0 ∧
        (getLast t c (partner l)).p1 = (getLast s c l).p1 ∧ (getSeq t c (lastSeq (partner l))).st = .issuing)) ∧
  ((getLast s c l).pairWait = true → (getCore s c).stk.tagTmoUs ≠ 0 → (getCore s c).st = .running →
    exec (.lastPairTimeout c l) s =
      .next (seqFault (modLast s c l fun x => { x with pairWait := false }) c (lastSeq l) 0x15 0x16))

/-- A LOADW of dense or S14 weights whose operands have been read without poison enters the load queue, when its turn comes and a place is
free, with each partition's weight and side bytes; so does one of S24, whose well-formed tile enters as it is, while a malformed group
marks the tile violated and the next issue FMT_VIOLATION, or, with dense fallback, holds the tile for its expansion. A STREAM on such a
plane enters the stream queue with its M vectors, its half, entry and ACC, in program order. A DRAIN enters the drain queue; an ACCLD enters
it with its input and then writes the entries that are final. No byte of memory changes. -/
def Obligations.LastQueues : Prop := ∀ (s : State) (c : CoreId) (l : Fin 4) (w : BitVec 120) (ev : List EccEvent) (y : InFlight)
    (a : List Access),
  (s.Landed c (lastSeq l) (instrWord 0x11 w) y → y.got = [a] → (∀ x ∈ a, x.poison = false) →
    queueTurn s c (lastSeq l) (instrWord 0x11 w) [0x11] = true → (getLast s c l).loadQ.length < 2 → fld w 98 2 ≠ 3 →
    ∀ p : Plane, p = { Plane.init with
      serial := y.notes.getD 0 0, fmt := fld w 100 4, sp := fld w 98 2
      words := (List.range (parts (getLast s c l).shape)).map fun i => opndData a i
      side := (List.range (parts (getLast s c l).shape)).map fun i => opndData a (16 + i) } →
    (fld w 98 2 ≠ 1 ∨ (∀ d ∈ p.side, badGroup d p.fmt (partRows (getLast s c l).shape) (partCols (getLast s c l).shape) = none) →
      exec (.loadw c l w ev) s = .next (modLast (dropFlight s c (lastSeq l) (instrWord 0x11 w)) c l fun x => { x with
        loadQ := x.loadQ ++ [{ plane := p, target := y.notes.getD 1 0 == 1 }] })) ∧
    (fld w 98 2 = 1 → (∃ d ∈ p.side, badGroup d p.fmt (partRows (getLast s c l).shape) (partCols (getLast s c l).shape) ≠ none) →
      ∃ t q, exec (.loadw c l w ev) s = .next t ∧ s.OnlyCore t c ∧
        (getLast t c l).loadQ = (getLast s c l).loadQ ++ [{ plane := q, target := y.notes.getD 1 0 == 1 }] ∧
        (getLast t c l).spCnt = satAdd (getLast s c l).spCnt 1 ∧
        ((getLast s c l).fallback = true → q = { p with waits := true } ∧
          (getSeq t c (lastSeq l)).pendFault = (getSeq s c (lastSeq l)).pendFault) ∧
        ((getLast s c l).fallback = false → q.violated ≠ [] ∧
          ((getSeq s c (lastSeq l)).pendFault = 0 → (getSeq t c (lastSeq l)).pendFault = 0x20)))) ∧
  (s.Landed c (lastSeq l) (instrWord 0x12 w) y → y.got = [a] → (∀ x ∈ a, x.poison = false) → bit w 73 = false →
    queueTurn s c (lastSeq l) (instrWord 0x12 w) [0x12] = true → (getLast s c l).streamQ.length < 2 →
    ∀ p, planeBySerial (getLast s c l) (y.notes.getD 2 0) = some p → p.sp ≠ 3 → fld w 83 7 ≠ 0 →
    ∃ t j, exec (.stream c l w ev) s = .next t ∧
      t = modLast (dropFlight s c (lastSeq l) (instrWord 0x12 w)) c l (fun x => { x with streamQ := x.streamQ ++ [j] }) ∧
      j.seq = y.notes.getD 0 0 ∧ j.plane = (y.notes.getD 1 0 == 1) ∧ j.needs = y.notes.getD 2 0 ∧ j.afmt = fld w 100 4 ∧
      j.acc = bit w 98 ∧ j.half = bit w 97 ∧ j.entry = fld w 90 6 ∧ j.count = fld w 83 7 ∧ j.next = 0 ∧ j.pass = 0 ∧
      j.gather = false ∧ j.poison = false ∧ j.acts.length = parts (getLast s c l).shape) ∧
  (s.Landed c (lastSeq l) (instrWord 0x13 w) y → queueTurn s c (lastSeq l) (instrWord 0x13 w) [0x13, 0x14] = true →
    (getLast s c l).drainQ.length < 2 → ∃ descs, exec (.drain c l w) s =
      .next (modLast (dropFlight s c (lastSeq l) (instrWord 0x13 w)) c l fun x => { x with drainQ := x.drainQ ++ [{
        seq := y.notes.getD 0 0, drain := true, half := bit w 107, entry := fld w 100 6, count := fld w 93 7, next := 0
        fmt := fld w 108 4, flag := bit w 106, alpha := w.extractLsb' 0 32, descs := descs, input := [] }] }) ∧
      ∀ i < parts (getLast s c l).shape, descs[i]? = some (smapGet 0 y.view (fld w 112 8 + i))) ∧
  (s.Landed c (lastSeq l) (instrWord 0x14 w) y → y.got = [a] → (∀ x ∈ a, x.poison = false) →
    queueTurn s c (lastSeq l) (instrWord 0x14 w) [0x13, 0x14] = true → (getLast s c l).drainQ.length < 2 →
    exec (.accld c l w ev) s =
      .next (pumpAccld c l 128 (modLast (dropFlight s c (lastSeq l) (instrWord 0x14 w)) c l fun x => { x with
        drainQ := x.drainQ ++ [{
          seq := y.notes.getD 0 0, drain := false, half := bit w 107, entry := fld w 100 6, count := fld w 93 7, next := 0
          fmt := fld w 108 4, flag := bit w 106, alpha := 0, descs := []
          input := (List.range (parts x.shape)).map fun p => opndData a p }] })))

/-- On a clocked core: the oldest load writes its plane once no STREAM still needs that plane's load, and its queue place frees. The next
vector of the oldest STREAM enters once its plane holds its load and no earlier accumulator access forbids it. The oldest vector lands: each
value overwrites its entry or adds into it with one FP32 rounding; a single mismatch counts in LAST_RES_CNT, is logged, and poisons the
value it names. A DRAIN at the head of its queue reads its next final entry of an unpaired Last, clears it where CLR asks, and presents the
converted values for writing. A tile that waits for dense expansion gets its passes, and LAST_SP_FBCNT counts it. -/
def Obligations.LastArray : Prop := ∀ (s : State) (c : CoreId) (l : Fin 4) (x : LastState), x = getLast s c l →
  (coreClocked s c = true →
    (∀ j r, x.loadQ = j :: r → planeNeeded s c l j.target (planeAt x j.target).serial = false →
      exec (.lastPlaneStart c l) s = .next (modLast s c l fun x => { setPlane x j.target j.plane with loadQ := r })) ∧
    (∀ j r p, x.streamQ = j :: r → p = planeAt x j.plane → p.serial = j.needs → p.waits = false →
      entryFree x j.seq j.half (j.entry + j.next) = true → armed x false = false →
      exec (.lastVectorEnter c l) s = .next (modLast s c l fun x => { x with
        arr := x.arr ++ [{ seq := j.seq, half := j.half, entry := j.entry + j.next, acc := j.acc || decide (0 < j.pass)
                           vals := vectorVals x p j, hit := [] }]
        streamQ := afterEnter p x.streamQ
        gathered := if j.gather && j.pass == 0 then satAdd x.gathered 1 else x.gathered })) ∧
    (∀ f r, x.arr = f :: r → f.hit = [] → x.drainQ = [] →
      exec (.lastVectorLand c l []) s = .next (modLast s c l fun x => { x with
        arr := r, acc := f.vals.foldl (landVal x.shape f []) x.acc }) ∧
      (∀ m : Mismatch, ∃ t, exec (.lastVectorLand c l [m]) s = .next t ∧
        (getLast t c l).acc = f.vals.foldl (landVal x.shape f [m]) x.acc ∧ (getLast t c l).arr = r ∧
        (getLast t c l).resCnt = satAdd x.resCnt 1 ∧ bit (getLast t c l).resLog 19 = true ∧ t.mem = s.mem) ∧
      (∀ m v, f.vals = [v] → misIndex x.shape f.half f.entry m = v.idx →
        (smapGet accZero (f.vals.foldl (landVal x.shape f [m]) []) v.idx).poison = true)) ∧
    (∀ d r, x.drainQ = d :: r → d.drain = true → entryFinal s c l d.seq d.half (d.entry + d.next) = true → x.paired = false →
      exec (.drainEntryRead c l []) s = .next (pumpAccld c l 128 (pushWrites (modLast s c l fun x => { x with
        acc := if d.flag then (entryIndices x (d.entry + d.next) d.half).foldl (fun a i => smapSet accZero a i accZero) x.acc else x.acc
        drainQ := if d.next + 1 < d.count then { d with next := d.next + 1 } :: r else r }) c (lastSeq l) 0x13
        ((List.range (parts x.shape)).flatMap fun p => drainWrites s c x d p fun _ => false))))) ∧
  (∀ b, (planeAt x b).waits = true → (b = true → x.p0.waits = false) → ∃ t, exec (.denseFallbackReexec c l) s = .next t ∧
    (planeAt (getLast t c l) b).waits = false ∧
    (planeAt (getLast t c l) b).passes = (if (planeAt x b).sp = 3 then nzbPasses (planeAt x b).fmt (planeAt x b).blocks
      else expandPasses (planeAt x b).fmt) ∧
    planeAt (getLast t c l) (!b) = planeAt x (!b) ∧ (getLast t c l).acc = x.acc ∧
    (getLast t c l).fbCnt = satAdd x.fbCnt 1 ∧ bit (getLast t c l).spLog 2 = true ∧ t.mem = s.mem)

/-- On the Awl, when its operands have been read without poison and its turn has come: AVLD rounds each element to BF16 and loads its
vectors into consecutive registers, recording their length. A dense AMV without a mask computes, for each vector in turn and each weight
row, the row's FP32 sum, converts it to OFMT and writes the outputs to DO in order; AWL_LINES counts the lines. ASEQ OP 0 makes the live
mask (mask AND NOT CLR) OR SET and takes the position of each slot of SET; OP 1 adds 1 to the position of every live slot. The re-execution
of a row counts in AWL_SP_FBCNT, logs it as fallen back, and after the last one writes the outputs that waited. -/
def Obligations.AwlLoadsMultipliesAndSequences : Prop := ∀ (s : State) (c : CoreId) (w : BitVec 120) (ev : List EccEvent) (y : InFlight)
    (a : List Access) (x : AwlState), x = (getCore s c).awl →
  (s.Landed c awlSeq (instrWord 0x10 w) y → y.got = [a] → (∀ b ∈ a, b.poison = false) → awlTurn s c (instrWord 0x10 w) = true →
    exec (.avld c w ev) s = .next (modAwl (dropFlight s c awlSeq (instrWord 0x10 w)) c fun x =>
      (List.range (fld w 98 5 + 1)).foldl (fun x j =>
        loadVector x (fld w 103 5 + j * cdiv (fld w 82 16 + 1) vregElems) ((List.range (fld w 82 16 + 1)).map fun i =>
          toBf16 (fld w 108 4) (leAt (opndData a 0) ((j * (fld w 82 16 + 1) + i) * (elemBits (fld w 108 4) / 8))
            (elemBits (fld w 108 4) / 8)))) x)) ∧
  (s.Landed c awlSeq (instrWord 0x11 w) y → y.got = [a] → (∀ b ∈ a, b.poison = false) → awlTurn s c (instrWord 0x11 w) = true →
    bit w 89 = false → bit w 88 = false → fld w 90 2 = 0 → fld w 70 3 = 0 →
    ∀ (starts : List Nat) (od : Descr) (rl nr ow : Nat), rl = fld w 54 16 + 1 → nr = fld w 32 22 + 1 →
    ow = elemBits (fld w 84 4) / 8 → od = descrOf (smapGet 0 y.view (fld w 104 8)) →
    starts = amvVectors x (bit w 73) (fld w 79 5) (fld w 74 5 + 1) (cdiv rl vregElems) → vregBad x starts rl = false →
    starts.length * nr * ow ≤ od.bytes →
    ∃ rows : List (List WTerm), rows.length = nr ∧
      (∀ i < nr, (rows.getD i []).map (fun t => (t.k, t.v)) =
        (recordTerms (slice (weave 1 [opndData a 0]) (i * rowBytes (fld w 92 4) 0 rl) (rowBytes (fld w 92 4) 0 rl)) (fld w 92 4) 0 rl).map
          fun t => (t.k, t.v)) ∧
      ∀ (data : List Byte) (ps : List Piece),
        data = (starts.flatMap fun v => rows.map fun r => rowSum r (vecElem x v)).flatMap
          (fun b => leBytes ow (outBits (fld w 84 4) b)) → ps = takePieces od.pieces data.length →
        exec (.amv c w ev) s = .next (pushWrites (modAwl (dropFlight s c awlSeq (instrWord 0x11 w)) c fun x => { x with
            lines := x.lines + BitVec.ofNat 64 (cdiv (weave 1 [opndData a 0]).length 16384) }) c awlSeq 0x11
          (writesFrom 0 (placeOf s c od) od.tm 0 (decide (1 < ps.length)) ps data (ps.map fun _ => false)))) ∧
  (s.Landed c awlSeq (instrWord 0x12 w) y → awlTurn s c (instrWord 0x12 w) = true →
    (bit w 0 = false → y.got = [a] → (∀ b ∈ a, b.poison = false) →
      ∃ t, exec (.aseqApply c w ev) s = .next t ∧ s.OnlyCore t c ∧ t.mem = s.mem ∧
        (getCore t c).awl.mask = (x.mask &&& ~~~BitVec.ofNat 32 (leAt (opndData a 0) 4 4)) ||| BitVec.ofNat 32 (leAt (opndData a 0) 0 4) ∧
        (∀ i : Fin 32, vget (getCore t c).awl.pos i = if bit (BitVec.ofNat 32 (leAt (opndData a 0) 0 4)) i.val
          then BitVec.ofNat 32 (leAt (opndData a 0) (64 + 4 * i.val) 4) else vget x.pos i) ∧
        (getCore t c).awl = { x with mask := (getCore t c).awl.mask, pos := (getCore t c).awl.pos }) ∧
    (bit w 0 = true → ∃ t, exec (.aseqAdvance c w) s = .next t ∧ s.OnlyCore t c ∧
        (∀ i : Fin 32, vget (getCore t c).awl.pos i = if bit x.mask i.val then vget x.pos i + 1 else vget x.pos i) ∧
        (getCore t c).awl = { x with pos := (getCore t c).awl.pos })) ∧
  (∀ r rest, x.redo = r :: rest → r.writes = [] → (getSeq s c awlSeq).writes = [] →
    ∃ t, exec (.awlFallbackReexec c) s = .next t ∧ (getCore t c).awl.redo = rest ∧ (getCore t c).awl.fbCnt = satAdd x.fbCnt 1 ∧
      bit (getCore t c).awl.spLog 2 = true ∧ bit (getCore t c).awl.spLog 3 = true ∧ t.mem = s.mem ∧
      (getCore t c).awl.vregs = x.vregs ∧ (getCore t c).awl.mask = x.mask)

/-- A Welt instruction in flight whose sources have been read without poison, and which meets no check-code event in the cache, computes
its results from their bytes, in Stacks or in the cache, writes them to its destinations in order and completes with the status word and the
element count of its results. WOP applies its function to N elements, B a stream, an immediate, one value per row or per column; WCVT
converts, with its scales and the chain position of its issue; WRED reduces and then holds the carry; WSMX writes exponentials or weights
and the row statistics; WOPT writes masters, moments and working copy; CFILL and CEVICT copy. Nothing else of the state changes but what
the accesses do. -/
def Obligations.WeltComputes : Prop := ∀ (s : State) (c : CoreId) (wl : Fin 2) (w : BitVec 120) (ev : List EccEvent) (y : InFlight)
    (a : List Access) (os : List WOpnd) (run : BitVec 8 → ((Nat → List Byte) → WRes) → ((Nat → List Byte) → State → State) → State),
  (∀ e ∈ ev, e.cache = false) →
  (∀ opc r post, run opc r post = weltRuns s c wl (instrWord opc w) ev (weltOperands y os) a r post) →
  (∀ af bf df fn rnd bm n g nb i, af = fld w 84 4 → bf = fld w 80 4 → df = fld w 76 4 → fn = fld w 70 6 → rnd = fld w 67 3 →
    bm = fld w 64 2 → n = fld w 48 16 → g = fld w 0 16 → nb = (if bm = 2 then n / g else if bm = 3 then g else n) →
    os = [srcOpnd (fld w 112 8) (bit w 47) (streamBytes af n)] ++
      (if wopUsesB fn bm then [srcOpnd (fld w 104 8) (bit w 46) (streamBytes bf nb)] else []) ++
      (if fn == 3 then [srcOpnd (fld w 96 8) (bit w 45) (streamBytes df n)] else []) ++
      [dstOpnd (fld w 88 8) (bit w 44) (streamBytes df n)] → i = os.length - 1 →
    s.WeltHas c wl (instrWord 0x10 w) os y a →
    exec (.wop c wl w ev) s = .next (run 0x10 (fun d =>
      let r := wopElems fn (bit w 66) (rndMode rnd) af (if wopUsesB fn bm then bf else cF32) df (elemsOf af (d 0) n)
        (if wopUsesB fn bm then elemsOf bf (d 1) nb else [fld w 0 32])
        (if fn == 3 then elemsOf df (d (if wopUsesB fn bm then 2 else 1)) n else [])
        (fun k => if bm = 0 then k else if bm = 1 then 0 else if bm = 2 then k / g else k % g) n
      { outs := [(i, packElems df r.bits, 0)], flags := r.flags, np := firstNan df [] r.bits, elems := n }) fun _ u => u)) ∧
  (∀ af df rnd n k sr, af = fld w 84 4 → df = fld w 80 4 → rnd = fld w 77 3 → n = fld w 48 16 →
    sr = (y.notes.getD 2 0 == 1) → k = (if hasScale af then 2 else 1) →
    os = [srcOpnd (fld w 112 8) (bit w 74) (streamBytes af n)] ++
      (if hasScale af then [srcOpnd (fld w 104 8) (bit w 74) (cdiv n 32)] else []) ++
      [dstOpnd (fld w 96 8) (bit w 73) (streamBytes df n)] ++
      (if hasScale df then [dstOpnd (fld w 88 8) (bit w 73) (cdiv n 32)] else []) →
    s.WeltHas c wl (instrWord 0x11 w) os y a →
    exec (.wcvt c wl w ev) s = .next (run 0x11 (fun d =>
      let r := cvtElems df (bit w 76) (elemRnd sr (getWelt s c wl).key 1 (fld w 32 16) (fld w 16 16)
        (BitVec.ofNat 32 (y.notes.getD 1 0)) (y.notes.getD 0 0) (if rnd = 4 then 0 else rnd))
        ((elemsOf af (d 0) n).zip (elemVals af (d 0) (d 1) n))
      { outs := [(k, packElems df r.bits, 0)] ++ (if hasScale df then [(k + 1, r.scales.map (BitVec.ofNat 8 ·), 0)] else [])
        flags := r.flags ||| flIf (rnd == 4 && !sr) flSR, np := firstNan df r.scales r.bits, elems := n }) fun _ u => u)) ∧
  (∀ af df fn n g outs r, af = fld w 100 4 → df = fld w 96 4 → fn = fld w 93 3 → n = fld w 64 16 → g = fld w 48 16 →
    outs = (if bit w 92 then g else n / g) →
    r = (fun l => wredRun (getWelt s c wl) af df fn g n (bit w 92) (bit w 91) (rndMode (fld w 86 3)) l) →
    os = [srcOpnd (fld w 112 8) (bit w 90) (streamBytes af n), dstOpnd (fld w 104 8) (bit w 89) (streamBytes df outs)] →
    s.WeltHas c wl (instrWord 0x12 w) os y a →
    exec (.wred c wl w ev) s = .next (run 0x12 (fun d =>
      { outs := [(1, packElems df (r (d 0)).2.bits, 0)], flags := (r (d 0)).2.flags, np := firstNan df [] (r (d 0)).2.bits, elems := n })
      fun d u => modWelt u c wl fun x => { x with carry := some {
        vals := (r (d 0)).1.map fun e => f32Bits e.v, idxs := (r (d 0)).1.map fun e => BitVec.ofInt 32 e.i
        count := (if bit w 91 then (match (getWelt s c wl).carry with | some k => k.count | none => 0) else 0) +
          (if bit w 92 then n / g else g) } })) ∧
  (∀ af df n g lim, af = fld w 92 4 → df = fld w 88 4 → n = fld w 64 16 → g = fld w 48 16 →
    lim = (if fld w 32 16 = 0 then g else fld w 32 16) →
    (fld w 86 2 = 0 → os = wsmxOpnds w (streamBytes af n) (streamBytes df n) (8 * (n / g)) → s.WeltHas c wl (instrWord 0x13 w) os y a →
      exec (.wsmxExps c wl w ev) s = .next (run 0x13 (fun d =>
        let src := (elemsOf af (d 0) n).map (srcVal rne af)
        let r := softRes df n ((chunk g (src.map (·.1))).map (softRow df (f32Val (w.extractLsb' 0 32)) lim))
        { r with flags := r.flags ||| orFl (src.map (·.2)) }) fun _ u => u)) ∧
    (fld w 86 2 = 1 → os = wsmxOpnds w (8 * n) (streamBytes df n) (8 * (n / g)) → s.WeltHas c wl (instrWord 0x13 w) os y a →
      exec (.wsmxMerge c wl w ev) s = .next (run 0x13 (fun d =>
        softRes df n ((chunk g ((List.range n).map fun i =>
          (decodeElem cF32 (leAt (d 0) (8 * i) 4), decodeElem cF32 (leAt (d 0) (8 * i + 4) 4)))).map (mergeRow df))) fun _ u => u))) ∧
  (∀ n wf adam k sr rs, n = fld w 44 16 → wf = fld w 64 4 → adam = (fld w 62 2 == 1) → sr = bit w 61 →
    rs = (y.notes.getD 2 0 == 1) → k = (if adam then 5 else 4) →
    os = [srcOpnd (fld w 112 8) false (5 * n), srcOpnd (fld w 104 8) false (streamBytes (fld w 68 4) n), srcOpnd (fld w 96 8) false (4 * n)] ++
      (if adam then [srcOpnd (fld w 88 8) false (4 * n)] else []) ++ [srcOpnd (fld w 72 8) false 64] ++
      [dstOpnd (fld w 112 8) false (5 * n), dstOpnd (fld w 96 8) false (4 * n)] ++
      (if adam then [dstOpnd (fld w 88 8) false (4 * n)] else []) ++ [dstOpnd (fld w 80 8) false (streamBytes wf n)] →
    s.WeltHas c wl (instrWord 0x16 w) os y a →
    ∃ np : (Nat → List Byte) → Option Nat, exec (.wopt c wl w ev) s = .next (run 0x16 (fun d =>
      let u := woptRun (fld w 68 4) wf n adam (elemRnd rs (getWelt s c wl).key 2 (fld w 28 16) (fld w 12 16)
        (BitVec.ofNat 32 (y.notes.getD 1 0)) (y.notes.getD 0 0) 0) d
      { outs := [(k, packElems 0xC (u.map (·.master)), 0), (k + 1, packElems cF32 (u.map (·.m)), 0)] ++
          (if adam then [(k + 2, packElems cF32 (u.map (·.v)), 0), (k + 3, packElems wf (u.map (·.work)), 0)]
           else [(k + 2, packElems wf (u.map (·.work)), 0)])
        flags := orFl (u.map (·.flags)) ||| flIf (sr && !rs) flSR, np := np d, elems := n }) fun _ u => u)) ∧
  (os = [{ idx := fld w 112 8, cached := false, dst := false, len := none }, { idx := fld w 104 8, cached := true, dst := true, len := none }] →
    s.WeltHas c wl (instrWord 0x1A w) os y a →
    exec (.cfill c wl w ev) s =
      .next (run 0x1A (fun d => { outs := [(1, d 0, 0)], flags := 0, np := none, elems := 0 }) fun _ u => u)) ∧
  (os = [{ idx := fld w 112 8, cached := false, dst := true, len := none }, { idx := fld w 104 8, cached := true, dst := false, len := none }] →
    s.WeltHas c wl (instrWord 0x1B w) os y a →
    exec (.cevict c wl w ev) s =
      .next (run 0x1B (fun d => { outs := [(0, d 1, 0)], flags := 0, np := none, elems := 0 }) fun _ u => u))

/-- When the indices and rows of a WGTH are there, each index's row goes to its place in the output, an index outside the table writing a
poisoned row and the next issue faulting IDX_RANGE. A WSCT writes each row to the table row of its index, in index order, plain or added,
and skips an index outside. A WSHDW that the sampler passed over counts as skipped and touches nothing; one executed deposits the bin of
every output, and with a hard kill a hard bin faults. A selector that has written its entries presents the last mask header by write-fill,
and then counts its groups and masks and holds the flags. -/
def Obligations.WeltMovesRowsAndSelects : Prop := ∀ (s : State) (c : CoreId) (wl : Fin 2) (w : BitVec 120) (ev : List EccEvent) (y : InFlight),
  (∀ e ∈ ev, e.cache = false) →
  (∀ (ix : List Nat) (k lim rb : Nat) (dt di dd : Descr) (l : List (WOpnd × Descr)) (ok : Nat → Bool) (a : List Access),
    rb = fld w 48 16 → dt = descrOf (smapGet 0 y.view (fld w 112 8)) → di = descrOf (smapGet 0 y.view (fld w 104 8)) →
    dd = descrOf (smapGet 0 y.view (fld w 96 8)) → ok = (fun i => decide (i < tableRows dt rb) && decide (i < lim)) →
    l = weltOperands y [{ idx := fld w 112 8, cached := bit w 91, dst := false, len := none },
      { idx := fld w 104 8, cached := false, dst := false,
        len := some (if bit w 92 then 64 else fld w 64 16 * (if bit w 93 then 4 else 2)) },
      { idx := fld w 96 8, cached := bit w 90, dst := true, len := some (if bit w 92 then 0 else fld w 64 16 * rb) }] →
    s.Landed c (weltSeq wl) (instrWord 0x14 w) y → y.got.length = k + 1 → a = y.got.getD k [] → (∀ b ∈ a, b.poison = false) →
    (bit w 91 = true → ∀ i ∈ ix, ok i = true → cachePoison (getWelt s c wl) (rowPiecesOf dt rb i) = false) →
    indexPhase s c di (bit w 92) (if bit w 93 then 4 else 2) (fld w 64 16) y = .ok (ix, k, lim) → ix.length * rb ≤ dd.bytes →
    ∀ row : State → Nat → List Byte, row = (fun u i => if ok i = false then List.replicate rb 0
      else if bit w 91 then cacheRead (getWelt u c wl) (rowPiecesOf dt rb i)
      else slice (opndData a 0) ((ix.filter ok).idxOf i * rb) rb) →
    exec (.wgth c wl w ev) s = .next (presents s c (weltSeq wl) (instrWord 0x14 w) ev
      (if bit w 90 then [] else (ix.map fun i => (row s i, !ok i)).zipIdx.flatMap fun e =>
        writesFrom 16 (placeOf s c dd) dd.tm 0 true (rowPiecesOf dd rb e.2) e.1.1 ((rowPiecesOf dd rb e.2).map fun _ => e.1.2))
      fun u =>
        let t := weltFinish u c wl l { outs := [(2, ix.flatMap (row u), 0)], flags := 0, np := none, elems := ix.length }
        if ix.all ok then t else faultNext t c (weltSeq wl) 0x21)) ∧
  (∀ (ix : List Nat) (k lim rb : Nat) (code : Option Nat) (dt di ds : Descr) (l : List (WOpnd × Descr)) (ok : Nat → Bool) (a : List Access),
    rb = fld w 48 16 → code = (if fld w 94 2 = 1 then some cF32 else if fld w 94 2 = 2 then some 8 else none) →
    ds = descrOf (smapGet 0 y.view (fld w 112 8)) → di = descrOf (smapGet 0 y.view (fld w 104 8)) →
    dt = descrOf (smapGet 0 y.view (fld w 96 8)) → ok = (fun i => decide (i < tableRows dt rb) && decide (i < lim)) →
    l = weltOperands y [{ idx := fld w 112 8, cached := bit w 90, dst := false, len := some (if bit w 92 then 0 else fld w 64 16 * rb) },
      { idx := fld w 104 8, cached := false, dst := false,
        len := some (if bit w 92 then 64 else fld w 64 16 * (if bit w 93 then 4 else 2)) },
      { idx := fld w 96 8, cached := bit w 91, dst := true, len := none }] →
    s.Landed c (weltSeq wl) (instrWord 0x15 w) y → y.got.length = k + 1 → a = y.got.getD k [] → (∀ b ∈ a, b.poison = false) →
    (bit w 90 = true → cachePoison (getWelt s c wl) (takePieces ds.pieces (ix.length * rb)) = false) →
    (bit w 91 = true → code ≠ none → ∀ i ∈ ix, ok i = true → cachePoison (getWelt s c wl) (rowPiecesOf dt rb i) = false) →
    indexPhase s c di (bit w 92) (if bit w 93 then 4 else 2) (fld w 64 16) y = .ok (ix, k, lim) → ix.length * rb ≤ ds.bytes →
    ∀ r : State → List (Nat × List Byte) × Fl, r = (fun u => scatterRows code
      ((ix.zipIdx.filter fun e => ok e.1).map fun e => (e.1, slice (if bit w 90
        then cacheRead (getWelt u c wl) (takePieces ds.pieces (ix.length * rb)) else opndData a 0) (e.2 * rb) rb))
      ((ix.filter ok).eraseDups.zipIdx.map fun e => (e.1, if bit w 91 then cacheRead (getWelt u c wl) (rowPiecesOf dt rb e.1)
        else slice (opndData a 1) (e.2 * rb) rb))) →
    exec (.wsct c wl w ev) s = .next (presents s c (weltSeq wl) (instrWord 0x15 w) ev
      (if bit w 91 then [] else (r s).1.flatMap fun e => writesFrom 16 (placeOf s c dt) dt.tm 0 true (rowPiecesOf dt rb e.1) e.2 [])
      fun u =>
        let t := weltFinish u c wl l { outs := [], flags := (r u).2, np := none, elems := ix.length }
        let t := if bit w 91 then modWelt t c wl fun x => (r u).1.foldl (fun x e => cacheWrite x (rowPiecesOf dt rb e.1) e.2) x else t
        if ix.all ok then t else faultNext t c (weltSeq wl) 0x21)) ∧
  (s.Landed c (weltSeq wl) (instrWord 0x17 w) y → y.notes.getD 0 0 = 0 →
    exec (.wshdw c wl w ev) s = .next (modWelt (dropFlight s c (weltSeq wl) (instrWord 0x17 w)) c wl fun x => { x with
      shSkip := satAdd x.shSkip 1 })) ∧
  (∀ (a : List Access) (bins : List Nat), s.Landed c (weltSeq wl) (instrWord 0x17 w) y → y.notes.getD 0 0 ≠ 0 →
    y.got = [a] → (∀ b ∈ a, b.poison = false) →
    bins = shadowBins (fld w 84 4) (fld w 80 4) (fld w 78 2) (fld w 58 16 + 1) (fld w 48 10 + 1) (fld w 42 6 + 1) (fld w 74 4)
      (opndData a) (hasScale (fld w 84 4)) →
    ∃ t, t = shadowFinish (dropFlight s c (weltSeq wl) (instrWord 0x17 w)) c wl (fld w 40 2) bins ∧
      ((getCore t c).num.hardKill = false → exec (.wshdw c wl w ev) s = .next (modWelt t c wl fun x => { x.setSsw 0 none with
        elems := x.elems + BitVec.ofNat 64 ((fld w 42 6 + 1) * (fld w 48 10 + 1)) }))) ∧
  (∀ (i : Instr) (opc : BitVec 8) (theta : Option Val) (cap u : Nat) (ds dm : Descr) (r : List SelMask × Fl),
    (i = .seltop c wl w ev ∧ opc = 0x18 ∧ theta = none ∧ cap = fld w 64 10 + 1) ∨
      (i = .selthr c wl w ev ∧ opc = 0x19 ∧ theta = some (f32Val (w.extractLsb' 0 32)) ∧ cap = fld w 64 16) →
    s.Landed c (weltSeq wl) (instrWord opc w) y → (∀ b ∈ y.got.getD 0 [], b.poison = false) →
    ds = descrOf (smapGet 0 y.view (fld w 112 8)) → dm = (descrOf (smapGet 0 y.view (fld w 104 8))).plain →
    u = ds.rowlen * 8 / elemBits (if bit w 103 then 8 else cF32) → fld w 80 16 ≠ 0 →
    r = selMasks ds.rows u (elemBits (if bit w 103 then 8 else cF32)) (if bit w 103 then 8 else cF32) theta cap (bit w 102) (fld w 56 8)
      (fld w 48 8) (fld w 80 16) (if bit w 101 then 4 else 2) (fld w 99 2) (cdiv (cap + fld w 56 8 + fld w 48 8) (fld w 80 16))
      (y.notes.getD 0 0) (opndData (y.got.getD 0 []) 0) →
    ∀ fin : State → State, fin = (fun t => modWelt t c wl fun x => { x.setSsw r.2 none with
      elems := x.elems + BitVec.ofNat 64 (ds.rows * u), selGroups := satAdd x.selGroups ds.rows, selMasks := satAdd x.selMasks r.1.length }) →
    (y.got.length = r.1.length + 2 → exec i s = .next (fin (dropFlight s c (weltSeq wl) (instrWord opc w)))) ∧
    (∀ e, y.got.length = r.1.length + 1 → r.1.getLast? = some e → exec i s = .next (presents s c (weltSeq wl) (instrWord opc w) ev
      (writesFrom 2 (placeOf s c dm) 3 0 true (runPieces (wrap32 (dm.rowStart (r.1.length - 1 : Nat))) 64)
        (maskHeadBytes e.head) []) fin)))

/-- A Welt that may issue executes WSTEP: INC 0 loads VALUE, INC 1 adds 1. WFLAG OP 01 faults WELT_FLAG when the OR word meets MASK, and
goes on else; OP 10 clears the OR word; both wait until the Welt is idle. WFLAG OP 00 presents one slot that begins with the OR word, zero
in its other bytes, and then clears the OR word; OP 11 faults WELT_OP. With no job on the core a permanent cache segment is remapped to the
spare; where the spare is taken the core is LOST. -/
def Obligations.WeltControl : Prop := ∀ (s : State) (c : CoreId) (wl : Fin 2) (w : BitVec 120) (q : SeqId), q = weltSeq wl →
  (∀ goes : BitVec 8 → (WeltState → WeltState) → State, goes = (fun opc f => modCore s c fun k => { k with
      seqs := vmod k.seqs q fun x => x.past opc (x.pc + 1), welts := vmod k.welts wl f }) →
    s.RunsOn c q ((getSeq s c q).pc + 1) →
    (bit w 32 = false → s.Offers c q (instrWord 0x1C w) (mask128 119 33) [] →
      exec (.wstepLoad c wl w) s = .next (goes 0x1C fun x => { x with step := w.extractLsb' 0 32 })) ∧
    (bit w 32 = true → s.Offers c q (instrWord 0x1C w) (mask128 119 33 ||| mask128 31 0) [] →
      exec (.wstepInc c wl w) s = .next (goes 0x1C fun x => { x with step := x.step + 1 })) ∧
    (fld w 32 2 = 1 → s.Offers c q (instrWord 0x1D w) (mask128 119 34 ||| mask128 31 9) [] → engineIdle s c q = true →
      ((getWelt s c wl).sswOr &&& w.extractLsb' 0 9 = 0 → exec (.wflagCheck c wl w) s = .next (goes 0x1D id))) ∧
    (fld w 32 2 = 2 → s.Offers c q (instrWord 0x1D w) (mask128 119 34 ||| mask128 31 0) [] → engineIdle s c q = true →
      exec (.wflagClear c wl w) s = .next (goes 0x1D fun x => { x with sswOr := 0 }))) ∧
  (fld w 32 2 = 1 → s.Offers c q (instrWord 0x1D w) (mask128 119 34 ||| mask128 31 9) [] → engineIdle s c q = true →
    (getWelt s c wl).sswOr &&& w.extractLsb' 0 9 ≠ 0 → exec (.wflagCheck c wl w) s = .next (seqFault s c q 0x1D 0x16)) ∧
  (fld w 32 2 = 3 → s.Offers c q (instrWord 0x1D w) (mask128 111 34 ||| mask128 31 9) [] →
    exec (.wflagStore c wl w) s = .next (seqFault s c q 0x1D 0x10)) ∧
  (∀ (y : InFlight) (o : Descr), fld w 32 2 = 0 → s.Landed c q (instrWord 0x1D w) y → y.got = [] →
    o = descrOf (smapGet 0 y.view (fld w 112 8)) →
    exec (.wflagStore c wl w) s = .next (presents s c q (instrWord 0x1D w) []
      (writesFrom 0 (placeOf s c o) o.tm 0 false [{ slot := o.sa / 64 * 64, lo := 0, len := 64 }]
        (leBytes 4 (getWelt s c wl).sswOr.toNat ++ List.replicate 60 0) [])
      fun u => modWelt u c wl fun x => { x with sswOr := 0 })) ∧
  (∀ seg : Fin 8, (getCore s c).jobId = 0 → seg.val ∈ (getWelt s c wl).permSegs →
    ((getWelt s c wl).spSeg = 0xF → ∃ t, exec (.cacheSegmentRemap c wl seg) s = .next t ∧
      (getWelt t c wl).spSeg = BitVec.ofNat 4 seg.val ∧ (getWelt t c wl).permSegs = setDel (getWelt s c wl).permSegs seg.val ∧
      (getCore t c).st = (getCore s c).st ∧ t.mem = s.mem) ∧
    ((getWelt s c wl).spSeg ≠ 0xF → ∃ t, exec (.cacheSegmentRemap c wl seg) s = .next t ∧ (getCore t c).st = .lost))

/-- A tier instruction in flight that has read its source: XLOAD writes the bytes over its Stacks footprint with its TAGOP and completes,
or, with HDR, presents its landing header, poisoned data marked. XSTORE and XMOVE present their bytes as writes of the memory footprint and,
those done, complete. XGATHER, its mask read, sound and its entries rising and in range, completes when every item has moved; an item
whose place in Stacks, in memory or in the windows is not the job's faults; the last item into Stacks lands its bytes and completes, or
presents its header. ESEND sends its last packet under its message number and waits for its acknowledgements; with none of them open it
completes. -/
def Obligations.TierInstructionsMove : Prop := ∀ (s : State) (c : CoreId) (d : Fin 8) (w : BitVec 120) (ev : List EccEvent)
    (y : InFlight) (a b : List Access) (q : SeqId) (D E H : Descr) (m n : MemDescr), q = dmaSeq d →
  D = descrOf (smapGet 0 y.view (fld w 112 8)) → n = memDescrOf (smapGet 0 y.view (fld w 112 8)) →
  m = memDescrOf (smapGet 0 y.view (fld w 104 8)) → E = descrOf (smapGet 0 y.view (fld w 96 8)) →
  H = descrOf (smapGet 0 y.view (fld w 80 8)) →
  (s.Landed c q (instrWord 0x12 w) y → y.got = [a] → dmaShut s c = false →
    ∃ u, u = putStream s c D.plain.pieces (gotStream a) (fld w 93 2) ∧
      (bit w 95 = false → exec (.xload c d w) s = .next (dropFlight u c q (instrWord 0x12 w))) ∧
      (bit w 95 = true → exec (.xload c d w) s = .next (presents
        (modFlight u c q (instrWord 0x12 w) fun y => { y with got := y.got ++ [[]] }) c q (instrWord 0x12 w) []
        (headerWrite 1 E.sa (landingHeader m.ma m.bytes 0 (fld w 0 16) (a.any (·.poison)))) id))) ∧
  (s.Landed c q (instrWord 0x13 w) y →
    (y.got = [a] → exec (.xstore c d w ev) s =
      .next (presents s c q (instrWord 0x13 w) ev (memWrites 1 (prioOf w) m (gotStream a)) id)) ∧
    (y.got = [a, b] → exec (.xstore c d w ev) s = .next (dropFlight s c q (instrWord 0x13 w)))) ∧
  (s.Landed c q (instrWord 0x15 w) y →
    (y.got = [a] → exec (.xmove c d w) s =
      .next (presents s c q (instrWord 0x15 w) [] (memWrites 1 (prioOf w) n (gotStream a)) id)) ∧
    (y.got = [a, b] → exec (.xmove c d w) s = .next (dropFlight s c q (instrWord 0x15 w)))) ∧
  (∀ (g : List (List Access)) (head : MaskHead) (ents : List Nat) (e k : Nat) (src : MemDescr),
    s.Landed c q (instrWord 0x14 w) y → y.got = a :: b :: g → (∀ x ∈ a, x.poison = false) → (∀ x ∈ b, x.poison = false) →
    head = maskHeadOf (opndData a 64) → ents = maskEntries head (opndData b 64) → head.bad E.bytes = false → rising ents = true →
    (∀ i ∈ ents, i < head.items) → k = g.length / 3 → e = ents.getD k 0 → src = m.shift (e * fld w 0 32 * 64) →
    (ents.length ≤ k → exec (.xgather c d w ev) s = .next (dropFlight s c q (instrWord 0x14 w))) ∧
    (k < ents.length → g.length % 3 = 0 → ∀ f,
      itemFault s c src (if bit w 91 then .inr (n.shift ((if bit w 90 then e else k) * fld w 32 32))
        else .inl { D.plain with sa := D.sa + (if bit w 90 then e else k) * fld w 32 32 })
        (if bit w 95 then some (H.sa + k * 64) else none) = some f →
      exec (.xgather c d w ev) s = .next (seqFault s c q 0x14 f)) ∧
    (k + 1 = ents.length → g.length % 3 = 1 → bit w 91 = false → dmaShut s c = false → ∃ u,
      u = putStream s c { D.plain with sa := D.sa + (if bit w 90 then e else k) * fld w 32 32 }.pieces (gotStream (lastGot y)) (fld w 93 2) ∧
      (bit w 95 = false → exec (.xgather c d w ev) s = .next (dropFlight u c q (instrWord 0x14 w))) ∧
      (bit w 95 = true → exec (.xgather c d w ev) s = .next (presents
        (modFlight u c q (instrWord 0x14 w) fun y => { y with got := y.got ++ [[]] }) c q (instrWord 0x14 w) ev
        (headerWrite 2 (H.sa + k * 64) (landingHeader src.ma src.bytes e head.group ((y.got.getD (2 + 3 * k) []).any (·.poison)))) id)))) ∧
  (∀ (g : List (List Access)) (x : Session) (r : BitVec 32) (ps : List Parcel) (ta : Nat) (sn : BitVec 24),
    s.Landed c q (instrWord 0x16 w) y → y.got = a :: g → y.notes = [r.toNat] →
    ta = fld (smapGet 0 y.view (fld w 104 8)) 0 48 → sn = (smapGet 0 y.view (fld w 104 8)).extractLsb' 48 24 →
    findSession s sn = some x → ps = parcels (gotStream a) →
    (∀ p, ps[g.length]? = some p → g.length + 1 = ps.length → x.unacked.length < 4096 → exec (.esend c d w ev) s =
      .next (modFlight (sendTracked s x (dataPacket x ta r.toNat (if bit w 91 then ezFmt (fld w 87 4) else none) true p) (some (c, q)))
        c q (instrWord 0x16 w) fun y => { y with got := y.got ++ [[]] })) ∧
    (ps.length ≤ g.length → (∀ u ∈ x.unacked, u.core = some (c, q) → u.pkt.msg ≠ r) →
      exec (.esend c d w ev) s = .next (dropFlight s c q (instrWord 0x16 w))))

/-- A request to a core whose router is up: a target that is down answers TARGET_DOWN, an address at or above STK_SIZE is denied, and else,
clocked and its bank's Remote queue not full, the target queues it. At a memory controller whose domain is off it is answered TARGET_DOWN;
else a clean read is answered with the slot's bytes and poison, and a write changes exactly the bytes it enables and is acknowledged. RDR with
status OK ends the transaction that its tag names and gives the waiting access its data; ACK with a count of one completes the waiting
write; any other status faults the sequencer with the status's code; an answer to no transaction is counted and does nothing else. -/
def Obligations.LacingRequestsAndAnswers : Prop := ∀ (s : State) (f : Flit) (c : CoreId) (a : Nat), a = f.addr.toNat * 64 →
  (∀ (i : Instr), (∃ e, i = .rd f e ∧ f.typ = 0) ∨ (i = .wr f ∧ f.typ = 1) ∨ (i = .wrp f ∧ f.typ = 2) →
    f.dst.toNat = c.val → 0x80000000 * c.val + 0x080000000000 ≤ a → a < 0x80000000 * (c.val + 1) + 0x080000000000 →
    nodeUp s (fieldOf s c).val = true →
    (targetDown s c = true → exec i s = .next (respond (landed s f) f 3 [] false)) ∧
    (targetDown s c = false →
      (stkSize s c ≤ flitSa f → exec i s = .next (respond (landed s f) f (if f.typ = 0 then 1 else 2) [] false)) ∧
      (flitSa f < stkSize s c → coreClocked s c = true → remoteFull s c f = false →
        exec i s = .next (modStk (landed s f) c fun k => { k with remote := k.remote ++ [{ flit := f, parked := false }] })))) ∧
  (12 ≤ f.dst.toNat → populated s.tiers a = true →
    (memUp s a = false → f.typ = 0 → exec (.rd f .clean) s = .next (respond (landed s f) f 3 [] false)) ∧
    (memUp s a = true →
      (f.typ = 0 → exec (.rd f .clean) s = .next (respond (landed s f) f 0 (memRead s.mem a 64)
        (isPoison s (a / 64) || unitPending s.tiers (memWhere s.tiers a)))) ∧
      (f.typ = 1 → f.data.length = 64 → unitPending s.tiers (memWhere s.tiers a) = false → ∃ t, exec (.wr f) s = .next t ∧
        (∀ x, x < a ∨ a + 64 ≤ x → memGet t.mem x = memGet s.mem x) ∧
        (s.Canonical → (∀ i (h : i < f.data.length), memGet t.mem (a + i) = f.data[i]) ∧ isPoison t (a / 64) = f.poison) ∧
        t.cores = s.cores ∧ t.full = s.full ∧
        t.lacing = (respond (landed s f) f 0 [] false).lacing) ∧
      (f.typ = 2 → ∃ t, exec (.wrp f) s = .next t ∧ t.lacing = (respond (landed s f) f 0 [] false).lacing ∧
        (∀ x, (∀ i ∈ byteRuns f.aux, x ≠ a + i) → x < a ∨ a + 64 ≤ x ∨ coversSlot f = false → memGet t.mem x = memGet s.mem x)))) ∧
  (f.dst.toNat = c.val → f.typ = 3 ∨ (f.typ = 4 ∧ fld f.aux 0 12 = 0 ∧ f.tag.toNat < 4096) →
    ∀ i : Instr, (i = .rdr f ∧ f.typ = 3) ∨ (i = .ack f ∧ f.typ = 4) →
    (((getCore s c).txns.any fun t => t.tag.toNat == f.tag.toNat) = false →
      exec i s = .next (modLacing (landed s f) fun x => { x with late := satAdd x.late 1 })) ∧
    (((getCore s c).txns.any fun t => t.tag.toNat == f.tag.toNat) = true → ∃ t, exec i s = .next t ∧
      (∀ z, z ∈ (getCore t c).txns → z.tag ≠ f.tag) ∧ t.mem = s.mem ∧ t.full = s.full ∧
      (f.status = 0 → getSeq t c (seqOf (f.tag.toNat / 256)) = settle (getSeq s c (seqOf (f.tag.toNat / 256))) (awaits f.tag.toNat) fun a =>
          if a.write then { a with phase := .done }
          else { a with data := slice f.data a.lo a.len, poison := f.poison, phase := .done }) ∧
      (f.status ≠ 0 → (getSeq s c (seqOf (f.tag.toNat / 256))).st ≠ .fault →
        (openAccesses (getSeq s c (seqOf (f.tag.toNat / 256)))).any (awaits f.tag.toNat) = true →
        (getSeq t c (seqOf (f.tag.toNat / 256))).st = .fault ∧
        (getSeq t c (seqOf (f.tag.toNat / 256))).fault = statusFault f.status)))

/-- A barrier arrival of the job that holds the target core is held, once per core and BAR_ID, and completes the BARRIER that waits for
just it; one for no job or another job is dropped. CREDIT_RESYNC and the messages of Ikied are taken. A microcode packet whose last flit is
good is noted by an agent in service as received; an agent that reports nothing missed holds its part, one that reports misses has exactly
these numbers added to what it lacks. A returned credit counts up to the channel's 16 or 32. -/
def Obligations.MessagesArrive : Prop := ∀ (s : State) (f : Flit),
  (∀ (c d : CoreId), f.typ = 5 → fld f.aux 0 8 = 1 → f.dst.toNat = c.val → f.src.toNat = d.val →
    (targetDown s c = true ∨ (getCore s c).jobId ≠ f.job ∨ f.job = 0 → exec (.barrierArrival f) s = .next (landed s f)) ∧
    (targetDown s c = false → (getCore s c).jobId = f.job → f.job ≠ 0 → (d, f.aux.extractLsb' 8 8) ∉ (getCore s c).arrivals →
      ((getCore s c).barrier = none → exec (.barrierArrival f) s = .next (modCore (landed s f) c fun k => { k with
        arrivals := k.arrivals ++ [(d, f.aux.extractLsb' 8 8)] })) ∧
      ((getCore s c).barrier = some (f.aux.extractLsb' 8 8, [d]) → ∃ t, exec (.barrierArrival f) s = .next t ∧
        (getCore t c).barrier = none ∧ (getSeq t c ccSeq).st = .issuing ∧ t.mem = s.mem ∧
        (∀ e b, (e, b) ∈ (getCore t c).arrivals ↔ (e, b) ∈ (getCore s c).arrivals ∧ ¬(e = d ∧ b = f.aux.extractLsb' 8 8))))) ∧
  (f.typ = 5 → fld f.aux 0 8 = 2 → exec (.creditResync f) s = .next (landed s f)) ∧
  (f.typ = 5 → 0x10 ≤ fld f.aux 0 8 → fld f.aux 0 8 < 0x20 → exec (.ikiedMgmtMsg f) s = .next (landed s f)) ∧
  (∀ i : Fin 440, (vget s.agents i).retired = false →
    (f.typ = 6 → fld f.aux 32 4 = 15 → fld f.aux 36 8 = agentPart i →
      (f.poison = false → exec (.mcd i f true) s = .next (modAgent s i fun a => { a with
        got := setAdd a.got (fld f.aux 16 16), missing := setDel a.missing (fld f.aux 16 16) })) ∧
      exec (.mcd i f false) s = .next s) ∧
    (f.tag.toNat = i.val → f.typ = 5 → fld f.aux 0 8 = 3 →
      (fld f.aux 16 16 = 0 → fld f.aux 32 32 = 0 → exec (.ucodeAck f) s = .next (modAgent s i fun a => { a with
        parts := setAdd a.parts (agentPart i), got := [], missing := [], rounds := 0 })) ∧
      (fld f.aux 32 32 ≠ 0 → ∃ t, exec (.ucodeAck f) s = .next t ∧
        (∀ n, n ∈ (vget t.agents i).missing ↔ n ∈ (vget s.agents i).missing ∨
          ∃ k < 32, (f.aux.extractLsb' 32 32).getLsbD k = true ∧ n = fld f.aux 16 16 + k) ∧
        (∀ j, j ≠ i → vget t.agents j = vget s.agents j)))) ∧
  (∀ (c : CoreId) (q : SeqId),
    exec (.creditReturn c q true) s = .next (modSeq s c q fun x => { x with credit3 := min 32 (x.credit3 + 1) }) ∧
    exec (.creditReturn c q false) s = .next (modSeq s c q fun x => { x with credit1 := min 16 (x.credit1 + 1) }))

/-- On a working link: a good beat of a lace without replays changes nothing; a bad one is replayed up to three times, and the next retires
the lace; a replayed beat that passes ends the replays and is counted. A lace that retires leaves service for good, the first free spare
trains in its place, the link counts it, and a direction below MIN_WIDTH fails the link. A lace held beyond its handshake retires. A trained
spare enters service. A retrained lace returns to service where its direction has room, and a failed one retires. -/
def Obligations.LacesServe : Prop := ∀ (s : State) (l : Fin 23) (d : Bool) (i : Fin 18) (x : LinkDir), l.val < 17 →
  x = (vget s.lacing.links l).dir d →
  ((vget s.lacing.links l).failed = false → bit x.active i.val = true →
    (smapGet 0 x.replays i.val = 0 → exec (.laceBeatReceive l d i true) s = .next s) ∧
    (smapGet 0 x.replays i.val < 3 → exec (.laceBeatReceive l d i false) s = .next (modDir s l d fun y => { y with
      replays := smapSet 0 y.replays i.val (smapGet 0 x.replays i.val + 1) })) ∧
    (3 ≤ smapGet 0 x.replays i.val → exec (.laceBeatReceive l d i false) s = exec (.laceRetire l d i) s) ∧
    (smapGet 0 x.replays i.val ≠ 0 → x.errTimes = [] → 1 < clampNat 1 255 (fld s.lacing.errThr 0 8) → ∃ t,
      exec (.laceBeatReceive l d i true) s = .next t ∧
      (vget t.lacing.links l).dir d = { x with replays := smapSet 0 x.replays i.val 0, errTimes := [(i.val, s.reg.time.toNat)] } ∧
      (vget t.lacing.links l).replays = satAdd (vget s.lacing.links l).replays 1 ∧ t.mem = s.mem ∧ t.cores = s.cores) ∧
    exec (.laceHandshakeTimeout l d i) s = exec (.laceRetire l d i) s) ∧
  (bit x.retired i.val = false → ∃ t y, exec (.laceRetire l d i) s = .next t ∧ y = (vget t.lacing.links l).dir d ∧
    y.active = setBit x.active i.val false ∧ y.retired = setBit x.retired i.val true ∧
    (vget t.lacing.links l).retires = satAdd (vget s.lacing.links l).retires 1 ∧
    (bit x.active i.val = true → popcount (setBit x.active i.val false) + x.training.length < 16 → i.val ∉ x.training →
      ∀ n r, x.spares = n :: r → y.training = x.training ++ [n]) ∧
    (vget t.lacing.links l).failed = ((vget s.lacing.links l).failed ||
      decide (popcount y.active < clampNat 4 16 (fld s.lacing.errThr 8 5))) ∧
    (vget t.lacing.links l).dir (!d) = (vget s.lacing.links l).dir (!d) ∧ t.mem = s.mem ∧ t.cores = s.cores) ∧
  (bit x.retired i.val = true → exec (.laceRetire l d i) s = .next s) ∧
  (i.val ∈ x.training → exec (.spareLaceTrained l d i) s = .next (noted (modDir s l d fun x => { x with
    active := setBit x.active i.val true, training := x.training.filter fun n => n != i.val }))) ∧
  (x.retrain = some i.val →
    exec (.laceRetrainDone l d i true) s = .next (noted (modLink (modDir s l d fun x => { x with
        retrain := none
        active := if popcount x.active + x.training.length < 16 then setBit x.active i.val true else x.active }) l fun k => { k with
      ctrl := if fld k.ctrl 0 5 = i.val ∧ bit k.ctrl 5 = d then setBit k.ctrl 6 false else k.ctrl })) ∧
    (bit x.retired i.val = false → ∃ t, exec (.laceRetrainDone l d i false) s = .next t ∧
      bit ((vget t.lacing.links l).dir d).retired i.val = true ∧ ((vget t.lacing.links l).dir d).retrain = none))

/-- When the router of a core fails, its node is failed and the region whose router it is, if any, is DOWN; once DIST has been written, its
epoch moves on by two and DIST_GEN by one. The source node of outstanding transactions that crossed something failed drops exactly
these, and quarantines their tags; a quarantine that ends frees the tag. DIST_RECOMPUTE takes the measured delays and
rewrites DIST without a route change. A lost module leaves its site and its link; a link's last module fails the link. -/
def Obligations.RoutersFail : Prop := ∀ (s : State),
  (∀ n : CoreId, nodeUp s (fieldOf s n).val = true → ∃ t, exec (.routerFail n) s = .next t ∧
    nodeUp t (fieldOf s n).val = false ∧ (∀ m < 15, m ≠ (fieldOf s n).val → nodeUp t m = nodeUp s m) ∧
    (∀ q, regionAt (fieldOf s n).val = some q → (vget t.tiers.regions q).state = 3) ∧
    (s.lacing.distGen ≠ 0 → t.lacing.distGen = s.lacing.distGen + 1 ∧ t.lacing.distEpoch = s.lacing.distEpoch + 2) ∧
    t.mem = s.mem ∧ t.cores = s.cores) ∧
  (∀ (n : Fin 15) (c : CoreId), n.val = c.val → s.tiers.queue = [] → ∃ t, exec (.outstandingPathAbort n) s = .next t ∧
    (getCore t c).txns = (getCore s c).txns.filter (fun x => !txnCut s x) ∧
    (getCore t c).quarantine = (getCore s c).quarantine ++ ((getCore s c).txns.filter (txnCut s)).map (·.tag) ∧ t.mem = s.mem) ∧
  (∀ (c : CoreId) (tag : BitVec 12), exec (.tagQuarantineEnd c tag) s =
    .next (modCore s c fun k => { k with quarantine := k.quarantine.erase tag })) ∧
  (∀ a b v q : BitVec 16, s.lacing.distGen ≠ 0 → ∃ t, exec (.distRecompute a b v q) s = .next t ∧
    t.lacing.dist = distTable (modLacing s fun x => { x with
      hopPs := a, bndPs := b, distHop := a, distBnd := b, vlacMv := v, tlacQ := q }) ∧
    t.lacing.distEpoch = s.lacing.distEpoch + 2 ∧ t.lacing.distGen = s.lacing.distGen ∧
    t.lacing.hopPs = a ∧ t.lacing.bndPs = b ∧ t.lacing.vlacMv = v ∧ t.lacing.tlacQ = q ∧ t.cores = s.cores ∧ t.mem = s.mem) ∧
  (∀ u : Fin 16, (vget s.sites u).state = 3 ∨ (vget s.sites u).state = 4 → ∃ t, exec (.ucieModuleFail u) s = .next t ∧
    (vget t.sites u).state = 0 ∧ (vget t.sites u).down = satAdd (vget s.sites u).down 1 ∧
    (vget t.lacing.links (siteLink u)).modules = (vget s.lacing.links (siteLink u)).modules - 1 ∧
    ((vget s.lacing.links (siteLink u)).modules ≤ 1 → (vget t.lacing.links (siteLink u)).failed = true) ∧
    (∀ v, v ≠ u → vget t.sites v = vget s.sites v) ∧ t.mem = s.mem ∧ t.cores = s.cores)

/-- A queued request whose unit serves and which is not behind an earlier one to its slot: a write in service changes exactly its bytes, leaves
the queue and completes the access that waits for it; a read, no better class waiting for its unit, gives that access the slot's bytes with
the slot's poison, poisoned too where the unit is RETIRE_PENDING, and after an uncorrectable error the slot is poisoned and so is the
data. A request that has waited AGE_US is served as demand. A refresh notes an HBM stack's temperature, doubled rate above 85 degrees,
or a channel's MR4 rate. -/
def Obligations.MemoryServes : Prop := ∀ (s : State),
  (∀ (r : MemReq), (s.tiers.queue.find? fun x => x.id == r.id) = some r → behindSlot s.tiers.queue r = false → memServes s r = true →
    (r.write = true →
      (unitPending s.tiers (memWhere s.tiers r.addr) = false → ∃ t, exec (.memWriteAccept r.id .clean) s = .next t ∧
        (∀ x, x < r.addr ∨ r.addr + r.data.length ≤ x → memGet t.mem x = memGet s.mem x) ∧
        (s.Canonical → ∀ i (h : i < r.data.length), memGet t.mem (r.addr + i) = r.data[i]) ∧
        t.tiers.queue = s.tiers.queue.filter (fun x => x.id != r.id) ∧ t.full = s.full ∧
        (∀ c q, r.from_ = .engine c q → getSeq t c q = settle (getSeq s c q) (fun a => a.place == .memory && a.phase == .sent r.id)
          fun a => if a.write then { a with phase := .done } else { a with data := slice [] a.lo a.len, poison := false, phase := .done })) ∧
      (unitPending s.tiers (memWhere s.tiers r.addr) = true → ∃ t, exec (.memWriteAccept r.id .clean) s = .next t ∧ t.mem = s.mem ∧
        t.poison = s.poison ∧ t.tiers.queue = s.tiers.queue.filter fun x => x.id != r.id)) ∧
    (r.write = false →
      (∀ x ∈ s.tiers.queue, x.write = false → x.cls < r.cls → behindSlot s.tiers.queue x = false →
        (memWhere s.tiers x.addr).unitKey ≠ (memWhere s.tiers r.addr).unitKey) →
      exec (.memReadServe r.id .clean) s = .next (settleMem s r (memRead s.mem (r.addr / 64 * 64) 64)
        (isPoison s (r.addr / 64) || unitPending s.tiers (memWhere s.tiers r.addr))) ∧
      ∃ u, exec (.memReadServe r.id .uncorrectable) s = .next (settleMem u r (memRead s.mem (r.addr / 64 * 64) 64) true) ∧
        u.mem = s.mem ∧ isPoison u (r.addr / 64) = true ∧ u.cores = s.cores)) ∧
  (∀ id, exec (.memRequestAge id) s = .next (modTiers s fun t => { t with
    queue := t.queue.map fun r => if r.id = id then { r with aged := true } else r })) ∧
  (∀ (u : Fin 16) (k : BitVec 8),
    exec (.memRefresh false u k) s = .next (modStack s u fun x => { x with temp := k, hot := decide (85 < k.toNat) }) ∧
    ((vget s.tiers.chans u).state ≠ 3 → exec (.memRefresh true u k) s = .next (modChan s u fun x => { x with
      refRate := if k.toNat ≤ 2 then k.setWidth 3 else x.refRate })))

/-- A clean patrol read of a slot in service moves the patrol past it, or starts a new pass and counts this one. A unit that has retrained is
back in service, its repaired lane counted. The repair of a permanently faulty row poisons every slot of its page, keeps the row for hPPR
and changes no byte; without repair resource the unit becomes RETIRE_PENDING. A RETIRE_PENDING unit that no job's window meets
leaves the interleave, and its region, or all LPDDR5X, reads zero and unpoisoned. A region DOWN for its failed router moves onto the seam
link of its partner: it is on BYPASS and so is the link. -/
def Obligations.MemoryUpkeep : Prop := ∀ (s : State),
  (∀ (da : BitVec 48) (a : Nat), a = da.toNat / 64 * 64 → populated s.tiers a = true → memUp s a = true →
    unitRetraining s.tiers (memWhere s.tiers a) = false → unitPending s.tiers (memWhere s.tiers a) = false →
    exec (.memPatrolRead da .clean) s = .next (modTiers s fun t =>
      if a = lastMemSlot t then { t with patrolAt := 0, passes := t.passes + 1 } else { t with patrolAt := a + 64 })) ∧
  (∀ (u : Fin 16) (p : Fin 32) (b : Bool), (vget s.tiers.stackList u).retrain = some p.val →
    ∃ t, exec (.memRetrainDone false u p true b) s = .next t ∧ t.mem = s.mem ∧ t.cores = s.cores ∧
      vget t.tiers.stackList u = { vget s.tiers.stackList u with
        retrain := none, lanes := if b then satAdd (vget s.tiers.stackList u).lanes 1 else (vget s.tiers.stackList u).lanes }) ∧
  (∀ (u : Fin 16) (p : Fin 32) (b : Bool), (vget s.tiers.chans u).state = 1 →
    ∃ t, exec (.memRetrainDone true u p true b) s = .next t ∧ t.mem = s.mem ∧ t.cores = s.cores ∧
      vget t.tiers.chans u = { vget s.tiers.chans u with state := 0 }) ∧
  (∀ (da : BitVec 48) (w : MemWhere), w = memWhere s.tiers da.toNat → populated s.tiers da.toNat = true →
    (∃ e ∈ s.tiers.permRows, e.2.1 = w.rowKey) → w.rowKey ∉ s.tiers.hpprRows →
    (∃ t, exec (.memRowRepair da true) s = .next t ∧ w.rowKey ∈ t.tiers.hpprRows ∧
      (∀ x ∈ pageSlots s.tiers da.toNat, isPoison t (x / 64) = true) ∧
      (∀ n, isPoison s n = true → isPoison t n = true) ∧ t.mem = s.mem ∧ t.cores = s.cores) ∧
    ∃ t, exec (.memRowRepair da false) s = .next t ∧ unitPending t.tiers w = true ∧ t.mem = s.mem ∧ t.cores = s.cores) ∧
  (∀ (u : Fin 16) (p : Fin 32),
    (bit (vget s.tiers.regions (regionOf u)).pend (u.val % 2 * 32 + p.val) = true →
      windowMeets s ((regionOf u).val * regionBytes) (((regionOf u).val + 1) * regionBytes) = false →
      ∃ t, exec (.memRetireApply false u p) s = .next t ∧
        (vget t.tiers.regions (regionOf u)).live = setBit (vget s.tiers.regions (regionOf u)).live (u.val % 2 * 32 + p.val) false ∧
        (vget t.tiers.regions (regionOf u)).pend = setBit (vget s.tiers.regions (regionOf u)).pend (u.val % 2 * 32 + p.val) false ∧
        (∀ x, memGet t.mem x = if x < (regionOf u).val * regionBytes ∨ (regionOf u).val * regionBytes + regionBytes ≤ x
          then memGet s.mem x else 0) ∧
        (∀ n, isPoison t n = (isPoison s n && (decide (n < (regionOf u).val * regionBytes / 64) ||
          decide ((regionOf u).val * regionBytes / 64 + regionBytes / 64 ≤ n)))) ∧ t.cores = s.cores) ∧
    ((vget s.tiers.chans u).state = 2 → windowMeets s 0x20000000000 0x40000000000 = false → s.flash.pairing = none →
      ∃ t, exec (.memRetireApply true u p) s = .next t ∧ (vget t.tiers.chans u).state = 3 ∧
        (∀ v, v ≠ u → (vget t.tiers.chans v).state = (vget s.tiers.chans v).state) ∧
        (∀ x, memGet t.mem x = if x < 0x20000000000 ∨ 0x40000000000 ≤ x then memGet s.mem x else 0) ∧ t.cores = s.cores)) ∧
  (∀ q : Fin 8, nodeUp s (nodeOfPort (2 * q.val)) = false → (vget s.tiers.regions q).state = 3 →
    nodeUp s (bypassPartner (nodeOfPort (2 * q.val))) = true → (vget s.lacing.links (bypassLink q)).failed = false →
    (vget s.lacing.links (bypassLink q)).a.active ≠ 0 → (vget s.lacing.links (bypassLink q)).b.active ≠ 0 →
    ∃ t, exec (.hbmBypassSwitch q) s = .next t ∧ (vget t.tiers.regions q).state = 1 ∧
      (vget t.lacing.links (bypassLink q)).bypass = true ∧ (∀ p, p ≠ q → vget t.tiers.regions p = vget s.tiers.regions p) ∧
      t.mem = s.mem ∧ t.cores = s.cores)

/-- For a function that decodes: a BAR2 write inside one slot of memory that the function may write, no request waiting for that slot and its
unit in service, changes exactly its bytes; a write that a Carrel takes is put there; one at a slot a Carrel holds full only counts a drop;
a denied one only counts. A BAR2 read inside one clean slot that the function may read completes with the slot's bytes and poison, and one
that touches a denied slot with Completer Abort. A byte written to BAR0 goes into a mailbox that the function reaches while its OWN
is 0, is discarded while its OWN is 1, and into its MSI-X table in place. -/
def Obligations.HostReachesMemory : Prop := ∀ (s : State) (fn : Fin 9) (off a : Nat) (f : PcieFn), f = vget s.pcie.fns fn →
  a = f.apBase.toNat * 2 ^ 30 + off → decodes s fn = true →
  (∀ bytes : List Byte, bytes ≠ [] → a % 64 + bytes.length ≤ 64 → off + bytes.length ≤ apSize f →
    (stacksCore a = none →
      (hostMemOk s fn 3 a bytes.length = true → (∀ r ∈ s.tiers.queue, r.addr / 64 ≠ a / 64) →
        unitPending s.tiers (memWhere s.tiers a) = false → ∃ t, exec (.bar2Write fn off bytes) s = .next t ∧
          (∀ x, x < a ∨ a + bytes.length ≤ x → memGet t.mem x = memGet s.mem x) ∧
          (s.Canonical → ∀ i (h : i < bytes.length), memGet t.mem (a + i) = bytes[i]) ∧
          t.full = s.full ∧ t.cores = s.cores ∧ t.pcie = s.pcie) ∧
      (hostMemOk s fn 3 a bytes.length = false →
        exec (.bar2Write fn off bytes) s = .next (modPcie s fun p => { p with apDeny := satAdd p.apDeny 1 }))) ∧
    (∀ c i, stacksCore a = some c →
      carrelMeets s (a / 64 * 64) (decide (bytes.length = 64)) (hostWriter s fn) = .ok (c, i) →
      exec (.bar2Write fn off bytes) s = .next (carrelPut s c i (a / 64 * 64) (a % 64) bytes false)) ∧
    (∀ c i, stacksCore a = some c → carrelMeets s (a / 64 * 64) (decide (bytes.length = 64)) (hostWriter s fn) = .error 8 →
      carrelAt (getCore s c).stk ((a - 0x080000000000) % 0x80000000) = some i →
      exec (.bar2Write fn off bytes) s = .next (modCarrel s c i fun r => { r with drops := satAdd r.drops 1 }))) ∧
  (∀ n, 0 < n → a % 64 + n ≤ 64 → off + n ≤ apSize f →
    (hostReadOk s fn a n = false → exec (.bar2Read fn off n []) s = .next (complete s fn off [] false)) ∧
    (hostReadOk s fn a n = true → (∀ r ∈ s.tiers.queue, r.addr / 64 ≠ a / 64) → exec (.bar2Read fn off n []) s = .next (complete s fn off
      (memRead s.mem a n) (isPoison s (a / 64) || ((stacksCore a).isNone && unitPending s.tiers (memWhere s.tiers a)))))) ∧
  (∀ b : Byte, mailboxesServed s = true → f.pba = 0 →
    (∀ k, off < 0x10000 → mailboxAt s fn (off / 0x1000) = some k →
      ((getMb s k).own = true → exec (.bar0Write fn off [b]) s = .next s) ∧
      ((getMb s k).own = false → 0x40 ≤ off % 0x1000 → exec (.bar0Write fn off [b]) s = .next (modMb s k fun m => { m with
        payload := smapSet 0 m.payload (off % 0x1000 - 0x40) b }))) ∧
    ((tableAt fn).1 ≤ off → off < (tableAt fn).1 + (tableAt fn).2 → exec (.bar0Write fn off [b]) s =
      .next (modFn s fn fun f => { f with table := smapSet 0 f.table (off - (tableAt fn).1) b })))

/-- With the link up and the endpoint ready, a configuration write to an enabled function enables every function on the PF, resizes the
function's aperture (a VF's to at most 16 GiB), sets its MSI-X enable or mask where nothing is left pending, or puts it in D0; before that
nothing changes. A DOE request is answered; D3hot stops the function's memory decoding; the link goes down, and comes up at the trained
speed and width, in Flit Mode at 64 GT/s exactly; a lane fault leaves the link narrower. -/
def Obligations.HostPortEvents : Prop := ∀ (s : State),
  (∀ (fn : Fin 9) (op : ConfigWrite),
    (s.pcie.up = false ∨ s.pcie.ready = false ∨ (vget s.pcie.fns fn).enabled = false → exec (.pcieConfigWrite fn op) s = .next s) ∧
    (s.pcie.up = true → s.pcie.ready = true → (vget s.pcie.fns fn).enabled = true →
      (op = .vfEnable → fn = 0 → ∃ t, exec (.pcieConfigWrite fn op) s = .next t ∧ (∀ g, (vget t.pcie.fns g).enabled = true) ∧
        t.cores = s.cores ∧ t.mem = s.mem ∧ t.reg.mailboxes = s.reg.mailboxes) ∧
      (∀ n : Fin 7, op = .resizeBar2 n → fn = 0 ∨ n.val ≤ 4 →
        exec (.pcieConfigWrite fn op) s = .next (modFn s fn fun f => { f with apLog2 := BitVec.ofNat 3 n.val })) ∧
      (∀ n : Fin 7, op = .resizeBar2 n → fn ≠ 0 → 4 < n.val → exec (.pcieConfigWrite fn op) s = .next s) ∧
      (∀ b, (vget s.pcie.fns fn).pba = 0 →
        (op = .msixEnable b → exec (.pcieConfigWrite fn op) s = .next (modFn s fn fun f => { f with msixEn := b })) ∧
        (op = .msixMask b → exec (.pcieConfigWrite fn op) s = .next (modFn s fn fun f => { f with msixMask := b }))) ∧
      (op = .toD0 → exec (.pcieConfigWrite fn op) s = .next (modFn s fn fun f => { f with d3hot := false })) ∧
      exec (.powerstateD3hot fn) s = .next (modFn s fn fun f => { f with d3hot := true }))) ∧
  (∀ req, s.pcie.up = true → s.pcie.ready = true → (vget s.pcie.fns 0).enabled = true →
    exec (.spdmDoeRequest req) s = .next (modPcie s fun p => { p with doe := p.doe ++ [Config.spdmAnswer req] })) ∧
  (s.pcie.up = true → ∃ t, exec .pcieLinkDown s = .next t ∧ t.pcie.up = false ∧ t.pcie.speed = 0 ∧ t.pcie.width = 0 ∧
    t.cores = s.cores ∧ t.mem = s.mem ∧ t.reg.jobs = s.reg.jobs ∧ t.reg.mailboxes = s.reg.mailboxes) ∧
  (∀ (v : Fin 7) (w : Fin 17), s.pcie.up = false → s.pins.perst = false → domainUp s 28 = true → v ≠ 0 → linkWidthOk w.val = true →
    ∃ t, exec (.pcieLinkUp v w) s = .next t ∧ t.pcie.up = true ∧ t.pcie.speed = BitVec.ofNat 4 v.val ∧
      t.pcie.width = BitVec.ofNat 5 w.val ∧ (t.pcie.flit = true ↔ v.val = 6) ∧ t.cores = s.cores ∧ t.mem = s.mem) ∧
  (∀ w : Fin 17, s.pcie.up = true → linkWidthOk w.val = true → w.val < s.pcie.width.toNat →
    ∃ t, exec (.hostLaneFault w) s = .next t ∧ t.pcie.width = BitVec.ofNat 5 w.val ∧ t.pcie.up = true ∧
      t.pcie.speed = s.pcie.speed ∧ t.cores = s.cores ∧ t.mem = s.mem)

/-- The reset of an enabled VF: its configuration is as after reset but still enabled, its grant ends, every job bound to it is killed, a
command only posted in its mailboxes is gone and an accepted one is abandoned. The reset of the PF does the same to the PF's two mailboxes
and its grant, disables every VF, and kills no job. VF Enable cleared resets every enabled VF and disables it. -/
def Obligations.FunctionsReset : Prop := ∀ (s : State),
  (∀ v : Fin 8, (vget s.pcie.fns (vfOf v)).enabled = true → ∃ t, exec (.flrVf v) s = .next t ∧
    vget t.pcie.fns (vfOf v) = { PcieFn.init with enabled := true } ∧ vget t.reg.grants (vfOf v) = none ∧
    (∀ j x, findJob s j = some x → x.func = vfOf v → ∃ y, findJob t j = some y ∧ y.killed = true) ∧
    ((∀ c ∈ s.resil.snaps, c.restore = none) →
      ∀ k, getMb t k = if (getMb s k).fn = vfOf v then abandon (getMb s k) else getMb s k)) ∧
  ((vget s.pcie.fns 0).enabled = true → ∃ t, exec .flrPf s = .next t ∧
    vget t.pcie.fns 0 = { PcieFn.init with enabled := true } ∧
    (∀ v : Fin 8, (vget t.pcie.fns (vfOf v)).enabled = false) ∧ vget t.reg.grants 0 = none ∧
    t.reg.jobs = s.reg.jobs ∧ t.cores = s.cores ∧ t.mem = s.mem ∧ getMb t 0 = abandon (getMb s 0) ∧ getMb t 1 = abandon (getMb s 1) ∧
    (∀ k : Fin 16, 2 ≤ k.val → getMb t k = getMb s k)) ∧
  (∃ t, exec .vfEnableClear s = .next t ∧ (∀ v : Fin 8, (vget t.pcie.fns (vfOf v)).enabled = false) ∧
    ∀ v : Fin 8, (vget s.pcie.fns (vfOf v)).enabled = true → vget t.reg.grants (vfOf v) = none ∧
      ∀ j x, findJob s j = some x → x.func = vfOf v → ∃ y, findJob t j = some y ∧ y.killed = true)

/-- With the vault UP: a command that completes leaves the list, and a Write on a drive with a volatile cache is followed by a Flush; one
that fails or times out for the first time is marked as retried and issued again, a timeout counted; a second failure resets the controller:
the reset is noted and every command is issued again, and the third reset within 24 hours retires the vault with no command left. A
drive removed leaves the port DOWN without commands. -/
def Obligations.VaultCommands : Prop := ∀ (s : State),
  (∀ (x : Nvme), s.vault.state = 1 → (s.vault.cmds.find? fun y => y.id == x.id) = some x →
    (x.flush = true ∨ s.vault.wcache = false → exec (.nvmeCmdComplete x.id true) s = .next (modVault s fun v => { v with
      cmds := v.cmds.filter fun y => y.id != x.id })) ∧
    (x.flush = false → s.vault.wcache = true → exec (.nvmeCmdComplete x.id true) s = .next (modVault s fun v => { v with
      cmds := v.cmds.filter (fun y => y.id != x.id) ++ [{ x with id := v.nextCmd, flush := true, retried := false }]
      nextCmd := v.nextCmd + 1 })) ∧
    (x.retried = false →
      exec (.nvmeCmdComplete x.id false) s = .next (modVault s fun v => { v with
        cmds := v.cmds.map fun y => if y.id = x.id then { y with retried := true } else y }) ∧
      exec (.nvmeCmdTimeout x.id) s = .next (modVault (bumpGen s) fun v => { v with
        timeouts := satAdd v.timeouts 1
        cmds := v.cmds.map fun y => if y.id = x.id then { y with retried := true } else y })) ∧
    (x.retried = true → ∀ l, l = s.reg.time.toNat :: recentTimes s dayNs s.vault.resets →
      (l.length < 3 → exec (.nvmeCmdComplete x.id false) s = .next (noted (modVault s fun v => { v with
        resets := l, cmds := v.cmds.map fun y => { y with retried := false } }))) ∧
      (3 ≤ l.length → ∃ t, exec (.nvmeCmdComplete x.id false) s = .next t ∧ t.vault.state = 3 ∧ t.vault.cmds = [] ∧
        t.cores = s.cores ∧ t.mem = s.mem))) ∧
  (s.vault.state = 1 ∨ s.vault.state = 2 → ∃ t, exec .vaultSurpriseRemoval s = .next t ∧
    t.vault = { s.vault with state := 0, cmds := [] } ∧ t.cores = s.cores ∧ t.mem = s.mem)

/-- At a port that is up. DATA for no open session is answered NO_SESSION; one that fails authentication is dropped; one already applied is
acknowledged again and not applied; a LAST whose turn has not come is held. A new plain packet of one slot that its session's Carrel takes
puts its 64 bytes there, marks the slot full where the Carrel asks for tags, settles its PSN once, and changes no other byte; where that
slot is full nothing is written and CARREL_FULL is reported. An ACK settles each packet it covers and keeps the others. A read request inside the
partner's window is answered from its bytes, one outside is refused. An answer that completes no RESTORE on a Duplicate session changes
nothing, on another it is dropped. -/
def Obligations.PacketsApplyOnce : Prop := ∀ (s : State) (port : Fin 8) (p : Packet), portUp s port = true →
  (p.typ = 1 → findSession s p.session = none → exec (.eytData port p) s = .next (ackNoSession s port p)) ∧
  (p.typ = 8 → findSession s p.session = none → exec (.eytRreq port p) s = .next (ackNoSession s port p)) ∧
  (∀ x, findSession s p.session = some x →
    (p.typ = 1 → x.state ≠ 1 → exec (.eytData port p) s = .next (ackNoSession s port p)) ∧
    (p.typ = 1 → x.state = 1 →
      (authentic x p = false → exec (.eytData port p) s = .next (modEyes s fun e => { e with dropped := e.dropped + 1 })) ∧
      (authentic x p = true →
        (∀ st, (x.applied.find? fun e => e.1 == p.psn) = some (p.psn, st) → exec (.eytData port p) s =
          .next (sendAck s x.num (if st = 0 then [] else [(p.psn, st)]))) ∧
        ((∀ e ∈ x.applied, e.1 ≠ p.psn) → before p.psn x.ackLow = false → x.held = [] →
          (p.last = true → lastReady x p = false →
            exec (.eytData port p) s = .next (modSession s x.num fun y => { y with held := y.held ++ [p] })) ∧
          (p.last = false → x.dup = false → p.ez = false → p.payload.length = 64 →
            (∀ c i, carrelMeets s p.taddr.toNat true (fun r => r.eysEn && r.eys == x.num) = .ok (c, i) → x.unsent + 1 < 16 →
              ∃ t y, exec (.eytData port p) s = .next t ∧ findSession t p.session = some y ∧
                y.applied = x.applied ++ [(p.psn, 0)] ∧ y.unsent = x.unsent + 1 ∧ t.eyes.out = s.eyes.out ∧
                (∀ n, n < (stacksAddr c ((p.taddr.toNat - 0x080000000000) % 0x80000000)) ∨
                  (stacksAddr c ((p.taddr.toNat - 0x080000000000) % 0x80000000)) + 64 ≤ n → memGet t.mem n = memGet s.mem n) ∧
                (s.Canonical → ∀ k (h : k < p.payload.length),
                  memGet t.mem (stacksAddr c ((p.taddr.toNat - 0x080000000000) % 0x80000000) + k) = p.payload[k]) ∧
                (s.Canonical → (vget (getCore s c).stk.carrels i).tmreq = 3 → isFull t (p.taddr.toNat / 64) = true)) ∧
            (carrelMeets s p.taddr.toNat true (fun r => r.eysEn && r.eys == x.num) = .error 8 →
              exec (.eytData port p) s = .next (sendAck s x.num [(p.psn, 8)])))))) ∧
    (p.typ = 2 → authentic x p = true → x.queue = [] → topSack p = none →
      exec (.eytAck port p) s = .next (x.unacked.foldl (settleUnacked x.num p) s) ∧
      (∀ u, x.unacked = [u] → ackStatus p u.pkt.psn = some 0 → exec (.eytAck port p) s =
        .next (modSession s x.num fun y => { y with unacked := y.unacked.filter fun v => v.pkt.psn != u.pkt.psn })) ∧
      (∀ u, x.unacked = [u] → ackStatus p u.pkt.psn = none → exec (.eytAck port p) s = .next s)) ∧
    (p.typ = 8 → authentic x p = true →
      (∀ base n, dupWindow s = some (base, n) →
        (x.dup = true → p.taddr.toNat + leAt p.payload 0 8 ≤ n → ∃ t, exec (.eytRreq port p) s = .next t ∧ t.mem = s.mem ∧
          t.cores = s.cores ∧ t.eyes.sessions = s.eyes.sessions ∧ (x.home.isSome = true → t.eyes.out.length = s.eyes.out.length +
            (rrespParcels s base p.taddr.toNat (leAt p.payload 0 8)).length)) ∧
        (x.dup = false ∨ n < p.taddr.toNat + leAt p.payload 0 8 →
          exec (.eytRreq port p) s = .next (sendAck s x.num [(p.psn, 1)]))) ∧
      (dupWindow s = none → exec (.eytRreq port p) s = .next (sendAck s x.num [(p.psn, 1)]))) ∧
    (p.typ = 9 →
      (authentic x p = false ∨ x.dup = false →
        exec (.eytRresp port p) s = .next (modEyes s fun e => { e with dropped := e.dropped + 1 })) ∧
      (authentic x p = true → x.dup = true → (∀ c ∈ s.resil.snaps, c.restore = none) → exec (.eytRresp port p) s = .next s) ∧
      (authentic x p = true → x.dup = true → ∀ c r r', s.resil.snaps = [c] → c.restore = some r → r.source = 0 → r.left ≠ [] →
        x.queue = [] → dupBase s r.snap.half ≤ p.taddr.toNat → r' = takeSlots r (p.taddr.toNat - dupBase s r.snap.half) p → r'.left ≠ [] →
        ∃ t, exec (.eytRresp port p) s = .next t ∧ t.resil.snaps = [{ c with restore := some r' }] ∧ t.mem = s.mem ∧ t.cores = s.cores)))

/-- At a port that is up, with an authentic packet. OPEN of a session that opens here, with the same kind, opens it and is answered OPEN_ACK
with status OK; of one in use, or of another kind, it is answered NO_SESSION. OPEN_ACK with status OK opens the session, with another status it
makes this end wait. CLOSE ends the session: it is in the list no more. KEEPALIVE without an acknowledgement changes nothing, and with one
it settles packets. MOVE gives the address to which this end sends, and sends unsettled packets again.
The timers need no port: an unsettled packet whose timer runs out, or whose wait for a full slot ends, is sent again, marked as a
retransmission; the timer's expiry is counted on it. A delayed ACK is sent where packets wait for it. An idle open session sends KEEPALIVE
with its cumulative number. A silent session is LOST: it has no home, the loss is counted, and every ESEND in flight on it faults EYT_LOST. -/
def Obligations.SessionsLive : Prop := ∀ (s : State) (p : Packet) (x : Session) (n : BitVec 24), n = p.session →
  findSession s p.session = some x →
  (∀ port : Fin 8, portUp s port = true →
  (authentic x p = true → x.dup = false →
    (p.typ = 3 →
      (x.state = 0 → leAt p.payload 0 1 = 0 → ∃ t, exec (.eytOpen port p) s = .next t ∧
        findSession t p.session = some { x with state := 1 } ∧ t.cores = s.cores ∧ t.mem = s.mem ∧
        t.eyes.out = (emit s x { blankPacket x 4 with payload := openPayload s x 0 }).eyes.out) ∧
      (x.state ≠ 0 ∨ leAt p.payload 0 1 ≠ 0 →
        exec (.eytOpen port p) s = .next (emit s x { blankPacket x 4 with payload := openPayload s x 9 }))) ∧
    (p.typ = 4 → x.state = 0 →
      (leAt p.payload 3 1 = 0 → ∃ t, exec (.eytOpenAck port p) s = .next t ∧
        findSession t p.session = some { x with state := 1 } ∧ t.cores = s.cores ∧ t.mem = s.mem ∧ t.eyes.out = s.eyes.out) ∧
      (leAt p.payload 3 1 ≠ 0 →
        exec (.eytOpenAck port p) s = .next (modSession s x.num fun y => { y with initiator := false }))) ∧
    (p.typ = 5 → (∀ q, s.flash.pairing = some q → q.session ≠ x.num) → ∃ t, exec (.eytClose port p) s = .next t ∧
      findSession t p.session = none ∧ t.mem = s.mem ∧
      (∀ n, n ≠ p.session → findSession t n = findSession s n))) ∧
  (authentic x p = true →
    (p.typ = 6 → p.ackPsn = 0 → exec (.eytKeepalive port p) s = .next s) ∧
    (p.typ = 6 → p.ackPsn ≠ 0 → x.queue = [] → exec (.eytKeepalive port p) s =
      .next (x.unacked.foldl (settleUnacked x.num { p with payload := [] }) s)) ∧
    (p.typ = 7 → ∃ t, exec (.eytMove port p) s = .next t ∧
      findSession t p.session = some { x with peer := BitVec.ofNat 128 (beNat (slice p.payload 0 16)) } ∧
      t.cores = s.cores ∧ t.mem = s.mem ∧ (x.home.isSome = true → t.eyes.out.length = s.eyes.out.length + x.unacked.length)))) ∧
  (∀ (u : Unacked) (psn : BitVec 32), (x.unacked.find? fun v => v.pkt.psn == psn) = some u → x.state ≠ 2 →
    exec (.eytRtoExpire n psn) s = .next (emit (modSession s n fun y => { y with
      unacked := y.unacked.map fun v => if v.pkt.psn = psn then { v with tries := v.tries + 1 } else v }) x { u.pkt with retx := true }) ∧
    ((∀ v ∈ x.unacked, v.pkt.psn = psn → v = u) → 0 < u.full →
      exec (.carrelFullRetry n psn) s = .next (emit s x { u.pkt with retx := true }))) ∧
  (x.state = 1 → 0 < x.unsent → exec (.eytAckDelay n) s = .next (sendAck s n [])) ∧
  (x.state = 1 → exec (.eytKeepaliveTimer n) s = .next (emit s x { blankPacket x 6 with ackPsn := x.ackLow })) ∧
  (x.state ≠ 2 → x.dup = false → ∃ t, exec (.eytSessionDead n) s = .next t ∧
    findSession t n = some { x with state := 2, home := none } ∧ t.eyes.lost = satAdd s.eyes.lost 1 ∧ t.mem = s.mem ∧
    (∀ (c : CoreId) (d : Fin 8), esendOn (getSeq s c (dmaSeq d)) n = true →
      (getSeq t c (dmaSeq d)).st = .fault ∧ (getSeq t c (dmaSeq d)).fault = 0x17) ∧
    (∀ (c : CoreId) (q : SeqId), (∀ d, q ≠ dmaSeq d) → getSeq t c q = getSeq s c q))

/-- At a port that is up: a solicitation or an echo request for an own address is answered with one frame, and one for another address, like a
foreign frame or a PFC frame of a priority not enabled, is discarded and counted; an enabled PFC frame pauses or resumes. A link that goes
down is counted and its port trains; more downs than FLAPS within an hour, a failed training or the BER limit retire it. A configured
port whose link trains is up. -/
def Obligations.EyeletsServe : Prop := ∀ (s : State) (port : Fin 8),
  (portUp s port = true →
    (∀ target src : BitVec 128, ownAddr s port target = true → ∃ l, exec (.neighbourDiscovery port target src) s =
      .next (modEyes s fun e => { e with frames := e.frames ++ [(port, l)] })) ∧
    (∀ target src : BitVec 128, ownAddr s port target = false → exec (.neighbourDiscovery port target src) s =
      .next (modEye s port fun x => { x with discards := x.discards + 1 })) ∧
    (∀ (dst src : BitVec 128) (data : List Byte), ownAddr s port dst = true → exec (.icmpv6Echo port dst src data) s =
      .next (modEyes s fun e => { e with frames := e.frames ++ [(port, icmp6 dst src 129 data)] })) ∧
    exec (.foreignFrame port) s = .next (modEye s port fun x => { x with discards := x.discards + 1 }) ∧
    (∀ (k : Fin 8) (b : Bool),
      ((vget s.eyes.ports port).pfc.toNat = k.val + 1 →
        exec (.pfcPauseFrame port k b) s = .next (modEye s port fun x => { x with paused := b })) ∧
      ((vget s.eyes.ports port).pfc.toNat ≠ k.val + 1 →
        exec (.pfcPauseFrame port k b) s = .next (modEye s port fun x => { x with discards := x.discards + 1 }))) ∧
    (∃ t, exec (.preFecBerLimit port) s = .next t ∧ (vget t.eyes.ports port).state = 3 ∧ t.cores = s.cores ∧ t.mem = s.mem) ∧
    (∃ t, exec (.eyeletLinkDown port) s = .next t ∧ (vget t.eyes.ports port).downs = satAdd (vget s.eyes.ports port).downs 1 ∧
      (vget t.eyes.ports port).state = (if clampNat 1 255 (fld s.eyes.thr 0 8) <
        (recentTimes s hourNs (vget s.eyes.ports port).downTimes).length + 1 then 3 else 2) ∧ t.cores = s.cores ∧ t.mem = s.mem)) ∧
  ((vget s.eyes.ports port).configured = true → (vget s.eyes.ports port).state ≠ 1 → (vget s.eyes.ports port).state ≠ 3 →
    eytPresent s = true →
    (∃ t, exec (.eyeletLinkUp port true) s = .next t ∧ (vget t.eyes.ports port).state = 1 ∧ t.cores = s.cores ∧ t.mem = s.mem) ∧
    ∃ t, exec (.eyeletLinkUp port false) s = .next t ∧ (vget t.eyes.ports port).state = 3 ∧ t.cores = s.cores ∧ t.mem = s.mem)

/-- For a function that decodes, at a mailbox it holds, the mailboxes served. While OWN is 1, a CTRL write without CANCEL changes nothing,
and CANCEL marks a posted command, ends a queued one CANCELLED and leaves a running one. A CTRL write with OWN posts a command; where
Ikied takes commands: a CANCEL ends it CANCELLED, an unknown code BAD_CODE, one that the mailbox may not carry NOT_OWNER; in an authenticated
mailbox LOCKED while locked, BAD_CHECK on a wrong CHECK, STALE on a counter not above LAST_CTR, each of the two last counted and the eighth
in a row locking; else the first later check that fails. A command that passes is accepted: it has the next order, the failure count of
MB0 and MB1 is zero, its counter is LAST_CTR where authenticated; it is QUEUED or RUNNING, and RUNNING where no other is in progress; NOP
then ends OK at once. -/
def Obligations.MailboxTakesCommands : Prop := ∀ (s : State) (fn : Fin 9) (n k : Fin 16) (ctrl : BitVec 32),
  decodes s fn = true → mailboxesServed s = true → mailboxAt s fn n.val = some k →
  ((getMb s k).own = true →
    (bit ctrl 1 = false → exec (.mailboxOwnWrite fn n ctrl) s = .next s) ∧
    ((getMb s k).phase = 0 → exec (.mailboxCancel fn n) s = .next (modMb s k fun m => { m with cancel := true })) ∧
    ((getMb s k).phase = 1 → exec (.mailboxCancel fn n) s = .next (promote (refuse s k stCancelled))) ∧
    ((getMb s k).phase = 2 → exec (.mailboxCancel fn n) s = .next s)) ∧
  (∀ u m, u = modMb s k (fun m => { m with own := true, cancel := bit ctrl 1, expert := bit ctrl 2, phase := 0 }) → m = getMb u k →
    (getMb s k).own = false → bit ctrl 0 = true →
    (takesCommands s = false → exec (.mailboxOwnWrite fn n ctrl) s = .next u) ∧
    (takesCommands s = true → bit ctrl 1 = true → exec (.mailboxOwnWrite fn n ctrl) s = .next (refuse u k stCancelled)) ∧
    (takesCommands s = true → bit ctrl 1 = false →
      (knownCodes.contains m.code.toNat = false → exec (.mailboxOwnWrite fn n ctrl) s = .next (refuse u k stBadCode)) ∧
      (knownCodes.contains m.code.toNat = true →
        (mayCarry u k m = false → exec (.mailboxOwnWrite fn n ctrl) s = .next (refuse u k stNotOwner)) ∧
        (mayCarry u k m = true →
          (authenticated s k = true →
            (s.reg.ownerState = 2 → exec (.mailboxOwnWrite fn n ctrl) s = .next (refuse u k stLocked)) ∧
            (s.reg.ownerState ≠ 2 →
              (commandCheck s.reg.key m ctrl ≠ memRead m.check 0 24 ∨ m.counter.toNat ≤ s.reg.lastCtr.toNat →
                ∃ t, exec (.mailboxOwnWrite fn n ctrl) s = .next t ∧ t.cores = s.cores ∧ t.mem = s.mem ∧ t.reg.lastCtr = s.reg.lastCtr ∧
                  (m.aband = false → (getMb t k).status =
                    if commandCheck s.reg.key m ctrl ≠ memRead m.check 0 24 then stBadCheck else stStale) ∧
                  (s.reg.fails + 1 < 8 → t.reg.fails = s.reg.fails + 1 ∧ t.reg.ownerState = s.reg.ownerState) ∧
                  (8 ≤ s.reg.fails + 1 → t.reg.fails = 0 ∧ t.reg.ownerState = 2)))) ∧
          (∀ v, (authenticated s k = false ∧ v = u) ∨ (authenticated s k = true ∧ s.reg.ownerState ≠ 2 ∧
              commandCheck s.reg.key m ctrl = memRead m.check 0 24 ∧ s.reg.lastCtr.toNat < m.counter.toNat ∧ v = consume u m) →
            (laterChecks v (getMb v k) ≠ 0 →
              exec (.mailboxOwnWrite fn n ctrl) s = .next (refuse v k (laterChecks v (getMb v k)))) ∧
            (laterChecks v (getMb v k) = 0 → m.code ≠ 0xC5 → ∃ t, exec (.mailboxOwnWrite fn n ctrl) s = .next t ∧
              t.cores = s.cores ∧ t.mem = s.mem ∧ t.reg.jobs = s.reg.jobs ∧ t.reg.accepted = s.reg.accepted + 1 ∧
              (k.val < 2 → t.reg.fails = 0) ∧ (authenticated s k = true → t.reg.lastCtr = m.counter) ∧
              (∀ j, j ≠ k → getMb t j = getMb s j) ∧
              (m.code ≠ 1 → (getMb t k).own = true ∧ (getMb t k).order = s.reg.accepted + 1 ∧ (getMb t k).result = none ∧
                ((getMb t k).phase = 1 ∨ (getMb t k).phase = 2) ∧
                (s.reg.resetDue = false → (∀ j, j ≠ k → (getMb s j).own = false ∨ (getMb s j).phase = 0) → (getMb t k).phase = 2)) ∧
              (m.code = 1 → m.aband = false → s.reg.resetDue = false →
                (∀ j, j ≠ k → (getMb s j).own = false ∨ (getMb s j).phase = 0) →
                (getMb t k).own = false ∧ (getMb t k).status = 0 ∧ (getMb t k).rlen = 0)))))))

/-- COMMAND_COMPLETE of a command with a result: OWN and PHASE read 0, and, where the command was not abandoned, STATUS, RLEN, RSIZE and the
response are in the mailbox, in MB0 and MB1 with its CHECK; a KEY_CHANGE's new key holds from then on; no core, no job and no memory changes.
A queued command whose time is over ends BUSY. A command without a result is not answered. A lock whose time has passed ends: the part is
OWNED again; before that it stays. -/
def Obligations.CommandsEnd : Prop := ∀ (s : State) (k : Fin 16),
  (∀ st resp size, (getMb s k).result = some (st, resp, size) → ∃ t, exec (.commandComplete k) s = .next t ∧
    (getMb t k).own = false ∧ (getMb t k).phase = 0 ∧ (getMb t k).result = none ∧ t.cores = s.cores ∧ t.mem = s.mem ∧
    t.reg.jobs = s.reg.jobs ∧
    ((getMb s k).aband = false → (getMb t k).status = st ∧ (getMb t k).rlen = BitVec.ofNat 16 resp.length ∧
      (getMb t k).rsize = size ∧ (getMb t k).payload = memWrite (getMb s k).payload 0 resp ∧
      (k.val < 2 → s.reg.ownerState ≠ 0 → (getMb t k).check = memWrite [] 0 (responseCheck s.reg.key (getMb s k) st resp))) ∧
    t.reg.key = if (getMb s k).code = 0xC2 then s.reg.newKey.getD s.reg.key else s.reg.key) ∧
  ((getMb s k).result = none → exec (.commandComplete k) s = .next s) ∧
  ((getMb s k).own = true → (getMb s k).phase = 1 → ∃ t, exec (.queuedTimeout k) s = .next t ∧
    (getMb t k).own = false ∧ (getMb t k).phase = 0 ∧ t.cores = s.cores ∧ t.mem = s.mem ∧
    ((getMb s k).aband = false → (getMb t k).status = stBusy ∧ (getMb t k).rlen = 0)) ∧
  (s.reg.ownerState = 2 →
    (s.reg.locks.headD 0 + lockNs s.reg ≤ s.reg.time.toNat →
      exec .authLockExpire s = .next (bumpGen (modReg s fun r => { r with ownerState := 1 }))) ∧
    (s.reg.time.toNat < s.reg.locks.headD 0 + lockNs s.reg → exec .authLockExpire s = .next s))

/-- For every mailbox command: where the mailbox does not run a command of its code (and, where the payload names an operation, of that
operation), nothing changes; where it runs and a check fails, the command ends with that check's STATUS and no response, and nothing
else changes. -/
def Obligations.CommandsRefuse : Prop := ∀ (s : State) (k : Fin 16),
  (∀ (r : TestOutcome), ∀ e ∈ ([(Instr.inventory k, 0x02, inventoryAllow), (Instr.errRead k, 0x03, errReadAllow),
      (Instr.provRead k, 0x04, provReadAllow), (Instr.condRead k, 0x05, fun _ m => if m.fn = 0 then 0 else stDenied),
      (Instr.mbxAssign k, 0x10, mbxAllow), (Instr.jobLoad k, 0x20, jobLoadAllow), (Instr.jobStart k, 0x21, jobStartAllow),
      (Instr.jobPause k, 0x22, jobIn [4]), (Instr.jobResume k, 0x23, jobIn [5]), (Instr.jobKill k, 0x24, jobIn [3, 4, 5]),
      (Instr.jobStatus k, 0x25, jobIn [3, 4, 5, 6]), (Instr.aperture k, 0x30, apertureAllow), (Instr.portCfg k, 0x40, portCfgAllow),
      (Instr.sessOpen k, 0x41, sessOpenAllow), (Instr.sessClose k, 0x42, sessCloseAllow), (Instr.selftest k r, 0x50, selftestAllow),
      (Instr.pwrLimit k, 0x60, pwrLimitAllow), (Instr.domain k, 0x61, domainAllow), (Instr.clockCap k, 0x62, clockCapAllow),
      (Instr.restore k, 0x72, restoreAllow), (Instr.regrd k, 0x90, regrdAllow), (Instr.debugRead k, 0xC7, debugReadAllow)] :
        List (Instr × Nat × (State → Mailbox → BitVec 16))),
    (running s k e.2.1 = false → exec e.1 s = .next s) ∧
    (running s k e.2.1 = true → e.2.2 s (getMb s k) ≠ 0 → exec e.1 s = .next (ends s k (e.2.2 s (getMb s k)) []))) ∧
  (∀ e ∈ ([(Instr.snapCfgSet k, 0x70, 1, 0, snapCfgAllow), (Instr.snapCfgRead k, 0x70, 1, 1, snapConfigured [3, 4, 5]),
      (Instr.snapNowTake k, 0x71, 1, 0, snapConfigured [3, 4, 5]), (Instr.snapNowArchiveConfirm k, 0x71, 1, 1, archiveAllow),
      (Instr.snapNowAbandon k, 0x71, 1, 2, abandonAllow), (Instr.pmuCfgLedger k, 0x80, 0, 0, ledgerAllow),
      (Instr.pmuCfgSlips k, 0x80, 0, 1, slipsAllow), (Instr.condEditAppend k, 0xC4, 0, 0, editAllow),
      (Instr.condEditClear k, 0xC4, 0, 1, clearAllow), (Instr.pair k, 0xC6, 0, 0, pairAllow), (Instr.unpair k, 0xC6, 0, 1, unpairAllow)] :
        List (Instr × Nat × Nat × Nat × (State → Mailbox → BitVec 16))),
    (pf (getMb s k) e.2.2.1 1 ≠ e.2.2.2.1 ∨ running s k e.2.1 = false → exec e.1 s = .next s) ∧
    (pf (getMb s k) e.2.2.1 1 = e.2.2.2.1 → running s k e.2.1 = true → e.2.2.2.2 s (getMb s k) ≠ 0 →
      exec e.1 s = .next (ends s k (e.2.2.2.2 s (getMb s k)) [])))

/-- Where it runs and its checks pass: INVENTORY returns its fifteen sections after the header, spills them to memory when they do not fit, or
ends TOO_SMALL with the size they need. ERR_READ returns the records from a sequence number on that the caller may see and, with ACK,
acknowledges those below it. PROV_READ returns the record in use, COND_READ a part of the condition report, JOB_STATUS the job's entry, REGRD
the registers it names in order, ALLOW_READ entries of the allow-list, SNAP_CFG READ the configuration with SNAPKEY zeroed, the PMU_CFG directory
its entries, DEBUG_READ bytes of a held core. Each ends with STATUS OK. -/
def Obligations.CommandsRead : Prop := ∀ (s : State) (k : Fin 16) (m : Mailbox), m = getMb s k →
  (s.Runs k 0x02 inventoryAllow → ∀ body total, body = invSections s m → total = 64 + body.length →
    (total ≤ 4032 → exec (.inventory k) s = .next (ends s k 0 (invHeader s m total false ++ body))) ∧
    (4032 < total → pf m 8 8 < total →
      exec (.inventory k) s = .next (endsWith s k stTooSmall (invHeader s m total false) total)) ∧
    (4032 < total → total ≤ pf m 8 8 → exec (.inventory k) s =
      .next (endsWith (putFresh s (pf m 0 8) (invHeader s m total true ++ body)) k 0 (invHeader s m total true) total))) ∧
  (s.Runs k 0x03 errReadAllow → ∀ l, l = ((if 2 ≤ pf m 10 1 then s.reg.journal else s.reg.ring).filter
      fun r => decide (pf m 0 8 ≤ r.seq.toNat) && recordSeen s m r).take (pf m 8 2) →
    (pf m 10 1 % 2 = 0 →
      exec (.errRead k) s = .next (ends s k 0 (leBytes 2 l.length ++ List.replicate 6 0 ++ l.flatMap recordBytes))) ∧
    (pf m 10 1 % 2 = 1 → ∃ t, exec (.errRead k) s =
        .next (ends t k 0 (leBytes 2 l.length ++ List.replicate 6 0 ++ l.flatMap recordBytes)) ∧
      t.reg.acked = (if s.reg.acked.toNat < pf m 0 8 then BitVec.ofNat 64 (pf m 0 8) else s.reg.acked) ∧
      t.reg.ring = s.reg.ring ∧ t.reg.journal = s.reg.journal ∧ t.cores = s.cores ∧ t.mem = s.mem)) ∧
  (s.Runs k 0x04 provReadAllow → ∀ r,
    (pf m 0 1 = 2 ∧ partnerRecord s (pf m 1 1) = some r) ∨
      ((pf m 0 1 ≠ 2 ∨ partnerRecord s (pf m 1 1) = none) ∧ r = provRecord s (pf m 0 1) (pf m 1 1)) →
    exec (.provRead k) s = .next (ends s k 0 (leBytes 1 (if provGood (provCopies s (pf m 0 1) (pf m 1 1)).1 then 1 else 2) ++
      List.replicate 7 0 ++ slice r 0 64))) ∧
  (running s k 0x05 = true → m.fn = 0 → ∀ r l, r = reportImage s.flash → l = (r.drop (pf m 0 4)).take (pf m 4 4) →
    exec (.condRead k) s = .next (ends s k 0 (leBytes 4 r.length ++ leBytes 4 l.length ++ l))) ∧
  (s.Runs k 0x25 (jobIn [3, 4, 5, 6]) → ∀ j, jobNamed s m = some j →
    exec (.jobStatus k) s = .next (ends s k 0 (jobEntry j))) ∧
  (s.Runs k 0x90 regrdAllow →
    exec (.regrd k) s = .next (ends (readRegs s (regrdAddrs m)).2 k 0 (readRegs s (regrdAddrs m)).1) ∧
    (∀ a r i, regrdAddrs m = [a] → regAt a = some (r, i) → countEvent a = none →
      exec (.regrd k) s = .next (ends s k 0 (leBytes 8 (r.read s i).toNat)))) ∧
  (running s k 0x92 = true → ∀ l, l = (allowList.drop (pf m 0 4)).take 125 →
    exec (.allowRead k) s = .next (ends s k 0 (leBytes 4 allowList.length ++ leBytes 4 l.length ++ l.flatMap allowBytes))) ∧
  (pf m 1 1 = 1 → s.Runs k 0x70 (snapConfigured [3, 4, 5]) → ∀ j c, jobNamed s m = some j → findCfg s j.id = some c →
    exec (.snapCfgRead k) s = .next (ends s k 0 (patch c.payload 52 (List.replicate 32 0)))) ∧
  (pf m 0 1 = 5 → running s k 0x80 = true → ∀ n, n = min 125 (7400 - pf m 4 2) →
    exec (.pmuCfgDirectory k) s = .next (ends s k 0 (leBytes 2 7400 ++ leBytes 2 n ++ [0, 0, 0, 0] ++
      (List.range n).flatMap fun i => directoryEntry (eventAt (pf m 4 2 + i))))) ∧
  (s.Runs k 0xC7 debugReadAllow →
    exec (.debugRead k) s = .next (ends s k 0 ((List.range (pf m 8 4)).map fun i =>
      debugByte s (coreOf (pf m 0 1)) (pf m 1 1) (pf m 4 4 + i))))

/-- Where it runs and its checks pass, each of these ends OK and sets one thing: MBX_ASSIGN gives a mailbox to a function; APERTURE moves an
aperture; MEM_STATUS acknowledges INVALID; PORT_CFG configures an Eyelet, which trains again where its mode changes; SESS_OPEN adds a session
in state OPENING from the best port and SESS_CLOSE removes one; PWR_LIMIT sets the sustained limit, CLOCK_CAP a region's cap, THERMAL the
throttle point, SNAP_CFG CAPS the six caps of the risk score. No core's registers and no memory change but where a session closed faults. -/
def Obligations.CommandsSet : Prop := ∀ (s : State) (k : Fin 16) (m : Mailbox), m = getMb s k →
  (s.Runs k 0x10 mbxAllow → ∃ t, exec (.mbxAssign k) s = .next t ∧ t.cores = s.cores ∧ t.mem = s.mem ∧
    (getMb t (finOf 16 (by decide) (pf m 0 1))).fn = finOf 9 (by decide) (pf m 1 1) ∧ (getMb t k).result = some (0, [], 0) ∧
    (∀ i, i ≠ k → i ≠ finOf 16 (by decide) (pf m 0 1) → getMb t i = getMb s i)) ∧
  (s.Runs k 0x30 apertureAllow → exec (.aperture k) s = .next (ends (modFn s (finOf 9 (by decide) (pf m 8 1)) fun f =>
    { f with apBase := BitVec.ofNat 18 (pf m 0 8 / 2 ^ 30) }) k 0 [])) ∧
  (running s k 0x31 = true →
    exec (.memStatus k) s = .next (ends (clearInvalid s (decide (pf m 0 1 = 1)) (finOf 8 (by decide) (pf m 1 1))) k 0 [])) ∧
  (s.Runs k 0x40 portCfgAllow → ∀ p x, p = finOf 8 (by decide) (pf m 0 1) → x = vget s.eyes.ports p →
    ∃ t, exec (.portCfg k) s = .next t ∧ t.cores = s.cores ∧ t.mem = s.mem ∧ (getMb t k).result = some (0, [], 0) ∧
    (vget t.eyes.ports p).configured = true ∧ (vget t.eyes.ports p).mode = BitVec.ofNat 3 (pf m 1 1) ∧
    (vget t.eyes.ports p).dscp = BitVec.ofNat 8 (pf m 2 1) ∧ (vget t.eyes.ports p).pfc = BitVec.ofNat 8 (pf m 3 1) ∧
    (vget t.eyes.ports p).udp = BitVec.ofNat 16 (pf m 4 2) ∧
    (vget t.eyes.ports p).addr = BitVec.ofNat 128 (beNat (payBytes m 8 16)) ∧
    (vget t.eyes.ports p).state = (if x.state = 1 ∧ x.mode ≠ BitVec.ofNat 3 (pf m 1 1) then 2 else x.state)) ∧
  (s.Runs k 0x41 sessOpenAllow → ∃ t x, exec (.sessOpen k) s = .next t ∧ t.cores = s.cores ∧ t.mem = s.mem ∧
    t.eyes.sessions = s.eyes.sessions ++ [x] ∧ x.num = BitVec.ofNat 24 (pf m 0 4) ∧ x.state = 0 ∧ x.home = bestPort s ∧
    x.job = BitVec.ofNat 6 (pf m 5 1) ∧ x.peer = BitVec.ofNat 128 (beNat (payBytes m 8 16)) ∧
    (getMb t k).result = some (0, leBytes 1 ((bestPort s).elim 0xFF (·.val)) ++ List.replicate 7 0, 8)) ∧
  (s.Runs k 0x42 sessCloseAllow → (∀ p, s.flash.pairing = some p → p.session ≠ BitVec.ofNat 24 (pf m 0 4)) →
    ∃ t, exec (.sessClose k) s = .next t ∧ t.mem = s.mem ∧ (getMb t k).result = some (0, [], 0) ∧
    (∀ n, findSession t n = if n = BitVec.ofNat 24 (pf m 0 4) then none else findSession s n)) ∧
  (s.Runs k 0x60 pwrLimitAllow →
    exec (.pwrLimit k) s = .next (ends (noted (modPower s fun w => { w with sustW := BitVec.ofNat 12 (pf m 0 2) })) k 0 [])) ∧
  (s.Runs k 0x62 clockCapAllow → exec (.clockCap k) s = .next (ends (modRegion s (finOf 15 (by decide) (pf m 0 1)) fun r =>
    { r with cap := BitVec.ofNat 11 (capOf s (finOf 15 (by decide) (pf m 0 1)) (pf m 2 2)) }) k 0 [])) ∧
  (running s k 0x63 = true → exec (.thermal k) s =
    .next (ends (noted { s with thermal := { s.thermal with throttleQ := BitVec.ofNat 10 (pf m 0 2) } }) k 0 [])) ∧
  (pf m 1 1 = 2 → running s k 0x70 = true → ∃ t, exec (.snapCfgCaps k) s = .next t ∧ t.cores = s.cores ∧ t.mem = s.mem ∧
    (getMb t k).result = some (0, [], 0) ∧ ∀ i : Fin 6, vget t.resil.caps i = BitVec.ofNat 8 (pf m (2 + i.val) 1))

/-- OWNER_SET of an unowned part sets key and counter; KEY_CHANGE keeps the unwrapped key, or ends BAD_CHECK. FW_UPDATE of an image that does
not verify ends BAD_SIGNATURE, of an old one ROLLBACK, and otherwise stages it in the slot not active. LICENCE_INSTALL likewise refuses or keeps a
folio. DEBUG_UNLOCK gives cores and rights until a time; its end, by command or expiry, takes them back; DEBUG_RELEASE releases a held core.
COND_EDIT appends the entry, or a CLEAR; DEVICE_RESET makes the reset due. Each command ends OK where it is not refused. -/
def Obligations.OwnerCommands : Prop := ∀ (s : State) (k : Fin 16) (m : Mailbox), m = getMb s k →
  (running s k 0xC9 = true → s.reg.ownerState = 0 → ∃ t, exec (.ownerSet k) s = .next t ∧ t.reg.key = payBytes m 0 48 ∧
    t.reg.lastCtr = BitVec.ofNat 64 (pf m 48 8) ∧ t.reg.ctrHigh = BitVec.ofNat 64 (pf m 48 8) ∧ t.reg.ownerState = 1 ∧
    (getMb t k).result = some (0, [], 0) ∧ t.cores = s.cores ∧ t.mem = s.mem) ∧
  (running s k 0xC9 = true → s.reg.ownerState ≠ 0 → exec (.ownerSet k) s = .next (ends s k stBadState [])) ∧
  (running s k 0xC2 = true → ∀ r, r = Config.gcmOpen (hkdf32 s.reg.key (ascii "NZKEYWRAP1")) (payBytes m 0 12) (payBytes m 12 48)
      (payBytes m 60 16) →
    (r = none → exec (.keyChange k) s = .next (ends s k stBadCheck [])) ∧
    (∀ x, r = some x → exec (.keyChange k) s = .next (ends (modReg s fun r => { r with newKey := some (slice x 0 48) }) k 0 []))) ∧
  (running s k 0xC0 = true → ∀ (ok : Bool) img, img = memRead s.mem (pf m 0 8) (pf m 8 8) →
    (anyPoison s (pf m 0 8) (pf m 8 8) = true ∨ imageVerifies img = false →
      exec (.fwUpdate k ok) s = .next (ends s k stBadSignature [])) ∧
    (anyPoison s (pf m 0 8) (pf m 8 8) = false → imageVerifies img = true →
      (leAt img 0x0C 4 < s.flash.fwCtr → exec (.fwUpdate k ok) s = .next (ends s k stRollback [])) ∧
      (s.flash.fwCtr ≤ leAt img 0x0C 4 → pf m 16 1 = 0 → ∃ t, exec (.fwUpdate k ok) s = .next t ∧ t.flash = stageImage s.flash img ∧
        t.flash.active = s.flash.active ∧ t.flash.pending = some (!s.flash.active) ∧ t.cores = s.cores ∧ t.mem = s.mem ∧
        (getMb t k).result = some (0, leBytes 4 (BitVec.ofNat 32 (leAt img 8 4)).toNat ++ [0, 0, 0, 0], 8)) ∧
      (s.flash.fwCtr ≤ leAt img 0x0C 4 → pf m 16 1 ≠ 0 → bit (BitVec.ofNat 16 (leAt img 6 2)) 0 = true → ok = true →
        ∃ t, exec (.fwUpdate k ok) s = .next t ∧ t.flash.active = !s.flash.active ∧ t.flash.pending = none ∧
          t.flash.running = BitVec.ofNat 32 (leAt img 8 4) ∧ t.cores = s.cores ∧ t.mem = s.mem))) ∧
  (running s k 0xC1 = true → ∀ l x, l = memRead s.mem (pf m 0 8) 17120 → x = folioOf l →
    (anyPoison s (pf m 0 8) 17120 = true ∨ verifies (l.take 64) (l.drop 64) = false →
      exec (.licenceInstall k) s = .next (ends s k stBadSignature [])) ∧
    (anyPoison s (pf m 0 8) 17120 = false → verifies (l.take 64) (l.drop 64) = true →
      (x.svn.toNat < s.flash.licCtr → exec (.licenceInstall k) s = .next (ends s k stRollback [])) ∧
      (s.flash.licCtr ≤ x.svn.toNat → folioShape l = true → folioOk s x = true → exec (.licenceInstall k) s =
        .next (ends (modFlash s fun f => { f with folio := some x }) k 0 (leBytes 1 x.profile.toNat ++ List.replicate 7 0))) ∧
      (s.flash.licCtr ≤ x.svn.toNat → folioShape l = false ∨ folioOk s x = false →
        exec (.licenceInstall k) s = .next (ends s k stBadForm [])))) ∧
  (running s k 0xC3 = true →
    (pf m 4 4 ≠ 0 → ∃ t, exec (.debugUnlock k) s = .next t ∧ t.reg.dbgCores = BitVec.ofNat 12 (pf m 0 2) ∧
      t.reg.dbgRights = BitVec.ofNat 8 (pf m 2 1) ∧ t.reg.dbgUntil = s.reg.time.toNat + pf m 4 4 * 10 ^ 9 ∧
      (getMb t k).result = some (0, [], 0) ∧ t.mem = s.mem) ∧
    (pf m 4 4 = 0 → ∃ t, exec (.debugUnlock k) s = .next t ∧ t.reg.dbgCores = 0 ∧ t.reg.dbgRights = 0 ∧ t.reg.dbgUntil = 0 ∧
      (getMb t k).result = some (0, [], 0) ∧ t.mem = s.mem)) ∧
  (s.reg.dbgUntil ≠ 0 → s.reg.dbgUntil ≤ s.reg.time.toNat → ∃ t, exec .debugUnlockExpire s = .next t ∧ t.reg.dbgCores = 0 ∧
    t.reg.dbgRights = 0 ∧ t.reg.dbgUntil = 0 ∧ t.mem = s.mem ∧
    (∀ c, (getCore t c).stk.hold = false)) ∧
  (running s k 0xC8 = true → ∃ t, exec (.debugRelease k) s = .next t ∧ (getMb t k).result = some (0, [], 0) ∧ t.mem = s.mem ∧
    ∀ c : CoreId, (pf m 0 2).testBit c.val = true → (getCore t c).stk.hold = false ∧
      ((getCore s c).stk.hold = true → (getCore t c).stk.scrub = setsMask (getCore s c).stk (getCore s c).sets)) ∧
  (pf m 0 1 = 0 → s.Runs k 0xC4 editAllow → exec (.condEditAppend k) s =
    .next (ends (condWrite s (editEntry m)) k 0 (leBytes 8 (condWrite s (editEntry m)).flash.gen.toNat))) ∧
  (pf m 0 1 = 1 → s.Runs k 0xC4 clearAllow → exec (.condEditClear k) s =
    .next (ends (condAppend s 0 0x0E 10 0 (BitVec.ofNat 32 (pf m 4 4))) k 0
      (leBytes 8 (condAppend s 0 0x0E 10 0 (BitVec.ofNat 32 (pf m 4 4))).flash.gen.toNat))) ∧
  (running s k 0xC5 = true → exec (.deviceReset k) s =
    .next (ends (modReg s fun r => { r with resetDue := true, renumber := pf m 0 1 == 1 }) k 0 []))

/-- Where REGWR runs: the first entry that may not be written ends it with that entry's STATUS and index and nothing is written; else each
entry is applied in order, bits outside its mask kept, and it ends OK with index 0xFFFFFFFF. With one entry that may be written, full mask: a
JOB_SEQ_RUN takes the new run mask and starts the stopped sequencers it adds, on that core alone; LAST_INJ holds the injection; RETRAIN of
LAC_LINK_CTRL makes the lace retrain, RETIRE retires it; RETRAIN of MEM_CTRL starts the unit's retraining; DISABLE of a sensor is set as written.
Memory is unchanged. -/
def Obligations.RegistersWritten : Prop := ∀ (s : State) (k : Fin 16) (l : List RegwrEntry), running s k 0x91 = true →
  l = regwrEntries (getMb s k) →
  (∀ e, (l.zipIdx.find? fun e => regwrCheck s e.1.addr e.1.data e.1.mask != 0) = some e →
    exec (.regwr k) s = .next (ends s k (regwrCheck s e.1.addr e.1.data e.1.mask) (leBytes 4 e.2 ++ [0, 0, 0, 0]))) ∧
  ((l.zipIdx.find? fun e => regwrCheck s e.1.addr e.1.data e.1.mask != 0) = none →
    exec (.regwr k) s = .next (ends (l.foldl (fun s e => regwrApply s e.addr e.data e.mask) s) k 0
      (leBytes 4 0xFFFFFFFF ++ [0, 0, 0, 0]))) ∧
  (∀ e, l = [e] → regwrCheck s e.addr e.data e.mask = 0 →
    (∀ c : CoreId, e.addr = coreBase c + 0x10 → e.mask = 0xFFFF → ∃ t, exec (.jobSeqRunWrite k) s = .next t ∧
      (getCore t c).seqRun = e.data.setWidth 16 ∧ (∀ d, d ≠ c → getCore t d = getCore s d) ∧ t.mem = s.mem ∧
      (∀ q : SeqId, getSeq t c q = if bit e.data q.val && !bit (getCore s c).seqRun q.val && (getSeq s c q).st == .halted &&
        !(getSeq s c q).ended then { getSeq s c q with st := .issuing } else getSeq s c q) ∧
      (getMb t k).result = some (0, leBytes 4 0xFFFFFFFF ++ [0, 0, 0, 0], 8)) ∧
    (∀ (c : CoreId) (i : Fin 4), e.addr = coreBase c + 0x900028 + 0x10000 * i.val → e.mask = 0x1FFF →
      ∃ t, exec (.lastInjArm k) s = .next t ∧ getLast t c i = { getLast s c i with inj := (e.data.setWidth 13).setWidth 32 } ∧
      (∀ d, d ≠ c → getCore t d = getCore s d) ∧ t.mem = s.mem) ∧
    (∀ (n : Fin 23) (d : Bool), n.val < 17 → e.addr = 0x0F0010001020 + 0x40 * n.val → e.mask = 0xFF → bit e.data 5 = d →
      (bit e.data 6 = true → bit e.data 7 = false → bit ((vget s.lacing.links n).dir d).retired (fld e.data 0 5) = false →
        ∃ t, exec (.lacLinkRetrain k) s = .next t ∧ ((vget t.lacing.links n).dir d).retrain = some (fld e.data 0 5) ∧
          t.cores = s.cores ∧ t.mem = s.mem ∧ (∀ o, o ≠ n → vget t.lacing.links o = vget s.lacing.links o)) ∧
      (bit e.data 6 = false → bit e.data 7 = true → ∃ t, exec (.lacLinkRetire k) s = .next t ∧
        bit ((vget t.lacing.links n).dir d).retired (fld e.data 0 5) = true ∧ t.mem = s.mem)) ∧
    (e.addr = 0x0F0011000040 → e.mask = 0x7FF → bit e.data 10 = true → bit e.data 4 = false →
      ∃ t, exec (.memCtrlRetrain k) s = .next t ∧
        (vget t.tiers.stackList (finOf 16 (by decide) (fld e.data 0 4))).retrain = some (fld e.data 5 5) ∧
        t.cores = s.cores ∧ t.mem = s.mem) ∧
    (∀ (r : Fin 15) (i : Fin 16), i.val < sensorCount r → e.addr = 0x0F0012003200 + 0x80 * r.val + 8 * i.val → e.mask = 0x20000 →
      ∃ t, exec (.thmSensDisable k) s = .next t ∧
        (vget (vget t.thermal.regions r).sensors i).disable = bit e.data 17 ∧ t.cores = s.cores ∧ t.mem = s.mem))

/-- JOB_LOAD of an image that passes its checks: the job has the next free ID, every placed core is LOADED with it and stopped, the
function's grant is the image's windows, and device memory outside Stacks and every other core stay. JOB_START: the job is RUNNING since now,
every core of it RUNS with exactly the sequencers that have code, these issuing, its cluster gates open and determinism as the image says;
other cores and memory stay. JOB_PAUSE saves each core's run mask and clears it, the core PAUSED; JOB_RESUME runs the saved mask or what was
set since. Each command ends OK. -/
def Obligations.JobsRun : Prop := ∀ (s : State) (k : Fin 16) (m : Mailbox), m = getMb s k →
  (s.Runs k 0x20 jobLoadAllow → m.aband = false → ∀ i fn id pl, i = loadImage s m → fn = finOf 9 (by decide) (pf m 16 1) →
    freeJobId s.reg = some id → choosePlace s i (pf m 17 1) = some pl →
    ∃ t, exec (.jobLoad k) s = .next t ∧ findJob t id = some (jobOf i id pl fn) ∧ (jobOf i id pl fn).state = 3 ∧
      (∀ n, n ≠ id → findJob t n = findJob s n) ∧ vget t.reg.grants fn = some (imageWindows i) ∧
      (∀ c, c ∈ (jobOf i id pl fn).cores → (getCore t c).st = .loaded ∧ (getCore t c).jobId = id ∧ (getCore t c).seqRun = 0) ∧
      (∀ c, c ∉ (jobOf i id pl fn).cores → getCore t c = getCore s c) ∧
      (∀ a, a < 0x080000000000 → memGet t.mem a = memGet s.mem a) ∧
      (getMb t k).result = some (0, leBytes 1 id.toNat ++ leBytes 1 pl ++
        leBytes 2 (coreMaskOf (jobOf i id pl fn).cores) ++ [0, 0, 0, 0], 8)) ∧
  (∀ j, jobNamed s m = some j → j.cores.Nodup →
    (s.Runs k 0x21 jobStartAllow → ∃ t, exec (.jobStart k) s = .next t ∧
      findJob t j.id = some { j with state := 4, startNs := s.reg.time } ∧ t.mem = s.mem ∧ (getMb t k).result = some (0, [], 0) ∧
      (∀ c, c ∈ j.cores → (getCore t c).st = .running ∧ (getCore t c).clGate = 0 ∧ (getCore t c).frameSel = 0 ∧
        (getCore t c).num.det = bit j.flags 0 ∧ ∀ q : SeqId, (bit (getCore t c).seqRun q.val = true ↔ (c, q) ∈ j.coded) ∧
          ((c, q) ∈ j.coded → (getSeq t c q).st = .issuing)) ∧
      (∀ c, c ∉ j.cores → getCore t c = getCore s c)) ∧
    (s.Runs k 0x22 (jobIn [4]) → ∃ t, exec (.jobPause k) s = .next t ∧ findJob t j.id = some { j with state := 5 } ∧ t.mem = s.mem ∧
      (getMb t k).result = some (0, [], 0) ∧ (∀ c, c ∉ j.cores → getCore t c = getCore s c) ∧
      (∀ c, c ∈ j.cores → getCore t c = { getCore s c with st := .paused, saved := (getCore s c).seqRun, seqRun := 0 })) ∧
    (s.Runs k 0x23 (jobIn [5]) → ∃ t, exec (.jobResume k) s = .next t ∧ findJob t j.id = some { j with state := 4 } ∧ t.mem = s.mem ∧
      (getMb t k).result = some (0, [], 0) ∧ (∀ c, c ∉ j.cores → getCore t c = getCore s c) ∧
      (∀ c, c ∈ j.cores → getCore t c =
        { getCore s c with st := .running, seqRun := (getCore s c).saved ||| (getCore s c).seqRun, saved := 0 })))

/-- JOB_KILL of a job not yet killed: every core of it that is not LOST reads SCRUB with no sequencer running or saved, the job is killed,
draining and without a fault, and the command waits. The drain's end: nothing of its cores is in flight; each core's sets are held where a
debug unlock covered it at the kill, else in SCRUB. A running or paused job whose sequencers have all halted with CODE 0 ends normally:
killed, normal, not draining, its cores in SCRUB; one that is not finished goes on. No byte of memory changes. -/
def Obligations.JobsEnd : Prop := ∀ (s : State) (j : Job), findJob s j.id = some j →
  (∀ k, j.killed = false → jobNamed s (getMb s k) = some j → s.Runs k 0x24 (jobIn [3, 4, 5]) →
    ∃ t y, exec (.jobKill k) s = .next t ∧ findJob t j.id = some y ∧ y.killed = true ∧ y.draining = true ∧ y.normal = false ∧
      y.state = 6 ∧ y.lastFault = 0 ∧ y.cores = j.cores ∧ (getMb t k).waiting = true ∧ t.mem = s.mem ∧
      (∀ c, c ∈ j.cores → (getCore t c).seqRun = 0 ∧ (getCore t c).saved = 0 ∧
        (getCore t c).st = if (getCore s c).st = .lost then .lost else .scrub) ∧
      (∀ c, c ∉ j.cores → getCore t c = getCore s c)) ∧
  (j.state = 6 → j.draining = true → j.cores.Nodup → ∃ t y, exec (.killDrainEnd j.id) s = .next t ∧ findJob t j.id = some y ∧
    y.draining = false ∧ y.state = 6 ∧ t.mem = s.mem ∧
    (∀ c, c ∈ j.cores → (∀ q, (getSeq t c q).infl = []) ∧ (getCore t c).txns = [] ∧
      (∀ i, (vget (getCore t c).stk.carrels i).opened = false) ∧
      (c ∈ j.hold → (getCore t c).stk.hold = true) ∧
      (c ∉ j.hold → (getCore t c).stk.scrub = setsMask (getCore s c).stk (getCore s c).sets)) ∧
    (∀ c, c ∉ j.cores → getCore t c = getCore s c)) ∧
  (j.state ≠ 6 ∨ j.draining = false → exec (.killDrainEnd j.id) s = .next s) ∧
  (j.state = 4 ∨ j.state = 5 →
    (jobFinished s j = true → ∃ t y, exec (.jobNormalEnd j.id) s = .next t ∧ findJob t j.id = some y ∧ y.killed = true ∧
      y.normal = true ∧ y.draining = false ∧ y.state = 6 ∧ y.lastFault = 0 ∧ t.mem = s.mem ∧
      (∀ c, c ∈ j.cores → (getCore t c).st = .scrub ∧ (getCore t c).seqRun = 0 ∧ (getCore t c).saved = 0) ∧
      (∀ c, c ∉ j.cores → getCore t c = getCore s c)) ∧
    (jobFinished s j = false → exec (.jobNormalEnd j.id) s = .next s))

/-- CLGATE in flight waits while a cluster it would gate is busy; then it writes the gates, a cluster that ungates is ungating until its
ungate is done, and CLGATE completes once nothing it ungates is still ungating. STEPEND of an image without SNAP has no effect but to go
on. In flight with its record read: a poisoned record faults POISON; the core arrives with its record; while another core of the job is
missing it stays in flight; the last arrival, with no snapshot due, counts a step and completes with every other; with one due, none in
flight, a snapshot with the next ID is frozen, and STEPEND waits for it. Other cores and memory stay. -/
def Obligations.GatesAndSteps : Prop := ∀ (s : State) (c : CoreId) (w : BitVec 120) (ev : List EccEvent),
  (∀ y g, g = w.extractLsb' 0 2 → s.Landed c ccSeq (instrWord 0x13 w) y →
    (y.got = [] → mayGate s c g = false → exec (.clgate c w) s = .next s) ∧
    (y.got = [] → mayGate s c g = true → ∃ t, exec (.clgate c w) s = .next t ∧ (getCore t c).clGate = g ∧
      (getCore t c).ungating = ((getCore s c).ungating ||| ((getCore s c).clGate &&& ~~~g)) &&& ~~~g ∧ t.mem = s.mem ∧
      (∀ d, d ≠ c → getCore t d = getCore s d) ∧
      ((flightOf t c ccSeq (instrWord 0x13 w)).isSome =
        ((((getCore s c).ungating ||| ((getCore s c).clGate &&& ~~~g)) &&& ~~~g) != 0))) ∧
    (y.got ≠ [] → (getCore s c).ungating &&& ~~~g = 0 →
      exec (.clgate c w) s = .next (dropFlight s c ccSeq (instrWord 0x13 w))) ∧
    (y.got ≠ [] → (getCore s c).ungating &&& ~~~g ≠ 0 → exec (.clgate c w) s = .next s)) ∧
  (∀ n : Fin 2, exec (.clusterUngateDone c n) s = .next (modCore s c fun x => { x with ungating := setBit x.ungating n.val false })) ∧
  (snapsSteps s c = false → s.Offers c ccSeq (instrWord 0x12 w) (mask128 111 0) [fld w 112 8] →
    s.RunsOn c ccSeq ((getSeq s c ccSeq).pc + 1) →
    exec (.stepend c w ev) s = .next (modSeq s c ccSeq fun x => x.past 0x12 (x.pc + 1))) ∧
  (∀ y l j x, s.Landed c ccSeq (instrWord 0x12 w) y → y.got = [l] → jobOn s c = some j → bit j.flags 4 = true →
    findCfg s j.id = some x → (∀ a ∈ x.arrived, a.1 ≠ c) →
    (opndPoison l 0 = true → exec (.stepend c w ev) s = .next (seqFault s c ccSeq 0x12 0x0A)) ∧
    (opndPoison l 0 = false →
      ((∃ d ∈ j.cores, d ≠ c ∧ ∀ a ∈ x.arrived, a.1 ≠ d) → ∃ t, exec (.stepend c w ev) s = .next t ∧
        findCfg t j.id = some { x with arrived := x.arrived ++ [(c, opndData l 0)] } ∧
        (flightOf t c ccSeq (instrWord 0x12 w)).isSome = true ∧ t.mem = s.mem ∧ (∀ d, d ≠ c → getCore t d = getCore s d)) ∧
      ((∀ d ∈ j.cores, d = c ∨ ∃ a ∈ x.arrived, a.1 = d) → x.restore = none → x.flying = none →
        (snapDue s { x with since := x.since + 1 } = false → ∃ t, exec (.stepend c w ev) s = .next t ∧
          findCfg t j.id = some { x with arrived := [], since := x.since + 1 } ∧
          flightOf t c ccSeq (instrWord 0x12 w) = none ∧ t.mem = s.mem ∧ (∀ d, d ≠ c → getCore t d = getCore s d)) ∧
        (snapDue s { x with since := x.since + 1 } = true → ∃ t z f, exec (.stepend c w ev) s = .next t ∧
          findCfg t j.id = some z ∧ z.flying = some f ∧ f.stage = 1 ∧ f.id = x.nextId ∧ z.nextId = x.nextId + 1 ∧
          z.arrived = x.arrived ++ [(c, opndData l 0)] ∧ (flightOf t c ccSeq (instrWord 0x12 w)).isSome = true ∧
          t.mem = s.mem ∧ (∀ d, d ≠ c → getCore t d = getCore s d)))))

/-- Where each runs and its checks pass. SNAP_CFG SET makes the configuration of the job, returns its manifest's length and leaves the other
jobs' configurations. SNAP_NOW TAKE makes a snapshot due and returns the ID it will have; its confirmation confirms the archive's data
or trailer; ABANDON of a freezing snapshot drops it and lets the STEPENDs go. RESTORE from the Duplicate waits and asks for every slot; from the
vault or the archive, a manifest that does not check ends BAD_SIGNATURE with memory and cores unchanged; one that does starts the job with every
Welt at the cursor's step and waits for the replayed step. -/
def Obligations.SnapshotCommands : Prop := ∀ (s : State) (k : Fin 16) (m : Mailbox) (j : Job), m = getMb s k →
  jobNamed s m = some j →
  (pf m 1 1 = 0 → s.Runs k 0x70 snapCfgAllow → ∃ t, exec (.snapCfgSet k) s = .next t ∧ t.cores = s.cores ∧ t.mem = s.mem ∧
    findCfg t j.id = some (cfgOf s j m) ∧ (∀ i, i ≠ j.id → i ≠ 0 → findCfg t i = findCfg s i) ∧
    (getMb t k).result = some (0, leBytes 8 (jobManifest j (cfgOf s j m)), 8)) ∧
  (∀ x, findCfg s j.id = some x →
    (pf m 1 1 = 0 → s.Runs k 0x71 (snapConfigured [3, 4, 5]) → ∃ t, exec (.snapNowTake k) s = .next t ∧ t.cores = s.cores ∧
      t.mem = s.mem ∧ findCfg t j.id = some { x with nowDue := true } ∧
      (getMb t k).result = some (0, leBytes 4 x.nextId.toNat ++ [0, 0, 0, 0], 8)) ∧
    (pf m 1 1 = 1 → s.Runs k 0x71 archiveAllow → ∀ f, archiveTarget x m = some f →
      (awaitsLayer f 2 false = true → f.trailerRec = [] →
        exec (.snapNowArchiveConfirm k) s = .next (ends (confirmLayer s j.id f 2 false) k 0 (snapNowResp f.id))) ∧
      (awaitsLayer f 2 false = false → f.trailerRec ≠ [] →
        exec (.snapNowArchiveConfirm k) s = .next (ends (confirmLayer s j.id f 2 true) k 0 (snapNowResp f.id)))) ∧
    (pf m 1 1 = 2 → s.Runs k 0x71 abandonAllow → ∀ f, x.flying = some f → f.stage = 1 → ∃ t z, exec (.snapNowAbandon k) s = .next t ∧
      findCfg t j.id = some z ∧ z.flying = none ∧ z.arrived = [] ∧ z.done = x.done ∧ t.cores = s.cores ∧ t.mem = s.mem ∧
      (getMb t k).result = some (0, leBytes 4 (BitVec.ofNat 32 (pf m 4 4)).toNat ++ [0, 0, 0, 0], 8)) ∧
    (s.Runs k 0x72 restoreAllow → ∀ f, restoreSnap x (pf m 2 1) = some f →
      (pf m 1 1 = 0 → ∃ t z r, exec (.restore k) s = .next t ∧ findCfg t j.id = some z ∧ z.restore = some r ∧ r.snap = f ∧
        r.left = List.range (snapBytes f / 64) ∧ r.mb = k ∧ (getMb t k).waiting = true ∧ t.cores = s.cores ∧ t.mem = s.mem) ∧
      (pf m 1 1 ≠ 0 → ∀ mlen man, mlen = manifestLen f.rng.length f.ranges f.size → man = memRead f.image f.size mlen →
        (man.take 4 ≠ ascii "NZSN" ∨ leAt man 4 8 ≠ j.imageId.toNat ∨
            man.drop (mlen - 24) ≠ (hmac384 (snapKey x) (man.take (mlen - 24))).take 24 →
          ∃ t z, exec (.restore k) s = .next t ∧ (getMb t k).result = some (stBadSignature, [], 0) ∧ findCfg t j.id = some z ∧
            z.restore = none ∧ t.cores = s.cores ∧ t.mem = s.mem) ∧
        (man.take 4 = ascii "NZSN" → leAt man 4 8 = j.imageId.toNat →
            man.drop (mlen - 24) = (hmac384 (snapKey x) (man.take (mlen - 24))).take 24 →
            ((List.range (chunkCount f.size)).all fun i =>
              (chunkCrc f.image f.size i).toNat == leAt man (90 + 4 * f.rng.length + 16 * f.ranges + 4 * i) 4) = true →
          ∃ t z r y, exec (.restore k) s = .next t ∧ findJob t j.id = some y ∧ y.state = 4 ∧ findCfg t j.id = some z ∧
            z.restore = some r ∧ r.replay = true ∧ (getMb t k).waiting = true ∧
            (∀ c, c ∈ j.cores → (getCore t c).st = .running ∧ ∀ n, (getWelt t c n).step = f.step.setWidth 32)))))

/-- The freeze's end with a poisoned slot in a range drops the snapshot and lets the STEPENDs go, memory unchanged; else the STEPENDs go and
the staging area holds the range's bytes. A layer whose confirmation has come confirms the oldest snapshot that waits: its data bit is set,
and the snapshot commits once every layer of COMMIT has data and trailer. A layer not settled, or the archive, confirms nothing. A failing layer
outside COMMIT only fails; one in COMMIT is replaced by the next layer configured, and without one the snapshot is given up. A
confirmation of the archive that comes too late fails that layer. -/
def Obligations.SnapshotEvents : Prop := ∀ (s : State) (j : BitVec 6) (x : SnapCfg), findCfg s j = some x →
  (∀ y f, findJob s j = some y → y.cores ≠ [] → x.flying = some f → f.stage = 1 →
    ((x.ranges.any fun r => anyPoison s r.1 r.2) = true → ∃ t z, exec (.snapshotFreezeDone j) s = .next t ∧
      findCfg t j = some z ∧ z.flying = none ∧ z.arrived = [] ∧ z.done = x.done ∧ t.cores = s.cores ∧ t.mem = s.mem) ∧
    ((x.ranges.any fun r => anyPoison s r.1 r.2) = false → ∃ t z, exec (.snapshotFreezeDone j) s = .next t ∧
      findCfg t j = some z ∧ z.arrived = [] ∧ t.cores = s.cores ∧
      (s.Canonical → ∀ a n, x.ranges = [(a, n)] → f.size = n → ∀ i, i < n → memGet t.mem (x.stage + i) = memGet s.mem (a + i)))) ∧
  (∀ (layer : Fin 3) (trailer : Bool),
    (layer = 2 ∨ j = 0 → exec (.snapLayerConfirm j layer trailer) s = .next s) ∧
    (layer ≠ 2 → j ≠ 0 → ∀ f, (x.inOrder.find? fun g => awaitsLayer g layer.val trailer) = some f →
      (layerSettled s j f layer.val trailer = false → exec (.snapLayerConfirm j layer trailer) s = .next s) ∧
      (layerSettled s j f layer.val trailer = true → x.flying = some f →
        (trailer = false → f.trailerRec = [] → ∃ t z g, exec (.snapLayerConfirm j layer trailer) s = .next t ∧
          findCfg t j = some z ∧ z.flying = some g ∧ g.data = setBit f.data layer.val true ∧ g.trailer = f.trailer ∧
          t.cores = s.cores ∧ t.mem = s.mem) ∧
        (trailer = true → x.arrived = [] → (∀ y, findJob s j = some y → y.cores ≠ []) →
          (f.data &&& setBit f.trailer layer.val true &&& f.commit) = f.commit →
          ∃ t z g, exec (.snapLayerConfirm j layer trailer) s = .next t ∧ findCfg t j = some z ∧ z.flying = none ∧
            z.done.head? = some g ∧ g.id = f.id ∧ g.trailer = setBit f.trailer layer.val true ∧ t.cores = s.cores ∧ t.mem = s.mem)))) ∧
  (∀ (layer : Fin 3) f, j ≠ 0 → x.flying = some f → f.stage ≠ 1 →
    (awaitsLayer f 2 false = true ∨ awaitsLayer f 2 true = true →
      exec (.archiveConfirmTimeout j) s = exec (.snapLayerFail j 2) s) ∧
    (bit f.failed layer.val = true ∨ bit f.layers layer.val = false → exec (.snapLayerFail j layer) s = .next s) ∧
    (bit f.failed layer.val = false → bit f.layers layer.val = true → x.arrived = [] →
      (∀ y, findJob s j = some y → y.cores ≠ []) →
      (bit f.commit layer.val = false → ∃ t z g, exec (.snapLayerFail j layer) s = .next t ∧ findCfg t j = some z ∧
        z.flying = some g ∧ g.failed = setBit f.failed layer.val true ∧ g.commit = f.commit ∧ t.cores = s.cores ∧ t.mem = s.mem) ∧
      (bit f.commit layer.val = true → ∀ r, r = (layersIn f.layers).find? (fun l =>
          !bit (setBit f.failed layer.val true) l && !bit f.commit l) →
        (r = none → ∃ t z, exec (.snapLayerFail j layer) s = .next t ∧ findCfg t j = some z ∧ z.flying = none ∧ z.done = x.done ∧
          t.cores = s.cores ∧ t.mem = s.mem) ∧
        (∀ l, r = some l → f.trailerRec = [] → ∃ t z g, exec (.snapLayerFail j layer) s = .next t ∧ findCfg t j = some z ∧
          z.flying = some g ∧ g.commit = setBit (setBit f.commit layer.val false) l true ∧ g.replaced = true ∧
          t.cores = s.cores ∧ t.mem = s.mem))))

/-- PMU_CFG, where it runs and its checks pass, ends OK and sets what its operation names; an unallocated event ignores it. A latch while the
ledger is off, or has too few records, does nothing; while the last record is still being written it is skipped and counted; else the
entries of the present record change and no other byte of memory, a delta counter clears, and the header waits. Its write ends the record:
64 bytes, the head one higher. A call slip of a sequencer that the mask names and whose core holds a job is written whole into the next place of
the slip ring; one below MINLAT only counts; any other does nothing. -/
def Obligations.PerformanceMonitor : Prop := ∀ (s : State) (k : Fin 16) (m : Mailbox), m = getMb s k →
  (pf m 0 1 = 0 → s.Runs k 0x80 ledgerAllow → ∃ t, exec (.pmuCfgLedger k) s = .next t ∧ (getMb t k).result = some (0, [], 0) ∧
    t.pmu.ledEn = (pf m 4 1 == 1) ∧ t.pmu.ledBase = BitVec.ofNat 32 (pf m 12 8 / 65536) ∧
    t.pmu.ledRecs = BitVec.ofNat 16 (pf m 20 2) ∧ t.pmu.period = BitVec.ofNat 30 (clampNat 1000 1000000000 (pf m 8 4)) ∧
    (pf m 5 1 = 0 → t.pmu.counters = s.pmu.counters) ∧ t.cores = s.cores ∧ t.mem = s.mem) ∧
  (pf m 0 1 = 1 → s.Runs k 0x80 slipsAllow → ∃ t, exec (.pmuCfgSlips k) s = .next t ∧ (getMb t k).result = some (0, [], 0) ∧
    t.pmu.slipBase = BitVec.ofNat 32 (pf m 12 8 / 65536) ∧ t.pmu.slipRecs = BitVec.ofNat 16 (pf m 20 2) ∧
    (∀ c : CoreId, vget t.pmu.slipCtrl c = if pf m 4 1 = 0xFF ∨ c = coreOf (pf m 4 1) then
      pk [(0, pf m 6 2), (16, pf m 5 1), (32, pf m 8 4)] else vget s.pmu.slipCtrl c) ∧ t.cores = s.cores ∧ t.mem = s.mem) ∧
  (pf m 0 1 = 2 → running s k 0x80 = true → ∃ t, exec (.pmuCfgFilter k) s = .next t ∧ (getMb t k).result = some (0, [], 0) ∧
    (∀ n : Fin 7, vget t.pmu.filters n = if n = finOf 7 (by decide) (pf m 4 1 - 1) then {
      a := pk [(0, pf m 5 1), (8, pf m 6 1), (16, pf m 8 2), (32, pf m 10 2), (41, pf m 7 1)]
      lo := BitVec.ofNat 64 (pf m 12 8) &&& 0xFFFFFFFFFFC0
      hi := BitVec.ofNat 64 (pf m 20 8) &&& 0xFFFFFFFFFFC0 } else vget s.pmu.filters n) ∧ t.cores = s.cores ∧ t.mem = s.mem) ∧
  (pf m 0 1 = 3 → running s k 0x80 = true → exec (.pmuCfgBinding k) s = .next (ends (modPmu s fun p => { p with
    clsel := vset p.clsel (seqOf (pf m 4 1)) (BitVec.ofNat 3 (pf m 5 1)) }) k 0 [])) ∧
  (pf m 0 1 = 4 → running s k 0x80 = true → smapWf Counter.init s.pmu.counters = true → ∃ t, exec (.pmuCfgEvent k) s = .next t ∧ (getMb t k).result = some (0, [], 0) ∧
    (∀ e, counterOf t e = if e = pf m 4 2 ∧ (ledgerEntry e).isSome = true then { counterOf s e with
      mode := pf m 6 1 == 1, filt := BitVec.ofNat 3 (pf m 7 1), delta := pf m 8 1 == 1, rclr := pf m 9 1 == 1 }
      else counterOf s e) ∧ t.cores = s.cores ∧ t.mem = s.mem) ∧
  ((s.pmu.ledEn = false ∨ s.pmu.ledRecs.toNat < 2 ∨ (vget s.power.doms 25).state ≠ 1 → exec .ledgerLatch s = .next s) ∧
   (s.pmu.ledEn = true → 2 ≤ s.pmu.ledRecs.toNat → (vget s.power.doms 25).state = 1 →
    (s.pmu.writing.isSome = true → exec .ledgerLatch s = .next (modPmu s fun p => { p with
      ledSkip := satAdd p.ledSkip 1, ledSince := satAdd p.ledSince 1 })) ∧
    (s.pmu.writing = none → ∀ a, a = s.pmu.ledBase.toNat * 65536 + s.pmu.ledHead.toNat % s.pmu.ledRecs.toNat * 59264 →
      ∃ t h, exec .ledgerLatch s = .next t ∧ t.pmu.writing = some (a, h) ∧ t.pmu.changed = false ∧ t.pmu.ledSince = 0 ∧
        t.pmu.ledHead = s.pmu.ledHead ∧ t.cores = s.cores ∧
        (∀ e, e ∈ allEvents → (counterOf t e).delta = true → (counterOf t e).count = 0 ∧ (counterOf t e).ovf = false) ∧
        (∀ x, x < a + 64 ∨ a + 59264 ≤ x → memGet t.mem x = memGet s.mem x)))) ∧
  (∀ a h, s.pmu.writing = some (a, h) → ∃ t, exec .ledgerHeaderWrite s = .next t ∧ t.pmu.writing = none ∧
    t.pmu.ledHead = s.pmu.ledHead + 1 ∧ t.cores = s.cores ∧
    (∀ x, x < a ∨ a + h.length ≤ x → memGet t.mem x = memGet s.mem x) ∧
    (s.Canonical → ∀ i (g : i < h.length), memGet t.mem (a + i) = h[i])) ∧
  (∀ (c : CoreId) (q : SeqId) (x : SlipMeasure) lat, lat = x.tag.toNat + x.slot.toNat + x.lace.toNat + x.exec.toNat →
    (bit (vget s.pmu.slipCtrl c) q.val = false ∨ s.pmu.slipRecs = 0 ∨ (getCore s c).jobId = 0 →
      exec (.callSlipWrite c q x) s = .next s) ∧
    (bit (vget s.pmu.slipCtrl c) q.val = true → s.pmu.slipRecs ≠ 0 → (getCore s c).jobId ≠ 0 →
      (lat < fld (vget s.pmu.slipCtrl c) 32 24 →
        exec (.callSlipWrite c q x) s = .next (modPmu s fun p => { p with slipFilt := satAdd p.slipFilt 1 })) ∧
      (fld (vget s.pmu.slipCtrl c) 32 24 ≤ lat →
        ∀ a, a = s.pmu.slipBase.toNat * 65536 + s.pmu.slipHead.toNat % s.pmu.slipRecs.toNat * 64 →
        ∃ t, exec (.callSlipWrite c q x) s = .next t ∧ t.pmu.slipHead = s.pmu.slipHead + 1 ∧ t.cores = s.cores ∧
          (slipBytes s c q x lat).length = 64 ∧
          (∀ n, n < a ∨ a + 64 ≤ n → memGet t.mem n = memGet s.mem n) ∧
          (s.Canonical → memRead t.mem a 64 = slipBytes s c q x lat))))

/-- SELFTEST that passes without a reset answers and changes nothing else; a core that fails its own test is LOST. A SUSPECT engine of an idle
core without a job is cleared when its test passes, and its core is LOST when it fails; elsewhere the test changes nothing. A
Registrar core that fails is out of service, the commands that ran on it end DEVICE_FAULT, and with fewer than two left the device is FAILED. A
score update while READY gives every core its score and the device the highest plus the edge's, at most 255; cores and memory stay. -/
def Obligations.HealthAndTests : Prop := ∀ (s : State),
  (∀ (k : Fin 16) (m : Mailbox) (r : TestOutcome), m = getMb s k → s.Runs k 0x50 selftestAllow →
    (r.pass = true → r.failBanks = [] → (7 ≤ pf m 0 1 ∨ m.expert = false) → ∃ t, exec (.selftest k r) s = .next t ∧
      (getMb t k).result = some (0, testResponse s s r, BitVec.ofNat 32 (testResponse s s r).length) ∧
      t.cores = s.cores ∧ t.mem = s.mem ∧ t.reg.jobs = s.reg.jobs) ∧
    (r.pass = false → r.failBanks = [] → pf m 0 1 = 0 → m.expert = false → ∃ t, exec (.selftest k r) s = .next t ∧
      (getCore t (coreOf (pf m 1 1))).st = .lost ∧ t.mem = s.mem ∧
      (∀ d, d ≠ coreOf (pf m 1 1) → getCore t d = getCore s d))) ∧
  (∀ (c : CoreId) (e : Fin 7),
    ((getCore s c).jobId ≠ 0 ∨ (getCore s c).st ≠ .idle ∨ engineSuspect s c e = false →
      ∀ p, exec (.suspectEngineTest c e p) s = .next s) ∧
    ((getCore s c).jobId = 0 → (getCore s c).st = .idle → engineSuspect s c e = true →
      (∃ t, exec (.suspectEngineTest c e true) s = .next t ∧ engineSuspect t c e = false ∧ t.mem = s.mem ∧
        (∀ d, d ≠ c → getCore t d = getCore s d)) ∧
      (∃ t, exec (.suspectEngineTest c e false) s = .next t ∧ (getCore t c).st = .lost ∧ t.mem = s.mem ∧
        (∀ d, d ≠ c → getCore t d = getCore s d)))) ∧
  (∀ n : Fin 4, (vget s.reg.cores n = false → exec (.registrarCoreFail n) s = .next s) ∧
    (vget s.reg.cores n = true → ∀ alive, alive = (allFin 4).filter (fun i => vget s.reg.cores i) →
      ∃ t, exec (.registrarCoreFail n) s = .next t ∧ vget t.reg.cores n = false ∧
        (∀ i, i ≠ n → vget t.reg.cores i = vget s.reg.cores i) ∧ t.cores = s.cores ∧ t.mem = s.mem ∧
        t.reg.devState = (if alive.length ≤ 2 then 3 else s.reg.devState) ∧
        (∀ k : Fin 16, (getMb s k).own = true → (getMb s k).phase = 2 → (getMb s k).result = none →
          alive[k.val % alive.length]? = some n → (getMb t k).result = some (stDeviceFault, [], 0)))) ∧
  (s.reg.devState ≠ 1 → exec .healthScoreUpdate s = .next s) ∧
  (s.reg.devState = 1 → ∃ t, exec .healthScoreUpdate s = .next t ∧ t.cores = s.cores ∧ t.mem = s.mem ∧
    t.resil.healthGen = s.resil.healthGen + 1 ∧ (∀ c : CoreId, vget t.resil.scores c = BitVec.ofNat 8 (coreScore s c)) ∧
    t.resil.devScore = BitVec.ofNat 8 (min 255 ((allFin 12).foldl (fun n c => max n (coreScore s c)) 0 + edgeScore s)) ∧
    t.reg.devState = 1)

/-- PERST# asserted leaves every core as after reset, no job, no memory, every domain off or latched off, key and counters kept; released, with an
image that verifies, the edge domains are up, the endpoint ready and the image runs; with none the device is FAILED. START_UP_READY with EDN and
a core there: READY, BOOT_COUNT one higher, every core that waited in reset IDLE and not fenced, posted commands CANCELLED, a trial slot
active; without EDN FAILED. The watchdog boots the other slot. A reset that is due leaves no job and no memory, the mailboxes with the PF,
posted only; a core's release leaves its Stacks zero and it IDLE. A power-good input that rises during start-up brings its PHY domain up unless
latched. Power removal clears every latch. Where a condition is not met nothing changes. -/
def Obligations.StartsAndResets : Prop := ∀ (s : State),
  (s.pins.perst = true → exec .perstAssert s = .next s) ∧
  (s.pins.perst = false → exec .perstDeassert s = .next s) ∧
  (s.pins.perst = false → ∃ t, exec .perstAssert s = .next t ∧ t.pins.perst = true ∧ t.cores = State.reset.cores ∧ t.mem = [] ∧
    t.reg.jobs = [] ∧ t.reg.devState = 0 ∧ t.reg.key = s.reg.key ∧ t.reg.lastCtr = s.reg.ctrHigh ∧
    t.reg.bootCount = s.reg.bootCount ∧
    (∀ d, (vget t.power.doms d).state = 0 ∨ ((vget t.power.doms d).state = 3 ∧ (vget t.power.doms d).latched = true))) ∧
  (s.pins.perst = true → (vget s.power.doms 25).latched = false → s.flash.pending = none →
    ((∀ d : Fin 30, d = 24 ∨ d = 28 ∨ d = 29 → (vget s.power.doms d).latched = false) → slotPasses s.flash s.flash.active = true →
      ∃ t, exec .perstDeassert s = .next t ∧ t.pins.perst = false ∧ t.pcie.ready = true ∧ (vget t.pcie.fns 0).enabled = true ∧
        (∀ d : Fin 30, d = 24 ∨ d = 25 ∨ d = 28 ∨ d = 29 → domainUp t d = true) ∧ t.reg.devState = 0 ∧
        t.flash.running = (fwSlot s.flash s.flash.active).version ∧ t.mem = [] ∧ t.reg.jobs = [] ∧
        t.reg.bootCount = s.reg.bootCount) ∧
    (slotPasses s.flash true = false → slotPasses s.flash false = false →
      ∃ t, exec .perstDeassert s = .next t ∧ t.pins.perst = false ∧ t.reg.devState = 3)) ∧
  (∀ x : Training,
    (s.reg.devState ≠ 0 ∨ s.pins.perst = true → exec (.startUpReady x) s = .next s) ∧
    (s.reg.devState = 0 → s.pins.perst = false → (∀ d : Fin 30, d = 24 ∨ d = 25 ∨ d = 28 → domainUp s d = true) →
      (∀ c, coreWaits s c = false) →
      ((∃ u : Fin 16, u.val < 8 ∧ ((vget s.sites u).state = 3 ∨ (vget s.sites u).state = 4)) →
        (∃ c, (getCore s c).st = .reset ∧ domainUp s (coreDomain s c) = true ∧ domainUp s (stkDomain s c) = true) →
        ∃ t, exec (.startUpReady x) s = .next t ∧ t.reg.devState = 1 ∧ t.reg.bootCount = s.reg.bootCount + 1 ∧ t.mem = s.mem ∧
          (∀ c, (getCore s c).st = .reset → domainUp s (coreDomain s c) = true → domainUp s (stkDomain s c) = true →
            getCore t c = { getCore s c with st := .idle, fenced := false }) ∧
          (∀ k, (getMb s k).own = true → (getMb t k).own = false ∧ (getMb t k).status = stCancelled) ∧
          (∀ k, (getMb s k).own = false → getMb t k = getMb s k) ∧
          (s.flash.trial = true → t.flash.active = s.flash.pending.getD s.flash.active ∧ t.flash.pending = none)) ∧
      ((∀ u : Fin 16, u.val < 8 → (vget s.sites u).state ≠ 3 ∧ (vget s.sites u).state ≠ 4) →
        ∃ t, exec (.startUpReady x) s = .next t ∧ t.reg.devState = 3))) ∧
  (s.pins.perst = false → s.reg.devState = 0 → domainUp s 25 = true → s.flash.pending = none →
    slotPasses s.flash (!s.flash.active) = true → ∃ t, exec .startUpWatchdog s = .next t ∧ t.flash.active = !s.flash.active ∧
      t.flash.running = (fwSlot s.flash (!s.flash.active)).version ∧ t.reg.jobs = [] ∧ t.mem = [] ∧ t.pins.perst = false) ∧
  (s.reg.resetDue = false → exec .deviceResetStart s = .next s) ∧
  (s.reg.resetDue = true → (∀ k, (getMb s k).code = 0xC5 → (getMb s k).result = none) →
    ∃ t, exec .deviceResetStart s = .next t ∧
    t.reg.jobs = [] ∧ t.mem = [] ∧ t.reg.resetDue = false ∧ t.pcie.up = s.pcie.up ∧ t.pins = s.pins ∧
    (∀ k, getMb t k = (getMb s k).afterReset)) ∧
  (∀ c : CoreId, (getCore s c).st = .reset → (getCore s c).jobId = 0 → (getCore s c).stk.hold = false →
    domainUp s (coreDomain s c) = true → domainUp s (stkDomain s c) = true → ∃ t, exec (.resetRelease c) s = .next t ∧
      (getCore t c).st = .idle ∧ (getCore t c).fenced = false ∧ (getCore t c).stk.scrub = 0 ∧
      (∀ d, d ≠ c → getCore t d = getCore s d) ∧
      (∀ a, memGet t.mem a = if stacksAddr c 0 ≤ a ∧ a < stacksAddr c 0 + stkSize s c then 0 else memGet s.mem a)) ∧
  (∀ side : Fin 2,
    (s.pins.perst = true ∨ s.reg.devState ≠ 0 → exec (.hbmPgAssert side) s = .next (setHbmPg s side true)) ∧
    (s.pins.perst = false → s.reg.devState = 0 → domainUp s 24 = true → domainUp s 29 = true →
      ∃ t, exec (.hbmPgAssert side) s = .next t ∧ vget t.power.hbmPg side = true ∧
        ((vget s.power.doms (if side = 0 then 26 else 27)).latched = false → domainUp t (if side = 0 then 26 else 27) = true))) ∧
  (s.pins.perst = false → exec .powerRemoval s = .next s) ∧
  (s.pins.perst = true → ∃ t, exec .powerRemoval s = .next t ∧ t.cores = State.reset.cores ∧ t.mem = [] ∧
    t.thermal = Thermal.init ∧ t.power.doms = Power.init.doms ∧ t.power.pwrFault = Power.init.pwrFault ∧ t.reg.key = s.reg.key)

/-- A discovery answer whose role fits the edge is kept, one that does not leaves the site DOWN for good; a timeout asks again, and the third
leaves it DOWN; the eighth provenance answer of a good record trains the mainband, of a bad one leaves it DOWN. A repair round adds a round to
every agent that misses packets and retires one whose rounds are over; an agent that misses none is as before. A region whose agents all
hold their part switches all of them at once, else none. PAIR reserves the window, adds the Duplicate session and waits; UNPAIR
forgets the pairing, removes the session and loses the window's bytes. -/
def Obligations.SitesAgentsPairs : Prop := ∀ (s : State),
  (∀ u : Fin 16, siteUp s u = true →
    (∀ p : BitVec 64, (vget s.sites u).state = 0 → (vget s.sites u).tries < 3 →
      (roleFits u (fld p 0 4) = true → exec (.discRsp u p) s = .next (noted (modSite s u fun x => { x with
        state := 1, role := p.extractLsb' 0 4, rsp := p, prov := [] }))) ∧
      (roleFits u (fld p 0 4) = false → ∃ t, exec (.discRsp u p) s = .next t ∧ (vget t.sites u).state = 0 ∧
        (vget t.sites u).tries = 3 ∧ (∀ v, v ≠ u → vget t.sites v = vget s.sites v) ∧ t.cores = s.cores ∧ t.mem = s.mem)) ∧
    ((vget s.sites u).state = 0 ∨ (vget s.sites u).state = 1 →
      ((vget s.sites u).tries < 2 → exec (.discTimeout u) s = .next (modSite s u fun x => { x with
        state := 0, tries := x.tries + 1 })) ∧
      ((vget s.sites u).tries = 2 → ∃ t, exec (.discTimeout u) s = .next t ∧ (vget t.sites u).state = 0 ∧
        (vget t.sites u).tries = 3 ∧ t.cores = s.cores ∧ t.mem = s.mem))) ∧
  (∀ (u : Fin 16) (i : Fin 8) (w : BitVec 64) (rate : Fin 6) (x32 : Bool) l,
    l = (i.val, w) :: (vget s.sites u).prov.filter (fun p => p.1 != i.val) → (vget s.sites u).state = 1 →
    (l.length < 8 → exec (.discProv u i w rate x32) s = .next (modSite s u fun x => { x with prov := l })) ∧
    (8 ≤ l.length → ∀ r, r = siteRecord { vget s.sites u with prov := l } → ∃ t, exec (.discProv u i w rate x32) s = .next t ∧
      t.cores = s.cores ∧ t.mem = s.mem ∧ (∀ v, v ≠ u → vget t.sites v = vget s.sites v) ∧
      (leAt r 0 1 = 2 → provGood r = true → (vget t.sites u).state = (if x32 = true then 4 else 3) ∧
        (vget t.sites u).rate = BitVec.ofNat 3 rate.val ∧ t.reg.devState = s.reg.devState) ∧
      (leAt r 0 1 ≠ 2 ∨ provGood r = false → (vget t.sites u).state = 0 ∧ (vget t.sites u).tries = 3))) ∧
  (∃ t, exec .ucodeRepairRound s = .next t ∧ ∀ i : Fin 440,
    ((vget s.agents i).retired = true ∨ (vget s.agents i).missing = [] → vget t.agents i = vget s.agents i) ∧
    ((vget s.agents i).retired = false → (vget s.agents i).missing ≠ [] → i.val < 432 ∨ s.reg.devState ≠ 0 →
      ((vget s.agents i).rounds < 3 → vget t.agents i = { vget s.agents i with rounds := (vget s.agents i).rounds + 1 }) ∧
      (3 ≤ (vget s.agents i).rounds → vget t.agents i = { vget s.agents i with retired := true, missing := [] }))) ∧
  (∀ r : Fin 15,
    ((∃ i : Fin 440, agentRegion i = r.val ∧ (vget s.agents i).retired = false ∧
        (vget s.agents i).parts.contains (agentPart i) = false) → exec (.regionActivate r) s = .next s) ∧
    ((∀ i : Fin 440, agentRegion i = r.val → (vget s.agents i).retired = false →
        (vget s.agents i).parts.contains (agentPart i) = true) → ∃ t, exec (.regionActivate r) s = .next t ∧
      (∀ i : Fin 440, vget t.agents i = if agentRegion i = r.val ∧ (vget s.agents i).retired = false then
        { vget s.agents i with slot := !(vget s.agents i).slot, parts := [] } else vget s.agents i) ∧
      t.cores = s.cores ∧ t.mem = s.mem)) ∧
  (∀ (k : Fin 16) (m : Mailbox), m = getMb s k →
    (pf m 0 1 = 0 → s.Runs k 0xC6 pairAllow → ∃ t p x, exec (.pair k) s = .next t ∧ t.flash.pairing = some p ∧
      p.session = BitVec.ofNat 24 (pf m 4 4) ∧ p.base = pf m 24 8 ∧ p.len = pf m 32 8 ∧ t.eyes.sessions = s.eyes.sessions ++ [x] ∧
      x.num = p.session ∧ x.dup = true ∧ x.auth = true ∧ x.state = 0 ∧ (getMb t k).waiting = true ∧ t.cores = s.cores ∧ t.mem = s.mem) ∧
    (∀ p, pf m 0 1 = 1 → running s k 0xC6 = true → s.flash.pairing = some p → (∀ i, pairWaits (getMb s i) = false) →
      ∃ t, exec (.unpair k) s = .next t ∧ t.flash.pairing = none ∧ findSession t p.session = none ∧ t.cores = s.cores ∧
        (getMb t k).result = some (0, List.replicate 32 0, 32) ∧
        (∀ a, memGet t.mem a = if p.base ≤ a ∧ a < p.base + p.len then 0 else memGet s.mem a)))

/-- DOMAIN, where it runs and its checks pass: a domain already as asked ends OK; ON joins the requests and waits; OFF kills a live job on its
core, fences that core, joins the domains going off and waits. The oldest request, with room in package and feed groups and its order come, is
granted, any other not. After the lead time the domain starts; once it is up it is ON at the voltage given, unclamped, its request gone, a core
IDLE and not fenced, and the command that waits ends OK. A domain off, its core without a job, reads OFF, clamped, a core's Stacks lost, and the
command ends OK. A request not granted in time is gone and its command ends BUSY. -/
def Obligations.DomainPower : Prop := ∀ (s : State) (d : Fin 30),
  (∀ (k : Fin 16) (m : Mailbox), m = getMb s k → s.Runs k 0x61 domainAllow → d = finOf 30 (by decide) (pf m 0 1) →
    (pf m 1 1 = 1 →
      ((vget s.power.doms d).state = 1 → exec (.domain k) s = .next (ends s k 0 [])) ∧
      ((vget s.power.doms d).state ≠ 1 → exec (.domain k) s = .next (modPower (waits s k) fun w => { w with
        requests := w.requests ++ [PowerRequest.mk d (m.expert && decide (pf m 2 1 = 1)) false false (some k)] }))) ∧
    (pf m 1 1 ≠ 1 →
      ((vget s.power.doms d).state = 0 → exec (.domain k) s = .next (ends s k 0 [])) ∧
      ((vget s.power.doms d).state ≠ 0 → ∃ t, exec (.domain k) s = .next t ∧ t.power.offs = s.power.offs ++ [d] ∧
        (getMb t k).waiting = true ∧ t.mem = s.mem ∧ (∀ c, coreOfDomain s d = some c → (getCore t c).fenced = true) ∧
        (∀ j, domainJob s d = some j → ∃ y, findJob t j.id = some y ∧ y.killed = true)))) ∧
  ((waitingRequests s.power).head?.any (fun r => r.dom == d) = true → packageRoom s.power d = true → feedRoom s.power d = true →
    mayRise s d = true → ∃ t, exec (.domainPowerGrant d) s = .next t ∧ t.cores = s.cores ∧ t.mem = s.mem ∧
      t.power.requests = (s.power.requests.map fun r => if r.dom = d then { r with granted := true } else r) ∧
      t.power.doms = s.power.doms) ∧
  ((waitingRequests s.power).head?.any (fun r => r.dom == d) = false ∨ packageRoom s.power d = false ∨ feedRoom s.power d = false ∨
    mayRise s d = false → exec (.domainPowerGrant d) s = .next s) ∧
  ((s.power.requests.any fun r => r.dom == d && r.granted && !r.leadDone) = true → ∃ t, exec (.loadNoticeLeadEnd d) s = .next t ∧
    vget t.power.doms d = { vget s.power.doms d with state := 2 } ∧ (∀ e, e ≠ d → vget t.power.doms e = vget s.power.doms e) ∧
    t.power.requests = (s.power.requests.map fun r => if r.dom = d then { r with leadDone := true } else r) ∧
    t.cores = s.cores ∧ t.mem = s.mem) ∧
  (∀ (mv : BitVec 12) (r : PowerRequest), (s.power.requests.find? fun r => r.dom == d && r.leadDone) = some r →
    ∃ t, exec (.domainSoftStartDone d mv) s = .next t ∧ t.mem = s.mem ∧
      vget t.power.doms d = { vget s.power.doms d with state := 1, clamp := false, mv := mv } ∧
      (∀ e, e ≠ d → vget t.power.doms e = vget s.power.doms e) ∧
      t.power.requests = s.power.requests.filter (fun x => x.dom != d) ∧
      (∀ c, d.val < 12 → coreOfDomain s d = some c → (getCore s c).st ≠ .lost →
        (getCore t c).st = .idle ∧ (getCore t c).fenced = false ∧ (getCore t c).stk = (getCore s c).stk) ∧
      (∀ k, r.mb = some k → waitsOn s k 0x61 = true → (getMb t k).result = some (0, [], 0))) ∧
  (s.power.offs.contains d = true → domainJob s d = none → ∃ t, exec (.domainPowerOffDone d) s = .next t ∧
    (vget t.power.doms d).state = (if (vget s.power.doms d).state = 3 then 3 else 0) ∧ (vget t.power.doms d).clamp = true ∧
    (vget t.power.doms d).mv = 0 ∧ t.power.offs = s.power.offs.filter (fun e => e != d) ∧
    (∀ e, e ≠ d → vget t.power.doms e = vget s.power.doms e) ∧
    (∀ c, d.val < 12 → coreOfDomain s d = some c → (getCore s c).st ≠ .lost → (getCore t c).st = .off ∧ (getCore t c).fenced = true) ∧
    (∀ c, 12 ≤ d.val → coreOfDomain s d = some c → ∀ a, a < 0x80000000 → memGet t.mem (stacksAddr c a) = 0) ∧
    (∀ k, waitsOn s k 0x61 = true → pf (getMb s k) 0 1 = d.val → pf (getMb s k) 1 1 = 0 → (getMb t k).result = some (0, [], 0))) ∧
  (s.power.offs.contains d = false ∨ (domainJob s d).isSome = true → exec (.domainPowerOffDone d) s = .next s) ∧
  (∀ r : PowerRequest, (s.power.requests.find? fun r => r.dom == d && !r.granted) = some r →
    ∃ t, exec (.domainGrantTimeout d) s = .next t ∧ t.power.requests = s.power.requests.filter (fun x => x.dom != d) ∧
      t.power.doms = s.power.doms ∧ t.cores = s.cores ∧ t.mem = s.mem ∧
      (∀ k, r.mb = some k → waitsOn s k 0x61 = true → (getMb t k).result = some (stBusy, [], 0)))

/-- A domain over 125 % of its maximum trips: latched off with its core LOST, and for the edge's and the management domain PWR_FAULT; below, nothing
happens. A feed group of low share and low sense is SUSPECT; one out of its limits is in FAULT with PWR_FAULT; outside those conditions, or in
compatibility mode, nothing happens. There a feed below its limit is lost, and with the second every domain is off. A power-good input that falls trips
its PHY domain if it is on. A rail above its absolute maximum stops the block by a named fault, since the spec says only that the part may be
damaged; one out of range is noted, and one that is not the core supply's leaves every domain off; in range or under PERST#, nothing happens. -/
def Obligations.TripsAndFeeds : Prop := ∀ (s : State),
  (∀ (d : Fin 30) (a : BitVec 16),
    (domainUp s d = false ∨ a.toNat * 100 ≤ domainMaxD s d * 125 → exec (.domainTrip d a) s = .next s) ∧
    (domainUp s d = true → domainMaxD s d * 125 < a.toNat * 100 → ∃ t, exec (.domainTrip d a) s = .next t ∧
      (vget t.power.doms d).state = 3 ∧ (vget t.power.doms d).latched = true ∧ (vget t.power.doms d).clamp = true ∧
      (∀ c, coreOfDomain s d = some c → (getCore t c).st = .lost) ∧
      (d = 24 ∨ d = 25 ∨ d = 28 → t.power.pwrFault = true) ∧ (d = 24 ∨ d = 28 → t.reg.devState = 3))) ∧
  (∀ (n : Fin 6) (a e : BitVec 16) (v : BitVec 12),
    (s.power.compat = false → (vget s.power.fgs n).suspect = false → (vget s.power.fgs n).fault = false → 500 ≤ e.toNat →
      a.toNat * 100 < e.toNat * 70 → (v.toNat + 25) * 5 < otherSense s.power n →
      ∃ t, exec (.feedSuspect n a e v) s = .next t ∧
        vget t.power.fgs n = { vget s.power.fgs n with suspect := true, ampsD := a, expD := e, senseMv := v } ∧
        (∀ i, i ≠ n → vget t.power.fgs i = vget s.power.fgs i) ∧ t.power.doms = s.power.doms ∧ t.cores = s.cores ∧ t.mem = s.mem) ∧
    (s.power.compat = true ∨ (vget s.power.fgs n).suspect = true ∨ e.toNat * 70 ≤ a.toNat * 100 ∨
      otherSense s.power n ≤ (v.toNat + 25) * 5 → exec (.feedSuspect n a e v) s = .next s) ∧
    (s.power.compat = false → (vget s.power.fgs n).fault = false → v.toNat < 1400 ∨ 1850 < v.toNat ∨ 4200 < a.toNat →
      ∃ t, exec (.feedFault n a e v) s = .next t ∧ (vget t.power.fgs n).fault = true ∧ t.power.pwrFault = true ∧
        (∀ c, ceilingOf t c ≤ 25) ∧ t.power.doms = s.power.doms ∧ t.cores = s.cores ∧ t.mem = s.mem) ∧
    (s.power.compat = true ∨ (1400 ≤ v.toNat ∧ v.toNat ≤ 1850 ∧ a.toNat ≤ 4200) → exec (.feedFault n a e v) s = .next s)) ∧
  (∀ (b : Fin 2) (v : BitVec 12),
    (s.power.compat = false ∨ bit s.power.feedLost b.val = true ∨ 700 ≤ v.toNat → exec (.feedLost b v) s = .next s) ∧
    (s.power.compat = true → bit s.power.feedLost b.val = false → v.toNat < 700 → ∃ t, exec (.feedLost b v) s = .next t ∧
      t.power.feedLost = setBit s.power.feedLost b.val true ∧
      (setBit s.power.feedLost b.val true = 3 → t.power.requests = [] ∧
        ∀ d, (vget t.power.doms d).state = 0 ∨ (vget t.power.doms d).state = 3) ∧
      (setBit s.power.feedLost b.val true ≠ 3 → t.power.doms = s.power.doms ∧ t.cores = s.cores ∧ t.mem = s.mem))) ∧
  (∀ (side : Fin 2) (d : Fin 30), d = (if side = 0 then 26 else 27) →
    (domainUp s d = false → exec (.hbmPgDeassert side) s = .next (setHbmPg s side false)) ∧
    (domainUp s d = true → ∃ t, exec (.hbmPgDeassert side) s = .next t ∧ vget t.power.hbmPg side = false ∧
      (vget t.power.doms d).state = 3 ∧ (vget t.power.doms d).latched = true)) ∧
  (∀ (r : Rail) (mv : Nat),
    ((railLimits r).2.2 < mv → exec (.railOutOfRange r mv) s = .fault .absoluteMaximum) ∧
    (mv ≤ (railLimits r).2.2 →
      (s.pins.perst = true ∨ ((railLimits r).1 ≤ mv ∧ mv ≤ (railLimits r).2.1) → exec (.railOutOfRange r mv) s = .next s) ∧
      (s.pins.perst = false → mv < (railLimits r).1 ∨ (railLimits r).2.1 < mv →
        (coreRail r = true → exec (.railOutOfRange r mv) s = .next (modPower s fun w => { w with railsBad := true })) ∧
        (coreRail r = false → ∃ t, exec (.railOutOfRange r mv) s = .next t ∧ t.power.railsBad = true ∧ t.power.requests = [] ∧
          ∀ d, (vget t.power.doms d).state = 0 ∨ (vget t.power.doms d).state = 3))))

/-- A 1 µs sample is kept; each core's allowance moves by at most its slope's step for an activity up to IMAX; above PEAK_W no allowance
rises; at most PEAK_W each comes to lie under its ceiling or falls toward it. A sample of the sustained window is kept; above SUST_W, one core at
most is lowered by 50 MHz, or to its lowest point, not within 10 µs of the last; below 98 % of it one at most is raised; between, no limit
changes. No other register of a core and no memory changes. -/
def Obligations.GovernorTicks : Prop := ∀ (s : State),
  (∀ x : PowerSample, ∃ t, exec (.governorPeakTick x) s = .next t ∧ t.power.instW = x.instW ∧ t.power.nowW = x.nowW ∧
    t.cores = s.cores ∧ t.mem = s.mem ∧ t.power.doms = s.power.doms ∧
    (∀ g, (vget t.power.fgs g).ampsD = vget x.fgAmpsD g ∧ (vget t.power.fgs g).senseMv = vget x.fgSense g) ∧
    (∀ c : CoreId, (vget x.activity c).toNat ≤ (vget s.power.cores c).imaxD.toNat →
      (vget t.power.cores c).allowD ≤ (vget s.power.cores c).allowD + slopeStep s c ∧
      (vget s.power.cores c).allowD ≤ (vget t.power.cores c).allowD + slopeStep s c) ∧
    (∀ c : CoreId, s.power.peakW.toNat < x.instW.toNat → (vget t.power.cores c).allowD ≤ (vget s.power.cores c).allowD) ∧
    (∀ c : CoreId, x.instW.toNat ≤ s.power.peakW.toNat → (vget t.power.cores c).allowD ≤
      max (ceilingOf s c * (vget s.power.cores c).imaxD.toNat / 100) ((vget s.power.cores c).allowD - slopeStep s c))) ∧
  (∀ (a : BitVec 16) (act : Vector (BitVec 16) 12) u,
    u = modPower s (fun w => { w with avgW := a, thrSust := decide (w.sustW.toNat < a.toNat) }) →
    (s.power.sustW.toNat < a.toNat →
      (longSince s 10000 s.power.govNs = false → exec (.governorSustTick a act) s = .next u) ∧
      (longSince s 10000 s.power.govNs = true →
        ((∀ c, mayLower s c = false) → exec (.governorSustTick a act) s = .next u) ∧
        ((∃ c, mayLower s c = true) → ∃ t c, exec (.governorSustTick a act) s = .next t ∧ mayLower s c = true ∧
          (∀ e, mayLower s e = true → (vget act e).toNat ≤ (vget act c).toNat) ∧ t = lowerCore u c ∧
          (vget t.power.cores c).govMhz = BitVec.ofNat 11 (max (lowestPoint (vget s.power.cores c))
            (min (vget s.power.cores c).govMhz.toNat (targetMhz s (coreRegion c)) - 50)) ∧
          (∀ e, e ≠ c → vget t.power.cores e = vget s.power.cores e)))) ∧
    (a.toNat ≤ s.power.sustW.toNat →
      (s.power.sustW.toNat * 98 ≤ a.toNat * 100 ∨ longSince s 100000 s.power.raisedNs = false →
        exec (.governorSustTick a act) s = .next u) ∧
      (a.toNat * 100 < s.power.sustW.toNat * 98 → longSince s 100000 s.power.raisedNs = true →
        (∃ c : CoreId, (vget s.power.cores c).govMhz ≠ noLimit) → ∃ t c, exec (.governorSustTick a act) s = .next t ∧
          (vget s.power.cores c).govMhz ≠ noLimit ∧ t = raiseCore u c ∧ (vget t.power.cores c).govMhz =
            (if (vget s.power.cores c).fmax.toNat ≤ (vget s.power.cores c).govMhz.toNat + 50 then noLimit
             else (vget s.power.cores c).govMhz + 50) ∧
          (∀ e, e ≠ c → vget t.power.cores e = vget s.power.cores e))))

/-- Loss of the reference is holdover, counted; its return relocks; holdover that expires kills every job and fails the device. A region that may
change stops toward its target and restarts at it, one change counted. A margin code below WARN marks the region and keeps the lowest; one at or
above, or of a path it lacks, does nothing. A stretch at or below STRETCH counts one, codes 0 to 3 adding their part of the period, none while
stopped. More stretches than the limit lower the margin limit by 50 MHz, not below the floor; it rises by 50 MHz and is gone at the top. An
ageing step adds 5 mV to a point up to 50, or where it would need more than 900 mV lowers Fmax by 50 MHz and rebuilds the table from 600 MHz to it;
below 1,000 MHz the core is LOST. Memory stays. -/
def Obligations.ClocksChange : Prop := ∀ (s : State),
  (s.clock.holdover = true ∨ (vget s.power.doms 25).state ≠ 1 → exec .refLoss s = .next s) ∧
  (s.clock.holdover = false → (vget s.power.doms 25).state = 1 → ∃ t, exec .refLoss s = .next t ∧ t.clock = { s.clock with
    refOk := false, lock := false, holdover := true, losses := satAdd s.clock.losses 1 } ∧ t.cores = s.cores ∧ t.mem = s.mem) ∧
  (s.clock.holdover = true → exec .refReturn s = .next { s with clock := { s.clock with
    refOk := true, lock := true, holdover := false } }) ∧
  (s.clock.holdover = false → exec .refReturn s = .next s ∧ exec .holdoverExpire s = .next s) ∧
  (s.clock.holdover = true → s.reg.devState ≠ 3 → ∃ t, exec .holdoverExpire s = .next t ∧ t.reg.devState = 3 ∧ t.mem = s.mem ∧
    ∀ j x, findJob s j = some x → ∃ y, findJob t j = some y ∧ y.killed = true) ∧
  (∀ r : Fin 15,
    (mayChange s r = false → exec (.freqChangeStart r) s = .next s) ∧
    (mayChange s r = true → ∃ t, exec (.freqChangeStart r) s = .next t ∧ vget t.clock.regions r = { vget s.clock.regions r with
      stopped := true, goal := BitVec.ofNat 11 (targetMhz s r), changedAt := some s.reg.time.toNat } ∧
      (∀ q, q ≠ r → vget t.clock.regions q = vget s.clock.regions q) ∧ t.cores = s.cores ∧ t.mem = s.mem) ∧
    ((vget s.clock.regions r).stopped = false → exec (.freqChangeRestart r) s = .next s) ∧
    ((vget s.clock.regions r).stopped = true → ∃ t, exec (.freqChangeRestart r) s = .next t ∧ vget t.clock.regions r =
      { vget s.clock.regions r with
        stopped := false, cur := (vget s.clock.regions r).goal, changes := (vget s.clock.regions r).changes + 1 } ∧
      (∀ q, q ≠ r → vget t.clock.regions q = vget s.clock.regions q) ∧ t.cores = s.cores ∧ t.mem = s.mem) ∧
    (∀ (code : BitVec 6) (path : BitVec 5),
      (pathCount r ≤ path.toNat → exec (.marginWarn r code path) s = .next s ∧ exec (.periodStretch r code path) s = .next s) ∧
      (s.clock.warn ≤ code → exec (.marginWarn r code path) s = .next s) ∧
      (path.toNat < pathCount r → code < s.clock.warn → ∃ t, exec (.marginWarn r code path) s = .next t ∧
        (vget t.clock.regions r).warnNew = true ∧
        (vget t.clock.regions r).low = (if code < lowOf s r then code else (vget s.clock.regions r).low) ∧
        (vget t.clock.regions r).path = (if code < lowOf s r then path else (vget s.clock.regions r).path) ∧
        (∀ q, q ≠ r → vget t.clock.regions q = vget s.clock.regions q) ∧ t.cores = s.cores ∧ t.mem = s.mem) ∧
      ((vget s.clock.regions r).stopped = true ∨ s.clock.stretch < code → exec (.periodStretch r code path) s = .next s) ∧
      (path.toNat < pathCount r → (vget s.clock.regions r).stopped = false → code ≤ s.clock.stretch →
        ∃ t, exec (.periodStretch r code path) s = .next t ∧
          (vget t.clock.regions r).str = satAdd (vget s.clock.regions r).str 1 ∧
          (code.toNat ≤ 3 → (vget t.clock.regions r).strPs = satAdd (vget s.clock.regions r).strPs
            (10 ^ 6 / max 1 (vget s.clock.regions r).cur.toNat * (4 - code.toNat) / 8)) ∧
          (∀ q, q ≠ r → vget t.clock.regions q = vget s.clock.regions q) ∧ t.cores = s.cores ∧ t.mem = s.mem)) ∧
    (∀ n : BitVec 32,
      (n.toNat ≤ s.clock.strLim.toNat ∨ 14 ≤ r.val → exec (.stretchLimitExceeded r n) s = .next s) ∧
      (s.clock.strLim.toNat < n.toNat → r.val < 14 → ∃ t, exec (.stretchLimitExceeded r n) s = .next t ∧
        vget t.clock.regions r = { vget s.clock.regions r with
          margin := BitVec.ofNat 11 (max (floorMhz s r) (min (vget s.clock.regions r).margin.toNat (topMhz s r) - 50)),
          marginAt := some s.reg.time.toNat } ∧ t.cores = s.cores ∧ t.mem = s.mem)) ∧
    ((vget s.clock.regions r).margin = noLimit ∨ longSince s (10 * 10 ^ 9) (vget s.clock.regions r).marginAt = false →
      exec (.marginLimitRaise r) s = .next s) ∧
    ((vget s.clock.regions r).margin ≠ noLimit → longSince s (10 * 10 ^ 9) (vget s.clock.regions r).marginAt = true →
      exec (.marginLimitRaise r) s = .next (modRegion s r fun k => { k with
        margin := if topMhz s r ≤ k.margin.toNat + 50 then noLimit else k.margin + 50
        marginAt := some s.reg.time.toNat }))) ∧
  (∀ (c : CoreId) (k : Fin 16) (p : CorePower) (x : VfPoint), p = vget s.power.cores c → x = vget p.vf k →
    (x.valid = false ∨ (getCore s c).st = .lost → exec (.vfAgeStep c k) s = .next s) ∧
    (x.valid = true → (getCore s c).st ≠ .lost →
      (x.fused.toNat + x.ageMv.toNat + 5 + x.offMv.toNat ≤ 900 →
        (50 ≤ x.ageMv.toNat → exec (.vfAgeStep c k) s = .next s) ∧
        (x.ageMv.toNat < 50 → ∃ t, exec (.vfAgeStep c k) s = .next t ∧ vget t.power.cores c = { p with
          vf := vmod p.vf k fun x => { x with ageMv := x.ageMv + 5 } } ∧ t.cores = s.cores ∧ t.mem = s.mem)) ∧
      (900 < x.fused.toNat + x.ageMv.toNat + 5 + x.offMv.toNat → ∃ t, exec (.vfAgeStep c k) s = .next t ∧ t.mem = s.mem ∧
        (vget t.power.cores c).fmax = BitVec.ofNat 11 (p.fmax.toNat - 50) ∧
        (∀ n : Fin 16, (vget (vget t.power.cores c).vf n).mhz =
          BitVec.ofNat 11 (600 + (p.fmax.toNat - 50 - 600) * n.val / 15)) ∧
        (p.fmax.toNat - 50 < 1000 → (getCore t c).st = .lost) ∧ (1000 ≤ p.fmax.toNat - 50 → t.cores = s.cores))))

/-- A reading of a sensor the region has, in range and not apart from its region's mean: it is kept and the region reads its hottest working sensor;
at or above 110 °C, where not yet critical, the region is critical and runs at its floor; the second in a row at or above 115 °C of a working
sensor trips: every job killed, the device FAILED, PWR_FAULT, every domain but those kept off and latched. A reading out of range, or apart, fails
its sensor, and more than eight failed lose the core. Where regions may be throttled the hottest is lowered by 50 MHz, not below its floor; where some may be
released, the most lowered rises by 50 MHz, its limit gone at the top; else nothing happens. -/
def Obligations.SensorsThrottle : Prop := ∀ (s : State),
  (∀ (r : Fin 15) (i : Fin 16) (q : BitVec 16) (apart : Bool) (x : ThermRegion) (o : Sensor),
    x = vget s.thermal.regions r → o = vget x.sensors i →
    (sensorCount r ≤ i.val → exec (.sensorSample r i q apart) s = .next s) ∧
    (i.val < sensorCount r → -160 ≤ q.toInt → q.toInt ≤ 600 → apart = false → ∃ t h, exec (.sensorSample r i q apart) s = .next t ∧
      h = hottestReading r { x with sensors := vmod x.sensors i fun y => { y with tempQ := q } } ∧
      (vget t.thermal.regions r).tempQ = h ∧ (vget (vget t.thermal.regions r).sensors i).tempQ = q ∧
      (440 ≤ h.toInt → x.crit = false → (vget t.thermal.regions r).crit = true ∧
        (r ≠ 14 → (vget t.thermal.regions r).lim = BitVec.ofNat 11 (floorMhz s r))) ∧
      (q.toInt < 460 ∨ o.bad = true ∨ s.thermal.tripped = true ∨ o.trips = 0 →
        t.cores = s.cores ∧ t.mem = s.mem ∧ t.power.doms = s.power.doms) ∧
      (460 ≤ q.toInt → o.bad = false → s.thermal.tripped = false → 1 ≤ o.trips → t.reg.devState = 3 ∧ t.power.pwrFault = true ∧
        t.thermal.tripped = true ∧ (∀ j y, findJob s j = some y → ∃ z, findJob t j = some z ∧ z.killed = true) ∧
        (∀ d, (tripKeeps r).contains d = false → (vget t.power.doms d).latched = true ∧
          ((vget t.power.doms d).state = 0 ∨ (vget t.power.doms d).state = 3)))) ∧
    (i.val < sensorCount r → q.toInt < -160 ∨ 600 < q.toInt ∨ apart = true → o.failed = false →
      ∃ t, exec (.sensorSample r i q apart) s = .next t ∧ (vget (vget t.thermal.regions r).sensors i).failed = true ∧ t.mem = s.mem ∧
        (r.val < 12 → o.disable = false → 8 < failedWith s r i.val → (getCore t (coreOf r.val)).st = .lost))) ∧
  ((∀ r, mayThrottle s r = false) → exec .thermalCheck s = .next s) ∧
  ((∃ r, mayThrottle s r = true) → ∃ t r, exec .thermalCheck s = .next t ∧ mayThrottle s r = true ∧
    (∀ q, mayThrottle s q = true → throttleTemp s q ≤ throttleTemp s r) ∧
    (vget t.thermal.regions r).lim = BitVec.ofNat 11 (max (floorMhz s r)
      (min (vget s.thermal.regions r).lim.toNat (topMhz s r) - 50)) ∧
    (vget t.thermal.regions r).steps = satAdd (vget s.thermal.regions r).steps 1 ∧
    (∀ q, q ≠ r → vget t.thermal.regions q = vget s.thermal.regions q) ∧ t.cores = s.cores ∧ t.mem = s.mem) ∧
  (longSince s (10 ^ 6) s.thermal.raisedAt = false ∨ (∀ r, mayRelease s r = false) → exec .thermalRelease s = .next s) ∧
  (longSince s (10 ^ 6) s.thermal.raisedAt = true → (∃ r, mayRelease s r = true) → ∃ t r, exec .thermalRelease s = .next t ∧
    mayRelease s r = true ∧ (∀ q, mayRelease s q = true →
      topMhz s q - (vget s.thermal.regions q).lim.toNat ≤ topMhz s r - (vget s.thermal.regions r).lim.toNat) ∧
    vget t.thermal.regions r = { vget s.thermal.regions r with
      lim := if topMhz s r ≤ (vget s.thermal.regions r).lim.toNat + 50 then noLimit else (vget s.thermal.regions r).lim + 50 } ∧
    (∀ q, q ≠ r → vget t.thermal.regions q = vget s.thermal.regions q) ∧ t.cores = s.cores ∧ t.mem = s.mem)

/-- BYPASS, IDCODE and SAMPLE/PRELOAD change nothing, whatever the rights. EXTEST, CLAMP and the IEEE 1687 and 1500 instruments change nothing
where RIGHTS bit 2 is not in force (it is clear, or the unlock's time is over). With the right, the first is noted, no byte of memory changes
and every job there was is killed; a later one changes nothing. After one, the end of the unlock, by its time or by DEBUG_UNLOCK with
DURATION 0, makes the whole-device reset due; without one, it does not. -/
def Obligations.TestPort : Prop := ∀ (s : State),
  (∀ i : TapInstruction,
    (i = .bypass ∨ i = .idcode ∨ i = .samplePreload ∨ bit s.reg.dbgRights 2 = false ∨ s.reg.dbgUntil ≤ s.reg.time.toNat →
      exec (.tapInstruction i) s = .next s) ∧
    (i = .extest ∨ i = .clamp ∨ i = .ieee1687 ∨ i = .ieee1500 → bit s.reg.dbgRights 2 = true → s.reg.time.toNat < s.reg.dbgUntil →
      (s.reg.tapUsed = false → ∃ t, exec (.tapInstruction i) s = .next t ∧ t.reg.tapUsed = true ∧ t.mem = s.mem ∧
        ∀ j x, findJob s j = some x → ∃ y, findJob t j = some y ∧ y.killed = true) ∧
      (s.reg.tapUsed = true → exec (.tapInstruction i) s = .next s))) ∧
  (s.reg.dbgUntil ≠ 0 → s.reg.dbgUntil ≤ s.reg.time.toNat → ∃ t, exec .debugUnlockExpire s = .next t ∧
    t.reg.resetDue = (s.reg.tapUsed || s.reg.resetDue)) ∧
  (∀ k : Fin 16, running s k 0xC3 = true → pf (getMb s k) 4 4 = 0 → ∃ t, exec (.debugUnlock k) s = .next t ∧
    t.reg.resetDue = (s.reg.tapUsed || s.reg.resetDue))

/-- The features that profile G disables by command are SNAP_CFG, SNAP_NOW, RESTORE, PAIR and a SESS_OPEN of a duplex session. Such a command,
posted at a mailbox that may carry it and past its check and counter, is refused with status NOT_LICENSED: nothing but its mailbox, and, where
it was authenticated, the counter, changes. A running JOB_LOAD whose image sets a feature flag that profile G disables, and which no earlier
check refuses, ends NOT_LICENSED and changes nothing else: nothing of the image is placed. -/
def Obligations.ProfileRefuses : Prop := ∀ (s : State) (k : Fin 16), s.flash.profile = 1 →
  (∀ (fn : Fin 9) (n : Fin 16) (ctrl : BitVec 32) (u v : State) (m : Mailbox),
    u = modMb s k (fun m => { m with own := true, cancel := bit ctrl 1, expert := bit ctrl 2, phase := 0 }) → m = getMb u k →
    decodes s fn = true → mailboxesServed s = true → mailboxAt s fn n.val = some k → (getMb s k).own = false →
    bit ctrl 0 = true → bit ctrl 1 = false → takesCommands s = true →
    m.code = 0x70 ∨ m.code = 0x71 ∨ m.code = 0x72 ∨ m.code = 0xC6 ∨ (m.code = 0x41 ∧ pf m 4 1 = 1) → mayCarry u k m = true →
    (authenticated s k = false ∧ v = u) ∨ (authenticated s k = true ∧ s.reg.ownerState ≠ 2 ∧
      commandCheck s.reg.key m ctrl = memRead m.check 0 24 ∧ s.reg.lastCtr.toNat < m.counter.toNat ∧ v = consume u m) →
    exec (.mailboxOwnWrite fn n ctrl) s = .next (refuse v k stNotLicensed)) ∧
  (∀ m i, m = getMb s k → i = loadImage s m → running s k 0x20 = true → imgFlags i &&& 0x1E ≠ 0 → leAt i 0x10 8 = pf m 8 8 →
    pf m 17 1 = 0xFF ∨ imgPlaces i = 0 ∨ 5 < imgPlaces i ∨ pf m 17 1 < imgPlaces i →
    m.fn = 0 ∨ (finOf 9 (by decide) (pf m 16 1) = m.fn ∧ inGrant s m.fn (pf m 0 8) (pf m 8 8) = true) →
    anyPoison s (pf m 0 8) (pf m 8 8) = false → imageOk s i = true →
    exec (.jobLoad k) s = .next (ends s k stNotLicensed []))

/-- State.reset: every core in RESET with job 0 and no sequencer running, each sequencer halted with 16 and 32 credits (Table 02-9 and R225),
STK_INSVC, spares and TAG_TMO as Table 03-14 gives them; no mailbox owned, the
PF holding all; the device BOOTING with no job; the power and thermal limits of Tables 14-5 and 15-6, every domain OFF; the ledger's period 100,000; no
byte of memory listed and nothing pending. Values the tables do not give are the model's (log entries 5 to 9) and are not stated. -/
def Obligations.ResetValues : Prop :=
  (∀ c : CoreId, (getCore State.reset c).st = .reset ∧ (getCore State.reset c).jobId = 0 ∧ (getCore State.reset c).seqRun = 0 ∧
    (getCore State.reset c).seqErr = 0 ∧ (getCore State.reset c).clGate = 3 ∧ (getCore State.reset c).stk.insvc = 0xFFFFF ∧
    (getCore State.reset c).stk.spareC0 = 16 ∧ (getCore State.reset c).stk.tagTmoUs = 0x2710 ∧
    ∀ q : SeqId, (getSeq State.reset c q).st = .halted ∧ (getSeq State.reset c q).pc = 0 ∧ (getSeq State.reset c q).fault = 0 ∧
      (getSeq State.reset c q).credit1 = 16 ∧ (getSeq State.reset c q).credit3 = 32) ∧
  (∀ k : Fin 16, (getMb State.reset k).own = false ∧ (getMb State.reset k).fn = 0) ∧
  State.reset.reg.devState = 0 ∧ State.reset.reg.jobs = [] ∧ (∀ d : Fin 30, (vget State.reset.power.doms d).state = 0) ∧
  State.reset.power.sustW = 2800 ∧ State.reset.power.peakW = 3400 ∧ State.reset.thermal.throttleQ = 0x17C ∧
  State.reset.pmu.period = 100000 ∧ State.reset.mem = [] ∧ State.reset.pending = []
end

