-- ==== Sys2Proof/Laws/State.lean ====
section
/-!
SUPPORT. What each update of the state does to each field: one lemma per update and field, true by definition, so that no
later proof unfolds a record update; then reading back an element of the state that an update changed, or another one.
-/
namespace Sys2Proof.Machine

@[simp] theorem modCore_cores (s : State) (c : CoreId) (f : CoreState → CoreState) : (modCore s c f).cores = vmod s.cores c f := rfl
@[simp] theorem modCore_mem (s : State) (c : CoreId) (f : CoreState → CoreState) : (modCore s c f).mem = s.mem := rfl
@[simp] theorem modCore_full (s : State) (c : CoreId) (f : CoreState → CoreState) : (modCore s c f).full = s.full := rfl
@[simp] theorem modCore_poison (s : State) (c : CoreId) (f : CoreState → CoreState) : (modCore s c f).poison = s.poison := rfl
@[simp] theorem modCore_lacing (s : State) (c : CoreId) (f : CoreState → CoreState) : (modCore s c f).lacing = s.lacing := rfl
@[simp] theorem modCore_tiers (s : State) (c : CoreId) (f : CoreState → CoreState) : (modCore s c f).tiers = s.tiers := rfl
@[simp] theorem modCore_pcie (s : State) (c : CoreId) (f : CoreState → CoreState) : (modCore s c f).pcie = s.pcie := rfl
@[simp] theorem modCore_vault (s : State) (c : CoreId) (f : CoreState → CoreState) : (modCore s c f).vault = s.vault := rfl
@[simp] theorem modCore_eyes (s : State) (c : CoreId) (f : CoreState → CoreState) : (modCore s c f).eyes = s.eyes := rfl
@[simp] theorem modCore_sites (s : State) (c : CoreId) (f : CoreState → CoreState) : (modCore s c f).sites = s.sites := rfl
@[simp] theorem modCore_reg (s : State) (c : CoreId) (f : CoreState → CoreState) : (modCore s c f).reg = s.reg := rfl
@[simp] theorem modCore_power (s : State) (c : CoreId) (f : CoreState → CoreState) : (modCore s c f).power = s.power := rfl
@[simp] theorem modCore_clock (s : State) (c : CoreId) (f : CoreState → CoreState) : (modCore s c f).clock = s.clock := rfl
@[simp] theorem modCore_thermal (s : State) (c : CoreId) (f : CoreState → CoreState) : (modCore s c f).thermal = s.thermal := rfl
@[simp] theorem modCore_flash (s : State) (c : CoreId) (f : CoreState → CoreState) : (modCore s c f).flash = s.flash := rfl
@[simp] theorem modCore_agents (s : State) (c : CoreId) (f : CoreState → CoreState) : (modCore s c f).agents = s.agents := rfl
@[simp] theorem modCore_resil (s : State) (c : CoreId) (f : CoreState → CoreState) : (modCore s c f).resil = s.resil := rfl
@[simp] theorem modCore_pmu (s : State) (c : CoreId) (f : CoreState → CoreState) : (modCore s c f).pmu = s.pmu := rfl
@[simp] theorem modCore_pins (s : State) (c : CoreId) (f : CoreState → CoreState) : (modCore s c f).pins = s.pins := rfl
@[simp] theorem modCore_pending (s : State) (c : CoreId) (f : CoreState → CoreState) : (modCore s c f).pending = s.pending := rfl
@[simp] theorem modCore_openCtr (s : State) (c : CoreId) (f : CoreState → CoreState) : (modCore s c f).openCtr = s.openCtr := rfl

@[simp] theorem modSeq_cores (s : State) (c : CoreId) (q : SeqId) (f : SeqState → SeqState) : (modSeq s c q f).cores = vmod s.cores c fun k => { k with seqs := vmod k.seqs q f } := rfl
@[simp] theorem modSeq_mem (s : State) (c : CoreId) (q : SeqId) (f : SeqState → SeqState) : (modSeq s c q f).mem = s.mem := rfl
@[simp] theorem modSeq_full (s : State) (c : CoreId) (q : SeqId) (f : SeqState → SeqState) : (modSeq s c q f).full = s.full := rfl
@[simp] theorem modSeq_poison (s : State) (c : CoreId) (q : SeqId) (f : SeqState → SeqState) : (modSeq s c q f).poison = s.poison := rfl
@[simp] theorem modSeq_lacing (s : State) (c : CoreId) (q : SeqId) (f : SeqState → SeqState) : (modSeq s c q f).lacing = s.lacing := rfl
@[simp] theorem modSeq_tiers (s : State) (c : CoreId) (q : SeqId) (f : SeqState → SeqState) : (modSeq s c q f).tiers = s.tiers := rfl
@[simp] theorem modSeq_pcie (s : State) (c : CoreId) (q : SeqId) (f : SeqState → SeqState) : (modSeq s c q f).pcie = s.pcie := rfl
@[simp] theorem modSeq_vault (s : State) (c : CoreId) (q : SeqId) (f : SeqState → SeqState) : (modSeq s c q f).vault = s.vault := rfl
@[simp] theorem modSeq_eyes (s : State) (c : CoreId) (q : SeqId) (f : SeqState → SeqState) : (modSeq s c q f).eyes = s.eyes := rfl
@[simp] theorem modSeq_sites (s : State) (c : CoreId) (q : SeqId) (f : SeqState → SeqState) : (modSeq s c q f).sites = s.sites := rfl
@[simp] theorem modSeq_reg (s : State) (c : CoreId) (q : SeqId) (f : SeqState → SeqState) : (modSeq s c q f).reg = s.reg := rfl
@[simp] theorem modSeq_power (s : State) (c : CoreId) (q : SeqId) (f : SeqState → SeqState) : (modSeq s c q f).power = s.power := rfl
@[simp] theorem modSeq_clock (s : State) (c : CoreId) (q : SeqId) (f : SeqState → SeqState) : (modSeq s c q f).clock = s.clock := rfl
@[simp] theorem modSeq_thermal (s : State) (c : CoreId) (q : SeqId) (f : SeqState → SeqState) : (modSeq s c q f).thermal = s.thermal := rfl
@[simp] theorem modSeq_flash (s : State) (c : CoreId) (q : SeqId) (f : SeqState → SeqState) : (modSeq s c q f).flash = s.flash := rfl
@[simp] theorem modSeq_agents (s : State) (c : CoreId) (q : SeqId) (f : SeqState → SeqState) : (modSeq s c q f).agents = s.agents := rfl
@[simp] theorem modSeq_resil (s : State) (c : CoreId) (q : SeqId) (f : SeqState → SeqState) : (modSeq s c q f).resil = s.resil := rfl
@[simp] theorem modSeq_pmu (s : State) (c : CoreId) (q : SeqId) (f : SeqState → SeqState) : (modSeq s c q f).pmu = s.pmu := rfl
@[simp] theorem modSeq_pins (s : State) (c : CoreId) (q : SeqId) (f : SeqState → SeqState) : (modSeq s c q f).pins = s.pins := rfl
@[simp] theorem modSeq_pending (s : State) (c : CoreId) (q : SeqId) (f : SeqState → SeqState) : (modSeq s c q f).pending = s.pending := rfl
@[simp] theorem modSeq_openCtr (s : State) (c : CoreId) (q : SeqId) (f : SeqState → SeqState) : (modSeq s c q f).openCtr = s.openCtr := rfl

@[simp] theorem modStk_cores (s : State) (c : CoreId) (f : StkState → StkState) : (modStk s c f).cores = vmod s.cores c fun k => { k with stk := f k.stk } := rfl
@[simp] theorem modStk_mem (s : State) (c : CoreId) (f : StkState → StkState) : (modStk s c f).mem = s.mem := rfl
@[simp] theorem modStk_full (s : State) (c : CoreId) (f : StkState → StkState) : (modStk s c f).full = s.full := rfl
@[simp] theorem modStk_poison (s : State) (c : CoreId) (f : StkState → StkState) : (modStk s c f).poison = s.poison := rfl
@[simp] theorem modStk_lacing (s : State) (c : CoreId) (f : StkState → StkState) : (modStk s c f).lacing = s.lacing := rfl
@[simp] theorem modStk_tiers (s : State) (c : CoreId) (f : StkState → StkState) : (modStk s c f).tiers = s.tiers := rfl
@[simp] theorem modStk_pcie (s : State) (c : CoreId) (f : StkState → StkState) : (modStk s c f).pcie = s.pcie := rfl
@[simp] theorem modStk_vault (s : State) (c : CoreId) (f : StkState → StkState) : (modStk s c f).vault = s.vault := rfl
@[simp] theorem modStk_eyes (s : State) (c : CoreId) (f : StkState → StkState) : (modStk s c f).eyes = s.eyes := rfl
@[simp] theorem modStk_sites (s : State) (c : CoreId) (f : StkState → StkState) : (modStk s c f).sites = s.sites := rfl
@[simp] theorem modStk_reg (s : State) (c : CoreId) (f : StkState → StkState) : (modStk s c f).reg = s.reg := rfl
@[simp] theorem modStk_power (s : State) (c : CoreId) (f : StkState → StkState) : (modStk s c f).power = s.power := rfl
@[simp] theorem modStk_clock (s : State) (c : CoreId) (f : StkState → StkState) : (modStk s c f).clock = s.clock := rfl
@[simp] theorem modStk_thermal (s : State) (c : CoreId) (f : StkState → StkState) : (modStk s c f).thermal = s.thermal := rfl
@[simp] theorem modStk_flash (s : State) (c : CoreId) (f : StkState → StkState) : (modStk s c f).flash = s.flash := rfl
@[simp] theorem modStk_agents (s : State) (c : CoreId) (f : StkState → StkState) : (modStk s c f).agents = s.agents := rfl
@[simp] theorem modStk_resil (s : State) (c : CoreId) (f : StkState → StkState) : (modStk s c f).resil = s.resil := rfl
@[simp] theorem modStk_pmu (s : State) (c : CoreId) (f : StkState → StkState) : (modStk s c f).pmu = s.pmu := rfl
@[simp] theorem modStk_pins (s : State) (c : CoreId) (f : StkState → StkState) : (modStk s c f).pins = s.pins := rfl
@[simp] theorem modStk_pending (s : State) (c : CoreId) (f : StkState → StkState) : (modStk s c f).pending = s.pending := rfl
@[simp] theorem modStk_openCtr (s : State) (c : CoreId) (f : StkState → StkState) : (modStk s c f).openCtr = s.openCtr := rfl

@[simp] theorem modLast_cores (s : State) (c : CoreId) (l : Fin 4) (f : LastState → LastState) : (modLast s c l f).cores = vmod s.cores c fun k => { k with lasts := vmod k.lasts l f } := rfl
@[simp] theorem modLast_mem (s : State) (c : CoreId) (l : Fin 4) (f : LastState → LastState) : (modLast s c l f).mem = s.mem := rfl
@[simp] theorem modLast_full (s : State) (c : CoreId) (l : Fin 4) (f : LastState → LastState) : (modLast s c l f).full = s.full := rfl
@[simp] theorem modLast_poison (s : State) (c : CoreId) (l : Fin 4) (f : LastState → LastState) : (modLast s c l f).poison = s.poison := rfl
@[simp] theorem modLast_lacing (s : State) (c : CoreId) (l : Fin 4) (f : LastState → LastState) : (modLast s c l f).lacing = s.lacing := rfl
@[simp] theorem modLast_tiers (s : State) (c : CoreId) (l : Fin 4) (f : LastState → LastState) : (modLast s c l f).tiers = s.tiers := rfl
@[simp] theorem modLast_pcie (s : State) (c : CoreId) (l : Fin 4) (f : LastState → LastState) : (modLast s c l f).pcie = s.pcie := rfl
@[simp] theorem modLast_vault (s : State) (c : CoreId) (l : Fin 4) (f : LastState → LastState) : (modLast s c l f).vault = s.vault := rfl
@[simp] theorem modLast_eyes (s : State) (c : CoreId) (l : Fin 4) (f : LastState → LastState) : (modLast s c l f).eyes = s.eyes := rfl
@[simp] theorem modLast_sites (s : State) (c : CoreId) (l : Fin 4) (f : LastState → LastState) : (modLast s c l f).sites = s.sites := rfl
@[simp] theorem modLast_reg (s : State) (c : CoreId) (l : Fin 4) (f : LastState → LastState) : (modLast s c l f).reg = s.reg := rfl
@[simp] theorem modLast_power (s : State) (c : CoreId) (l : Fin 4) (f : LastState → LastState) : (modLast s c l f).power = s.power := rfl
@[simp] theorem modLast_clock (s : State) (c : CoreId) (l : Fin 4) (f : LastState → LastState) : (modLast s c l f).clock = s.clock := rfl
@[simp] theorem modLast_thermal (s : State) (c : CoreId) (l : Fin 4) (f : LastState → LastState) : (modLast s c l f).thermal = s.thermal := rfl
@[simp] theorem modLast_flash (s : State) (c : CoreId) (l : Fin 4) (f : LastState → LastState) : (modLast s c l f).flash = s.flash := rfl
@[simp] theorem modLast_agents (s : State) (c : CoreId) (l : Fin 4) (f : LastState → LastState) : (modLast s c l f).agents = s.agents := rfl
@[simp] theorem modLast_resil (s : State) (c : CoreId) (l : Fin 4) (f : LastState → LastState) : (modLast s c l f).resil = s.resil := rfl
@[simp] theorem modLast_pmu (s : State) (c : CoreId) (l : Fin 4) (f : LastState → LastState) : (modLast s c l f).pmu = s.pmu := rfl
@[simp] theorem modLast_pins (s : State) (c : CoreId) (l : Fin 4) (f : LastState → LastState) : (modLast s c l f).pins = s.pins := rfl
@[simp] theorem modLast_pending (s : State) (c : CoreId) (l : Fin 4) (f : LastState → LastState) : (modLast s c l f).pending = s.pending := rfl
@[simp] theorem modLast_openCtr (s : State) (c : CoreId) (l : Fin 4) (f : LastState → LastState) : (modLast s c l f).openCtr = s.openCtr := rfl

@[simp] theorem modWelt_cores (s : State) (c : CoreId) (w : Fin 2) (f : WeltState → WeltState) : (modWelt s c w f).cores = vmod s.cores c fun k => { k with welts := vmod k.welts w f } := rfl
@[simp] theorem modWelt_mem (s : State) (c : CoreId) (w : Fin 2) (f : WeltState → WeltState) : (modWelt s c w f).mem = s.mem := rfl
@[simp] theorem modWelt_full (s : State) (c : CoreId) (w : Fin 2) (f : WeltState → WeltState) : (modWelt s c w f).full = s.full := rfl
@[simp] theorem modWelt_poison (s : State) (c : CoreId) (w : Fin 2) (f : WeltState → WeltState) : (modWelt s c w f).poison = s.poison := rfl
@[simp] theorem modWelt_lacing (s : State) (c : CoreId) (w : Fin 2) (f : WeltState → WeltState) : (modWelt s c w f).lacing = s.lacing := rfl
@[simp] theorem modWelt_tiers (s : State) (c : CoreId) (w : Fin 2) (f : WeltState → WeltState) : (modWelt s c w f).tiers = s.tiers := rfl
@[simp] theorem modWelt_pcie (s : State) (c : CoreId) (w : Fin 2) (f : WeltState → WeltState) : (modWelt s c w f).pcie = s.pcie := rfl
@[simp] theorem modWelt_vault (s : State) (c : CoreId) (w : Fin 2) (f : WeltState → WeltState) : (modWelt s c w f).vault = s.vault := rfl
@[simp] theorem modWelt_eyes (s : State) (c : CoreId) (w : Fin 2) (f : WeltState → WeltState) : (modWelt s c w f).eyes = s.eyes := rfl
@[simp] theorem modWelt_sites (s : State) (c : CoreId) (w : Fin 2) (f : WeltState → WeltState) : (modWelt s c w f).sites = s.sites := rfl
@[simp] theorem modWelt_reg (s : State) (c : CoreId) (w : Fin 2) (f : WeltState → WeltState) : (modWelt s c w f).reg = s.reg := rfl
@[simp] theorem modWelt_power (s : State) (c : CoreId) (w : Fin 2) (f : WeltState → WeltState) : (modWelt s c w f).power = s.power := rfl
@[simp] theorem modWelt_clock (s : State) (c : CoreId) (w : Fin 2) (f : WeltState → WeltState) : (modWelt s c w f).clock = s.clock := rfl
@[simp] theorem modWelt_thermal (s : State) (c : CoreId) (w : Fin 2) (f : WeltState → WeltState) : (modWelt s c w f).thermal = s.thermal := rfl
@[simp] theorem modWelt_flash (s : State) (c : CoreId) (w : Fin 2) (f : WeltState → WeltState) : (modWelt s c w f).flash = s.flash := rfl
@[simp] theorem modWelt_agents (s : State) (c : CoreId) (w : Fin 2) (f : WeltState → WeltState) : (modWelt s c w f).agents = s.agents := rfl
@[simp] theorem modWelt_resil (s : State) (c : CoreId) (w : Fin 2) (f : WeltState → WeltState) : (modWelt s c w f).resil = s.resil := rfl
@[simp] theorem modWelt_pmu (s : State) (c : CoreId) (w : Fin 2) (f : WeltState → WeltState) : (modWelt s c w f).pmu = s.pmu := rfl
@[simp] theorem modWelt_pins (s : State) (c : CoreId) (w : Fin 2) (f : WeltState → WeltState) : (modWelt s c w f).pins = s.pins := rfl
@[simp] theorem modWelt_pending (s : State) (c : CoreId) (w : Fin 2) (f : WeltState → WeltState) : (modWelt s c w f).pending = s.pending := rfl
@[simp] theorem modWelt_openCtr (s : State) (c : CoreId) (w : Fin 2) (f : WeltState → WeltState) : (modWelt s c w f).openCtr = s.openCtr := rfl

@[simp] theorem modAwl_cores (s : State) (c : CoreId) (f : AwlState → AwlState) : (modAwl s c f).cores = vmod s.cores c fun k => { k with awl := f k.awl } := rfl
@[simp] theorem modAwl_mem (s : State) (c : CoreId) (f : AwlState → AwlState) : (modAwl s c f).mem = s.mem := rfl
@[simp] theorem modAwl_full (s : State) (c : CoreId) (f : AwlState → AwlState) : (modAwl s c f).full = s.full := rfl
@[simp] theorem modAwl_poison (s : State) (c : CoreId) (f : AwlState → AwlState) : (modAwl s c f).poison = s.poison := rfl
@[simp] theorem modAwl_lacing (s : State) (c : CoreId) (f : AwlState → AwlState) : (modAwl s c f).lacing = s.lacing := rfl
@[simp] theorem modAwl_tiers (s : State) (c : CoreId) (f : AwlState → AwlState) : (modAwl s c f).tiers = s.tiers := rfl
@[simp] theorem modAwl_pcie (s : State) (c : CoreId) (f : AwlState → AwlState) : (modAwl s c f).pcie = s.pcie := rfl
@[simp] theorem modAwl_vault (s : State) (c : CoreId) (f : AwlState → AwlState) : (modAwl s c f).vault = s.vault := rfl
@[simp] theorem modAwl_eyes (s : State) (c : CoreId) (f : AwlState → AwlState) : (modAwl s c f).eyes = s.eyes := rfl
@[simp] theorem modAwl_sites (s : State) (c : CoreId) (f : AwlState → AwlState) : (modAwl s c f).sites = s.sites := rfl
@[simp] theorem modAwl_reg (s : State) (c : CoreId) (f : AwlState → AwlState) : (modAwl s c f).reg = s.reg := rfl
@[simp] theorem modAwl_power (s : State) (c : CoreId) (f : AwlState → AwlState) : (modAwl s c f).power = s.power := rfl
@[simp] theorem modAwl_clock (s : State) (c : CoreId) (f : AwlState → AwlState) : (modAwl s c f).clock = s.clock := rfl
@[simp] theorem modAwl_thermal (s : State) (c : CoreId) (f : AwlState → AwlState) : (modAwl s c f).thermal = s.thermal := rfl
@[simp] theorem modAwl_flash (s : State) (c : CoreId) (f : AwlState → AwlState) : (modAwl s c f).flash = s.flash := rfl
@[simp] theorem modAwl_agents (s : State) (c : CoreId) (f : AwlState → AwlState) : (modAwl s c f).agents = s.agents := rfl
@[simp] theorem modAwl_resil (s : State) (c : CoreId) (f : AwlState → AwlState) : (modAwl s c f).resil = s.resil := rfl
@[simp] theorem modAwl_pmu (s : State) (c : CoreId) (f : AwlState → AwlState) : (modAwl s c f).pmu = s.pmu := rfl
@[simp] theorem modAwl_pins (s : State) (c : CoreId) (f : AwlState → AwlState) : (modAwl s c f).pins = s.pins := rfl
@[simp] theorem modAwl_pending (s : State) (c : CoreId) (f : AwlState → AwlState) : (modAwl s c f).pending = s.pending := rfl
@[simp] theorem modAwl_openCtr (s : State) (c : CoreId) (f : AwlState → AwlState) : (modAwl s c f).openCtr = s.openCtr := rfl

@[simp] theorem modReg_cores (s : State) (f : Registrar → Registrar) : (modReg s f).cores = s.cores := rfl
@[simp] theorem modReg_mem (s : State) (f : Registrar → Registrar) : (modReg s f).mem = s.mem := rfl
@[simp] theorem modReg_full (s : State) (f : Registrar → Registrar) : (modReg s f).full = s.full := rfl
@[simp] theorem modReg_poison (s : State) (f : Registrar → Registrar) : (modReg s f).poison = s.poison := rfl
@[simp] theorem modReg_lacing (s : State) (f : Registrar → Registrar) : (modReg s f).lacing = s.lacing := rfl
@[simp] theorem modReg_tiers (s : State) (f : Registrar → Registrar) : (modReg s f).tiers = s.tiers := rfl
@[simp] theorem modReg_pcie (s : State) (f : Registrar → Registrar) : (modReg s f).pcie = s.pcie := rfl
@[simp] theorem modReg_vault (s : State) (f : Registrar → Registrar) : (modReg s f).vault = s.vault := rfl
@[simp] theorem modReg_eyes (s : State) (f : Registrar → Registrar) : (modReg s f).eyes = s.eyes := rfl
@[simp] theorem modReg_sites (s : State) (f : Registrar → Registrar) : (modReg s f).sites = s.sites := rfl
@[simp] theorem modReg_reg (s : State) (f : Registrar → Registrar) : (modReg s f).reg = f s.reg := rfl
@[simp] theorem modReg_power (s : State) (f : Registrar → Registrar) : (modReg s f).power = s.power := rfl
@[simp] theorem modReg_clock (s : State) (f : Registrar → Registrar) : (modReg s f).clock = s.clock := rfl
@[simp] theorem modReg_thermal (s : State) (f : Registrar → Registrar) : (modReg s f).thermal = s.thermal := rfl
@[simp] theorem modReg_flash (s : State) (f : Registrar → Registrar) : (modReg s f).flash = s.flash := rfl
@[simp] theorem modReg_agents (s : State) (f : Registrar → Registrar) : (modReg s f).agents = s.agents := rfl
@[simp] theorem modReg_resil (s : State) (f : Registrar → Registrar) : (modReg s f).resil = s.resil := rfl
@[simp] theorem modReg_pmu (s : State) (f : Registrar → Registrar) : (modReg s f).pmu = s.pmu := rfl
@[simp] theorem modReg_pins (s : State) (f : Registrar → Registrar) : (modReg s f).pins = s.pins := rfl
@[simp] theorem modReg_pending (s : State) (f : Registrar → Registrar) : (modReg s f).pending = s.pending := rfl
@[simp] theorem modReg_openCtr (s : State) (f : Registrar → Registrar) : (modReg s f).openCtr = s.openCtr := rfl

@[simp] theorem modMb_cores (s : State) (k : Fin 16) (f : Mailbox → Mailbox) : (modMb s k f).cores = s.cores := rfl
@[simp] theorem modMb_mem (s : State) (k : Fin 16) (f : Mailbox → Mailbox) : (modMb s k f).mem = s.mem := rfl
@[simp] theorem modMb_full (s : State) (k : Fin 16) (f : Mailbox → Mailbox) : (modMb s k f).full = s.full := rfl
@[simp] theorem modMb_poison (s : State) (k : Fin 16) (f : Mailbox → Mailbox) : (modMb s k f).poison = s.poison := rfl
@[simp] theorem modMb_lacing (s : State) (k : Fin 16) (f : Mailbox → Mailbox) : (modMb s k f).lacing = s.lacing := rfl
@[simp] theorem modMb_tiers (s : State) (k : Fin 16) (f : Mailbox → Mailbox) : (modMb s k f).tiers = s.tiers := rfl
@[simp] theorem modMb_pcie (s : State) (k : Fin 16) (f : Mailbox → Mailbox) : (modMb s k f).pcie = s.pcie := rfl
@[simp] theorem modMb_vault (s : State) (k : Fin 16) (f : Mailbox → Mailbox) : (modMb s k f).vault = s.vault := rfl
@[simp] theorem modMb_eyes (s : State) (k : Fin 16) (f : Mailbox → Mailbox) : (modMb s k f).eyes = s.eyes := rfl
@[simp] theorem modMb_sites (s : State) (k : Fin 16) (f : Mailbox → Mailbox) : (modMb s k f).sites = s.sites := rfl
@[simp] theorem modMb_reg (s : State) (k : Fin 16) (f : Mailbox → Mailbox) : (modMb s k f).reg = { s.reg with mailboxes := vmod s.reg.mailboxes k f } := rfl
@[simp] theorem modMb_power (s : State) (k : Fin 16) (f : Mailbox → Mailbox) : (modMb s k f).power = s.power := rfl
@[simp] theorem modMb_clock (s : State) (k : Fin 16) (f : Mailbox → Mailbox) : (modMb s k f).clock = s.clock := rfl
@[simp] theorem modMb_thermal (s : State) (k : Fin 16) (f : Mailbox → Mailbox) : (modMb s k f).thermal = s.thermal := rfl
@[simp] theorem modMb_flash (s : State) (k : Fin 16) (f : Mailbox → Mailbox) : (modMb s k f).flash = s.flash := rfl
@[simp] theorem modMb_agents (s : State) (k : Fin 16) (f : Mailbox → Mailbox) : (modMb s k f).agents = s.agents := rfl
@[simp] theorem modMb_resil (s : State) (k : Fin 16) (f : Mailbox → Mailbox) : (modMb s k f).resil = s.resil := rfl
@[simp] theorem modMb_pmu (s : State) (k : Fin 16) (f : Mailbox → Mailbox) : (modMb s k f).pmu = s.pmu := rfl
@[simp] theorem modMb_pins (s : State) (k : Fin 16) (f : Mailbox → Mailbox) : (modMb s k f).pins = s.pins := rfl
@[simp] theorem modMb_pending (s : State) (k : Fin 16) (f : Mailbox → Mailbox) : (modMb s k f).pending = s.pending := rfl
@[simp] theorem modMb_openCtr (s : State) (k : Fin 16) (f : Mailbox → Mailbox) : (modMb s k f).openCtr = s.openCtr := rfl

@[simp] theorem modJob_cores (s : State) (j : BitVec 6) (f : Job → Job) : (modJob s j f).cores = s.cores := rfl
@[simp] theorem modJob_mem (s : State) (j : BitVec 6) (f : Job → Job) : (modJob s j f).mem = s.mem := rfl
@[simp] theorem modJob_full (s : State) (j : BitVec 6) (f : Job → Job) : (modJob s j f).full = s.full := rfl
@[simp] theorem modJob_poison (s : State) (j : BitVec 6) (f : Job → Job) : (modJob s j f).poison = s.poison := rfl
@[simp] theorem modJob_lacing (s : State) (j : BitVec 6) (f : Job → Job) : (modJob s j f).lacing = s.lacing := rfl
@[simp] theorem modJob_tiers (s : State) (j : BitVec 6) (f : Job → Job) : (modJob s j f).tiers = s.tiers := rfl
@[simp] theorem modJob_pcie (s : State) (j : BitVec 6) (f : Job → Job) : (modJob s j f).pcie = s.pcie := rfl
@[simp] theorem modJob_vault (s : State) (j : BitVec 6) (f : Job → Job) : (modJob s j f).vault = s.vault := rfl
@[simp] theorem modJob_eyes (s : State) (j : BitVec 6) (f : Job → Job) : (modJob s j f).eyes = s.eyes := rfl
@[simp] theorem modJob_sites (s : State) (j : BitVec 6) (f : Job → Job) : (modJob s j f).sites = s.sites := rfl
@[simp] theorem modJob_reg (s : State) (j : BitVec 6) (f : Job → Job) : (modJob s j f).reg = { s.reg with jobs := s.reg.jobs.map fun x => if x.id = j then f x else x } := rfl
@[simp] theorem modJob_power (s : State) (j : BitVec 6) (f : Job → Job) : (modJob s j f).power = s.power := rfl
@[simp] theorem modJob_clock (s : State) (j : BitVec 6) (f : Job → Job) : (modJob s j f).clock = s.clock := rfl
@[simp] theorem modJob_thermal (s : State) (j : BitVec 6) (f : Job → Job) : (modJob s j f).thermal = s.thermal := rfl
@[simp] theorem modJob_flash (s : State) (j : BitVec 6) (f : Job → Job) : (modJob s j f).flash = s.flash := rfl
@[simp] theorem modJob_agents (s : State) (j : BitVec 6) (f : Job → Job) : (modJob s j f).agents = s.agents := rfl
@[simp] theorem modJob_resil (s : State) (j : BitVec 6) (f : Job → Job) : (modJob s j f).resil = s.resil := rfl
@[simp] theorem modJob_pmu (s : State) (j : BitVec 6) (f : Job → Job) : (modJob s j f).pmu = s.pmu := rfl
@[simp] theorem modJob_pins (s : State) (j : BitVec 6) (f : Job → Job) : (modJob s j f).pins = s.pins := rfl
@[simp] theorem modJob_pending (s : State) (j : BitVec 6) (f : Job → Job) : (modJob s j f).pending = s.pending := rfl
@[simp] theorem modJob_openCtr (s : State) (j : BitVec 6) (f : Job → Job) : (modJob s j f).openCtr = s.openCtr := rfl

@[simp] theorem setFull_cores (s : State) (n : Nat) (b : Bool) : (setFull s n b).cores = s.cores := rfl
@[simp] theorem setFull_mem (s : State) (n : Nat) (b : Bool) : (setFull s n b).mem = s.mem := rfl
@[simp] theorem setFull_full (s : State) (n : Nat) (b : Bool) : (setFull s n b).full = setPut s.full n b := rfl
@[simp] theorem setFull_poison (s : State) (n : Nat) (b : Bool) : (setFull s n b).poison = s.poison := rfl
@[simp] theorem setFull_lacing (s : State) (n : Nat) (b : Bool) : (setFull s n b).lacing = s.lacing := rfl
@[simp] theorem setFull_tiers (s : State) (n : Nat) (b : Bool) : (setFull s n b).tiers = s.tiers := rfl
@[simp] theorem setFull_pcie (s : State) (n : Nat) (b : Bool) : (setFull s n b).pcie = s.pcie := rfl
@[simp] theorem setFull_vault (s : State) (n : Nat) (b : Bool) : (setFull s n b).vault = s.vault := rfl
@[simp] theorem setFull_eyes (s : State) (n : Nat) (b : Bool) : (setFull s n b).eyes = s.eyes := rfl
@[simp] theorem setFull_sites (s : State) (n : Nat) (b : Bool) : (setFull s n b).sites = s.sites := rfl
@[simp] theorem setFull_reg (s : State) (n : Nat) (b : Bool) : (setFull s n b).reg = s.reg := rfl
@[simp] theorem setFull_power (s : State) (n : Nat) (b : Bool) : (setFull s n b).power = s.power := rfl
@[simp] theorem setFull_clock (s : State) (n : Nat) (b : Bool) : (setFull s n b).clock = s.clock := rfl
@[simp] theorem setFull_thermal (s : State) (n : Nat) (b : Bool) : (setFull s n b).thermal = s.thermal := rfl
@[simp] theorem setFull_flash (s : State) (n : Nat) (b : Bool) : (setFull s n b).flash = s.flash := rfl
@[simp] theorem setFull_agents (s : State) (n : Nat) (b : Bool) : (setFull s n b).agents = s.agents := rfl
@[simp] theorem setFull_resil (s : State) (n : Nat) (b : Bool) : (setFull s n b).resil = s.resil := rfl
@[simp] theorem setFull_pmu (s : State) (n : Nat) (b : Bool) : (setFull s n b).pmu = s.pmu := rfl
@[simp] theorem setFull_pins (s : State) (n : Nat) (b : Bool) : (setFull s n b).pins = s.pins := rfl
@[simp] theorem setFull_pending (s : State) (n : Nat) (b : Bool) : (setFull s n b).pending = s.pending := rfl
@[simp] theorem setFull_openCtr (s : State) (n : Nat) (b : Bool) : (setFull s n b).openCtr = s.openCtr := rfl

@[simp] theorem setPoison_cores (s : State) (n : Nat) (b : Bool) : (setPoison s n b).cores = s.cores := rfl
@[simp] theorem setPoison_mem (s : State) (n : Nat) (b : Bool) : (setPoison s n b).mem = s.mem := rfl
@[simp] theorem setPoison_full (s : State) (n : Nat) (b : Bool) : (setPoison s n b).full = s.full := rfl
@[simp] theorem setPoison_poison (s : State) (n : Nat) (b : Bool) : (setPoison s n b).poison = setPut s.poison n b := rfl
@[simp] theorem setPoison_lacing (s : State) (n : Nat) (b : Bool) : (setPoison s n b).lacing = s.lacing := rfl
@[simp] theorem setPoison_tiers (s : State) (n : Nat) (b : Bool) : (setPoison s n b).tiers = s.tiers := rfl
@[simp] theorem setPoison_pcie (s : State) (n : Nat) (b : Bool) : (setPoison s n b).pcie = s.pcie := rfl
@[simp] theorem setPoison_vault (s : State) (n : Nat) (b : Bool) : (setPoison s n b).vault = s.vault := rfl
@[simp] theorem setPoison_eyes (s : State) (n : Nat) (b : Bool) : (setPoison s n b).eyes = s.eyes := rfl
@[simp] theorem setPoison_sites (s : State) (n : Nat) (b : Bool) : (setPoison s n b).sites = s.sites := rfl
@[simp] theorem setPoison_reg (s : State) (n : Nat) (b : Bool) : (setPoison s n b).reg = s.reg := rfl
@[simp] theorem setPoison_power (s : State) (n : Nat) (b : Bool) : (setPoison s n b).power = s.power := rfl
@[simp] theorem setPoison_clock (s : State) (n : Nat) (b : Bool) : (setPoison s n b).clock = s.clock := rfl
@[simp] theorem setPoison_thermal (s : State) (n : Nat) (b : Bool) : (setPoison s n b).thermal = s.thermal := rfl
@[simp] theorem setPoison_flash (s : State) (n : Nat) (b : Bool) : (setPoison s n b).flash = s.flash := rfl
@[simp] theorem setPoison_agents (s : State) (n : Nat) (b : Bool) : (setPoison s n b).agents = s.agents := rfl
@[simp] theorem setPoison_resil (s : State) (n : Nat) (b : Bool) : (setPoison s n b).resil = s.resil := rfl
@[simp] theorem setPoison_pmu (s : State) (n : Nat) (b : Bool) : (setPoison s n b).pmu = s.pmu := rfl
@[simp] theorem setPoison_pins (s : State) (n : Nat) (b : Bool) : (setPoison s n b).pins = s.pins := rfl
@[simp] theorem setPoison_pending (s : State) (n : Nat) (b : Bool) : (setPoison s n b).pending = s.pending := rfl
@[simp] theorem setPoison_openCtr (s : State) (n : Nat) (b : Bool) : (setPoison s n b).openCtr = s.openCtr := rfl

@[simp] theorem setBytesAt_cores (s : State) (a : Nat) (l : List Byte) : (setBytesAt s a l).cores = s.cores := rfl
@[simp] theorem setBytesAt_mem (s : State) (a : Nat) (l : List Byte) : (setBytesAt s a l).mem = memWrite s.mem a l := rfl
@[simp] theorem setBytesAt_full (s : State) (a : Nat) (l : List Byte) : (setBytesAt s a l).full = s.full := rfl
@[simp] theorem setBytesAt_poison (s : State) (a : Nat) (l : List Byte) : (setBytesAt s a l).poison = s.poison := rfl
@[simp] theorem setBytesAt_lacing (s : State) (a : Nat) (l : List Byte) : (setBytesAt s a l).lacing = s.lacing := rfl
@[simp] theorem setBytesAt_tiers (s : State) (a : Nat) (l : List Byte) : (setBytesAt s a l).tiers = s.tiers := rfl
@[simp] theorem setBytesAt_pcie (s : State) (a : Nat) (l : List Byte) : (setBytesAt s a l).pcie = s.pcie := rfl
@[simp] theorem setBytesAt_vault (s : State) (a : Nat) (l : List Byte) : (setBytesAt s a l).vault = s.vault := rfl
@[simp] theorem setBytesAt_eyes (s : State) (a : Nat) (l : List Byte) : (setBytesAt s a l).eyes = s.eyes := rfl
@[simp] theorem setBytesAt_sites (s : State) (a : Nat) (l : List Byte) : (setBytesAt s a l).sites = s.sites := rfl
@[simp] theorem setBytesAt_reg (s : State) (a : Nat) (l : List Byte) : (setBytesAt s a l).reg = s.reg := rfl
@[simp] theorem setBytesAt_power (s : State) (a : Nat) (l : List Byte) : (setBytesAt s a l).power = s.power := rfl
@[simp] theorem setBytesAt_clock (s : State) (a : Nat) (l : List Byte) : (setBytesAt s a l).clock = s.clock := rfl
@[simp] theorem setBytesAt_thermal (s : State) (a : Nat) (l : List Byte) : (setBytesAt s a l).thermal = s.thermal := rfl
@[simp] theorem setBytesAt_flash (s : State) (a : Nat) (l : List Byte) : (setBytesAt s a l).flash = s.flash := rfl
@[simp] theorem setBytesAt_agents (s : State) (a : Nat) (l : List Byte) : (setBytesAt s a l).agents = s.agents := rfl
@[simp] theorem setBytesAt_resil (s : State) (a : Nat) (l : List Byte) : (setBytesAt s a l).resil = s.resil := rfl
@[simp] theorem setBytesAt_pmu (s : State) (a : Nat) (l : List Byte) : (setBytesAt s a l).pmu = s.pmu := rfl
@[simp] theorem setBytesAt_pins (s : State) (a : Nat) (l : List Byte) : (setBytesAt s a l).pins = s.pins := rfl
@[simp] theorem setBytesAt_pending (s : State) (a : Nat) (l : List Byte) : (setBytesAt s a l).pending = s.pending := rfl
@[simp] theorem setBytesAt_openCtr (s : State) (a : Nat) (l : List Byte) : (setBytesAt s a l).openCtr = s.openCtr := rfl

@[simp] theorem modEyes_cores (s : State) (f : Eyes → Eyes) : (modEyes s f).cores = s.cores := rfl
@[simp] theorem modEyes_mem (s : State) (f : Eyes → Eyes) : (modEyes s f).mem = s.mem := rfl
@[simp] theorem modEyes_full (s : State) (f : Eyes → Eyes) : (modEyes s f).full = s.full := rfl
@[simp] theorem modEyes_poison (s : State) (f : Eyes → Eyes) : (modEyes s f).poison = s.poison := rfl
@[simp] theorem modEyes_lacing (s : State) (f : Eyes → Eyes) : (modEyes s f).lacing = s.lacing := rfl
@[simp] theorem modEyes_tiers (s : State) (f : Eyes → Eyes) : (modEyes s f).tiers = s.tiers := rfl
@[simp] theorem modEyes_pcie (s : State) (f : Eyes → Eyes) : (modEyes s f).pcie = s.pcie := rfl
@[simp] theorem modEyes_vault (s : State) (f : Eyes → Eyes) : (modEyes s f).vault = s.vault := rfl
@[simp] theorem modEyes_eyes (s : State) (f : Eyes → Eyes) : (modEyes s f).eyes = f s.eyes := rfl
@[simp] theorem modEyes_sites (s : State) (f : Eyes → Eyes) : (modEyes s f).sites = s.sites := rfl
@[simp] theorem modEyes_reg (s : State) (f : Eyes → Eyes) : (modEyes s f).reg = s.reg := rfl
@[simp] theorem modEyes_power (s : State) (f : Eyes → Eyes) : (modEyes s f).power = s.power := rfl
@[simp] theorem modEyes_clock (s : State) (f : Eyes → Eyes) : (modEyes s f).clock = s.clock := rfl
@[simp] theorem modEyes_thermal (s : State) (f : Eyes → Eyes) : (modEyes s f).thermal = s.thermal := rfl
@[simp] theorem modEyes_flash (s : State) (f : Eyes → Eyes) : (modEyes s f).flash = s.flash := rfl
@[simp] theorem modEyes_agents (s : State) (f : Eyes → Eyes) : (modEyes s f).agents = s.agents := rfl
@[simp] theorem modEyes_resil (s : State) (f : Eyes → Eyes) : (modEyes s f).resil = s.resil := rfl
@[simp] theorem modEyes_pmu (s : State) (f : Eyes → Eyes) : (modEyes s f).pmu = s.pmu := rfl
@[simp] theorem modEyes_pins (s : State) (f : Eyes → Eyes) : (modEyes s f).pins = s.pins := rfl
@[simp] theorem modEyes_pending (s : State) (f : Eyes → Eyes) : (modEyes s f).pending = s.pending := rfl
@[simp] theorem modEyes_openCtr (s : State) (f : Eyes → Eyes) : (modEyes s f).openCtr = s.openCtr := rfl

@[simp] theorem modPcie_cores (s : State) (f : Pcie → Pcie) : (modPcie s f).cores = s.cores := rfl
@[simp] theorem modPcie_mem (s : State) (f : Pcie → Pcie) : (modPcie s f).mem = s.mem := rfl
@[simp] theorem modPcie_full (s : State) (f : Pcie → Pcie) : (modPcie s f).full = s.full := rfl
@[simp] theorem modPcie_poison (s : State) (f : Pcie → Pcie) : (modPcie s f).poison = s.poison := rfl
@[simp] theorem modPcie_lacing (s : State) (f : Pcie → Pcie) : (modPcie s f).lacing = s.lacing := rfl
@[simp] theorem modPcie_tiers (s : State) (f : Pcie → Pcie) : (modPcie s f).tiers = s.tiers := rfl
@[simp] theorem modPcie_pcie (s : State) (f : Pcie → Pcie) : (modPcie s f).pcie = f s.pcie := rfl
@[simp] theorem modPcie_vault (s : State) (f : Pcie → Pcie) : (modPcie s f).vault = s.vault := rfl
@[simp] theorem modPcie_eyes (s : State) (f : Pcie → Pcie) : (modPcie s f).eyes = s.eyes := rfl
@[simp] theorem modPcie_sites (s : State) (f : Pcie → Pcie) : (modPcie s f).sites = s.sites := rfl
@[simp] theorem modPcie_reg (s : State) (f : Pcie → Pcie) : (modPcie s f).reg = s.reg := rfl
@[simp] theorem modPcie_power (s : State) (f : Pcie → Pcie) : (modPcie s f).power = s.power := rfl
@[simp] theorem modPcie_clock (s : State) (f : Pcie → Pcie) : (modPcie s f).clock = s.clock := rfl
@[simp] theorem modPcie_thermal (s : State) (f : Pcie → Pcie) : (modPcie s f).thermal = s.thermal := rfl
@[simp] theorem modPcie_flash (s : State) (f : Pcie → Pcie) : (modPcie s f).flash = s.flash := rfl
@[simp] theorem modPcie_agents (s : State) (f : Pcie → Pcie) : (modPcie s f).agents = s.agents := rfl
@[simp] theorem modPcie_resil (s : State) (f : Pcie → Pcie) : (modPcie s f).resil = s.resil := rfl
@[simp] theorem modPcie_pmu (s : State) (f : Pcie → Pcie) : (modPcie s f).pmu = s.pmu := rfl
@[simp] theorem modPcie_pins (s : State) (f : Pcie → Pcie) : (modPcie s f).pins = s.pins := rfl
@[simp] theorem modPcie_pending (s : State) (f : Pcie → Pcie) : (modPcie s f).pending = s.pending := rfl
@[simp] theorem modPcie_openCtr (s : State) (f : Pcie → Pcie) : (modPcie s f).openCtr = s.openCtr := rfl

@[simp] theorem modVault_cores (s : State) (f : Vault → Vault) : (modVault s f).cores = s.cores := rfl
@[simp] theorem modVault_mem (s : State) (f : Vault → Vault) : (modVault s f).mem = s.mem := rfl
@[simp] theorem modVault_full (s : State) (f : Vault → Vault) : (modVault s f).full = s.full := rfl
@[simp] theorem modVault_poison (s : State) (f : Vault → Vault) : (modVault s f).poison = s.poison := rfl
@[simp] theorem modVault_lacing (s : State) (f : Vault → Vault) : (modVault s f).lacing = s.lacing := rfl
@[simp] theorem modVault_tiers (s : State) (f : Vault → Vault) : (modVault s f).tiers = s.tiers := rfl
@[simp] theorem modVault_pcie (s : State) (f : Vault → Vault) : (modVault s f).pcie = s.pcie := rfl
@[simp] theorem modVault_vault (s : State) (f : Vault → Vault) : (modVault s f).vault = f s.vault := rfl
@[simp] theorem modVault_eyes (s : State) (f : Vault → Vault) : (modVault s f).eyes = s.eyes := rfl
@[simp] theorem modVault_sites (s : State) (f : Vault → Vault) : (modVault s f).sites = s.sites := rfl
@[simp] theorem modVault_reg (s : State) (f : Vault → Vault) : (modVault s f).reg = s.reg := rfl
@[simp] theorem modVault_power (s : State) (f : Vault → Vault) : (modVault s f).power = s.power := rfl
@[simp] theorem modVault_clock (s : State) (f : Vault → Vault) : (modVault s f).clock = s.clock := rfl
@[simp] theorem modVault_thermal (s : State) (f : Vault → Vault) : (modVault s f).thermal = s.thermal := rfl
@[simp] theorem modVault_flash (s : State) (f : Vault → Vault) : (modVault s f).flash = s.flash := rfl
@[simp] theorem modVault_agents (s : State) (f : Vault → Vault) : (modVault s f).agents = s.agents := rfl
@[simp] theorem modVault_resil (s : State) (f : Vault → Vault) : (modVault s f).resil = s.resil := rfl
@[simp] theorem modVault_pmu (s : State) (f : Vault → Vault) : (modVault s f).pmu = s.pmu := rfl
@[simp] theorem modVault_pins (s : State) (f : Vault → Vault) : (modVault s f).pins = s.pins := rfl
@[simp] theorem modVault_pending (s : State) (f : Vault → Vault) : (modVault s f).pending = s.pending := rfl
@[simp] theorem modVault_openCtr (s : State) (f : Vault → Vault) : (modVault s f).openCtr = s.openCtr := rfl

@[simp] theorem modLacing_cores (s : State) (f : Lacing → Lacing) : (modLacing s f).cores = s.cores := rfl
@[simp] theorem modLacing_mem (s : State) (f : Lacing → Lacing) : (modLacing s f).mem = s.mem := rfl
@[simp] theorem modLacing_full (s : State) (f : Lacing → Lacing) : (modLacing s f).full = s.full := rfl
@[simp] theorem modLacing_poison (s : State) (f : Lacing → Lacing) : (modLacing s f).poison = s.poison := rfl
@[simp] theorem modLacing_lacing (s : State) (f : Lacing → Lacing) : (modLacing s f).lacing = f s.lacing := rfl
@[simp] theorem modLacing_tiers (s : State) (f : Lacing → Lacing) : (modLacing s f).tiers = s.tiers := rfl
@[simp] theorem modLacing_pcie (s : State) (f : Lacing → Lacing) : (modLacing s f).pcie = s.pcie := rfl
@[simp] theorem modLacing_vault (s : State) (f : Lacing → Lacing) : (modLacing s f).vault = s.vault := rfl
@[simp] theorem modLacing_eyes (s : State) (f : Lacing → Lacing) : (modLacing s f).eyes = s.eyes := rfl
@[simp] theorem modLacing_sites (s : State) (f : Lacing → Lacing) : (modLacing s f).sites = s.sites := rfl
@[simp] theorem modLacing_reg (s : State) (f : Lacing → Lacing) : (modLacing s f).reg = s.reg := rfl
@[simp] theorem modLacing_power (s : State) (f : Lacing → Lacing) : (modLacing s f).power = s.power := rfl
@[simp] theorem modLacing_clock (s : State) (f : Lacing → Lacing) : (modLacing s f).clock = s.clock := rfl
@[simp] theorem modLacing_thermal (s : State) (f : Lacing → Lacing) : (modLacing s f).thermal = s.thermal := rfl
@[simp] theorem modLacing_flash (s : State) (f : Lacing → Lacing) : (modLacing s f).flash = s.flash := rfl
@[simp] theorem modLacing_agents (s : State) (f : Lacing → Lacing) : (modLacing s f).agents = s.agents := rfl
@[simp] theorem modLacing_resil (s : State) (f : Lacing → Lacing) : (modLacing s f).resil = s.resil := rfl
@[simp] theorem modLacing_pmu (s : State) (f : Lacing → Lacing) : (modLacing s f).pmu = s.pmu := rfl
@[simp] theorem modLacing_pins (s : State) (f : Lacing → Lacing) : (modLacing s f).pins = s.pins := rfl
@[simp] theorem modLacing_pending (s : State) (f : Lacing → Lacing) : (modLacing s f).pending = s.pending := rfl
@[simp] theorem modLacing_openCtr (s : State) (f : Lacing → Lacing) : (modLacing s f).openCtr = s.openCtr := rfl

@[simp] theorem modTiers_cores (s : State) (f : Tiers → Tiers) : (modTiers s f).cores = s.cores := rfl
@[simp] theorem modTiers_mem (s : State) (f : Tiers → Tiers) : (modTiers s f).mem = s.mem := rfl
@[simp] theorem modTiers_full (s : State) (f : Tiers → Tiers) : (modTiers s f).full = s.full := rfl
@[simp] theorem modTiers_poison (s : State) (f : Tiers → Tiers) : (modTiers s f).poison = s.poison := rfl
@[simp] theorem modTiers_lacing (s : State) (f : Tiers → Tiers) : (modTiers s f).lacing = s.lacing := rfl
@[simp] theorem modTiers_tiers (s : State) (f : Tiers → Tiers) : (modTiers s f).tiers = f s.tiers := rfl
@[simp] theorem modTiers_pcie (s : State) (f : Tiers → Tiers) : (modTiers s f).pcie = s.pcie := rfl
@[simp] theorem modTiers_vault (s : State) (f : Tiers → Tiers) : (modTiers s f).vault = s.vault := rfl
@[simp] theorem modTiers_eyes (s : State) (f : Tiers → Tiers) : (modTiers s f).eyes = s.eyes := rfl
@[simp] theorem modTiers_sites (s : State) (f : Tiers → Tiers) : (modTiers s f).sites = s.sites := rfl
@[simp] theorem modTiers_reg (s : State) (f : Tiers → Tiers) : (modTiers s f).reg = s.reg := rfl
@[simp] theorem modTiers_power (s : State) (f : Tiers → Tiers) : (modTiers s f).power = s.power := rfl
@[simp] theorem modTiers_clock (s : State) (f : Tiers → Tiers) : (modTiers s f).clock = s.clock := rfl
@[simp] theorem modTiers_thermal (s : State) (f : Tiers → Tiers) : (modTiers s f).thermal = s.thermal := rfl
@[simp] theorem modTiers_flash (s : State) (f : Tiers → Tiers) : (modTiers s f).flash = s.flash := rfl
@[simp] theorem modTiers_agents (s : State) (f : Tiers → Tiers) : (modTiers s f).agents = s.agents := rfl
@[simp] theorem modTiers_resil (s : State) (f : Tiers → Tiers) : (modTiers s f).resil = s.resil := rfl
@[simp] theorem modTiers_pmu (s : State) (f : Tiers → Tiers) : (modTiers s f).pmu = s.pmu := rfl
@[simp] theorem modTiers_pins (s : State) (f : Tiers → Tiers) : (modTiers s f).pins = s.pins := rfl
@[simp] theorem modTiers_pending (s : State) (f : Tiers → Tiers) : (modTiers s f).pending = s.pending := rfl
@[simp] theorem modTiers_openCtr (s : State) (f : Tiers → Tiers) : (modTiers s f).openCtr = s.openCtr := rfl

@[simp] theorem modSite_cores (s : State) (u : Fin 16) (f : Site → Site) : (modSite s u f).cores = s.cores := rfl
@[simp] theorem modSite_mem (s : State) (u : Fin 16) (f : Site → Site) : (modSite s u f).mem = s.mem := rfl
@[simp] theorem modSite_full (s : State) (u : Fin 16) (f : Site → Site) : (modSite s u f).full = s.full := rfl
@[simp] theorem modSite_poison (s : State) (u : Fin 16) (f : Site → Site) : (modSite s u f).poison = s.poison := rfl
@[simp] theorem modSite_lacing (s : State) (u : Fin 16) (f : Site → Site) : (modSite s u f).lacing = s.lacing := rfl
@[simp] theorem modSite_tiers (s : State) (u : Fin 16) (f : Site → Site) : (modSite s u f).tiers = s.tiers := rfl
@[simp] theorem modSite_pcie (s : State) (u : Fin 16) (f : Site → Site) : (modSite s u f).pcie = s.pcie := rfl
@[simp] theorem modSite_vault (s : State) (u : Fin 16) (f : Site → Site) : (modSite s u f).vault = s.vault := rfl
@[simp] theorem modSite_eyes (s : State) (u : Fin 16) (f : Site → Site) : (modSite s u f).eyes = s.eyes := rfl
@[simp] theorem modSite_sites (s : State) (u : Fin 16) (f : Site → Site) : (modSite s u f).sites = vmod s.sites u f := rfl
@[simp] theorem modSite_reg (s : State) (u : Fin 16) (f : Site → Site) : (modSite s u f).reg = s.reg := rfl
@[simp] theorem modSite_power (s : State) (u : Fin 16) (f : Site → Site) : (modSite s u f).power = s.power := rfl
@[simp] theorem modSite_clock (s : State) (u : Fin 16) (f : Site → Site) : (modSite s u f).clock = s.clock := rfl
@[simp] theorem modSite_thermal (s : State) (u : Fin 16) (f : Site → Site) : (modSite s u f).thermal = s.thermal := rfl
@[simp] theorem modSite_flash (s : State) (u : Fin 16) (f : Site → Site) : (modSite s u f).flash = s.flash := rfl
@[simp] theorem modSite_agents (s : State) (u : Fin 16) (f : Site → Site) : (modSite s u f).agents = s.agents := rfl
@[simp] theorem modSite_resil (s : State) (u : Fin 16) (f : Site → Site) : (modSite s u f).resil = s.resil := rfl
@[simp] theorem modSite_pmu (s : State) (u : Fin 16) (f : Site → Site) : (modSite s u f).pmu = s.pmu := rfl
@[simp] theorem modSite_pins (s : State) (u : Fin 16) (f : Site → Site) : (modSite s u f).pins = s.pins := rfl
@[simp] theorem modSite_pending (s : State) (u : Fin 16) (f : Site → Site) : (modSite s u f).pending = s.pending := rfl
@[simp] theorem modSite_openCtr (s : State) (u : Fin 16) (f : Site → Site) : (modSite s u f).openCtr = s.openCtr := rfl

@[simp] theorem modPower_cores (s : State) (f : Power → Power) : (modPower s f).cores = s.cores := rfl
@[simp] theorem modPower_mem (s : State) (f : Power → Power) : (modPower s f).mem = s.mem := rfl
@[simp] theorem modPower_full (s : State) (f : Power → Power) : (modPower s f).full = s.full := rfl
@[simp] theorem modPower_poison (s : State) (f : Power → Power) : (modPower s f).poison = s.poison := rfl
@[simp] theorem modPower_lacing (s : State) (f : Power → Power) : (modPower s f).lacing = s.lacing := rfl
@[simp] theorem modPower_tiers (s : State) (f : Power → Power) : (modPower s f).tiers = s.tiers := rfl
@[simp] theorem modPower_pcie (s : State) (f : Power → Power) : (modPower s f).pcie = s.pcie := rfl
@[simp] theorem modPower_vault (s : State) (f : Power → Power) : (modPower s f).vault = s.vault := rfl
@[simp] theorem modPower_eyes (s : State) (f : Power → Power) : (modPower s f).eyes = s.eyes := rfl
@[simp] theorem modPower_sites (s : State) (f : Power → Power) : (modPower s f).sites = s.sites := rfl
@[simp] theorem modPower_reg (s : State) (f : Power → Power) : (modPower s f).reg = s.reg := rfl
@[simp] theorem modPower_power (s : State) (f : Power → Power) : (modPower s f).power = f s.power := rfl
@[simp] theorem modPower_clock (s : State) (f : Power → Power) : (modPower s f).clock = s.clock := rfl
@[simp] theorem modPower_thermal (s : State) (f : Power → Power) : (modPower s f).thermal = s.thermal := rfl
@[simp] theorem modPower_flash (s : State) (f : Power → Power) : (modPower s f).flash = s.flash := rfl
@[simp] theorem modPower_agents (s : State) (f : Power → Power) : (modPower s f).agents = s.agents := rfl
@[simp] theorem modPower_resil (s : State) (f : Power → Power) : (modPower s f).resil = s.resil := rfl
@[simp] theorem modPower_pmu (s : State) (f : Power → Power) : (modPower s f).pmu = s.pmu := rfl
@[simp] theorem modPower_pins (s : State) (f : Power → Power) : (modPower s f).pins = s.pins := rfl
@[simp] theorem modPower_pending (s : State) (f : Power → Power) : (modPower s f).pending = s.pending := rfl
@[simp] theorem modPower_openCtr (s : State) (f : Power → Power) : (modPower s f).openCtr = s.openCtr := rfl

@[simp] theorem modFlash_cores (s : State) (f : Flash → Flash) : (modFlash s f).cores = s.cores := rfl
@[simp] theorem modFlash_mem (s : State) (f : Flash → Flash) : (modFlash s f).mem = s.mem := rfl
@[simp] theorem modFlash_full (s : State) (f : Flash → Flash) : (modFlash s f).full = s.full := rfl
@[simp] theorem modFlash_poison (s : State) (f : Flash → Flash) : (modFlash s f).poison = s.poison := rfl
@[simp] theorem modFlash_lacing (s : State) (f : Flash → Flash) : (modFlash s f).lacing = s.lacing := rfl
@[simp] theorem modFlash_tiers (s : State) (f : Flash → Flash) : (modFlash s f).tiers = s.tiers := rfl
@[simp] theorem modFlash_pcie (s : State) (f : Flash → Flash) : (modFlash s f).pcie = s.pcie := rfl
@[simp] theorem modFlash_vault (s : State) (f : Flash → Flash) : (modFlash s f).vault = s.vault := rfl
@[simp] theorem modFlash_eyes (s : State) (f : Flash → Flash) : (modFlash s f).eyes = s.eyes := rfl
@[simp] theorem modFlash_sites (s : State) (f : Flash → Flash) : (modFlash s f).sites = s.sites := rfl
@[simp] theorem modFlash_reg (s : State) (f : Flash → Flash) : (modFlash s f).reg = s.reg := rfl
@[simp] theorem modFlash_power (s : State) (f : Flash → Flash) : (modFlash s f).power = s.power := rfl
@[simp] theorem modFlash_clock (s : State) (f : Flash → Flash) : (modFlash s f).clock = s.clock := rfl
@[simp] theorem modFlash_thermal (s : State) (f : Flash → Flash) : (modFlash s f).thermal = s.thermal := rfl
@[simp] theorem modFlash_flash (s : State) (f : Flash → Flash) : (modFlash s f).flash = f s.flash := rfl
@[simp] theorem modFlash_agents (s : State) (f : Flash → Flash) : (modFlash s f).agents = s.agents := rfl
@[simp] theorem modFlash_resil (s : State) (f : Flash → Flash) : (modFlash s f).resil = s.resil := rfl
@[simp] theorem modFlash_pmu (s : State) (f : Flash → Flash) : (modFlash s f).pmu = s.pmu := rfl
@[simp] theorem modFlash_pins (s : State) (f : Flash → Flash) : (modFlash s f).pins = s.pins := rfl
@[simp] theorem modFlash_pending (s : State) (f : Flash → Flash) : (modFlash s f).pending = s.pending := rfl
@[simp] theorem modFlash_openCtr (s : State) (f : Flash → Flash) : (modFlash s f).openCtr = s.openCtr := rfl

@[simp] theorem modResil_cores (s : State) (f : Resil → Resil) : (modResil s f).cores = s.cores := rfl
@[simp] theorem modResil_mem (s : State) (f : Resil → Resil) : (modResil s f).mem = s.mem := rfl
@[simp] theorem modResil_full (s : State) (f : Resil → Resil) : (modResil s f).full = s.full := rfl
@[simp] theorem modResil_poison (s : State) (f : Resil → Resil) : (modResil s f).poison = s.poison := rfl
@[simp] theorem modResil_lacing (s : State) (f : Resil → Resil) : (modResil s f).lacing = s.lacing := rfl
@[simp] theorem modResil_tiers (s : State) (f : Resil → Resil) : (modResil s f).tiers = s.tiers := rfl
@[simp] theorem modResil_pcie (s : State) (f : Resil → Resil) : (modResil s f).pcie = s.pcie := rfl
@[simp] theorem modResil_vault (s : State) (f : Resil → Resil) : (modResil s f).vault = s.vault := rfl
@[simp] theorem modResil_eyes (s : State) (f : Resil → Resil) : (modResil s f).eyes = s.eyes := rfl
@[simp] theorem modResil_sites (s : State) (f : Resil → Resil) : (modResil s f).sites = s.sites := rfl
@[simp] theorem modResil_reg (s : State) (f : Resil → Resil) : (modResil s f).reg = s.reg := rfl
@[simp] theorem modResil_power (s : State) (f : Resil → Resil) : (modResil s f).power = s.power := rfl
@[simp] theorem modResil_clock (s : State) (f : Resil → Resil) : (modResil s f).clock = s.clock := rfl
@[simp] theorem modResil_thermal (s : State) (f : Resil → Resil) : (modResil s f).thermal = s.thermal := rfl
@[simp] theorem modResil_flash (s : State) (f : Resil → Resil) : (modResil s f).flash = s.flash := rfl
@[simp] theorem modResil_agents (s : State) (f : Resil → Resil) : (modResil s f).agents = s.agents := rfl
@[simp] theorem modResil_resil (s : State) (f : Resil → Resil) : (modResil s f).resil = f s.resil := rfl
@[simp] theorem modResil_pmu (s : State) (f : Resil → Resil) : (modResil s f).pmu = s.pmu := rfl
@[simp] theorem modResil_pins (s : State) (f : Resil → Resil) : (modResil s f).pins = s.pins := rfl
@[simp] theorem modResil_pending (s : State) (f : Resil → Resil) : (modResil s f).pending = s.pending := rfl
@[simp] theorem modResil_openCtr (s : State) (f : Resil → Resil) : (modResil s f).openCtr = s.openCtr := rfl

@[simp] theorem modPmu_cores (s : State) (f : Pmu → Pmu) : (modPmu s f).cores = s.cores := rfl
@[simp] theorem modPmu_mem (s : State) (f : Pmu → Pmu) : (modPmu s f).mem = s.mem := rfl
@[simp] theorem modPmu_full (s : State) (f : Pmu → Pmu) : (modPmu s f).full = s.full := rfl
@[simp] theorem modPmu_poison (s : State) (f : Pmu → Pmu) : (modPmu s f).poison = s.poison := rfl
@[simp] theorem modPmu_lacing (s : State) (f : Pmu → Pmu) : (modPmu s f).lacing = s.lacing := rfl
@[simp] theorem modPmu_tiers (s : State) (f : Pmu → Pmu) : (modPmu s f).tiers = s.tiers := rfl
@[simp] theorem modPmu_pcie (s : State) (f : Pmu → Pmu) : (modPmu s f).pcie = s.pcie := rfl
@[simp] theorem modPmu_vault (s : State) (f : Pmu → Pmu) : (modPmu s f).vault = s.vault := rfl
@[simp] theorem modPmu_eyes (s : State) (f : Pmu → Pmu) : (modPmu s f).eyes = s.eyes := rfl
@[simp] theorem modPmu_sites (s : State) (f : Pmu → Pmu) : (modPmu s f).sites = s.sites := rfl
@[simp] theorem modPmu_reg (s : State) (f : Pmu → Pmu) : (modPmu s f).reg = s.reg := rfl
@[simp] theorem modPmu_power (s : State) (f : Pmu → Pmu) : (modPmu s f).power = s.power := rfl
@[simp] theorem modPmu_clock (s : State) (f : Pmu → Pmu) : (modPmu s f).clock = s.clock := rfl
@[simp] theorem modPmu_thermal (s : State) (f : Pmu → Pmu) : (modPmu s f).thermal = s.thermal := rfl
@[simp] theorem modPmu_flash (s : State) (f : Pmu → Pmu) : (modPmu s f).flash = s.flash := rfl
@[simp] theorem modPmu_agents (s : State) (f : Pmu → Pmu) : (modPmu s f).agents = s.agents := rfl
@[simp] theorem modPmu_resil (s : State) (f : Pmu → Pmu) : (modPmu s f).resil = s.resil := rfl
@[simp] theorem modPmu_pmu (s : State) (f : Pmu → Pmu) : (modPmu s f).pmu = f s.pmu := rfl
@[simp] theorem modPmu_pins (s : State) (f : Pmu → Pmu) : (modPmu s f).pins = s.pins := rfl
@[simp] theorem modPmu_pending (s : State) (f : Pmu → Pmu) : (modPmu s f).pending = s.pending := rfl
@[simp] theorem modPmu_openCtr (s : State) (f : Pmu → Pmu) : (modPmu s f).openCtr = s.openCtr := rfl

@[simp] theorem modAgent_cores (s : State) (i : Fin 440) (f : Agent → Agent) : (modAgent s i f).cores = s.cores := rfl
@[simp] theorem modAgent_mem (s : State) (i : Fin 440) (f : Agent → Agent) : (modAgent s i f).mem = s.mem := rfl
@[simp] theorem modAgent_full (s : State) (i : Fin 440) (f : Agent → Agent) : (modAgent s i f).full = s.full := rfl
@[simp] theorem modAgent_poison (s : State) (i : Fin 440) (f : Agent → Agent) : (modAgent s i f).poison = s.poison := rfl
@[simp] theorem modAgent_lacing (s : State) (i : Fin 440) (f : Agent → Agent) : (modAgent s i f).lacing = s.lacing := rfl
@[simp] theorem modAgent_tiers (s : State) (i : Fin 440) (f : Agent → Agent) : (modAgent s i f).tiers = s.tiers := rfl
@[simp] theorem modAgent_pcie (s : State) (i : Fin 440) (f : Agent → Agent) : (modAgent s i f).pcie = s.pcie := rfl
@[simp] theorem modAgent_vault (s : State) (i : Fin 440) (f : Agent → Agent) : (modAgent s i f).vault = s.vault := rfl
@[simp] theorem modAgent_eyes (s : State) (i : Fin 440) (f : Agent → Agent) : (modAgent s i f).eyes = s.eyes := rfl
@[simp] theorem modAgent_sites (s : State) (i : Fin 440) (f : Agent → Agent) : (modAgent s i f).sites = s.sites := rfl
@[simp] theorem modAgent_reg (s : State) (i : Fin 440) (f : Agent → Agent) : (modAgent s i f).reg = s.reg := rfl
@[simp] theorem modAgent_power (s : State) (i : Fin 440) (f : Agent → Agent) : (modAgent s i f).power = s.power := rfl
@[simp] theorem modAgent_clock (s : State) (i : Fin 440) (f : Agent → Agent) : (modAgent s i f).clock = s.clock := rfl
@[simp] theorem modAgent_thermal (s : State) (i : Fin 440) (f : Agent → Agent) : (modAgent s i f).thermal = s.thermal := rfl
@[simp] theorem modAgent_flash (s : State) (i : Fin 440) (f : Agent → Agent) : (modAgent s i f).flash = s.flash := rfl
@[simp] theorem modAgent_agents (s : State) (i : Fin 440) (f : Agent → Agent) : (modAgent s i f).agents = vmod s.agents i f := rfl
@[simp] theorem modAgent_resil (s : State) (i : Fin 440) (f : Agent → Agent) : (modAgent s i f).resil = s.resil := rfl
@[simp] theorem modAgent_pmu (s : State) (i : Fin 440) (f : Agent → Agent) : (modAgent s i f).pmu = s.pmu := rfl
@[simp] theorem modAgent_pins (s : State) (i : Fin 440) (f : Agent → Agent) : (modAgent s i f).pins = s.pins := rfl
@[simp] theorem modAgent_pending (s : State) (i : Fin 440) (f : Agent → Agent) : (modAgent s i f).pending = s.pending := rfl
@[simp] theorem modAgent_openCtr (s : State) (i : Fin 440) (f : Agent → Agent) : (modAgent s i f).openCtr = s.openCtr := rfl

/-- Element i after element i was replaced. -/
@[simp] theorem vget_vset_same {α : Type} {n : Nat} (v : Vector α n) (i : Fin n) (x : α) : vget (vset v i x) i = x := by
  simp [vget, vset]

/-- Element j after another element was replaced. -/
theorem vget_vset_other {α : Type} {n : Nat} (v : Vector α n) {i j : Fin n} (x : α) (h : i ≠ j) :
    vget (vset v i x) j = vget v j := by
  have h' : i.val ≠ j.val := fun e => h (Fin.ext e)
  simp [vget, vset, h']

/-- Element i after it was changed by f. -/
@[simp] theorem vget_vmod_same {α : Type} {n : Nat} (v : Vector α n) (i : Fin n) (f : α → α) :
    vget (vmod v i f) i = f (vget v i) := by
  simp [vmod]

/-- Element j after another element was changed. -/
theorem vget_vmod_other {α : Type} {n : Nat} (v : Vector α n) {i j : Fin n} (f : α → α) (h : i ≠ j) :
    vget (vmod v i f) j = vget v j := vget_vset_other v _ h

/-- Core c after it was changed. -/
@[simp] theorem getCore_modCore_same (s : State) (c : CoreId) (f : CoreState → CoreState) :
    getCore (modCore s c f) c = f (getCore s c) := by
  simp [getCore]

/-- Core d after another core was changed. -/
theorem getCore_modCore_other (s : State) {c d : CoreId} (f : CoreState → CoreState) (h : c ≠ d) :
    getCore (modCore s c f) d = getCore s d := vget_vmod_other s.cores f h

/-- Sequencer q after it was changed. -/
@[simp] theorem getSeq_modSeq_same (s : State) (c : CoreId) (q : SeqId) (f : SeqState → SeqState) :
    getSeq (modSeq s c q f) c q = f (getSeq s c q) := by
  simp [getSeq, modSeq]

/-- Sequencer p after another sequencer of its core was changed. -/
theorem getSeq_modSeq_other (s : State) (c : CoreId) {q p : SeqId} (f : SeqState → SeqState) (h : q ≠ p) :
    getSeq (modSeq s c q f) c p = getSeq s c p := by
  simp [getSeq, modSeq, vget_vmod_other _ _ h]

/-- Mailbox k after it was changed. -/
@[simp] theorem getMb_modMb_same (s : State) (k : Fin 16) (f : Mailbox → Mailbox) :
    getMb (modMb s k f) k = f (getMb s k) := by
  simp [getMb]

/-- Mailbox j after another mailbox was changed. -/
theorem getMb_modMb_other (s : State) {k j : Fin 16} (f : Mailbox → Mailbox) (h : k ≠ j) :
    getMb (modMb s k f) j = getMb s j := vget_vmod_other _ f h

end Sys2Proof.Machine
end

