-- ==== Sys2Proof/Laws/Compose.lean ====
section
/-!
SUPPORT. Updates of one part that follow each other are one update: for an element of a vector, a core, a sequencer, a Last, a
mailbox and the Registrar.
-/
namespace Sys2Proof.Machine

theorem vset_vset {α : Type} {n : Nat} (v : Vector α n) (i : Fin n) (x y : α) : vset (vset v i x) i y = vset v i y := by
  apply Vector.ext
  intro j hj
  by_cases e : i.val = j <;> simp [vset, e]

theorem vmod_vmod {α : Type} {n : Nat} (v : Vector α n) (i : Fin n) (f g : α → α) :
    vmod (vmod v i f) i g = vmod v i fun x => g (f x) := by
  simp [vmod, vset_vset]

theorem vmod_id {α : Type} {n : Nat} (v : Vector α n) (i : Fin n) : vmod v i (fun x => x) = v := by
  apply Vector.ext
  intro j hj
  by_cases e : i.val = j
  · subst e
    simp [vmod, vset, vget]
  · simp [vmod, vset, e]

theorem vmod_congr {α : Type} {n : Nat} (v : Vector α n) (i : Fin n) {f g : α → α} (h : f (vget v i) = g (vget v i)) :
    vmod v i f = vmod v i g := by
  simp [vmod, h]

theorem modCore_modCore (s : State) (c : CoreId) (f g : CoreState → CoreState) :
    modCore (modCore s c f) c g = modCore s c fun k => g (f k) := by
  simp [modCore, vmod_vmod]

theorem modCore_id (s : State) (c : CoreId) : modCore s c (fun k => k) = s := by
  simp [modCore, vmod_id]

theorem modCore_congr (s : State) (c : CoreId) {f g : CoreState → CoreState} (h : f (getCore s c) = g (getCore s c)) :
    modCore s c f = modCore s c g := by
  simp only [modCore]
  rw [vmod_congr s.cores c h]

theorem modSeq_modSeq (s : State) (c : CoreId) (q : SeqId) (f g : SeqState → SeqState) :
    modSeq (modSeq s c q f) c q g = modSeq s c q fun x => g (f x) := by
  simp [modSeq, modCore_modCore, vmod_vmod]

theorem modSeq_id (s : State) (c : CoreId) (q : SeqId) : modSeq s c q (fun x => x) = s := by
  simp only [modSeq, vmod_id]
  exact modCore_id s c

theorem modSeq_congr (s : State) (c : CoreId) (q : SeqId) {f g : SeqState → SeqState} (h : f (getSeq s c q) = g (getSeq s c q)) :
    modSeq s c q f = modSeq s c q g := by
  apply modCore_congr
  rw [vmod_congr (getCore s c).seqs q h]

theorem modReg_modReg (s : State) (f g : Registrar → Registrar) : modReg (modReg s f) g = modReg s fun r => g (f r) := rfl

/-- A sequencer after a change of its core that leaves the sequencers. -/
theorem getSeq_modCore (s : State) (c : CoreId) (q : SeqId) (f : CoreState → CoreState)
    (h : (f (getCore s c)).seqs = (getCore s c).seqs) : getSeq (modCore s c f) c q = getSeq s c q := by
  simp [getSeq, h]

/-- A Last after a change of a sequencer. -/
theorem getLast_modSeq (s : State) (c : CoreId) (l : Fin 4) (q : SeqId) (f : SeqState → SeqState) :
    getLast (modSeq s c q f) c l = getLast s c l := by simp [getLast, modSeq]

/-- A Last after its own change. -/
theorem getLast_modLast_same (s : State) (c : CoreId) (l : Fin 4) (f : LastState → LastState) :
    getLast (modLast s c l f) c l = f (getLast s c l) := by simp [getLast, modLast]

/-- A Last after a change of another. -/
theorem getLast_modLast_other (s : State) (c : CoreId) {l m : Fin 4} (f : LastState → LastState) (h : l ≠ m) :
    getLast (modLast s c l f) c m = getLast s c m := by simp [getLast, modLast, vget_vmod_other, h]

theorem modLast_congr (s : State) (c : CoreId) (l : Fin 4) {f g : LastState → LastState}
    (h : f (getLast s c l) = g (getLast s c l)) : modLast s c l f = modLast s c l g := by
  apply modCore_congr
  rw [vmod_congr (getCore s c).lasts l h]

theorem modLast_modLast (s : State) (c : CoreId) (l : Fin 4) (f g : LastState → LastState) :
    modLast (modLast s c l f) c l g = modLast s c l fun x => g (f x) := by
  simp [modLast, modCore_modCore, vmod_vmod]

end Sys2Proof.Machine
end

