-- ==== Sys2Proof/Laws/Records.lean ====
section
/-!
SUPPORT. What MSI-X messages, error records and the kill of a job leave: one lemma per operation and field.
-/
namespace Sys2Proof.Machine

@[simp] theorem raiseVec_cores (s : State) (fn : Fin 9) (v : Nat) : (raiseVec s fn v).cores = s.cores := by
  unfold raiseVec
  dsimp only
  split
  · rfl
  · split
    · rfl
    · split <;> rfl
@[simp] theorem raiseVec_mem (s : State) (fn : Fin 9) (v : Nat) : (raiseVec s fn v).mem = s.mem := by
  unfold raiseVec
  dsimp only
  split
  · rfl
  · split
    · rfl
    · split <;> rfl
@[simp] theorem raiseVec_full (s : State) (fn : Fin 9) (v : Nat) : (raiseVec s fn v).full = s.full := by
  unfold raiseVec
  dsimp only
  split
  · rfl
  · split
    · rfl
    · split <;> rfl
@[simp] theorem raiseVec_poison (s : State) (fn : Fin 9) (v : Nat) : (raiseVec s fn v).poison = s.poison := by
  unfold raiseVec
  dsimp only
  split
  · rfl
  · split
    · rfl
    · split <;> rfl
@[simp] theorem raiseVec_lacing (s : State) (fn : Fin 9) (v : Nat) : (raiseVec s fn v).lacing = s.lacing := by
  unfold raiseVec
  dsimp only
  split
  · rfl
  · split
    · rfl
    · split <;> rfl
@[simp] theorem raiseVec_tiers (s : State) (fn : Fin 9) (v : Nat) : (raiseVec s fn v).tiers = s.tiers := by
  unfold raiseVec
  dsimp only
  split
  · rfl
  · split
    · rfl
    · split <;> rfl
@[simp] theorem raiseVec_vault (s : State) (fn : Fin 9) (v : Nat) : (raiseVec s fn v).vault = s.vault := by
  unfold raiseVec
  dsimp only
  split
  · rfl
  · split
    · rfl
    · split <;> rfl
@[simp] theorem raiseVec_eyes (s : State) (fn : Fin 9) (v : Nat) : (raiseVec s fn v).eyes = s.eyes := by
  unfold raiseVec
  dsimp only
  split
  · rfl
  · split
    · rfl
    · split <;> rfl
@[simp] theorem raiseVec_sites (s : State) (fn : Fin 9) (v : Nat) : (raiseVec s fn v).sites = s.sites := by
  unfold raiseVec
  dsimp only
  split
  · rfl
  · split
    · rfl
    · split <;> rfl
@[simp] theorem raiseVec_reg (s : State) (fn : Fin 9) (v : Nat) : (raiseVec s fn v).reg = s.reg := by
  unfold raiseVec
  dsimp only
  split
  · rfl
  · split
    · rfl
    · split <;> rfl
@[simp] theorem raiseVec_power (s : State) (fn : Fin 9) (v : Nat) : (raiseVec s fn v).power = s.power := by
  unfold raiseVec
  dsimp only
  split
  · rfl
  · split
    · rfl
    · split <;> rfl
@[simp] theorem raiseVec_clock (s : State) (fn : Fin 9) (v : Nat) : (raiseVec s fn v).clock = s.clock := by
  unfold raiseVec
  dsimp only
  split
  · rfl
  · split
    · rfl
    · split <;> rfl
@[simp] theorem raiseVec_thermal (s : State) (fn : Fin 9) (v : Nat) : (raiseVec s fn v).thermal = s.thermal := by
  unfold raiseVec
  dsimp only
  split
  · rfl
  · split
    · rfl
    · split <;> rfl
@[simp] theorem raiseVec_flash (s : State) (fn : Fin 9) (v : Nat) : (raiseVec s fn v).flash = s.flash := by
  unfold raiseVec
  dsimp only
  split
  · rfl
  · split
    · rfl
    · split <;> rfl
@[simp] theorem raiseVec_agents (s : State) (fn : Fin 9) (v : Nat) : (raiseVec s fn v).agents = s.agents := by
  unfold raiseVec
  dsimp only
  split
  · rfl
  · split
    · rfl
    · split <;> rfl
@[simp] theorem raiseVec_resil (s : State) (fn : Fin 9) (v : Nat) : (raiseVec s fn v).resil = s.resil := by
  unfold raiseVec
  dsimp only
  split
  · rfl
  · split
    · rfl
    · split <;> rfl
@[simp] theorem raiseVec_pmu (s : State) (fn : Fin 9) (v : Nat) : (raiseVec s fn v).pmu = s.pmu := by
  unfold raiseVec
  dsimp only
  split
  · rfl
  · split
    · rfl
    · split <;> rfl
@[simp] theorem raiseVec_pins (s : State) (fn : Fin 9) (v : Nat) : (raiseVec s fn v).pins = s.pins := by
  unfold raiseVec
  dsimp only
  split
  · rfl
  · split
    · rfl
    · split <;> rfl
@[simp] theorem raiseVec_pending (s : State) (fn : Fin 9) (v : Nat) : (raiseVec s fn v).pending = s.pending := by
  unfold raiseVec
  dsimp only
  split
  · rfl
  · split
    · rfl
    · split <;> rfl
@[simp] theorem raiseVec_openCtr (s : State) (fn : Fin 9) (v : Nat) : (raiseVec s fn v).openCtr = s.openCtr := by
  unfold raiseVec
  dsimp only
  split
  · rfl
  · split
    · rfl
    · split <;> rfl

@[simp] theorem bumpGen_cores (s : State) : (bumpGen s).cores = s.cores := by
  rfl
@[simp] theorem bumpGen_mem (s : State) : (bumpGen s).mem = s.mem := by
  rfl
@[simp] theorem bumpGen_full (s : State) : (bumpGen s).full = s.full := by
  rfl
@[simp] theorem bumpGen_poison (s : State) : (bumpGen s).poison = s.poison := by
  rfl
@[simp] theorem bumpGen_lacing (s : State) : (bumpGen s).lacing = s.lacing := by
  rfl
@[simp] theorem bumpGen_tiers (s : State) : (bumpGen s).tiers = s.tiers := by
  rfl
@[simp] theorem bumpGen_pcie (s : State) : (bumpGen s).pcie = s.pcie := by
  rfl
@[simp] theorem bumpGen_vault (s : State) : (bumpGen s).vault = s.vault := by
  rfl
@[simp] theorem bumpGen_eyes (s : State) : (bumpGen s).eyes = s.eyes := by
  rfl
@[simp] theorem bumpGen_sites (s : State) : (bumpGen s).sites = s.sites := by
  rfl
@[simp] theorem bumpGen_power (s : State) : (bumpGen s).power = s.power := by
  rfl
@[simp] theorem bumpGen_clock (s : State) : (bumpGen s).clock = s.clock := by
  rfl
@[simp] theorem bumpGen_thermal (s : State) : (bumpGen s).thermal = s.thermal := by
  rfl
@[simp] theorem bumpGen_flash (s : State) : (bumpGen s).flash = s.flash := by
  rfl
@[simp] theorem bumpGen_agents (s : State) : (bumpGen s).agents = s.agents := by
  rfl
@[simp] theorem bumpGen_resil (s : State) : (bumpGen s).resil = s.resil := by
  rfl
@[simp] theorem bumpGen_pmu (s : State) : (bumpGen s).pmu = s.pmu := by
  rfl
@[simp] theorem bumpGen_pins (s : State) : (bumpGen s).pins = s.pins := by
  rfl
@[simp] theorem bumpGen_pending (s : State) : (bumpGen s).pending = s.pending := by
  rfl
@[simp] theorem bumpGen_openCtr (s : State) : (bumpGen s).openCtr = s.openCtr := by
  rfl

@[simp] theorem noted_cores (s : State) : (noted s).cores = s.cores := by
  simp [noted]
@[simp] theorem noted_mem (s : State) : (noted s).mem = s.mem := by
  simp [noted]
@[simp] theorem noted_full (s : State) : (noted s).full = s.full := by
  simp [noted]
@[simp] theorem noted_poison (s : State) : (noted s).poison = s.poison := by
  simp [noted]
@[simp] theorem noted_lacing (s : State) : (noted s).lacing = s.lacing := by
  simp [noted]
@[simp] theorem noted_tiers (s : State) : (noted s).tiers = s.tiers := by
  simp [noted]
@[simp] theorem noted_vault (s : State) : (noted s).vault = s.vault := by
  simp [noted]
@[simp] theorem noted_eyes (s : State) : (noted s).eyes = s.eyes := by
  simp [noted]
@[simp] theorem noted_sites (s : State) : (noted s).sites = s.sites := by
  simp [noted]
@[simp] theorem noted_power (s : State) : (noted s).power = s.power := by
  simp [noted]
@[simp] theorem noted_clock (s : State) : (noted s).clock = s.clock := by
  simp [noted]
@[simp] theorem noted_thermal (s : State) : (noted s).thermal = s.thermal := by
  simp [noted]
@[simp] theorem noted_flash (s : State) : (noted s).flash = s.flash := by
  simp [noted]
@[simp] theorem noted_agents (s : State) : (noted s).agents = s.agents := by
  simp [noted]
@[simp] theorem noted_resil (s : State) : (noted s).resil = s.resil := by
  simp [noted]
@[simp] theorem noted_pmu (s : State) : (noted s).pmu = s.pmu := by
  simp [noted]
@[simp] theorem noted_pins (s : State) : (noted s).pins = s.pins := by
  simp [noted]
@[simp] theorem noted_pending (s : State) : (noted s).pending = s.pending := by
  simp [noted]
@[simp] theorem noted_openCtr (s : State) : (noted s).openCtr = s.openCtr := by
  simp [noted]

@[simp] theorem writeRecord_cores (s : State) (r : ErrRec) : (writeRecord s r).cores = s.cores := by
  unfold writeRecord
  dsimp only
  split
  · split <;> simp
  · simp
@[simp] theorem writeRecord_mem (s : State) (r : ErrRec) : (writeRecord s r).mem = s.mem := by
  unfold writeRecord
  dsimp only
  split
  · split <;> simp
  · simp
@[simp] theorem writeRecord_full (s : State) (r : ErrRec) : (writeRecord s r).full = s.full := by
  unfold writeRecord
  dsimp only
  split
  · split <;> simp
  · simp
@[simp] theorem writeRecord_poison (s : State) (r : ErrRec) : (writeRecord s r).poison = s.poison := by
  unfold writeRecord
  dsimp only
  split
  · split <;> simp
  · simp
@[simp] theorem writeRecord_lacing (s : State) (r : ErrRec) : (writeRecord s r).lacing = s.lacing := by
  unfold writeRecord
  dsimp only
  split
  · split <;> simp
  · simp
@[simp] theorem writeRecord_tiers (s : State) (r : ErrRec) : (writeRecord s r).tiers = s.tiers := by
  unfold writeRecord
  dsimp only
  split
  · split <;> simp
  · simp
@[simp] theorem writeRecord_vault (s : State) (r : ErrRec) : (writeRecord s r).vault = s.vault := by
  unfold writeRecord
  dsimp only
  split
  · split <;> simp
  · simp
@[simp] theorem writeRecord_eyes (s : State) (r : ErrRec) : (writeRecord s r).eyes = s.eyes := by
  unfold writeRecord
  dsimp only
  split
  · split <;> simp
  · simp
@[simp] theorem writeRecord_sites (s : State) (r : ErrRec) : (writeRecord s r).sites = s.sites := by
  unfold writeRecord
  dsimp only
  split
  · split <;> simp
  · simp
@[simp] theorem writeRecord_power (s : State) (r : ErrRec) : (writeRecord s r).power = s.power := by
  unfold writeRecord
  dsimp only
  split
  · split <;> simp
  · simp
@[simp] theorem writeRecord_clock (s : State) (r : ErrRec) : (writeRecord s r).clock = s.clock := by
  unfold writeRecord
  dsimp only
  split
  · split <;> simp
  · simp
@[simp] theorem writeRecord_thermal (s : State) (r : ErrRec) : (writeRecord s r).thermal = s.thermal := by
  unfold writeRecord
  dsimp only
  split
  · split <;> simp
  · simp
@[simp] theorem writeRecord_flash (s : State) (r : ErrRec) : (writeRecord s r).flash = s.flash := by
  unfold writeRecord
  dsimp only
  split
  · split <;> simp
  · simp
@[simp] theorem writeRecord_agents (s : State) (r : ErrRec) : (writeRecord s r).agents = s.agents := by
  unfold writeRecord
  dsimp only
  split
  · split <;> simp
  · simp
@[simp] theorem writeRecord_resil (s : State) (r : ErrRec) : (writeRecord s r).resil = s.resil := by
  unfold writeRecord
  dsimp only
  split
  · split <;> simp
  · simp
@[simp] theorem writeRecord_pmu (s : State) (r : ErrRec) : (writeRecord s r).pmu = s.pmu := by
  unfold writeRecord
  dsimp only
  split
  · split <;> simp
  · simp
@[simp] theorem writeRecord_pins (s : State) (r : ErrRec) : (writeRecord s r).pins = s.pins := by
  unfold writeRecord
  dsimp only
  split
  · split <;> simp
  · simp
@[simp] theorem writeRecord_pending (s : State) (r : ErrRec) : (writeRecord s r).pending = s.pending := by
  unfold writeRecord
  dsimp only
  split
  · split <;> simp
  · simp
@[simp] theorem writeRecord_openCtr (s : State) (r : ErrRec) : (writeRecord s r).openCtr = s.openCtr := by
  unfold writeRecord
  dsimp only
  split
  · split <;> simp
  · simp

/-- A field that every step of a fold leaves. -/
theorem foldl_field {α β : Type} (g : State → β) {f : State → α → State} (h : ∀ s a, g (f s a) = g s) :
    ∀ (l : List α) (s : State), g (l.foldl f s) = g s
  | [], _ => rfl
  | a :: t, s => by rw [List.foldl_cons, foldl_field g h t, h]

@[simp] theorem dropRestore_cores (s : State) (hit : SnapCfg → Bool) (st : BitVec 16) : (dropRestore s hit st).cores = s.cores := by
  unfold dropRestore
  exact foldl_field (·.cores) (by intro t c; split <;> rfl) _ s
@[simp] theorem dropRestore_mem (s : State) (hit : SnapCfg → Bool) (st : BitVec 16) : (dropRestore s hit st).mem = s.mem := by
  unfold dropRestore
  exact foldl_field (·.mem) (by intro t c; split <;> rfl) _ s
@[simp] theorem dropRestore_full (s : State) (hit : SnapCfg → Bool) (st : BitVec 16) : (dropRestore s hit st).full = s.full := by
  unfold dropRestore
  exact foldl_field (·.full) (by intro t c; split <;> rfl) _ s
@[simp] theorem dropRestore_poison (s : State) (hit : SnapCfg → Bool) (st : BitVec 16) : (dropRestore s hit st).poison = s.poison := by
  unfold dropRestore
  exact foldl_field (·.poison) (by intro t c; split <;> rfl) _ s
@[simp] theorem dropRestore_lacing (s : State) (hit : SnapCfg → Bool) (st : BitVec 16) : (dropRestore s hit st).lacing = s.lacing := by
  unfold dropRestore
  exact foldl_field (·.lacing) (by intro t c; split <;> rfl) _ s
@[simp] theorem dropRestore_tiers (s : State) (hit : SnapCfg → Bool) (st : BitVec 16) : (dropRestore s hit st).tiers = s.tiers := by
  unfold dropRestore
  exact foldl_field (·.tiers) (by intro t c; split <;> rfl) _ s
@[simp] theorem dropRestore_pcie (s : State) (hit : SnapCfg → Bool) (st : BitVec 16) : (dropRestore s hit st).pcie = s.pcie := by
  unfold dropRestore
  exact foldl_field (·.pcie) (by intro t c; split <;> rfl) _ s
@[simp] theorem dropRestore_vault (s : State) (hit : SnapCfg → Bool) (st : BitVec 16) : (dropRestore s hit st).vault = s.vault := by
  unfold dropRestore
  exact foldl_field (·.vault) (by intro t c; split <;> rfl) _ s
@[simp] theorem dropRestore_eyes (s : State) (hit : SnapCfg → Bool) (st : BitVec 16) : (dropRestore s hit st).eyes = s.eyes := by
  unfold dropRestore
  exact foldl_field (·.eyes) (by intro t c; split <;> rfl) _ s
@[simp] theorem dropRestore_sites (s : State) (hit : SnapCfg → Bool) (st : BitVec 16) : (dropRestore s hit st).sites = s.sites := by
  unfold dropRestore
  exact foldl_field (·.sites) (by intro t c; split <;> rfl) _ s
@[simp] theorem dropRestore_power (s : State) (hit : SnapCfg → Bool) (st : BitVec 16) : (dropRestore s hit st).power = s.power := by
  unfold dropRestore
  exact foldl_field (·.power) (by intro t c; split <;> rfl) _ s
@[simp] theorem dropRestore_clock (s : State) (hit : SnapCfg → Bool) (st : BitVec 16) : (dropRestore s hit st).clock = s.clock := by
  unfold dropRestore
  exact foldl_field (·.clock) (by intro t c; split <;> rfl) _ s
@[simp] theorem dropRestore_thermal (s : State) (hit : SnapCfg → Bool) (st : BitVec 16) : (dropRestore s hit st).thermal = s.thermal := by
  unfold dropRestore
  exact foldl_field (·.thermal) (by intro t c; split <;> rfl) _ s
@[simp] theorem dropRestore_flash (s : State) (hit : SnapCfg → Bool) (st : BitVec 16) : (dropRestore s hit st).flash = s.flash := by
  unfold dropRestore
  exact foldl_field (·.flash) (by intro t c; split <;> rfl) _ s
@[simp] theorem dropRestore_agents (s : State) (hit : SnapCfg → Bool) (st : BitVec 16) : (dropRestore s hit st).agents = s.agents := by
  unfold dropRestore
  exact foldl_field (·.agents) (by intro t c; split <;> rfl) _ s
@[simp] theorem dropRestore_pmu (s : State) (hit : SnapCfg → Bool) (st : BitVec 16) : (dropRestore s hit st).pmu = s.pmu := by
  unfold dropRestore
  exact foldl_field (·.pmu) (by intro t c; split <;> rfl) _ s
@[simp] theorem dropRestore_pins (s : State) (hit : SnapCfg → Bool) (st : BitVec 16) : (dropRestore s hit st).pins = s.pins := by
  unfold dropRestore
  exact foldl_field (·.pins) (by intro t c; split <;> rfl) _ s
@[simp] theorem dropRestore_pending (s : State) (hit : SnapCfg → Bool) (st : BitVec 16) : (dropRestore s hit st).pending = s.pending := by
  unfold dropRestore
  exact foldl_field (·.pending) (by intro t c; split <;> rfl) _ s
@[simp] theorem dropRestore_openCtr (s : State) (hit : SnapCfg → Bool) (st : BitVec 16) : (dropRestore s hit st).openCtr = s.openCtr := by
  unfold dropRestore
  exact foldl_field (·.openCtr) (by intro t c; split <;> rfl) _ s

@[simp] theorem stopSnaps_cores (s : State) (id : BitVec 6) : (stopSnaps s id).cores = s.cores := by
  simp [stopSnaps]
@[simp] theorem stopSnaps_mem (s : State) (id : BitVec 6) : (stopSnaps s id).mem = s.mem := by
  simp [stopSnaps]
@[simp] theorem stopSnaps_full (s : State) (id : BitVec 6) : (stopSnaps s id).full = s.full := by
  simp [stopSnaps]
@[simp] theorem stopSnaps_poison (s : State) (id : BitVec 6) : (stopSnaps s id).poison = s.poison := by
  simp [stopSnaps]
@[simp] theorem stopSnaps_lacing (s : State) (id : BitVec 6) : (stopSnaps s id).lacing = s.lacing := by
  simp [stopSnaps]
@[simp] theorem stopSnaps_tiers (s : State) (id : BitVec 6) : (stopSnaps s id).tiers = s.tiers := by
  simp [stopSnaps]
@[simp] theorem stopSnaps_pcie (s : State) (id : BitVec 6) : (stopSnaps s id).pcie = s.pcie := by
  simp [stopSnaps]
@[simp] theorem stopSnaps_vault (s : State) (id : BitVec 6) : (stopSnaps s id).vault = s.vault := by
  simp [stopSnaps]
@[simp] theorem stopSnaps_eyes (s : State) (id : BitVec 6) : (stopSnaps s id).eyes = s.eyes := by
  simp [stopSnaps]
@[simp] theorem stopSnaps_sites (s : State) (id : BitVec 6) : (stopSnaps s id).sites = s.sites := by
  simp [stopSnaps]
@[simp] theorem stopSnaps_power (s : State) (id : BitVec 6) : (stopSnaps s id).power = s.power := by
  simp [stopSnaps]
@[simp] theorem stopSnaps_clock (s : State) (id : BitVec 6) : (stopSnaps s id).clock = s.clock := by
  simp [stopSnaps]
@[simp] theorem stopSnaps_thermal (s : State) (id : BitVec 6) : (stopSnaps s id).thermal = s.thermal := by
  simp [stopSnaps]
@[simp] theorem stopSnaps_flash (s : State) (id : BitVec 6) : (stopSnaps s id).flash = s.flash := by
  simp [stopSnaps]
@[simp] theorem stopSnaps_agents (s : State) (id : BitVec 6) : (stopSnaps s id).agents = s.agents := by
  simp [stopSnaps]
@[simp] theorem stopSnaps_pmu (s : State) (id : BitVec 6) : (stopSnaps s id).pmu = s.pmu := by
  simp [stopSnaps]
@[simp] theorem stopSnaps_pins (s : State) (id : BitVec 6) : (stopSnaps s id).pins = s.pins := by
  simp [stopSnaps]
@[simp] theorem stopSnaps_pending (s : State) (id : BitVec 6) : (stopSnaps s id).pending = s.pending := by
  simp [stopSnaps]
@[simp] theorem stopSnaps_openCtr (s : State) (id : BitVec 6) : (stopSnaps s id).openCtr = s.openCtr := by
  simp [stopSnaps]

@[simp] theorem killJob_mem (s : State) (id : BitVec 6) (code op : BitVec 16) (unit : Nat × Nat × Nat) (q : Option SeqState) : (killJob s id code op unit q).mem = s.mem := by
  unfold killJob
  split
  · rfl
  · dsimp only
    split
    · simp
    · simp only [writeRecord_mem, stopSnaps_mem, modJob_mem]
      exact foldl_field (·.mem) (by intros; rfl) _ s
@[simp] theorem killJob_full (s : State) (id : BitVec 6) (code op : BitVec 16) (unit : Nat × Nat × Nat) (q : Option SeqState) : (killJob s id code op unit q).full = s.full := by
  unfold killJob
  split
  · rfl
  · dsimp only
    split
    · simp
    · simp only [writeRecord_full, stopSnaps_full, modJob_full]
      exact foldl_field (·.full) (by intros; rfl) _ s
@[simp] theorem killJob_poison (s : State) (id : BitVec 6) (code op : BitVec 16) (unit : Nat × Nat × Nat) (q : Option SeqState) : (killJob s id code op unit q).poison = s.poison := by
  unfold killJob
  split
  · rfl
  · dsimp only
    split
    · simp
    · simp only [writeRecord_poison, stopSnaps_poison, modJob_poison]
      exact foldl_field (·.poison) (by intros; rfl) _ s
@[simp] theorem killJob_lacing (s : State) (id : BitVec 6) (code op : BitVec 16) (unit : Nat × Nat × Nat) (q : Option SeqState) : (killJob s id code op unit q).lacing = s.lacing := by
  unfold killJob
  split
  · rfl
  · dsimp only
    split
    · simp
    · simp only [writeRecord_lacing, stopSnaps_lacing, modJob_lacing]
      exact foldl_field (·.lacing) (by intros; rfl) _ s
@[simp] theorem killJob_tiers (s : State) (id : BitVec 6) (code op : BitVec 16) (unit : Nat × Nat × Nat) (q : Option SeqState) : (killJob s id code op unit q).tiers = s.tiers := by
  unfold killJob
  split
  · rfl
  · dsimp only
    split
    · simp
    · simp only [writeRecord_tiers, stopSnaps_tiers, modJob_tiers]
      exact foldl_field (·.tiers) (by intros; rfl) _ s
@[simp] theorem killJob_vault (s : State) (id : BitVec 6) (code op : BitVec 16) (unit : Nat × Nat × Nat) (q : Option SeqState) : (killJob s id code op unit q).vault = s.vault := by
  unfold killJob
  split
  · rfl
  · dsimp only
    split
    · simp
    · simp only [writeRecord_vault, stopSnaps_vault, modJob_vault]
      exact foldl_field (·.vault) (by intros; rfl) _ s
@[simp] theorem killJob_eyes (s : State) (id : BitVec 6) (code op : BitVec 16) (unit : Nat × Nat × Nat) (q : Option SeqState) : (killJob s id code op unit q).eyes = s.eyes := by
  unfold killJob
  split
  · rfl
  · dsimp only
    split
    · simp
    · simp only [writeRecord_eyes, stopSnaps_eyes, modJob_eyes]
      exact foldl_field (·.eyes) (by intros; rfl) _ s
@[simp] theorem killJob_sites (s : State) (id : BitVec 6) (code op : BitVec 16) (unit : Nat × Nat × Nat) (q : Option SeqState) : (killJob s id code op unit q).sites = s.sites := by
  unfold killJob
  split
  · rfl
  · dsimp only
    split
    · simp
    · simp only [writeRecord_sites, stopSnaps_sites, modJob_sites]
      exact foldl_field (·.sites) (by intros; rfl) _ s
@[simp] theorem killJob_power (s : State) (id : BitVec 6) (code op : BitVec 16) (unit : Nat × Nat × Nat) (q : Option SeqState) : (killJob s id code op unit q).power = s.power := by
  unfold killJob
  split
  · rfl
  · dsimp only
    split
    · simp
    · simp only [writeRecord_power, stopSnaps_power, modJob_power]
      exact foldl_field (·.power) (by intros; rfl) _ s
@[simp] theorem killJob_clock (s : State) (id : BitVec 6) (code op : BitVec 16) (unit : Nat × Nat × Nat) (q : Option SeqState) : (killJob s id code op unit q).clock = s.clock := by
  unfold killJob
  split
  · rfl
  · dsimp only
    split
    · simp
    · simp only [writeRecord_clock, stopSnaps_clock, modJob_clock]
      exact foldl_field (·.clock) (by intros; rfl) _ s
@[simp] theorem killJob_thermal (s : State) (id : BitVec 6) (code op : BitVec 16) (unit : Nat × Nat × Nat) (q : Option SeqState) : (killJob s id code op unit q).thermal = s.thermal := by
  unfold killJob
  split
  · rfl
  · dsimp only
    split
    · simp
    · simp only [writeRecord_thermal, stopSnaps_thermal, modJob_thermal]
      exact foldl_field (·.thermal) (by intros; rfl) _ s
@[simp] theorem killJob_flash (s : State) (id : BitVec 6) (code op : BitVec 16) (unit : Nat × Nat × Nat) (q : Option SeqState) : (killJob s id code op unit q).flash = s.flash := by
  unfold killJob
  split
  · rfl
  · dsimp only
    split
    · simp
    · simp only [writeRecord_flash, stopSnaps_flash, modJob_flash]
      exact foldl_field (·.flash) (by intros; rfl) _ s
@[simp] theorem killJob_agents (s : State) (id : BitVec 6) (code op : BitVec 16) (unit : Nat × Nat × Nat) (q : Option SeqState) : (killJob s id code op unit q).agents = s.agents := by
  unfold killJob
  split
  · rfl
  · dsimp only
    split
    · simp
    · simp only [writeRecord_agents, stopSnaps_agents, modJob_agents]
      exact foldl_field (·.agents) (by intros; rfl) _ s
@[simp] theorem killJob_pmu (s : State) (id : BitVec 6) (code op : BitVec 16) (unit : Nat × Nat × Nat) (q : Option SeqState) : (killJob s id code op unit q).pmu = s.pmu := by
  unfold killJob
  split
  · rfl
  · dsimp only
    split
    · simp
    · simp only [writeRecord_pmu, stopSnaps_pmu, modJob_pmu]
      exact foldl_field (·.pmu) (by intros; rfl) _ s
@[simp] theorem killJob_pins (s : State) (id : BitVec 6) (code op : BitVec 16) (unit : Nat × Nat × Nat) (q : Option SeqState) : (killJob s id code op unit q).pins = s.pins := by
  unfold killJob
  split
  · rfl
  · dsimp only
    split
    · simp
    · simp only [writeRecord_pins, stopSnaps_pins, modJob_pins]
      exact foldl_field (·.pins) (by intros; rfl) _ s
@[simp] theorem killJob_pending (s : State) (id : BitVec 6) (code op : BitVec 16) (unit : Nat × Nat × Nat) (q : Option SeqState) : (killJob s id code op unit q).pending = s.pending := by
  unfold killJob
  split
  · rfl
  · dsimp only
    split
    · simp
    · simp only [writeRecord_pending, stopSnaps_pending, modJob_pending]
      exact foldl_field (·.pending) (by intros; rfl) _ s
@[simp] theorem killJob_openCtr (s : State) (id : BitVec 6) (code op : BitVec 16) (unit : Nat × Nat × Nat) (q : Option SeqState) : (killJob s id code op unit q).openCtr = s.openCtr := by
  unfold killJob
  split
  · rfl
  · dsimp only
    split
    · simp
    · simp only [writeRecord_openCtr, stopSnaps_openCtr, modJob_openCtr]
      exact foldl_field (·.openCtr) (by intros; rfl) _ s

@[simp] theorem faultRecords_mem (s : State) (c : CoreId) (q : SeqId) (opc : BitVec 8) (code : BitVec 16) : (faultRecords s c q opc code).mem = s.mem := by
  unfold faultRecords
  split <;> simp
@[simp] theorem faultRecords_full (s : State) (c : CoreId) (q : SeqId) (opc : BitVec 8) (code : BitVec 16) : (faultRecords s c q opc code).full = s.full := by
  unfold faultRecords
  split <;> simp
@[simp] theorem faultRecords_poison (s : State) (c : CoreId) (q : SeqId) (opc : BitVec 8) (code : BitVec 16) : (faultRecords s c q opc code).poison = s.poison := by
  unfold faultRecords
  split <;> simp
@[simp] theorem faultRecords_lacing (s : State) (c : CoreId) (q : SeqId) (opc : BitVec 8) (code : BitVec 16) : (faultRecords s c q opc code).lacing = s.lacing := by
  unfold faultRecords
  split <;> simp
@[simp] theorem faultRecords_tiers (s : State) (c : CoreId) (q : SeqId) (opc : BitVec 8) (code : BitVec 16) : (faultRecords s c q opc code).tiers = s.tiers := by
  unfold faultRecords
  split <;> simp
@[simp] theorem faultRecords_vault (s : State) (c : CoreId) (q : SeqId) (opc : BitVec 8) (code : BitVec 16) : (faultRecords s c q opc code).vault = s.vault := by
  unfold faultRecords
  split <;> simp
@[simp] theorem faultRecords_eyes (s : State) (c : CoreId) (q : SeqId) (opc : BitVec 8) (code : BitVec 16) : (faultRecords s c q opc code).eyes = s.eyes := by
  unfold faultRecords
  split <;> simp
@[simp] theorem faultRecords_sites (s : State) (c : CoreId) (q : SeqId) (opc : BitVec 8) (code : BitVec 16) : (faultRecords s c q opc code).sites = s.sites := by
  unfold faultRecords
  split <;> simp
@[simp] theorem faultRecords_power (s : State) (c : CoreId) (q : SeqId) (opc : BitVec 8) (code : BitVec 16) : (faultRecords s c q opc code).power = s.power := by
  unfold faultRecords
  split <;> simp
@[simp] theorem faultRecords_clock (s : State) (c : CoreId) (q : SeqId) (opc : BitVec 8) (code : BitVec 16) : (faultRecords s c q opc code).clock = s.clock := by
  unfold faultRecords
  split <;> simp
@[simp] theorem faultRecords_thermal (s : State) (c : CoreId) (q : SeqId) (opc : BitVec 8) (code : BitVec 16) : (faultRecords s c q opc code).thermal = s.thermal := by
  unfold faultRecords
  split <;> simp
@[simp] theorem faultRecords_flash (s : State) (c : CoreId) (q : SeqId) (opc : BitVec 8) (code : BitVec 16) : (faultRecords s c q opc code).flash = s.flash := by
  unfold faultRecords
  split <;> simp
@[simp] theorem faultRecords_agents (s : State) (c : CoreId) (q : SeqId) (opc : BitVec 8) (code : BitVec 16) : (faultRecords s c q opc code).agents = s.agents := by
  unfold faultRecords
  split <;> simp
@[simp] theorem faultRecords_pmu (s : State) (c : CoreId) (q : SeqId) (opc : BitVec 8) (code : BitVec 16) : (faultRecords s c q opc code).pmu = s.pmu := by
  unfold faultRecords
  split <;> simp
@[simp] theorem faultRecords_pins (s : State) (c : CoreId) (q : SeqId) (opc : BitVec 8) (code : BitVec 16) : (faultRecords s c q opc code).pins = s.pins := by
  unfold faultRecords
  split <;> simp
@[simp] theorem faultRecords_pending (s : State) (c : CoreId) (q : SeqId) (opc : BitVec 8) (code : BitVec 16) : (faultRecords s c q opc code).pending = s.pending := by
  unfold faultRecords
  split <;> simp
@[simp] theorem faultRecords_openCtr (s : State) (c : CoreId) (q : SeqId) (opc : BitVec 8) (code : BitVec 16) : (faultRecords s c q opc code).openCtr = s.openCtr := by
  unfold faultRecords
  split <;> simp

@[simp] theorem seqFault_mem (s : State) (c : CoreId) (q : SeqId) (opc code : BitVec 8) : (seqFault s c q opc code).mem = s.mem := by
  simp [seqFault]
@[simp] theorem seqFault_full (s : State) (c : CoreId) (q : SeqId) (opc code : BitVec 8) : (seqFault s c q opc code).full = s.full := by
  simp [seqFault]
@[simp] theorem seqFault_poison (s : State) (c : CoreId) (q : SeqId) (opc code : BitVec 8) : (seqFault s c q opc code).poison = s.poison := by
  simp [seqFault]
@[simp] theorem seqFault_lacing (s : State) (c : CoreId) (q : SeqId) (opc code : BitVec 8) : (seqFault s c q opc code).lacing = s.lacing := by
  simp [seqFault]
@[simp] theorem seqFault_tiers (s : State) (c : CoreId) (q : SeqId) (opc code : BitVec 8) : (seqFault s c q opc code).tiers = s.tiers := by
  simp [seqFault]
@[simp] theorem seqFault_vault (s : State) (c : CoreId) (q : SeqId) (opc code : BitVec 8) : (seqFault s c q opc code).vault = s.vault := by
  simp [seqFault]
@[simp] theorem seqFault_eyes (s : State) (c : CoreId) (q : SeqId) (opc code : BitVec 8) : (seqFault s c q opc code).eyes = s.eyes := by
  simp [seqFault]
@[simp] theorem seqFault_sites (s : State) (c : CoreId) (q : SeqId) (opc code : BitVec 8) : (seqFault s c q opc code).sites = s.sites := by
  simp [seqFault]
@[simp] theorem seqFault_power (s : State) (c : CoreId) (q : SeqId) (opc code : BitVec 8) : (seqFault s c q opc code).power = s.power := by
  simp [seqFault]
@[simp] theorem seqFault_clock (s : State) (c : CoreId) (q : SeqId) (opc code : BitVec 8) : (seqFault s c q opc code).clock = s.clock := by
  simp [seqFault]
@[simp] theorem seqFault_thermal (s : State) (c : CoreId) (q : SeqId) (opc code : BitVec 8) : (seqFault s c q opc code).thermal = s.thermal := by
  simp [seqFault]
@[simp] theorem seqFault_flash (s : State) (c : CoreId) (q : SeqId) (opc code : BitVec 8) : (seqFault s c q opc code).flash = s.flash := by
  simp [seqFault]
@[simp] theorem seqFault_agents (s : State) (c : CoreId) (q : SeqId) (opc code : BitVec 8) : (seqFault s c q opc code).agents = s.agents := by
  simp [seqFault]
@[simp] theorem seqFault_pmu (s : State) (c : CoreId) (q : SeqId) (opc code : BitVec 8) : (seqFault s c q opc code).pmu = s.pmu := by
  simp [seqFault]
@[simp] theorem seqFault_pins (s : State) (c : CoreId) (q : SeqId) (opc code : BitVec 8) : (seqFault s c q opc code).pins = s.pins := by
  simp [seqFault]
@[simp] theorem seqFault_pending (s : State) (c : CoreId) (q : SeqId) (opc code : BitVec 8) : (seqFault s c q opc code).pending = s.pending := by
  simp [seqFault]
@[simp] theorem seqFault_openCtr (s : State) (c : CoreId) (q : SeqId) (opc code : BitVec 8) : (seqFault s c q opc code).openCtr = s.openCtr := by
  simp [seqFault]

end Sys2Proof.Machine
end

