-- ==== Sys2Proof/Laws/Engine.lean ====
section
/-!
SUPPORT. What an engine does with an instruction that is presented to it: the step from the row of an instruction to its
effect, said once for control instructions, for an instruction whose accesses have executed, and for one that presents its
last accesses.
-/
namespace Sys2Proof.Machine

/-- A control instruction that may issue has its effect. -/
theorem controlInstr_offers {s : State} {c : CoreId} {q : SeqId} {word rsv : Word128} {names : List Nat}
    {effect : State → State} (h : s.Offers c q word rsv names) : controlInstr s c q word rsv names effect = effect s := by
  obtain ⟨h1, h2, h3, h4, h5, h6⟩ := h
  have h2' : ¬2 ≤ (getSeq s c q).infl.length := by omega
  simp [controlInstr, offer, h1, h2', h3, h4, h5, h6]

/-- A sequencer that goes on. -/
theorem goOn_runs {s : State} {c : CoreId} {q : SeqId} {opc : BitVec 8} {n : Nat} (h : s.RunsOn c q n) :
    goOn s c q opc n = modSeq s c q fun y =>
      { y with pc := (loopStep n (getSeq s c q).loops).1, loops := (loopStep n (getSeq s c q).loops).2 } := by
  unfold State.RunsOn at h
  simp [goOn, h]

/-- An instruction in flight goes on from its present phase. -/
theorem engineInstr_landed {s : State} {c : CoreId} {q : SeqId} {word rsv : Word128} {ev : List EccEvent} {pl : Plan}
    {script : State → InFlight → Phase} {y : InFlight} (h : s.Landed c q word y) :
    engineInstr s c q word rsv ev pl script = carry c q word ev script phaseLimit s := by
  simp [engineInstr, h.1, h.2.1]

/-- It completes. -/
theorem carry_finish {s : State} {c : CoreId} {q : SeqId} {word : Word128} {ev : List EccEvent}
    {script : State → InFlight → Phase} {y : InFlight} {f : State → State} {n : Nat} (h : s.Landed c q word y)
    (e : script s y = .finish f) : carry c q word ev script (n + 1) s = f (dropFlight s c q word) := by
  simp [carry, h.2.1, h.2.2, e]

/-- It faults. -/
theorem carry_fault {s : State} {c : CoreId} {q : SeqId} {word : Word128} {ev : List EccEvent}
    {script : State → InFlight → Phase} {y : InFlight} {code : BitVec 8} {n : Nat} (h : s.Landed c q word y)
    (e : script s y = .fault code) : carry c q word ev script (n + 1) s = seqFault s c q (opcodeOf word) code := by
  simp [carry, h.2.1, h.2.2, e]

/-- The instructions in flight at every sequencer are the same. -/
def SameInfl (s t : State) : Prop := ∀ c q, (getSeq t c q).infl = (getSeq s c q).infl

theorem SameInfl.refl (s : State) : SameInfl s s := fun _ _ => rfl

theorem SameInfl.trans {s t u : State} (h : SameInfl s t) (k : SameInfl t u) : SameInfl s u := fun c q => (k c q).trans (h c q)

theorem SameInfl.cores {s t : State} (h : t.cores = s.cores) : SameInfl s t := fun c q => by
  simp only [getSeq, getCore, h]

theorem SameInfl.modCore {s : State} {c : CoreId} {f : CoreState → CoreState} (h : (f (getCore s c)).seqs = (getCore s c).seqs) :
    SameInfl s (modCore s c f) := fun d q => by
  unfold getSeq
  by_cases e : c = d
  · subst e
    rw [getCore_modCore_same, h]
  · rw [getCore_modCore_other _ _ e]

theorem SameInfl.modSeq {s : State} {c : CoreId} {q : SeqId} {f : SeqState → SeqState}
    (h : (f (getSeq s c q)).infl = (getSeq s c q).infl) : SameInfl s (modSeq s c q f) := fun d p => by
  by_cases e : c = d
  · subst e
    by_cases e' : q = p
    · subst e'
      rw [getSeq_modSeq_same, h]
    · rw [getSeq_modSeq_other _ _ _ e']
  · simp only [getSeq, Machine.modSeq, getCore_modCore_other _ _ e]

theorem SameInfl.choice {s : State} {c : Prop} [Decidable c] {a b : State} (ha : SameInfl s a) (hb : SameInfl s b) :
    SameInfl s (if c then a else b) := by
  split
  · exact ha
  · exact hb

theorem markRepair_infl (s : State) (c : CoreId) (sa bank : Nat) : SameInfl s (markRepair s c sa bank) :=
  SameInfl.choice (SameInfl.refl s) (SameInfl.trans (SameInfl.modCore rfl) (SameInfl.cores (writeRecord_cores ..)))

theorem stkError_infl (s : State) (c : CoreId) (sa : Nat) (ue patrol : Bool) : SameInfl s (stkError s c sa ue patrol) := by
  have k : ∀ f : StkState → StkState, SameInfl s (bumpGen (modStk s c f)) := fun f =>
    SameInfl.trans (SameInfl.modCore (f := fun k => { k with stk := f k.stk }) rfl) (SameInfl.cores rfl)
  unfold stkError
  dsimp only
  split
  · have g : ∀ (x : State) (f : StkState → StkState) (r : ErrRec) (n : Nat), SameInfl x (writeRecord (modStk (setPoison x n true) c f) r) :=
      fun x f r n => SameInfl.trans (SameInfl.cores (t := setPoison x n true) rfl)
        (SameInfl.trans (SameInfl.modCore (f := fun k => { k with stk := f k.stk }) rfl) (SameInfl.cores (writeRecord_cores ..)))
    exact SameInfl.choice (((k _).trans (g _ _ _ _)).trans (markRepair_infl _ _ _ _)) ((k _).trans (g _ _ _ _))
  · have g : ∀ (x : State) (f : StkState → StkState), SameInfl x (modStk x c f) := fun x f =>
      SameInfl.modCore (f := fun k => { k with stk := f k.stk }) rfl
    exact SameInfl.choice (((k _).trans (g _ _)).trans (markRepair_infl _ _ _ _)) ((k _).trans (g _ _))

theorem eccRead_infl (s : State) (c : CoreId) (sa : Nat) (e : Ecc) (p : Bool) : SameInfl s (eccRead s c sa e p) := by
  unfold eccRead
  split
  · exact SameInfl.refl s
  · exact stkError_infl _ _ _ _ _
  · exact stkError_infl _ _ _ _ _

theorem countConsumed_infl (s : State) (c : CoreId) (sa : Nat) (tm : BitVec 2) : SameInfl s (countConsumed s c sa tm) := by
  unfold countConsumed
  split
  · split
    · exact SameInfl.modCore rfl
    · exact SameInfl.refl s
  · exact SameInfl.refl s

theorem stkPut_infl (s : State) (c : CoreId) (sa lo : Nat) (d : List Byte) (p : Bool) : SameInfl s (stkPut s c sa lo d p) := by
  unfold stkPut
  refine SameInfl.choice (SameInfl.trans (t := putSlot s (stacksAddr c sa + lo) d p) (SameInfl.cores rfl) (SameInfl.modCore rfl))
    (SameInfl.cores rfl)

theorem execLocal_infl (s : State) (c : CoreId) (a : Access) (e : Ecc) : SameInfl s (execLocal s c a e).1 := by
  unfold execLocal
  dsimp only
  split
  · exact (stkPut_infl _ _ _ _ _ _).trans (SameInfl.cores rfl)
  · exact ((eccRead_infl _ _ _ _ _).trans (SameInfl.cores rfl)).trans (countConsumed_infl _ _ _ _)

theorem parkLocal_infl (s : State) (c : CoreId) (l : List Access) (a : Access) : SameInfl s (parkLocal s c l a).1 := by
  unfold parkLocal
  split
  · exact SameInfl.refl s
  · dsimp only
    split
    · exact SameInfl.modCore rfl
    · exact SameInfl.modCore rfl

theorem sendRemote_infl (s : State) (c d : CoreId) (q : SeqId) (a : Access) : SameInfl s (sendRemote s c d q a).1 := by
  have k : ∀ (g : SeqState → SeqState) (h : CoreState → CoreState) (f : Flit), (∀ y, (g y).infl = y.infl) →
      (∀ y, (h y).seqs = y.seqs) → SameInfl s (sendFlit (Machine.modCore (Machine.modSeq s c q g) c h) f) := fun g h f hg hh =>
    SameInfl.trans (SameInfl.trans (SameInfl.modSeq (hg _)) (SameInfl.modCore (hh _))) (SameInfl.cores rfl)
  unfold sendRemote
  dsimp only
  repeat' split
  all_goals first
    | exact SameInfl.refl s
    | exact k _ _ _ (fun _ => rfl) (fun _ => rfl)

theorem sendMem_infl (s : State) (c : CoreId) (q : SeqId) (a : Access) : SameInfl s (sendMem s c q a).1 := by
  unfold sendMem
  split
  · exact SameInfl.refl s
  · split
    · exact SameInfl.refl s
    · exact SameInfl.cores rfl

theorem tryAccess_infl (s : State) (c : CoreId) (q : SeqId) (ev : List EccEvent) (earlier later : List Access) (a : Access) :
    SameInfl s (tryAccess s c q ev earlier later a).1 := by
  unfold tryAccess
  split
  · exact SameInfl.refl s
  · exact SameInfl.refl s
  · split
    · exact sendRemote_infl _ _ _ _ _
    · exact sendMem_infl _ _ _ _
    · split
      · exact SameInfl.refl s
      · split
        · exact execLocal_infl _ _ _ _
        · exact parkLocal_infl _ _ _ _

theorem tryAll_infl (c : CoreId) (q : SeqId) (ev : List EccEvent) : ∀ (l earlier : List Access) (s : State),
    SameInfl s (tryAll c q ev earlier s l).1
  | [], _, s => SameInfl.refl s
  | a :: t, earlier, s => by
    have k := tryAccess_infl s c q ev earlier t a
    unfold tryAll
    split
    · rename_i s' a' e
      rw [e] at k
      exact k.trans (tryAll_infl c q ev t _ _)
    · rename_i s' a' f e
      rw [e] at k
      exact k

/-- The instruction found in flight depends on the instructions in flight alone. -/
theorem SameInfl.flightOf {s t : State} (h : SameInfl s t) (c : CoreId) (q : SeqId) (word : Word128) :
    flightOf t c q word = flightOf s c q word := by
  unfold Machine.flightOf
  rw [h c q]

theorem find_map_word {l : List InFlight} {word : Word128} {y : InFlight} {f : InFlight → InFlight}
    (hw : ∀ x, (f x).word = x.word) (h : l.find? (fun y => y.word == word) = some y) :
    (l.map fun y => if y.word = word then f y else y).find? (fun y => y.word == word) = some (f y) := by
  induction l with
  | nil => cases h
  | cons x t ih =>
    by_cases e : x.word = word
    · have : x = y := by simpa [e] using h
      subst this
      simp [e, hw]
    · have h' : t.find? (fun y => y.word == word) = some y := by simpa [e] using h
      simp [e, ih h']

/-- A change of an instruction in flight that keeps its word. -/
theorem flightOf_modFlight {s : State} {c : CoreId} {q : SeqId} {word : Word128} {y : InFlight} {f : InFlight → InFlight}
    (hw : ∀ x, (f x).word = x.word) (h : flightOf s c q word = some y) :
    flightOf (modFlight s c q word f) c q word = some (f y) := by
  unfold flightOf modFlight
  rw [getSeq_modSeq_same]
  exact find_map_word hw h

/-- A pass that executes every access leaves the instruction in flight with one more phase done and nothing open. -/
theorem tryFlight_true {s t : State} {c : CoreId} {q : SeqId} {word : Word128} {ev : List EccEvent} {l : List Access}
    {y : InFlight} (h : flightOf s c q word = some y) (e : tryFlight s c q word ev l = (t, true)) :
    ∃ g, flightOf t c q word = some { y with got := y.got ++ [g], todo := [] } := by
  unfold tryFlight at e
  dsimp only at e
  have h1 : flightOf (modFlight s c q word fun y => { y with todo := [] }) c q word = some { y with todo := [] } :=
    flightOf_modFlight (f := fun y => { y with todo := [] }) (fun _ => rfl) h
  have k := tryAll_infl c q ev l [] (modFlight s c q word fun y => { y with todo := [] })
  split at e
  · rename_i s' l' heq
    rw [heq] at k
    split at e
    · cases e
      refine ⟨l', ?_⟩
      have h2 : flightOf s' c q word = some { y with todo := [] } := (k.flightOf c q word).trans h1
      exact flightOf_modFlight (f := fun y => { y with got := y.got ++ [l'], todo := [] }) (y := { y with todo := [] })
        (fun _ => rfl) h2
    · cases e
  · cases e

/-- An instruction that presents its last accesses, and completes where they all execute at once. -/
theorem carry_presents {s : State} {c : CoreId} {q : SeqId} {word : Word128} {ev : List EccEvent}
    {script : State → InFlight → Phase} {y : InFlight} {l : List Access} {f : State → State} {n : Nat}
    (h : s.Landed c q word y) (e : script s y = .access l)
    (e' : ∀ t g, ∃ k, script t { y with got := y.got ++ [g], todo := [] } = .finish k ∧
      k (dropFlight t c q word) = f (dropFlight t c q word)) :
    carry c q word ev script (n + 2) s = presents s c q word ev l f := by
  have k : ∀ t, tryFlight s c q word ev l = (t, true) → ∃ g, flightOf t c q word = some { y with got := y.got ++ [g], todo := [] } :=
    fun t e => tryFlight_true h.2.1 e
  unfold presents
  rw [carry]
  simp only [h.2.1, h.2.2, e, List.isEmpty_nil, if_true]
  rcases he : tryFlight s c q word ev l with ⟨t, b⟩
  cases b
  · rfl
  · obtain ⟨g, hg⟩ := k t he
    obtain ⟨k, hk, hk'⟩ := e' t g
    simp [carry, hg, hk, hk']

/-- An instruction in flight whose script completes. -/
theorem engineInstr_finish {s : State} {c : CoreId} {q : SeqId} {word rsv : Word128} {ev : List EccEvent} {pl : Plan}
    {script : State → InFlight → Phase} {y : InFlight} {f : State → State} (h : s.Landed c q word y)
    (e : script s y = .finish f) : engineInstr s c q word rsv ev pl script = f (dropFlight s c q word) :=
  (engineInstr_landed h).trans (carry_finish (n := 4095) h e)

/-- An instruction in flight whose script faults. -/
theorem engineInstr_fault {s : State} {c : CoreId} {q : SeqId} {word rsv : Word128} {ev : List EccEvent} {pl : Plan}
    {script : State → InFlight → Phase} {y : InFlight} {code : BitVec 8} (h : s.Landed c q word y)
    (e : script s y = .fault code) : engineInstr s c q word rsv ev pl script = seqFault s c q (opcodeOf word) code :=
  (engineInstr_landed h).trans (carry_fault (n := 4095) h e)

/-- An instruction in flight whose script presents its last accesses. -/
theorem engineInstr_presents {s : State} {c : CoreId} {q : SeqId} {word rsv : Word128} {ev : List EccEvent} {pl : Plan}
    {script : State → InFlight → Phase} {y : InFlight} {l : List Access} {f : State → State} (h : s.Landed c q word y)
    (e : script s y = .access l) (e' : ∀ t g, script t { y with got := y.got ++ [g], todo := [] } = .finish f) :
    engineInstr s c q word rsv ev pl script = presents s c q word ev l f :=
  (engineInstr_landed h).trans (carry_presents (n := 4094) h e fun t g => ⟨f, e' t g, rfl⟩)

/-- A change of one core changes that core only. -/
theorem onlyCore_modCore (s : State) (c : CoreId) (f : CoreState → CoreState) : s.OnlyCore (modCore s c f) c :=
  ⟨f (getCore s c), modCore_congr s c rfl⟩

theorem State.OnlyCore.trans {s t u : State} {c : CoreId} (h : s.OnlyCore t c) (k : t.OnlyCore u c) : s.OnlyCore u c := by
  obtain ⟨a, rfl⟩ := h
  obtain ⟨b, rfl⟩ := k
  rw [modCore_modCore]
  exact ⟨_, rfl⟩

/-- A sequencer that has issued an instruction. -/
theorem issued_getSeq (s : State) (c q opc) : getSeq (issued s c q opc) c q =
   { getSeq s c q with lastOpc := opc, ran := true, dormant := false, st := .issuing } := by simp [issued]

/-- Going on after an issue that changed the sequencer by f. -/
theorem adv_issued {s : State} {c q opc} {n} {f : SeqState → SeqState} (hf : ∀ x, (f x).pc = x.pc ∧ (f x).loops = x.loops)
   (h : s.RunsOn c q n) :
   goOn (modSeq (issued s c q opc) c q f) c q opc n = modSeq s c q fun x =>
      { f { x with lastOpc := opc, ran := true, dormant := false, st := .issuing } with pc := (loopStep n x.loops).1, loops := (loopStep n x.loops).2 } := by
  have hl : (getSeq (modSeq (issued s c q opc) c q f) c q).loops = (getSeq s c q).loops := by
    rw [getSeq_modSeq_same, (hf _).2, issued_getSeq]
  rw [goOn_runs (by unfold State.RunsOn; rw [hl]; exact h), hl]
  unfold issued
  rw [modSeq_modSeq, modSeq_modSeq]
  apply modSeq_congr
  rfl

/-- Going on after an issue. -/
theorem adv_plain {s : State} {c q opc} {n} (h : s.RunsOn c q n) :
   goOn (issued s c q opc) c q opc n = modSeq s c q fun x => x.past opc n := by
  have := adv_issued (f := fun x => x) (opc := opc) (fun _ => ⟨rfl, rfl⟩) h
  rw [modSeq_id] at this
  exact this

/-- A set reserved bit faults BAD_OPC. -/
theorem offer_rsv {s : State} {c q word rsv names go} (h1 : mayIssue s c q = true) (h2 : (getSeq s c q).infl.length < 2)
   (h3 : (getSeq s c q).pendFault = 0) (h4 : fetched (getSeq s c q) = word) (h5 : word &&& rsv ≠ 0)
   (h6 : dloadPending (getSeq s c q) names = false) :
   offer s c q word rsv names go = seqFault s c q (opcodeOf word) 0x01 := by
  have h2' : ¬2 ≤ (getSeq s c q).infl.length := by omega
  simp only [offer, h1, h2', h3, h4, h6]
  rw [if_neg (by simp), if_neg (by simp), if_neg (by simp), if_pos h5]

/-- The opcode of an instruction. -/
theorem opcodeOf_instr (o : BitVec 8) (w : BitVec 120) : opcodeOf (instrWord o w) = o := by
  unfold opcodeOf instrWord
  ext i hi
  rw [BitVec.getElem_extractLsb', BitVec.getLsbD_append, if_neg (by omega)]
  simp [BitVec.getLsbD_eq_getElem hi]

/-- An instruction that names no descriptor waits for none. -/
theorem noPend (x : SeqState) : dloadPending x [] = false := by
  simp [dloadPending]

end Sys2Proof.Machine
end

