-- ==== Sys2Proof/Laws/Act.lean ====
section
/-!
SUPPORT. What an engine does with an instruction that takes an effect as a phase of its own: XLOAD, XGATHER and ESEND.
-/
namespace Sys2Proof.Machine

/-- A TAGOP changes no instruction in flight. -/
theorem applyTagop_infl (s t n) : SameInfl s (applyTagop s t n) := by
  unfold applyTagop
  repeat' split
  all_goals first | exact SameInfl.refl s | exact SameInfl.cores rfl

/-- A fold of steps that keep what is in flight keeps it. -/
theorem foldl_infl {α} (f : State → α → State) (h : ∀ s a, SameInfl s (f s a)) : ∀ (l : List α) (s : State), SameInfl s (l.foldl f s)
  | [], s => SameInfl.refl s
  | a :: t, s => (h s a).trans (foldl_infl f h t (f s a))

/-- A stream written over a footprint changes no instruction in flight. -/
theorem putStream_infl (s c ps l t) : SameInfl s (putStream s c ps l t) := by
  unfold putStream
  dsimp only
  refine SameInfl.trans (SameInfl.cores (t := { s with mem := putPieces (stacksAddr c 0) ps l s.mem }) rfl) (foldl_infl _ ?_ _ _)
  intro s a
  refine SameInfl.trans ?_ (applyTagop_infl _ _ _)
  refine SameInfl.choice (SameInfl.trans (t := setPoison s _ _) (SameInfl.cores rfl) (SameInfl.modCore (f := fun k => { k with stk := _ }) rfl)) (SameInfl.cores rfl)

/-- A phase that acts is done at once, and the instruction goes on. -/
theorem carry_act {s : State} {c : CoreId} {q : SeqId} {word : Word128} {ev : List EccEvent}
    {script : State → InFlight → Phase} {y : InFlight} {f : State → State} {n : Nat} (h : s.Landed c q word y)
    (e : script s y = .act f) : carry c q word ev script (n + 1) s =
      carry c q word ev script n (modFlight (f s) c q word fun y => { y with got := y.got ++ [[]] }) := by
  simp [carry, h.2.1, h.2.2, e]

/-- The instruction that acted, one phase on. -/
theorem act_landed {s t : State} {c : CoreId} {q : SeqId} {word : Word128} {y : InFlight} (h : s.Landed c q word y) (k : SameInfl s t) :
    flightOf (modFlight t c q word fun y => { y with got := y.got ++ [[]] }) c q word = some { y with got := y.got ++ [[]] } :=
  flightOf_modFlight (f := fun y => { y with got := y.got ++ [[]] }) (fun _ => rfl) ((k.flightOf c q word).trans h.2.1)

/-- Leaving flight forgets what was noted of the instruction. -/
theorem dropFlight_modFlight (s : State) (c q word) (f : InFlight → InFlight) (hf : ∀ y, (f y).word = y.word) :
    dropFlight (modFlight s c q word f) c q word = dropFlight s c q word := by
  unfold dropFlight modFlight
  rw [modSeq_modSeq]
  apply modSeq_congr
  have k : ((getSeq s c q).infl.map fun y => if y.word = word then f y else y).filter (fun y => y.word != word) =
      (getSeq s c q).infl.filter fun y => y.word != word := by
    generalize (getSeq s c q).infl = l
    induction l with
    | nil => rfl
    | cons x t ih =>
      by_cases e : x.word = word
      · have : (f x).word = word := (hf x).trans e
        simp [e, this, ih]
      · simp [e, ih]
  dsimp only
  rw [k]

/-- An instruction in flight that presents its last accesses, whatever its core does. -/
theorem carry_presents_plain {s : State} {c : CoreId} {q : SeqId} {word : Word128} {ev : List EccEvent}
    {script : State → InFlight → Phase} {y : InFlight} {l : List Access} {n : Nat}
    (h1 : flightOf s c q word = some y) (h2 : y.todo = []) (e : script s y = .access l)
    (e' : ∀ t g, script t { y with got := y.got ++ [g], todo := [] } = .finish id) :
    carry c q word ev script (n + 2) s = presents s c q word ev l id := by
  unfold presents
  rw [carry]
  simp only [h1, h2, e, List.isEmpty_nil, if_true]
  rcases he : tryFlight s c q word ev l with ⟨t, b⟩
  cases b
  · rfl
  · obtain ⟨g, hg⟩ := tryFlight_true h1 he
    simp [carry, hg, e' t g]

/-- The memory descriptors of an instruction in flight are those of its issue. -/
theorem mem_landed {s : State} {c : CoreId} {q : SeqId} {word : Word128} {y : InFlight} (h : s.Landed c q word y) (i : Nat) :
    memOpnd (viewOf s c q word) c q i = memDescrOf (smapGet 0 y.view i) := by
  simp only [memOpnd, descAt, viewOf, h.2.1, getSeq_modSeq_same]

/-- An instruction in flight that acts and completes. -/
theorem act_finish {s : State} {c : CoreId} {q : SeqId} {word rsv : Word128} {ev : List EccEvent} {pl : Plan}
    {script : State → InFlight → Phase} {y : InFlight} {f : State → State} (h : s.Landed c q word y)
    (e : script s y = .act f) (hf : SameInfl s (f s)) (e' : ∀ t, script t { y with got := y.got ++ [[]] } = .finish id) :
    engineInstr s c q word rsv ev pl script = dropFlight (f s) c q word := by
  refine (engineInstr_landed h).trans ((carry_act (n := 4095) h e).trans ?_)
  rw [carry]
  have ht : InFlight.todo { y with got := y.got ++ [[]] } = [] := h.2.2
  simp only [act_landed h hf]
  rw [if_pos (by rw [ht]; rfl), e']
  rw [← dropFlight_modFlight (f s) c q word (fun y => { y with got := y.got ++ [[]] }) (fun _ => rfl)]
  rfl

/-- An instruction in flight that acts and presents its last accesses. -/
theorem act_presents {s : State} {c : CoreId} {q : SeqId} {word rsv : Word128} {ev : List EccEvent} {pl : Plan}
    {script : State → InFlight → Phase} {y : InFlight} {f : State → State} {l : List Access} (h : s.Landed c q word y)
    (e : script s y = .act f) (hf : SameInfl s (f s)) (e' : ∀ t, script t { y with got := y.got ++ [[]] } = .access l)
    (e'' : ∀ t g, script t { y with got := y.got ++ [[]] ++ [g], todo := [] } = .finish id) :
    engineInstr s c q word rsv ev pl script = presents (modFlight (f s) c q word fun y => { y with got := y.got ++ [[]] }) c q word ev l id := by
  refine (engineInstr_landed h).trans ((carry_act (n := 4095) h e).trans ?_)
  exact carry_presents_plain (n := 4093) (act_landed h hf) h.2.2 (e' _) e''

/-- An instruction in flight that acts and then waits. -/
theorem act_hold {s : State} {c : CoreId} {q : SeqId} {word rsv : Word128} {ev : List EccEvent} {pl : Plan}
    {script : State → InFlight → Phase} {y : InFlight} {f : State → State} (h : s.Landed c q word y)
    (e : script s y = .act f) (hf : SameInfl s (f s)) (e' : script (modFlight (f s) c q word fun y => { y with got := y.got ++ [[]] }) { y with got := y.got ++ [[]] } = .hold) :
    engineInstr s c q word rsv ev pl script = modFlight (f s) c q word fun y => { y with got := y.got ++ [[]] } := by
  refine (engineInstr_landed h).trans ((carry_act (n := 4095) h e).trans ?_)
  rw [carry]
  have ht : InFlight.todo { y with got := y.got ++ [[]] } = [] := h.2.2
  simp only [act_landed h hf]
  rw [if_pos (by rw [ht]; rfl), e']
/-- An instruction in flight that acts, passes an empty phase and completes. -/
theorem act_act_finish {s : State} {c : CoreId} {q : SeqId} {word rsv : Word128} {ev : List EccEvent} {pl : Plan}
    {script : State → InFlight → Phase} {y : InFlight} {f : State → State} (h : s.Landed c q word y)
    (e : script s y = .act f) (hf : SameInfl s (f s)) (e' : ∀ t, script t { y with got := y.got ++ [[]] } = .act id)
    (e'' : ∀ t, script t { y with got := y.got ++ [[]] ++ [[]] } = .finish id) :
    engineInstr s c q word rsv ev pl script = dropFlight (f s) c q word := by
  refine (engineInstr_landed h).trans ((carry_act (n := 4095) h e).trans ?_)
  have ht : InFlight.todo { y with got := y.got ++ [[]] } = [] := h.2.2
  have ht' : InFlight.todo { y with got := y.got ++ [[]] ++ [[]] } = [] := h.2.2
  rw [carry]
  simp only [act_landed h hf]
  rw [if_pos (by rw [ht]; rfl), e']
  dsimp only
  rw [carry]
  simp only [id, flightOf_modFlight (f := fun y => { y with got := y.got ++ [[]] }) (fun _ => rfl) (act_landed h hf)]
  rw [if_pos (by rw [ht']; rfl), e'']
  dsimp only
  rw [← dropFlight_modFlight (f s) c q word (fun y => { y with got := y.got ++ [[]] }) (fun _ => rfl)]
  exact dropFlight_modFlight _ c q word (fun y => { y with got := y.got ++ [[]] }) (fun _ => rfl)
end Sys2Proof.Machine
end

