-- ==== Sys2Proof/Laws/Memory.lean ====
section
/-!
SUPPORT. The sparse containers: every operation on memory, tags and poison keeps the one canonical form, a read after a write
gives what was written, and a write leaves every other place alone.
-/
namespace Sys2Proof.Machine

/-- A sparse array canonical from hi on is canonical from every lower index on. -/
theorem smapWfFrom_mono {α : Type} [DecidableEq α] {d : α} {lo hi : Nat} (h : lo ≤ hi) :
    ∀ {m : SMap α}, smapWfFrom d hi m = true → smapWfFrom d lo m = true
  | [], _ => rfl
  | (k, v) :: t, w => by
    simp only [smapWfFrom, Bool.and_eq_true, decide_eq_true_eq] at w ⊢
    exact ⟨⟨Nat.le_trans h w.1.1, w.1.2⟩, w.2⟩

/-- Setting an entry keeps the canonical form. -/
theorem smapSet_wfFrom {α : Type} [DecidableEq α] {d : α} {i : Nat} {x : α} :
    ∀ {m : SMap α} {lo : Nat}, lo ≤ i → smapWfFrom d lo m = true → smapWfFrom d lo (smapSet d m i x) = true
  | [], lo, hi, _ => by
    simp only [smapSet]
    split <;> simp [smapWfFrom, *]
  | (k, v) :: t, lo, hi, w => by
    simp only [smapWfFrom, Bool.and_eq_true, decide_eq_true_eq] at w
    simp only [smapSet]
    split
    · split
      · simp [smapWfFrom, w]
      · rename_i h1 h2
        simp [smapWfFrom, h2, hi, w]
        omega
    · split
      · rename_i h1 h2
        subst h2
        split
        · exact smapWfFrom_mono (by omega) w.2
        · rename_i h3
          simp [smapWfFrom, h3, hi, w]
      · rename_i h1 h2
        simp only [smapWfFrom, Bool.and_eq_true, decide_eq_true_eq]
        exact ⟨w.1, smapSet_wfFrom (by omega) w.2⟩

/-- Setting an entry keeps the canonical form. -/
theorem smapSet_wf {α : Type} [DecidableEq α] {d : α} {m : SMap α} (i : Nat) (x : α) (h : smapWf d m = true) :
    smapWf d (smapSet d m i x) = true := smapSet_wfFrom (Nat.zero_le i) h

/-- An entry just set. -/
theorem smapGet_smapSet_same {α : Type} [DecidableEq α] {d : α} {i : Nat} {x : α} :
    ∀ {m : SMap α} {lo : Nat}, smapWfFrom d lo m = true → smapGet d (smapSet d m i x) i = x
  | [], lo, _ => by
    simp only [smapSet]
    split <;> simp_all [smapGet]
  | (k, v) :: t, lo, w => by
    simp only [smapWfFrom, Bool.and_eq_true, decide_eq_true_eq] at w
    have absent : ∀ {u : SMap α} {b : Nat}, i < b → smapWfFrom d b u = true → smapGet d u i = d := by
      intro u
      induction u with
      | nil => intros; rfl
      | cons a u ih =>
        intro b hb hw
        simp only [smapWfFrom, Bool.and_eq_true, decide_eq_true_eq] at hw
        have hk : ¬ a.1 = i := by omega
        simp only [smapGet, hk, if_false]
        exact ih (by omega) hw.2
    simp only [smapSet]
    split
    · split
      · rename_i h1 h2
        have hk : ¬ k = i := by omega
        simp only [smapGet, hk, if_false, h2]
        exact absent (by omega) w.2
      · simp [smapGet]
    · split
      · rename_i h1 h2
        split
        · rename_i h3
          rw [h3]
          exact absent (by omega) w.2
        · simp [smapGet]
      · rename_i h1 h2
        have hk : ¬ k = i := fun e => h2 e.symm
        simp only [smapGet, hk, if_false]
        exact smapGet_smapSet_same w.2

/-- Another entry. -/
theorem smapGet_smapSet_other {α : Type} [DecidableEq α] {d : α} {i j : Nat} {x : α} (h : i ≠ j) :
    ∀ {m : SMap α}, smapGet d (smapSet d m i x) j = smapGet d m j
  | [] => by
    simp only [smapSet]
    split <;> simp [smapGet, h]
  | (k, v) :: t => by
    simp only [smapSet]
    split
    · split <;> simp [smapGet, h]
    · split
      · rename_i h1 h2
        subst h2
        split <;> simp [smapGet, h]
      · simp only [smapGet]
        split
        · rfl
        · exact smapGet_smapSet_other h

/-- Writing a byte keeps memory canonical. -/
theorem memSet_wf {m : List Host.Cell} (a : Nat) (b : Byte) (h : Memory.wf m = true) : Memory.wf (memSet m a b) = true :=
  smapSet_wf a b h

/-- Writing a byte string keeps memory canonical. -/
theorem memWrite_wf : ∀ {l : List Byte} {m : List Host.Cell} {a : Nat}, Memory.wf m = true → Memory.wf (memWrite m a l) = true
  | [], _, _, h => h
  | b :: _, _, a, h => by
    rw [memWrite]
    exact memWrite_wf (memSet_wf a b h)

/-- A byte outside the bytes written reads as before. -/
theorem memGet_memWrite_other {x : Nat} : ∀ {l : List Byte} {m : List Host.Cell} {a : Nat}, x < a ∨ a + l.length ≤ x →
    memGet (memWrite m a l) x = memGet m x
  | [], _, _, _ => rfl
  | b :: t, m, a, h => by
    have h1 : a ≠ x := by simp only [List.length_cons] at h; omega
    have h2 : x < a + 1 ∨ a + 1 + t.length ≤ x := by simp only [List.length_cons] at h; omega
    rw [memWrite, memGet_memWrite_other h2]
    exact smapGet_smapSet_other h1

/-- A byte written reads as written. -/
theorem memGet_memWrite_same : ∀ {l : List Byte} {m : List Host.Cell} {a : Nat} (i : Nat) (h : i < l.length),
    Memory.wf m = true → memGet (memWrite m a l) (a + i) = l[i]
  | b :: t, m, a, 0, h, w => by
    show memGet (memWrite (memSet m a b) (a + 1) t) a = b
    rw [memGet_memWrite_other (Or.inl (Nat.lt_succ_self a))]
    exact smapGet_smapSet_same w
  | b :: t, m, a, i + 1, h, w => by
    have e : a + (i + 1) = a + 1 + i := by omega
    rw [memWrite, e, memGet_memWrite_same i (by simpa using h) (memSet_wf a b w)]
    rfl

/-- Dropping entries keeps the canonical form. -/
theorem filter_wfFrom {α : Type} [DecidableEq α] {d : α} (f : Nat × α → Bool) :
    ∀ {m : SMap α} {lo : Nat}, smapWfFrom d lo m = true → smapWfFrom d lo (m.filter f) = true
  | [], _, _ => rfl
  | (k, v) :: t, lo, w => by
    simp only [smapWfFrom, Bool.and_eq_true, decide_eq_true_eq] at w
    rw [List.filter_cons]
    split
    · simp only [smapWfFrom, Bool.and_eq_true, decide_eq_true_eq]
      exact ⟨w.1, filter_wfFrom f w.2⟩
    · exact smapWfFrom_mono (by omega) (filter_wfFrom f w.2)

/-- A byte after the bytes of some addresses were dropped: zero at those, as before at the others. -/
theorem memGet_filter (p : Nat → Bool) (x : Nat) : ∀ m : List Host.Cell,
    memGet (m.filter fun c => p c.1) x = if p x then memGet m x else 0
  | [] => by simp [memGet, smapGet]
  | (k, v) :: t => by
    have ih := memGet_filter p x t
    unfold memGet at *
    by_cases hk : k = x
    · subst hk
      by_cases hp : p k = true
      · simp [hp, smapGet]
      · simp [hp] at ih ⊢
        exact ih
    · by_cases hp : p k = true
      · simp only [List.filter_cons, hp, if_true, smapGet, hk, if_false]
        simpa [hp] using ih
      · simp only [List.filter_cons, hp, if_false, smapGet, hk, Bool.false_eq_true]
        simpa [hp] using ih

/-- A byte after a range was erased. -/
theorem memGet_memErase (m : List Host.Cell) (a n x : Nat) :
    memGet (memErase m a n) x = if x < a ∨ a + n ≤ x then memGet m x else 0 := by
  unfold memErase
  rw [memGet_filter (fun k => decide (k < a) || decide (a + n ≤ k))]
  simp

/-- Erasing a range keeps memory canonical. -/
theorem memErase_wf {m : List Host.Cell} (a n : Nat) (h : Memory.wf m = true) : Memory.wf (memErase m a n) = true :=
  filter_wfFrom _ h

/-- A set in order from hi on is in order from every lower number on. -/
theorem setWfFrom_mono {lo hi : Nat} (h : lo ≤ hi) : ∀ {l : List Nat}, setWfFrom hi l = true → setWfFrom lo l = true
  | [], _ => rfl
  | k :: t, w => by
    simp only [setWfFrom, Bool.and_eq_true, decide_eq_true_eq] at w ⊢
    exact ⟨Nat.le_trans h w.1, w.2⟩

/-- Adding a number keeps the order. -/
theorem setAdd_wfFrom {n : Nat} : ∀ {l : List Nat} {lo : Nat}, lo ≤ n → setWfFrom lo l = true → setWfFrom lo (setAdd l n) = true
  | [], lo, h, _ => by simp [setAdd, setWfFrom, h]
  | k :: t, lo, h, w => by
    simp only [setWfFrom, Bool.and_eq_true, decide_eq_true_eq] at w
    simp only [setAdd]
    split
    · simp only [setWfFrom, Bool.and_eq_true, decide_eq_true_eq]
      exact ⟨h, by omega, w.2⟩
    · split
      · simp only [setWfFrom, Bool.and_eq_true, decide_eq_true_eq]
        exact w
      · simp only [setWfFrom, Bool.and_eq_true, decide_eq_true_eq]
        exact ⟨w.1, setAdd_wfFrom (by omega) w.2⟩

/-- Removing a number keeps the order. -/
theorem setDel_wfFrom {n : Nat} : ∀ {l : List Nat} {lo : Nat}, setWfFrom lo l = true → setWfFrom lo (setDel l n) = true
  | [], _, _ => rfl
  | k :: t, lo, w => by
    simp only [setWfFrom, Bool.and_eq_true, decide_eq_true_eq] at w
    simp only [setDel]
    split
    · exact setWfFrom_mono (by omega) w.2
    · simp only [setWfFrom, Bool.and_eq_true, decide_eq_true_eq]
      exact ⟨w.1, setDel_wfFrom w.2⟩

/-- Putting a number in or out keeps a set canonical. -/
theorem setPut_wf {l : List Nat} (n : Nat) (b : Bool) (h : setWf l = true) : setWf (setPut l n b) = true := by
  unfold setPut
  split
  · exact setAdd_wfFrom (Nat.zero_le n) h
  · exact setDel_wfFrom h

/-- Filtering keeps a set canonical. -/
theorem setFilter_wfFrom (f : Nat → Bool) : ∀ {l : List Nat} {lo : Nat}, setWfFrom lo l = true → setWfFrom lo (l.filter f) = true
  | [], _, _ => rfl
  | k :: t, lo, w => by
    simp only [setWfFrom, Bool.and_eq_true, decide_eq_true_eq] at w
    rw [List.filter_cons]
    split
    · simp only [setWfFrom, Bool.and_eq_true, decide_eq_true_eq]
      exact ⟨w.1, setFilter_wfFrom f w.2⟩
    · exact setWfFrom_mono (by omega) (setFilter_wfFrom f w.2)

/-- Erasing a range keeps a set canonical. -/
theorem setErase_wf {l : List Nat} (a n : Nat) (h : setWf l = true) : setWf (setErase l a n) = true := setFilter_wfFrom _ h

/-- Membership after a number was put in or out. -/
theorem mem_setAdd {n x : Nat} : ∀ {l : List Nat}, x ∈ setAdd l n ↔ x = n ∨ x ∈ l
  | [] => by simp [setAdd]
  | k :: t => by
    simp only [setAdd]
    split
    · simp
    · split
      · rename_i h
        subst h
        simp
      · simp only [List.mem_cons, mem_setAdd]
        constructor
        · rintro (h | h | h) <;> simp [h]
        · rintro (h | h | h) <;> simp [h]

end Sys2Proof.Machine
end

