-- ==== Sys2Proof/Laws/Kept.lean ====
section
/-!
SUPPORT. What every operation keeps: the queue of waiting commands, and the invariant State.Sound. Here are the relation and
the lemmas for the plainest updates; the files Kept… say once for each operation of the model that it keeps both.
-/
namespace Sys2Proof.Machine

/-- The state holds the queue p, and it is sound. -/
def Kept (pq : List Instr) (s : State) : Prop := s.pending = pq ∧ s.Sound

/-- A next state holds the queue p, and it is sound. -/
def NextKept (pq : List Instr) (o : Out) : Prop := ∀ t, o = .next t → Kept pq t

theorem NextKept.next {pq : List Instr} {t : State} (h : Kept pq t) : NextKept pq (.next t) := by
  intro u e
  cases e
  exact h

theorem NextKept.fault {pq : List Instr} (f : Fault) : NextKept pq (.fault f) := by
  intro u e
  cases e

theorem NextKept.choice {pq : List Instr} {c : Prop} [Decidable c] {a b : Out} (ha : NextKept pq a) (hb : NextKept pq b) :
    NextKept pq (if c then a else b) := by
  split
  · exact ha
  · exact hb

/-- A state that differs from a kept one in nothing that Kept speaks of. -/
theorem Kept.same {pq : List Instr} {b t : State} (e : t.pending = b.pending) (h : Kept pq b) (h1 : t.mem = b.mem)
    (h2 : t.full = b.full) (h3 : t.poison = b.poison) (h4 : t.reg.ring = b.reg.ring) (h5 : t.reg.journal = b.reg.journal)
    (h6 : t.reg.jobs.length ≤ b.reg.jobs.length) (h7 : t.reg.devState = b.reg.devState)
    (h8 : t.reg.ownerState = b.reg.ownerState) (h9 : t.flash.field = b.flash.field) : Kept pq t := by
  obtain ⟨hp, ⟨hc1, hc2, hc3⟩, ⟨hb1, hb2, hb3, hb4⟩, hm1, hm2⟩ := h
  refine ⟨e.trans hp, ⟨?_, ?_, ?_⟩, ⟨?_, ?_, Nat.le_trans h6 hb3, ?_⟩, ?_, ?_⟩
  · rw [h1]; exact hc1
  · rw [h2]; exact hc2
  · rw [h3]; exact hc3
  · rw [h4]; exact hb1
  · rw [h5]; exact hb2
  · rw [h9]; exact hb4
  · rw [h7]; exact hm1
  · rw [h8]; exact hm2

/-- An update, field by field, that leaves memory, tags, poison, the Registrar, the flash and the queue. -/
theorem kept_update {pq : List Instr} {b : State} {x1 x5 x6 x7 x8 x9 x10 x12 x13 x14 x16 x17 x18 x19 x21} :
    Kept pq (State.mk x1 b.mem b.full b.poison x5 x6 x7 x8 x9 x10 b.reg x12 x13 x14 b.flash x16 x17 x18 x19 b.pending x21) ↔
      Kept pq b := Iff.rfl

/-- A choice between kept states. -/
theorem Kept.choice {pq : List Instr} {c : Prop} [Decidable c] {a b : State} (ha : c → Kept pq a) (hb : ¬c → Kept pq b) :
    Kept pq (if c then a else b) := by
  split
  · exact ha ‹_›
  · exact hb ‹_›

/-- A change of the flash that leaves the condition report's field section. -/
theorem modFlash_kept {pq : List Instr} {s : State} {f : Flash → Flash} (h : Kept pq s) (h9 : (f s.flash).field = s.flash.field) :
    Kept pq (modFlash s f) := Kept.same (b := s) rfl h rfl rfl rfl rfl rfl (Nat.le_refl _) rfl rfl h9

/-- Folding an operation that keeps it. -/
theorem Kept.foldl {α : Type} {pq : List Instr} {f : State → α → State} (hf : ∀ s a, Kept pq s → Kept pq (f s a)) :
    ∀ {l : List α} {s : State}, Kept pq s → Kept pq (l.foldl f s)
  | [], _, h => h
  | a :: _, s, h => by
    rw [List.foldl_cons]
    exact Kept.foldl hf (hf s a h)

theorem modCore_kept {pq : List Instr} {s : State} {c : CoreId} {f : CoreState → CoreState} (h : Kept pq s) :
    Kept pq (modCore s c f) := Kept.same rfl h rfl rfl rfl rfl rfl (Nat.le_refl _) rfl rfl rfl

theorem setBytesAt_kept {pq : List Instr} {s : State} {a : Nat} {l : List Byte} (h : Kept pq s) : Kept pq (setBytesAt s a l) :=
  ⟨h.1, ⟨memWrite_wf h.2.1.1, h.2.1.2⟩, h.2.2⟩

theorem setFull_kept {pq : List Instr} {s : State} {n : Nat} {b : Bool} (h : Kept pq s) : Kept pq (setFull s n b) :=
  ⟨h.1, ⟨h.2.1.1, setPut_wf n b h.2.1.2.1, h.2.1.2.2⟩, h.2.2⟩

theorem setPoison_kept {pq : List Instr} {s : State} {n : Nat} {b : Bool} (h : Kept pq s) : Kept pq (setPoison s n b) :=
  ⟨h.1, ⟨h.2.1.1, h.2.1.2.1, setPut_wf n b h.2.1.2.2⟩, h.2.2⟩

theorem putFresh_kept {pq : List Instr} {s : State} {a : Nat} {l : List Byte} (h : Kept pq s) : Kept pq (putFresh s a l) :=
  ⟨h.1, ⟨memWrite_wf h.2.1.1, h.2.1.2.1, setErase_wf _ _ h.2.1.2.2⟩, h.2.2⟩

theorem loseBytes_kept {pq : List Instr} {s : State} {a n : Nat} (h : Kept pq s) : Kept pq (loseBytes s a n) :=
  ⟨h.1, ⟨memErase_wf a n h.2.1.1, setErase_wf _ _ h.2.1.2.1, setErase_wf _ _ h.2.1.2.2⟩, h.2.2⟩

/-- A change of the Registrar that leaves its bounded lists and its modes. -/
theorem modReg_kept {pq : List Instr} {s : State} {f : Registrar → Registrar} (h : Kept pq s)
    (h4 : (f s.reg).ring = s.reg.ring) (h5 : (f s.reg).journal = s.reg.journal)
    (h6 : (f s.reg).jobs.length ≤ s.reg.jobs.length) (h7 : (f s.reg).devState = s.reg.devState)
    (h8 : (f s.reg).ownerState = s.reg.ownerState) : Kept pq (modReg s f) :=
  Kept.same (b := s) rfl h rfl rfl rfl h4 h5 h6 h7 h8 rfl

theorem modJob_kept {pq : List Instr} {s : State} {j : BitVec 6} {f : Job → Job} (h : Kept pq s) : Kept pq (modJob s j f) :=
  modReg_kept h rfl rfl (by simp) rfl rfl

theorem takeFree_kept {pq : List Instr} {s : State} (h : Kept pq s) : Kept pq (takeFree s).2 :=
  Kept.same rfl h rfl rfl rfl rfl rfl (Nat.le_refl _) rfl rfl rfl

end Sys2Proof.Machine
end

