-- ==== Sys2Proof/Laws/KeptOps.lean ====
section
/-!
SUPPORT. What the operations of Machine/Ops.lean keep: the queue and the invariant.
-/
set_option linter.unusedSimpArgs false
namespace Sys2Proof.Machine

theorem modSeq_kept {pq : List Instr} (s : State) (c : CoreId) (q : SeqId) (f : SeqState → SeqState) (h : Kept pq s) : Kept pq (modSeq s c q f) := by
  unfold modSeq
  try dsimp only
  repeat' (first
    | with_reducible assumption
    | with_reducible apply modCore_kept)

theorem modStk_kept {pq : List Instr} (s : State) (c : CoreId) (f : StkState → StkState) (h : Kept pq s) : Kept pq (modStk s c f) := by
  unfold modStk
  try dsimp only
  repeat' (first
    | with_reducible assumption
    | with_reducible apply modCore_kept)

theorem modLast_kept {pq : List Instr} (s : State) (c : CoreId) (l : Fin 4) (f : LastState → LastState) (h : Kept pq s) : Kept pq (modLast s c l f) := by
  unfold modLast
  try dsimp only
  repeat' (first
    | with_reducible assumption
    | with_reducible apply modCore_kept)

theorem modWelt_kept {pq : List Instr} (s : State) (c : CoreId) (w : Fin 2) (f : WeltState → WeltState) (h : Kept pq s) : Kept pq (modWelt s c w f) := by
  unfold modWelt
  try dsimp only
  repeat' (first
    | with_reducible assumption
    | with_reducible apply modCore_kept)

theorem modAwl_kept {pq : List Instr} (s : State) (c : CoreId) (f : AwlState → AwlState) (h : Kept pq s) : Kept pq (modAwl s c f) := by
  unfold modAwl
  try dsimp only
  repeat' (first
    | with_reducible assumption
    | with_reducible apply modCore_kept)

theorem bumpGen_kept {pq : List Instr} (s : State) (h : Kept pq s) : Kept pq (bumpGen s) := by
  unfold bumpGen
  try dsimp only
  repeat' (first
    | with_reducible assumption
    | with_reducible apply modReg_kept
    | with_reducible rfl
    | with_reducible exact Nat.le_refl _)

theorem raiseVec_kept {pq : List Instr} (s : State) (fn : Fin 9) (v : Nat) (h : Kept pq s) : Kept pq (raiseVec s fn v) := by
  unfold raiseVec
  try dsimp only
  repeat' (first
    | with_reducible assumption
    | (with_reducible refine Kept.choice (fun _ => ?_) (fun _ => ?_))
    | (simp only [kept_update]))

theorem noted_kept {pq : List Instr} (s : State) (h : Kept pq s) : Kept pq (noted s) := by
  unfold noted
  try dsimp only
  repeat' (first
    | with_reducible assumption
    | with_reducible apply bumpGen_kept
    | with_reducible apply raiseVec_kept)

theorem lastN_length {α : Type} (n : Nat) (l : List α) : (lastN n l).length ≤ n := by
  simp only [lastN, List.length_drop]
  omega

/-- A change of the Registrar that keeps its bounds. -/
theorem modReg_kept_of {pq : List Instr} {s : State} {f : Registrar → Registrar} (h : Kept pq s)
    (h4 : (f s.reg).ring.length ≤ 4096) (h5 : (f s.reg).journal.length ≤ 256) (h6 : (f s.reg).jobs.length ≤ 8)
    (h7 : (f s.reg).devState.toNat ≤ 3) (h8 : (f s.reg).ownerState.toNat ≤ 2) : Kept pq (modReg s f) :=
  ⟨h.1, h.2.1, ⟨h4, h5, h6, h.2.2.1.2.2.2⟩, h7, h8⟩

theorem writeRecord_kept {pq : List Instr} (s : State) (r : ErrRec) (h : Kept pq s) : Kept pq (writeRecord s r) := by
  unfold writeRecord
  have k : Kept pq (noted (modReg s fun g => { g with
      errNext := g.errNext + 1
      ring := lastN 4096 (g.ring ++ [{ r with
        seq := BitVec.ofNat 64 ((s.reg.bootCount.toNat % 65536) * 2 ^ 48 + s.reg.errNext.toNat), detail := slice r.detail 0 20 }])
      errLost := g.errLost + BitVec.ofNat 32 (match s.reg.ring with
        | h :: _ => if 4096 ≤ s.reg.ring.length ∧ s.reg.acked.toNat ≤ h.seq.toNat then 1 else 0
        | [] => 0)
      journal := if 2 ≤ r.sev.toNat then lastN 256 (g.journal ++ [{ r with
        seq := BitVec.ofNat 64 ((s.reg.bootCount.toNat % 65536) * 2 ^ 48 + s.reg.errNext.toNat), detail := slice r.detail 0 20 }])
        else g.journal })) := by
    refine noted_kept _ (modReg_kept_of h ?_ ?_ h.2.2.1.2.2.1 h.2.2.2.1 h.2.2.2.2)
    · dsimp only
      exact lastN_length _ _
    · dsimp only
      split
      · exact lastN_length _ _
      · exact h.2.2.1.2.1
  dsimp only
  split
  · split
    · exact raiseVec_kept _ _ _ k
    · exact k
  · exact k

theorem dropRestore_kept {pq : List Instr} (s : State) (hit : SnapCfg → Bool) (st : BitVec 16) (h : Kept pq s) : Kept pq (dropRestore s hit st) := by
  unfold dropRestore
  try dsimp only
  repeat' (first
    | with_reducible assumption
    | with_reducible apply modReg_kept
    | with_reducible rfl
    | with_reducible exact Nat.le_refl _
    | (with_reducible refine Kept.foldl (fun _ _ _ => ?_) ?_)
    | (simp only [kept_update])
    | split)

theorem stopSnaps_kept {pq : List Instr} (s : State) (id : BitVec 6) (h : Kept pq s) : Kept pq (stopSnaps s id) := by
  unfold stopSnaps
  try dsimp only
  repeat' (first
    | with_reducible assumption
    | with_reducible apply dropRestore_kept
    | (simp only [kept_update]))

theorem killJob_kept {pq : List Instr} (s : State) (id : BitVec 6) (code : BitVec 16) (op : BitVec 16) (unit : Nat × Nat × Nat)     (q : Option SeqState) (h : Kept pq s) : Kept pq (killJob s id code op unit q) := by
  unfold killJob
  try dsimp only
  repeat' (first
    | with_reducible assumption
    | with_reducible apply modCore_kept
    | with_reducible apply modJob_kept
    | with_reducible apply writeRecord_kept
    | with_reducible apply stopSnaps_kept
    | (with_reducible refine Kept.foldl (fun _ _ _ => ?_) ?_)
    | (with_reducible refine Kept.choice (fun _ => ?_) (fun _ => ?_))
    | split)

theorem faultRecords_kept {pq : List Instr} (s : State) (c : CoreId) (q : SeqId) (opc : BitVec 8) (code : BitVec 16) (h : Kept pq s) : Kept pq (faultRecords s c q opc code) := by
  unfold faultRecords
  try dsimp only
  repeat' (first
    | with_reducible assumption
    | with_reducible apply writeRecord_kept
    | with_reducible apply killJob_kept
    | split)

theorem seqFault_kept {pq : List Instr} (s : State) (c : CoreId) (q : SeqId) (opc : BitVec 8) (code : BitVec 8) (h : Kept pq s) : Kept pq (seqFault s c q opc code) := by
  unfold seqFault
  try dsimp only
  repeat' (first
    | with_reducible assumption
    | with_reducible apply modCore_kept
    | with_reducible apply modSeq_kept
    | with_reducible apply faultRecords_kept)

theorem condWrite_kept {pq : List Instr} (s : State) (x : CondEntry) (h : Kept pq s) : Kept pq (condWrite s x) := by
  unfold condWrite
  dsimp only
  generalize (if 4096 < _ then dropReplaced _ else _) = f
  split
  · exact writeRecord_kept _ _ h
  · rename_i hf
    exact ⟨h.1, h.2.1, ⟨h.2.2.1.1, h.2.2.1.2.1, h.2.2.1.2.2.1, by simpa using hf⟩, h.2.2.2⟩

theorem condAppend_kept {pq : List Instr} (s : State) (unit : BitVec 32) (action reason : BitVec 8) (arg : BitVec 16) (arg2 : BitVec 32) (h : Kept pq s) : Kept pq (condAppend s unit action reason arg arg2) := by
  unfold condAppend
  try dsimp only
  repeat' (first
    | with_reducible assumption
    | with_reducible apply condWrite_kept)

theorem setNode_kept {pq : List Instr} (s : State) (n : Fin 15) (st : BitVec 2) (h : Kept pq s) : Kept pq (setNode s n st) := by
  unfold setNode
  try dsimp only
  repeat' (first
    | with_reducible assumption
    | (simp only [kept_update]))

theorem forwardOnly_kept {pq : List Instr} (s : State) (c : CoreId) (h : Kept pq s) : Kept pq (forwardOnly s c) := by
  unfold forwardOnly
  try dsimp only
  repeat' (first
    | with_reducible assumption
    | with_reducible apply setNode_kept
    | (with_reducible refine Kept.choice (fun _ => ?_) (fun _ => ?_)))

theorem loseCore_kept {pq : List Instr} (s : State) (c : CoreId) (h : Kept pq s) : Kept pq (loseCore s c) := by
  unfold loseCore
  try dsimp only
  repeat' (first
    | with_reducible assumption
    | with_reducible apply modCore_kept
    | with_reducible apply noted_kept
    | with_reducible apply killJob_kept
    | with_reducible apply forwardOnly_kept
    | (with_reducible refine Kept.choice (fun _ => ?_) (fun _ => ?_))
    | (simp only [kept_update])
    | split)

theorem idleTick_kept {pq : List Instr} (s : State) (h : Kept pq s) : Kept pq (idleTick s) := by
  unfold idleTick
  try dsimp only
  repeat' (first
    | with_reducible assumption
    | with_reducible apply modReg_kept
    | with_reducible rfl
    | with_reducible exact Nat.le_refl _
    | (with_reducible refine Kept.choice (fun _ => ?_) (fun _ => ?_))
    | (simp only [kept_update]))

end Sys2Proof.Machine
end

