-- ==== Sys2Proof/Laws/KeptMesh.lean ====
section
/-!
SUPPORT. What the operations of Machine/Mesh.lean keep: the queue and the invariant.
-/
set_option linter.unusedSimpArgs false
namespace Sys2Proof.Machine

theorem rewriteDist_kept {pq : List Instr} (s : State) (route : Bool) (h : Kept pq s) : Kept pq (rewriteDist s route) := by
  unfold rewriteDist
  try dsimp only
  repeat' (first
    | with_reducible assumption
    | (with_reducible refine Kept.choice (fun _ => ?_) (fun _ => ?_))
    | (simp only [kept_update]))

theorem routeChange_kept {pq : List Instr} (s : State) (node link : Nat) (h : Kept pq s) : Kept pq (routeChange s node link) := by
  unfold routeChange
  try dsimp only
  repeat' (first
    | with_reducible assumption
    | with_reducible apply writeRecord_kept
    | with_reducible apply rewriteDist_kept
    | (with_reducible refine Kept.choice (fun _ => ?_) (fun _ => ?_)))

end Sys2Proof.Machine
end

