-- ==== Sys2Proof/Laws/KeptAccess.lean ====
section
/-!
SUPPORT. What the operations of Machine/Access.lean keep: the queue and the invariant.
-/
set_option linter.unusedSimpArgs false
namespace Sys2Proof.Machine

theorem markRepair_kept {pq : List Instr} (s : State) (c : CoreId) (sa bank : Nat) (h : Kept pq s) : Kept pq (markRepair s c sa bank) := by
  unfold markRepair
  try dsimp only
  repeat' (first
    | with_reducible assumption
    | with_reducible apply modStk_kept
    | with_reducible apply writeRecord_kept
    | (with_reducible refine Kept.choice (fun _ => ?_) (fun _ => ?_)))

theorem stkError_kept {pq : List Instr} (s : State) (c : CoreId) (sa : Nat) (ue patrol : Bool) (h : Kept pq s) : Kept pq (stkError s c sa ue patrol) := by
  unfold stkError
  try dsimp only
  repeat' (first
    | with_reducible assumption
    | with_reducible apply modStk_kept
    | with_reducible apply bumpGen_kept
    | with_reducible apply writeRecord_kept
    | with_reducible apply setPoison_kept
    | with_reducible apply markRepair_kept
    | (with_reducible refine Kept.choice (fun _ => ?_) (fun _ => ?_)))

theorem putSlot_kept {pq : List Instr} (s : State) (a : Nat) (data : List Byte) (poison : Bool) (h : Kept pq s) : Kept pq (putSlot s a data poison) := by
  unfold putSlot
  try dsimp only
  repeat' (first
    | with_reducible assumption
    | with_reducible apply setPoison_kept
    | with_reducible apply setBytesAt_kept)

theorem noteFull_kept {pq : List Instr} (s : State) (c : CoreId) (slot : Nat) (h : Kept pq s) : Kept pq (noteFull s c slot) := by
  unfold noteFull
  try dsimp only
  repeat' (first
    | with_reducible assumption
    | with_reducible apply modStk_kept)

theorem stkPut_kept {pq : List Instr} (s : State) (c : CoreId) (sa lo : Nat) (data : List Byte) (poison : Bool) (h : Kept pq s) : Kept pq (stkPut s c sa lo data poison) := by
  unfold stkPut
  try dsimp only
  repeat' (first
    | with_reducible assumption
    | with_reducible apply putSlot_kept
    | with_reducible apply noteFull_kept
    | (with_reducible refine Kept.choice (fun _ => ?_) (fun _ => ?_)))

theorem modCarrel_kept {pq : List Instr} (s : State) (c : CoreId) (i : Fin 64) (f : Carrel → Carrel) (h : Kept pq s) : Kept pq (modCarrel s c i f) := by
  unfold modCarrel
  try dsimp only
  repeat' (first
    | with_reducible assumption
    | with_reducible apply modStk_kept)

theorem countConsumed_kept {pq : List Instr} (s : State) (c : CoreId) (sa : Nat) (tm : BitVec 2) (h : Kept pq s) : Kept pq (countConsumed s c sa tm) := by
  unfold countConsumed
  try dsimp only
  repeat' (first
    | with_reducible assumption
    | with_reducible apply modCarrel_kept
    | (with_reducible refine Kept.choice (fun _ => ?_) (fun _ => ?_))
    | split)

theorem eccRead_kept {pq : List Instr} (s : State) (c : CoreId) (sa : Nat) (e : Ecc) (patrol : Bool) (h : Kept pq s) : Kept pq (eccRead s c sa e patrol) := by
  unfold eccRead
  try dsimp only
  repeat' (first
    | with_reducible assumption
    | with_reducible apply stkError_kept
    | split)

theorem execLocal_kept {pq : List Instr} (s : State) (c : CoreId) (a : Access) (e : Ecc) (h : Kept pq s) : Kept pq (execLocal s c a e).1 := by
  unfold execLocal
  try dsimp only
  repeat' (first
    | with_reducible assumption
    | with_reducible apply setFull_kept
    | with_reducible apply stkPut_kept
    | with_reducible apply countConsumed_kept
    | with_reducible apply eccRead_kept
    | split)

theorem noteWaiters_kept {pq : List Instr} (s : State) (c : CoreId) (n : Nat) (bp : Bool) (h : Kept pq s) : Kept pq (noteWaiters s c n bp) := by
  unfold noteWaiters
  try dsimp only
  repeat' (first
    | with_reducible assumption
    | with_reducible apply modStk_kept)

theorem parkLocal_kept {pq : List Instr} (s : State) (c : CoreId) (others : List Access) (a : Access) (h : Kept pq s) : Kept pq (parkLocal s c others a).1 := by
  unfold parkLocal
  try dsimp only
  repeat' (first
    | with_reducible assumption
    | with_reducible apply noteWaiters_kept
    | split)

theorem sendFlit_kept {pq : List Instr} (s : State) (f : Flit) (h : Kept pq s) : Kept pq (sendFlit s f) := by
  unfold sendFlit
  try dsimp only
  repeat' (first
    | with_reducible assumption
    | (simp only [kept_update]))

theorem sendRemote_kept {pq : List Instr} (s : State) (c d : CoreId) (q : SeqId) (a : Access) (h : Kept pq s) : Kept pq (sendRemote s c d q a).1 := by
  unfold sendRemote
  try dsimp only
  repeat' (first
    | with_reducible assumption
    | with_reducible apply modCore_kept
    | with_reducible apply modSeq_kept
    | with_reducible apply sendFlit_kept
    | split)

theorem queueMem_kept {pq : List Instr} (s : State) (r : MemReq) (h : Kept pq s) : Kept pq (queueMem s r) := by
  unfold queueMem
  try dsimp only
  repeat' (first
    | with_reducible assumption
    | (simp only [kept_update]))

theorem sendMem_kept {pq : List Instr} (s : State) (c : CoreId) (q : SeqId) (a : Access) (h : Kept pq s) : Kept pq (sendMem s c q a).1 := by
  unfold sendMem
  try dsimp only
  repeat' (first
    | with_reducible assumption
    | with_reducible apply queueMem_kept
    | split)

theorem tryAccess_kept {pq : List Instr} (s : State) (c : CoreId) (q : SeqId) (ev : List EccEvent) (earlier later : List Access) (a : Access) (h : Kept pq s) : Kept pq (tryAccess s c q ev earlier later a).1 := by
  unfold tryAccess
  try dsimp only
  repeat' (first
    | with_reducible assumption
    | with_reducible apply execLocal_kept
    | with_reducible apply parkLocal_kept
    | with_reducible apply sendRemote_kept
    | with_reducible apply sendMem_kept
    | split)

theorem Kept.of_fst {pq : List Instr} {α : Type} {x : State × α} {t : State} {y : α} (e : x = (t, y)) (h : Kept pq x.1) :
    Kept pq t := by
  subst e
  exact h

theorem Kept.of_snd {pq : List Instr} {α : Type} {x : α × State} {t : State} {y : α} (e : x = (y, t)) (h : Kept pq x.2) :
    Kept pq t := by
  subst e
  exact h

theorem tryAll_kept {pq : List Instr} {c : CoreId} {q : SeqId} {ev : List EccEvent} : ∀ {l earlier : List Access} {s : State},
    Kept pq s → Kept pq (tryAll c q ev earlier s l).1
  | [], _, _, h => h
  | a :: t, earlier, s, h => by
    have k := tryAccess_kept s c q ev earlier t a h
    unfold tryAll
    split
    · exact tryAll_kept (Kept.of_fst ‹_› k)
    · exact Kept.of_fst ‹_› k

end Sys2Proof.Machine
end

