-- ==== Sys2Proof/Laws/KeptEngine.lean ====
section
/-!
SUPPORT. What the operations of Machine/Engine.lean keep: the queue and the invariant.
-/
set_option linter.unusedSimpArgs false
namespace Sys2Proof.Machine

theorem setSt_kept {pq : List Instr} (s : State) (c : CoreId) (q : SeqId) (st : SqState) (h : Kept pq s) : Kept pq (setSt s c q st) := by
  unfold setSt
  try dsimp only
  repeat' (first
    | with_reducible assumption
    | with_reducible apply modSeq_kept)

theorem goOn_kept {pq : List Instr} (s : State) (c : CoreId) (q : SeqId) (opc : BitVec 8) (n : Nat) (h : Kept pq s) : Kept pq (goOn s c q opc n) := by
  unfold goOn
  try dsimp only
  repeat' (first
    | with_reducible assumption
    | with_reducible apply modSeq_kept
    | with_reducible apply seqFault_kept
    | (with_reducible refine Kept.choice (fun _ => ?_) (fun _ => ?_)))

theorem advance_kept {pq : List Instr} (s : State) (c : CoreId) (q : SeqId) (opc : BitVec 8) (h : Kept pq s) : Kept pq (advance s c q opc) := by
  unfold advance
  try dsimp only
  repeat' (first
    | with_reducible assumption
    | with_reducible apply goOn_kept)

theorem issued_kept {pq : List Instr} (s : State) (c : CoreId) (q : SeqId) (opc : BitVec 8) (h : Kept pq s) : Kept pq (issued s c q opc) := by
  unfold issued
  try dsimp only
  repeat' (first
    | with_reducible assumption
    | with_reducible apply modSeq_kept)

theorem modFlight_kept {pq : List Instr} (s : State) (c : CoreId) (q : SeqId) (word : Word128) (f : InFlight → InFlight) (h : Kept pq s) : Kept pq (modFlight s c q word f) := by
  unfold modFlight
  try dsimp only
  repeat' (first
    | with_reducible assumption
    | with_reducible apply modSeq_kept)

theorem viewOf_kept {pq : List Instr} (s : State) (c : CoreId) (q : SeqId) (word : Word128) (h : Kept pq s) : Kept pq (viewOf s c q word) := by
  unfold viewOf
  try dsimp only
  repeat' (first
    | with_reducible assumption
    | with_reducible apply modSeq_kept
    | split)

theorem dropFlight_kept {pq : List Instr} (s : State) (c : CoreId) (q : SeqId) (word : Word128) (h : Kept pq s) : Kept pq (dropFlight s c q word) := by
  unfold dropFlight
  try dsimp only
  repeat' (first
    | with_reducible assumption
    | with_reducible apply modSeq_kept)

theorem tryFlight_kept {pq : List Instr} (s : State) (c : CoreId) (q : SeqId) (word : Word128) (ev : List EccEvent) (l : List Access) (h : Kept pq s) : Kept pq (tryFlight s c q word ev l).1 := by
  unfold tryFlight
  try dsimp only
  repeat' (first
    | with_reducible assumption
    | with_reducible apply seqFault_kept
    | with_reducible apply tryAll_kept
    | with_reducible apply modFlight_kept
    | (with_reducible refine Kept.of_fst (by with_reducible assumption) ?_)
    | split)

/-- A phase whose effect keeps the queue and the invariant. -/
def PhaseKept (pq : List Instr) : Phase → Prop
  | .act f => ∀ s, Kept pq s → Kept pq (f s)
  | .finish f => ∀ s, Kept pq s → Kept pq (f s)
  | _ => True

theorem PhaseKept.finish {pq : List Instr} {f : State → State} (h : ∀ s, Kept pq s → Kept pq (f s)) : PhaseKept pq (.finish f) := h

theorem PhaseKept.act {pq : List Instr} {f : State → State} (h : ∀ s, Kept pq s → Kept pq (f s)) : PhaseKept pq (.act f) := h

theorem PhaseKept.access {pq : List Instr} {l : List Access} : PhaseKept pq (.access l) := trivial

theorem PhaseKept.hold {pq : List Instr} : PhaseKept pq .hold := trivial

theorem PhaseKept.fault {pq : List Instr} {code : BitVec 8} : PhaseKept pq (.fault code) := trivial

theorem PhaseKept.choice {pq : List Instr} {c : Prop} [Decidable c] {a b : Phase} (ha : c → PhaseKept pq a)
    (hb : ¬c → PhaseKept pq b) : PhaseKept pq (if c then a else b) := by
  split
  · exact ha ‹_›
  · exact hb ‹_›

theorem carry_kept {pq : List Instr} {c : CoreId} {q : SeqId} {word : Word128} {ev : List EccEvent}
    {script : State → InFlight → Phase} (hs : ∀ s y, PhaseKept pq (script s y)) :
    ∀ {n : Nat} {s : State}, Kept pq s → Kept pq (carry c q word ev script n s)
  | 0, _, h => h
  | n + 1, s, h => by
    unfold carry
    split
    · exact h
    · rename_i y _
      have k := hs s y
      split
      · split
        · rename_i l _
          have t := tryFlight_kept s c q word ev l h
          split
          · exact carry_kept hs (Kept.of_fst ‹_› t)
          · exact Kept.of_fst ‹_› t
        · rename_i f e
          rw [e] at k
          exact carry_kept hs (modFlight_kept _ _ _ _ _ (k s h))
        · rename_i f e
          rw [e] at k
          exact k _ (dropFlight_kept _ _ _ _ h)
        · exact h
        · exact seqFault_kept _ _ _ _ _ h
      · have t := tryFlight_kept s c q word ev y.todo h
        split
        · exact carry_kept hs (Kept.of_fst ‹_› t)
        · exact Kept.of_fst ‹_› t

theorem launch_kept {pq : List Instr} {s : State} {c : CoreId} {q : SeqId} {word : Word128} {ev : List EccEvent} {pl : Plan}
    {script : State → InFlight → Phase} (h : Kept pq s) (ha : ∀ s, Kept pq s → Kept pq (pl.atIssue s))
    (hs : ∀ s y, PhaseKept pq (script s y)) : Kept pq (launch s c q word ev pl script) := by
  have k := carry_kept (n := phaseLimit) (c := c) (q := q) (word := word) (ev := ev) hs (modSeq_kept
    (pl.atIssue (issued s c q (opcodeOf word))) c q (fun x =>
    { x with infl := x.infl ++ [{ word := word, view := x.desc, got := [], todo := [], notes := pl.notes }] })
    (ha _ (issued_kept _ _ _ _ h)))
  exact Kept.choice (fun _ => k) (fun _ => advance_kept _ _ _ _ k)

theorem tryIssue_kept {pq : List Instr} {s : State} {c : CoreId} {q : SeqId} {word : Word128} {ev : List EccEvent} {pl : Plan}
    {script : State → InFlight → Phase} (h : Kept pq s) (ha : ∀ s, Kept pq s → Kept pq (pl.atIssue s))
    (hs : ∀ s y, PhaseKept pq (script s y)) : Kept pq (tryIssue s c q word ev pl script) := by
  unfold tryIssue
  dsimp only
  split
  · exact seqFault_kept _ _ _ _ _ h
  · refine Kept.choice (fun _ => setSt_kept _ _ _ _ h) (fun _ => Kept.choice (fun _ => setSt_kept _ _ _ _ h) (fun _ => ?_))
    split
    · exact setSt_kept _ _ _ _ h
    · exact launch_kept h ha hs

theorem offer_kept {pq : List Instr} (s : State) (c : CoreId) (q : SeqId) (word : Word128) (rsv : Word128) (names : List Nat)     (go : State → State) (h : Kept pq s) (h_go : ∀ s, Kept pq s → Kept pq (go s)) : Kept pq (offer s c q word rsv names go) := by
  unfold offer
  try dsimp only
  repeat' (first
    | with_reducible assumption
    | with_reducible apply h_go
    | with_reducible apply seqFault_kept
    | (with_reducible refine Kept.choice (fun _ => ?_) (fun _ => ?_)))

theorem engineInstr_kept {pq : List Instr} {s : State} {c : CoreId} {q : SeqId} {word rsv : Word128} {ev : List EccEvent}
    {pl : Plan} {script : State → InFlight → Phase} (h : Kept pq s) (ha : ∀ s, Kept pq s → Kept pq (pl.atIssue s))
    (hs : ∀ s y, PhaseKept pq (script s y)) : Kept pq (engineInstr s c q word rsv ev pl script) :=
  Kept.choice (fun _ => Kept.choice (fun _ => carry_kept hs h) (fun _ => h))
    (fun _ => offer_kept _ _ _ _ _ _ _ h (fun _ k => tryIssue_kept k ha hs))

theorem controlInstr_kept {pq : List Instr} (s : State) (c : CoreId) (q : SeqId) (word : Word128) (rsv : Word128) (names : List Nat)     (effect : State → State) (h : Kept pq s) (h_effect : ∀ s, Kept pq s → Kept pq (effect s)) : Kept pq (controlInstr s c q word rsv names effect) := by
  unfold controlInstr
  try dsimp only
  repeat' (first
    | with_reducible assumption
    | with_reducible apply offer_kept)

theorem thenAdvance_kept {pq : List Instr} (c : CoreId) (q : SeqId) (opc : BitVec 8) (f : State → State) (s : State) (h : Kept pq s) (h_f : ∀ s, Kept pq s → Kept pq (f s)) : Kept pq (thenAdvance c q opc f s) := by
  unfold thenAdvance
  try dsimp only
  repeat' (first
    | with_reducible assumption
    | with_reducible apply h_f
    | with_reducible apply advance_kept
    | with_reducible apply issued_kept)

end Sys2Proof.Machine
end

