-- ==== Sys2Proof/Laws/KeptSeq.lean ====
section
/-!
SUPPORT. What the operations of Machine/Seq.lean keep: the queue and the invariant.
-/
set_option linter.unusedSimpArgs false
namespace Sys2Proof.Machine

theorem execNop_kept {pq : List Instr} (c : CoreId) (q : SeqId) (w : BitVec 120) (s : State) (h : Kept pq s) : NextKept pq (execNop c q w s) := by
  unfold execNop
  try dsimp only
  repeat' (first
    | with_reducible assumption
    | with_reducible apply NextKept.next
    | with_reducible apply controlInstr_kept
    | with_reducible apply thenAdvance_kept
    | intro _ _
    | (simp only [id_eq]))

theorem haltSeq_kept {pq : List Instr} (s : State) (c : CoreId) (q : SeqId) (code : BitVec 16) (h : Kept pq s) : Kept pq (haltSeq s c q code) := by
  unfold haltSeq
  try dsimp only
  repeat' (first
    | with_reducible assumption
    | with_reducible apply modCore_kept
    | with_reducible apply modSeq_kept
    | with_reducible apply issued_kept)

theorem execHalt_kept {pq : List Instr} (c : CoreId) (q : SeqId) (w : BitVec 120) (s : State) (h : Kept pq s) : NextKept pq (execHalt c q w s) := by
  unfold execHalt
  try dsimp only
  repeat' (first
    | with_reducible assumption
    | with_reducible apply NextKept.next
    | with_reducible apply modCore_kept
    | with_reducible apply faultRecords_kept
    | with_reducible apply controlInstr_kept
    | with_reducible apply haltSeq_kept
    | (with_reducible refine Kept.choice (fun _ => ?_) (fun _ => ?_))
    | intro _ _)

theorem execWait_kept {pq : List Instr} (c : CoreId) (q : SeqId) (w : BitVec 120) (s : State) (h : Kept pq s) : NextKept pq (execWait c q w s) := by
  unfold execWait
  try dsimp only
  repeat' (first
    | with_reducible assumption
    | with_reducible apply NextKept.next
    | with_reducible apply setSt_kept
    | with_reducible apply controlInstr_kept
    | with_reducible apply thenAdvance_kept
    | (with_reducible refine Kept.choice (fun _ => ?_) (fun _ => ?_))
    | intro _ _
    | (simp only [id_eq]))

theorem execLoop_kept {pq : List Instr} (c : CoreId) (q : SeqId) (w : BitVec 120) (s : State) (h : Kept pq s) : NextKept pq (execLoop c q w s) := by
  unfold execLoop
  try dsimp only
  repeat' (first
    | with_reducible assumption
    | with_reducible apply NextKept.next
    | with_reducible apply modSeq_kept
    | with_reducible apply seqFault_kept
    | with_reducible apply goOn_kept
    | with_reducible apply issued_kept
    | with_reducible apply controlInstr_kept
    | (with_reducible refine Kept.choice (fun _ => ?_) (fun _ => ?_))
    | intro _ _)

theorem execJmp_kept {pq : List Instr} (c : CoreId) (q : SeqId) (w : BitVec 120) (s : State) (h : Kept pq s) : NextKept pq (execJmp c q w s) := by
  unfold execJmp
  try dsimp only
  repeat' (first
    | with_reducible assumption
    | with_reducible apply NextKept.next
    | with_reducible apply modSeq_kept
    | with_reducible apply seqFault_kept
    | with_reducible apply issued_kept
    | with_reducible apply controlInstr_kept
    | (with_reducible refine Kept.choice (fun _ => ?_) (fun _ => ?_))
    | intro _ _)

theorem setDesc_kept {pq : List Instr} (s : State) (c : CoreId) (q : SeqId) (i : Nat) (d : Word128) (h : Kept pq s) : Kept pq (setDesc s c q i d) := by
  unfold setDesc
  try dsimp only
  repeat' (first
    | with_reducible assumption
    | with_reducible apply modSeq_kept)

theorem execDadv_kept {pq : List Instr} (c : CoreId) (q : SeqId) (w : BitVec 120) (s : State) (h : Kept pq s) : NextKept pq (execDadv c q w s) := by
  unfold execDadv
  try dsimp only
  repeat' (first
    | with_reducible assumption
    | with_reducible apply NextKept.next
    | with_reducible apply controlInstr_kept
    | with_reducible apply thenAdvance_kept
    | with_reducible apply setDesc_kept
    | intro _ _)

theorem execDload_kept {pq : List Instr} (c : CoreId) (q : SeqId) (w : BitVec 120) (ev : List EccEvent) (s : State) (h : Kept pq s) : NextKept pq (execDload c q w ev s) := by
  unfold execDload
  try dsimp only
  repeat' (first
    | with_reducible assumption
    | with_reducible apply NextKept.next
    | with_reducible apply engineInstr_kept
    | with_reducible apply setDesc_kept
    | (simp only [kept_update])
    | (with_reducible refine PhaseKept.finish (fun _ _ => ?_))
    | with_reducible exact PhaseKept.access
    | with_reducible exact PhaseKept.fault
    | (with_reducible refine PhaseKept.choice (fun _ => ?_) (fun _ => ?_))
    | intro _ _
    | (simp only [id_eq]))

theorem execSwapi_kept {pq : List Instr} (c : CoreId) (q : SeqId) (w : BitVec 120) (s : State) (h : Kept pq s) : NextKept pq (execSwapi c q w s) := by
  unfold execSwapi
  try dsimp only
  repeat' (first
    | with_reducible assumption
    | with_reducible apply NextKept.next
    | with_reducible apply modSeq_kept
    | with_reducible apply setSt_kept
    | with_reducible apply issued_kept
    | with_reducible apply controlInstr_kept
    | (with_reducible refine Kept.choice (fun _ => ?_) (fun _ => ?_))
    | intro _ _)

theorem barrierCheck_kept {pq : List Instr} (s : State) (c : CoreId) (h : Kept pq s) : Kept pq (barrierCheck s c) := by
  unfold barrierCheck
  try dsimp only
  repeat' (first
    | with_reducible assumption
    | with_reducible apply modCore_kept
    | with_reducible apply setSt_kept
    | (with_reducible refine Kept.choice (fun _ => ?_) (fun _ => ?_))
    | split)

theorem ccOnly_kept {pq : List Instr} (s : State) (q : SeqId) (c : CoreId) (opc : BitVec 8) (f : State → State) (h : Kept pq s) (h_f : ∀ s, Kept pq s → Kept pq (f s)) : Kept pq (ccOnly s q c opc f) := by
  unfold ccOnly
  try dsimp only
  repeat' (first
    | with_reducible assumption
    | with_reducible apply h_f
    | with_reducible apply seqFault_kept
    | (with_reducible refine Kept.choice (fun _ => ?_) (fun _ => ?_)))

theorem execBarrier_kept {pq : List Instr} (c : CoreId) (q : SeqId) (w : BitVec 120) (s : State) (h : Kept pq s) : NextKept pq (execBarrier c q w s) := by
  unfold execBarrier
  try dsimp only
  repeat' (first
    | with_reducible assumption
    | with_reducible apply NextKept.next
    | with_reducible apply modCore_kept
    | with_reducible apply seqFault_kept
    | with_reducible apply sendFlit_kept
    | with_reducible apply setSt_kept
    | with_reducible apply advance_kept
    | with_reducible apply issued_kept
    | with_reducible apply controlInstr_kept
    | with_reducible apply barrierCheck_kept
    | with_reducible apply ccOnly_kept
    | (with_reducible refine Kept.foldl (fun _ _ _ => ?_) ?_)
    | (with_reducible refine Kept.choice (fun _ => ?_) (fun _ => ?_))
    | intro _ _)

theorem execFrame_kept {pq : List Instr} (c : CoreId) (q : SeqId) (w : BitVec 120) (s : State) (h : Kept pq s) : NextKept pq (execFrame c q w s) := by
  unfold execFrame
  try dsimp only
  repeat' (first
    | with_reducible assumption
    | with_reducible apply NextKept.next
    | with_reducible apply modCore_kept
    | with_reducible apply controlInstr_kept
    | with_reducible apply thenAdvance_kept
    | with_reducible apply ccOnly_kept
    | intro _ _)

theorem execFrameTakesEffect_kept {pq : List Instr} (c : CoreId) (s : State) (h : Kept pq s) : NextKept pq (execFrameTakesEffect c s) := by
  unfold execFrameTakesEffect
  try dsimp only
  repeat' (first
    | with_reducible assumption
    | with_reducible apply NextKept.next
    | with_reducible apply modCore_kept
    | split)

theorem iloadInto_kept {pq : List Instr} (s : State) (c : CoreId) (t : SeqId) (l : List Byte) (h : Kept pq s) : Kept pq (iloadInto s c t l) := by
  unfold iloadInto
  try dsimp only
  repeat' (first
    | with_reducible assumption
    | with_reducible apply modCore_kept
    | with_reducible apply modSeq_kept
    | (with_reducible refine Kept.choice (fun _ => ?_) (fun _ => ?_)))

theorem execIload_kept {pq : List Instr} (c : CoreId) (q : SeqId) (w : BitVec 120) (ev : List EccEvent) (s : State) (h : Kept pq s) : NextKept pq (execIload c q w ev s) := by
  unfold execIload
  try dsimp only
  repeat' (first
    | with_reducible assumption
    | with_reducible apply NextKept.next
    | with_reducible apply seqFault_kept
    | with_reducible apply engineInstr_kept
    | with_reducible apply controlInstr_kept
    | with_reducible apply iloadInto_kept
    | (with_reducible refine Kept.choice (fun _ => ?_) (fun _ => ?_))
    | (simp only [kept_update])
    | (with_reducible refine PhaseKept.finish (fun _ _ => ?_))
    | with_reducible exact PhaseKept.access
    | with_reducible exact PhaseKept.fault
    | (with_reducible refine PhaseKept.choice (fun _ => ?_) (fun _ => ?_))
    | intro _ _
    | (simp only [id_eq]))

theorem execBarrierTimeout_kept {pq : List Instr} (c : CoreId) (s : State) (h : Kept pq s) : NextKept pq (execBarrierTimeout c s) := by
  unfold execBarrierTimeout
  try dsimp only
  repeat' (first
    | with_reducible assumption
    | with_reducible apply NextKept.next
    | with_reducible apply modCore_kept
    | with_reducible apply seqFault_kept
    | (with_reducible refine Kept.choice (fun _ => ?_) (fun _ => ?_)))

end Sys2Proof.Machine
end

