-- ==== Sys2Proof/Laws/KeptLast.lean ====
section
/-!
SUPPORT. What the operations of Machine/Last.lean keep: the queue and the invariant.
-/
set_option linter.unusedSimpArgs false
namespace Sys2Proof.Machine

theorem execLcfg_kept {pq : List Instr} (c : CoreId) (l : Fin 4) (w : BitVec 120) (s : State) (h : Kept pq s) : NextKept pq (execLcfg c l w s) := by
  unfold execLcfg
  try dsimp only
  repeat' (first
    | with_reducible assumption
    | with_reducible apply NextKept.next
    | with_reducible apply modLast_kept
    | with_reducible apply seqFault_kept
    | with_reducible apply setSt_kept
    | with_reducible apply controlInstr_kept
    | with_reducible apply thenAdvance_kept
    | (with_reducible refine Kept.choice (fun _ => ?_) (fun _ => ?_))
    | intro _ _)

theorem sparseLog_kept {pq : List Instr} (s : State) (c : CoreId) (l : Fin 4) (kind col row index : Nat) (h : Kept pq s) : Kept pq (sparseLog s c l kind col row index) := by
  unfold sparseLog
  try dsimp only
  repeat' (first
    | with_reducible assumption
    | with_reducible apply modLast_kept)

theorem faultNext_kept {pq : List Instr} (s : State) (c : CoreId) (q : SeqId) (code : BitVec 8) (h : Kept pq s) : Kept pq (faultNext s c q code) := by
  unfold faultNext
  try dsimp only
  repeat' (first
    | with_reducible assumption
    | with_reducible apply modSeq_kept)

theorem checkS24_kept {pq : List Instr} (s : State) (c : CoreId) (l : Fin 4) (p : Plane) (h : Kept pq s) : Kept pq (checkS24 s c l p).1 := by
  unfold checkS24
  try dsimp only
  repeat' (first
    | with_reducible assumption
    | with_reducible apply sparseLog_kept
    | with_reducible apply faultNext_kept
    | split)

theorem checkNzb_kept {pq : List Instr} (s : State) (c : CoreId) (l : Fin 4) (p : Plane) (plan : PanelPlan) (h : Kept pq s) : Kept pq (checkNzb s c l p plan).1 := by
  unfold checkNzb
  try dsimp only
  repeat' (first
    | with_reducible assumption
    | with_reducible apply sparseLog_kept
    | with_reducible apply faultNext_kept
    | split)

theorem acceptLoad_kept {pq : List Instr} (s : State) (c : CoreId) (l : Fin 4) (p : Plane) (target : Bool) (h : Kept pq s) : Kept pq (acceptLoad s c l p target) := by
  unfold acceptLoad
  try dsimp only
  repeat' (first
    | with_reducible assumption
    | with_reducible apply modLast_kept)

theorem execLoadw_kept {pq : List Instr} (c : CoreId) (l : Fin 4) (w : BitVec 120) (ev : List EccEvent) (s : State) (h : Kept pq s) : NextKept pq (execLoadw c l w ev s) := by
  unfold execLoadw
  try dsimp only
  repeat' (first
    | with_reducible assumption
    | with_reducible apply NextKept.next
    | with_reducible apply modLast_kept
    | with_reducible apply engineInstr_kept
    | with_reducible apply checkS24_kept
    | with_reducible apply checkNzb_kept
    | with_reducible apply acceptLoad_kept
    | (simp only [kept_update])
    | (with_reducible refine PhaseKept.finish (fun _ _ => ?_))
    | with_reducible exact PhaseKept.access
    | with_reducible exact PhaseKept.hold
    | with_reducible exact PhaseKept.fault
    | (with_reducible refine PhaseKept.choice (fun _ => ?_) (fun _ => ?_))
    | intro _ _
    | split)

theorem gatherOut_kept {pq : List Instr} (s : State) (c : CoreId) (l : Fin 4) (out : Option Nat) (h : Kept pq s) : Kept pq (gatherOut s c l out) := by
  unfold gatherOut
  try dsimp only
  repeat' (first
    | with_reducible assumption
    | with_reducible apply sparseLog_kept
    | with_reducible apply faultNext_kept
    | split)

theorem takeStream_kept {pq : List Instr} (s : State) (c : CoreId) (l : Fin 4) (sel : Bool) (m : Nat) (job : StreamJob) (h : Kept pq s) : Kept pq (takeStream s c l sel m job) := by
  unfold takeStream
  try dsimp only
  repeat' (first
    | with_reducible assumption
    | with_reducible apply modLast_kept)

theorem streamPhase_kept {pq : List Instr} (v s : State) (c : CoreId) (l : Fin 4) (w : BitVec 120) (y : InFlight) (p : Plane) : PhaseKept pq (streamPhase v s c l w y p) := by
  unfold streamPhase
  try dsimp only
  repeat' (first
    | with_reducible assumption
    | with_reducible apply gatherOut_kept
    | with_reducible apply takeStream_kept
    | (with_reducible refine PhaseKept.finish (fun _ _ => ?_))
    | with_reducible exact PhaseKept.access
    | with_reducible exact PhaseKept.hold
    | with_reducible exact PhaseKept.fault
    | (with_reducible refine PhaseKept.choice (fun _ => ?_) (fun _ => ?_)))

theorem execStream_kept {pq : List Instr} (c : CoreId) (l : Fin 4) (w : BitVec 120) (ev : List EccEvent) (s : State) (h : Kept pq s) : NextKept pq (execStream c l w ev s) := by
  unfold execStream
  try dsimp only
  repeat' (first
    | with_reducible assumption
    | with_reducible apply NextKept.next
    | with_reducible apply modLast_kept
    | with_reducible apply engineInstr_kept
    | with_reducible apply streamPhase_kept
    | (simp only [kept_update])
    | with_reducible exact PhaseKept.hold
    | intro _ _
    | split)

theorem execLastPlaneStart_kept {pq : List Instr} (c : CoreId) (l : Fin 4) (s : State) (h : Kept pq s) : NextKept pq (execLastPlaneStart c l s) := by
  unfold execLastPlaneStart
  try dsimp only
  repeat' (first
    | with_reducible assumption
    | with_reducible apply NextKept.next
    | with_reducible apply modLast_kept
    | (with_reducible refine Kept.choice (fun _ => ?_) (fun _ => ?_))
    | split)

theorem execDenseFallbackReexec_kept {pq : List Instr} (c : CoreId) (l : Fin 4) (s : State) (h : Kept pq s) : NextKept pq (execDenseFallbackReexec c l s) := by
  unfold execDenseFallbackReexec
  try dsimp only
  repeat' (first
    | with_reducible assumption
    | with_reducible apply NextKept.next
    | with_reducible apply modLast_kept
    | with_reducible apply writeRecord_kept
    | (with_reducible refine Kept.choice (fun _ => ?_) (fun _ => ?_)))

theorem execLastVectorEnter_kept {pq : List Instr} (c : CoreId) (l : Fin 4) (s : State) (h : Kept pq s) : NextKept pq (execLastVectorEnter c l s) := by
  unfold execLastVectorEnter
  try dsimp only
  repeat' (first
    | with_reducible assumption
    | with_reducible apply NextKept.next
    | with_reducible apply modLast_kept
    | (with_reducible refine Kept.choice (fun _ => ?_) (fun _ => ?_))
    | split)

theorem computeRecord_kept {pq : List Instr} (s : State) (c : CoreId) (l : Fin 4) (m : Mismatch) (entry : Nat) (half : Bool) (where_ cnt : Nat) (h : Kept pq s) : Kept pq (computeRecord s c l m entry half where_ cnt) := by
  unfold computeRecord
  try dsimp only
  repeat' (first
    | with_reducible assumption
    | with_reducible apply modLast_kept
    | with_reducible apply bumpGen_kept
    | with_reducible apply writeRecord_kept)

theorem resMismatch_kept {pq : List Instr} (s : State) (c : CoreId) (l : Fin 4) (entry : Nat) (half : Bool) (m : Mismatch) (h : Kept pq s) : Kept pq (resMismatch s c l entry half m) := by
  unfold resMismatch
  try dsimp only
  repeat' (first
    | with_reducible assumption
    | with_reducible apply modLast_kept
    | with_reducible apply computeRecord_kept)

theorem pumpAccld_kept {pq : List Instr} {c : CoreId} {l : Fin 4} : ∀ {n : Nat} {s : State}, Kept pq s →
    Kept pq (pumpAccld c l n s)
  | 0, _, h => h
  | n + 1, s, h => by
    unfold pumpAccld
    repeat' (first
      | with_reducible assumption
      | with_reducible apply pumpAccld_kept
      | with_reducible apply modLast_kept
      | (with_reducible refine Kept.choice (fun _ => ?_) (fun _ => ?_))
      | split)

theorem execLastVectorLand_kept {pq : List Instr} (c : CoreId) (l : Fin 4) (mis : List Mismatch) (s : State) (h : Kept pq s) : NextKept pq (execLastVectorLand c l mis s) := by
  unfold execLastVectorLand
  try dsimp only
  repeat' (first
    | with_reducible assumption
    | with_reducible apply NextKept.next
    | with_reducible apply modLast_kept
    | with_reducible apply resMismatch_kept
    | with_reducible apply pumpAccld_kept
    | (with_reducible refine Kept.foldl (fun _ _ _ => ?_) ?_)
    | (with_reducible refine Kept.choice (fun _ => ?_) (fun _ => ?_))
    | split)

theorem execDrain_kept {pq : List Instr} (c : CoreId) (l : Fin 4) (w : BitVec 120) (s : State) (h : Kept pq s) : NextKept pq (execDrain c l w s) := by
  unfold execDrain
  try dsimp only
  repeat' (first
    | with_reducible assumption
    | with_reducible apply NextKept.next
    | with_reducible apply modLast_kept
    | with_reducible apply engineInstr_kept
    | (simp only [kept_update])
    | (with_reducible refine PhaseKept.finish (fun _ _ => ?_))
    | with_reducible exact PhaseKept.hold
    | (with_reducible refine PhaseKept.choice (fun _ => ?_) (fun _ => ?_))
    | intro _ _)

theorem execAccld_kept {pq : List Instr} (c : CoreId) (l : Fin 4) (w : BitVec 120) (ev : List EccEvent) (s : State) (h : Kept pq s) : NextKept pq (execAccld c l w ev s) := by
  unfold execAccld
  try dsimp only
  repeat' (first
    | with_reducible assumption
    | with_reducible apply NextKept.next
    | with_reducible apply modLast_kept
    | with_reducible apply engineInstr_kept
    | with_reducible apply pumpAccld_kept
    | (simp only [kept_update])
    | (with_reducible refine PhaseKept.finish (fun _ _ => ?_))
    | with_reducible exact PhaseKept.access
    | with_reducible exact PhaseKept.hold
    | with_reducible exact PhaseKept.fault
    | (with_reducible refine PhaseKept.choice (fun _ => ?_) (fun _ => ?_))
    | intro _ _)

theorem pushWrites_kept {pq : List Instr} (s : State) (c : CoreId) (q : SeqId) (opc : BitVec 8) (l : List Access) (h : Kept pq s) : Kept pq (pushWrites s c q opc l) := by
  unfold pushWrites
  try dsimp only
  repeat' (first
    | with_reducible assumption
    | with_reducible apply modSeq_kept
    | with_reducible apply seqFault_kept
    | with_reducible apply tryAll_kept
    | (with_reducible refine Kept.of_fst (by with_reducible assumption) ?_)
    | split)

theorem dupMismatch_kept {pq : List Instr} (s : State) (c : CoreId) (l : Fin 4) (entry : Nat) (half : Bool) (ms : List Mismatch) (h : Kept pq s) : Kept pq (dupMismatch s c l entry half ms) := by
  unfold dupMismatch
  try dsimp only
  repeat' (first
    | with_reducible assumption
    | with_reducible apply modLast_kept
    | with_reducible apply computeRecord_kept
    | (with_reducible refine Kept.foldl (fun _ _ _ => ?_) ?_)
    | split)

theorem execDrainEntryRead_kept {pq : List Instr} (c : CoreId) (l : Fin 4) (mis : List Mismatch) (s : State) (h : Kept pq s) : NextKept pq (execDrainEntryRead c l mis s) := by
  unfold execDrainEntryRead
  try dsimp only
  repeat' (first
    | with_reducible assumption
    | with_reducible apply NextKept.next
    | with_reducible apply modLast_kept
    | with_reducible apply resMismatch_kept
    | with_reducible apply pumpAccld_kept
    | with_reducible apply pushWrites_kept
    | with_reducible apply dupMismatch_kept
    | (with_reducible refine Kept.foldl (fun _ _ _ => ?_) ?_)
    | (with_reducible refine Kept.choice (fun _ => ?_) (fun _ => ?_))
    | split)

theorem execLpairOn_kept {pq : List Instr} (c : CoreId) (l : Fin 4) (w : BitVec 120) (s : State) (h : Kept pq s) : NextKept pq (execLpairOn c l w s) := by
  unfold execLpairOn
  try dsimp only
  repeat' (first
    | with_reducible assumption
    | with_reducible apply NextKept.next
    | with_reducible apply modLast_kept
    | with_reducible apply seqFault_kept
    | with_reducible apply setSt_kept
    | with_reducible apply advance_kept
    | with_reducible apply issued_kept
    | with_reducible apply controlInstr_kept
    | (with_reducible refine Kept.choice (fun _ => ?_) (fun _ => ?_))
    | intro _ _)

theorem execLpairOff_kept {pq : List Instr} (c : CoreId) (l : Fin 4) (w : BitVec 120) (s : State) (h : Kept pq s) : NextKept pq (execLpairOff c l w s) := by
  unfold execLpairOff
  try dsimp only
  repeat' (first
    | with_reducible assumption
    | with_reducible apply NextKept.next
    | with_reducible apply modLast_kept
    | with_reducible apply seqFault_kept
    | with_reducible apply setSt_kept
    | with_reducible apply advance_kept
    | with_reducible apply controlInstr_kept
    | with_reducible apply thenAdvance_kept
    | (with_reducible refine Kept.choice (fun _ => ?_) (fun _ => ?_))
    | intro _ _
    | (simp only [id_eq]))

theorem execLastPairTimeout_kept {pq : List Instr} (c : CoreId) (l : Fin 4) (s : State) (h : Kept pq s) : NextKept pq (execLastPairTimeout c l s) := by
  unfold execLastPairTimeout
  try dsimp only
  repeat' (first
    | with_reducible assumption
    | with_reducible apply NextKept.next
    | with_reducible apply modLast_kept
    | with_reducible apply seqFault_kept
    | (with_reducible refine Kept.choice (fun _ => ?_) (fun _ => ?_)))

end Sys2Proof.Machine
end

