-- ==== Sys2Proof/Laws/KeptAwl.lean ====
section
/-!
SUPPORT. What the operations of Machine/Awl.lean keep: the queue and the invariant.
-/
set_option linter.unusedSimpArgs false
namespace Sys2Proof.Machine

theorem execAvld_kept {pq : List Instr} (c : CoreId) (w : BitVec 120) (ev : List EccEvent) (s : State) (h : Kept pq s) : NextKept pq (execAvld c w ev s) := by
  unfold execAvld
  try dsimp only
  repeat' (first
    | with_reducible assumption
    | with_reducible apply NextKept.next
    | with_reducible apply modAwl_kept
    | with_reducible apply engineInstr_kept
    | (simp only [kept_update])
    | (with_reducible refine PhaseKept.finish (fun _ _ => ?_))
    | with_reducible exact PhaseKept.access
    | with_reducible exact PhaseKept.hold
    | with_reducible exact PhaseKept.fault
    | (with_reducible refine PhaseKept.choice (fun _ => ?_) (fun _ => ?_))
    | intro _ _
    | (simp only [id_eq]))

theorem awlLog_kept {pq : List Instr} (s : State) (c : CoreId) (b : AwlBad) (fell : Bool) (h : Kept pq s) : Kept pq (awlLog s c b fell) := by
  unfold awlLog
  try dsimp only
  repeat' (first
    | with_reducible assumption
    | with_reducible apply modAwl_kept)

theorem awlFallback_kept {pq : List Instr} (s : State) (c : CoreId) (b : AwlBad) (h : Kept pq s) : Kept pq (awlFallback s c b) := by
  unfold awlFallback
  try dsimp only
  repeat' (first
    | with_reducible assumption
    | with_reducible apply modAwl_kept
    | with_reducible apply writeRecord_kept
    | with_reducible apply awlLog_kept)

theorem amvFinish_kept {pq : List Instr} (s : State) (c : CoreId) (od : Descr) (t : AwlStream) (range : List AwlBad) (starts : List Nat)     (tr : Bool) (fmt rl ofmt lines : Nat) (h : Kept pq s) : Kept pq (amvFinish s c od t range starts tr fmt rl ofmt lines) := by
  unfold amvFinish
  try dsimp only
  repeat' (first
    | with_reducible assumption
    | with_reducible apply modAwl_kept
    | with_reducible apply faultNext_kept
    | with_reducible apply pushWrites_kept
    | with_reducible apply awlLog_kept
    | with_reducible apply awlFallback_kept
    | (with_reducible refine Kept.foldl (fun _ _ _ => ?_) ?_)
    | (with_reducible refine Kept.choice (fun _ => ?_) (fun _ => ?_))
    | split)

theorem execAmv_kept {pq : List Instr} (c : CoreId) (w : BitVec 120) (ev : List EccEvent) (s : State) (h : Kept pq s) : NextKept pq (execAmv c w ev s) := by
  unfold execAmv
  try dsimp only
  repeat' (first
    | with_reducible assumption
    | with_reducible apply NextKept.next
    | with_reducible apply engineInstr_kept
    | with_reducible apply amvFinish_kept
    | (simp only [kept_update])
    | (with_reducible refine PhaseKept.finish (fun _ _ => ?_))
    | with_reducible exact PhaseKept.access
    | with_reducible exact PhaseKept.hold
    | with_reducible exact PhaseKept.fault
    | (with_reducible refine PhaseKept.choice (fun _ => ?_) (fun _ => ?_))
    | intro _ _
    | (simp only [id_eq])
    | split)

theorem execAwlFallbackReexec_kept {pq : List Instr} (c : CoreId) (s : State) (h : Kept pq s) : NextKept pq (execAwlFallbackReexec c s) := by
  unfold execAwlFallbackReexec
  try dsimp only
  repeat' (first
    | with_reducible assumption
    | with_reducible apply NextKept.next
    | with_reducible apply modAwl_kept
    | with_reducible apply pushWrites_kept
    | with_reducible apply awlFallback_kept
    | split)

theorem execAseqApply_kept {pq : List Instr} (c : CoreId) (w : BitVec 120) (ev : List EccEvent) (s : State) (h : Kept pq s) : NextKept pq (execAseqApply c w ev s) := by
  unfold execAseqApply
  try dsimp only
  repeat' (first
    | with_reducible assumption
    | with_reducible apply NextKept.next
    | with_reducible apply modAwl_kept
    | with_reducible apply engineInstr_kept
    | (with_reducible refine Kept.choice (fun _ => ?_) (fun _ => ?_))
    | (simp only [kept_update])
    | (with_reducible refine PhaseKept.finish (fun _ _ => ?_))
    | with_reducible exact PhaseKept.access
    | with_reducible exact PhaseKept.hold
    | with_reducible exact PhaseKept.fault
    | (with_reducible refine PhaseKept.choice (fun _ => ?_) (fun _ => ?_))
    | intro _ _
    | (simp only [id_eq]))

theorem execAseqAdvance_kept {pq : List Instr} (c : CoreId) (w : BitVec 120) (s : State) (h : Kept pq s) : NextKept pq (execAseqAdvance c w s) := by
  unfold execAseqAdvance
  try dsimp only
  repeat' (first
    | with_reducible assumption
    | with_reducible apply NextKept.next
    | with_reducible apply modAwl_kept
    | with_reducible apply engineInstr_kept
    | (with_reducible refine Kept.choice (fun _ => ?_) (fun _ => ?_))
    | (simp only [kept_update])
    | (with_reducible refine PhaseKept.finish (fun _ _ => ?_))
    | with_reducible exact PhaseKept.hold
    | (with_reducible refine PhaseKept.choice (fun _ => ?_) (fun _ => ?_))
    | intro _ _
    | (simp only [id_eq]))

end Sys2Proof.Machine
end

