-- ==== Sys2Proof/Laws/KeptStacks.lean ====
section
/-!
SUPPORT. What the operations of Machine/Stacks.lean keep: the queue and the invariant.
-/
set_option linter.unusedSimpArgs false
namespace Sys2Proof.Machine

theorem execEngineAccess_kept {pq : List Instr} (s : State) (c : CoreId) (cyc : Nat) (q : SeqId) (n : Nat) (e : Ecc) (h : Kept pq s) : Kept pq (execEngineAccess s c cyc q n e) := by
  unfold execEngineAccess
  try dsimp only
  repeat' (first
    | with_reducible assumption
    | with_reducible apply modSeq_kept
    | with_reducible apply modStk_kept
    | with_reducible apply execLocal_kept
    | with_reducible apply parkLocal_kept
    | (with_reducible refine Kept.choice (fun _ => ?_) (fun _ => ?_))
    | split)

theorem respond_kept {pq : List Instr} (s : State) (f : Flit) (status : BitVec 4) (data : List Byte) (poison : Bool) (h : Kept pq s) : Kept pq (respond s f status data poison) := by
  unfold respond
  try dsimp only
  repeat' (first
    | with_reducible assumption
    | with_reducible apply sendFlit_kept)

theorem applyWriteFlit_kept {pq : List Instr} (s : State) (c : CoreId) (f : Flit) (h : Kept pq s) : Kept pq (applyWriteFlit s c f) := by
  unfold applyWriteFlit
  try dsimp only
  repeat' (first
    | with_reducible assumption
    | with_reducible apply stkPut_kept
    | (with_reducible refine Kept.foldl (fun _ _ _ => ?_) ?_)
    | (with_reducible refine Kept.choice (fun _ => ?_) (fun _ => ?_)))

/-- The answer to a remote access. -/
def ServedKept (pq : List Instr) : Served → Prop
  | .answered t => Kept pq t
  | .waits => True

theorem ServedKept.choice {pq : List Instr} {c : Prop} [Decidable c] {a b : Served} (ha : ServedKept pq a)
    (hb : ServedKept pq b) : ServedKept pq (if c then a else b) := by
  split
  · exact ha
  · exact hb

theorem serveRemote_kept {pq : List Instr} (s : State) (c : CoreId) (f : Flit) (e : Ecc) (h : Kept pq s) :
    ServedKept pq (serveRemote s c f e) := by
  unfold serveRemote
  refine ServedKept.choice (respond_kept _ _ _ _ _ h) (ServedKept.choice (ServedKept.choice (respond_kept _ _ _ _ _ h)
    (ServedKept.choice trivial (respond_kept _ _ _ _ _
      (countConsumed_kept _ _ _ _ (setFull_kept (eccRead_kept _ _ _ _ _ h)))))) ?_)
  split
  · exact respond_kept _ _ _ _ _ h
  · exact ServedKept.choice trivial (respond_kept _ _ _ _ _ (modCarrel_kept _ _ _ _ (setFull_kept
      (applyWriteFlit_kept _ _ _ h))))

theorem execRemoteAccess_kept {pq : List Instr} (s : State) (c : CoreId) (cyc n : Nat) (e : Ecc) (h : Kept pq s) :
    Kept pq (execRemoteAccess s c cyc n e) := by
  unfold execRemoteAccess
  split
  · exact h
  · rename_i r _
    refine Kept.choice (fun _ => h) (fun _ => ?_)
    have k := serveRemote_kept s c r.flit e h
    split
    · rename_i t e'
      rw [e'] at k
      exact modStk_kept _ _ _ k
    · exact Kept.choice (fun _ => h) (fun _ => Kept.choice (fun _ => noteWaiters_kept _ _ _ _ (modStk_kept _ _ _ h))
        (fun _ => noteWaiters_kept _ _ _ _ h))

theorem execStacksAccessExecute_kept {pq : List Instr} (c : CoreId) (cyc : Nat) (a : AccessRef) (ecc : Ecc) (s : State) (h : Kept pq s) : NextKept pq (execStacksAccessExecute c cyc a ecc s) := by
  unfold execStacksAccessExecute
  try dsimp only
  repeat' (first
    | with_reducible assumption
    | with_reducible apply NextKept.next
    | with_reducible apply execEngineAccess_kept
    | with_reducible apply execRemoteAccess_kept
    | (with_reducible refine Kept.choice (fun _ => ?_) (fun _ => ?_))
    | split)

theorem execTagTimeout_kept {pq : List Instr} (c : CoreId) (a : AccessRef) (s : State) (h : Kept pq s) : NextKept pq (execTagTimeout c a s) := by
  unfold execTagTimeout
  try dsimp only
  repeat' (first
    | with_reducible assumption
    | with_reducible apply NextKept.next
    | with_reducible apply modStk_kept
    | with_reducible apply seqFault_kept
    | with_reducible apply respond_kept
    | (with_reducible refine Kept.choice (fun _ => ?_) (fun _ => ?_))
    | split)

theorem execCorrectedWriteback_kept {pq : List Instr} (c : CoreId) (sa : BitVec 32) (s : State) (h : Kept pq s) : NextKept pq (execCorrectedWriteback c sa s) := by
  unfold execCorrectedWriteback
  try dsimp only
  repeat' (first
    | with_reducible assumption
    | with_reducible apply NextKept.next
    | with_reducible apply modStk_kept)

theorem execPatrolRead_kept {pq : List Instr} (c : CoreId) (sa : BitVec 32) (ecc : Ecc) (s : State) (h : Kept pq s) : NextKept pq (execPatrolRead c sa ecc s) := by
  unfold execPatrolRead
  try dsimp only
  repeat' (first
    | with_reducible assumption
    | with_reducible apply NextKept.next
    | with_reducible apply modStk_kept
    | with_reducible apply eccRead_kept
    | (with_reducible refine Kept.choice (fun _ => ?_) (fun _ => ?_)))

theorem scrubBank_kept {pq : List Instr} (s : State) (c : CoreId) (w b : Nat) (h : Kept pq s) : Kept pq (scrubBank s c w b) :=
  ⟨h.1, ⟨filter_wfFrom _ h.2.1.1, setFilter_wfFrom _ h.2.1.2.1, setFilter_wfFrom _ h.2.1.2.2⟩, h.2.2⟩

theorem execBankRepair_kept {pq : List Instr} (c : CoreId) (bank : Fin 640) (s : State) (h : Kept pq s) : NextKept pq (execBankRepair c bank s) := by
  unfold execBankRepair
  try dsimp only
  repeat' (first
    | with_reducible assumption
    | with_reducible apply NextKept.next
    | with_reducible apply modStk_kept
    | with_reducible apply noted_kept
    | with_reducible apply writeRecord_kept
    | with_reducible apply condAppend_kept
    | with_reducible apply scrubBank_kept
    | (with_reducible refine Kept.choice (fun _ => ?_) (fun _ => ?_)))

theorem execSetRetire_kept {pq : List Instr} (c : CoreId) (set : Fin 20) (s : State) (h : Kept pq s) : NextKept pq (execSetRetire c set s) := by
  unfold execSetRetire
  try dsimp only
  repeat' (first
    | with_reducible assumption
    | with_reducible apply NextKept.next
    | with_reducible apply modStk_kept
    | with_reducible apply writeRecord_kept
    | with_reducible apply loseBytes_kept
    | with_reducible apply condAppend_kept
    | with_reducible apply loseCore_kept
    | (with_reducible refine Kept.choice (fun _ => ?_) (fun _ => ?_)))

theorem execCarrelMirrorUpdate_kept {pq : List Instr} (c : CoreId) (k : Fin 64) (s : State) (h : Kept pq s) : NextKept pq (execCarrelMirrorUpdate c k s) := by
  unfold execCarrelMirrorUpdate
  try dsimp only
  repeat' (first
    | with_reducible assumption
    | with_reducible apply NextKept.next
    | with_reducible apply modStk_kept)

theorem scrubRange_kept {pq : List Instr} (s : State) (c : CoreId) (n : Nat) (h : Kept pq s) : Kept pq (scrubRange s c n) := by
  unfold scrubRange
  try dsimp only
  repeat' (first
    | with_reducible assumption
    | with_reducible apply loseBytes_kept)

theorem endScrub_kept {pq : List Instr} (s : State) (c : CoreId) (h : Kept pq s) : Kept pq (endScrub s c) := by
  unfold endScrub
  try dsimp only
  repeat' (first
    | with_reducible assumption
    | with_reducible apply modCore_kept
    | with_reducible apply modStk_kept
    | with_reducible apply scrubRange_kept)

theorem finishKill_kept {pq : List Instr} (s : State) (j : BitVec 6) (h : Kept pq s) : Kept pq (finishKill s j) := by
  unfold finishKill
  try dsimp only
  repeat' (first
    | with_reducible assumption
    | with_reducible apply modReg_kept
    | with_reducible rfl
    | with_reducible exact Nat.le_refl _)

theorem freeJob_kept {pq : List Instr} (s : State) (j : BitVec 6) (h : Kept pq s) : Kept pq (freeJob s j) := by
  unfold freeJob
  try dsimp only
  repeat' (first
    | with_reducible assumption
    | with_reducible apply modReg_kept
    | with_reducible apply noted_kept
    | with_reducible apply finishKill_kept
    | with_reducible rfl
    | (simp only [kept_update])
    | (with_reducible exact List.length_filter_le _ _))

theorem execScrubComplete_kept {pq : List Instr} (job : BitVec 6) (s : State) (h : Kept pq s) : NextKept pq (execScrubComplete job s) := by
  unfold execScrubComplete
  try dsimp only
  repeat' (first
    | with_reducible assumption
    | with_reducible apply NextKept.next
    | with_reducible apply modJob_kept
    | with_reducible apply noted_kept
    | with_reducible apply endScrub_kept
    | with_reducible apply finishKill_kept
    | with_reducible apply freeJob_kept
    | (with_reducible refine Kept.foldl (fun _ _ _ => ?_) ?_)
    | (with_reducible refine Kept.choice (fun _ => ?_) (fun _ => ?_))
    | split)

end Sys2Proof.Machine
end

