-- ==== Sys2Proof/Laws/KeptCarrel.lean ====
section
/-!
SUPPORT. What the operations of Machine/Carrel.lean keep: the queue and the invariant.
-/
set_option linter.unusedSimpArgs false
namespace Sys2Proof.Machine

theorem applyTagop_kept {pq : List Instr} (s : State) (op : Nat) (slot : Nat) (h : Kept pq s) : Kept pq (applyTagop s op slot) := by
  unfold applyTagop
  try dsimp only
  repeat' (first
    | with_reducible assumption
    | with_reducible apply setFull_kept
    | (with_reducible refine Kept.choice (fun _ => ?_) (fun _ => ?_)))

theorem putPieces_wf {base : Nat} : ∀ {ps : List Piece} {l : List (Byte × Bool)} {m : List Host.Cell}, Memory.wf m = true →
    Memory.wf (putPieces base ps l m) = true
  | [], _, _, h => h
  | p :: t, l, m, h => by
    rw [putPieces]
    exact putPieces_wf (memWrite_wf h)

theorem putStream_kept {pq : List Instr} (s : State) (c : CoreId) (ps : List Piece) (l : List (Byte × Bool)) (tagop : Nat)
    (h : Kept pq s) : Kept pq (putStream s c ps l tagop) := by
  have k : Kept pq { s with mem := putPieces (stacksAddr c 0) ps l s.mem } := ⟨h.1, ⟨putPieces_wf h.2.1.1, h.2.1.2⟩, h.2.2⟩
  unfold putStream
  refine Kept.foldl (fun t a kt => applyTagop_kept _ _ _ (Kept.choice (fun _ => ?_) (fun _ => ?_))) k
  · exact noteFull_kept _ _ _ (setPoison_kept kt)
  · exact setPoison_kept kt

theorem execFill_kept {pq : List Instr} (c : CoreId) (d : Fin 8) (w : BitVec 120) (s : State) (h : Kept pq s) : NextKept pq (execFill c d w s) := by
  unfold execFill
  try dsimp only
  repeat' (first
    | with_reducible assumption
    | with_reducible apply NextKept.next
    | with_reducible apply engineInstr_kept
    | with_reducible apply putStream_kept
    | (simp only [kept_update])
    | (with_reducible refine PhaseKept.finish (fun _ _ => ?_))
    | with_reducible exact PhaseKept.hold
    | (with_reducible refine PhaseKept.choice (fun _ => ?_) (fun _ => ?_))
    | intro _ _
    | (simp only [id_eq]))

theorem execCopy_kept {pq : List Instr} (c : CoreId) (d : Fin 8) (w : BitVec 120) (ev : List EccEvent) (s : State) (h : Kept pq s) : NextKept pq (execCopy c d w ev s) := by
  unfold execCopy
  try dsimp only
  repeat' (first
    | with_reducible assumption
    | with_reducible apply NextKept.next
    | with_reducible apply eccRead_kept
    | with_reducible apply engineInstr_kept
    | with_reducible apply putStream_kept
    | (with_reducible refine Kept.foldl (fun _ _ _ => ?_) ?_)
    | (simp only [kept_update])
    | (with_reducible refine PhaseKept.finish (fun _ _ => ?_))
    | with_reducible exact PhaseKept.hold
    | (with_reducible refine PhaseKept.choice (fun _ => ?_) (fun _ => ?_))
    | intro _ _
    | (simp only [id_eq]))

theorem openCarrel_kept {pq : List Instr} (s : State) (c : CoreId) (i : Fin 64) (r : List Byte) (h : Kept pq s) : Kept pq (openCarrel s c i r) := by
  unfold openCarrel
  try dsimp only
  repeat' (first
    | with_reducible assumption
    | with_reducible apply noted_kept
    | with_reducible apply modCarrel_kept)

theorem releaseParked_kept {pq : List Instr} (s : State) (c : CoreId) (r : Carrel) (h : Kept pq s) : Kept pq (releaseParked s c r) := by
  unfold releaseParked
  try dsimp only
  repeat' (first
    | with_reducible assumption
    | with_reducible apply modStk_kept
    | with_reducible apply respond_kept
    | (with_reducible refine Kept.foldl (fun _ _ _ => ?_) ?_))

theorem closeCarrel_kept {pq : List Instr} (s : State) (c : CoreId) (i : Fin 64) (h : Kept pq s) : Kept pq (closeCarrel s c i) := by
  unfold closeCarrel
  try dsimp only
  repeat' (first
    | with_reducible assumption
    | with_reducible apply noted_kept
    | with_reducible apply modCarrel_kept
    | with_reducible apply releaseParked_kept
    | (with_reducible refine Kept.choice (fun _ => ?_) (fun _ => ?_)))

theorem closeAll_kept {pq : List Instr} (s : State) (c : CoreId) (h : Kept pq s) : Kept pq (closeAll s c) := by
  unfold closeAll
  try dsimp only
  repeat' (first
    | with_reducible assumption
    | with_reducible apply closeCarrel_kept
    | (with_reducible refine Kept.foldl (fun _ _ _ => ?_) ?_))

theorem execCropen_kept {pq : List Instr} (c : CoreId) (w : BitVec 120) (ev : List EccEvent) (s : State) (h : Kept pq s) : NextKept pq (execCropen c w ev s) := by
  unfold execCropen
  try dsimp only
  repeat' (first
    | with_reducible assumption
    | with_reducible apply NextKept.next
    | with_reducible apply engineInstr_kept
    | with_reducible apply openCarrel_kept
    | (simp only [kept_update])
    | (with_reducible refine PhaseKept.finish (fun _ _ => ?_))
    | with_reducible exact PhaseKept.access
    | with_reducible exact PhaseKept.fault
    | (with_reducible refine PhaseKept.choice (fun _ => ?_) (fun _ => ?_))
    | intro _ _
    | (simp only [id_eq])
    | split)

theorem execCrclose_kept {pq : List Instr} (c : CoreId) (w : BitVec 120) (s : State) (h : Kept pq s) : NextKept pq (execCrclose c w s) := by
  unfold execCrclose
  try dsimp only
  repeat' (first
    | with_reducible assumption
    | with_reducible apply NextKept.next
    | with_reducible apply seqFault_kept
    | with_reducible apply controlInstr_kept
    | with_reducible apply thenAdvance_kept
    | with_reducible apply closeCarrel_kept
    | (with_reducible refine Kept.choice (fun _ => ?_) (fun _ => ?_))
    | intro _ _)

end Sys2Proof.Machine
end

