-- ==== Sys2Proof/Laws/KeptDma.lean ====
section
/-!
SUPPORT. What the operations of Machine/Dma.lean keep: the queue and the invariant.
-/
set_option linter.unusedSimpArgs false
namespace Sys2Proof.Machine

theorem execXload_kept {pq : List Instr} (c : CoreId) (d : Fin 8) (w : BitVec 120) (s : State) (h : Kept pq s) : NextKept pq (execXload c d w s) := by
  unfold execXload
  try dsimp only
  repeat' (first
    | with_reducible assumption
    | with_reducible apply NextKept.next
    | with_reducible apply engineInstr_kept
    | with_reducible apply putStream_kept
    | (simp only [kept_update])
    | (with_reducible refine PhaseKept.finish (fun _ _ => ?_))
    | (with_reducible refine PhaseKept.act (fun _ _ => ?_))
    | with_reducible exact PhaseKept.access
    | with_reducible exact PhaseKept.hold
    | (with_reducible refine PhaseKept.choice (fun _ => ?_) (fun _ => ?_))
    | intro _ _
    | (simp only [id_eq]))

theorem execXstore_kept {pq : List Instr} (c : CoreId) (d : Fin 8) (w : BitVec 120) (ev : List EccEvent) (s : State) (h : Kept pq s) : NextKept pq (execXstore c d w ev s) := by
  unfold execXstore
  try dsimp only
  repeat' (first
    | with_reducible assumption
    | with_reducible apply NextKept.next
    | with_reducible apply engineInstr_kept
    | (simp only [kept_update])
    | (with_reducible refine PhaseKept.finish (fun _ _ => ?_))
    | with_reducible exact PhaseKept.access
    | (with_reducible refine PhaseKept.choice (fun _ => ?_) (fun _ => ?_))
    | intro _ _
    | (simp only [id_eq]))

theorem execXmove_kept {pq : List Instr} (c : CoreId) (d : Fin 8) (w : BitVec 120) (s : State) (h : Kept pq s) : NextKept pq (execXmove c d w s) := by
  unfold execXmove
  try dsimp only
  repeat' (first
    | with_reducible assumption
    | with_reducible apply NextKept.next
    | with_reducible apply engineInstr_kept
    | (simp only [kept_update])
    | (with_reducible refine PhaseKept.finish (fun _ _ => ?_))
    | with_reducible exact PhaseKept.access
    | (with_reducible refine PhaseKept.choice (fun _ => ?_) (fun _ => ?_))
    | intro _ _
    | (simp only [id_eq]))

theorem execXgather_kept {pq : List Instr} (c : CoreId) (d : Fin 8) (w : BitVec 120) (ev : List EccEvent) (s : State) (h : Kept pq s) : NextKept pq (execXgather c d w ev s) := by
  unfold execXgather
  try dsimp only
  repeat' (first
    | with_reducible assumption
    | with_reducible apply NextKept.next
    | with_reducible apply engineInstr_kept
    | with_reducible apply putStream_kept
    | (simp only [kept_update])
    | (with_reducible refine PhaseKept.finish (fun _ _ => ?_))
    | (with_reducible refine PhaseKept.act (fun _ _ => ?_))
    | with_reducible exact PhaseKept.access
    | with_reducible exact PhaseKept.hold
    | with_reducible exact PhaseKept.fault
    | (with_reducible refine PhaseKept.choice (fun _ => ?_) (fun _ => ?_))
    | intro _ _
    | (simp only [id_eq])
    | split)

end Sys2Proof.Machine
end

