-- ==== Sys2Proof/Laws/KeptTiers.lean ====
section
/-!
SUPPORT. What the operations of Machine/Tiers.lean keep: the queue and the invariant.
-/
set_option linter.unusedSimpArgs false
namespace Sys2Proof.Machine

theorem modTiers_kept {pq : List Instr} (s : State) (f : Tiers → Tiers) (h : Kept pq s) : Kept pq (modTiers s f) := by
  unfold modTiers
  try dsimp only
  repeat' (first
    | with_reducible assumption
    | (simp only [kept_update]))

theorem modStack_kept {pq : List Instr} (s : State) (u : Fin 16) (f : Stack → Stack) (h : Kept pq s) : Kept pq (modStack s u f) := by
  unfold modStack
  try dsimp only
  repeat' (first
    | with_reducible assumption
    | with_reducible apply modTiers_kept)

theorem modChan_kept {pq : List Instr} (s : State) (u : Fin 16) (f : Channel → Channel) (h : Kept pq s) : Kept pq (modChan s u f) := by
  unfold modChan
  try dsimp only
  repeat' (first
    | with_reducible assumption
    | with_reducible apply modTiers_kept)

theorem memRecord_kept {pq : List Instr} (s : State) (w : MemWhere) (a : Nat) (sev flags : BitVec 8) (job : BitVec 6) (action : Nat) (h : Kept pq s) : Kept pq (memRecord s w a sev flags job action) := by
  unfold memRecord
  try dsimp only
  repeat' (first
    | with_reducible assumption
    | with_reducible apply writeRecord_kept)

theorem logMem_kept {pq : List Instr} (s : State) (w : MemWhere) (a : Nat) (ue perm : Bool) (job : BitVec 6) (h : Kept pq s) : Kept pq (logMem s w a ue perm job) := by
  unfold logMem
  try dsimp only
  repeat' (first
    | with_reducible assumption
    | with_reducible apply modTiers_kept)

theorem retirePending_kept {pq : List Instr} (s : State) (w : MemWhere) (a : Nat) (h : Kept pq s) : Kept pq (retirePending s w a) := by
  unfold retirePending
  try dsimp only
  repeat' (first
    | with_reducible assumption
    | with_reducible apply modTiers_kept
    | with_reducible apply modChan_kept
    | with_reducible apply memRecord_kept
    | (with_reducible refine Kept.choice (fun _ => ?_) (fun _ => ?_)))

theorem permanentRow_kept {pq : List Instr} (s : State) (w : MemWhere) (a : Nat) (job : BitVec 6) (h : Kept pq s) : Kept pq (permanentRow s w a job) := by
  unfold permanentRow
  try dsimp only
  repeat' (first
    | with_reducible assumption
    | with_reducible apply modTiers_kept
    | with_reducible apply memRecord_kept
    | with_reducible apply logMem_kept
    | with_reducible apply retirePending_kept
    | (with_reducible refine Kept.choice (fun _ => ?_) (fun _ => ?_)))

theorem trainingFailure_kept {pq : List Instr} (s : State) (w : MemWhere) (a : Nat) (h : Kept pq s) : Kept pq (trainingFailure s w a) := by
  unfold trainingFailure
  try dsimp only
  repeat' (first
    | with_reducible assumption
    | with_reducible apply modTiers_kept
    | with_reducible apply retirePending_kept
    | (with_reducible refine Kept.choice (fun _ => ?_) (fun _ => ?_)))

theorem noteRetrain_kept {pq : List Instr} (s : State) (node : Nat) (h : Kept pq s) : Kept pq (noteRetrain s node) := by
  unfold noteRetrain
  try dsimp only
  repeat' (first
    | with_reducible assumption
    | (simp only [kept_update]))

theorem startRetrain_kept {pq : List Instr} (s : State) (w : MemWhere) (h : Kept pq s) : Kept pq (startRetrain s w) := by
  unfold startRetrain
  try dsimp only
  repeat' (first
    | with_reducible assumption
    | with_reducible apply modStack_kept
    | with_reducible apply modChan_kept
    | (with_reducible refine Kept.choice (fun _ => ?_) (fun _ => ?_)))

theorem memCorrected_kept {pq : List Instr} (s : State) (w : MemWhere) (a : Nat) (job : BitVec 6) (h : Kept pq s) : Kept pq (memCorrected s w a job) := by
  unfold memCorrected
  try dsimp only
  repeat' (first
    | with_reducible assumption
    | with_reducible apply bumpGen_kept
    | with_reducible apply modTiers_kept
    | with_reducible apply modStack_kept
    | with_reducible apply modChan_kept
    | with_reducible apply logMem_kept
    | with_reducible apply permanentRow_kept
    | (with_reducible refine Kept.choice (fun _ => ?_) (fun _ => ?_)))

theorem memUncorrected_kept {pq : List Instr} (s : State) (w : MemWhere) (a : Nat) (job : BitVec 6) (h : Kept pq s) : Kept pq (memUncorrected s w a job) := by
  unfold memUncorrected
  try dsimp only
  repeat' (first
    | with_reducible assumption
    | with_reducible apply setPoison_kept
    | with_reducible apply modTiers_kept
    | with_reducible apply modStack_kept
    | with_reducible apply modChan_kept
    | with_reducible apply memRecord_kept
    | with_reducible apply logMem_kept
    | with_reducible apply permanentRow_kept
    | (with_reducible refine Kept.choice (fun _ => ?_) (fun _ => ?_)))

theorem memRequestFailed_kept {pq : List Instr} (s : State) (w : MemWhere) (a : Nat) (h : Kept pq s) : Kept pq (memRequestFailed s w a) := by
  unfold memRequestFailed
  try dsimp only
  repeat' (first
    | with_reducible assumption
    | with_reducible apply modTiers_kept
    | with_reducible apply trainingFailure_kept
    | with_reducible apply noteRetrain_kept
    | with_reducible apply startRetrain_kept
    | (with_reducible refine Kept.choice (fun _ => ?_) (fun _ => ?_)))

theorem memMeets_kept {pq : List Instr} (s : State) (a : Nat) (ev : MemEvent) (job : BitVec 6) (h : Kept pq s) : Kept pq (memMeets s a ev job).1 := by
  unfold memMeets
  try dsimp only
  repeat' (first
    | with_reducible assumption
    | with_reducible apply bumpGen_kept
    | with_reducible apply modStack_kept
    | with_reducible apply modChan_kept
    | with_reducible apply memCorrected_kept
    | with_reducible apply memUncorrected_kept
    | with_reducible apply memRequestFailed_kept
    | (with_reducible refine Kept.choice (fun _ => ?_) (fun _ => ?_))
    | split)

theorem noteFullMem_kept {pq : List Instr} (s : State) (slot : Nat) (h : Kept pq s) : Kept pq (noteFullMem s slot) := by
  unfold noteFullMem
  try dsimp only
  repeat' (first
    | with_reducible assumption
    | with_reducible apply modTiers_kept)

theorem memPut_kept {pq : List Instr} (s : State) (a : Nat) (data : List Byte) (poison : Bool) (h : Kept pq s) : Kept pq (memPut s a data poison) := by
  unfold memPut
  try dsimp only
  repeat' (first
    | with_reducible assumption
    | with_reducible apply putSlot_kept
    | with_reducible apply modStack_kept
    | with_reducible apply modChan_kept
    | with_reducible apply noteFullMem_kept
    | (with_reducible refine Kept.choice (fun _ => ?_) (fun _ => ?_)))

theorem settleMem_kept {pq : List Instr} (s : State) (r : MemReq) (data : List Byte) (poison : Bool) (h : Kept pq s) : Kept pq (settleMem s r data poison) := by
  unfold settleMem
  try dsimp only
  repeat' (first
    | with_reducible assumption
    | with_reducible apply modSeq_kept
    | with_reducible apply modTiers_kept
    | split)

theorem execMemWriteAccept_kept {pq : List Instr} (id : Nat) (ev : MemEvent) (s : State) (h : Kept pq s) : NextKept pq (execMemWriteAccept id ev s) := by
  unfold execMemWriteAccept
  try dsimp only
  repeat' (first
    | with_reducible assumption
    | with_reducible apply NextKept.next
    | with_reducible apply memMeets_kept
    | with_reducible apply memPut_kept
    | with_reducible apply settleMem_kept
    | (with_reducible refine Kept.choice (fun _ => ?_) (fun _ => ?_))
    | (with_reducible refine Kept.of_fst (by with_reducible assumption) ?_)
    | split)

theorem execMemReadServe_kept {pq : List Instr} (id : Nat) (ev : MemEvent) (s : State) (h : Kept pq s) : NextKept pq (execMemReadServe id ev s) := by
  unfold execMemReadServe
  try dsimp only
  repeat' (first
    | with_reducible assumption
    | with_reducible apply NextKept.next
    | with_reducible apply memMeets_kept
    | with_reducible apply settleMem_kept
    | (with_reducible refine Kept.choice (fun _ => ?_) (fun _ => ?_))
    | (with_reducible refine Kept.of_fst (by with_reducible assumption) ?_)
    | split)

theorem execMemRequestAge_kept {pq : List Instr} (id : Nat) (s : State) (h : Kept pq s) : NextKept pq (execMemRequestAge id s) := by
  unfold execMemRequestAge
  try dsimp only
  repeat' (first
    | with_reducible assumption
    | with_reducible apply NextKept.next
    | with_reducible apply modTiers_kept)

theorem execMemRefresh_kept {pq : List Instr} (lp : Bool) (unit : Fin 16) (temp : BitVec 8) (s : State) (h : Kept pq s) : NextKept pq (execMemRefresh lp unit temp s) := by
  unfold execMemRefresh
  try dsimp only
  repeat' (first
    | with_reducible assumption
    | with_reducible apply NextKept.next
    | with_reducible apply modStack_kept
    | with_reducible apply modChan_kept
    | (with_reducible refine Kept.choice (fun _ => ?_) (fun _ => ?_)))

theorem execMemPatrolRead_kept {pq : List Instr} (da : BitVec 48) (ev : MemEvent) (s : State) (h : Kept pq s) : NextKept pq (execMemPatrolRead da ev s) := by
  unfold execMemPatrolRead
  try dsimp only
  repeat' (first
    | with_reducible assumption
    | with_reducible apply NextKept.next
    | with_reducible apply modTiers_kept
    | with_reducible apply memMeets_kept
    | (with_reducible refine Kept.choice (fun _ => ?_) (fun _ => ?_))
    | (with_reducible refine Kept.of_fst (by with_reducible assumption) ?_)
    | split)

theorem execMemRetrainDone_kept {pq : List Instr} (lp : Bool) (unit : Fin 16) (pc : Fin 32) (ok laneRepaired : Bool) (s : State) (h : Kept pq s) : NextKept pq (execMemRetrainDone lp unit pc ok laneRepaired s) := by
  unfold execMemRetrainDone
  try dsimp only
  repeat' (first
    | with_reducible assumption
    | with_reducible apply NextKept.next
    | with_reducible apply noted_kept
    | with_reducible apply modTiers_kept
    | with_reducible apply modStack_kept
    | with_reducible apply modChan_kept
    | with_reducible apply trainingFailure_kept
    | (with_reducible refine Kept.choice (fun _ => ?_) (fun _ => ?_)))

theorem execMemRowRepair_kept {pq : List Instr} (da : BitVec 48) (ok : Bool) (s : State) (h : Kept pq s) : NextKept pq (execMemRowRepair da ok s) := by
  unfold execMemRowRepair
  try dsimp only
  repeat' (first
    | with_reducible assumption
    | with_reducible apply NextKept.next
    | with_reducible apply condAppend_kept
    | with_reducible apply setPoison_kept
    | with_reducible apply modTiers_kept
    | with_reducible apply modStack_kept
    | with_reducible apply memRecord_kept
    | with_reducible apply retirePending_kept
    | (with_reducible refine Kept.foldl (fun _ _ _ => ?_) ?_)
    | (with_reducible refine Kept.choice (fun _ => ?_) (fun _ => ?_)))

theorem zeroRange_kept {pq : List Instr} (s : State) (a n : Nat) (h : Kept pq s) : Kept pq (zeroRange s a n) :=
  ⟨h.1, ⟨memErase_wf a n h.2.1.1, h.2.1.2.1, setErase_wf _ _ h.2.1.2.2⟩, h.2.2⟩

theorem execMemRetireApply_kept {pq : List Instr} (lp : Bool) (unit : Fin 16) (pc : Fin 32) (s : State) (h : Kept pq s) : NextKept pq (execMemRetireApply lp unit pc s) := by
  unfold execMemRetireApply
  try dsimp only
  repeat' (first
    | with_reducible assumption
    | with_reducible apply NextKept.next
    | with_reducible apply condAppend_kept
    | with_reducible apply modTiers_kept
    | with_reducible apply modChan_kept
    | with_reducible apply memRecord_kept
    | with_reducible apply zeroRange_kept
    | (with_reducible refine Kept.choice (fun _ => ?_) (fun _ => ?_)))

theorem execHbmBypassSwitch_kept {pq : List Instr} (region : Fin 8) (s : State) (h : Kept pq s) : NextKept pq (execHbmBypassSwitch region s) := by
  unfold execHbmBypassSwitch
  try dsimp only
  repeat' (first
    | with_reducible assumption
    | with_reducible apply NextKept.next
    | with_reducible apply noted_kept
    | with_reducible apply routeChange_kept
    | with_reducible apply modTiers_kept
    | (with_reducible refine Kept.choice (fun _ => ?_) (fun _ => ?_))
    | (simp only [kept_update]))

end Sys2Proof.Machine
end

