-- ==== Sys2Proof/Laws/KeptLacing.lean ====
section
/-!
SUPPORT. What the operations of Machine/Lacing.lean keep: the queue and the invariant.
-/
set_option linter.unusedSimpArgs false
namespace Sys2Proof.Machine

theorem modLacing_kept {pq : List Instr} (s : State) (f : Lacing → Lacing) (h : Kept pq s) : Kept pq (modLacing s f) := by
  unfold modLacing
  try dsimp only
  repeat' (first
    | with_reducible assumption
    | (simp only [kept_update]))

theorem modLink_kept {pq : List Instr} (s : State) (l : Fin 23) (f : Link → Link) (h : Kept pq s) : Kept pq (modLink s l f) := by
  unfold modLink
  try dsimp only
  repeat' (first
    | with_reducible assumption
    | with_reducible apply modLacing_kept)

theorem modDir_kept {pq : List Instr} (s : State) (l : Fin 23) (d : Bool) (f : LinkDir → LinkDir) (h : Kept pq s) : Kept pq (modDir s l d f) := by
  unfold modDir
  try dsimp only
  repeat' (first
    | with_reducible assumption
    | with_reducible apply modLink_kept)

theorem linkRecord_kept {pq : List Instr} (s : State) (l : Fin 23) (d : Bool) (lace : Nat) (sev flags : BitVec 8) (h : Kept pq s) : Kept pq (linkRecord s l d lace sev flags) := by
  unfold linkRecord
  try dsimp only
  repeat' (first
    | with_reducible assumption
    | with_reducible apply writeRecord_kept)

theorem failLink_kept {pq : List Instr} (s : State) (l : Fin 23) (h : Kept pq s) : Kept pq (failLink s l) := by
  unfold failLink
  try dsimp only
  repeat' (first
    | with_reducible assumption
    | with_reducible apply noted_kept
    | with_reducible apply routeChange_kept
    | with_reducible apply modLink_kept
    | (with_reducible refine Kept.choice (fun _ => ?_) (fun _ => ?_)))

theorem noteLinkEvent_kept {pq : List Instr} (s : State) (l : Fin 23) (h : Kept pq s) : Kept pq (noteLinkEvent s l) := by
  unfold noteLinkEvent
  try dsimp only
  repeat' (first
    | with_reducible assumption
    | with_reducible apply noteRetrain_kept)

theorem retireLace_kept {pq : List Instr} (s : State) (l : Fin 23) (d : Bool) (lace : Fin 18) (h : Kept pq s) : Kept pq (retireLace s l d lace) := by
  unfold retireLace
  try dsimp only
  repeat' (first
    | with_reducible assumption
    | with_reducible apply condAppend_kept
    | with_reducible apply modLink_kept
    | with_reducible apply modDir_kept
    | with_reducible apply linkRecord_kept
    | with_reducible apply failLink_kept
    | with_reducible apply noteLinkEvent_kept
    | (with_reducible refine Kept.choice (fun _ => ?_) (fun _ => ?_)))

theorem execLaceBeatReceive_kept {pq : List Instr} (link : Fin 23) (dir : Bool) (lace : Fin 18) (ok : Bool) (s : State) (h : Kept pq s) : NextKept pq (execLaceBeatReceive link dir lace ok s) := by
  unfold execLaceBeatReceive
  try dsimp only
  repeat' (first
    | with_reducible assumption
    | with_reducible apply NextKept.next
    | with_reducible apply bumpGen_kept
    | with_reducible apply modLink_kept
    | with_reducible apply modDir_kept
    | with_reducible apply retireLace_kept
    | (with_reducible refine Kept.choice (fun _ => ?_) (fun _ => ?_)))

theorem execLaceRetire_kept {pq : List Instr} (link : Fin 23) (dir : Bool) (lace : Fin 18) (s : State) (h : Kept pq s) : NextKept pq (execLaceRetire link dir lace s) := by
  unfold execLaceRetire
  try dsimp only
  repeat' (first
    | with_reducible assumption
    | with_reducible apply NextKept.next
    | with_reducible apply retireLace_kept)

theorem execLaceHandshakeTimeout_kept {pq : List Instr} (link : Fin 23) (dir : Bool) (lace : Fin 18) (s : State) (h : Kept pq s) : NextKept pq (execLaceHandshakeTimeout link dir lace s) := by
  unfold execLaceHandshakeTimeout
  try dsimp only
  repeat' (first
    | with_reducible assumption
    | with_reducible apply NextKept.next
    | with_reducible apply retireLace_kept
    | (with_reducible refine Kept.choice (fun _ => ?_) (fun _ => ?_)))

theorem execSpareLaceTrained_kept {pq : List Instr} (link : Fin 23) (dir : Bool) (lace : Fin 18) (s : State) (h : Kept pq s) : NextKept pq (execSpareLaceTrained link dir lace s) := by
  unfold execSpareLaceTrained
  try dsimp only
  repeat' (first
    | with_reducible assumption
    | with_reducible apply NextKept.next
    | with_reducible apply noted_kept
    | with_reducible apply modDir_kept
    | (with_reducible refine Kept.choice (fun _ => ?_) (fun _ => ?_)))

theorem startLaceRetrain_kept {pq : List Instr} (s : State) (l : Fin 23) (d : Bool) (lace : Fin 18) (h : Kept pq s) : Kept pq (startLaceRetrain s l d lace) := by
  unfold startLaceRetrain
  try dsimp only
  repeat' (first
    | with_reducible assumption
    | with_reducible apply modDir_kept)

theorem execLaceRetrainDone_kept {pq : List Instr} (link : Fin 23) (dir : Bool) (lace : Fin 18) (ok : Bool) (s : State) (h : Kept pq s) : NextKept pq (execLaceRetrainDone link dir lace ok s) := by
  unfold execLaceRetrainDone
  try dsimp only
  repeat' (first
    | with_reducible assumption
    | with_reducible apply NextKept.next
    | with_reducible apply noted_kept
    | with_reducible apply modLink_kept
    | with_reducible apply modDir_kept
    | with_reducible apply retireLace_kept
    | (with_reducible refine Kept.choice (fun _ => ?_) (fun _ => ?_)))

theorem landed_kept {pq : List Instr} (s : State) (f : Flit) (h : Kept pq s) : Kept pq (landed s f) := by
  unfold landed
  try dsimp only
  repeat' (first
    | with_reducible assumption
    | with_reducible apply modLacing_kept)

theorem waitOutside_kept {pq : List Instr} (s : State) (f : Flit) (h : Kept pq s) : Kept pq (waitOutside s f) := by
  unfold waitOutside
  try dsimp only
  repeat' (first
    | with_reducible assumption
    | with_reducible apply sendFlit_kept
    | (with_reducible refine Kept.choice (fun _ => ?_) (fun _ => ?_)))

theorem memPutFlit_kept {pq : List Instr} (s : State) (f : Flit) (h : Kept pq s) : Kept pq (memPutFlit s f) := by
  unfold memPutFlit
  try dsimp only
  repeat' (first
    | with_reducible assumption
    | with_reducible apply memPut_kept
    | (with_reducible refine Kept.foldl (fun _ _ _ => ?_) ?_)
    | (with_reducible refine Kept.choice (fun _ => ?_) (fun _ => ?_)))

theorem memoryFlit_kept {pq : List Instr} (s : State) (f : Flit) (ecc : Ecc) (h : Kept pq s) : Kept pq (memoryFlit s f ecc) := by
  unfold memoryFlit
  try dsimp only
  repeat' (first
    | with_reducible assumption
    | with_reducible apply respond_kept
    | with_reducible apply memMeets_kept
    | with_reducible apply memPutFlit_kept
    | (with_reducible refine Kept.choice (fun _ => ?_) (fun _ => ?_)))

theorem requestArrives_kept {pq : List Instr} (s : State) (f : Flit) (ecc : Ecc) (h : Kept pq s) : Kept pq (requestArrives s f ecc) := by
  unfold requestArrives
  try dsimp only
  repeat' (first
    | with_reducible assumption
    | with_reducible apply modStk_kept
    | with_reducible apply respond_kept
    | with_reducible apply landed_kept
    | with_reducible apply waitOutside_kept
    | with_reducible apply memoryFlit_kept
    | (with_reducible refine Kept.choice (fun _ => ?_) (fun _ => ?_))
    | split)

theorem execRd_kept {pq : List Instr} (f : Flit) (ecc : Ecc) (s : State) (h : Kept pq s) : NextKept pq (execRd f ecc s) := by
  unfold execRd
  try dsimp only
  repeat' (first
    | with_reducible assumption
    | with_reducible apply NextKept.next
    | with_reducible apply requestArrives_kept
    | (with_reducible refine Kept.choice (fun _ => ?_) (fun _ => ?_)))

theorem execWr_kept {pq : List Instr} (f : Flit) (s : State) (h : Kept pq s) : NextKept pq (execWr f s) := by
  unfold execWr
  try dsimp only
  repeat' (first
    | with_reducible assumption
    | with_reducible apply NextKept.next
    | with_reducible apply requestArrives_kept
    | (with_reducible refine Kept.choice (fun _ => ?_) (fun _ => ?_)))

theorem execWrp_kept {pq : List Instr} (f : Flit) (s : State) (h : Kept pq s) : NextKept pq (execWrp f s) := by
  unfold execWrp
  try dsimp only
  repeat' (first
    | with_reducible assumption
    | with_reducible apply NextKept.next
    | with_reducible apply requestArrives_kept
    | (with_reducible refine Kept.choice (fun _ => ?_) (fun _ => ?_)))

theorem failTxn_kept {pq : List Instr} (s : State) (c : CoreId) (tag : Nat) (st : BitVec 4) (h : Kept pq s) : Kept pq (failTxn s c tag st) := by
  unfold failTxn
  try dsimp only
  repeat' (first
    | with_reducible assumption
    | with_reducible apply modSeq_kept
    | with_reducible apply seqFault_kept
    | (with_reducible refine Kept.choice (fun _ => ?_) (fun _ => ?_)))

theorem answerTxn_kept {pq : List Instr} (s : State) (c : CoreId) (tag : Nat) (f : Flit) (h : Kept pq s) : Kept pq (answerTxn s c tag f) := by
  unfold answerTxn
  try dsimp only
  repeat' (first
    | with_reducible assumption
    | with_reducible apply modCore_kept
    | with_reducible apply modSeq_kept
    | with_reducible apply modLacing_kept
    | with_reducible apply failTxn_kept
    | (with_reducible refine Kept.choice (fun _ => ?_) (fun _ => ?_)))

theorem execRdr_kept {pq : List Instr} (f : Flit) (s : State) (h : Kept pq s) : NextKept pq (execRdr f s) := by
  unfold execRdr
  try dsimp only
  repeat' (first
    | with_reducible assumption
    | with_reducible apply NextKept.next
    | with_reducible apply landed_kept
    | with_reducible apply answerTxn_kept
    | split)

theorem execAck_kept {pq : List Instr} (f : Flit) (s : State) (h : Kept pq s) : NextKept pq (execAck f s) := by
  unfold execAck
  try dsimp only
  repeat' (first
    | with_reducible assumption
    | with_reducible apply NextKept.next
    | with_reducible apply landed_kept
    | with_reducible apply answerTxn_kept
    | (with_reducible refine Kept.foldl (fun _ _ _ => ?_) ?_)
    | split)

theorem execBarrierArrival_kept {pq : List Instr} (f : Flit) (s : State) (h : Kept pq s) : NextKept pq (execBarrierArrival f s) := by
  unfold execBarrierArrival
  try dsimp only
  repeat' (first
    | with_reducible assumption
    | with_reducible apply NextKept.next
    | with_reducible apply modCore_kept
    | with_reducible apply barrierCheck_kept
    | with_reducible apply landed_kept
    | (with_reducible refine Kept.choice (fun _ => ?_) (fun _ => ?_))
    | split)

theorem execCreditResync_kept {pq : List Instr} (f : Flit) (s : State) (h : Kept pq s) : NextKept pq (execCreditResync f s) := by
  unfold execCreditResync
  try dsimp only
  repeat' (first
    | with_reducible assumption
    | with_reducible apply NextKept.next
    | with_reducible apply landed_kept
    | (with_reducible refine Kept.choice (fun _ => ?_) (fun _ => ?_)))

theorem execIkiedMgmtMsg_kept {pq : List Instr} (f : Flit) (s : State) (h : Kept pq s) : NextKept pq (execIkiedMgmtMsg f s) := by
  unfold execIkiedMgmtMsg
  try dsimp only
  repeat' (first
    | with_reducible assumption
    | with_reducible apply NextKept.next
    | with_reducible apply landed_kept
    | (with_reducible refine Kept.choice (fun _ => ?_) (fun _ => ?_)))

theorem execCreditReturn_kept {pq : List Instr} (c : CoreId) (q : SeqId) (vc3 : Bool) (s : State) (h : Kept pq s) : NextKept pq (execCreditReturn c q vc3 s) := by
  unfold execCreditReturn
  try dsimp only
  repeat' (first
    | with_reducible assumption
    | with_reducible apply NextKept.next
    | with_reducible apply modSeq_kept)

theorem execOutstandingPathAbort_kept {pq : List Instr} (n : Fin 15) (s : State) (h : Kept pq s) : NextKept pq (execOutstandingPathAbort n s) := by
  unfold execOutstandingPathAbort
  try dsimp only
  repeat' (first
    | with_reducible assumption
    | with_reducible apply NextKept.next
    | with_reducible apply modCore_kept
    | with_reducible apply seqFault_kept
    | with_reducible apply modTiers_kept
    | with_reducible apply failTxn_kept
    | (with_reducible refine Kept.foldl (fun _ _ _ => ?_) ?_)
    | (with_reducible refine Kept.choice (fun _ => ?_) (fun _ => ?_))
    | split)

theorem execTagQuarantineEnd_kept {pq : List Instr} (c : CoreId) (tag : BitVec 12) (s : State) (h : Kept pq s) : NextKept pq (execTagQuarantineEnd c tag s) := by
  unfold execTagQuarantineEnd
  try dsimp only
  repeat' (first
    | with_reducible assumption
    | with_reducible apply NextKept.next
    | with_reducible apply modCore_kept)

theorem execRouterFail_kept {pq : List Instr} (n : CoreId) (s : State) (h : Kept pq s) : NextKept pq (execRouterFail n s) := by
  unfold execRouterFail
  try dsimp only
  repeat' (first
    | with_reducible assumption
    | with_reducible apply NextKept.next
    | with_reducible apply noted_kept
    | with_reducible apply setNode_kept
    | with_reducible apply routeChange_kept
    | with_reducible apply modTiers_kept
    | (with_reducible refine Kept.choice (fun _ => ?_) (fun _ => ?_))
    | split)

theorem execDistRecompute_kept {pq : List Instr} (hopPs bndPs vlacMv tlacQ : BitVec 16) (s : State) (h : Kept pq s) : NextKept pq (execDistRecompute hopPs bndPs vlacMv tlacQ s) := by
  unfold execDistRecompute
  try dsimp only
  repeat' (first
    | with_reducible assumption
    | with_reducible apply NextKept.next
    | with_reducible apply rewriteDist_kept
    | with_reducible apply modLacing_kept
    | (with_reducible refine Kept.choice (fun _ => ?_) (fun _ => ?_)))

theorem portRecord_kept {pq : List Instr} (s : State) (kind index : Nat) (sev flags : BitVec 8) (state mode width errs moved : Nat) (h : Kept pq s) : Kept pq (portRecord s kind index sev flags state mode width errs moved) := by
  unfold portRecord
  try dsimp only
  repeat' (first
    | with_reducible assumption
    | with_reducible apply writeRecord_kept)

theorem modSite_kept {pq : List Instr} (s : State) (u : Fin 16) (f : Site → Site) (h : Kept pq s) : Kept pq (modSite s u f) := by
  unfold modSite
  try dsimp only
  repeat' (first
    | with_reducible assumption
    | (simp only [kept_update]))

theorem execUcieModuleFail_kept {pq : List Instr} (site : Fin 16) (s : State) (h : Kept pq s) : NextKept pq (execUcieModuleFail site s) := by
  unfold execUcieModuleFail
  try dsimp only
  repeat' (first
    | with_reducible assumption
    | with_reducible apply NextKept.next
    | with_reducible apply modLink_kept
    | with_reducible apply failLink_kept
    | with_reducible apply portRecord_kept
    | with_reducible apply modSite_kept
    | (with_reducible refine Kept.choice (fun _ => ?_) (fun _ => ?_)))

end Sys2Proof.Machine
end

