-- ==== Sys2Proof/Laws/KeptEyes.lean ====
section
/-!
SUPPORT. What the operations of Machine/Eyes.lean keep: the queue and the invariant.
-/
set_option linter.unusedSimpArgs false
namespace Sys2Proof.Machine

theorem modEyes_kept {pq : List Instr} (s : State) (f : Eyes → Eyes) (h : Kept pq s) : Kept pq (modEyes s f) := by
  unfold modEyes
  try dsimp only
  repeat' (first
    | with_reducible assumption
    | (simp only [kept_update]))

theorem modEye_kept {pq : List Instr} (s : State) (p : Fin 8) (f : EyePort → EyePort) (h : Kept pq s) : Kept pq (modEye s p f) := by
  unfold modEye
  try dsimp only
  repeat' (first
    | with_reducible assumption
    | with_reducible apply modEyes_kept)

theorem modSession_kept {pq : List Instr} (s : State) (n : BitVec 24) (f : Session → Session) (h : Kept pq s) : Kept pq (modSession s n f) := by
  unfold modSession
  try dsimp only
  repeat' (first
    | with_reducible assumption
    | with_reducible apply modEyes_kept)

theorem emit_kept {pq : List Instr} (s : State) (x : Session) (p : Packet) (h : Kept pq s) : Kept pq (emit s x p) := by
  unfold emit
  try dsimp only
  repeat' (first
    | with_reducible assumption
    | with_reducible apply modEyes_kept
    | split)

theorem resend_kept {pq : List Instr} (s : State) (x : Session) (u : Unacked) (h : Kept pq s) : Kept pq (resend s x u) := by
  unfold resend
  try dsimp only
  repeat' (first
    | with_reducible assumption
    | with_reducible apply emit_kept)

theorem moveSession_kept {pq : List Instr} (s : State) (n : BitVec 24) (h : Kept pq s) : Kept pq (moveSession s n) := by
  unfold moveSession
  try dsimp only
  repeat' (first
    | with_reducible assumption
    | with_reducible apply modSession_kept
    | with_reducible apply emit_kept
    | with_reducible apply resend_kept
    | (with_reducible refine Kept.foldl (fun _ _ _ => ?_) ?_)
    | (with_reducible refine Kept.choice (fun _ => ?_) (fun _ => ?_))
    | split)

theorem leavePort_kept {pq : List Instr} (s : State) (p : Fin 8) (h : Kept pq s) : Kept pq (leavePort s p) := by
  unfold leavePort
  try dsimp only
  repeat' (first
    | with_reducible assumption
    | with_reducible apply moveSession_kept
    | (with_reducible refine Kept.foldl (fun _ _ _ => ?_) ?_))

theorem rehome_kept {pq : List Instr} (s : State) (h : Kept pq s) : Kept pq (rehome s) := by
  unfold rehome
  try dsimp only
  repeat' (first
    | with_reducible assumption
    | with_reducible apply moveSession_kept
    | (with_reducible refine Kept.foldl (fun _ _ _ => ?_) ?_))

theorem eyeRecord_kept {pq : List Instr} (s : State) (p : Fin 8) (sev flags : BitVec 8) (moved : Nat) (h : Kept pq s) : Kept pq (eyeRecord s p sev flags moved) := by
  unfold eyeRecord
  try dsimp only
  repeat' (first
    | with_reducible assumption
    | with_reducible apply portRecord_kept)

theorem retireEye_kept {pq : List Instr} (s : State) (p : Fin 8) (h : Kept pq s) : Kept pq (retireEye s p) := by
  unfold retireEye
  try dsimp only
  repeat' (first
    | with_reducible assumption
    | with_reducible apply condAppend_kept
    | with_reducible apply modEye_kept
    | with_reducible apply leavePort_kept
    | with_reducible apply eyeRecord_kept
    | (with_reducible refine Kept.choice (fun _ => ?_) (fun _ => ?_)))

theorem faultEsends_kept {pq : List Instr} (s : State) (n : BitVec 24) (code : BitVec 8) (h : Kept pq s) : Kept pq (faultEsends s n code) := by
  unfold faultEsends
  try dsimp only
  repeat' (first
    | with_reducible assumption
    | with_reducible apply seqFault_kept
    | (with_reducible refine Kept.foldl (fun _ _ _ => ?_) ?_)
    | (with_reducible refine Kept.choice (fun _ => ?_) (fun _ => ?_)))

theorem mapSnaps_kept {pq : List Instr} (s : State) (f : Snapshot → Snapshot) (h : Kept pq s) : Kept pq (mapSnaps s f) := by
  unfold mapSnaps
  try dsimp only
  repeat' (first
    | with_reducible assumption
    | (simp only [kept_update]))

theorem emptyDuplicate_kept {pq : List Instr} (s : State) (h : Kept pq s) : Kept pq (emptyDuplicate s) := by
  unfold emptyDuplicate
  try dsimp only
  repeat' (first
    | with_reducible assumption
    | with_reducible apply dropRestore_kept
    | with_reducible apply mapSnaps_kept)

theorem unpair_kept {pq : List Instr} (s : State) (h : Kept pq s) : Kept pq (unpair s) := by
  unfold unpair
  try dsimp only
  repeat' (first
    | with_reducible assumption
    | with_reducible apply modFlash_kept
    | with_reducible apply loseBytes_kept
    | with_reducible rfl
    | (simp only [kept_update])
    | split)

theorem spoilMessage_kept {pq : List Instr} (s : State) (m : BitVec 32) (h : Kept pq s) : Kept pq (spoilMessage s m) := by
  unfold spoilMessage
  try dsimp only
  repeat' (first
    | with_reducible assumption
    | with_reducible apply mapSnaps_kept)

theorem dropSession_kept {pq : List Instr} (s : State) (n : BitVec 24) (h : Kept pq s) : Kept pq (dropSession s n) := by
  unfold dropSession
  try dsimp only
  repeat' (first
    | with_reducible assumption
    | with_reducible apply modEyes_kept
    | with_reducible apply emptyDuplicate_kept
    | (with_reducible refine Kept.choice (fun _ => ?_) (fun _ => ?_)))

theorem closeSession_kept {pq : List Instr} (s : State) (n : BitVec 24) (h : Kept pq s) : Kept pq (closeSession s n) := by
  unfold closeSession
  try dsimp only
  repeat' (first
    | with_reducible assumption
    | with_reducible apply noted_kept
    | with_reducible apply emit_kept
    | with_reducible apply dropSession_kept
    | (with_reducible refine Kept.choice (fun _ => ?_) (fun _ => ?_))
    | split)

theorem closeJobSessions_kept {pq : List Instr} (s : State) (j : BitVec 6) (h : Kept pq s) : Kept pq (closeJobSessions s j) := by
  unfold closeJobSessions
  try dsimp only
  repeat' (first
    | with_reducible assumption
    | with_reducible apply closeSession_kept
    | (with_reducible refine Kept.foldl (fun _ _ _ => ?_) ?_))

theorem sendTracked_kept {pq : List Instr} (s : State) (x : Session) (p : Packet) (core : Option (CoreId × SeqId)) (h : Kept pq s) : Kept pq (sendTracked s x p core) := by
  unfold sendTracked
  try dsimp only
  repeat' (first
    | with_reducible assumption
    | with_reducible apply modSession_kept
    | with_reducible apply emit_kept
    | (with_reducible refine Kept.choice (fun _ => ?_) (fun _ => ?_)))

theorem pump_kept {pq : List Instr} {n : BitVec 24} : ∀ {k : Nat} {s : State}, Kept pq s → Kept pq (pump n k s)
  | 0, _, h => h
  | k + 1, s, h => by
    unfold pump
    split
    · exact h
    · split
      · exact h
      · exact Kept.choice (fun _ => h) (fun _ => pump_kept (emit_kept _ _ _ (modSession_kept _ _ _ h)))

theorem execEsend_kept {pq : List Instr} (c : CoreId) (d : Fin 8) (w : BitVec 120) (ev : List EccEvent) (s : State) (h : Kept pq s) : NextKept pq (execEsend c d w ev s) := by
  unfold execEsend
  try dsimp only
  repeat' (first
    | with_reducible assumption
    | with_reducible apply NextKept.next
    | with_reducible apply engineInstr_kept
    | with_reducible apply modSession_kept
    | with_reducible apply sendTracked_kept
    | (simp only [kept_update])
    | (with_reducible refine PhaseKept.finish (fun _ _ => ?_))
    | (with_reducible refine PhaseKept.act (fun _ _ => ?_))
    | with_reducible exact PhaseKept.access
    | with_reducible exact PhaseKept.hold
    | with_reducible exact PhaseKept.fault
    | (with_reducible refine PhaseKept.choice (fun _ => ?_) (fun _ => ?_))
    | intro _ _
    | (simp only [id_eq])
    | split)

theorem dropPacket_kept {pq : List Instr} (s : State) (h : Kept pq s) : Kept pq (dropPacket s) := by
  unfold dropPacket
  try dsimp only
  repeat' (first
    | with_reducible assumption
    | with_reducible apply modEyes_kept)

theorem sendAck_kept {pq : List Instr} (s : State) (n : BitVec 24) (entries : List (BitVec 32 × BitVec 8)) (h : Kept pq s) : Kept pq (sendAck s n entries) := by
  unfold sendAck
  try dsimp only
  repeat' (first
    | with_reducible assumption
    | with_reducible apply modSession_kept
    | with_reducible apply emit_kept
    | split)

theorem ackNoSession_kept {pq : List Instr} (s : State) (port : Fin 8) (p : Packet) (h : Kept pq s) : Kept pq (ackNoSession s port p) := by
  unfold ackNoSession
  try dsimp only
  repeat' (first
    | with_reducible assumption
    | with_reducible apply modEyes_kept)

theorem countDenied_kept {pq : List Instr} (s : State) (a : Nat) (h : Kept pq s) : Kept pq (countDenied s a) := by
  unfold countDenied
  try dsimp only
  repeat' (first
    | with_reducible assumption
    | with_reducible apply modCarrel_kept
    | split)

theorem freeBytes_kept {pq : List Instr} : ∀ {n : Nat} {s : State}, Kept pq s → Kept pq (freeBytes n s).2
  | 0, _, h => h
  | n + 1, s, h => freeBytes_kept (n := n) (s := (takeFree s).2) (takeFree_kept h)

theorem carrelPut_kept {pq : List Instr} (s : State) (c : CoreId) (i : Fin 64) (a lo : Nat) (data : List Byte) (bad : Bool) (h : Kept pq s) : Kept pq (carrelPut s c i a lo data bad) := by
  unfold carrelPut
  try dsimp only
  repeat' (first
    | with_reducible assumption
    | with_reducible apply setFull_kept
    | with_reducible apply stkPut_kept
    | with_reducible apply modCarrel_kept
    | (with_reducible refine Kept.choice (fun _ => ?_) (fun _ => ?_)))

theorem putEytSlot_kept {pq : List Instr} (n : BitVec 24) (x : State × BitVec 8) (d : Nat × List Byte × Bool)
    (h : Kept pq x.1) : Kept pq (putEytSlot n x d).1 := by
  unfold putEytSlot
  split
  · exact Kept.choice (fun _ => countDenied_kept _ _ h) (fun _ => h)
  · split
    · exact carrelPut_kept _ _ _ _ _ _ _ (freeBytes_kept h)
    · exact carrelPut_kept _ _ _ _ _ _ _ h

theorem putEytSlots_kept {pq : List Instr} {n : BitVec 24} : ∀ {l : List (Nat × List Byte × Bool)} {x : State × BitVec 8},
    Kept pq x.1 → Kept pq (l.foldl (putEytSlot n) x).1
  | [], _, h => h
  | d :: t, x, h => by
    rw [List.foldl_cons]
    exact putEytSlots_kept (putEytSlot_kept n x d h)

theorem putDuplicate_kept {pq : List Instr} (s : State) (p : Packet) (data : List Byte) (h : Kept pq s) : Kept pq (putDuplicate s p data).1 := by
  unfold putDuplicate
  try dsimp only
  repeat' (first
    | with_reducible assumption
    | with_reducible apply memPut_kept
    | with_reducible apply freeBytes_kept
    | (with_reducible refine Kept.foldl (fun _ _ _ => ?_) ?_)
    | split)

theorem applyData_kept {pq : List Instr} (s : State) (x : Session) (p : Packet) (data : List Byte) (h : Kept pq s) : Kept pq (applyData s x p data).1 := by
  unfold applyData
  try dsimp only
  repeat' (first
    | with_reducible assumption
    | with_reducible apply putDuplicate_kept
    | with_reducible apply putEytSlots_kept
    | split)

theorem takeData_kept {pq : List Instr} (s : State) (n : BitVec 24) (p : Packet) (h : Kept pq s) : Kept pq (takeData s n p) := by
  unfold takeData
  try dsimp only
  repeat' (first
    | with_reducible assumption
    | with_reducible apply modSession_kept
    | with_reducible apply dropPacket_kept
    | with_reducible apply sendAck_kept
    | with_reducible apply applyData_kept
    | (with_reducible refine Kept.choice (fun _ => ?_) (fun _ => ?_))
    | split)

theorem releaseHeld_kept {pq : List Instr} {n : BitVec 24} : ∀ {k : Nat} {s : State}, Kept pq s → Kept pq (releaseHeld n k s)
  | 0, _, h => h
  | k + 1, s, h => by
    unfold releaseHeld
    split
    · exact h
    · split
      · exact h
      · exact releaseHeld_kept (takeData_kept _ _ _ (modSession_kept _ _ _ h))

theorem execEytData_kept {pq : List Instr} (port : Fin 8) (p : Packet) (s : State) (h : Kept pq s) : NextKept pq (execEytData port p s) := by
  unfold execEytData
  try dsimp only
  repeat' (first
    | with_reducible assumption
    | with_reducible apply NextKept.next
    | with_reducible apply modSession_kept
    | with_reducible apply dropPacket_kept
    | with_reducible apply sendAck_kept
    | with_reducible apply ackNoSession_kept
    | with_reducible apply takeData_kept
    | with_reducible apply releaseHeld_kept
    | (with_reducible refine Kept.choice (fun _ => ?_) (fun _ => ?_))
    | split)

theorem settleUnacked_kept {pq : List Instr} (n : BitVec 24) (p : Packet) (s : State) (u : Unacked) (h : Kept pq s) : Kept pq (settleUnacked n p s u) := by
  unfold settleUnacked
  try dsimp only
  repeat' (first
    | with_reducible assumption
    | with_reducible apply dropRestore_kept
    | with_reducible apply seqFault_kept
    | with_reducible apply modSession_kept
    | with_reducible apply spoilMessage_kept
    | (with_reducible refine Kept.choice (fun _ => ?_) (fun _ => ?_))
    | split)

theorem execEytAck_kept {pq : List Instr} (port : Fin 8) (p : Packet) (s : State) (h : Kept pq s) : NextKept pq (execEytAck port p s) := by
  unfold execEytAck
  try dsimp only
  repeat' (first
    | with_reducible assumption
    | with_reducible apply NextKept.next
    | with_reducible apply resend_kept
    | with_reducible apply pump_kept
    | with_reducible apply dropPacket_kept
    | with_reducible apply settleUnacked_kept
    | (with_reducible refine Kept.foldl (fun _ _ _ => ?_) ?_)
    | (with_reducible refine Kept.choice (fun _ => ?_) (fun _ => ?_))
    | split)

theorem endPair_kept {pq : List Instr} (s : State) (st : BitVec 16) (resp : List Byte) (h : Kept pq s) : Kept pq (endPair s st resp) := by
  unfold endPair
  try dsimp only
  repeat' (first
    | with_reducible assumption
    | with_reducible apply modReg_kept
    | with_reducible rfl
    | with_reducible exact Nat.le_refl _)

theorem endPairing_kept {pq : List Instr} (s : State) (st : BitVec 16) (h : Kept pq s) : Kept pq (endPairing s st) := by
  unfold endPairing
  try dsimp only
  repeat' (first
    | with_reducible assumption
    | with_reducible apply modFlash_kept
    | with_reducible apply endPair_kept
    | with_reducible rfl
    | (with_reducible refine Kept.choice (fun _ => ?_) (fun _ => ?_)))

theorem notePeer_kept {pq : List Instr} (s : State) (n : BitVec 24) (p : Packet) (h : Kept pq s) : Kept pq (notePeer s n p) := by
  unfold notePeer
  try dsimp only
  repeat' (first
    | with_reducible assumption
    | with_reducible apply modFlash_kept
    | with_reducible apply closeSession_kept
    | with_reducible apply endPair_kept
    | with_reducible apply endPairing_kept
    | with_reducible rfl
    | (with_reducible refine Kept.choice (fun _ => ?_) (fun _ => ?_))
    | (simp only [kept_update]))

theorem openSession_kept {pq : List Instr} (s : State) (n : BitVec 24) (p : Packet) (h : Kept pq s) : Kept pq (openSession s n p) := by
  unfold openSession
  try dsimp only
  repeat' (first
    | with_reducible assumption
    | with_reducible apply noted_kept
    | with_reducible apply modSession_kept
    | with_reducible apply notePeer_kept
    | (with_reducible refine Kept.choice (fun _ => ?_) (fun _ => ?_))
    | split)

theorem execEytOpen_kept {pq : List Instr} (port : Fin 8) (p : Packet) (s : State) (h : Kept pq s) : NextKept pq (execEytOpen port p s) := by
  unfold execEytOpen
  try dsimp only
  repeat' (first
    | with_reducible assumption
    | with_reducible apply NextKept.next
    | with_reducible apply modEyes_kept
    | with_reducible apply emit_kept
    | with_reducible apply dropPacket_kept
    | with_reducible apply openSession_kept
    | (with_reducible refine Kept.choice (fun _ => ?_) (fun _ => ?_))
    | split)

theorem execEytOpenAck_kept {pq : List Instr} (port : Fin 8) (p : Packet) (s : State) (h : Kept pq s) : NextKept pq (execEytOpenAck port p s) := by
  unfold execEytOpenAck
  try dsimp only
  repeat' (first
    | with_reducible assumption
    | with_reducible apply NextKept.next
    | with_reducible apply modSession_kept
    | with_reducible apply dropPacket_kept
    | with_reducible apply openSession_kept
    | (with_reducible refine Kept.choice (fun _ => ?_) (fun _ => ?_))
    | split)

theorem execEytClose_kept {pq : List Instr} (port : Fin 8) (p : Packet) (s : State) (h : Kept pq s) : NextKept pq (execEytClose port p s) := by
  unfold execEytClose
  try dsimp only
  repeat' (first
    | with_reducible assumption
    | with_reducible apply NextKept.next
    | with_reducible apply noted_kept
    | with_reducible apply faultEsends_kept
    | with_reducible apply unpair_kept
    | with_reducible apply dropSession_kept
    | with_reducible apply dropPacket_kept
    | with_reducible apply endPairing_kept
    | (with_reducible refine Kept.choice (fun _ => ?_) (fun _ => ?_))
    | split)

theorem execEytKeepalive_kept {pq : List Instr} (port : Fin 8) (p : Packet) (s : State) (h : Kept pq s) : NextKept pq (execEytKeepalive port p s) := by
  unfold execEytKeepalive
  try dsimp only
  repeat' (first
    | with_reducible assumption
    | with_reducible apply NextKept.next
    | with_reducible apply pump_kept
    | with_reducible apply dropPacket_kept
    | with_reducible apply settleUnacked_kept
    | (with_reducible refine Kept.foldl (fun _ _ _ => ?_) ?_)
    | (with_reducible refine Kept.choice (fun _ => ?_) (fun _ => ?_))
    | split)

theorem execEytMove_kept {pq : List Instr} (port : Fin 8) (p : Packet) (s : State) (h : Kept pq s) : NextKept pq (execEytMove port p s) := by
  unfold execEytMove
  try dsimp only
  repeat' (first
    | with_reducible assumption
    | with_reducible apply NextKept.next
    | with_reducible apply modSession_kept
    | with_reducible apply resend_kept
    | with_reducible apply dropPacket_kept
    | (with_reducible refine Kept.foldl (fun _ _ _ => ?_) ?_)
    | (with_reducible refine Kept.choice (fun _ => ?_) (fun _ => ?_))
    | split)

theorem execEytRreq_kept {pq : List Instr} (port : Fin 8) (p : Packet) (s : State) (h : Kept pq s) : NextKept pq (execEytRreq port p s) := by
  unfold execEytRreq
  try dsimp only
  repeat' (first
    | with_reducible assumption
    | with_reducible apply NextKept.next
    | with_reducible apply emit_kept
    | with_reducible apply dropPacket_kept
    | with_reducible apply sendAck_kept
    | with_reducible apply ackNoSession_kept
    | (with_reducible refine Kept.foldl (fun _ _ _ => ?_) ?_)
    | (with_reducible refine Kept.choice (fun _ => ?_) (fun _ => ?_))
    | split)

theorem discardFrame_kept {pq : List Instr} (s : State) (p : Fin 8) (h : Kept pq s) : Kept pq (discardFrame s p) := by
  unfold discardFrame
  try dsimp only
  repeat' (first
    | with_reducible assumption
    | with_reducible apply modEye_kept)

theorem sendFrame_kept {pq : List Instr} (s : State) (p : Fin 8) (l : List Byte) (h : Kept pq s) : Kept pq (sendFrame s p l) := by
  unfold sendFrame
  try dsimp only
  repeat' (first
    | with_reducible assumption
    | with_reducible apply modEyes_kept)

theorem execNeighbourDiscovery_kept {pq : List Instr} (port : Fin 8) (target src : BitVec 128) (s : State) (h : Kept pq s) : NextKept pq (execNeighbourDiscovery port target src s) := by
  unfold execNeighbourDiscovery
  try dsimp only
  repeat' (first
    | with_reducible assumption
    | with_reducible apply NextKept.next
    | with_reducible apply discardFrame_kept
    | with_reducible apply sendFrame_kept
    | (with_reducible refine Kept.choice (fun _ => ?_) (fun _ => ?_)))

theorem execIcmpv6Echo_kept {pq : List Instr} (port : Fin 8) (dst src : BitVec 128) (data : List Byte) (s : State) (h : Kept pq s) : NextKept pq (execIcmpv6Echo port dst src data s) := by
  unfold execIcmpv6Echo
  try dsimp only
  repeat' (first
    | with_reducible assumption
    | with_reducible apply NextKept.next
    | with_reducible apply discardFrame_kept
    | with_reducible apply sendFrame_kept
    | (with_reducible refine Kept.choice (fun _ => ?_) (fun _ => ?_)))

theorem execForeignFrame_kept {pq : List Instr} (port : Fin 8) (s : State) (h : Kept pq s) : NextKept pq (execForeignFrame port s) := by
  unfold execForeignFrame
  try dsimp only
  repeat' (first
    | with_reducible assumption
    | with_reducible apply NextKept.next
    | with_reducible apply discardFrame_kept
    | (with_reducible refine Kept.choice (fun _ => ?_) (fun _ => ?_)))

theorem execEytRtoExpire_kept {pq : List Instr} (sess : BitVec 24) (psn : BitVec 32) (s : State) (h : Kept pq s) : NextKept pq (execEytRtoExpire sess psn s) := by
  unfold execEytRtoExpire
  try dsimp only
  repeat' (first
    | with_reducible assumption
    | with_reducible apply NextKept.next
    | with_reducible apply modSession_kept
    | with_reducible apply resend_kept
    | (with_reducible refine Kept.choice (fun _ => ?_) (fun _ => ?_))
    | split)

theorem execCarrelFullRetry_kept {pq : List Instr} (sess : BitVec 24) (psn : BitVec 32) (s : State) (h : Kept pq s) : NextKept pq (execCarrelFullRetry sess psn s) := by
  unfold execCarrelFullRetry
  try dsimp only
  repeat' (first
    | with_reducible assumption
    | with_reducible apply NextKept.next
    | with_reducible apply resend_kept
    | (with_reducible refine Kept.choice (fun _ => ?_) (fun _ => ?_))
    | split)

theorem execEytAckDelay_kept {pq : List Instr} (sess : BitVec 24) (s : State) (h : Kept pq s) : NextKept pq (execEytAckDelay sess s) := by
  unfold execEytAckDelay
  try dsimp only
  repeat' (first
    | with_reducible assumption
    | with_reducible apply NextKept.next
    | with_reducible apply sendAck_kept
    | (with_reducible refine Kept.choice (fun _ => ?_) (fun _ => ?_))
    | split)

theorem execEytKeepaliveTimer_kept {pq : List Instr} (sess : BitVec 24) (s : State) (h : Kept pq s) : NextKept pq (execEytKeepaliveTimer sess s) := by
  unfold execEytKeepaliveTimer
  try dsimp only
  repeat' (first
    | with_reducible assumption
    | with_reducible apply NextKept.next
    | with_reducible apply emit_kept
    | (with_reducible refine Kept.choice (fun _ => ?_) (fun _ => ?_))
    | split)

theorem execEytSessionDead_kept {pq : List Instr} (sess : BitVec 24) (s : State) (h : Kept pq s) : NextKept pq (execEytSessionDead sess s) := by
  unfold execEytSessionDead
  try dsimp only
  repeat' (first
    | with_reducible assumption
    | with_reducible apply NextKept.next
    | with_reducible apply noted_kept
    | with_reducible apply modEyes_kept
    | with_reducible apply modSession_kept
    | with_reducible apply faultEsends_kept
    | with_reducible apply emptyDuplicate_kept
    | with_reducible apply endPairing_kept
    | (with_reducible refine Kept.choice (fun _ => ?_) (fun _ => ?_))
    | split)

theorem execEyeletLinkDown_kept {pq : List Instr} (port : Fin 8) (s : State) (h : Kept pq s) : NextKept pq (execEyeletLinkDown port s) := by
  unfold execEyeletLinkDown
  try dsimp only
  repeat' (first
    | with_reducible assumption
    | with_reducible apply NextKept.next
    | with_reducible apply noted_kept
    | with_reducible apply modEye_kept
    | with_reducible apply leavePort_kept
    | with_reducible apply retireEye_kept
    | (with_reducible refine Kept.choice (fun _ => ?_) (fun _ => ?_)))

theorem execEyeletLinkUp_kept {pq : List Instr} (port : Fin 8) (ok : Bool) (s : State) (h : Kept pq s) : NextKept pq (execEyeletLinkUp port ok s) := by
  unfold execEyeletLinkUp
  try dsimp only
  repeat' (first
    | with_reducible assumption
    | with_reducible apply NextKept.next
    | with_reducible apply noted_kept
    | with_reducible apply modEye_kept
    | with_reducible apply rehome_kept
    | with_reducible apply retireEye_kept
    | (with_reducible refine Kept.choice (fun _ => ?_) (fun _ => ?_)))

theorem execPfcPauseFrame_kept {pq : List Instr} (port : Fin 8) (prio : Fin 8) (pause : Bool) (s : State) (h : Kept pq s) : NextKept pq (execPfcPauseFrame port prio pause s) := by
  unfold execPfcPauseFrame
  try dsimp only
  repeat' (first
    | with_reducible assumption
    | with_reducible apply NextKept.next
    | with_reducible apply modEye_kept
    | with_reducible apply discardFrame_kept
    | (with_reducible refine Kept.choice (fun _ => ?_) (fun _ => ?_)))

theorem execPreFecBerLimit_kept {pq : List Instr} (port : Fin 8) (s : State) (h : Kept pq s) : NextKept pq (execPreFecBerLimit port s) := by
  unfold execPreFecBerLimit
  try dsimp only
  repeat' (first
    | with_reducible assumption
    | with_reducible apply NextKept.next
    | with_reducible apply retireEye_kept
    | (with_reducible refine Kept.choice (fun _ => ?_) (fun _ => ?_)))

end Sys2Proof.Machine
end

