-- ==== Sys2Proof/Laws/KeptWelt.lean ====
section
/-!
SUPPORT. What the operations of Machine/Welt.lean keep: the queue and the invariant.
-/
set_option linter.unusedSimpArgs false
namespace Sys2Proof.Machine

theorem markSegment_kept {pq : List Instr} (s : State) (c : CoreId) (wl : Fin 2) (seg : Nat) (h : Kept pq s) : Kept pq (markSegment s c wl seg) := by
  unfold markSegment
  try dsimp only
  repeat' (first
    | with_reducible assumption
    | with_reducible apply modWelt_kept
    | with_reducible apply writeRecord_kept
    | (with_reducible refine Kept.choice (fun _ => ?_) (fun _ => ?_)))

theorem cacheError_kept {pq : List Instr} (s : State) (c : CoreId) (wl : Fin 2) (line : Nat) (ue : Bool) (h : Kept pq s) : Kept pq (cacheError s c wl line ue) := by
  unfold cacheError
  try dsimp only
  repeat' (first
    | with_reducible assumption
    | with_reducible apply modWelt_kept
    | with_reducible apply bumpGen_kept
    | with_reducible apply markSegment_kept
    | (with_reducible refine Kept.choice (fun _ => ?_) (fun _ => ?_)))

theorem weltFinish_kept {pq : List Instr} (s : State) (c : CoreId) (wl : Fin 2) (l : List (WOpnd × Descr)) (r : WRes) (h : Kept pq s) : Kept pq (weltFinish s c wl l r) := by
  unfold weltFinish
  try dsimp only
  repeat' (first
    | with_reducible assumption
    | with_reducible apply modWelt_kept)

theorem weltCacheEvents_kept {pq : List Instr} (s : State) (c : CoreId) (wl : Fin 2) (word : Word128) (l : List (WOpnd × Descr)) (ev : List EccEvent) (h : Kept pq s) : Kept pq (weltCacheEvents s c wl word l ev) := by
  unfold weltCacheEvents
  try dsimp only
  repeat' (first
    | with_reducible assumption
    | with_reducible apply cacheError_kept
    | (with_reducible refine Kept.foldl (fun _ _ _ => ?_) ?_)
    | (with_reducible refine Kept.choice (fun _ => ?_) (fun _ => ?_)))

theorem weltInstr_kept {pq : List Instr} {s : State} {c : CoreId} {wl : Fin 2} {word rsv : Word128} {ev : List EccEvent}
    {os : List WOpnd} {own : List (Nat × Bool)} {held : Bool} {notes : List Nat} {atIssue : State → State}
    {compute : (Nat → List Byte) → List Nat → WRes} {post : (Nat → List Byte) → State → State} (h : Kept pq s)
    (ha : ∀ s, Kept pq s → Kept pq (atIssue s)) (hp : ∀ d s, Kept pq s → Kept pq (post d s)) :
    Kept pq (weltInstr s c wl word rsv ev os own held notes atIssue compute post) := by
  unfold weltInstr
  refine engineInstr_kept (weltCacheEvents_kept _ _ _ _ _ _ h) ha ?_
  intro s y
  dsimp only
  split
  · exact PhaseKept.access
  · exact PhaseKept.choice (fun _ => PhaseKept.fault) (fun _ => PhaseKept.access)
  · exact PhaseKept.finish (fun t k => hp _ _ (weltFinish_kept _ _ _ _ _ k))

theorem execWop_kept {pq : List Instr} (c : CoreId) (wl : Fin 2) (w : BitVec 120) (ev : List EccEvent) (s : State) (h : Kept pq s) : NextKept pq (execWop c wl w ev s) := by
  unfold execWop
  try dsimp only
  repeat' (first
    | with_reducible assumption
    | with_reducible apply NextKept.next
    | with_reducible apply weltInstr_kept
    | intro _ _ _
    | intro _ _
    | (simp only [id_eq]))

theorem execWcvt_kept {pq : List Instr} (c : CoreId) (wl : Fin 2) (w : BitVec 120) (ev : List EccEvent) (s : State) (h : Kept pq s) : NextKept pq (execWcvt c wl w ev s) := by
  unfold execWcvt
  try dsimp only
  repeat' (first
    | with_reducible assumption
    | with_reducible apply NextKept.next
    | with_reducible apply modWelt_kept
    | with_reducible apply weltInstr_kept
    | intro _ _ _
    | intro _ _)

theorem execWred_kept {pq : List Instr} (c : CoreId) (wl : Fin 2) (w : BitVec 120) (ev : List EccEvent) (s : State) (h : Kept pq s) : NextKept pq (execWred c wl w ev s) := by
  unfold execWred
  try dsimp only
  repeat' (first
    | with_reducible assumption
    | with_reducible apply NextKept.next
    | with_reducible apply modWelt_kept
    | with_reducible apply weltInstr_kept
    | intro _ _ _
    | intro _ _
    | (simp only [id_eq]))

theorem execWsmxExps_kept {pq : List Instr} (c : CoreId) (wl : Fin 2) (w : BitVec 120) (ev : List EccEvent) (s : State) (h : Kept pq s) : NextKept pq (execWsmxExps c wl w ev s) := by
  unfold execWsmxExps
  try dsimp only
  repeat' (first
    | with_reducible assumption
    | with_reducible apply NextKept.next
    | with_reducible apply weltInstr_kept
    | (with_reducible refine Kept.choice (fun _ => ?_) (fun _ => ?_))
    | intro _ _ _
    | intro _ _
    | (simp only [id_eq]))

theorem execWsmxMerge_kept {pq : List Instr} (c : CoreId) (wl : Fin 2) (w : BitVec 120) (ev : List EccEvent) (s : State) (h : Kept pq s) : NextKept pq (execWsmxMerge c wl w ev s) := by
  unfold execWsmxMerge
  try dsimp only
  repeat' (first
    | with_reducible assumption
    | with_reducible apply NextKept.next
    | with_reducible apply weltInstr_kept
    | (with_reducible refine Kept.choice (fun _ => ?_) (fun _ => ?_))
    | intro _ _ _
    | intro _ _
    | (simp only [id_eq]))

/-- The phase in which indices end keeps the queue and the invariant. -/
def IndexKept (pq : List Instr) : Except Phase (List Nat × Nat × Nat) → Prop
  | .error ph => PhaseKept pq ph
  | .ok _ => True

theorem IndexKept.choice {pq : List Instr} {c : Prop} [Decidable c] {a b : Except Phase (List Nat × Nat × Nat)}
    (ha : IndexKept pq a) (hb : IndexKept pq b) : IndexKept pq (if c then a else b) := by
  split
  · exact ha
  · exact hb

theorem indexPhase_kept {pq : List Instr} {s : State} {c : CoreId} {di : Descr} {sel : Bool} {iw n : Nat} {y : InFlight}
    {ph : Phase} (e : indexPhase s c di sel iw n y = .error ph) : PhaseKept pq ph := by
  have k : IndexKept pq (indexPhase s c di sel iw n y) :=
    IndexKept.choice trivial (IndexKept.choice trivial (IndexKept.choice trivial (IndexKept.choice trivial
      (IndexKept.choice trivial (IndexKept.choice trivial (IndexKept.choice trivial trivial))))))
  rw [e] at k
  exact k

theorem execWgth_kept {pq : List Instr} (c : CoreId) (wl : Fin 2) (w : BitVec 120) (ev : List EccEvent) (s : State) (h : Kept pq s) : NextKept pq (execWgth c wl w ev s) := by
  unfold execWgth
  try dsimp only
  repeat' (first
    | with_reducible assumption
    | with_reducible apply NextKept.next
    | with_reducible apply engineInstr_kept
    | with_reducible apply faultNext_kept
    | with_reducible apply weltFinish_kept
    | with_reducible apply weltCacheEvents_kept
    | (with_reducible refine Kept.choice (fun _ => ?_) (fun _ => ?_))
    | (simp only [kept_update])
    | (with_reducible refine PhaseKept.finish (fun _ _ => ?_))
    | with_reducible exact PhaseKept.access
    | with_reducible exact PhaseKept.fault
    | (with_reducible refine PhaseKept.choice (fun _ => ?_) (fun _ => ?_))
    | intro _ _
    | exact indexPhase_kept (by with_reducible assumption)
    | (simp only [id_eq])
    | split)

theorem execWsct_kept {pq : List Instr} (c : CoreId) (wl : Fin 2) (w : BitVec 120) (ev : List EccEvent) (s : State) (h : Kept pq s) : NextKept pq (execWsct c wl w ev s) := by
  unfold execWsct
  try dsimp only
  repeat' (first
    | with_reducible assumption
    | with_reducible apply NextKept.next
    | with_reducible apply modWelt_kept
    | with_reducible apply engineInstr_kept
    | with_reducible apply faultNext_kept
    | with_reducible apply weltFinish_kept
    | with_reducible apply weltCacheEvents_kept
    | (with_reducible refine Kept.choice (fun _ => ?_) (fun _ => ?_))
    | (simp only [kept_update])
    | (with_reducible refine PhaseKept.finish (fun _ _ => ?_))
    | with_reducible exact PhaseKept.access
    | with_reducible exact PhaseKept.fault
    | (with_reducible refine PhaseKept.choice (fun _ => ?_) (fun _ => ?_))
    | intro _ _
    | exact indexPhase_kept (by with_reducible assumption)
    | (simp only [id_eq])
    | split)

theorem execWopt_kept {pq : List Instr} (c : CoreId) (wl : Fin 2) (w : BitVec 120) (ev : List EccEvent) (s : State) (h : Kept pq s) : NextKept pq (execWopt c wl w ev s) := by
  unfold execWopt
  try dsimp only
  repeat' (first
    | with_reducible assumption
    | with_reducible apply NextKept.next
    | with_reducible apply modWelt_kept
    | with_reducible apply weltInstr_kept
    | intro _ _ _
    | intro _ _)

theorem modNum_kept {pq : List Instr} (s : State) (c : CoreId) (f : NumState → NumState) (h : Kept pq s) : Kept pq (modNum s c f) := by
  unfold modNum
  try dsimp only
  repeat' (first
    | with_reducible assumption
    | with_reducible apply modCore_kept)

theorem numericRecord_kept {pq : List Instr} (s : State) (c : CoreId) (wl : Fin 2) (sev : BitVec 8) (h : Kept pq s) : Kept pq (numericRecord s c wl sev) := by
  unfold numericRecord
  try dsimp only
  repeat' (first
    | with_reducible assumption
    | with_reducible apply writeRecord_kept)

theorem hardAlarm_kept {pq : List Instr} (s : State) (c : CoreId) (wl : Fin 2) (last out bin : Nat) (h : Kept pq s) : Kept pq (hardAlarm s c wl last out bin) := by
  unfold hardAlarm
  try dsimp only
  repeat' (first
    | with_reducible assumption
    | with_reducible apply modLast_kept
    | with_reducible apply bumpGen_kept
    | with_reducible apply modNum_kept
    | with_reducible apply numericRecord_kept
    | (with_reducible refine Kept.choice (fun _ => ?_) (fun _ => ?_)))

theorem shadowFinish_kept {pq : List Instr} (s : State) (c : CoreId) (wl : Fin 2) (last : Nat) (bins : List Nat) (h : Kept pq s) : Kept pq (shadowFinish s c wl last bins) := by
  unfold shadowFinish
  try dsimp only
  repeat' (first
    | with_reducible assumption
    | with_reducible apply modWelt_kept
    | with_reducible apply bumpGen_kept
    | with_reducible apply modNum_kept
    | with_reducible apply numericRecord_kept
    | with_reducible apply hardAlarm_kept
    | (with_reducible refine Kept.foldl (fun _ _ _ => ?_) ?_)
    | (with_reducible refine Kept.choice (fun _ => ?_) (fun _ => ?_)))

theorem execWshdw_kept {pq : List Instr} (c : CoreId) (wl : Fin 2) (w : BitVec 120) (ev : List EccEvent) (s : State) (h : Kept pq s) : NextKept pq (execWshdw c wl w ev s) := by
  unfold execWshdw
  try dsimp only
  repeat' (first
    | with_reducible assumption
    | with_reducible apply NextKept.next
    | with_reducible apply modWelt_kept
    | with_reducible apply takeFree_kept
    | with_reducible apply seqFault_kept
    | with_reducible apply engineInstr_kept
    | with_reducible apply shadowFinish_kept
    | (with_reducible refine Kept.choice (fun _ => ?_) (fun _ => ?_))
    | (with_reducible refine PhaseKept.finish (fun _ _ => ?_))
    | with_reducible exact PhaseKept.access
    | with_reducible exact PhaseKept.fault
    | (with_reducible refine PhaseKept.choice (fun _ => ?_) (fun _ => ?_))
    | intro _ _)

theorem selector_kept {pq : List Instr} (s : State) (c : CoreId) (wl : Fin 2) (word rsv : Word128) (ev : List EccEvent) (theta : Option Val)     (cap : Nat) (h : Kept pq s) : Kept pq (selector s c wl word rsv ev theta cap) := by
  unfold selector
  try dsimp only
  repeat' (first
    | with_reducible assumption
    | with_reducible apply modWelt_kept
    | with_reducible apply engineInstr_kept
    | (simp only [kept_update])
    | (with_reducible refine PhaseKept.finish (fun _ _ => ?_))
    | with_reducible exact PhaseKept.access
    | with_reducible exact PhaseKept.fault
    | (with_reducible refine PhaseKept.choice (fun _ => ?_) (fun _ => ?_))
    | intro _ _
    | (simp only [id_eq])
    | split)

theorem execSeltop_kept {pq : List Instr} (c : CoreId) (wl : Fin 2) (w : BitVec 120) (ev : List EccEvent) (s : State) (h : Kept pq s) : NextKept pq (execSeltop c wl w ev s) := by
  unfold execSeltop
  try dsimp only
  repeat' (first
    | with_reducible assumption
    | with_reducible apply NextKept.next
    | with_reducible apply selector_kept)

theorem execSelthr_kept {pq : List Instr} (c : CoreId) (wl : Fin 2) (w : BitVec 120) (ev : List EccEvent) (s : State) (h : Kept pq s) : NextKept pq (execSelthr c wl w ev s) := by
  unfold execSelthr
  try dsimp only
  repeat' (first
    | with_reducible assumption
    | with_reducible apply NextKept.next
    | with_reducible apply selector_kept)

theorem execCfill_kept {pq : List Instr} (c : CoreId) (wl : Fin 2) (w : BitVec 120) (ev : List EccEvent) (s : State) (h : Kept pq s) : NextKept pq (execCfill c wl w ev s) := by
  unfold execCfill
  try dsimp only
  repeat' (first
    | with_reducible assumption
    | with_reducible apply NextKept.next
    | with_reducible apply weltInstr_kept
    | intro _ _ _
    | intro _ _
    | (simp only [id_eq]))

theorem execCevict_kept {pq : List Instr} (c : CoreId) (wl : Fin 2) (w : BitVec 120) (ev : List EccEvent) (s : State) (h : Kept pq s) : NextKept pq (execCevict c wl w ev s) := by
  unfold execCevict
  try dsimp only
  repeat' (first
    | with_reducible assumption
    | with_reducible apply NextKept.next
    | with_reducible apply weltInstr_kept
    | intro _ _ _
    | intro _ _
    | (simp only [id_eq]))

theorem execWstepLoad_kept {pq : List Instr} (c : CoreId) (wl : Fin 2) (w : BitVec 120) (s : State) (h : Kept pq s) : NextKept pq (execWstepLoad c wl w s) := by
  unfold execWstepLoad
  try dsimp only
  repeat' (first
    | with_reducible assumption
    | with_reducible apply NextKept.next
    | with_reducible apply modWelt_kept
    | with_reducible apply controlInstr_kept
    | with_reducible apply thenAdvance_kept
    | (with_reducible refine Kept.choice (fun _ => ?_) (fun _ => ?_))
    | intro _ _)

theorem execWstepInc_kept {pq : List Instr} (c : CoreId) (wl : Fin 2) (w : BitVec 120) (s : State) (h : Kept pq s) : NextKept pq (execWstepInc c wl w s) := by
  unfold execWstepInc
  try dsimp only
  repeat' (first
    | with_reducible assumption
    | with_reducible apply NextKept.next
    | with_reducible apply modWelt_kept
    | with_reducible apply controlInstr_kept
    | with_reducible apply thenAdvance_kept
    | (with_reducible refine Kept.choice (fun _ => ?_) (fun _ => ?_))
    | intro _ _)

theorem execWflagStore_kept {pq : List Instr} (c : CoreId) (wl : Fin 2) (w : BitVec 120) (s : State) (h : Kept pq s) : NextKept pq (execWflagStore c wl w s) := by
  unfold execWflagStore
  try dsimp only
  repeat' (first
    | with_reducible assumption
    | with_reducible apply NextKept.next
    | with_reducible apply modWelt_kept
    | with_reducible apply seqFault_kept
    | with_reducible apply engineInstr_kept
    | with_reducible apply controlInstr_kept
    | (with_reducible refine Kept.choice (fun _ => ?_) (fun _ => ?_))
    | (simp only [kept_update])
    | (with_reducible refine PhaseKept.finish (fun _ _ => ?_))
    | with_reducible exact PhaseKept.access
    | (with_reducible refine PhaseKept.choice (fun _ => ?_) (fun _ => ?_))
    | intro _ _
    | (simp only [id_eq]))

theorem execWflagCheck_kept {pq : List Instr} (c : CoreId) (wl : Fin 2) (w : BitVec 120) (s : State) (h : Kept pq s) : NextKept pq (execWflagCheck c wl w s) := by
  unfold execWflagCheck
  try dsimp only
  repeat' (first
    | with_reducible assumption
    | with_reducible apply NextKept.next
    | with_reducible apply seqFault_kept
    | with_reducible apply setSt_kept
    | with_reducible apply controlInstr_kept
    | with_reducible apply thenAdvance_kept
    | (with_reducible refine Kept.choice (fun _ => ?_) (fun _ => ?_))
    | intro _ _
    | (simp only [id_eq]))

theorem execWflagClear_kept {pq : List Instr} (c : CoreId) (wl : Fin 2) (w : BitVec 120) (s : State) (h : Kept pq s) : NextKept pq (execWflagClear c wl w s) := by
  unfold execWflagClear
  try dsimp only
  repeat' (first
    | with_reducible assumption
    | with_reducible apply NextKept.next
    | with_reducible apply modWelt_kept
    | with_reducible apply setSt_kept
    | with_reducible apply controlInstr_kept
    | with_reducible apply thenAdvance_kept
    | (with_reducible refine Kept.choice (fun _ => ?_) (fun _ => ?_))
    | intro _ _)

theorem execCacheSegmentRemap_kept {pq : List Instr} (c : CoreId) (wl : Fin 2) (seg : Fin 8) (s : State) (h : Kept pq s) : NextKept pq (execCacheSegmentRemap c wl seg s) := by
  unfold execCacheSegmentRemap
  try dsimp only
  repeat' (first
    | with_reducible assumption
    | with_reducible apply NextKept.next
    | with_reducible apply modWelt_kept
    | with_reducible apply bumpGen_kept
    | with_reducible apply condAppend_kept
    | with_reducible apply loseCore_kept
    | (with_reducible refine Kept.choice (fun _ => ?_) (fun _ => ?_)))

end Sys2Proof.Machine
end

