-- ==== Sys2Proof/Laws/KeptRegFile.lean ====
section
/-!
SUPPORT. What the operations of Machine/RegFile.lean keep: the queue and the invariant.
-/
set_option linter.unusedSimpArgs false
namespace Sys2Proof.Machine

theorem writeSeqRun_kept {pq : List Instr} (s : State) (c : CoreId) (v : Word) (h : Kept pq s) : Kept pq (writeSeqRun s c v) := by
  unfold writeSeqRun
  try dsimp only
  repeat' (first
    | with_reducible assumption
    | with_reducible apply modCore_kept)

theorem writeLinkCtrl_kept {pq : List Instr} (s : State) (l : Fin 23) (v : Word) (h : Kept pq s) : Kept pq (writeLinkCtrl s l v) := by
  unfold writeLinkCtrl
  try dsimp only
  repeat' (first
    | with_reducible assumption
    | with_reducible apply modLink_kept
    | with_reducible apply retireLace_kept
    | with_reducible apply startLaceRetrain_kept
    | (with_reducible refine Kept.choice (fun _ => ?_) (fun _ => ?_)))

theorem writeMemCtrl_kept {pq : List Instr} (s : State) (v : Word) (h : Kept pq s) : Kept pq (writeMemCtrl s v) := by
  unfold writeMemCtrl
  try dsimp only
  repeat' (first
    | with_reducible assumption
    | with_reducible apply modTiers_kept
    | with_reducible apply startRetrain_kept
    | (with_reducible refine Kept.choice (fun _ => ?_) (fun _ => ?_)))

theorem clearInvalid_kept {pq : List Instr} (s : State) (lp : Bool) (q : Fin 8) (h : Kept pq s) : Kept pq (clearInvalid s lp q) := by
  unfold clearInvalid
  try dsimp only
  repeat' (first
    | with_reducible assumption
    | with_reducible apply noted_kept
    | with_reducible apply modTiers_kept)

theorem modRegion_kept {pq : List Instr} (s : State) (r : Fin 15) (f : ClockRegion → ClockRegion) (h : Kept pq s) : Kept pq (modRegion s r f) := by
  unfold modRegion
  try dsimp only
  repeat' (first
    | with_reducible assumption
    | (simp only [kept_update]))

theorem modTherm_kept {pq : List Instr} (s : State) (r : Fin 15) (f : ThermRegion → ThermRegion) (h : Kept pq s) : Kept pq (modTherm s r f) := by
  unfold modTherm
  try dsimp only
  repeat' (first
    | with_reducible assumption
    | (simp only [kept_update]))

theorem retakeTemp_kept {pq : List Instr} (s : State) (r : Fin 15) (h : Kept pq s) : Kept pq (retakeTemp s r) := by
  unfold retakeTemp
  try dsimp only
  repeat' (first
    | with_reducible assumption
    | with_reducible apply modTherm_kept)

theorem sensorFailed_kept {pq : List Instr} (s : State) (r : Fin 15) (i : Nat) (h : Kept pq s) : Kept pq (sensorFailed s r i) := by
  unfold sensorFailed
  try dsimp only
  repeat' (first
    | with_reducible assumption
    | with_reducible apply condAppend_kept)

theorem writeDisable_kept {pq : List Instr} (s : State) (r : Fin 15) (i : Fin 16) (on : Bool) (h : Kept pq s) : Kept pq (writeDisable s r i on) := by
  unfold writeDisable
  try dsimp only
  repeat' (first
    | with_reducible assumption
    | with_reducible apply modTherm_kept
    | with_reducible apply retakeTemp_kept
    | with_reducible apply sensorFailed_kept
    | (with_reducible refine Kept.choice (fun _ => ?_) (fun _ => ?_)))

theorem modCounter_kept {pq : List Instr} (s : State) (evt : Nat) (f : Counter → Counter) (h : Kept pq s) : Kept pq (modCounter s evt f) := by
  unfold modCounter
  try dsimp only
  repeat' (first
    | with_reducible assumption
    | (with_reducible refine Kept.choice (fun _ => ?_) (fun _ => ?_))
    | (simp only [kept_update]))

theorem countOn_kept {pq : List Instr} (s : State) (l : List Nat) (h : Kept pq s) : Kept pq (countOn s l) := by
  unfold countOn
  try dsimp only
  repeat' (first
    | with_reducible assumption
    | (simp only [kept_update]))

theorem mapCounters_kept {pq : List Instr} (s : State) (f : Nat → Counter → Counter) (h : Kept pq s) : Kept pq (mapCounters s f) := by
  unfold mapCounters
  try dsimp only
  repeat' (first
    | with_reducible assumption
    | (simp only [kept_update]))

theorem modPmu_kept {pq : List Instr} (s : State) (f : Pmu → Pmu) (h : Kept pq s) : Kept pq (modPmu s f) := by
  unfold modPmu
  try dsimp only
  repeat' (first
    | with_reducible assumption
    | (simp only [kept_update]))

theorem readReg_kept {pq : List Instr} (s : State) (a : Nat) (h : Kept pq s) : Kept pq (readReg s a).2 := by
  unfold readReg
  try dsimp only
  repeat' (first
    | with_reducible assumption
    | with_reducible apply modCounter_kept
    | with_reducible apply countOn_kept
    | (with_reducible refine Kept.choice (fun _ => ?_) (fun _ => ?_))
    | split)

/-- A register row whose write keeps the queue and the invariant. -/
def RowKept (r : RegRow) : Prop :=
  ∀ (pq : List Instr) (s : State) (i : Nat) (v m : Word), Kept pq s → Kept pq (r.write s i v m)

/-- Rows whose writes keep them. -/
def RowsKept (l : List RegRow) : Prop := ∀ r ∈ l, RowKept r

theorem RowKept.ro {a st n : Nat} {rd : State → Nat → Word} : RowKept (roReg a st n rd) := fun _ _ _ _ _ h => h

theorem RowKept.rw {a st n k : Nat} {wm : Word} {rd : State → Nat → Word} {ck : State → Nat → Word → Word → BitVec 16}
    {wr : State → Nat → Word → Word → State}
    (h : ∀ (pq : List Instr) (s : State) (i : Nat) (v m : Word), Kept pq s → Kept pq (wr s i v m)) :
    RowKept (rwReg a st n k wm rd ck wr) := h

theorem RowsKept.nil : RowsKept [] := fun _ h => nomatch h

theorem RowsKept.cons {r : RegRow} {l : List RegRow} (h : RowKept r) (k : RowsKept l) : RowsKept (r :: l) :=
  List.forall_mem_cons.mpr ⟨h, k⟩

theorem RowsKept.append {l k : List RegRow} (h : RowsKept l) (g : RowsKept k) : RowsKept (l ++ k) :=
  fun r m => (List.mem_append.mp m).elim (h r) (g r)

theorem RowsKept.map {α : Type} {f : α → RegRow} {l : List α} (h : ∀ x, RowKept (f x)) : RowsKept (l.map f) := fun r m => by
  obtain ⟨x, _, rfl⟩ := List.mem_map.mp m
  exact h x

theorem rowAt_kept {a : Nat} : ∀ {l : List RegRow} {r : RegRow} {i : Nat}, RowsKept l → rowAt a l = some (r, i) → RowKept r
  | [], _, _, _, e => nomatch e
  | x :: t, r, i, h, e => by
    unfold rowAt at e
    split at e
    · cases e
      exact h _ List.mem_cons_self
    · exact rowAt_kept (fun y m => h y (List.mem_cons_of_mem _ m)) e

theorem jobRows_kept (c : CoreId) : RowsKept (jobRows c) := by
  unfold jobRows
  repeat' (first
    | with_reducible exact RowsKept.nil
    | (with_reducible refine RowsKept.cons RowKept.ro ?_)
    | (with_reducible refine RowsKept.cons (RowKept.rw (fun pq s i v m h => ?_)) ?_))
  all_goals
    try dsimp only
    repeat' (first
      | with_reducible assumption
      | with_reducible apply writeSeqRun_kept)

theorem stkRows_kept (c : CoreId) : RowsKept (stkRows c) := by
  unfold stkRows
  repeat' (first
    | with_reducible exact RowsKept.nil
    | (with_reducible refine RowsKept.cons RowKept.ro ?_)
    | (with_reducible refine RowsKept.cons (RowKept.rw (fun pq s i v m h => ?_)) ?_))
  all_goals
    try dsimp only
    repeat' (first
      | with_reducible assumption
      | with_reducible apply modStk_kept)

theorem lastRows_kept (c : CoreId) : RowsKept (lastRows c) := by
  unfold lastRows
  repeat' (first
    | with_reducible exact RowsKept.nil
    | (with_reducible refine RowsKept.cons RowKept.ro ?_)
    | (with_reducible refine RowsKept.cons (RowKept.rw (fun pq s i v m h => ?_)) ?_))
  all_goals
    try dsimp only
    repeat' (first
      | with_reducible assumption
      | with_reducible apply modLast_kept)

theorem awlRows_kept (c : CoreId) : RowsKept (awlRows c) := by
  unfold awlRows
  repeat' (first
    | with_reducible exact RowsKept.nil
    | (with_reducible refine RowsKept.cons RowKept.ro ?_)
    | (with_reducible refine RowsKept.cons (RowKept.rw (fun pq s i v m h => ?_)) ?_))
  all_goals
    try dsimp only
    repeat' (first
      | with_reducible assumption
      | with_reducible apply modAwl_kept)

theorem weltRows_kept (c : CoreId) : RowsKept (weltRows c) := by
  unfold weltRows
  repeat' (first
    | with_reducible exact RowsKept.nil
    | (with_reducible refine RowsKept.cons RowKept.ro ?_)
    | (with_reducible refine RowsKept.cons (RowKept.rw (fun pq s i v m h => ?_)) ?_))
  all_goals
    try dsimp only
    repeat' (first
      | with_reducible assumption
      | with_reducible apply modWelt_kept)

theorem numRows_kept (c : CoreId) : RowsKept (numRows c) := by
  unfold numRows
  repeat' (first
    | with_reducible exact RowsKept.nil
    | (with_reducible refine RowsKept.cons RowKept.ro ?_)
    | (with_reducible refine RowsKept.cons (RowKept.rw (fun pq s i v m h => ?_)) ?_))
  all_goals
    try dsimp only
    repeat' (first
      | with_reducible assumption
      | with_reducible apply modNum_kept)

theorem lacRows_kept : RowsKept (lacRows) := by
  unfold lacRows
  repeat' (first
    | with_reducible exact RowsKept.nil
    | (with_reducible refine RowsKept.cons RowKept.ro ?_)
    | (with_reducible refine RowsKept.cons (RowKept.rw (fun pq s i v m h => ?_)) ?_)
    | (with_reducible refine RowsKept.append ?_ ?_)
    | (with_reducible refine RowsKept.map (fun _ => ?_))
    | with_reducible exact RowKept.ro)
  all_goals
    try dsimp only
    repeat' (first
      | with_reducible assumption
      | with_reducible apply modLacing_kept
      | with_reducible apply writeLinkCtrl_kept)

theorem memRows_kept : RowsKept (memRows) := by
  unfold memRows
  repeat' (first
    | with_reducible exact RowsKept.nil
    | (with_reducible refine RowsKept.cons RowKept.ro ?_)
    | (with_reducible refine RowsKept.cons (RowKept.rw (fun pq s i v m h => ?_)) ?_))
  all_goals
    try dsimp only
    repeat' (first
      | with_reducible assumption
      | with_reducible apply modTiers_kept
      | with_reducible apply writeMemCtrl_kept
      | with_reducible apply clearInvalid_kept
      | (with_reducible refine Kept.choice (fun _ => ?_) (fun _ => ?_)))

theorem portRows_kept : RowsKept (portRows) := by
  unfold portRows
  repeat' (first
    | with_reducible exact RowsKept.nil
    | (with_reducible refine RowsKept.cons RowKept.ro ?_)
    | (with_reducible refine RowsKept.cons (RowKept.rw (fun pq s i v m h => ?_)) ?_))
  all_goals
    try dsimp only
    repeat' (first
      | with_reducible assumption
      | with_reducible apply modEyes_kept)

theorem pwrRows_kept : RowsKept (pwrRows) := by
  unfold pwrRows
  repeat' (first
    | with_reducible exact RowsKept.nil
    | (with_reducible refine RowsKept.cons RowKept.ro ?_)
    | (with_reducible refine RowsKept.cons (RowKept.rw (fun pq s i v m h => ?_)) ?_)
    | (with_reducible refine RowsKept.append ?_ ?_)
    | (with_reducible refine RowsKept.map (fun _ => ?_))
    | (with_reducible refine RowKept.rw (fun pq s i v m h => ?_)))
  all_goals
    try dsimp only
    repeat' (first
      | with_reducible assumption
      | with_reducible apply noted_kept
      | (simp only [kept_update]))

theorem clkRows_kept : RowsKept (clkRows) := by
  unfold clkRows
  repeat' (first
    | with_reducible exact RowsKept.nil
    | (with_reducible refine RowsKept.cons RowKept.ro ?_)
    | (with_reducible refine RowsKept.cons (RowKept.rw (fun pq s i v m h => ?_)) ?_)
    | (with_reducible refine RowsKept.append ?_ ?_)
    | (with_reducible refine RowsKept.map (fun _ => ?_))
    | with_reducible exact RowKept.ro)
  all_goals
    try dsimp only
    repeat' (first
      | with_reducible assumption
      | with_reducible apply modRegion_kept
      | (simp only [kept_update]))

theorem thmRows_kept : RowsKept (thmRows) := by
  unfold thmRows
  repeat' (first
    | with_reducible exact RowsKept.nil
    | (with_reducible refine RowsKept.cons RowKept.ro ?_)
    | (with_reducible refine RowsKept.cons (RowKept.rw (fun pq s i v m h => ?_)) ?_)
    | (with_reducible refine RowsKept.append ?_ ?_)
    | (with_reducible refine RowsKept.map (fun _ => ?_))
    | (with_reducible refine RowKept.rw (fun pq s i v m h => ?_)))
  all_goals
    try dsimp only
    repeat' (first
      | with_reducible assumption
      | with_reducible apply writeDisable_kept
      | (simp only [kept_update]))

theorem pmuRows_kept : RowsKept (pmuRows) := by
  unfold pmuRows
  repeat' (first
    | with_reducible exact RowsKept.nil
    | (with_reducible refine RowsKept.cons RowKept.ro ?_)
    | (with_reducible refine RowsKept.cons (RowKept.rw (fun pq s i v m h => ?_)) ?_)
    | (with_reducible refine RowsKept.append ?_ ?_)
    | (with_reducible refine RowsKept.map (fun _ => ?_))
    | with_reducible exact RowKept.ro
    | (with_reducible refine RowKept.rw (fun pq s i v m h => ?_)))
  all_goals
    try dsimp only
    repeat' (first
      | with_reducible assumption
      | with_reducible apply modPmu_kept
      | with_reducible apply modCounter_kept)

theorem regAt_kept {a : Nat} {r : RegRow} {i : Nat} (e : regAt a = some (r, i)) : RowKept r := by
  unfold regAt at e
  split at e
  · exact rowAt_kept (RowsKept.append (RowsKept.append (RowsKept.append (RowsKept.append (RowsKept.append
      (jobRows_kept _) (stkRows_kept _)) (lastRows_kept _)) (awlRows_kept _)) (weltRows_kept _)) (numRows_kept _)) e
  · exact rowAt_kept (RowsKept.append (RowsKept.append (RowsKept.append (RowsKept.append (RowsKept.append (RowsKept.append
      lacRows_kept memRows_kept) portRows_kept) pwrRows_kept) clkRows_kept) thmRows_kept) pmuRows_kept) e

theorem regwrApply_kept {pq : List Instr} (s : State) (a : Nat) (data mask : Word) (h : Kept pq s) :
    Kept pq (regwrApply s a data mask) := by
  unfold regwrApply
  split
  · exact h
  · exact regAt_kept ‹_› _ _ _ _ _ h

end Sys2Proof.Machine
end

