-- ==== Sys2Proof/Laws/KeptMailbox.lean ====
section
/-!
SUPPORT. What the operations of Machine/Mailbox.lean keep: the queue and the invariant.
-/
set_option linter.unusedSimpArgs false
namespace Sys2Proof.Machine

theorem modMb_kept {pq : List Instr} (s : State) (k : Fin 16) (f : Mailbox → Mailbox) (h : Kept pq s) : Kept pq (modMb s k f) := by
  unfold modMb
  try dsimp only
  repeat' (first
    | with_reducible assumption
    | with_reducible apply modReg_kept
    | with_reducible rfl
    | with_reducible exact Nat.le_refl _)

theorem waits_kept {pq : List Instr} (s : State) (k : Fin 16) (h : Kept pq s) : Kept pq (waits s k) := by
  unfold waits
  try dsimp only
  repeat' (first
    | with_reducible assumption
    | with_reducible apply modMb_kept)

theorem endsWith_kept {pq : List Instr} (s : State) (k : Fin 16) (st : BitVec 16) (resp : List Byte) (rsize : Nat) (h : Kept pq s) : Kept pq (endsWith s k st resp rsize) := by
  unfold endsWith
  try dsimp only
  repeat' (first
    | with_reducible assumption
    | with_reducible apply modMb_kept)

theorem ends_kept {pq : List Instr} (s : State) (k : Fin 16) (st : BitVec 16) (resp : List Byte) (h : Kept pq s) : Kept pq (ends s k st resp) := by
  unfold ends
  try dsimp only
  repeat' (first
    | with_reducible assumption
    | with_reducible apply endsWith_kept)

theorem command_kept {pq : List Instr} (s : State) (k : Fin 16) (code : Nat) (allow : State → Mailbox → BitVec 16)     (effect : State → Mailbox → State) (h : Kept pq s) (h_effect : ∀ s a0, Kept pq s → Kept pq (effect s a0)) : NextKept pq (command s k code allow effect) := by
  unfold command
  try dsimp only
  repeat' (first
    | with_reducible assumption
    | with_reducible apply NextKept.next
    | with_reducible apply h_effect
    | with_reducible apply ends_kept
    | (with_reducible refine Kept.choice (fun _ => ?_) (fun _ => ?_)))

theorem commandOp_kept {pq : List Instr} (s : State) (k : Fin 16) (code off op : Nat) (allow : State → Mailbox → BitVec 16)     (effect : State → Mailbox → State) (h : Kept pq s) (h_effect : ∀ s a0, Kept pq s → Kept pq (effect s a0)) : NextKept pq (commandOp s k code off op allow effect) := by
  unfold commandOp
  try dsimp only
  repeat' (first
    | with_reducible assumption
    | (with_reducible refine NextKept.choice ?_ ?_)
    | with_reducible apply NextKept.next
    | with_reducible apply command_kept)

theorem answer_kept {pq : List Instr} (s : State) (k : Fin 16) (st : BitVec 16) (resp : List Byte) (rsize : BitVec 32) (h : Kept pq s) : Kept pq (answer s k st resp rsize) := by
  unfold answer
  try dsimp only
  repeat' (first
    | with_reducible assumption
    | with_reducible apply bumpGen_kept
    | with_reducible apply raiseVec_kept
    | with_reducible apply modMb_kept
    | (with_reducible refine Kept.choice (fun _ => ?_) (fun _ => ?_)))

theorem refuse_kept {pq : List Instr} (s : State) (k : Fin 16) (st : BitVec 16) (h : Kept pq s) : Kept pq (refuse s k st) := by
  unfold refuse
  try dsimp only
  repeat' (first
    | with_reducible assumption
    | with_reducible apply answer_kept)

theorem securityRecord_kept {pq : List Instr} (s : State) (m : Mailbox) (sev : BitVec 8) (st : BitVec 16) (h : Kept pq s) : Kept pq (securityRecord s m sev st) := by
  unfold securityRecord
  try dsimp only
  repeat' (first
    | with_reducible assumption
    | with_reducible apply writeRecord_kept)

end Sys2Proof.Machine
end

