-- ==== Sys2Proof/Laws/KeptTakedown.lean ====
section
/-!
SUPPORT. What the operations of Machine/Takedown.lean keep: the queue and the invariant.
-/
set_option linter.unusedSimpArgs false
namespace Sys2Proof.Machine

theorem resetEngine_kept {pq : List Instr} (s : State) (c : CoreId) (q : SeqId) (h : Kept pq s) : Kept pq (resetEngine s c q) := by
  unfold resetEngine
  try dsimp only
  repeat' (first
    | with_reducible assumption
    | with_reducible apply modSeq_kept
    | with_reducible apply modLast_kept
    | with_reducible apply modWelt_kept
    | with_reducible apply modAwl_kept
    | (with_reducible refine Kept.choice (fun _ => ?_) (fun _ => ?_))
    | split)

theorem resetFaulted_kept {pq : List Instr} (s : State) (c : CoreId) (h : Kept pq s) : Kept pq (resetFaulted s c) := by
  unfold resetFaulted
  try dsimp only
  repeat' (first
    | with_reducible assumption
    | with_reducible apply resetEngine_kept
    | (with_reducible refine Kept.foldl (fun _ _ _ => ?_) ?_))

theorem absorb_kept {pq : List Instr} (s : State) (c : CoreId) (h : Kept pq s) : Kept pq (absorb s c) := by
  unfold absorb
  try dsimp only
  repeat' (first
    | with_reducible assumption
    | with_reducible apply modCore_kept
    | with_reducible apply modTiers_kept)

theorem releaseWaiters_kept {pq : List Instr} (s : State) (c : CoreId) (st : BitVec 4) (h : Kept pq s) : Kept pq (releaseWaiters s c st) := by
  unfold releaseWaiters
  try dsimp only
  repeat' (first
    | with_reducible assumption
    | with_reducible apply modStk_kept
    | with_reducible apply respond_kept
    | (with_reducible refine Kept.foldl (fun _ _ _ => ?_) ?_))

theorem drainCore_kept {pq : List Instr} (s : State) (held : Bool) (c : CoreId) (h : Kept pq s) : Kept pq (drainCore s held c) := by
  unfold drainCore
  try dsimp only
  repeat' (first
    | with_reducible assumption
    | with_reducible apply modStk_kept
    | with_reducible apply closeAll_kept
    | with_reducible apply resetFaulted_kept
    | with_reducible apply absorb_kept
    | with_reducible apply releaseWaiters_kept)

theorem drainJob_kept {pq : List Instr} (s : State) (id : BitVec 6) (h : Kept pq s) : Kept pq (drainJob s id) := by
  unfold drainJob
  try dsimp only
  repeat' (first
    | with_reducible assumption
    | with_reducible apply modJob_kept
    | with_reducible apply noted_kept
    | with_reducible apply closeJobSessions_kept
    | with_reducible apply drainCore_kept
    | (with_reducible refine Kept.foldl (fun _ _ _ => ?_) ?_)
    | split)

theorem execKillDrainEnd_kept {pq : List Instr} (job : BitVec 6) (s : State) (h : Kept pq s) : NextKept pq (execKillDrainEnd job s) := by
  unfold execKillDrainEnd
  try dsimp only
  repeat' (first
    | with_reducible assumption
    | with_reducible apply NextKept.next
    | with_reducible apply drainJob_kept
    | (with_reducible refine Kept.choice (fun _ => ?_) (fun _ => ?_))
    | split)

theorem execJobNormalEnd_kept {pq : List Instr} (job : BitVec 6) (s : State) (h : Kept pq s) : NextKept pq (execJobNormalEnd job s) := by
  unfold execJobNormalEnd
  try dsimp only
  repeat' (first
    | with_reducible assumption
    | with_reducible apply NextKept.next
    | with_reducible apply modCore_kept
    | with_reducible apply modJob_kept
    | with_reducible apply writeRecord_kept
    | with_reducible apply stopSnaps_kept
    | with_reducible apply drainJob_kept
    | (with_reducible refine Kept.foldl (fun _ _ _ => ?_) ?_)
    | (with_reducible refine Kept.choice (fun _ => ?_) (fun _ => ?_))
    | split)

theorem killAll_kept {pq : List Instr} (s : State) (code : BitVec 16) (unit : Nat × Nat × Nat) (h : Kept pq s) : Kept pq (killAll s code unit) := by
  unfold killAll
  try dsimp only
  repeat' (first
    | with_reducible assumption
    | with_reducible apply killJob_kept
    | (with_reducible refine Kept.foldl (fun _ _ _ => ?_) ?_)
    | (with_reducible refine Kept.choice (fun _ => ?_) (fun _ => ?_)))

theorem failDevice_kept {pq : List Instr} (s : State) (h : Kept pq s) : Kept pq (failDevice s) := by
  unfold failDevice
  exact noted_kept _ (modReg_kept_of h h.2.2.1.1 h.2.2.1.2.1 h.2.2.1.2.2.1 (by simp) h.2.2.2.2)

theorem modDom_kept {pq : List Instr} (s : State) (d : Fin 30) (f : PowerDomain → PowerDomain) (h : Kept pq s) : Kept pq (modDom s d f) := by
  unfold modDom
  try dsimp only
  repeat' (first
    | with_reducible assumption
    | (simp only [kept_update]))

theorem fenceCore_kept {pq : List Instr} (s : State) (c : CoreId) (h : Kept pq s) : Kept pq (fenceCore s c) := by
  unfold fenceCore
  try dsimp only
  repeat' (first
    | with_reducible assumption
    | with_reducible apply modCore_kept
    | with_reducible apply forwardOnly_kept)

theorem liftFence_kept {pq : List Instr} (s : State) (c : CoreId) (h : Kept pq s) : Kept pq (liftFence s c) := by
  unfold liftFence
  try dsimp only
  repeat' (first
    | with_reducible assumption
    | with_reducible apply modCore_kept
    | with_reducible apply setNode_kept
    | (with_reducible refine Kept.choice (fun _ => ?_) (fun _ => ?_)))

theorem loseLp_kept {pq : List Instr} (s : State) (h : Kept pq s) : Kept pq (loseLp s) := by
  unfold loseLp
  try dsimp only
  repeat' (first
    | with_reducible assumption
    | with_reducible apply loseBytes_kept)

theorem domainGone_kept {pq : List Instr} (s : State) (d : Fin 30) (h : Kept pq s) : Kept pq (domainGone s d) := by
  unfold domainGone
  try dsimp only
  repeat' (first
    | with_reducible assumption
    | with_reducible apply modCore_kept
    | with_reducible apply modStk_kept
    | with_reducible apply loseBytes_kept
    | with_reducible apply modLacing_kept
    | with_reducible apply modEyes_kept
    | with_reducible apply absorb_kept
    | with_reducible apply releaseWaiters_kept
    | with_reducible apply fenceCore_kept
    | with_reducible apply loseLp_kept
    | (with_reducible refine Kept.choice (fun _ => ?_) (fun _ => ?_))
    | (simp only [kept_update])
    | split)

theorem domainOff_kept {pq : List Instr} (s : State) (d : Fin 30) (trip : Bool) (h : Kept pq s) : Kept pq (domainOff s d trip) := by
  unfold domainOff
  try dsimp only
  repeat' (first
    | with_reducible assumption
    | with_reducible apply noted_kept
    | with_reducible apply modDom_kept
    | with_reducible apply domainGone_kept)

theorem powerDown_kept {pq : List Instr} (s : State) (keep : List (Fin 30)) (h : Kept pq s) : Kept pq (powerDown s keep) := by
  unfold powerDown
  try dsimp only
  repeat' (first
    | with_reducible assumption
    | with_reducible apply domainOff_kept
    | (with_reducible refine Kept.foldl (fun _ _ _ => ?_) ?_)
    | (with_reducible refine Kept.choice (fun _ => ?_) (fun _ => ?_)))

theorem assertPwrFault_kept {pq : List Instr} (s : State) (h : Kept pq s) : Kept pq (assertPwrFault s) := by
  unfold assertPwrFault
  try dsimp only
  repeat' (first
    | with_reducible assumption
    | (simp only [kept_update]))

end Sys2Proof.Machine
end

