-- ==== Sys2Proof/Laws/KeptPower.lean ====
section
/-!
SUPPORT. What the operations of Machine/Power.lean keep: the queue and the invariant.
-/
set_option linter.unusedSimpArgs false
namespace Sys2Proof.Machine

theorem modPower_kept {pq : List Instr} (s : State) (f : Power → Power) (h : Kept pq s) : Kept pq (modPower s f) := by
  unfold modPower
  try dsimp only
  repeat' (first
    | with_reducible assumption
    | (simp only [kept_update]))

theorem announce_kept {pq : List Instr} (s : State) (d : Fin 30) (ampsD : Nat) (rise : Bool) (h : Kept pq s) : Kept pq (announce s d ampsD rise) := by
  unfold announce
  try dsimp only
  repeat' (first
    | with_reducible assumption
    | with_reducible apply modPower_kept)

theorem announceActivity_kept {pq : List Instr} (s : State) (c : CoreId) (rise : Bool) (h : Kept pq s) : Kept pq (announceActivity s c rise) := by
  unfold announceActivity
  try dsimp only
  repeat' (first
    | with_reducible assumption
    | with_reducible apply takeFree_kept
    | with_reducible apply announce_kept)

theorem powerRecord_kept {pq : List Instr} (s : State) (index : Nat) (sev : BitVec 8) (ampsD senseMv expD : Nat) (h : Kept pq s) : Kept pq (powerRecord s index sev ampsD senseMv expD) := by
  unfold powerRecord
  try dsimp only
  repeat' (first
    | with_reducible assumption
    | with_reducible apply writeRecord_kept)

theorem execDomain_kept {pq : List Instr} (mb : Fin 16) (s : State) (h : Kept pq s) : NextKept pq (execDomain mb s) := by
  unfold execDomain
  try dsimp only
  repeat' (first
    | with_reducible assumption
    | with_reducible apply killJob_kept
    | with_reducible apply waits_kept
    | with_reducible apply ends_kept
    | with_reducible apply command_kept
    | with_reducible apply fenceCore_kept
    | with_reducible apply modPower_kept
    | (with_reducible refine Kept.choice (fun _ => ?_) (fun _ => ?_))
    | intro _ _ _
    | split)

theorem execDomainPowerGrant_kept {pq : List Instr} (d : Fin 30) (s : State) (h : Kept pq s) : NextKept pq (execDomainPowerGrant d s) := by
  unfold execDomainPowerGrant
  try dsimp only
  repeat' (first
    | with_reducible assumption
    | with_reducible apply NextKept.next
    | with_reducible apply modPower_kept
    | with_reducible apply announce_kept
    | (with_reducible refine Kept.choice (fun _ => ?_) (fun _ => ?_)))

theorem execLoadNoticeLeadEnd_kept {pq : List Instr} (d : Fin 30) (s : State) (h : Kept pq s) : NextKept pq (execLoadNoticeLeadEnd d s) := by
  unfold execLoadNoticeLeadEnd
  try dsimp only
  repeat' (first
    | with_reducible assumption
    | with_reducible apply NextKept.next
    | with_reducible apply noted_kept
    | with_reducible apply modDom_kept
    | with_reducible apply modPower_kept
    | (with_reducible refine Kept.choice (fun _ => ?_) (fun _ => ?_)))

theorem domainReady_kept {pq : List Instr} (s : State) (d : Fin 30) (h : Kept pq s) : Kept pq (domainReady s d) := by
  unfold domainReady
  try dsimp only
  repeat' (first
    | with_reducible assumption
    | with_reducible apply modCore_kept
    | with_reducible apply modStk_kept
    | with_reducible apply modRegion_kept
    | with_reducible apply liftFence_kept
    | (with_reducible refine Kept.choice (fun _ => ?_) (fun _ => ?_))
    | split)

theorem execDomainSoftStartDone_kept {pq : List Instr} (d : Fin 30) (mv : BitVec 12) (s : State) (h : Kept pq s) : NextKept pq (execDomainSoftStartDone d mv s) := by
  unfold execDomainSoftStartDone
  try dsimp only
  repeat' (first
    | with_reducible assumption
    | with_reducible apply NextKept.next
    | with_reducible apply noted_kept
    | with_reducible apply ends_kept
    | with_reducible apply modDom_kept
    | with_reducible apply modPower_kept
    | with_reducible apply domainReady_kept
    | (with_reducible refine Kept.choice (fun _ => ?_) (fun _ => ?_))
    | split)

theorem execDomainPowerOffDone_kept {pq : List Instr} (d : Fin 30) (s : State) (h : Kept pq s) : NextKept pq (execDomainPowerOffDone d s) := by
  unfold execDomainPowerOffDone
  try dsimp only
  repeat' (first
    | with_reducible assumption
    | with_reducible apply NextKept.next
    | with_reducible apply ends_kept
    | with_reducible apply domainOff_kept
    | with_reducible apply modPower_kept
    | (with_reducible refine Kept.foldl (fun _ _ _ => ?_) ?_)
    | (with_reducible refine Kept.choice (fun _ => ?_) (fun _ => ?_)))

theorem execDomainGrantTimeout_kept {pq : List Instr} (d : Fin 30) (s : State) (h : Kept pq s) : NextKept pq (execDomainGrantTimeout d s) := by
  unfold execDomainGrantTimeout
  try dsimp only
  repeat' (first
    | with_reducible assumption
    | with_reducible apply NextKept.next
    | with_reducible apply ends_kept
    | with_reducible apply modPower_kept
    | (with_reducible refine Kept.choice (fun _ => ?_) (fun _ => ?_))
    | split)

theorem killJobs_kept {pq : List Instr} (s : State) (l : List Job) (code : BitVec 16) (unit : Nat × Nat × Nat) (h : Kept pq s) : Kept pq (killJobs s l code unit) := by
  unfold killJobs
  try dsimp only
  repeat' (first
    | with_reducible assumption
    | with_reducible apply killJob_kept
    | (with_reducible refine Kept.foldl (fun _ _ _ => ?_) ?_))

theorem poisonReads_kept {pq : List Instr} (s : State) (hit : Nat → Bool) (h : Kept pq s) : Kept pq (poisonReads s hit) := by
  unfold poisonReads
  try dsimp only
  repeat' (first
    | with_reducible assumption
    | with_reducible apply modTiers_kept
    | with_reducible apply settleMem_kept
    | (with_reducible refine Kept.foldl (fun _ _ _ => ?_) ?_))

theorem tripEffects_kept {pq : List Instr} (s : State) (d : Fin 30) (h : Kept pq s) : Kept pq (tripEffects s d) := by
  unfold tripEffects
  try dsimp only
  repeat' (first
    | with_reducible assumption
    | with_reducible apply modStk_kept
    | with_reducible apply loseCore_kept
    | with_reducible apply respond_kept
    | with_reducible apply modTiers_kept
    | with_reducible apply modEyes_kept
    | with_reducible apply killAll_kept
    | with_reducible apply failDevice_kept
    | with_reducible apply fenceCore_kept
    | with_reducible apply powerDown_kept
    | with_reducible apply assertPwrFault_kept
    | with_reducible apply modPower_kept
    | with_reducible apply killJobs_kept
    | with_reducible apply poisonReads_kept
    | (with_reducible refine Kept.foldl (fun _ _ _ => ?_) ?_)
    | (with_reducible refine Kept.choice (fun _ => ?_) (fun _ => ?_))
    | split)

theorem tripDomain_kept {pq : List Instr} (s : State) (d : Fin 30) (ampsD : BitVec 16) (h : Kept pq s) : Kept pq (tripDomain s d ampsD) := by
  unfold tripDomain
  try dsimp only
  repeat' (first
    | with_reducible assumption
    | with_reducible apply condAppend_kept
    | with_reducible apply domainOff_kept
    | with_reducible apply powerRecord_kept
    | with_reducible apply tripEffects_kept)

theorem execDomainTrip_kept {pq : List Instr} (d : Fin 30) (ampsD : BitVec 16) (s : State) (h : Kept pq s) : NextKept pq (execDomainTrip d ampsD s) := by
  unfold execDomainTrip
  try dsimp only
  repeat' (first
    | with_reducible assumption
    | with_reducible apply NextKept.next
    | with_reducible apply tripDomain_kept
    | (with_reducible refine Kept.choice (fun _ => ?_) (fun _ => ?_)))

theorem modFeed_kept {pq : List Instr} (s : State) (n : Fin 6) (f : FeedGroup → FeedGroup) (h : Kept pq s) : Kept pq (modFeed s n f) := by
  unfold modFeed
  try dsimp only
  repeat' (first
    | with_reducible assumption
    | with_reducible apply modPower_kept)

theorem execFeedSuspect_kept {pq : List Instr} (n : Fin 6) (ampsD expD : BitVec 16) (senseMv : BitVec 12) (s : State) (h : Kept pq s) : NextKept pq (execFeedSuspect n ampsD expD senseMv s) := by
  unfold execFeedSuspect
  try dsimp only
  repeat' (first
    | with_reducible assumption
    | with_reducible apply NextKept.next
    | with_reducible apply noted_kept
    | with_reducible apply powerRecord_kept
    | with_reducible apply modFeed_kept
    | (with_reducible refine Kept.choice (fun _ => ?_) (fun _ => ?_)))

theorem execFeedFault_kept {pq : List Instr} (n : Fin 6) (ampsD expD : BitVec 16) (senseMv : BitVec 12) (s : State) (h : Kept pq s) : NextKept pq (execFeedFault n ampsD expD senseMv s) := by
  unfold execFeedFault
  try dsimp only
  repeat' (first
    | with_reducible assumption
    | with_reducible apply NextKept.next
    | with_reducible apply noted_kept
    | with_reducible apply assertPwrFault_kept
    | with_reducible apply powerRecord_kept
    | with_reducible apply modFeed_kept
    | (with_reducible refine Kept.choice (fun _ => ?_) (fun _ => ?_)))

theorem powerLoss_kept {pq : List Instr} (s : State) (h : Kept pq s) : Kept pq (powerLoss s) := by
  unfold powerLoss
  try dsimp only
  repeat' (first
    | with_reducible assumption
    | with_reducible apply powerDown_kept
    | with_reducible apply modPower_kept)

theorem execFeedLost_kept {pq : List Instr} (b : Fin 2) (senseMv : BitVec 12) (s : State) (h : Kept pq s) : NextKept pq (execFeedLost b senseMv s) := by
  unfold execFeedLost
  try dsimp only
  repeat' (first
    | with_reducible assumption
    | with_reducible apply NextKept.next
    | with_reducible apply noted_kept
    | with_reducible apply modPower_kept
    | with_reducible apply powerRecord_kept
    | with_reducible apply powerLoss_kept
    | (with_reducible refine Kept.choice (fun _ => ?_) (fun _ => ?_)))

theorem execGovernorPeakTick_kept {pq : List Instr} (p : PowerSample) (s : State) (h : Kept pq s) : NextKept pq (execGovernorPeakTick p s) := by
  unfold execGovernorPeakTick
  try dsimp only
  repeat' (first
    | with_reducible assumption
    | with_reducible apply NextKept.next
    | with_reducible apply modPower_kept)

theorem lowerCore_kept {pq : List Instr} (s : State) (c : CoreId) (h : Kept pq s) : Kept pq (lowerCore s c) := by
  unfold lowerCore
  try dsimp only
  repeat' (first
    | with_reducible assumption
    | with_reducible apply modPower_kept)

theorem raiseCore_kept {pq : List Instr} (s : State) (c : CoreId) (h : Kept pq s) : Kept pq (raiseCore s c) := by
  unfold raiseCore
  try dsimp only
  repeat' (first
    | with_reducible assumption
    | with_reducible apply modPower_kept)

theorem execGovernorSustTick_kept {pq : List Instr} (avgW : BitVec 16) (activity : Vector (BitVec 16) 12) (s : State) (h : Kept pq s) : NextKept pq (execGovernorSustTick avgW activity s) := by
  unfold execGovernorSustTick
  try dsimp only
  repeat' (first
    | with_reducible assumption
    | with_reducible apply NextKept.next
    | with_reducible apply modPower_kept
    | with_reducible apply lowerCore_kept
    | with_reducible apply raiseCore_kept
    | (with_reducible refine Kept.choice (fun _ => ?_) (fun _ => ?_))
    | split)

theorem execPwrLimit_kept {pq : List Instr} (mb : Fin 16) (s : State) (h : Kept pq s) : NextKept pq (execPwrLimit mb s) := by
  unfold execPwrLimit
  try dsimp only
  repeat' (first
    | with_reducible assumption
    | with_reducible apply noted_kept
    | with_reducible apply ends_kept
    | with_reducible apply command_kept
    | with_reducible apply modPower_kept
    | intro _ _ _)

theorem setHbmPg_kept {pq : List Instr} (s : State) (side : Fin 2) (b : Bool) (h : Kept pq s) : Kept pq (setHbmPg s side b) := by
  unfold setHbmPg
  try dsimp only
  repeat' (first
    | with_reducible assumption
    | with_reducible apply modPower_kept)

theorem execHbmPgDeassert_kept {pq : List Instr} (side : Fin 2) (s : State) (h : Kept pq s) : NextKept pq (execHbmPgDeassert side s) := by
  unfold execHbmPgDeassert
  try dsimp only
  repeat' (first
    | with_reducible assumption
    | with_reducible apply NextKept.next
    | with_reducible apply tripDomain_kept
    | with_reducible apply setHbmPg_kept
    | (with_reducible refine Kept.choice (fun _ => ?_) (fun _ => ?_)))

theorem execRailOutOfRange_kept {pq : List Instr} (rail : Rail) (mv : Nat) (s : State) (h : Kept pq s) : NextKept pq (execRailOutOfRange rail mv s) := by
  unfold execRailOutOfRange
  try dsimp only
  repeat' (first
    | with_reducible assumption
    | (with_reducible refine NextKept.choice ?_ ?_)
    | with_reducible apply NextKept.next
    | with_reducible apply NextKept.fault
    | with_reducible apply modPower_kept
    | with_reducible apply powerLoss_kept
    | (with_reducible refine Kept.choice (fun _ => ?_) (fun _ => ?_)))

end Sys2Proof.Machine
end

