-- ==== Sys2Proof/Laws/KeptClock.lean ====
section
/-!
SUPPORT. What the operations of Machine/Clock.lean keep: the queue and the invariant.
-/
set_option linter.unusedSimpArgs false
namespace Sys2Proof.Machine

theorem execClockCap_kept {pq : List Instr} (mb : Fin 16) (s : State) (h : Kept pq s) : NextKept pq (execClockCap mb s) := by
  unfold execClockCap
  try dsimp only
  repeat' (first
    | with_reducible assumption
    | with_reducible apply modRegion_kept
    | with_reducible apply ends_kept
    | with_reducible apply command_kept
    | intro _ _ _)

theorem execThermal_kept {pq : List Instr} (mb : Fin 16) (s : State) (h : Kept pq s) : NextKept pq (execThermal mb s) := by
  unfold execThermal
  try dsimp only
  repeat' (first
    | with_reducible assumption
    | with_reducible apply noted_kept
    | with_reducible apply ends_kept
    | with_reducible apply command_kept
    | (simp only [kept_update])
    | intro _ _ _)

theorem clockRecord_kept {pq : List Instr} (s : State) (r : Fin 15) (sev : BitVec 8) (stretches : Nat) (h : Kept pq s) : Kept pq (clockRecord s r sev stretches) := by
  unfold clockRecord
  try dsimp only
  repeat' (first
    | with_reducible assumption
    | with_reducible apply writeRecord_kept)

theorem execRefLoss_kept {pq : List Instr} (s : State) (h : Kept pq s) : NextKept pq (execRefLoss s) := by
  unfold execRefLoss
  try dsimp only
  repeat' (first
    | with_reducible assumption
    | with_reducible apply NextKept.next
    | with_reducible apply clockRecord_kept
    | (with_reducible refine Kept.choice (fun _ => ?_) (fun _ => ?_))
    | (simp only [kept_update]))

theorem execRefReturn_kept {pq : List Instr} (s : State) (h : Kept pq s) : NextKept pq (execRefReturn s) := by
  unfold execRefReturn
  try dsimp only
  repeat' (first
    | with_reducible assumption
    | with_reducible apply NextKept.next
    | (with_reducible refine Kept.choice (fun _ => ?_) (fun _ => ?_))
    | (simp only [kept_update]))

theorem execHoldoverExpire_kept {pq : List Instr} (s : State) (h : Kept pq s) : NextKept pq (execHoldoverExpire s) := by
  unfold execHoldoverExpire
  try dsimp only
  repeat' (first
    | with_reducible assumption
    | with_reducible apply NextKept.next
    | with_reducible apply killAll_kept
    | with_reducible apply failDevice_kept
    | with_reducible apply clockRecord_kept
    | (with_reducible refine Kept.choice (fun _ => ?_) (fun _ => ?_)))

theorem execFreqChangeStart_kept {pq : List Instr} (r : Fin 15) (s : State) (h : Kept pq s) : NextKept pq (execFreqChangeStart r s) := by
  unfold execFreqChangeStart
  try dsimp only
  repeat' (first
    | with_reducible assumption
    | with_reducible apply NextKept.next
    | with_reducible apply modRegion_kept
    | with_reducible apply announceActivity_kept
    | (with_reducible refine Kept.choice (fun _ => ?_) (fun _ => ?_)))

theorem execFreqChangeRestart_kept {pq : List Instr} (r : Fin 15) (s : State) (h : Kept pq s) : NextKept pq (execFreqChangeRestart r s) := by
  unfold execFreqChangeRestart
  try dsimp only
  repeat' (first
    | with_reducible assumption
    | with_reducible apply NextKept.next
    | with_reducible apply noted_kept
    | with_reducible apply modRegion_kept
    | (with_reducible refine Kept.choice (fun _ => ?_) (fun _ => ?_)))

theorem noteCode_kept {pq : List Instr} (s : State) (r : Fin 15) (code : BitVec 6) (path : BitVec 5) (h : Kept pq s) : Kept pq (noteCode s r code path) := by
  unfold noteCode
  try dsimp only
  repeat' (first
    | with_reducible assumption
    | with_reducible apply modRegion_kept)

theorem execMarginWarn_kept {pq : List Instr} (r : Fin 15) (code : BitVec 6) (path : BitVec 5) (s : State) (h : Kept pq s) : NextKept pq (execMarginWarn r code path s) := by
  unfold execMarginWarn
  try dsimp only
  repeat' (first
    | with_reducible assumption
    | with_reducible apply NextKept.next
    | with_reducible apply modRegion_kept
    | with_reducible apply clockRecord_kept
    | with_reducible apply noteCode_kept
    | (with_reducible refine Kept.choice (fun _ => ?_) (fun _ => ?_)))

theorem stretchPs_kept {pq : List Instr} (s : State) (r : Fin 15) (code : BitVec 6) (h : Kept pq s) : Kept pq (stretchPs s r code).2 := by
  unfold stretchPs
  try dsimp only
  repeat' (first
    | with_reducible assumption
    | with_reducible apply takeFree_kept
    | split)

theorem execPeriodStretch_kept {pq : List Instr} (r : Fin 15) (code : BitVec 6) (path : BitVec 5) (s : State) (h : Kept pq s) : NextKept pq (execPeriodStretch r code path s) := by
  unfold execPeriodStretch
  try dsimp only
  repeat' (first
    | with_reducible assumption
    | with_reducible apply NextKept.next
    | with_reducible apply bumpGen_kept
    | with_reducible apply modRegion_kept
    | with_reducible apply noteCode_kept
    | with_reducible apply stretchPs_kept
    | (with_reducible refine Kept.choice (fun _ => ?_) (fun _ => ?_)))

theorem execStretchLimitExceeded_kept {pq : List Instr} (r : Fin 15) (n : BitVec 32) (s : State) (h : Kept pq s) : NextKept pq (execStretchLimitExceeded r n s) := by
  unfold execStretchLimitExceeded
  try dsimp only
  repeat' (first
    | with_reducible assumption
    | with_reducible apply NextKept.next
    | with_reducible apply modRegion_kept
    | with_reducible apply clockRecord_kept
    | (with_reducible refine Kept.choice (fun _ => ?_) (fun _ => ?_)))

theorem execMarginLimitRaise_kept {pq : List Instr} (r : Fin 15) (s : State) (h : Kept pq s) : NextKept pq (execMarginLimitRaise r s) := by
  unfold execMarginLimitRaise
  try dsimp only
  repeat' (first
    | with_reducible assumption
    | with_reducible apply NextKept.next
    | with_reducible apply modRegion_kept
    | (with_reducible refine Kept.choice (fun _ => ?_) (fun _ => ?_)))

theorem modCorePower_kept {pq : List Instr} (s : State) (c : CoreId) (f : CorePower → CorePower) (h : Kept pq s) : Kept pq (modCorePower s c f) := by
  unfold modCorePower
  try dsimp only
  repeat' (first
    | with_reducible assumption
    | with_reducible apply modPower_kept)

theorem markLost_kept {pq : List Instr} (s : State) (c : CoreId) (reason : BitVec 8) (h : Kept pq s) : Kept pq (markLost s c reason) := by
  unfold markLost
  try dsimp only
  repeat' (first
    | with_reducible assumption
    | with_reducible apply condAppend_kept
    | with_reducible apply loseCore_kept
    | (with_reducible refine Kept.choice (fun _ => ?_) (fun _ => ?_)))

theorem execVfAgeStep_kept {pq : List Instr} (c : CoreId) (k : Fin 16) (s : State) (h : Kept pq s) : NextKept pq (execVfAgeStep c k s) := by
  unfold execVfAgeStep
  try dsimp only
  repeat' (first
    | with_reducible assumption
    | with_reducible apply NextKept.next
    | with_reducible apply noted_kept
    | with_reducible apply condAppend_kept
    | with_reducible apply modCorePower_kept
    | with_reducible apply markLost_kept
    | (with_reducible refine Kept.choice (fun _ => ?_) (fun _ => ?_)))

theorem thermalRecord_kept {pq : List Instr} (s : State) (r : Fin 15) (i : Nat) (sev : BitVec 8) (h : Kept pq s) : Kept pq (thermalRecord s r i sev) := by
  unfold thermalRecord
  try dsimp only
  repeat' (first
    | with_reducible assumption
    | with_reducible apply writeRecord_kept)

theorem thermalTrip_kept {pq : List Instr} (s : State) (r : Fin 15) (i : Nat) (h : Kept pq s) : Kept pq (thermalTrip s r i) := by
  unfold thermalTrip
  try dsimp only
  repeat' (first
    | with_reducible assumption
    | with_reducible apply killAll_kept
    | with_reducible apply failDevice_kept
    | with_reducible apply powerDown_kept
    | with_reducible apply assertPwrFault_kept
    | with_reducible apply modPower_kept
    | with_reducible apply thermalRecord_kept
    | (simp only [kept_update]))

theorem judgeRegion_kept {pq : List Instr} (s : State) (r : Fin 15) (was : BitVec 16) (h : Kept pq s) : Kept pq (judgeRegion s r was) := by
  unfold judgeRegion
  try dsimp only
  repeat' (first
    | with_reducible assumption
    | with_reducible apply noted_kept
    | with_reducible apply modTherm_kept
    | with_reducible apply thermalRecord_kept
    | (with_reducible refine Kept.choice (fun _ => ?_) (fun _ => ?_)))

theorem failSensor_kept {pq : List Instr} (s : State) (r : Fin 15) (i : Fin 16) (h : Kept pq s) : Kept pq (failSensor s r i) := by
  unfold failSensor
  try dsimp only
  repeat' (first
    | with_reducible assumption
    | with_reducible apply modTherm_kept
    | with_reducible apply sensorFailed_kept
    | with_reducible apply markLost_kept
    | (with_reducible refine Kept.choice (fun _ => ?_) (fun _ => ?_)))

theorem execSensorSample_kept {pq : List Instr} (r : Fin 15) (i : Fin 16) (tempQ : BitVec 16) (apart : Bool) (s : State) (h : Kept pq s) : NextKept pq (execSensorSample r i tempQ apart s) := by
  unfold execSensorSample
  try dsimp only
  repeat' (first
    | with_reducible assumption
    | with_reducible apply NextKept.next
    | with_reducible apply bumpGen_kept
    | with_reducible apply modTherm_kept
    | with_reducible apply retakeTemp_kept
    | with_reducible apply thermalTrip_kept
    | with_reducible apply judgeRegion_kept
    | with_reducible apply failSensor_kept
    | (with_reducible refine Kept.choice (fun _ => ?_) (fun _ => ?_)))

theorem execThermalCheck_kept {pq : List Instr} (s : State) (h : Kept pq s) : NextKept pq (execThermalCheck s) := by
  unfold execThermalCheck
  try dsimp only
  repeat' (first
    | with_reducible assumption
    | with_reducible apply NextKept.next
    | with_reducible apply modTherm_kept
    | with_reducible apply thermalRecord_kept
    | (with_reducible refine Kept.choice (fun _ => ?_) (fun _ => ?_))
    | split)

theorem execThermalRelease_kept {pq : List Instr} (s : State) (h : Kept pq s) : NextKept pq (execThermalRelease s) := by
  unfold execThermalRelease
  try dsimp only
  repeat' (first
    | with_reducible assumption
    | with_reducible apply NextKept.next
    | with_reducible apply modTherm_kept
    | (with_reducible refine Kept.choice (fun _ => ?_) (fun _ => ?_))
    | (simp only [kept_update])
    | split)

end Sys2Proof.Machine
end

