-- ==== Sys2Proof/Laws/KeptJobs.lean ====
section
/-!
SUPPORT. What the operations of Machine/Jobs.lean keep: the queue and the invariant.
-/
set_option linter.unusedSimpArgs false
namespace Sys2Proof.Machine

theorem loadConst_kept {pq : List Instr} (i : List Byte) (c : CoreId) (s : State) (e : List Byte) (h : Kept pq s) : Kept pq (loadConst i c s e) := by
  unfold loadConst
  try dsimp only
  repeat' (first
    | with_reducible assumption
    | with_reducible apply setFull_kept
    | with_reducible apply setPoison_kept
    | with_reducible apply setBytesAt_kept
    | (with_reducible refine Kept.foldl (fun _ _ _ => ?_) ?_))

theorem loadCore_kept {pq : List Instr} (i : List Byte) (id : BitVec 6) (s : State) (k : Nat) (c : CoreId) (h : Kept pq s) : Kept pq (loadCore i id s k c) := by
  unfold loadCore
  try dsimp only
  repeat' (first
    | with_reducible assumption
    | with_reducible apply modCore_kept
    | with_reducible apply loadConst_kept
    | (with_reducible refine Kept.foldl (fun _ _ _ => ?_) ?_))

theorem foldl_reg {α : Type} {f : State → α → State} (h : ∀ s a, (f s a).reg = s.reg) : ∀ {l : List α} {s : State},
    (l.foldl f s).reg = s.reg
  | [], _ => rfl
  | a :: t, s => by rw [List.foldl_cons, foldl_reg h (l := t), h]

theorem loadConst_reg {i : List Byte} {c : CoreId} {s : State} {e : List Byte} : (loadConst i c s e).reg = s.reg := by
  unfold loadConst
  dsimp only
  rw [foldl_reg]
  · rfl
  · intro _ _
    rfl

theorem loadCore_reg {i : List Byte} {id : BitVec 6} {s : State} {k : Nat} {c : CoreId} : (loadCore i id s k c).reg = s.reg := by
  unfold loadCore
  dsimp only
  rw [foldl_reg]
  · rfl
  · intro _ _
    exact loadConst_reg

theorem loadJob_kept {pq : List Instr} (s : State) (i : List Byte) (id : BitVec 6) (pl : Nat) (fn : Fin 9) (h : Kept pq s)
    (hj : s.reg.jobs.length < 8) : Kept pq (loadJob s i id pl fn) := by
  unfold loadJob
  have k : Kept pq ((jobOf i id pl fn).cores.zipIdx.foldl (fun s x => loadCore i id s x.2 x.1) s) :=
    Kept.foldl (fun _ _ g => loadCore_kept _ _ _ _ _ g) h
  have e : ((jobOf i id pl fn).cores.zipIdx.foldl (fun s x => loadCore i id s x.2 x.1) s).reg = s.reg :=
    foldl_reg (fun _ _ => loadCore_reg)
  refine noted_kept _ (modReg_kept_of k k.2.2.1.1 k.2.2.1.2.1 ?_ k.2.2.2.1 k.2.2.2.2)
  dsimp only
  rw [e, List.length_append]
  exact hj

theorem command_kept_of {pq : List Instr} {s : State} {k : Fin 16} {code : Nat} {allow : State → Mailbox → BitVec 16}
    {effect : State → Mailbox → State} (h : Kept pq s)
    (he : ∀ m, allow s m = 0 → Kept pq (effect s m)) : NextKept pq (command s k code allow effect) := by
  unfold command
  refine NextKept.next (Kept.choice (fun _ => Kept.choice (fun a => he _ a) (fun _ => ends_kept _ _ _ _ h)) (fun _ => h))

/-- A check that answers 0 has not failed. -/
theorem check_passed {c : Prop} [Decidable c] {a b : BitVec 16} (h : (if c then a else b) = 0) (ha : a ≠ 0) : ¬c ∧ b = 0 := by
  split at h
  · exact absurd h ha
  · exact ⟨‹_›, h⟩

theorem jobLoadAllow_room {s : State} {m : Mailbox} (h : jobLoadAllow s m = 0) : s.reg.jobs.length < 8 := by
  unfold jobLoadAllow at h
  replace h := (check_passed h (by decide)).2
  replace h := (check_passed h (by decide)).2
  replace h := (check_passed h (by decide)).2
  replace h := (check_passed h (by decide)).2
  replace h := (check_passed h (by decide)).2
  replace h := (check_passed h (by decide)).1
  simp only [Bool.or_eq_true, decide_eq_true_eq, not_or] at h
  exact Nat.lt_of_not_le h.1.1

/-- A load whose mailbox was abandoned kills the job it loaded. -/
theorem abandonedLoad_kept {pq : List Instr} {t : State} {b : Bool} {id : BitVec 6} {fn : Fin 9} (h : Kept pq t) :
    Kept pq (if b then
      killJob (modReg t fun r => { r with grants := vset r.grants fn none }) id 0 0x20 (0, 15, 0) none
      else t) :=
  Kept.choice (fun _ => killJob_kept _ _ _ _ _ _ (modReg_kept h rfl rfl (Nat.le_refl _) rfl rfl)) (fun _ => h)

theorem execJobLoad_kept {pq : List Instr} (mb : Fin 16) (s : State) (h : Kept pq s) : NextKept pq (execJobLoad mb s) := by
  unfold execJobLoad
  refine command_kept_of h (fun m a => ?_)
  dsimp only
  split
  · exact ends_kept _ _ _ _ (abandonedLoad_kept (loadJob_kept _ _ _ _ _ h (jobLoadAllow_room a)))
  · exact ends_kept _ _ _ _ h

theorem openDecl_kept {pq : List Instr} (j : Job) (s : State) (d : CarrelDecl) (h : Kept pq s) : Kept pq (openDecl j s d) := by
  unfold openDecl
  try dsimp only
  repeat' (first
    | with_reducible assumption
    | with_reducible apply setFull_kept
    | with_reducible apply openCarrel_kept
    | (with_reducible refine Kept.foldl (fun _ _ _ => ?_) ?_)
    | (with_reducible refine Kept.choice (fun _ => ?_) (fun _ => ?_))
    | split)

theorem prepareCore_kept {pq : List Instr} (j : Job) (key : BitVec 128) (fp : BitVec 16) (s : State) (c : CoreId) (h : Kept pq s) : Kept pq (prepareCore j key fp s c) := by
  unfold prepareCore
  try dsimp only
  repeat' (first
    | with_reducible assumption
    | with_reducible apply modCore_kept
    | with_reducible apply announceActivity_kept)

theorem runCore_kept {pq : List Instr} (j : Job) (s : State) (c : CoreId) (h : Kept pq s) : Kept pq (runCore j s c) := by
  unfold runCore
  try dsimp only
  repeat' (first
    | with_reducible assumption
    | with_reducible apply modCore_kept)

theorem startJob_kept {pq : List Instr} (s : State) (j : Job) (h : Kept pq s) : Kept pq (startJob s j) := by
  unfold startJob
  try dsimp only
  repeat' (first
    | with_reducible assumption
    | with_reducible apply takeFree_kept
    | with_reducible apply modJob_kept
    | with_reducible apply noted_kept
    | with_reducible apply openDecl_kept
    | with_reducible apply prepareCore_kept
    | with_reducible apply runCore_kept
    | (with_reducible refine Kept.foldl (fun _ _ _ => ?_) ?_)
    | split)

theorem execJobStart_kept {pq : List Instr} (mb : Fin 16) (s : State) (h : Kept pq s) : NextKept pq (execJobStart mb s) := by
  unfold execJobStart
  try dsimp only
  repeat' (first
    | with_reducible assumption
    | with_reducible apply ends_kept
    | with_reducible apply command_kept
    | with_reducible apply startJob_kept
    | intro _ _ _
    | split)

theorem pauseCores_kept {pq : List Instr} (s : State) (j : Job) (h : Kept pq s) : Kept pq (pauseCores s j) := by
  unfold pauseCores
  try dsimp only
  repeat' (first
    | with_reducible assumption
    | with_reducible apply modCore_kept
    | (with_reducible refine Kept.foldl (fun _ _ _ => ?_) ?_))

theorem execJobPause_kept {pq : List Instr} (mb : Fin 16) (s : State) (h : Kept pq s) : NextKept pq (execJobPause mb s) := by
  unfold execJobPause
  try dsimp only
  repeat' (first
    | with_reducible assumption
    | with_reducible apply modJob_kept
    | with_reducible apply noted_kept
    | with_reducible apply ends_kept
    | with_reducible apply command_kept
    | with_reducible apply pauseCores_kept
    | intro _ _ _
    | split)

theorem execJobResume_kept {pq : List Instr} (mb : Fin 16) (s : State) (h : Kept pq s) : NextKept pq (execJobResume mb s) := by
  unfold execJobResume
  try dsimp only
  repeat' (first
    | with_reducible assumption
    | with_reducible apply modCore_kept
    | with_reducible apply modJob_kept
    | with_reducible apply noted_kept
    | with_reducible apply ends_kept
    | with_reducible apply command_kept
    | (with_reducible refine Kept.foldl (fun _ _ _ => ?_) ?_)
    | intro _ _ _
    | split)

theorem execJobKill_kept {pq : List Instr} (mb : Fin 16) (s : State) (h : Kept pq s) : NextKept pq (execJobKill mb s) := by
  unfold execJobKill
  try dsimp only
  repeat' (first
    | with_reducible assumption
    | with_reducible apply killJob_kept
    | with_reducible apply waits_kept
    | with_reducible apply command_kept
    | intro _ _ _)

theorem execJobStatus_kept {pq : List Instr} (mb : Fin 16) (s : State) (h : Kept pq s) : NextKept pq (execJobStatus mb s) := by
  unfold execJobStatus
  try dsimp only
  repeat' (first
    | with_reducible assumption
    | with_reducible apply ends_kept
    | with_reducible apply command_kept
    | intro _ _ _
    | split)

theorem writeGate_kept {pq : List Instr} (s : State) (c : CoreId) (g : BitVec 2) (h : Kept pq s) : Kept pq (writeGate s c g) := by
  unfold writeGate
  try dsimp only
  repeat' (first
    | with_reducible assumption
    | with_reducible apply modCore_kept
    | with_reducible apply noted_kept
    | with_reducible apply announceActivity_kept
    | (with_reducible refine Kept.choice (fun _ => ?_) (fun _ => ?_)))

theorem execClgate_kept {pq : List Instr} (c : CoreId) (w : BitVec 120) (s : State) (h : Kept pq s) : NextKept pq (execClgate c w s) := by
  unfold execClgate
  try dsimp only
  repeat' (first
    | with_reducible assumption
    | with_reducible apply NextKept.next
    | with_reducible apply engineInstr_kept
    | with_reducible apply writeGate_kept
    | (simp only [kept_update])
    | (with_reducible refine PhaseKept.finish (fun _ _ => ?_))
    | (with_reducible refine PhaseKept.act (fun _ _ => ?_))
    | with_reducible exact PhaseKept.hold
    | (with_reducible refine PhaseKept.choice (fun _ => ?_) (fun _ => ?_))
    | intro _ _
    | (simp only [id_eq]))

theorem execClusterUngateDone_kept {pq : List Instr} (c : CoreId) (k : Fin 2) (s : State) (h : Kept pq s) : NextKept pq (execClusterUngateDone c k s) := by
  unfold execClusterUngateDone
  try dsimp only
  repeat' (first
    | with_reducible assumption
    | with_reducible apply NextKept.next
    | with_reducible apply modCore_kept)

end Sys2Proof.Machine
end

