-- ==== Sys2Proof/Laws/KeptSnap.lean ====
section
/-!
SUPPORT. What the operations of Machine/Snap.lean keep: the queue and the invariant.
-/
set_option linter.unusedSimpArgs false
namespace Sys2Proof.Machine

theorem modResil_kept {pq : List Instr} (s : State) (f : Resil → Resil) (h : Kept pq s) : Kept pq (modResil s f) := by
  unfold modResil
  try dsimp only
  repeat' (first
    | with_reducible assumption
    | (simp only [kept_update]))

theorem modCfg_kept {pq : List Instr} (s : State) (j : BitVec 6) (f : SnapCfg → SnapCfg) (h : Kept pq s) : Kept pq (modCfg s j f) := by
  unfold modCfg
  try dsimp only
  repeat' (first
    | with_reducible assumption
    | with_reducible apply modResil_kept)

theorem snapRecord_kept {pq : List Instr} (s : State) (j : BitVec 6) (id : BitVec 32) (step : BitVec 64) (layer event : Nat) (sev : BitVec 8)     (aux : List Byte) (h : Kept pq s) : Kept pq (snapRecord s j id step layer event sev aux) := by
  unfold snapRecord
  try dsimp only
  repeat' (first
    | with_reducible assumption
    | with_reducible apply writeRecord_kept)

theorem foldSet_wf {g : Nat × Byte → Nat} : ∀ {l : List (Nat × Byte)} {m : List Host.Cell}, Memory.wf m = true →
    Memory.wf (l.foldl (fun m e => memSet m (g e) e.2) m) = true
  | [], _, h => h
  | e :: t, m, h => by
    rw [List.foldl_cons]
    exact foldSet_wf (memSet_wf _ _ h)

theorem memPaste_kept {pq : List Instr} (s : State) (a off n : Nat) (l : List (Nat × Byte)) (h : Kept pq s) :
    Kept pq (memPaste s a off n l) :=
  ⟨h.1, ⟨foldSet_wf (memErase_wf a n h.2.1.1), h.2.1.2.1, setErase_wf _ _ h.2.1.2.2⟩, h.2.2⟩

theorem startFreeze_kept {pq : List Instr} (s : State) (j : Job) (c : SnapCfg) (record : List Byte) (h : Kept pq s) : Kept pq (startFreeze s j c record) := by
  unfold startFreeze
  try dsimp only
  repeat' (first
    | with_reducible assumption
    | with_reducible apply noted_kept
    | with_reducible apply modCfg_kept)

theorem releaseSteps_kept {pq : List Instr} (s : State) (j : BitVec 6) (h : Kept pq s) : Kept pq (releaseSteps s j) := by
  unfold releaseSteps
  try dsimp only
  repeat' (first
    | with_reducible assumption
    | with_reducible apply modCfg_kept)

theorem passBoundary_kept {pq : List Instr} (s : State) (id : BitVec 6) (h : Kept pq s) : Kept pq (passBoundary s id) := by
  unfold passBoundary
  try dsimp only
  repeat' (first
    | with_reducible assumption
    | with_reducible apply startFreeze_kept
    | with_reducible apply releaseSteps_kept
    | (with_reducible refine Kept.choice (fun _ => ?_) (fun _ => ?_))
    | split)

theorem sendDuplicate_kept {pq : List Instr} (s : State) (at_ : Nat) (l : List Byte) (h : Kept pq s) : Kept pq (sendDuplicate s at_ l) := by
  unfold sendDuplicate
  try dsimp only
  repeat' (first
    | with_reducible assumption
    | with_reducible apply modSession_kept
    | with_reducible apply sendTracked_kept
    | (with_reducible refine Kept.foldl (fun _ _ _ => ?_) ?_)
    | split)

theorem vaultWrite_kept {pq : List Instr} (s : State) (j : BitVec 6) (id : BitVec 32) (trailer : Bool) (h : Kept pq s) : Kept pq (vaultWrite s j id trailer) := by
  unfold vaultWrite
  try dsimp only
  repeat' (first
    | with_reducible assumption
    | (simp only [kept_update]))

theorem modSnap_kept {pq : List Instr} (s : State) (j : BitVec 6) (id : BitVec 32) (g : Snapshot → Snapshot) (h : Kept pq s) : Kept pq (modSnap s j id g) := by
  unfold modSnap
  try dsimp only
  repeat' (first
    | with_reducible assumption
    | with_reducible apply modCfg_kept)

theorem streamData_kept {pq : List Instr} (s : State) (j : BitVec 6) (c : SnapCfg) (f : Snapshot) (layer : Nat) (h : Kept pq s) : Kept pq (streamData s j c f layer) := by
  unfold streamData
  try dsimp only
  repeat' (first
    | with_reducible assumption
    | with_reducible apply sendDuplicate_kept
    | with_reducible apply vaultWrite_kept
    | with_reducible apply modSnap_kept
    | (with_reducible refine Kept.choice (fun _ => ?_) (fun _ => ?_))
    | (simp only [kept_update]))

theorem streamTrailer_kept {pq : List Instr} (s : State) (j : BitVec 6) (c : SnapCfg) (f : Snapshot) (layer : Nat) (h : Kept pq s) : Kept pq (streamTrailer s j c f layer) := by
  unfold streamTrailer
  try dsimp only
  repeat' (first
    | with_reducible assumption
    | with_reducible apply sendDuplicate_kept
    | with_reducible apply vaultWrite_kept
    | with_reducible apply modSnap_kept
    | (with_reducible refine Kept.choice (fun _ => ?_) (fun _ => ?_))
    | (simp only [kept_update]))

theorem dropFlying_kept {pq : List Instr} (s : State) (j : BitVec 6) (h : Kept pq s) : Kept pq (dropFlying s j) := by
  unfold dropFlying
  try dsimp only
  repeat' (first
    | with_reducible assumption
    | with_reducible apply modCfg_kept)

theorem tryCommit_kept {pq : List Instr} (s : State) (id : BitVec 6) (h : Kept pq s) : Kept pq (tryCommit s id) := by
  unfold tryCommit
  try dsimp only
  repeat' (first
    | with_reducible assumption
    | with_reducible apply noted_kept
    | with_reducible apply modCfg_kept
    | with_reducible apply snapRecord_kept
    | with_reducible apply passBoundary_kept
    | with_reducible apply modSnap_kept
    | (with_reducible refine Kept.choice (fun _ => ?_) (fun _ => ?_))
    | split)

theorem failLayer_kept {pq : List Instr} (s : State) (id : BitVec 6) (layer : Nat) (h : Kept pq s) : Kept pq (failLayer s id layer) := by
  unfold failLayer
  try dsimp only
  repeat' (first
    | with_reducible assumption
    | with_reducible apply noted_kept
    | with_reducible apply snapRecord_kept
    | with_reducible apply passBoundary_kept
    | with_reducible apply modSnap_kept
    | with_reducible apply dropFlying_kept
    | with_reducible apply tryCommit_kept
    | (with_reducible refine Kept.choice (fun _ => ?_) (fun _ => ?_))
    | split)

theorem writeTrailer_kept {pq : List Instr} (s : State) (id : BitVec 6) (record : List Byte) (h : Kept pq s) : Kept pq (writeTrailer s id record) := by
  unfold writeTrailer
  try dsimp only
  repeat' (first
    | with_reducible assumption
    | with_reducible apply modSnap_kept
    | with_reducible apply streamTrailer_kept
    | (with_reducible refine Kept.foldl (fun _ _ _ => ?_) ?_)
    | (with_reducible refine Kept.choice (fun _ => ?_) (fun _ => ?_))
    | split)

theorem judgeRestore_kept {pq : List Instr} (s : State) (id : BitVec 6) (record : List Byte) (h : Kept pq s) : Kept pq (judgeRestore s id record) := by
  unfold judgeRestore
  try dsimp only
  repeat' (first
    | with_reducible assumption
    | with_reducible apply modJob_kept
    | with_reducible apply noted_kept
    | with_reducible apply ends_kept
    | with_reducible apply pauseCores_kept
    | with_reducible apply modCfg_kept
    | with_reducible apply snapRecord_kept
    | (with_reducible refine Kept.choice (fun _ => ?_) (fun _ => ?_))
    | split)

theorem arriveStep_kept {pq : List Instr} (s : State) (c : CoreId) (record : List Byte) (h : Kept pq s) : Kept pq (arriveStep s c record) := by
  unfold arriveStep
  try dsimp only
  repeat' (first
    | with_reducible assumption
    | with_reducible apply modResil_kept
    | with_reducible apply modCfg_kept
    | with_reducible apply passBoundary_kept
    | with_reducible apply writeTrailer_kept
    | with_reducible apply judgeRestore_kept
    | (with_reducible refine Kept.choice (fun _ => ?_) (fun _ => ?_))
    | split)

theorem execStepend_kept {pq : List Instr} (c : CoreId) (w : BitVec 120) (ev : List EccEvent) (s : State) (h : Kept pq s) : NextKept pq (execStepend c w ev s) := by
  unfold execStepend
  try dsimp only
  repeat' (first
    | with_reducible assumption
    | with_reducible apply NextKept.next
    | with_reducible apply engineInstr_kept
    | with_reducible apply controlInstr_kept
    | with_reducible apply thenAdvance_kept
    | with_reducible apply arriveStep_kept
    | (with_reducible refine Kept.choice (fun _ => ?_) (fun _ => ?_))
    | (simp only [kept_update])
    | (with_reducible refine PhaseKept.finish (fun _ _ => ?_))
    | (with_reducible refine PhaseKept.act (fun _ _ => ?_))
    | with_reducible exact PhaseKept.access
    | with_reducible exact PhaseKept.hold
    | with_reducible exact PhaseKept.fault
    | (with_reducible refine PhaseKept.choice (fun _ => ?_) (fun _ => ?_))
    | intro _ _
    | (simp only [id_eq]))

theorem copyRanges_kept {pq : List Instr} : ∀ {l : List (Nat × Nat)} {a : Nat} {s : State}, Kept pq s →
    Kept pq (copyRanges s a l)
  | [], _, _, h => h
  | _ :: _, _, _, h => by
    rw [copyRanges]
    exact copyRanges_kept (memPaste_kept _ _ _ _ _ h)

theorem execSnapshotFreezeDone_kept {pq : List Instr} (job : BitVec 6) (s : State) (h : Kept pq s) : NextKept pq (execSnapshotFreezeDone job s) := by
  unfold execSnapshotFreezeDone
  try dsimp only
  repeat' (first
    | with_reducible assumption
    | with_reducible apply NextKept.next
    | with_reducible apply noted_kept
    | with_reducible apply modCfg_kept
    | with_reducible apply snapRecord_kept
    | with_reducible apply memPaste_kept
    | with_reducible apply releaseSteps_kept
    | with_reducible apply modSnap_kept
    | with_reducible apply streamData_kept
    | with_reducible apply failLayer_kept
    | with_reducible apply copyRanges_kept
    | (with_reducible refine Kept.foldl (fun _ _ _ => ?_) ?_)
    | (with_reducible refine Kept.choice (fun _ => ?_) (fun _ => ?_))
    | split)

theorem confirmLayer_kept {pq : List Instr} (s : State) (j : BitVec 6) (f : Snapshot) (layer : Nat) (trailer : Bool) (h : Kept pq s) : Kept pq (confirmLayer s j f layer trailer) := by
  unfold confirmLayer
  try dsimp only
  repeat' (first
    | with_reducible assumption
    | with_reducible apply snapRecord_kept
    | with_reducible apply modSnap_kept
    | with_reducible apply tryCommit_kept)

theorem execSnapLayerConfirm_kept {pq : List Instr} (job : BitVec 6) (layer : Fin 3) (trailer : Bool) (s : State) (h : Kept pq s) : NextKept pq (execSnapLayerConfirm job layer trailer s) := by
  unfold execSnapLayerConfirm
  try dsimp only
  repeat' (first
    | with_reducible assumption
    | with_reducible apply NextKept.next
    | with_reducible apply confirmLayer_kept
    | (with_reducible refine Kept.choice (fun _ => ?_) (fun _ => ?_))
    | split)

theorem execSnapLayerFail_kept {pq : List Instr} (job : BitVec 6) (layer : Fin 3) (s : State) (h : Kept pq s) : NextKept pq (execSnapLayerFail job layer s) := by
  unfold execSnapLayerFail
  try dsimp only
  repeat' (first
    | with_reducible assumption
    | with_reducible apply NextKept.next
    | with_reducible apply failLayer_kept
    | (with_reducible refine Kept.choice (fun _ => ?_) (fun _ => ?_))
    | split)

theorem execArchiveConfirmTimeout_kept {pq : List Instr} (job : BitVec 6) (s : State) (h : Kept pq s) : NextKept pq (execArchiveConfirmTimeout job s) := by
  unfold execArchiveConfirmTimeout
  try dsimp only
  repeat' (first
    | with_reducible assumption
    | with_reducible apply NextKept.next
    | with_reducible apply failLayer_kept
    | (with_reducible refine Kept.choice (fun _ => ?_) (fun _ => ?_))
    | split)

theorem execSnapCfgSet_kept {pq : List Instr} (mb : Fin 16) (s : State) (h : Kept pq s) : NextKept pq (execSnapCfgSet mb s) := by
  unfold execSnapCfgSet
  try dsimp only
  repeat' (first
    | with_reducible assumption
    | with_reducible apply noted_kept
    | with_reducible apply ends_kept
    | with_reducible apply commandOp_kept
    | with_reducible apply modResil_kept
    | intro _ _ _
    | split)

theorem execSnapCfgRead_kept {pq : List Instr} (mb : Fin 16) (s : State) (h : Kept pq s) : NextKept pq (execSnapCfgRead mb s) := by
  unfold execSnapCfgRead
  try dsimp only
  repeat' (first
    | with_reducible assumption
    | with_reducible apply ends_kept
    | with_reducible apply commandOp_kept
    | intro _ _ _
    | split)

theorem execSnapCfgCaps_kept {pq : List Instr} (mb : Fin 16) (s : State) (h : Kept pq s) : NextKept pq (execSnapCfgCaps mb s) := by
  unfold execSnapCfgCaps
  try dsimp only
  repeat' (first
    | with_reducible assumption
    | with_reducible apply noted_kept
    | with_reducible apply ends_kept
    | with_reducible apply commandOp_kept
    | with_reducible apply modResil_kept
    | intro _ _ _)

theorem execSnapNowTake_kept {pq : List Instr} (mb : Fin 16) (s : State) (h : Kept pq s) : NextKept pq (execSnapNowTake mb s) := by
  unfold execSnapNowTake
  try dsimp only
  repeat' (first
    | with_reducible assumption
    | with_reducible apply noted_kept
    | with_reducible apply ends_kept
    | with_reducible apply commandOp_kept
    | with_reducible apply modCfg_kept
    | intro _ _ _
    | split)

theorem execSnapNowArchiveConfirm_kept {pq : List Instr} (mb : Fin 16) (s : State) (h : Kept pq s) : NextKept pq (execSnapNowArchiveConfirm mb s) := by
  unfold execSnapNowArchiveConfirm
  try dsimp only
  repeat' (first
    | with_reducible assumption
    | with_reducible apply ends_kept
    | with_reducible apply commandOp_kept
    | with_reducible apply confirmLayer_kept
    | (with_reducible refine Kept.choice (fun _ => ?_) (fun _ => ?_))
    | intro _ _ _
    | split)

theorem execSnapNowAbandon_kept {pq : List Instr} (mb : Fin 16) (s : State) (h : Kept pq s) : NextKept pq (execSnapNowAbandon mb s) := by
  unfold execSnapNowAbandon
  try dsimp only
  repeat' (first
    | with_reducible assumption
    | with_reducible apply noted_kept
    | with_reducible apply ends_kept
    | with_reducible apply commandOp_kept
    | with_reducible apply releaseSteps_kept
    | with_reducible apply passBoundary_kept
    | with_reducible apply dropFlying_kept
    | (with_reducible refine Kept.choice (fun _ => ?_) (fun _ => ?_))
    | intro _ _ _
    | split)

theorem failRestore_kept {pq : List Instr} (s : State) (id : BitVec 6) (r : Restore) (st : BitVec 16) (h : Kept pq s) : Kept pq (failRestore s id r st) := by
  unfold failRestore
  try dsimp only
  repeat' (first
    | with_reducible assumption
    | with_reducible apply ends_kept
    | with_reducible apply modCfg_kept)

theorem pasteRanges_kept {pq : List Instr} {img : List (Nat × Byte)} : ∀ {l : List (Nat × Nat)} {off : Nat} {s : State},
    Kept pq s → Kept pq (pasteRanges s img off l)
  | [], _, _, h => h
  | _ :: _, _, _, h => by
    rw [pasteRanges]
    exact pasteRanges_kept (memPaste_kept _ _ _ _ _ h)

theorem applyRestore_kept {pq : List Instr} (s : State) (id : BitVec 6) (h : Kept pq s) : Kept pq (applyRestore s id) := by
  unfold applyRestore
  try dsimp only
  repeat' (first
    | with_reducible assumption
    | with_reducible apply modCore_kept
    | with_reducible apply startJob_kept
    | with_reducible apply modCfg_kept
    | with_reducible apply snapRecord_kept
    | with_reducible apply failRestore_kept
    | with_reducible apply pasteRanges_kept
    | (with_reducible refine Kept.foldl (fun _ _ _ => ?_) ?_)
    | (with_reducible refine Kept.choice (fun _ => ?_) (fun _ => ?_))
    | split)

theorem readPartner_kept {pq : List Instr} (s : State) (at_ n : Nat) (h : Kept pq s) : Kept pq (readPartner s at_ n) := by
  unfold readPartner
  try dsimp only
  repeat' (first
    | with_reducible assumption
    | with_reducible apply sendTracked_kept
    | split)

theorem execRestore_kept {pq : List Instr} (mb : Fin 16) (s : State) (h : Kept pq s) : NextKept pq (execRestore mb s) := by
  unfold execRestore
  try dsimp only
  repeat' (first
    | with_reducible assumption
    | with_reducible apply waits_kept
    | with_reducible apply command_kept
    | with_reducible apply modCfg_kept
    | with_reducible apply applyRestore_kept
    | with_reducible apply readPartner_kept
    | (with_reducible refine Kept.foldl (fun _ _ _ => ?_) ?_)
    | (with_reducible refine Kept.choice (fun _ => ?_) (fun _ => ?_))
    | intro _ _ _
    | split)

theorem execEytRresp_kept {pq : List Instr} (port : Fin 8) (p : Packet) (s : State) (h : Kept pq s) : NextKept pq (execEytRresp port p s) := by
  unfold execEytRresp
  try dsimp only
  repeat' (first
    | with_reducible assumption
    | with_reducible apply NextKept.next
    | with_reducible apply modSession_kept
    | with_reducible apply pump_kept
    | with_reducible apply dropPacket_kept
    | with_reducible apply modCfg_kept
    | with_reducible apply applyRestore_kept
    | (with_reducible refine Kept.choice (fun _ => ?_) (fun _ => ?_))
    | split)

theorem addSession_kept {pq : List Instr} (s : State) (x : Session) (h : Kept pq s) : Kept pq (addSession s x) := by
  unfold addSession
  try dsimp only
  repeat' (first
    | with_reducible assumption
    | with_reducible apply noted_kept
    | with_reducible apply modEyes_kept
    | with_reducible apply emit_kept)

theorem execPair_kept {pq : List Instr} (mb : Fin 16) (s : State) (h : Kept pq s) : NextKept pq (execPair mb s) := by
  unfold execPair
  try dsimp only
  repeat' (first
    | with_reducible assumption
    | with_reducible apply modFlash_kept
    | with_reducible apply waits_kept
    | with_reducible apply commandOp_kept
    | with_reducible apply addSession_kept
    | with_reducible rfl
    | intro _ _ _)

theorem execUnpair_kept {pq : List Instr} (mb : Fin 16) (s : State) (h : Kept pq s) : NextKept pq (execUnpair mb s) := by
  unfold execUnpair
  try dsimp only
  repeat' (first
    | with_reducible assumption
    | with_reducible apply noted_kept
    | with_reducible apply unpair_kept
    | with_reducible apply closeSession_kept
    | with_reducible apply endPairing_kept
    | with_reducible apply ends_kept
    | with_reducible apply commandOp_kept
    | intro _ _ _
    | split)

end Sys2Proof.Machine
end

