-- ==== Sys2Proof/Laws/KeptHost.lean ====
section
/-!
SUPPORT. What the operations of Machine/Host.lean keep: the queue and the invariant.
-/
set_option linter.unusedSimpArgs false
namespace Sys2Proof.Machine

theorem modPcie_kept {pq : List Instr} (s : State) (f : Pcie → Pcie) (h : Kept pq s) : Kept pq (modPcie s f) := by
  unfold modPcie
  try dsimp only
  repeat' (first
    | with_reducible assumption
    | (simp only [kept_update]))

theorem modFn_kept {pq : List Instr} (s : State) (fn : Fin 9) (f : PcieFn → PcieFn) (h : Kept pq s) : Kept pq (modFn s fn f) := by
  unfold modFn
  try dsimp only
  repeat' (first
    | with_reducible assumption
    | with_reducible apply modPcie_kept)

theorem denySlot_kept {pq : List Instr} (s : State) (h : Kept pq s) : Kept pq (denySlot s) := by
  unfold denySlot
  try dsimp only
  repeat' (first
    | with_reducible assumption
    | with_reducible apply modPcie_kept)

theorem hostMemWrite_kept {pq : List Instr} (s : State) (a : Nat) (d : List Byte) (h : Kept pq s) : Kept pq (hostMemWrite s a d) := by
  unfold hostMemWrite
  try dsimp only
  repeat' (first
    | with_reducible assumption
    | with_reducible apply queueMem_kept
    | with_reducible apply memPut_kept
    | (with_reducible refine Kept.choice (fun _ => ?_) (fun _ => ?_)))

theorem hostWriteSlot_kept {pq : List Instr} (fn : Fin 9) (s : State) (a : Nat) (d : List Byte) (h : Kept pq s) : Kept pq (hostWriteSlot fn s a d) := by
  unfold hostWriteSlot
  try dsimp only
  repeat' (first
    | with_reducible assumption
    | with_reducible apply modCarrel_kept
    | with_reducible apply countDenied_kept
    | with_reducible apply carrelPut_kept
    | with_reducible apply denySlot_kept
    | with_reducible apply hostMemWrite_kept
    | (with_reducible refine Kept.choice (fun _ => ?_) (fun _ => ?_))
    | split)

theorem execBar2Write_kept {pq : List Instr} (fn : Fin 9) (off : Nat) (bytes : List Byte) (s : State) (h : Kept pq s) : NextKept pq (execBar2Write fn off bytes s) := by
  unfold execBar2Write
  try dsimp only
  repeat' (first
    | with_reducible assumption
    | with_reducible apply NextKept.next
    | with_reducible apply hostWriteSlot_kept
    | (with_reducible refine Kept.foldl (fun _ _ _ => ?_) ?_)
    | (with_reducible refine Kept.choice (fun _ => ?_) (fun _ => ?_)))

theorem afterQueued_kept {pq : List Instr} (s : State) (slot : Nat) (h : Kept pq s) : Kept pq (afterQueued s slot) := by
  unfold afterQueued
  try dsimp only
  repeat' (first
    | with_reducible assumption
    | with_reducible apply memPut_kept
    | (with_reducible refine Kept.foldl (fun _ _ _ => ?_) ?_))

theorem hostReadSlot_kept {pq : List Instr} (ev : List EccEvent) (x : State × List Byte × Bool) (p : Nat × Nat)
    (h : Kept pq x.1) : Kept pq (hostReadSlot ev x p).1 := by
  unfold hostReadSlot
  split
  · exact eccRead_kept _ _ _ _ _ h
  · exact memMeets_kept _ _ _ _ h

theorem hostReadSlots_kept {pq : List Instr} {ev : List EccEvent} : ∀ {l : List (Nat × Nat)} {x : State × List Byte × Bool},
    Kept pq x.1 → Kept pq (l.foldl (hostReadSlot ev) x).1
  | [], _, h => h
  | d :: t, x, h => by
    rw [List.foldl_cons]
    exact hostReadSlots_kept (hostReadSlot_kept ev x d h)

theorem complete_kept {pq : List Instr} (s : State) (fn : Fin 9) (off : Nat) (l : List Byte) (ep : Bool) (h : Kept pq s) : Kept pq (complete s fn off l ep) := by
  unfold complete
  try dsimp only
  repeat' (first
    | with_reducible assumption
    | with_reducible apply modPcie_kept)

theorem execBar2Read_kept {pq : List Instr} (fn : Fin 9) (off len : Nat) (ev : List EccEvent) (s : State) (h : Kept pq s) : NextKept pq (execBar2Read fn off len ev s) := by
  unfold execBar2Read
  try dsimp only
  repeat' (first
    | with_reducible assumption
    | with_reducible apply NextKept.next
    | with_reducible apply complete_kept
    | (with_reducible refine Kept.choice (fun _ => ?_) (fun _ => ?_))
    | with_reducible apply hostReadSlots_kept)

theorem deliver_kept {pq : List Instr} (s : State) (fn : Fin 9) (h : Kept pq s) : Kept pq (deliver s fn) := by
  unfold deliver
  try dsimp only
  repeat' (first
    | with_reducible assumption
    | with_reducible apply raiseVec_kept
    | with_reducible apply modFn_kept
    | (with_reducible refine Kept.foldl (fun _ _ _ => ?_) ?_)
    | (with_reducible refine Kept.choice (fun _ => ?_) (fun _ => ?_)))

theorem bar0Byte_kept {pq : List Instr} (fn : Fin 9) (s : State) (off : Nat) (b : Byte) (h : Kept pq s) : Kept pq (bar0Byte fn s off b) := by
  unfold bar0Byte
  try dsimp only
  repeat' (first
    | with_reducible assumption
    | with_reducible apply modMb_kept
    | with_reducible apply modFn_kept
    | (with_reducible refine Kept.choice (fun _ => ?_) (fun _ => ?_))
    | split)

theorem execBar0Write_kept {pq : List Instr} (fn : Fin 9) (off : Nat) (bytes : List Byte) (s : State) (h : Kept pq s) : NextKept pq (execBar0Write fn off bytes s) := by
  unfold execBar0Write
  try dsimp only
  repeat' (first
    | with_reducible assumption
    | with_reducible apply NextKept.next
    | with_reducible apply deliver_kept
    | with_reducible apply bar0Byte_kept
    | (with_reducible refine Kept.foldl (fun _ _ _ => ?_) ?_)
    | (with_reducible refine Kept.choice (fun _ => ?_) (fun _ => ?_)))

theorem flr_kept {pq : List Instr} (s : State) (fn : Fin 9) (h : Kept pq s) : Kept pq (flr s fn) := by
  unfold flr
  try dsimp only
  repeat' (first
    | with_reducible assumption
    | with_reducible apply modReg_kept
    | with_reducible apply noted_kept
    | with_reducible apply killJob_kept
    | with_reducible apply modFn_kept
    | with_reducible rfl
    | with_reducible exact Nat.le_refl _
    | (with_reducible refine Kept.foldl (fun _ _ _ => ?_) ?_))

theorem execFlrVf_kept {pq : List Instr} (v : Fin 8) (s : State) (h : Kept pq s) : NextKept pq (execFlrVf v s) := by
  unfold execFlrVf
  try dsimp only
  repeat' (first
    | with_reducible assumption
    | with_reducible apply NextKept.next
    | with_reducible apply flr_kept
    | (with_reducible refine Kept.choice (fun _ => ?_) (fun _ => ?_)))

theorem execFlrPf_kept {pq : List Instr} (s : State) (h : Kept pq s) : NextKept pq (execFlrPf s) := by
  unfold execFlrPf
  try dsimp only
  repeat' (first
    | with_reducible assumption
    | with_reducible apply NextKept.next
    | with_reducible apply modReg_kept
    | with_reducible apply noted_kept
    | with_reducible apply modPcie_kept
    | with_reducible rfl
    | with_reducible exact Nat.le_refl _
    | (with_reducible refine Kept.choice (fun _ => ?_) (fun _ => ?_)))

theorem execVfEnableClear_kept {pq : List Instr} (s : State) (h : Kept pq s) : NextKept pq (execVfEnableClear s) := by
  unfold execVfEnableClear
  try dsimp only
  repeat' (first
    | with_reducible assumption
    | with_reducible apply NextKept.next
    | with_reducible apply modFn_kept
    | with_reducible apply flr_kept
    | (with_reducible refine Kept.foldl (fun _ _ _ => ?_) ?_)
    | (with_reducible refine Kept.choice (fun _ => ?_) (fun _ => ?_)))

theorem execPcieLinkDown_kept {pq : List Instr} (s : State) (h : Kept pq s) : NextKept pq (execPcieLinkDown s) := by
  unfold execPcieLinkDown
  try dsimp only
  repeat' (first
    | with_reducible assumption
    | with_reducible apply NextKept.next
    | with_reducible apply noted_kept
    | with_reducible apply modPcie_kept
    | (with_reducible refine Kept.choice (fun _ => ?_) (fun _ => ?_)))

theorem execPcieLinkUp_kept {pq : List Instr} (speed : Fin 7) (width : Fin 17) (s : State) (h : Kept pq s) : NextKept pq (execPcieLinkUp speed width s) := by
  unfold execPcieLinkUp
  try dsimp only
  repeat' (first
    | with_reducible assumption
    | with_reducible apply NextKept.next
    | with_reducible apply raiseVec_kept
    | with_reducible apply noted_kept
    | with_reducible apply modPcie_kept
    | (with_reducible refine Kept.foldl (fun _ _ _ => ?_) ?_)
    | (with_reducible refine Kept.choice (fun _ => ?_) (fun _ => ?_)))

theorem execPowerstateD3hot_kept {pq : List Instr} (fn : Fin 9) (s : State) (h : Kept pq s) : NextKept pq (execPowerstateD3hot fn s) := by
  unfold execPowerstateD3hot
  try dsimp only
  repeat' (first
    | with_reducible assumption
    | with_reducible apply NextKept.next
    | with_reducible apply modFn_kept
    | (with_reducible refine Kept.choice (fun _ => ?_) (fun _ => ?_)))

theorem execPcieConfigWrite_kept {pq : List Instr} (fn : Fin 9) (op : ConfigWrite) (s : State) (h : Kept pq s) : NextKept pq (execPcieConfigWrite fn op s) := by
  unfold execPcieConfigWrite
  try dsimp only
  repeat' (first
    | with_reducible assumption
    | with_reducible apply NextKept.next
    | with_reducible apply noted_kept
    | with_reducible apply modPcie_kept
    | with_reducible apply modFn_kept
    | with_reducible apply deliver_kept
    | (with_reducible refine Kept.choice (fun _ => ?_) (fun _ => ?_))
    | split)

theorem execSpdmDoeRequest_kept {pq : List Instr} (req : List Byte) (s : State) (h : Kept pq s) : NextKept pq (execSpdmDoeRequest req s) := by
  unfold execSpdmDoeRequest
  try dsimp only
  repeat' (first
    | with_reducible assumption
    | with_reducible apply NextKept.next
    | with_reducible apply modPcie_kept
    | (with_reducible refine Kept.choice (fun _ => ?_) (fun _ => ?_)))

theorem execHostLaneFault_kept {pq : List Instr} (width : Fin 17) (s : State) (h : Kept pq s) : NextKept pq (execHostLaneFault width s) := by
  unfold execHostLaneFault
  try dsimp only
  repeat' (first
    | with_reducible assumption
    | with_reducible apply NextKept.next
    | with_reducible apply portRecord_kept
    | with_reducible apply modPcie_kept
    | (with_reducible refine Kept.choice (fun _ => ?_) (fun _ => ?_)))

theorem execAperture_kept {pq : List Instr} (mb : Fin 16) (s : State) (h : Kept pq s) : NextKept pq (execAperture mb s) := by
  unfold execAperture
  try dsimp only
  repeat' (first
    | with_reducible assumption
    | with_reducible apply ends_kept
    | with_reducible apply command_kept
    | with_reducible apply modFn_kept
    | intro _ _ _)

theorem execMemStatus_kept {pq : List Instr} (mb : Fin 16) (s : State) (h : Kept pq s) : NextKept pq (execMemStatus mb s) := by
  unfold execMemStatus
  try dsimp only
  repeat' (first
    | with_reducible assumption
    | with_reducible apply clearInvalid_kept
    | with_reducible apply ends_kept
    | with_reducible apply command_kept
    | intro _ _ _)

theorem modVault_kept {pq : List Instr} (s : State) (f : Vault → Vault) (h : Kept pq s) : Kept pq (modVault s f) := by
  unfold modVault
  try dsimp only
  repeat' (first
    | with_reducible assumption
    | (simp only [kept_update]))

theorem nvmeDone_kept {pq : List Instr} (s : State) (x : Nvme) (h : Kept pq s) : Kept pq (nvmeDone s x) := by
  unfold nvmeDone
  try dsimp only
  repeat' (first
    | with_reducible assumption
    | with_reducible apply modVault_kept)

theorem retireVault_kept {pq : List Instr} (s : State) (h : Kept pq s) : Kept pq (retireVault s) := by
  unfold retireVault
  try dsimp only
  repeat' (first
    | with_reducible assumption
    | with_reducible apply condAppend_kept
    | with_reducible apply portRecord_kept
    | with_reducible apply modVault_kept)

theorem resetDrive_kept {pq : List Instr} (s : State) (h : Kept pq s) : Kept pq (resetDrive s) := by
  unfold resetDrive
  try dsimp only
  repeat' (first
    | with_reducible assumption
    | with_reducible apply noted_kept
    | with_reducible apply modVault_kept
    | with_reducible apply retireVault_kept
    | (with_reducible refine Kept.choice (fun _ => ?_) (fun _ => ?_)))

theorem nvmeRetry_kept {pq : List Instr} (s : State) (x : Nvme) (h : Kept pq s) : Kept pq (nvmeRetry s x) := by
  unfold nvmeRetry
  try dsimp only
  repeat' (first
    | with_reducible assumption
    | with_reducible apply modVault_kept
    | with_reducible apply resetDrive_kept
    | (with_reducible refine Kept.choice (fun _ => ?_) (fun _ => ?_)))

theorem execNvmeCmdComplete_kept {pq : List Instr} (id : Nat) (ok : Bool) (s : State) (h : Kept pq s) : NextKept pq (execNvmeCmdComplete id ok s) := by
  unfold execNvmeCmdComplete
  try dsimp only
  repeat' (first
    | with_reducible assumption
    | with_reducible apply NextKept.next
    | with_reducible apply nvmeDone_kept
    | with_reducible apply nvmeRetry_kept
    | (with_reducible refine Kept.choice (fun _ => ?_) (fun _ => ?_))
    | split)

theorem execNvmeCmdTimeout_kept {pq : List Instr} (id : Nat) (s : State) (h : Kept pq s) : NextKept pq (execNvmeCmdTimeout id s) := by
  unfold execNvmeCmdTimeout
  try dsimp only
  repeat' (first
    | with_reducible assumption
    | with_reducible apply NextKept.next
    | with_reducible apply bumpGen_kept
    | with_reducible apply modVault_kept
    | with_reducible apply nvmeRetry_kept
    | split)

theorem execVaultSurpriseRemoval_kept {pq : List Instr} (s : State) (h : Kept pq s) : NextKept pq (execVaultSurpriseRemoval s) := by
  unfold execVaultSurpriseRemoval
  try dsimp only
  repeat' (first
    | with_reducible assumption
    | with_reducible apply NextKept.next
    | with_reducible apply portRecord_kept
    | with_reducible apply modVault_kept
    | (with_reducible refine Kept.choice (fun _ => ?_) (fun _ => ?_)))

theorem execPortCfg_kept {pq : List Instr} (mb : Fin 16) (s : State) (h : Kept pq s) : NextKept pq (execPortCfg mb s) := by
  unfold execPortCfg
  try dsimp only
  repeat' (first
    | with_reducible assumption
    | with_reducible apply noted_kept
    | with_reducible apply modEye_kept
    | with_reducible apply leavePort_kept
    | with_reducible apply ends_kept
    | with_reducible apply command_kept
    | (with_reducible refine Kept.choice (fun _ => ?_) (fun _ => ?_))
    | intro _ _ _)

theorem execSessOpen_kept {pq : List Instr} (mb : Fin 16) (s : State) (h : Kept pq s) : NextKept pq (execSessOpen mb s) := by
  unfold execSessOpen
  try dsimp only
  repeat' (first
    | with_reducible assumption
    | with_reducible apply ends_kept
    | with_reducible apply command_kept
    | with_reducible apply addSession_kept
    | intro _ _ _)

theorem execSessClose_kept {pq : List Instr} (mb : Fin 16) (s : State) (h : Kept pq s) : NextKept pq (execSessClose mb s) := by
  unfold execSessClose
  try dsimp only
  repeat' (first
    | with_reducible assumption
    | with_reducible apply faultEsends_kept
    | with_reducible apply closeSession_kept
    | with_reducible apply ends_kept
    | with_reducible apply command_kept
    | intro _ _ _)

end Sys2Proof.Machine
end

