-- ==== Sys2Proof/Laws/KeptStartup.lean ====
section
/-!
SUPPORT. What the operations of Machine/Startup.lean keep: the queue and the invariant.
-/
set_option linter.unusedSimpArgs false
namespace Sys2Proof.Machine

theorem coldState_kept {pq : List Instr} (s : State) (host : Bool) (h : Kept pq s) : Kept pq (coldState s host) := by
  refine ⟨h.1, ⟨rfl, rfl, rfl⟩, ⟨Nat.zero_le _, h.2.2.1.2.1, Nat.zero_le _, h.2.2.1.2.2.2⟩, Nat.zero_le _, ?_⟩
  unfold coldState
  dsimp only
  split <;> exact of_decide_eq_true rfl

theorem firmwareRecord_kept {pq : List Instr} (s : State) (kind core index : Nat) (sev : BitVec 8) (x : FwSlot) (part : Nat) (slot : Bool) (h : Kept pq s) : Kept pq (firmwareRecord s kind core index sev x part slot) := by
  unfold firmwareRecord
  try dsimp only
  repeat' (first
    | with_reducible assumption
    | with_reducible apply writeRecord_kept)

theorem powerOn_kept {pq : List Instr} (s : State) (d : Fin 30) (h : Kept pq s) : Kept pq (powerOn s d) := by
  unfold powerOn
  try dsimp only
  repeat' (first
    | with_reducible assumption
    | with_reducible apply takeFree_kept
    | with_reducible apply modDom_kept
    | (with_reducible refine Kept.choice (fun _ => ?_) (fun _ => ?_))
    | split)

theorem reportLace_kept {pq : List Instr} (s : State) (idx : Nat) (h : Kept pq s) : Kept pq (reportLace s idx) := by
  unfold reportLace
  try dsimp only
  repeat' (first
    | with_reducible assumption
    | with_reducible apply modLink_kept
    | with_reducible apply modDir_kept
    | (with_reducible refine Kept.choice (fun _ => ?_) (fun _ => ?_)))

theorem reportMem_kept {pq : List Instr} (s : State) (kind idx : Nat) (h : Kept pq s) : Kept pq (reportMem s kind idx) := by
  unfold reportMem
  try dsimp only
  repeat' (first
    | with_reducible assumption
    | with_reducible apply modTiers_kept
    | with_reducible apply modChan_kept
    | (with_reducible refine Kept.choice (fun _ => ?_) (fun _ => ?_)))

theorem reportPort_kept {pq : List Instr} (s : State) (idx : Nat) (h : Kept pq s) : Kept pq (reportPort s idx) := by
  unfold reportPort
  try dsimp only
  repeat' (first
    | with_reducible assumption
    | with_reducible apply modSite_kept
    | with_reducible apply modEye_kept
    | with_reducible apply modVault_kept
    | (with_reducible refine Kept.choice (fun _ => ?_) (fun _ => ?_)))

theorem reportCore_kept {pq : List Instr} (s : State) (c : CoreId) (e : CondEntry) (h : Kept pq s) : Kept pq (reportCore s c e) := by
  unfold reportCore
  try dsimp only
  repeat' (first
    | with_reducible assumption
    | with_reducible apply modStk_kept
    | with_reducible apply modWelt_kept
    | with_reducible apply modRegion_kept
    | with_reducible apply modCorePower_kept
    | (with_reducible refine Kept.choice (fun _ => ?_) (fun _ => ?_)))

theorem modAgent_kept {pq : List Instr} (s : State) (i : Fin 440) (f : Agent → Agent) (h : Kept pq s) : Kept pq (modAgent s i f) := by
  unfold modAgent
  try dsimp only
  repeat' (first
    | with_reducible assumption
    | (simp only [kept_update]))

theorem applyEntry_kept {pq : List Instr} (s : State) (e : CondEntry) (h : Kept pq s) : Kept pq (applyEntry s e) := by
  unfold applyEntry
  try dsimp only
  repeat' (first
    | with_reducible assumption
    | with_reducible apply modTherm_kept
    | with_reducible apply reportLace_kept
    | with_reducible apply reportMem_kept
    | with_reducible apply reportPort_kept
    | with_reducible apply reportCore_kept
    | with_reducible apply modAgent_kept
    | (with_reducible refine Kept.choice (fun _ => ?_) (fun _ => ?_))
    | split)

theorem applyReport_kept {pq : List Instr} (s : State) (h : Kept pq s) : Kept pq (applyReport s) := by
  unfold applyReport
  try dsimp only
  repeat' (first
    | with_reducible assumption
    | with_reducible apply modReg_kept
    | with_reducible apply writeRecord_kept
    | with_reducible apply condAppend_kept
    | with_reducible apply loseCore_kept
    | with_reducible apply reportMem_kept
    | with_reducible apply applyEntry_kept
    | with_reducible rfl
    | with_reducible exact Nat.le_refl _
    | (with_reducible refine Kept.foldl (fun _ _ _ => ?_) ?_)
    | (with_reducible refine Kept.choice (fun _ => ?_) (fun _ => ?_))
    | split)

theorem applyLicence_kept {pq : List Instr} (s : State) (h : Kept pq s) : Kept pq (applyLicence s) := by
  unfold applyLicence
  try dsimp only
  repeat' (first
    | with_reducible assumption
    | with_reducible apply modFlash_kept
    | with_reducible apply condAppend_kept
    | with_reducible apply firmwareRecord_kept
    | with_reducible rfl
    | (with_reducible refine Kept.choice (fun _ => ?_) (fun _ => ?_))
    | split)

theorem powerCore_kept {pq : List Instr} (s : State) (c : CoreId) (h : Kept pq s) : Kept pq (powerCore s c) := by
  unfold powerCore
  try dsimp only
  repeat' (first
    | with_reducible assumption
    | with_reducible apply modCore_kept
    | with_reducible apply fenceCore_kept
    | with_reducible apply powerOn_kept
    | (with_reducible refine Kept.choice (fun _ => ?_) (fun _ => ?_)))

theorem loadAgents_kept {pq : List Instr} (s : State) (h : Kept pq s) : Kept pq (loadAgents s) := by
  unfold loadAgents
  try dsimp only
  repeat' (first
    | with_reducible assumption
    | (simp only [kept_update]))

theorem powerTiers_kept {pq : List Instr} (s : State) (h : Kept pq s) : Kept pq (powerTiers s) := by
  unfold powerTiers
  try dsimp only
  repeat' (first
    | with_reducible assumption
    | with_reducible apply powerOn_kept
    | with_reducible apply powerCore_kept
    | with_reducible apply loadAgents_kept
    | (with_reducible refine Kept.foldl (fun _ _ _ => ?_) ?_)
    | (with_reducible refine Kept.choice (fun _ => ?_) (fun _ => ?_)))

theorem applyBoard_kept {pq : List Instr} (s : State) (h : Kept pq s) : Kept pq (applyBoard s) := by
  unfold applyBoard
  try dsimp only
  repeat' (first
    | with_reducible assumption
    | with_reducible apply writeRecord_kept
    | with_reducible apply modTiers_kept
    | with_reducible apply modPower_kept
    | with_reducible apply powerRecord_kept
    | (with_reducible refine Kept.choice (fun _ => ?_) (fun _ => ?_)))

theorem sampleOwnclr_kept {pq : List Instr} (s : State) (h : Kept pq s) : Kept pq (sampleOwnclr s) :=
  Kept.choice (fun _ => modReg_kept h rfl rfl (Nat.le_refl _) rfl rfl) (fun _ => Kept.choice
    (fun _ => modReg_kept_of h h.2.2.1.1 h.2.2.1.2.1 h.2.2.1.2.2.1 h.2.2.2.1 (Nat.zero_le _))
    (fun _ => modReg_kept h rfl rfl (Nat.le_refl _) rfl rfl))

/-- A state that may be missing. -/
def OptKept (pq : List Instr) : Option State → Prop
  | some t => Kept pq t
  | none => True

theorem OptKept.choice {pq : List Instr} {c : Prop} [Decidable c] {a b : Option State} (ha : OptKept pq a) (hb : OptKept pq b) :
    OptKept pq (if c then a else b) := by
  split
  · exact ha
  · exact hb

theorem bootSlot_kept {pq : List Instr} {s t : State} {other : Bool} (h : Kept pq s) (e : bootSlot s other = some t) :
    Kept pq t := by
  have k : OptKept pq (bootSlot s other) := by
    unfold bootSlot
    have u : OptKept pq none := trivial
    have v : ∀ f : Flash → Flash, (f s.flash).field = s.flash.field → OptKept pq (some (modFlash s f)) :=
      fun f g => modFlash_kept h g
    dsimp only
    split
    · exact OptKept.choice (v _ rfl) (OptKept.choice (modFlash_kept (modFlash_kept h rfl) rfl) u)
    · exact OptKept.choice (v _ rfl) (OptKept.choice (firmwareRecord_kept _ _ _ _ _ _ _ _ (modFlash_kept h rfl))
        (OptKept.choice (v _ rfl) u))
  rw [e] at k
  exact k

theorem startUp_kept {pq : List Instr} (s : State) (other : Bool) (h : Kept pq s) : Kept pq (startUp s other) := by
  unfold startUp
  split
  · exact failDevice_kept _ (firmwareRecord_kept _ _ _ _ _ _ _ _ h)
  · have k := powerOn_kept _ 29 (powerOn_kept _ 24 (bootSlot_kept h ‹_›))
    exact Kept.choice (fun _ => failDevice_kept _ (powerRecord_kept _ _ _ _ _ _ k))
      (fun _ => powerTiers_kept _ (applyLicence_kept _ (applyReport_kept _ (applyBoard_kept _ k))))

theorem lockClock_kept {pq : List Instr} (s : State) (h : Kept pq s) : Kept pq (lockClock s) := by
  unfold lockClock
  try dsimp only
  repeat' (first
    | with_reducible assumption
    | (simp only [kept_update]))

theorem endpointReady_kept {pq : List Instr} (s : State) (h : Kept pq s) : Kept pq (endpointReady s) := by
  unfold endpointReady
  try dsimp only
  repeat' (first
    | with_reducible assumption
    | with_reducible apply modPcie_kept)

theorem execPerstAssert_kept {pq : List Instr} (s : State) (h : Kept pq s) : NextKept pq (execPerstAssert s) := by
  unfold execPerstAssert
  try dsimp only
  repeat' (first
    | with_reducible assumption
    | with_reducible apply NextKept.next
    | with_reducible apply killAll_kept
    | with_reducible apply powerDown_kept
    | with_reducible apply coldState_kept
    | (with_reducible refine Kept.choice (fun _ => ?_) (fun _ => ?_))
    | (simp only [kept_update]))

theorem execPerstDeassert_kept {pq : List Instr} (s : State) (h : Kept pq s) : NextKept pq (execPerstDeassert s) := by
  unfold execPerstDeassert
  try dsimp only
  repeat' (first
    | with_reducible assumption
    | with_reducible apply NextKept.next
    | with_reducible apply coldState_kept
    | with_reducible apply powerOn_kept
    | with_reducible apply sampleOwnclr_kept
    | with_reducible apply startUp_kept
    | with_reducible apply lockClock_kept
    | with_reducible apply endpointReady_kept
    | (with_reducible refine Kept.choice (fun _ => ?_) (fun _ => ?_))
    | (simp only [kept_update]))

theorem execHbmPgAssert_kept {pq : List Instr} (side : Fin 2) (s : State) (h : Kept pq s) : NextKept pq (execHbmPgAssert side s) := by
  unfold execHbmPgAssert
  try dsimp only
  repeat' (first
    | with_reducible assumption
    | with_reducible apply NextKept.next
    | with_reducible apply noted_kept
    | with_reducible apply setHbmPg_kept
    | with_reducible apply powerTiers_kept
    | (with_reducible refine Kept.choice (fun _ => ?_) (fun _ => ?_)))

theorem execPowerRemoval_kept {pq : List Instr} (s : State) (h : Kept pq s) : NextKept pq (execPowerRemoval s) := by
  unfold execPowerRemoval
  try dsimp only
  repeat' (first
    | with_reducible assumption
    | with_reducible apply NextKept.next
    | with_reducible apply coldState_kept
    | (with_reducible refine Kept.choice (fun _ => ?_) (fun _ => ?_))
    | (simp only [kept_update]))

theorem siteFails_kept {pq : List Instr} (s : State) (u : Fin 16) (h : Kept pq s) : Kept pq (siteFails s u) := by
  unfold siteFails
  try dsimp only
  repeat' (first
    | with_reducible assumption
    | with_reducible apply noted_kept
    | with_reducible apply modSite_kept
    | with_reducible apply failDevice_kept
    | (with_reducible refine Kept.choice (fun _ => ?_) (fun _ => ?_)))

theorem execDiscRsp_kept {pq : List Instr} (site : Fin 16) (payload : BitVec 64) (s : State) (h : Kept pq s) : NextKept pq (execDiscRsp site payload s) := by
  unfold execDiscRsp
  try dsimp only
  repeat' (first
    | with_reducible assumption
    | with_reducible apply NextKept.next
    | with_reducible apply noted_kept
    | with_reducible apply modSite_kept
    | with_reducible apply siteFails_kept
    | (with_reducible refine Kept.choice (fun _ => ?_) (fun _ => ?_)))

theorem execDiscProv_kept {pq : List Instr} (site : Fin 16) (index : Fin 8) (data : BitVec 64) (rate : Fin 6) (x32 : Bool) (s : State) (h : Kept pq s) : NextKept pq (execDiscProv site index data rate x32 s) := by
  unfold execDiscProv
  try dsimp only
  repeat' (first
    | with_reducible assumption
    | with_reducible apply NextKept.next
    | with_reducible apply noted_kept
    | with_reducible apply modSite_kept
    | with_reducible apply siteFails_kept
    | (with_reducible refine Kept.choice (fun _ => ?_) (fun _ => ?_)))

theorem execDiscTimeout_kept {pq : List Instr} (site : Fin 16) (s : State) (h : Kept pq s) : NextKept pq (execDiscTimeout site s) := by
  unfold execDiscTimeout
  try dsimp only
  repeat' (first
    | with_reducible assumption
    | with_reducible apply NextKept.next
    | with_reducible apply modSite_kept
    | with_reducible apply siteFails_kept
    | (with_reducible refine Kept.choice (fun _ => ?_) (fun _ => ?_)))

theorem execMcd_kept {pq : List Instr} (agent : Fin 440) (f : Flit) (ok : Bool) (s : State) (h : Kept pq s) : NextKept pq (execMcd agent f ok s) := by
  unfold execMcd
  try dsimp only
  repeat' (first
    | with_reducible assumption
    | with_reducible apply NextKept.next
    | with_reducible apply modAgent_kept
    | (with_reducible refine Kept.choice (fun _ => ?_) (fun _ => ?_)))

theorem agentDone_kept {pq : List Instr} (s : State) (i : Fin 440) (h : Kept pq s) : Kept pq (agentDone s i) := by
  unfold agentDone
  try dsimp only
  repeat' (first
    | with_reducible assumption
    | with_reducible apply modAgent_kept)

theorem execUcodeAck_kept {pq : List Instr} (f : Flit) (s : State) (h : Kept pq s) : NextKept pq (execUcodeAck f s) := by
  unfold execUcodeAck
  try dsimp only
  repeat' (first
    | with_reducible assumption
    | with_reducible apply NextKept.next
    | with_reducible apply modAgent_kept
    | with_reducible apply agentDone_kept
    | (with_reducible refine Kept.choice (fun _ => ?_) (fun _ => ?_))
    | split)

theorem retireAgent_kept {pq : List Instr} (s : State) (i : Fin 440) (h : Kept pq s) : Kept pq (retireAgent s i) := by
  unfold retireAgent
  try dsimp only
  repeat' (first
    | with_reducible assumption
    | with_reducible apply modStk_kept
    | with_reducible apply noted_kept
    | with_reducible apply loseBytes_kept
    | with_reducible apply condAppend_kept
    | with_reducible apply failDevice_kept
    | with_reducible apply markLost_kept
    | with_reducible apply firmwareRecord_kept
    | with_reducible apply modAgent_kept
    | (with_reducible refine Kept.choice (fun _ => ?_) (fun _ => ?_)))

theorem execUcodeRepairRound_kept {pq : List Instr} (s : State) (h : Kept pq s) : NextKept pq (execUcodeRepairRound s) := by
  unfold execUcodeRepairRound
  try dsimp only
  repeat' (first
    | with_reducible assumption
    | with_reducible apply NextKept.next
    | with_reducible apply modAgent_kept
    | with_reducible apply retireAgent_kept
    | (with_reducible refine Kept.foldl (fun _ _ _ => ?_) ?_)
    | (with_reducible refine Kept.choice (fun _ => ?_) (fun _ => ?_)))

theorem execRegionActivate_kept {pq : List Instr} (r : Fin 15) (s : State) (h : Kept pq s) : NextKept pq (execRegionActivate r s) := by
  unfold execRegionActivate
  try dsimp only
  repeat' (first
    | with_reducible assumption
    | with_reducible apply NextKept.next
    | with_reducible apply modAgent_kept
    | (with_reducible refine Kept.foldl (fun _ _ _ => ?_) ?_)
    | (with_reducible refine Kept.choice (fun _ => ?_) (fun _ => ?_)))

theorem trainChannels_kept {pq : List Instr} (s : State) (failed : BitVec 16) (h : Kept pq s) : Kept pq (trainChannels s failed) := by
  unfold trainChannels
  try dsimp only
  repeat' (first
    | with_reducible assumption
    | with_reducible apply condAppend_kept
    | with_reducible apply modTiers_kept
    | with_reducible apply modChan_kept
    | with_reducible apply memRecord_kept
    | (with_reducible refine Kept.foldl (fun _ _ _ => ?_) ?_)
    | (with_reducible refine Kept.choice (fun _ => ?_) (fun _ => ?_)))

theorem trainHbm_kept {pq : List Instr} (s : State) (l : List (Fin 16 × Fin 32)) (h : Kept pq s) : Kept pq (trainHbm s l) := by
  unfold trainHbm
  try dsimp only
  repeat' (first
    | with_reducible assumption
    | with_reducible apply condAppend_kept
    | with_reducible apply memRecord_kept
    | with_reducible apply reportMem_kept
    | (with_reducible refine Kept.foldl (fun _ _ _ => ?_) ?_)
    | (with_reducible refine Kept.choice (fun _ => ?_) (fun _ => ?_)))

theorem settleRegions_kept {pq : List Instr} (s : State) (h : Kept pq s) : Kept pq (settleRegions s) := by
  unfold settleRegions
  try dsimp only
  repeat' (first
    | with_reducible assumption
    | with_reducible apply modTiers_kept)

theorem settleSites_kept {pq : List Instr} (s : State) (h : Kept pq s) : Kept pq (settleSites s) := by
  unfold settleSites
  try dsimp only
  repeat' (first
    | with_reducible assumption
    | with_reducible apply condAppend_kept
    | with_reducible apply modLink_kept
    | with_reducible apply portRecord_kept
    | with_reducible apply modSite_kept
    | (with_reducible refine Kept.foldl (fun _ _ _ => ?_) ?_)
    | (with_reducible refine Kept.choice (fun _ => ?_) (fun _ => ?_)))

theorem releaseCore_kept {pq : List Instr} (s : State) (c : CoreId) (h : Kept pq s) : Kept pq (releaseCore s c) := by
  unfold releaseCore
  try dsimp only
  repeat' (first
    | with_reducible assumption
    | with_reducible apply modCore_kept
    | with_reducible apply modRegion_kept
    | with_reducible apply liftFence_kept
    | (with_reducible refine Kept.choice (fun _ => ?_) (fun _ => ?_)))

theorem cancelPosted_kept {pq : List Instr} (s : State) (h : Kept pq s) : Kept pq (cancelPosted s) := by
  unfold cancelPosted
  try dsimp only
  repeat' (first
    | with_reducible assumption
    | with_reducible apply modReg_kept
    | with_reducible apply noted_kept
    | with_reducible rfl
    | with_reducible exact Nat.le_refl _)

theorem settleFirmware_kept {pq : List Instr} (s : State) (h : Kept pq s) : Kept pq (settleFirmware s) := by
  unfold settleFirmware
  try dsimp only
  repeat' (first
    | with_reducible assumption
    | with_reducible apply modFlash_kept
    | with_reducible rfl
    | (with_reducible refine Kept.choice (fun _ => ?_) (fun _ => ?_)))

theorem reopenPairing_kept {pq : List Instr} (s : State) (h : Kept pq s) : Kept pq (reopenPairing s) := by
  unfold reopenPairing
  try dsimp only
  repeat' (first
    | with_reducible assumption
    | with_reducible apply modResil_kept
    | with_reducible apply addSession_kept
    | (with_reducible refine Kept.choice (fun _ => ?_) (fun _ => ?_))
    | split)

theorem bootDone_kept {pq : List Instr} {s : State} (h : Kept pq s) :
    Kept pq (modReg s fun r => { r with bootCount := r.bootCount + 1, devState := 1 }) :=
  modReg_kept_of h h.2.2.1.1 h.2.2.1.2.1 h.2.2.1.2.2.1 (of_decide_eq_true rfl) h.2.2.2.2

theorem execStartUpReady_kept {pq : List Instr} (t : Training) (s : State) (h : Kept pq s) : NextKept pq (execStartUpReady t s) := by
  unfold execStartUpReady
  try dsimp only
  repeat' (first
    | with_reducible apply bootDone_kept
    | with_reducible assumption
    | with_reducible apply NextKept.next
    | with_reducible apply writeRecord_kept
    | with_reducible apply rewriteDist_kept
    | with_reducible apply modTiers_kept
    | with_reducible apply modLacing_kept
    | with_reducible apply failDevice_kept
    | with_reducible apply modVault_kept
    | with_reducible apply trainChannels_kept
    | with_reducible apply trainHbm_kept
    | with_reducible apply settleRegions_kept
    | with_reducible apply settleSites_kept
    | with_reducible apply releaseCore_kept
    | with_reducible apply cancelPosted_kept
    | with_reducible apply settleFirmware_kept
    | with_reducible apply reopenPairing_kept
    | (with_reducible refine Kept.foldl (fun _ _ _ => ?_) ?_)
    | (with_reducible refine Kept.choice (fun _ => ?_) (fun _ => ?_)))

theorem execStartUpWatchdog_kept {pq : List Instr} (s : State) (h : Kept pq s) : NextKept pq (execStartUpWatchdog s) := by
  unfold execStartUpWatchdog
  have k : Kept pq { coldState s true with pcie := s.pcie } := kept_update.mpr (coldState_kept s true h)
  exact NextKept.next (Kept.choice (fun _ => h) (fun _ => startUp_kept _ _ (sampleOwnclr_kept _ (lockClock_kept _
    (powerOn_kept _ _ k)))))

theorem execDeviceResetStart_kept {pq : List Instr} (s : State) (h : Kept pq s) : NextKept pq (execDeviceResetStart s) := by
  unfold execDeviceResetStart
  try dsimp only
  repeat' (first
    | with_reducible assumption
    | with_reducible apply NextKept.next
    | with_reducible apply noted_kept
    | with_reducible apply killAll_kept
    | with_reducible apply powerDown_kept
    | with_reducible apply coldState_kept
    | with_reducible apply startUp_kept
    | with_reducible apply lockClock_kept
    | (with_reducible refine Kept.choice (fun _ => ?_) (fun _ => ?_)))

theorem execResetRelease_kept {pq : List Instr} (c : CoreId) (s : State) (h : Kept pq s) : NextKept pq (execResetRelease c s) := by
  unfold execResetRelease
  try dsimp only
  repeat' (first
    | with_reducible assumption
    | with_reducible apply NextKept.next
    | with_reducible apply modStk_kept
    | with_reducible apply noted_kept
    | with_reducible apply scrubRange_kept
    | with_reducible apply releaseCore_kept
    | (with_reducible refine Kept.choice (fun _ => ?_) (fun _ => ?_)))

end Sys2Proof.Machine
end

