-- ==== Sys2Proof/Laws/KeptHealth.lean ====
section
/-!
SUPPORT. What the operations of Machine/Health.lean keep: the queue and the invariant.
-/
set_option linter.unusedSimpArgs false
namespace Sys2Proof.Machine

theorem healthRecord_kept {pq : List Instr} (s : State) (core : Nat) (sev : BitVec 8) (score prev : Nat) (pts : List Nat) (h : Kept pq s) : Kept pq (healthRecord s core sev score prev pts) := by
  unfold healthRecord
  try dsimp only
  repeat' (first
    | with_reducible assumption
    | with_reducible apply writeRecord_kept)

theorem crossings_kept {pq : List Instr} (s : State) (core : Nat) (was now : BitVec 3) (score prev : Nat) (pts : List Nat) (h : Kept pq s) : Kept pq (crossings s core was now score prev pts) := by
  unfold crossings
  try dsimp only
  repeat' (first
    | with_reducible assumption
    | with_reducible apply healthRecord_kept
    | (with_reducible refine Kept.choice (fun _ => ?_) (fun _ => ?_)))

theorem scoreCore_kept {pq : List Instr} (s : State) (c : CoreId) (h : Kept pq s) : Kept pq (scoreCore s c) := by
  unfold scoreCore
  try dsimp only
  repeat' (first
    | with_reducible assumption
    | with_reducible apply modResil_kept
    | with_reducible apply modCfg_kept
    | with_reducible apply crossings_kept
    | (with_reducible refine Kept.choice (fun _ => ?_) (fun _ => ?_)))

theorem scoreDevice_kept {pq : List Instr} (s : State) (h : Kept pq s) : Kept pq (scoreDevice s) := by
  unfold scoreDevice
  try dsimp only
  repeat' (first
    | with_reducible assumption
    | with_reducible apply modResil_kept
    | with_reducible apply crossings_kept)

theorem execHealthScoreUpdate_kept {pq : List Instr} (s : State) (h : Kept pq s) : NextKept pq (execHealthScoreUpdate s) := by
  unfold execHealthScoreUpdate
  try dsimp only
  repeat' (first
    | with_reducible assumption
    | with_reducible apply NextKept.next
    | with_reducible apply noted_kept
    | with_reducible apply modResil_kept
    | with_reducible apply scoreCore_kept
    | with_reducible apply scoreDevice_kept
    | (with_reducible refine Kept.foldl (fun _ _ _ => ?_) ?_)
    | (with_reducible refine Kept.choice (fun _ => ?_) (fun _ => ?_)))

theorem clearSuspect_kept {pq : List Instr} (s : State) (c : CoreId) (e : Fin 7) (h : Kept pq s) : Kept pq (clearSuspect s c e) := by
  unfold clearSuspect
  try dsimp only
  repeat' (first
    | with_reducible assumption
    | with_reducible apply modLast_kept
    | with_reducible apply modWelt_kept
    | with_reducible apply modAwl_kept
    | (with_reducible refine Kept.choice (fun _ => ?_) (fun _ => ?_))
    | split)

theorem execSuspectEngineTest_kept {pq : List Instr} (c : CoreId) (e : Fin 7) (pass : Bool) (s : State) (h : Kept pq s) : NextKept pq (execSuspectEngineTest c e pass s) := by
  unfold execSuspectEngineTest
  try dsimp only
  repeat' (first
    | with_reducible assumption
    | with_reducible apply NextKept.next
    | with_reducible apply markLost_kept
    | with_reducible apply clearSuspect_kept
    | (with_reducible refine Kept.choice (fun _ => ?_) (fun _ => ?_)))

theorem execRegistrarCoreFail_kept {pq : List Instr} (n : Fin 4) (s : State) (h : Kept pq s) : NextKept pq (execRegistrarCoreFail n s) := by
  unfold execRegistrarCoreFail
  try dsimp only
  repeat' (first
    | with_reducible assumption
    | with_reducible apply NextKept.next
    | with_reducible apply modReg_kept
    | with_reducible apply writeRecord_kept
    | with_reducible apply ends_kept
    | with_reducible apply failDevice_kept
    | with_reducible rfl
    | with_reducible exact Nat.le_refl _
    | (with_reducible refine Kept.foldl (fun _ _ _ => ?_) ?_)
    | (with_reducible refine Kept.choice (fun _ => ?_) (fun _ => ?_)))

end Sys2Proof.Machine
end

