-- ==== Sys2Proof/Laws/KeptSelfTest.lean ====
section
/-!
SUPPORT. What the operations of Machine/SelfTest.lean keep: the queue and the invariant.
-/
set_option linter.unusedSimpArgs false
namespace Sys2Proof.Machine

theorem resetUnits_kept {pq : List Instr} (s : State) (c : CoreId) (h : Kept pq s) : Kept pq (resetUnits s c) := by
  unfold resetUnits
  try dsimp only
  repeat' (first
    | with_reducible assumption
    | with_reducible apply resetEngine_kept
    | with_reducible apply absorb_kept
    | (with_reducible refine Kept.foldl (fun _ _ _ => ?_) ?_))

theorem resetCore_kept {pq : List Instr} (s : State) (c : CoreId) (h : Kept pq s) : Kept pq (resetCore s c) := by
  unfold resetCore
  try dsimp only
  repeat' (first
    | with_reducible assumption
    | with_reducible apply modCore_kept
    | with_reducible apply fenceCore_kept
    | with_reducible apply resetUnits_kept)

theorem resetCluster_kept {pq : List Instr} (s : State) (c : CoreId) (k : Nat) (h : Kept pq s) : Kept pq (resetCluster s c k) := by
  unfold resetCluster
  try dsimp only
  repeat' (first
    | with_reducible assumption
    | with_reducible apply loseBytes_kept
    | with_reducible apply resetEngine_kept
    | (with_reducible refine Kept.foldl (fun _ _ _ => ?_) ?_))

theorem testReset_kept {pq : List Instr} (s : State) (target index : Nat) (h : Kept pq s) : Kept pq (testReset s target index) := by
  unfold testReset
  try dsimp only
  repeat' (first
    | with_reducible assumption
    | with_reducible apply killJob_kept
    | with_reducible apply resetEngine_kept
    | with_reducible apply resetCore_kept
    | with_reducible apply resetCluster_kept
    | (with_reducible refine Kept.foldl (fun _ _ _ => ?_) ?_)
    | (with_reducible refine Kept.choice (fun _ => ?_) (fun _ => ?_))
    | split)

theorem testCompute_kept {pq : List Instr} (s : State) (target index : Nat) (r : TestOutcome) (h : Kept pq s) : Kept pq (testCompute s target index r) := by
  unfold testCompute
  try dsimp only
  repeat' (first
    | with_reducible assumption
    | with_reducible apply writeRecord_kept
    | with_reducible apply markRepair_kept
    | with_reducible apply markLost_kept
    | (with_reducible refine Kept.foldl (fun _ _ _ => ?_) ?_)
    | (with_reducible refine Kept.choice (fun _ => ?_) (fun _ => ?_))
    | split)

theorem testLink_kept {pq : List Instr} (s : State) (target index : Nat) (r : TestOutcome) (h : Kept pq s) : Kept pq (testLink s target index r) := by
  unfold testLink
  try dsimp only
  repeat' (first
    | with_reducible assumption
    | with_reducible apply trainingFailure_kept
    | with_reducible apply retireLace_kept
    | (with_reducible refine Kept.choice (fun _ => ?_) (fun _ => ?_)))

theorem execSelftest_kept {pq : List Instr} (mb : Fin 16) (r : TestOutcome) (s : State) (h : Kept pq s) : NextKept pq (execSelftest mb r s) := by
  unfold execSelftest
  try dsimp only
  repeat' (first
    | with_reducible assumption
    | with_reducible apply bumpGen_kept
    | with_reducible apply modMb_kept
    | with_reducible apply ends_kept
    | with_reducible apply command_kept
    | with_reducible apply testReset_kept
    | with_reducible apply testCompute_kept
    | with_reducible apply testLink_kept
    | (with_reducible refine Kept.choice (fun _ => ?_) (fun _ => ?_))
    | intro _ _ _)

end Sys2Proof.Machine
end

