-- ==== Sys2Proof/Laws/KeptFirmware.lean ====
section
/-!
SUPPORT. What the operations of Machine/Firmware.lean keep: the queue and the invariant.
-/
set_option linter.unusedSimpArgs false
namespace Sys2Proof.Machine

theorem handOver_kept {pq : List Instr} (s : State) (h : Kept pq s) : Kept pq (handOver s) := by
  unfold handOver
  try dsimp only
  repeat' (first
    | with_reducible assumption
    | with_reducible apply modFlash_kept
    | with_reducible rfl
    | (simp only [kept_update]))

theorem stageImage_field {f : Flash} {img : List Byte} : (stageImage f img).field = f.field := by
  unfold stageImage
  dsimp only
  split <;> rfl

theorem execFwUpdate_kept {pq : List Instr} (mb : Fin 16) (agentsOk : Bool) (s : State) (h : Kept pq s) : NextKept pq (execFwUpdate mb agentsOk s) := by
  unfold execFwUpdate
  try dsimp only
  repeat' (first
    | with_reducible assumption
    | with_reducible apply modFlash_kept
    | with_reducible apply noted_kept
    | with_reducible apply modMb_kept
    | with_reducible apply ends_kept
    | with_reducible apply command_kept
    | with_reducible apply firmwareRecord_kept
    | with_reducible apply handOver_kept
    | (with_reducible refine Kept.choice (fun _ => ?_) (fun _ => ?_))
    | intro _ _ _
    | exact stageImage_field)

theorem execLicenceInstall_kept {pq : List Instr} (mb : Fin 16) (s : State) (h : Kept pq s) : NextKept pq (execLicenceInstall mb s) := by
  unfold execLicenceInstall
  try dsimp only
  repeat' (first
    | with_reducible assumption
    | with_reducible apply modFlash_kept
    | with_reducible apply ends_kept
    | with_reducible apply command_kept
    | with_reducible rfl
    | (with_reducible refine Kept.choice (fun _ => ?_) (fun _ => ?_))
    | intro _ _ _)

theorem ownerSet_kept {pq : List Instr} {s : State} {key : List Byte} {ctr : BitVec 64} (h : Kept pq s) :
    Kept pq (modReg s fun r => { r with key := key, lastCtr := ctr, ctrHigh := ctr, ownerState := 1 }) :=
  modReg_kept_of h h.2.2.1.1 h.2.2.1.2.1 h.2.2.1.2.2.1 h.2.2.2.1 (of_decide_eq_true rfl)

theorem execOwnerSet_kept {pq : List Instr} (mb : Fin 16) (s : State) (h : Kept pq s) : NextKept pq (execOwnerSet mb s) := by
  unfold execOwnerSet
  try dsimp only
  repeat' (first
    | with_reducible apply ownerSet_kept
    | with_reducible assumption
    | with_reducible apply bumpGen_kept
    | with_reducible apply ends_kept
    | with_reducible apply command_kept
    | intro _ _ _)

theorem execKeyChange_kept {pq : List Instr} (mb : Fin 16) (s : State) (h : Kept pq s) : NextKept pq (execKeyChange mb s) := by
  unfold execKeyChange
  try dsimp only
  repeat' (first
    | with_reducible assumption
    | with_reducible apply modReg_kept
    | with_reducible apply ends_kept
    | with_reducible apply command_kept
    | with_reducible rfl
    | with_reducible exact Nat.le_refl _
    | intro _ _ _
    | split)

theorem releaseHold_kept {pq : List Instr} (s : State) (c : CoreId) (h : Kept pq s) : Kept pq (releaseHold s c) := by
  unfold releaseHold
  try dsimp only
  repeat' (first
    | with_reducible assumption
    | with_reducible apply modStk_kept
    | with_reducible apply noted_kept
    | (with_reducible refine Kept.choice (fun _ => ?_) (fun _ => ?_)))

theorem settleHolds_kept {pq : List Instr} (s : State) (h : Kept pq s) : Kept pq (settleHolds s) := by
  unfold settleHolds
  try dsimp only
  repeat' (first
    | with_reducible assumption
    | with_reducible apply modReg_kept
    | with_reducible apply releaseHold_kept
    | with_reducible rfl
    | (with_reducible refine Kept.foldl (fun _ _ _ => ?_) ?_)
    | (simp only [kept_update])
    | with_reducible exact Nat.le_of_eq (List.length_map _))

theorem endUnlock_kept {pq : List Instr} (s : State) (h : Kept pq s) : Kept pq (endUnlock s) := by
  unfold endUnlock
  try dsimp only
  repeat' (first
    | with_reducible assumption
    | with_reducible apply modReg_kept
    | with_reducible apply noted_kept
    | with_reducible apply settleHolds_kept
    | with_reducible rfl
    | with_reducible exact Nat.le_refl _
    | (with_reducible refine Kept.choice (fun _ => ?_) (fun _ => ?_)))

theorem execDebugUnlock_kept {pq : List Instr} (mb : Fin 16) (s : State) (h : Kept pq s) : NextKept pq (execDebugUnlock mb s) := by
  unfold execDebugUnlock
  try dsimp only
  repeat' (first
    | with_reducible assumption
    | with_reducible apply modReg_kept
    | with_reducible apply noted_kept
    | with_reducible apply ends_kept
    | with_reducible apply command_kept
    | with_reducible apply settleHolds_kept
    | with_reducible apply endUnlock_kept
    | with_reducible rfl
    | with_reducible exact Nat.le_refl _
    | (with_reducible refine Kept.choice (fun _ => ?_) (fun _ => ?_))
    | intro _ _ _)

theorem execDebugUnlockExpire_kept {pq : List Instr} (s : State) (h : Kept pq s) : NextKept pq (execDebugUnlockExpire s) := by
  unfold execDebugUnlockExpire
  try dsimp only
  repeat' (first
    | with_reducible assumption
    | with_reducible apply NextKept.next
    | with_reducible apply endUnlock_kept
    | (with_reducible refine Kept.choice (fun _ => ?_) (fun _ => ?_)))

theorem execDebugRead_kept {pq : List Instr} (mb : Fin 16) (s : State) (h : Kept pq s) : NextKept pq (execDebugRead mb s) := by
  unfold execDebugRead
  try dsimp only
  repeat' (first
    | with_reducible assumption
    | with_reducible apply ends_kept
    | with_reducible apply command_kept
    | intro _ _ _)

theorem execDebugRelease_kept {pq : List Instr} (mb : Fin 16) (s : State) (h : Kept pq s) : NextKept pq (execDebugRelease mb s) := by
  unfold execDebugRelease
  try dsimp only
  repeat' (first
    | with_reducible assumption
    | with_reducible apply ends_kept
    | with_reducible apply command_kept
    | with_reducible apply releaseHold_kept
    | (with_reducible refine Kept.foldl (fun _ _ _ => ?_) ?_)
    | intro _ _ _)

theorem execCondEditAppend_kept {pq : List Instr} (mb : Fin 16) (s : State) (h : Kept pq s) : NextKept pq (execCondEditAppend mb s) := by
  unfold execCondEditAppend
  try dsimp only
  repeat' (first
    | with_reducible assumption
    | with_reducible apply condWrite_kept
    | with_reducible apply ends_kept
    | with_reducible apply commandOp_kept
    | intro _ _ _)

theorem execCondEditClear_kept {pq : List Instr} (mb : Fin 16) (s : State) (h : Kept pq s) : NextKept pq (execCondEditClear mb s) := by
  unfold execCondEditClear
  try dsimp only
  repeat' (first
    | with_reducible assumption
    | with_reducible apply condAppend_kept
    | with_reducible apply ends_kept
    | with_reducible apply commandOp_kept
    | intro _ _ _)

theorem execDeviceReset_kept {pq : List Instr} (mb : Fin 16) (s : State) (h : Kept pq s) : NextKept pq (execDeviceReset mb s) := by
  unfold execDeviceReset
  try dsimp only
  repeat' (first
    | with_reducible assumption
    | with_reducible apply modReg_kept
    | with_reducible apply ends_kept
    | with_reducible apply command_kept
    | with_reducible rfl
    | with_reducible exact Nat.le_refl _
    | intro _ _ _)

theorem execTapInstruction_kept {pq : List Instr} (i : TapInstruction) (s : State) (h : Kept pq s) : NextKept pq (execTapInstruction i s) := by
  unfold execTapInstruction
  try dsimp only
  repeat' (first
    | with_reducible assumption
    | with_reducible apply NextKept.next
    | with_reducible apply modReg_kept
    | with_reducible apply killAll_kept
    | with_reducible rfl
    | with_reducible exact Nat.le_refl _
    | (with_reducible refine Kept.choice (fun _ => ?_) (fun _ => ?_)))

theorem execMbxAssign_kept {pq : List Instr} (mb : Fin 16) (s : State) (h : Kept pq s) : NextKept pq (execMbxAssign mb s) := by
  unfold execMbxAssign
  try dsimp only
  repeat' (first
    | with_reducible assumption
    | with_reducible apply bumpGen_kept
    | with_reducible apply modMb_kept
    | with_reducible apply ends_kept
    | with_reducible apply command_kept
    | intro _ _ _)

theorem execErrRead_kept {pq : List Instr} (mb : Fin 16) (s : State) (h : Kept pq s) : NextKept pq (execErrRead mb s) := by
  unfold execErrRead
  try dsimp only
  repeat' (first
    | with_reducible assumption
    | with_reducible apply modReg_kept
    | with_reducible apply bumpGen_kept
    | with_reducible apply ends_kept
    | with_reducible apply command_kept
    | with_reducible rfl
    | with_reducible exact Nat.le_refl _
    | (with_reducible refine Kept.choice (fun _ => ?_) (fun _ => ?_))
    | intro _ _ _)

theorem execProvRead_kept {pq : List Instr} (mb : Fin 16) (s : State) (h : Kept pq s) : NextKept pq (execProvRead mb s) := by
  unfold execProvRead
  try dsimp only
  repeat' (first
    | with_reducible assumption
    | with_reducible apply ends_kept
    | with_reducible apply command_kept
    | intro _ _ _)

theorem execCondRead_kept {pq : List Instr} (mb : Fin 16) (s : State) (h : Kept pq s) : NextKept pq (execCondRead mb s) := by
  unfold execCondRead
  try dsimp only
  repeat' (first
    | with_reducible assumption
    | with_reducible apply ends_kept
    | with_reducible apply command_kept
    | intro _ _ _)

end Sys2Proof.Machine
end

