-- ==== Sys2Proof/Laws/KeptInventory.lean ====
section
/-!
SUPPORT. What the operations of Machine/Inventory.lean keep: the queue and the invariant.
-/
set_option linter.unusedSimpArgs false
namespace Sys2Proof.Machine

theorem execInventory_kept {pq : List Instr} (mb : Fin 16) (s : State) (h : Kept pq s) : NextKept pq (execInventory mb s) := by
  unfold execInventory
  try dsimp only
  repeat' (first
    | with_reducible assumption
    | with_reducible apply putFresh_kept
    | with_reducible apply endsWith_kept
    | with_reducible apply ends_kept
    | with_reducible apply command_kept
    | (with_reducible refine Kept.choice (fun _ => ?_) (fun _ => ?_))
    | intro _ _ _)

end Sys2Proof.Machine
end

