-- ==== Sys2Proof/Laws/KeptPmu.lean ====
section
/-!
SUPPORT. What the operations of Machine/Pmu.lean keep: the queue and the invariant.
-/
set_option linter.unusedSimpArgs false
namespace Sys2Proof.Machine

theorem setDelta_kept {pq : List Instr} (s : State) (op : Nat) (h : Kept pq s) : Kept pq (setDelta s op) := by
  unfold setDelta
  try dsimp only
  repeat' (first
    | with_reducible assumption
    | with_reducible apply mapCounters_kept
    | (with_reducible refine Kept.choice (fun _ => ?_) (fun _ => ?_)))

theorem execPmuCfgLedger_kept {pq : List Instr} (mb : Fin 16) (s : State) (h : Kept pq s) : NextKept pq (execPmuCfgLedger mb s) := by
  unfold execPmuCfgLedger
  try dsimp only
  repeat' (first
    | with_reducible assumption
    | with_reducible apply modPmu_kept
    | with_reducible apply ends_kept
    | with_reducible apply commandOp_kept
    | with_reducible apply setDelta_kept
    | (with_reducible refine Kept.choice (fun _ => ?_) (fun _ => ?_))
    | intro _ _ _)

theorem execPmuCfgSlips_kept {pq : List Instr} (mb : Fin 16) (s : State) (h : Kept pq s) : NextKept pq (execPmuCfgSlips mb s) := by
  unfold execPmuCfgSlips
  try dsimp only
  repeat' (first
    | with_reducible assumption
    | with_reducible apply modPmu_kept
    | with_reducible apply ends_kept
    | with_reducible apply commandOp_kept
    | intro _ _ _)

theorem execPmuCfgFilter_kept {pq : List Instr} (mb : Fin 16) (s : State) (h : Kept pq s) : NextKept pq (execPmuCfgFilter mb s) := by
  unfold execPmuCfgFilter
  try dsimp only
  repeat' (first
    | with_reducible assumption
    | with_reducible apply modPmu_kept
    | with_reducible apply ends_kept
    | with_reducible apply commandOp_kept
    | intro _ _ _)

theorem execPmuCfgBinding_kept {pq : List Instr} (mb : Fin 16) (s : State) (h : Kept pq s) : NextKept pq (execPmuCfgBinding mb s) := by
  unfold execPmuCfgBinding
  try dsimp only
  repeat' (first
    | with_reducible assumption
    | with_reducible apply modPmu_kept
    | with_reducible apply ends_kept
    | with_reducible apply commandOp_kept
    | intro _ _ _)

theorem execPmuCfgEvent_kept {pq : List Instr} (mb : Fin 16) (s : State) (h : Kept pq s) : NextKept pq (execPmuCfgEvent mb s) := by
  unfold execPmuCfgEvent
  try dsimp only
  repeat' (first
    | with_reducible assumption
    | with_reducible apply modCounter_kept
    | with_reducible apply ends_kept
    | with_reducible apply commandOp_kept
    | intro _ _ _)

theorem execPmuCfgDirectory_kept {pq : List Instr} (mb : Fin 16) (s : State) (h : Kept pq s) : NextKept pq (execPmuCfgDirectory mb s) := by
  unfold execPmuCfgDirectory
  try dsimp only
  repeat' (first
    | with_reducible assumption
    | with_reducible apply ends_kept
    | with_reducible apply commandOp_kept
    | intro _ _ _)

theorem latchedMem_kept {pq : List Instr} {t : State} {l : List (Nat × Byte)} {a n b k : Nat} (h : Kept pq t) :
    Kept pq { t with mem := l.foldl (fun m e => memSet m (a + e.1) e.2) (memErase t.mem a n), poison := setErase t.poison b k } :=
  ⟨h.1, ⟨foldSet_wf (memErase_wf a n h.2.1.1), h.2.1.2.1, setErase_wf _ _ h.2.1.2.2⟩, h.2.2⟩

theorem execLedgerLatch_kept {pq : List Instr} (s : State) (h : Kept pq s) : NextKept pq (execLedgerLatch s) := by
  unfold execLedgerLatch
  refine NextKept.next (Kept.choice (fun _ => h) (fun _ => Kept.choice (fun _ => modPmu_kept _ _ h) (fun _ => ?_)))
  exact modPmu_kept _ _ (mapCounters_kept _ _ (latchedMem_kept (kept_update.mpr (mapCounters_kept s _ h))))

theorem execLedgerHeaderWrite_kept {pq : List Instr} (s : State) (h : Kept pq s) : NextKept pq (execLedgerHeaderWrite s) := by
  unfold execLedgerHeaderWrite
  try dsimp only
  repeat' (first
    | with_reducible assumption
    | with_reducible apply NextKept.next
    | with_reducible apply putFresh_kept
    | with_reducible apply modPmu_kept
    | split)

theorem execCallSlipWrite_kept {pq : List Instr} (c : CoreId) (q : SeqId) (m : SlipMeasure) (s : State) (h : Kept pq s) : NextKept pq (execCallSlipWrite c q m s) := by
  unfold execCallSlipWrite
  try dsimp only
  repeat' (first
    | with_reducible assumption
    | with_reducible apply NextKept.next
    | with_reducible apply putFresh_kept
    | with_reducible apply modPmu_kept
    | (with_reducible refine Kept.choice (fun _ => ?_) (fun _ => ?_)))

end Sys2Proof.Machine
end

