-- ==== Sys2Proof/Laws/KeptRegCmd.lean ====
section
/-!
SUPPORT. What the operations of Machine/RegCmd.lean keep: the queue and the invariant.
-/
set_option linter.unusedSimpArgs false
namespace Sys2Proof.Machine

theorem readRegs_kept {pq : List Instr} : ∀ {l : List Nat} {s : State}, Kept pq s → Kept pq (readRegs s l).2
  | [], _, h => h
  | a :: t, s, h => readRegs_kept (l := t) (s := (readReg s a).2) (readReg_kept s a h)

theorem execRegrd_kept {pq : List Instr} (mb : Fin 16) (s : State) (h : Kept pq s) : NextKept pq (execRegrd mb s) := by
  unfold execRegrd
  try dsimp only
  repeat' (first
    | with_reducible assumption
    | with_reducible apply ends_kept
    | with_reducible apply command_kept
    | with_reducible apply readRegs_kept
    | intro _ _ _)

theorem regwrEffect_kept {pq : List Instr} (mb : Fin 16) (s : State) (m : Mailbox) (h : Kept pq s) : Kept pq (regwrEffect mb s m) := by
  unfold regwrEffect
  try dsimp only
  repeat' (first
    | with_reducible assumption
    | with_reducible apply regwrApply_kept
    | with_reducible apply ends_kept
    | (with_reducible refine Kept.foldl (fun _ _ _ => ?_) ?_)
    | split)

theorem execRegwr_kept {pq : List Instr} (mb : Fin 16) (s : State) (h : Kept pq s) : NextKept pq (execRegwr mb s) := by
  unfold execRegwr
  try dsimp only
  repeat' (first
    | with_reducible assumption
    | with_reducible apply command_kept
    | with_reducible apply regwrEffect_kept)

theorem regwrOf_kept {pq : List Instr} (s : State) (mb : Fin 16) (hit : RegwrEntry → Bool) (h : Kept pq s) : NextKept pq (regwrOf s mb hit) := by
  unfold regwrOf
  try dsimp only
  repeat' (first
    | with_reducible assumption
    | (with_reducible refine NextKept.choice ?_ ?_)
    | with_reducible apply NextKept.next
    | with_reducible apply command_kept
    | with_reducible apply regwrEffect_kept)

theorem execJobSeqRunWrite_kept {pq : List Instr} (mb : Fin 16) (s : State) (h : Kept pq s) : NextKept pq (execJobSeqRunWrite mb s) := by
  unfold execJobSeqRunWrite
  try dsimp only
  repeat' (first
    | with_reducible assumption
    | with_reducible apply regwrOf_kept)

theorem execLastInjArm_kept {pq : List Instr} (mb : Fin 16) (s : State) (h : Kept pq s) : NextKept pq (execLastInjArm mb s) := by
  unfold execLastInjArm
  try dsimp only
  repeat' (first
    | with_reducible assumption
    | with_reducible apply regwrOf_kept)

theorem execLacLinkRetrain_kept {pq : List Instr} (mb : Fin 16) (s : State) (h : Kept pq s) : NextKept pq (execLacLinkRetrain mb s) := by
  unfold execLacLinkRetrain
  try dsimp only
  repeat' (first
    | with_reducible assumption
    | with_reducible apply regwrOf_kept)

theorem execLacLinkRetire_kept {pq : List Instr} (mb : Fin 16) (s : State) (h : Kept pq s) : NextKept pq (execLacLinkRetire mb s) := by
  unfold execLacLinkRetire
  try dsimp only
  repeat' (first
    | with_reducible assumption
    | with_reducible apply regwrOf_kept)

theorem execMemCtrlRetrain_kept {pq : List Instr} (mb : Fin 16) (s : State) (h : Kept pq s) : NextKept pq (execMemCtrlRetrain mb s) := by
  unfold execMemCtrlRetrain
  try dsimp only
  repeat' (first
    | with_reducible assumption
    | with_reducible apply regwrOf_kept)

theorem execThmSensDisable_kept {pq : List Instr} (mb : Fin 16) (s : State) (h : Kept pq s) : NextKept pq (execThmSensDisable mb s) := by
  unfold execThmSensDisable
  try dsimp only
  repeat' (first
    | with_reducible assumption
    | with_reducible apply regwrOf_kept)

theorem execAllowRead_kept {pq : List Instr} (mb : Fin 16) (s : State) (h : Kept pq s) : NextKept pq (execAllowRead mb s) := by
  unfold execAllowRead
  try dsimp only
  repeat' (first
    | with_reducible assumption
    | with_reducible apply ends_kept
    | with_reducible apply command_kept
    | intro _ _ _)

end Sys2Proof.Machine
end

