-- ==== Sys2Proof/Laws/KeptRegistrar.lean ====
section
/-!
SUPPORT. What the operations of Machine/Registrar.lean keep: the queue and the invariant.
-/
set_option linter.unusedSimpArgs false
namespace Sys2Proof.Machine

theorem authFail_kept {pq : List Instr} (s : State) (m : Mailbox) (st : BitVec 16) (h : Kept pq s) : Kept pq (authFail s m st) := by
  unfold authFail
  have k := securityRecord_kept _ m 1 st (modReg_kept (f := fun r => { r with fails := r.fails + 1 }) h rfl rfl (Nat.le_refl _) rfl rfl)
  refine Kept.choice (fun _ => k) (fun _ => bumpGen_kept _ ?_)
  exact modReg_kept_of k k.2.2.1.1 k.2.2.1.2.1 k.2.2.1.2.2.1 k.2.2.2.1 (of_decide_eq_true rfl)

theorem consume_kept {pq : List Instr} (s : State) (m : Mailbox) (h : Kept pq s) : Kept pq (consume s m) := by
  unfold consume
  try dsimp only
  repeat' (first
    | with_reducible assumption
    | with_reducible apply modReg_kept
    | with_reducible apply bumpGen_kept
    | with_reducible rfl
    | with_reducible exact Nat.le_refl _)

theorem judge_kept {pq : List Instr} (s : State) (k : Fin 16) (ctrl : BitVec 32) (h : Kept pq s) : Kept pq (judge s k ctrl).1 := by
  unfold judge
  try dsimp only
  repeat' (first
    | with_reducible assumption
    | with_reducible apply authFail_kept
    | with_reducible apply consume_kept
    | split)

theorem runOrQueue_kept {pq : List Instr} (s : State) (k : Fin 16) (h : Kept pq s) : Kept pq (runOrQueue s k) := by
  unfold runOrQueue
  try dsimp only
  repeat' (first
    | with_reducible assumption
    | with_reducible apply bumpGen_kept
    | with_reducible apply modMb_kept
    | with_reducible apply answer_kept
    | (with_reducible refine Kept.choice (fun _ => ?_) (fun _ => ?_)))

theorem promoteOne_kept {pq : List Instr} (s : State) (k : Fin 16) (h : Kept pq s) : Kept pq (promoteOne s k) := by
  unfold promoteOne
  try dsimp only
  repeat' (first
    | with_reducible assumption
    | with_reducible apply runOrQueue_kept
    | (with_reducible refine Kept.choice (fun _ => ?_) (fun _ => ?_)))

theorem promote_kept {pq : List Instr} (s : State) (h : Kept pq s) : Kept pq (promote s) := by
  unfold promote
  try dsimp only
  repeat' (first
    | with_reducible assumption
    | with_reducible apply promoteOne_kept
    | (with_reducible refine Kept.foldl (fun _ _ _ => ?_) ?_))

theorem accept_kept {pq : List Instr} (s : State) (k : Fin 16) (h : Kept pq s) : Kept pq (accept s k) := by
  unfold accept
  try dsimp only
  repeat' (first
    | with_reducible assumption
    | with_reducible apply modReg_kept
    | with_reducible apply modMb_kept
    | with_reducible apply refuse_kept
    | with_reducible apply securityRecord_kept
    | with_reducible apply runOrQueue_kept
    | with_reducible rfl
    | with_reducible exact Nat.le_refl _
    | (with_reducible refine Kept.foldl (fun _ _ _ => ?_) ?_)
    | (with_reducible refine Kept.choice (fun _ => ?_) (fun _ => ?_)))

theorem see_kept {pq : List Instr} (s : State) (k : Fin 16) (ctrl : BitVec 32) (h : Kept pq s) : Kept pq (see s k ctrl) := by
  unfold see
  try dsimp only
  repeat' (first
    | with_reducible assumption
    | with_reducible apply refuse_kept
    | with_reducible apply judge_kept
    | with_reducible apply accept_kept
    | (with_reducible refine Kept.choice (fun _ => ?_) (fun _ => ?_)))

theorem cancelIn_kept {pq : List Instr} (s : State) (k : Fin 16) (h : Kept pq s) : Kept pq (cancelIn s k) := by
  unfold cancelIn
  try dsimp only
  repeat' (first
    | with_reducible assumption
    | with_reducible apply modMb_kept
    | with_reducible apply refuse_kept
    | with_reducible apply promote_kept
    | (with_reducible refine Kept.choice (fun _ => ?_) (fun _ => ?_)))

theorem execMailboxOwnWrite_kept {pq : List Instr} (fn : Fin 9) (k : Fin 16) (ctrl : BitVec 32) (s : State) (h : Kept pq s) : NextKept pq (execMailboxOwnWrite fn k ctrl s) := by
  unfold execMailboxOwnWrite
  try dsimp only
  repeat' (first
    | with_reducible assumption
    | with_reducible apply NextKept.next
    | with_reducible apply modMb_kept
    | with_reducible apply see_kept
    | with_reducible apply cancelIn_kept
    | (with_reducible refine Kept.choice (fun _ => ?_) (fun _ => ?_))
    | split)

theorem execMailboxCancel_kept {pq : List Instr} (fn : Fin 9) (k : Fin 16) (s : State) (h : Kept pq s) : NextKept pq (execMailboxCancel fn k s) := by
  unfold execMailboxCancel
  try dsimp only
  repeat' (first
    | with_reducible assumption
    | with_reducible apply NextKept.next
    | with_reducible apply cancelIn_kept
    | (with_reducible refine Kept.choice (fun _ => ?_) (fun _ => ?_))
    | split)

theorem execQueuedTimeout_kept {pq : List Instr} (mb : Fin 16) (s : State) (h : Kept pq s) : NextKept pq (execQueuedTimeout mb s) := by
  unfold execQueuedTimeout
  try dsimp only
  repeat' (first
    | with_reducible assumption
    | with_reducible apply NextKept.next
    | with_reducible apply refuse_kept
    | with_reducible apply promote_kept
    | (with_reducible refine Kept.choice (fun _ => ?_) (fun _ => ?_)))

theorem execAuthLockExpire_kept {pq : List Instr} (s : State) (h : Kept pq s) : NextKept pq (execAuthLockExpire s) :=
  NextKept.next (Kept.choice (fun _ => bumpGen_kept _ (modReg_kept_of h h.2.2.1.1 h.2.2.1.2.1 h.2.2.1.2.2.1 h.2.2.2.1
    (of_decide_eq_true rfl))) (fun _ => h))

theorem execCommandComplete_kept {pq : List Instr} (mb : Fin 16) (s : State) (h : Kept pq s) : NextKept pq (execCommandComplete mb s) := by
  unfold execCommandComplete
  try dsimp only
  repeat' (first
    | with_reducible assumption
    | with_reducible apply NextKept.next
    | with_reducible apply modReg_kept
    | with_reducible apply answer_kept
    | with_reducible apply promote_kept
    | with_reducible rfl
    | with_reducible exact Nat.le_refl _
    | (with_reducible refine Kept.choice (fun _ => ?_) (fun _ => ?_))
    | split)

end Sys2Proof.Machine
end

