-- ==== Sys2Proof/Laws/Parts.lean ====
section
/-!
SUPPORT. What the shared operations over jobs, records, the condition report and slots do to the parts that statements speak of.
-/
namespace Sys2Proof.Machine

/-- Sequencers depend on the cores alone. -/
theorem getSeq_cores {s t : State} (h : t.cores = s.cores) (c q) : getSeq t c q = getSeq s c q := by
  simp only [getSeq, getCore, h]

/-- A core depends on the cores alone. -/
theorem getCore_cores {s t : State} (h : t.cores = s.cores) (c) : getCore t c = getCore s c := by
  simp only [getCore, h]

/-- A bit that was set. -/
theorem setBit_bit {w} (x : BitVec w) (i : Nat) (h : i < w) : bit (setBit x i true) i = true := by
  have : (BitVec.ofNat w (2 ^ i)).getLsbD i = true := by
    rw [BitVec.getLsbD_ofNat, Nat.testBit_two_pow_self]; simp [h]
  simp only [bit, setBit, if_true, BitVec.getLsbD_or, this, Bool.or_true]

/-- A bit that was cleared. -/
theorem setBit_clear {w} (x : BitVec w) (i : Nat) (h : i < w) : bit (setBit x i false) i = false := by
  have : (BitVec.ofNat w (2 ^ i)).getLsbD i = true := by
    rw [BitVec.getLsbD_ofNat, Nat.testBit_two_pow_self]; simp [h]
  simp only [bit, setBit, Bool.false_eq_true, if_false, BitVec.getLsbD_and, BitVec.getLsbD_not, this, Bool.not_true,
    Bool.and_false]

/-- A change of cores that is idempotent, done on each core of a list. -/
theorem fold_core (g : CoreState → CoreState) : ∀ (l : List CoreId) (s : State) (d : CoreId), (∀ k, g (g k) = g k) →
   getCore (l.foldl (fun s c => modCore s c g) s) d = if d ∈ l then g (getCore s d) else getCore s d
  | [], s, d, _ => by simp
  | a :: t, s, d, h => by
    rw [List.foldl_cons, fold_core g t _ d h]
    by_cases e : a = d
    · subst e
      simp [h]
    · rw [getCore_modCore_other _ _ e]
      have : ¬ d = a := fun x => e x.symm
      simp [this]

/-- Jobs are found in the list of jobs. -/
theorem findJob_reg {s t : State} (h : t.reg.jobs = s.reg.jobs) (j) : findJob t j = findJob s j := by simp [findJob, h]

/-- A job after a change that keeps its ID. -/
theorem find_modJob {s : State} {j : BitVec 6} {f : Job → Job} {x : Job} (hf : ∀ x, (f x).id = x.id) (h : findJob s j = some x) :
    findJob (modJob s j f) j = some (f x) := by
  unfold findJob modJob at *
  simp only [modReg]
  revert h
  induction s.reg.jobs with
  | nil => intro h; cases h
  | cons a t ih =>
    intro h
    by_cases e : a.id = j
    · have : a = x := by simpa [e] using h
      subst this
      simp [e, hf]
    · have h' : t.find? (fun x => x.id == j) = some x := by simpa [e] using h
      simp [e, ih h']

/-- A record leaves the jobs. -/
theorem writeRecord_jobs (s : State) (r : ErrRec) : (writeRecord s r).reg.jobs = s.reg.jobs := by
  unfold writeRecord
  have n : ∀ s, (noted s).reg.jobs = s.reg.jobs := by
    intro s; unfold noted raiseVec; dsimp only; repeat' split
    all_goals rfl
  have n2 : ∀ s f v, (raiseVec s f v).reg.jobs = s.reg.jobs := by
    intro s f v; unfold raiseVec; dsimp only; repeat' split
    all_goals rfl
  dsimp only
  split
  · split
    · rw [n2, n]; rfl
    · rw [n]; rfl
  · rw [n]; rfl

/-- Ending the snapshots of a job leaves the jobs. -/
theorem stopSnaps_jobs (s id) : (stopSnaps s id).reg.jobs = s.reg.jobs := by
  unfold stopSnaps dropRestore
  exact foldl_field (·.reg.jobs) (by intro t c; split <;> rfl) _ s

/-- Changes of cores leave the Registrar. -/
theorem fold_jobs (g : CoreState → CoreState) : ∀ (l : List CoreId) (s : State), (l.foldl (fun s c => modCore s c g) s).reg = s.reg
  | [], s => rfl
  | a :: t, s => by rw [List.foldl_cons, fold_jobs g t]; rfl

/-- What a kill does to a core at once. -/
def scr (k : CoreState) : CoreState := { k with st := if k.st = .lost then .lost else .scrub, seqRun := 0, saved := 0 }

/-- The kill of a job that is not yet killed. -/
theorem killJob_eq {s : State} {id : BitVec 6} {j : Job} (e : findJob s id = some j) (hk : j.killed = false) (code op : BitVec 16) (unit) (q) :
   ∃ (f : Job → Job) (r : ErrRec), (∀ x, (f x).id = x.id ∧ (f x).killed = true ∧ (f x).state = 6 ∧ (f x).lastFault = code.setWidth 8) ∧
     killJob s id code op unit q = writeRecord (stopSnaps (modJob (j.cores.foldl (fun s c => modCore s c scr) s) id f) id) r := by
  unfold killJob
  simp only [e, hk]
  exact ⟨fun x => { x with
          state := 6, killed := true, normal := false, draining := true, lastFault := code.setWidth 8
          hold := heldCores (j.cores.foldl (fun s c => modCore s c scr) s) x.cores }, _, fun _ => ⟨rfl, rfl, rfl, rfl⟩, rfl⟩

/-- What a kill leaves and does. -/
theorem killJob_facts (s : State) (id : BitVec 6) (code op : BitVec 16) (unit) (q) :
   (∀ c p, getSeq (killJob s id code op unit q) c p = getSeq s c p) ∧
   (∀ c, (getCore (killJob s id code op unit q) c).seqErr = (getCore s c).seqErr) ∧
   (∀ j, findJob s id = some j → j.killed = false →
     (∀ d, getCore (killJob s id code op unit q) d = if d ∈ j.cores then scr (getCore s d) else getCore s d) ∧
     ∃ x, findJob (killJob s id code op unit q) id = some x ∧ x.killed = true ∧ x.state = 6 ∧ x.lastFault = code.setWidth 8) := by
  have hg : ∀ k : CoreState, scr (scr k) = scr k := by
    intro k
    by_cases e : k.st = .lost <;> simp [scr, e]
  cases e : findJob s id with
  | none => 
    have : killJob s id code op unit q = s := by unfold killJob; simp [e]
    rw [this]
    exact ⟨fun _ _ => rfl, fun _ => rfl, fun j h => by cases h⟩
  | some j =>
    cases hk : j.killed with
    | true =>
      have : (killJob s id code op unit q).cores = s.cores := by unfold killJob; simp [e, hk]
      refine ⟨fun c p => getSeq_cores this c p, fun c => by rw [getCore_cores this], ?_⟩
      intro j' e' hk'
      cases e'
      rw [hk] at hk'; cases hk'
    | false =>
      obtain ⟨f, r, hf, h⟩ := killJob_eq e hk code op unit q
      have core : ∀ d, getCore (killJob s id code op unit q) d = if d ∈ j.cores then scr (getCore s d) else getCore s d := by
        intro d
        rw [h, getCore_cores (s := (j.cores.foldl (fun s c => modCore s c scr) s)) (by rw [writeRecord_cores, stopSnaps_cores]; rfl)]
        exact fold_core scr _ _ _ hg
      refine ⟨?_, ?_, ?_⟩
      · intro c p
        simp only [getSeq, core]
        split <;> rfl
      · intro c
        rw [core]
        split <;> rfl
      · intro j' e' _
        cases e'
        refine ⟨core, f j, ?_, (hf j).2⟩
        rw [h, findJob_reg (writeRecord_jobs _ _), findJob_reg (stopSnaps_jobs _ _)]
        apply find_modJob (fun x => (hf x).1)
        rw [findJob_reg (s := s) (by rw [fold_jobs])]
        exact e

/-- The condition report is apart from the cores. -/
theorem condWrite_cores (s x) : (condWrite s x).cores = s.cores := by
  unfold condWrite
  dsimp only
  repeat' split
  all_goals simp

/-- The condition report is apart from memory. -/
theorem condWrite_mem (s x) : (condWrite s x).mem = s.mem := by
  unfold condWrite
  dsimp only
  repeat' split
  all_goals simp

/-- An entry of the report leaves the cores. -/
theorem condAppend_cores (s a b c d e) : (condAppend s a b c d e).cores = s.cores := condWrite_cores _ _

/-- An entry of the report leaves memory. -/
theorem condAppend_mem (s a b c d e) : (condAppend s a b c d e).mem = s.mem := condWrite_mem _ _

/-- A kill leaves the Stacks registers, and a LOST core LOST. -/
theorem kill_core (s id code op unit q c) : (getCore (killJob s id code op unit q) c).stk = (getCore s c).stk ∧ ((getCore s c).st = .lost → (getCore (killJob s id code op unit q) c).st = .lost) := by
  have F : ∀ (l : List CoreId) (s : State), (getCore (l.foldl (fun s c => modCore s c fun k =>
        { k with st := if k.st = .lost then .lost else .scrub, seqRun := 0, saved := 0 }) s) c).stk = (getCore s c).stk ∧ ((getCore s c).st = .lost → (getCore (l.foldl (fun s c => modCore s c fun k =>
        { k with st := if k.st = .lost then .lost else .scrub, seqRun := 0, saved := 0 }) s) c).st = .lost) := by
    intro l
    induction l with
    | nil => intro s; exact ⟨rfl, fun h => h⟩
    | cons a t ih =>
      intro s
      rw [List.foldl_cons]
      obtain ⟨h1, h2⟩ := ih (modCore s a fun k =>
        { k with st := if k.st = .lost then .lost else .scrub, seqRun := 0, saved := 0 })
      by_cases e : a = c
      · subst e
        rw [getCore_modCore_same] at h1 h2
        exact ⟨h1, fun h => h2 (by simp [h])⟩
      · rw [getCore_modCore_other _ _ e] at h1 h2
        exact ⟨h1, h2⟩
  unfold killJob
  split
  · exact ⟨rfl, fun h => h⟩
  · rename_i j _
    dsimp only
    split
    · rw [getCore_cores (s := s) (by rw [writeRecord_cores])]
      exact ⟨rfl, fun h => h⟩
    · rw [getCore_cores (s := j.cores.foldl (fun s c => modCore s c fun k =>
        { k with st := if k.st = .lost then .lost else .scrub, seqRun := 0, saved := 0 }) s) (by rw [writeRecord_cores, stopSnaps_cores]; rfl)]
      exact F _ _

/-- A core that is lost. -/
theorem loseCore_st (s : State) (c : CoreId) : (getCore (loseCore s c) c).st = .lost ∧ (getCore (loseCore s c) c).stk.insvc = (getCore s c).stk.insvc := by
  unfold loseCore
  split
  · rename_i h; exact ⟨h, rfl⟩
  · dsimp only
    have hn : ∀ t : State, t.cores = (modCore s c fun k => { k with st := .lost, fenced := true, seqRun := 0 }).cores → (getCore t c).st = .lost ∧ (getCore t c).stk = (getCore s c).stk := by
      intro t ht
      rw [getCore_cores ht, getCore_modCore_same]
      exact ⟨rfl, rfl⟩
    have fo : ∀ x : State, (forwardOnly x c).cores = x.cores := by
      intro x; unfold forwardOnly; dsimp only; split <;> rfl
    split
    · obtain ⟨h1, h2⟩ := kill_core (noted { (forwardOnly (modCore s c fun k => { k with st := .lost, fenced := true, seqRun := 0 }) c) with lacing := { (forwardOnly (modCore s c fun k => { k with st := .lost, fenced := true, seqRun := 0 }) c).lacing with
      dist := (List.range 12).foldl (fun d i => smapSet 0 d (i * 31 + c.val)
        (smapGet 0 d (i * 31 + c.val) ||| 0x200#32)) (forwardOnly (modCore s c fun k => { k with st := .lost, fenced := true, seqRun := 0 }) c).lacing.dist
      distEpoch := if (forwardOnly (modCore s c fun k => { k with st := .lost, fenced := true, seqRun := 0 }) c).lacing.distGen = 0 then (forwardOnly (modCore s c fun k => { k with st := .lost, fenced := true, seqRun := 0 }) c).lacing.distEpoch else (forwardOnly (modCore s c fun k => { k with st := .lost, fenced := true, seqRun := 0 }) c).lacing.distEpoch + 2 } }) (Job.id ‹Job›) 0x0C 0 (0, c.val, 0) none c
      obtain ⟨h3, h4⟩ := hn (noted { (forwardOnly (modCore s c fun k => { k with st := .lost, fenced := true, seqRun := 0 }) c) with lacing := { (forwardOnly (modCore s c fun k => { k with st := .lost, fenced := true, seqRun := 0 }) c).lacing with
      dist := (List.range 12).foldl (fun d i => smapSet 0 d (i * 31 + c.val)
        (smapGet 0 d (i * 31 + c.val) ||| 0x200#32)) (forwardOnly (modCore s c fun k => { k with st := .lost, fenced := true, seqRun := 0 }) c).lacing.dist
      distEpoch := if (forwardOnly (modCore s c fun k => { k with st := .lost, fenced := true, seqRun := 0 }) c).lacing.distGen = 0 then (forwardOnly (modCore s c fun k => { k with st := .lost, fenced := true, seqRun := 0 }) c).lacing.distEpoch else (forwardOnly (modCore s c fun k => { k with st := .lost, fenced := true, seqRun := 0 }) c).lacing.distEpoch + 2 } }) (by rw [noted_cores]; exact fo _)
      exact ⟨h2 h3, by rw [h1, h4]⟩
    · obtain ⟨h3, h4⟩ := hn (noted { (forwardOnly (modCore s c fun k => { k with st := .lost, fenced := true, seqRun := 0 }) c) with lacing := { (forwardOnly (modCore s c fun k => { k with st := .lost, fenced := true, seqRun := 0 }) c).lacing with
      dist := (List.range 12).foldl (fun d i => smapSet 0 d (i * 31 + c.val)
        (smapGet 0 d (i * 31 + c.val) ||| 0x200#32)) (forwardOnly (modCore s c fun k => { k with st := .lost, fenced := true, seqRun := 0 }) c).lacing.dist
      distEpoch := if (forwardOnly (modCore s c fun k => { k with st := .lost, fenced := true, seqRun := 0 }) c).lacing.distGen = 0 then (forwardOnly (modCore s c fun k => { k with st := .lost, fenced := true, seqRun := 0 }) c).lacing.distEpoch else (forwardOnly (modCore s c fun k => { k with st := .lost, fenced := true, seqRun := 0 }) c).lacing.distEpoch + 2 } }) (by rw [noted_cores]; exact fo _)
      exact ⟨h3, by rw [h4]⟩

/-- A set without n. -/
theorem mem_setDel_wf {n x : Nat} : ∀ {l : List Nat} {lo : Nat}, setWfFrom lo l = true → (x ∈ setDel l n ↔ x ≠ n ∧ x ∈ l)
  | [], lo, _ => by simp [setDel]
  | k :: t, lo, h => by
    have h' : lo ≤ k ∧ setWfFrom (k+1) t = true := by simpa [setWfFrom] using h
    have big : ∀ {l lo}, setWfFrom lo l = true → ∀ y ∈ l, lo ≤ y := by
      intro l
      induction l with
      | nil => intro lo _ y hy; cases hy
      | cons a b ih =>
        intro lo h y hy
        have h2 : lo ≤ a ∧ setWfFrom (a+1) b = true := by simpa [setWfFrom] using h
        rcases List.mem_cons.mp hy with e | e
        · omega
        · have := ih h2.2 y e; omega
    by_cases e : n = k
    · subst e
      simp only [setDel, if_true, List.mem_cons]
      constructor
      · intro hx
        have := big h'.2 x hx
        exact ⟨by omega, .inr hx⟩
      · rintro ⟨h1, h2 | h2⟩
        · exact absurd h2 h1
        · exact h2
    · simp only [setDel, e, if_false, List.mem_cons, mem_setDel_wf h'.2]
      constructor
      · rintro (h1 | ⟨h1, h2⟩)
        · exact ⟨by omega, .inl h1⟩
        · exact ⟨h1, .inr h2⟩
      · rintro ⟨h1, h2 | h2⟩
        · exact .inl h2
        · exact .inr ⟨h1, h2⟩

/-- Tags after one tag was set. -/
theorem isFull_setFull (s : State) (h : setWf s.full = true) (n m b) : isFull (setFull s n b) m = if m = n then b else isFull s m := by
  unfold isFull setFull setPut
  cases b
  · have := @mem_setDel_wf n m s.full 0 h
    simp only [Bool.false_eq_true, if_false]
    by_cases e : m = n
    · subst e
      have : ¬ m ∈ setDel s.full m := by rw [this]; simp
      simp [this]
    · have : m ∈ setDel s.full n ↔ m ∈ s.full := by rw [this]; simp [e]
      simp [e, this]
  · simp only [if_true]
    by_cases e : m = n
    · simp [e, mem_setAdd]
    · simp [e, mem_setAdd]

/-- Poison after that of one slot was set. -/
theorem isPoison_setPoison (s : State) (h : setWf s.poison = true) (n m b) : isPoison (setPoison s n b) m = if m = n then b else isPoison s m :=
  isFull_setFull { s with full := s.poison } h n m b

/-- A kill leaves everything of a core that stopping it does not change. -/
theorem killJob_keeps {α : Type} (g : CoreState → α) (hg : ∀ k, g (scr k) = g k) (s : State) (id : BitVec 6) (code op : BitVec 16)
    (unit : Nat × Nat × Nat) (q : Option SeqState) (d : CoreId) :
    g (getCore (killJob s id code op unit q) d) = g (getCore s d) := by
  cases e : findJob s id with
  | none =>
    have : killJob s id code op unit q = s := by unfold killJob; simp [e]
    rw [this]
  | some j =>
    cases hk : j.killed with
    | true =>
      have : (killJob s id code op unit q).cores = s.cores := by unfold killJob; simp [e, hk]
      rw [getCore_cores this]
    | false =>
      rw [((killJob_facts s id code op unit q).2.2 j e hk).1 d]
      split
      · exact hg _
      · rfl

/-- The records of a fault leave everything of a core that stopping it does not change. -/
theorem faultRecords_keeps {α : Type} (g : CoreState → α) (hg : ∀ k, g (scr k) = g k) (s : State) (c : CoreId) (q : SeqId)
    (opc : BitVec 8) (code : BitVec 16) (d : CoreId) : g (getCore (faultRecords s c q opc code) d) = g (getCore s d) := by
  unfold faultRecords
  dsimp only
  split
  · rfl
  · exact (killJob_keeps g hg _ _ _ _ _ _ d).trans (by rw [getCore_cores (writeRecord_cores ..)])

/-- The sequencer that faults, and every other one. -/
theorem seqFault_getSeq (s : State) (c : CoreId) (q : SeqId) (opc code : BitVec 8) (d : CoreId) (p : SeqId) :
    getSeq (seqFault s c q opc code) d p =
      getSeq (modSeq s c q fun x => { x with st := .fault, fault := code, infl := [], loops := [], pendFault := 0 }) d p := by
  unfold seqFault
  dsimp only
  refine (faultRecords_keeps (fun k => vget k.seqs p) (fun _ => rfl) _ _ _ _ _ _).trans ?_
  show getSeq _ d p = getSeq _ d p
  by_cases e : c = d
  · subst e
    unfold getSeq
    rw [getCore_modCore_same]
  · unfold getSeq
    rw [getCore_modCore_other _ _ e]

/-- A fault leaves of a core what neither the sequencer nor stopping the job changes. -/
theorem seqFault_keeps {α : Type} (g : CoreState → α) (hg : ∀ k, g (scr k) = g k) (h1 : ∀ (k : CoreState) v, g { k with seqs := v } = g k)
    (h2 : ∀ (k : CoreState) v, g { k with seqErr := v } = g k) (s : State) (c : CoreId) (q : SeqId) (opc code : BitVec 8) (d : CoreId) :
    g (getCore (seqFault s c q opc code) d) = g (getCore s d) := by
  unfold seqFault
  dsimp only
  refine (faultRecords_keeps g hg _ _ _ _ _ _).trans ?_
  by_cases e : c = d
  · subst e
    rw [getCore_modCore_same, h2]
    unfold modSeq
    rw [getCore_modCore_same, h1]
  · rw [getCore_modCore_other _ _ e]
    unfold modSeq
    rw [getCore_modCore_other _ _ e]

end Sys2Proof.Machine
end

