-- ==== Sys2Proof/Laws/Welt.lean ====
section
/-!
SUPPORT. What a Welt instruction of the plain shape does once its sources have been read.
-/
namespace Sys2Proof.Machine

/-- A Welt after a change of a sequencer. -/
theorem getWelt_modSeq (s : State) (c : CoreId) (wl : Fin 2) (q : SeqId) (f : SeqState → SeqState) :
    getWelt (modSeq s c q f) c wl = getWelt s c wl := by simp [getWelt, modSeq]

/-- A Welt when an instruction leaves flight. -/
theorem getWelt_dropFlight (s : State) (c : CoreId) (wl : Fin 2) (q : SeqId) (word : Word128) :
    getWelt (dropFlight s c q word) c wl = getWelt s c wl := getWelt_modSeq ..

/-- A Welt after its own change. -/
theorem getWelt_modWelt_same (s : State) (c : CoreId) (wl : Fin 2) (f : WeltState → WeltState) :
    getWelt (modWelt s c wl f) c wl = f (getWelt s c wl) := by simp [getWelt, modWelt]

/-- Without events in cache lines nothing happens to the cache. -/
theorem weltCacheEvents_none {s : State} {c : CoreId} {wl : Fin 2} {word : Word128} {l : List (WOpnd × Descr)} {ev : List EccEvent}
    (h : ∀ e ∈ ev, e.cache = false) : weltCacheEvents s c wl word l ev = s := by
  have k : (ev.filter fun e => e.cache && l.any fun o => o.1.cached && !o.1.dst &&
      ((usedPieces o.1 o.2).any fun p => p.slot / 64 == e.at_)) = [] := by
    rw [List.filter_eq_nil_iff]
    intro e he
    simp [h e he]
  unfold weltCacheEvents
  dsimp only
  rw [k]
  simp

/-- The descriptors of an instruction in flight are those of its issue. -/
theorem viewOf_landed {s : State} {c : CoreId} {q : SeqId} {word : Word128} {y : InFlight} (h : s.Landed c q word y) (i : Nat) :
    opnd (viewOf s c q word) c q i = descrOf (smapGet 0 y.view i) := by
  simp only [opnd, descAt, viewOf, h.2.1, getSeq_modSeq_same]

/-- A Welt instruction of the plain shape, once its sources are there. -/
theorem weltInstr_runs {s : State} {c : CoreId} {wl : Fin 2} {word rsv : Word128} {ev : List EccEvent} {os : List WOpnd}
    {own : List (Nat × Bool)} {held : Bool} {notes : List Nat} {atIssue : State → State}
    {compute : (Nat → List Byte) → List Nat → WRes} {post : (Nat → List Byte) → State → State} {y : InFlight} {a : List Access}
    (he : ∀ e ∈ ev, e.cache = false) (h : s.WeltHas c wl word os y a) :
    weltInstr s c wl word rsv ev os own held notes atIssue compute post =
      weltRuns s c wl word ev (weltOperands y os) a (fun d => compute d y.notes) post := by
  obtain ⟨h, hg, hp⟩ := h
  have hl : (os.map fun o => (o, opnd (viewOf s c (weltSeq wl) word) c (weltSeq wl) o.idx)) = weltOperands y os := by
    simp only [weltOperands, viewOf_landed h]
  unfold weltInstr
  dsimp only
  rw [weltCacheEvents_none he, hl]
  refine (engineInstr_landed h).trans (carry_presents (n := 4094) h ?_ ?_)
  · simp only [hg, List.length_singleton, List.getD_cons_zero]
    rw [hp]
    rfl
  · intro t g
    refine ⟨_, by simp only [hg, List.cons_append, List.nil_append, List.length_cons, List.length_nil]; rfl, ?_⟩
    simp only [getWelt_dropFlight, List.getD_cons_zero]

end Sys2Proof.Machine
end

