-- ==== Sys2Proof/WellFormed.lean ====
section
/-!
DEFINITION. Which commands are well formed: what the row's operands must satisfy beside their types. A command that is
not is no event the spec knows; the meanings are total and give it some state all the same.
-/
namespace Sys2Proof

/-- A flit of a TYPE (Tables 09-3, 09-4, R222): on a channel that carries the TYPE, with 64 data bytes exactly when the TYPE
carries data, poisoned only with data, and no reserved ROUTE. -/
def Flit.wellFormed (f : Flit) (typ : Nat) (vcs : List Nat) (data : Bool) : Bool :=
  f.typ.toNat == typ && vcs.contains f.vc.toNat && f.data.length == (if data then 64 else 0) && (data || !f.poison) &&
    f.route.toNat != 3

/-- An EYT packet of a TYPE (R277, Tables 11-6, 11-7): at most 8,960 payload bytes, a tag of 16 bytes exactly with AUTH, and
a target slot. -/
def Packet.wellFormed (p : Packet) (typ : Nat) : Bool :=
  p.typ.toNat == typ && decide (p.payload.length ≤ 8960) && p.tag.length == (if p.auth then 16 else 0) &&
    p.taddr.toNat % 64 == 0

/-- A Stacks address that names a slot (R58). -/
def slotAddress (sa : BitVec 32) : Bool := decide (sa.toNat % 64 = 0)

/-- Check-code events name slots of a core's 2^31 slot addresses or lines of a 512 KiB cache (R64, R182). -/
def eccSlots (l : List EccEvent) : Bool := l.all fun e => decide (e.at_ < if e.cache then 8192 else 2 ^ 31)

/-- A write to a BAR: some bytes, at most 4,096, inside its size (R265, R266). -/
def barWrite (off : Nat) (bytes : List Byte) (size : Nat) : Bool :=
  !bytes.isEmpty && decide (bytes.length ≤ 4096) && decide (off + bytes.length ≤ size)

/-- A lane count that a host link may have. -/
def linkWidth (w : Nat) : Bool := [1, 2, 4, 8, 16].contains w

/-- A speed and a width of the host link (R265). -/
def linkSetting (speed width : Nat) : Bool := decide (1 ≤ speed) && linkWidth width

/-- A region has this sensor (Table 15-4): 16 in a core, 8 in an edge die, 4 in the management region. -/
def sensorExists (r i : Nat) : Bool := decide (i < if r < 12 then 16 else if r < 14 then 8 else 4)

/-- A command is well formed. -/
def Instr.wellFormed (i : Instr) : Bool :=
  match i with
  | .nop _ _ _ => true
  | .halt _ _ _ => true
  | .wait _ _ _ => true
  | .loop _ _ _ => true
  | .jmp _ _ _ => true
  | .dadv _ _ _ => true
  | .dload _ _ _ ev => eccSlots ev
  | .swapi _ _ _ => true
  | .barrier _ _ _ => true
  | .frame _ _ _ => true
  | .frameTakesEffect _ => true
  | .iload _ _ _ ev => eccSlots ev
  | .barrierTimeout _ => true
  | .stacksAccessExecute _ _ _ _ => true
  | .tagTimeout _ _ => true
  | .correctedWriteback _ sa => slotAddress sa
  | .patrolRead _ sa _ => slotAddress sa
  | .bankRepair _ _ => true
  | .setRetire _ _ => true
  | .carrelMirrorUpdate _ _ => true
  | .scrubComplete _ => true
  | .fill _ _ _ => true
  | .copy _ _ _ ev => eccSlots ev
  | .cropen _ _ ev => eccSlots ev
  | .crclose _ _ => true
  | .stepend _ _ ev => eccSlots ev
  | .clgate _ _ => true
  | .clusterUngateDone _ _ => true
  | .lcfg _ _ _ => true
  | .loadw _ _ _ ev => eccSlots ev
  | .stream _ _ _ ev => eccSlots ev
  | .drain _ _ _ => true
  | .accld _ _ _ ev => eccSlots ev
  | .lpairOn _ _ _ => true
  | .lpairOff _ _ _ => true
  | .lastPairTimeout _ _ => true
  | .lastPlaneStart _ _ => true
  | .lastVectorEnter _ _ => true
  | .lastVectorLand _ _ _ => true
  | .drainEntryRead _ _ _ => true
  | .denseFallbackReexec _ _ => true
  | .lastInjArm _ => true
  | .avld _ _ ev => eccSlots ev
  | .amv _ _ ev => eccSlots ev
  | .awlFallbackReexec _ => true
  | .aseqApply _ _ ev => eccSlots ev
  | .aseqAdvance _ _ => true
  | .wop _ _ _ ev => eccSlots ev
  | .wcvt _ _ _ ev => eccSlots ev
  | .wred _ _ _ ev => eccSlots ev
  | .wsmxExps _ _ _ ev => eccSlots ev
  | .wsmxMerge _ _ _ ev => eccSlots ev
  | .wgth _ _ _ ev => eccSlots ev
  | .wsct _ _ _ ev => eccSlots ev
  | .wopt _ _ _ ev => eccSlots ev
  | .wshdw _ _ _ ev => eccSlots ev
  | .seltop _ _ _ ev => eccSlots ev
  | .selthr _ _ _ ev => eccSlots ev
  | .cfill _ _ _ ev => eccSlots ev
  | .cevict _ _ _ ev => eccSlots ev
  | .wstepLoad _ _ _ => true
  | .wstepInc _ _ _ => true
  | .wflagStore _ _ _ => true
  | .wflagCheck _ _ _ => true
  | .wflagClear _ _ _ => true
  | .cacheSegmentRemap _ _ _ => true
  | .xload _ _ _ => true
  | .xstore _ _ _ ev => eccSlots ev
  | .xgather _ _ _ ev => eccSlots ev
  | .xmove _ _ _ => true
  | .esend _ _ _ ev => eccSlots ev
  | .laceBeatReceive _ _ _ _ => true
  | .rd f _ => f.wellFormed 0 [1] false
  | .wr f => f.wellFormed 1 [1, 3] true
  | .wrp f => f.wellFormed 2 [1, 3] true
  | .rdr f => f.wellFormed 3 [2] true
  | .ack f => f.wellFormed 4 [2] false
  | .barrierArrival f => f.wellFormed 5 [0] false
  | .creditResync f => f.wellFormed 5 [0] false
  | .ucodeAck f => f.wellFormed 5 [0] false
  | .ikiedMgmtMsg f => f.wellFormed 5 [0] false
  | .mcd _ f _ => f.wellFormed 6 [0] true
  | .creditReturn _ _ _ => true
  | .laceRetire _ _ _ => true
  | .laceHandshakeTimeout _ _ _ => true
  | .spareLaceTrained _ _ _ => true
  | .lacLinkRetrain _ => true
  | .lacLinkRetire _ => true
  | .laceRetrainDone _ _ _ _ => true
  | .routerFail _ => true
  | .outstandingPathAbort _ => true
  | .tagQuarantineEnd _ _ => true
  | .distRecompute _ _ _ _ => true
  | .ucieModuleFail _ => true
  | .memWriteAccept _ _ => true
  | .memReadServe _ _ => true
  | .memRequestAge _ => true
  | .memRefresh _ _ _ => true
  | .memPatrolRead da _ => decide (da.toNat % 64 = 0)
  | .memCtrlRetrain _ => true
  | .memRetrainDone _ _ _ _ _ => true
  | .memRowRepair da _ => decide (da.toNat % 64 = 0)
  | .memRetireApply _ _ _ => true
  | .hbmBypassSwitch _ => true
  | .bar2Write _ off bytes => barWrite off bytes (2 ^ 48)
  | .bar2Read _ off len ev => decide (0 < len ∧ len ≤ 4096 ∧ off + len ≤ 2 ^ 48) && eccSlots ev
  | .perstAssert => true
  | .perstDeassert => true
  | .discRsp _ _ => true
  | .discProv _ _ _ _ _ => true
  | .discTimeout _ => true
  | .ucodeRepairRound => true
  | .regionActivate _ => true
  | .startUpReady _ => true
  | .startUpWatchdog => true
  | .flrVf _ => true
  | .flrPf => true
  | .vfEnableClear => true
  | .pcieLinkDown => true
  | .pcieLinkUp speed width => linkSetting speed.val width.val
  | .powerstateD3hot _ => true
  | .nvmeCmdComplete _ _ => true
  | .nvmeCmdTimeout _ => true
  | .vaultSurpriseRemoval => true
  | .eytData _ p => p.wellFormed 1
  | .eytAck _ p => p.wellFormed 2
  | .eytOpen _ p => p.wellFormed 3
  | .eytOpenAck _ p => p.wellFormed 4
  | .eytClose _ p => p.wellFormed 5
  | .eytKeepalive _ p => p.wellFormed 6
  | .eytMove _ p => p.wellFormed 7
  | .eytRreq _ p => p.wellFormed 8
  | .eytRresp _ p => p.wellFormed 9
  | .neighbourDiscovery _ _ _ => true
  | .icmpv6Echo _ _ _ data => decide (8 ≤ data.length ∧ data.length ≤ 9216)
  | .foreignFrame _ => true
  | .eytRtoExpire _ _ => true
  | .carrelFullRetry _ _ => true
  | .eytAckDelay _ => true
  | .eytKeepaliveTimer _ => true
  | .eytSessionDead _ => true
  | .eyeletLinkDown _ => true
  | .eyeletLinkUp _ _ => true
  | .mailboxOwnWrite _ _ _ => true
  | .mailboxCancel _ _ => true
  | .queuedTimeout _ => true
  | .authLockExpire => true
  | .inventory _ => true
  | .errRead _ => true
  | .provRead _ => true
  | .condRead _ => true
  | .mbxAssign _ => true
  | .jobLoad _ => true
  | .jobStart _ => true
  | .jobPause _ => true
  | .jobResume _ => true
  | .jobKill _ => true
  | .killDrainEnd _ => true
  | .jobNormalEnd _ => true
  | .jobStatus _ => true
  | .aperture _ => true
  | .memStatus _ => true
  | .portCfg _ => true
  | .sessOpen _ => true
  | .sessClose _ => true
  | .selftest _ r => decide (r.failUnit.toNat < 2 ^ 24)
  | .pwrLimit _ => true
  | .domain _ => true
  | .clockCap _ => true
  | .thermal _ => true
  | .snapCfgSet _ => true
  | .snapCfgRead _ => true
  | .snapCfgCaps _ => true
  | .snapNowTake _ => true
  | .snapNowArchiveConfirm _ => true
  | .snapNowAbandon _ => true
  | .restore _ => true
  | .pmuCfgLedger _ => true
  | .pmuCfgSlips _ => true
  | .pmuCfgFilter _ => true
  | .pmuCfgBinding _ => true
  | .pmuCfgEvent _ => true
  | .pmuCfgDirectory _ => true
  | .regrd _ => true
  | .regwr _ => true
  | .jobSeqRunWrite _ => true
  | .thmSensDisable _ => true
  | .allowRead _ => true
  | .fwUpdate _ _ => true
  | .licenceInstall _ => true
  | .keyChange _ => true
  | .debugUnlock _ => true
  | .debugUnlockExpire => true
  | .condEditAppend _ => true
  | .condEditClear _ => true
  | .deviceReset _ => true
  | .deviceResetStart => true
  | .pair _ => true
  | .unpair _ => true
  | .debugRead _ => true
  | .debugRelease _ => true
  | .ownerSet _ => true
  | .tapInstruction _ => true
  | .domainPowerGrant _ => true
  | .loadNoticeLeadEnd _ => true
  | .domainSoftStartDone _ _ => true
  | .domainPowerOffDone _ => true
  | .domainGrantTimeout _ => true
  | .domainTrip _ _ => true
  | .feedSuspect _ _ _ _ => true
  | .feedFault _ _ _ _ => true
  | .feedLost _ _ => true
  | .governorPeakTick _ => true
  | .governorSustTick _ _ => true
  | .hbmPgDeassert _ => true
  | .railOutOfRange _ _ => true
  | .freqChangeStart _ => true
  | .freqChangeRestart _ => true
  | .marginWarn _ _ _ => true
  | .stretchLimitExceeded _ _ => true
  | .marginLimitRaise _ => true
  | .vfAgeStep _ _ => true
  | .sensorSample r i _ _ => sensorExists r.val i.val
  | .resetRelease _ => true
  | .snapshotFreezeDone _ => true
  | .snapLayerConfirm _ _ _ => true
  | .snapLayerFail _ _ => true
  | .archiveConfirmTimeout _ => true
  | .healthScoreUpdate => true
  | .suspectEngineTest _ _ _ => true
  | .registrarCoreFail _ => true
  | .hostLaneFault width => decide (width.val ≠ 16) && linkWidth width.val
  | .ledgerHeaderWrite => true
  | .callSlipWrite _ _ _ => true
  | .periodStretch _ _ _ => true
  | .hbmPgAssert _ => true
  | .bar0Write fn off bytes => barWrite off bytes (if fn = 0 then 0x4000000 else 0x200000)
  | .pcieConfigWrite _ _ => true
  | .spdmDoeRequest req => decide (4 ≤ req.length)
  | .pfcPauseFrame _ _ _ => true
  | .preFecBerLimit _ => true
  | .commandComplete _ => true
  | .refLoss => true
  | .refReturn => true
  | .holdoverExpire => true
  | .thermalCheck => true
  | .thermalRelease => true
  | .ledgerLatch => true
  | .powerRemoval => true

end Sys2Proof
end

