-- ==== Sys2Proof/Tests/Slice0.lean ====
section
/-!
SUPPORT. Witnesses: for each statement, concrete states and operands that meet its hypotheses, clause by clause; and small
tests of single commands against the spec's tables.
-/

namespace Sys2Proof
set_option maxRecDepth 100000
set_option Elab.async false
open Sys2Proof.Machine

/-- The decoder reads no word as a command: the table has no bits. -/
theorem test_decode_none : decodeTableWord 128 0 = none := rfl


/-! ## States the tests start from -/

/-- A running device: every power domain ON, core 0 running job 1 with every sequencer enabled and both clusters clocked. -/
def Tests.on : State :=
  let s := State.reset
  let s := { s with power := { s.power with doms := Vector.replicate 30 { PowerDomain.init with state := 1 } } }
  modCore s 0 fun k => { k with st := .running, jobId := 1, seqRun := 0xFFFF, clGate := 0, ungating := 0 }

/-- One instruction in core 0's memory of a sequencer. -/
def Tests.prog (q : SeqId) (w : Word128) (s : State) : State := modSeq s 0 q fun x => { x with imem0 := [(0, w)] }

/-- That sequencer stands at one instruction of a running device. -/
def Tests.one (q : SeqId) (w : Word128) : State := Tests.prog q w Tests.on

/-- An access of core 0 to slot 0. -/
def Tests.acc : Access where
  opnd := 0
  place := .here
  write := false
  addr := 0
  lo := 0
  len := 64
  tm := 0
  prio := 0
  multi := false
  data := []
  poison := false
  phase := .todo

/-- A read of these bytes that has executed. -/
def Tests.read (data : List Byte) (poison : Bool) : Access :=
  { Tests.acc with len := data.length, data := data, poison := poison, phase := .done }

/-- An instruction in flight with no open access. -/
def Tests.fly (w : Word128) (view : SMap Word128) (got : List (List Access)) (notes : List Nat) : InFlight where
  word := w
  view := view
  got := got
  todo := []
  notes := notes

/-- Core 0's sequencer q has this instruction in flight. -/
def Tests.flying (q : SeqId) (y : InFlight) (s : State) : State := modSeq s 0 q fun x => { x with infl := [y] }

/-- A job that holds core 0. -/
def Tests.job : Job where
  id := 1
  state := 4
  cores := [0]
  place := 0
  func := 0
  imageId := 0
  seed := 0
  flags := 0
  tagTmoUs := 100
  shRate := 0
  fcastD := 0
  sets := [20]
  windows := []
  decls := []
  pins := []
  coded := []
  startNs := 0
  lastFault := 0
  killed := false
  normal := false
  draining := false
  hold := []
  aband := false

/-- The device with that job: all sets of core 0 are its own. -/
def Tests.busy (s : State) : State :=
  modCore (modReg s fun r => { r with jobs := [Tests.job] }) 0 fun k => { k with sets := 20 }

/-- Core 0's Stacks changed. -/
def Tests.stk (f : StkState → StkState) (s : State) : State := modStk s 0 f

/-- A flit from core 1 to core 0. -/
def Tests.flit (typ : BitVec 4) (vc : BitVec 2) (data : List Byte) : Flit where
  vc := vc
  typ := typ
  src := 1
  dst := 0
  job := 1
  poison := false
  tm := 0
  mc := false
  eng := 0
  status := 0
  tag := 0
  addr := 0
  route := 0
  aux := 0
  data := data

/-- A descriptor: SA, TM, ROWLEN, ROWS, STRIDE. -/
def Tests.desc (sa tm len rows stride : Nat) : Word128 := BitVec.ofNat 128 (sa + tm * 2 ^ 37 + len * 2 ^ 40 + rows * 2 ^ 64 + stride * 2 ^ 80)

/-- An EYT session of job 1 on port 0, open. -/
def Tests.session : Session where
  num := 5
  dup := false
  job := 1
  auth := false
  key := []
  dscp := 0
  peer := 0
  home := some 0
  initiator := true
  state := 1
  psn := 0
  msg := 0
  unacked := []
  queue := []
  applied := []
  held := []
  lastMsg := 0
  unsent := 0
  ackLow := 0

/-- The device with that session, its port up. -/
def Tests.eyt (x : Session) (s : State) : State :=
  modEye (modEyes s fun e => { e with sessions := [x] }) 0 fun p => { p with state := 1, configured := true }

/-- The host port of a running device: link up, endpoint ready, the PF enabled, its aperture at memory's first byte. -/
def Tests.host (s : State) : State :=
  modReg (modFn (modPcie s fun p => { p with up := true, ready := true, speed := 6, width := 16, flit := true }) 0 fun f => { f with enabled := true })
    fun r => { r with devState := 1 }

/-- A command of this code that mailbox k runs. -/
def Tests.cmd (k : Fin 16) (code : Nat) (payload : List Byte) (s : State) : State :=
  modMb (Tests.host s) k fun m => { m with
    own := true, phase := 2, code := BitVec.ofNat 16 code, plen := BitVec.ofNat 16 payload.length, payload := memWrite [] 0 payload }

/-- A running command on job 1, which holds core 0 and all its sets. -/
def Tests.jobCmd (k : Fin 16) (code : Nat) (payload : List Byte) : State := Tests.cmd k code payload (Tests.busy Tests.on)

/-- A snapshot that the Duplicate holds. -/
def Tests.snap : Snapshot where
  id := 1
  stage := 0
  step := 4
  record := []
  rng := []
  commit := 1
  layers := 7
  data := 1
  trailer := 1
  failed := 0
  trailerRec := []
  replaced := false
  place := 0
  det := false
  half := false
  size := 128
  ranges := 1
  image := []
  dataMsg := none
  trailMsg := none

/-- A RESTORE that reads it back. -/
def Tests.restore : Restore where
  mb := 2
  snap := Tests.snap
  source := 0
  left := [0, 1]
  got := []
  bad := false
  bare := false
  replay := false
  realigned := 0

/-- The snapshot configuration of job 1. -/
def Tests.cfg : SnapCfg where
  job := 1
  imageId := 0
  payload := List.replicate 108 0
  layers := 7
  commit := 1
  steps := 0
  ms := 0
  hthr := 0
  tol := 0
  stage := 0x10000
  stageLen := 0x10000
  ranges := [(0, 64)]
  armed := false
  nowDue := false
  since := 0
  sinceNs := 0
  flying := none
  done := []
  kept := none
  nextId := 1
  arrived := []
  restore := none
  devOver := false

/-- The device with one configuration. -/
def Tests.snaps (x : SnapCfg) (s : State) : State := { s with resil := { s.resil with snaps := [x] } }

/-- A running command on job 1, whose image has SNAP and which has a configuration. -/
def Tests.snapping (k : Fin 16) (code : Nat) (payload : List Byte) : State :=
  modReg (Tests.snaps Tests.cfg (Tests.jobCmd k code payload)) fun r => { r with jobs := [{ Tests.job with flags := 0x10 }] }

/-- A packet of session 5. -/
def Tests.packet (typ : BitVec 4) (payload : List Byte) : Packet where
  typ := typ
  ez := false
  auth := false
  last := false
  retx := false
  session := 5
  psn := 0
  ackPsn := 0
  taddr := 0x080000000000
  elems := 0
  efmt := 0
  msg := 0
  payload := payload
  tag := []

/-- A packet sent and not yet settled. -/
def Tests.unacked : Unacked where
  pkt := Tests.packet 1 (List.replicate 64 7)
  core := some (0, dmaSeq 0)
  tries := 0
  full := 1

/-- A PAIRED device: its Duplicate session is open, with these packets to settle. -/
def Tests.paired (l : List Unacked) (s : State) : State :=
  let s := Tests.eyt { Tests.session with dup := true, unacked := l } s
  { s with flash := { s.flash with pairing := some { session := 5, peer := 0, key := [], base := 0x020000000000, len := 65536, shared := false } } }

/-- What a test finds. -/
def Tests.outcome (pass : Bool) : TestOutcome where
  pass := pass
  tested := 1
  failures := 0
  failUnit := 0
  repaired := false
  marginMin := 0
  durUs := 0
  failBanks := []

/-! ## Sequencers and control instructions -/

theorem witness_StepRunsFront : ({ State.reset with pending := [(.refLoss)] } : State).pending = (.refLoss) :: [] := rfl
theorem witness_StepIdles : State.reset.pending = [] := rfl

theorem witness_StepKeepsSound : ∃ t, State.reset.Sound ∧ step State.reset = .next t := ⟨_, by unfold State.Sound State.Canonical State.Bounded State.LegalModes; decide, rfl⟩

theorem witness_SequencerGoesOn_plain : ∀ e ∈ ([(0x00, mask128 119 0, []), (0x02, mask128 119 0, []), (0x05, mask128 111 32, [0])] :
    List (BitVec 8 × Word128 × List Nat)),
    (Tests.one 0 (instrWord e.1 0)).Offers 0 0 (instrWord e.1 0) e.2.1 e.2.2 ∧
    (Tests.one 0 (instrWord e.1 0)).RunsOn 0 0 ((getSeq (Tests.one 0 (instrWord e.1 0)) 0 0).pc + 1) ∧
    engineIdle (Tests.one 0 (instrWord e.1 0)) 0 0 = true := by
  unfold State.Offers State.RunsOn; decide +kernel

/-- A LOOP of the longest body, once with COUNT 1 and once with COUNT 0; a JMP to itself and one to the half's last instruction. -/
theorem witness_SequencerGoesOn_loop : ∀ w : BitVec 120, w = 0x0FFE_00000001#120 ∨ w = 0x0FFE_00000000#120 →
    (Tests.one 0 (instrWord 0x03 w)).Offers 0 0 (instrWord 0x03 w) (mask128 119 44) [] ∧ fld w 32 12 ≠ 0 ∧
    (getSeq (Tests.one 0 (instrWord 0x03 w)) 0 0).pc + fld w 32 12 < halfLen 0 ∧
    (getSeq (Tests.one 0 (instrWord 0x03 w)) 0 0).loops.length < 4 ∧
    (Tests.one 0 (instrWord 0x03 w)).RunsOn 0 0 ((getSeq (Tests.one 0 (instrWord 0x03 w)) 0 0).pc + 1 + fld w 32 12) := by
  unfold State.Offers State.RunsOn; rintro w (rfl | rfl) <;> decide +kernel
theorem witness_SequencerGoesOn_jmp : ∀ n ∈ ([0, 4095] : List Nat), ∀ w, w = BitVec.ofNat 120 n →
    (Tests.one 0 (instrWord 0x04 w)).Offers 0 0 (instrWord 0x04 w) (mask128 119 32) [] ∧
    (n : Int) = (getSeq (Tests.one 0 (instrWord 0x04 w)) 0 0).pc + sfld w 0 32 ∧ n < halfLen 0 := by
  unfold State.Offers
  intro n h w hw
  subst hw
  revert n
  decide +kernel
theorem witness_SequencerGoesOn_swapi : ∀ s, s = modSeq (Tests.one 0 (instrWord 0x07 0)) 0 0 (fun x => { x with altReady := true }) →
    s.Offers 0 0 (instrWord 0x07 0) (mask128 119 0) [] ∧ (getSeq s 0 0).altReady = true := by
  rintro s rfl; unfold State.Offers; decide +kernel
theorem witness_SequencerGoesOn_halt : ∀ w : BitVec 120, w = 0#120 ∨ w = 0xFFFF#120 →
    (Tests.one 0 (instrWord 0x01 w)).Offers 0 0 (instrWord 0x01 w) (mask128 119 16) [] := by
  unfold State.Offers; rintro w (rfl | rfl) <;> decide +kernel

theorem witness_ControlFaults_reserved : ∀ w : Word128, w = instrWord 0x00 1 ∨ w = instrWord 0x04 0x100000000#120 →
    mayIssue (Tests.one 0 w) 0 0 = true ∧ (getSeq (Tests.one 0 w) 0 0).infl.length < 2 ∧
    (getSeq (Tests.one 0 w) 0 0).pendFault = 0 ∧ fetched (getSeq (Tests.one 0 w) 0 0) = w ∧ w &&& mask128 119 0 ≠ 0 := by
  rintro w (rfl | rfl) <;> decide +kernel
/-- LEN 0; at instruction 1 a body of 4,095, which ends past the half; four levels open. -/
theorem witness_ControlFaults_loop : ∀ e ∈ ([(0#120, []), (0x0FFF_00000000#120, []),
      (0x0001_00000001#120, [⟨9, 1, 1⟩, ⟨9, 1, 1⟩, ⟨9, 1, 1⟩, ⟨9, 1, 1⟩])] : List (BitVec 120 × List LoopLevel)),
    ∀ s, s = modSeq (Tests.one 0 (instrWord 0x03 e.1)) 0 0 (fun x => { x with loops := e.2, pc := 1, imem0 := [(1, instrWord 0x03 e.1)] }) →
    s.Offers 0 0 (instrWord 0x03 e.1) (mask128 119 44) [] ∧
    (fld e.1 32 12 = 0 ∨ halfLen 0 ≤ (getSeq s 0 0).pc + fld e.1 32 12 ∨ 4 ≤ (getSeq s 0 0).loops.length) := by
  unfold State.Offers
  rintro e h s rfl
  revert e
  decide +kernel
/-- A jump to -1 and one to 4,096. -/
theorem witness_ControlFaults_jmp : ∀ w : BitVec 120, w = 0xFFFFFFFF#120 ∨ w = 0x1000#120 →
    (Tests.one 0 (instrWord 0x04 w)).Offers 0 0 (instrWord 0x04 w) (mask128 119 32) [] ∧
    ((getSeq (Tests.one 0 (instrWord 0x04 w)) 0 0).pc + sfld w 0 32 < 0 ∨
      (halfLen 0 : Int) ≤ (getSeq (Tests.one 0 (instrWord 0x04 w)) 0 0).pc + sfld w 0 32) := by
  unfold State.Offers; rintro w (rfl | rfl) <;> decide +kernel
theorem witness_ControlFaults_foreign : (0 : SeqId) ≠ ccSeq ∧
    (Tests.one 0 (instrWord 0x0C 0)).Offers 0 0 (instrWord 0x0C 0) (mask128 119 24 ||| mask128 15 12) [] ∧
    (Tests.one 0 (instrWord 0x0D 0)).Offers 0 0 (instrWord 0x0D 0) (mask128 119 3) [] ∧
    (Tests.one 0 (instrWord 0x0E 0)).Offers 0 0 (instrWord 0x0E 0) 0 [] := by
  unfold State.Offers; decide +kernel
theorem witness_ControlFaults_last : ∀ s, s = modSeq Tests.on 0 0 (fun x => { x with pc := 4095, imem0 := [(4095, 0)] }) →
    s.Offers 0 0 (instrWord 0x00 0) (mask128 119 0) [] ∧ ¬s.RunsOn 0 0 ((getSeq s 0 0).pc + 1) := by
  rintro s rfl; unfold State.Offers State.RunsOn; decide +kernel

theorem witness_FaultStopsSequencer : jobOn (Tests.busy Tests.on) 0 = some Tests.job ∧ Tests.job.killed = false := by decide +kernel

/-- A WELT operand in Stacks: none of its conditions fails, its tag holds it, or its credit. -/
theorem witness_EngineIssues : ∀ e ∈ ([(0#2, false, 16), (1#2, false, 16), (0#2, true, 0)] : List (BitVec 2 × Bool × Nat)),
    ∀ d : Word128, d = (e.1.setWidth 128 <<< 37) ||| (if e.2.1 then 1#128 <<< 36 else 0) →
    ∀ s, s = modSeq (Tests.one 0 (instrWord 0x12 0)) 0 0 (fun x => { x with desc := [(0, d)], credit1 := e.2.2 }) →
    flightOf s 0 0 (instrWord 0x12 0) = none ∧ s.Offers 0 0 (instrWord 0x12 0) 0 [0] ∧
    tagHolds s 0 (opnd s 0 0 0) = (e.1 == 1) ∧ noCredit (getSeq s 0 0) (opnd s 0 0 0) 0 = e.2.1 := by
  unfold State.Offers
  rintro e h d rfl s rfl
  revert e
  decide +kernel

theorem witness_LoadsComplete_dload : ∀ p : Bool, ∀ y, y = Tests.fly (instrWord 0x06 0) [] [[Tests.read (List.replicate 16 1) p]] [] →
    y.got = [[Tests.read (List.replicate 16 1) p]] ∧ (Tests.flying 0 y Tests.on).Landed 0 0 (instrWord 0x06 0) y ∧
    opndPoison [Tests.read (List.replicate 16 1) p] 0 = p := by
  unfold State.Landed
  rintro p y rfl
  revert p
  decide +kernel
theorem witness_LoadsComplete_iload : ∀ p b : Bool, ∀ y, y = Tests.fly (instrWord 0x0E 3) [] [[Tests.read (List.replicate 16 1) p]] [] →
    ∀ s, s = modSeq (Tests.flying ccSeq y Tests.on) 0 3 (fun x => { x with dormant := b }) →
    s.Landed 0 ccSeq (instrWord 0x0E 3) y ∧ opndPoison [Tests.read (List.replicate 16 1) p] 0 = p ∧
    (3 : SeqId) = seqOf (fld (3#120) 0 4) ∧ (3 : SeqId) ≠ ccSeq ∧ (getSeq s 0 3).dormant = b ∧ (getCore s 0).st = .running := by
  unfold State.Landed
  rintro p b y rfl s rfl
  revert p b
  decide +kernel

/-- BARRIER with the job's one core in its mask: an arrival held, and none. -/
theorem witness_BarrierAndFrame_barrier : ∀ w : BitVec 120, w = 0x000001#120 →
    ∀ s, s = Tests.busy (Tests.one ccSeq (instrWord 0x0C w)) →
    s.Offers 0 ccSeq (instrWord 0x0C w) (mask128 119 24 ||| mask128 15 12) [] ∧
    s.RunsOn 0 ccSeq ((getSeq s 0 ccSeq).pc + 1) ∧ fld w 0 12 < 2 ^ jobCores s 0 ∧
    (∀ d ∈ maskCores s 0 (fld w 0 12), noRoute s 0 d.val = false) ∧
    (∃ d ∈ maskCores s 0 (fld w 0 12), (d, w.extractLsb' 16 8) ∉ (getCore s 0).arrivals) ∧
    (∀ t, t = modCore s 0 (fun k => { k with arrivals := [(0, 0)] }) →
      ∀ d ∈ maskCores t 0 (fld w 0 12), (d, w.extractLsb' 16 8) ∈ (getCore t 0).arrivals) := by
  unfold State.Offers State.RunsOn
  rintro w rfl s rfl
  refine ⟨by decide +kernel, by decide +kernel, by decide +kernel, by decide +kernel, by decide +kernel, ?_⟩
  rintro t rfl
  decide +kernel
theorem witness_BarrierAndFrame_frame : (Tests.one ccSeq (instrWord 0x0D 7)).Offers 0 ccSeq (instrWord 0x0D 7) (mask128 119 3) [] ∧
    (Tests.one ccSeq (instrWord 0x0D 7)).RunsOn 0 ccSeq 1 := by
  unfold State.Offers State.RunsOn; decide +kernel
theorem witness_BarrierAndFrame_rest : ∀ s, s = modCore Tests.on 0 (fun k => { k with framePend := some 7, barrier := some (0, [0]) }) →
    (getCore s 0).framePend = some 7 ∧ (getCore s 0).barrier.isSome = true ∧ (getCore s 0).stk.tagTmoUs ≠ 0 ∧
    (getCore s 0).st = .running := by
  rintro s rfl; decide +kernel

/-! ## Stacks -/

/-- An output write of sequencer 0 that stands at the bank: one that passes, and one that waits for a full slot. -/
def Tests.atBank (a : Access) : State := modSeq Tests.on 0 0 fun x => { x with writes := [a] }

theorem witness_BankExecutesAccess_runs : ∀ a, a = { Tests.acc with write := true, data := List.replicate 64 7 } ∨ a = Tests.acc →
    openAt (getSeq (Tests.atBank a) 0 0) 0 = some a ∧ a.place = .here ∧ a.phase = .todo ∧ coreClocked (Tests.atBank a) 0 = true ∧
    frameOwner (frameTable (getCore (Tests.atBank a) 0)) 0 = frameClass 0 ∧
    heldBack (Tests.atBank a) 0 (presentedBefore (getSeq (Tests.atBank a) 0 0) 0) a = false ∧
    localPasses (Tests.atBank a) 0 a = true ∧ isChosen (Tests.atBank a) 0 0 0 (bankOf (Tests.atBank a) 0 a.addr) = true := by
  rintro a (rfl | rfl) <;> decide +kernel
theorem witness_BankExecutesAccess_parks : ∀ a, a = { Tests.acc with tm := 1 } →
    openAt (getSeq (Tests.atBank a) 0 0) 0 = some a ∧ a.place = .here ∧ a.phase = .todo ∧ coreClocked (Tests.atBank a) 0 = true ∧
    frameOwner (frameTable (getCore (Tests.atBank a) 0)) 0 = frameClass 0 ∧
    heldBack (Tests.atBank a) 0 (presentedBefore (getSeq (Tests.atBank a) 0 0) 0) a = false ∧
    localPasses (Tests.atBank a) 0 a = false ∧ localWaiters (Tests.atBank a) 0 (bankOf (Tests.atBank a) 0 a.addr) < 12 := by
  rintro a rfl; decide +kernel
theorem witness_BankExecutesAccess_timeout : ∀ a, a = { Tests.acc with tm := 1, phase := .parked true } →
    openAt (getSeq (Tests.atBank a) 0 0) 0 = some a ∧ a.phase = .parked true ∧ (getCore (Tests.atBank a) 0).stk.tagTmoUs ≠ 0 ∧
    (getCore (Tests.atBank a) 0).st = .running ∧
    (getSeq (modSeq Tests.on 0 0 fun x => { x with st := .waitTag }) 0 0).st = .waitTag := by
  rintro a rfl; decide +kernel

theorem witness_BankExecutesAccess_remote : ∀ r s, r = { flit := Tests.flit 0 1 [], parked := true } →
    s = Tests.stk (fun k => { k with remote := [r] }) Tests.on →
    (getCore s 0).stk.remote[0]? = some r ∧ r.parked = true ∧ (getCore s 0).stk.tagTmoUs ≠ 0 ∧ (getCore s 0).st = .running := by
  rintro r s rfl rfl; decide +kernel

/-- The first slot and the last. -/
theorem witness_StacksUpkeep_patrol : ∀ n : Nat, n = 0 ∨ n = 0x4FFFFFC0 → ∀ s, s = Tests.stk (fun k => { k with patrolAt := n }) Tests.on →
    (BitVec.ofNat 32 n).toNat % 64 = 0 ∧ (BitVec.ofNat 32 n).toNat < stkSize s 0 ∧
    inScrub (getCore s 0).stk (BitVec.ofNat 32 n).toNat = false ∧ targetDown s 0 = false ∧
    (getCore s 0).stk.patrolAt = (BitVec.ofNat 32 n).toNat ∧
    ((BitVec.ofNat 32 n).toNat + 64 < stkSize s 0 ↔ n = 0) := by
  rintro n (rfl | rfl) s rfl <;> decide +kernel
/-- The first bank and the last, with a spare and without. -/
theorem witness_StacksUpkeep_repair : ∀ e ∈ ([(0, 1), (639, 1), (0, 0), (639, 0)] : List (Fin 640 × Nat)),
    ∀ s, s = Tests.stk (fun k => { k with repairPend := [e.1.val], spareC0 := e.2, spareC1 := e.2 }) State.reset →
    (getCore s 0).jobId = 0 ∧ e.1.val ∈ (getCore s 0).stk.repairPend ∧
    (if e.1.val / 32 < 10 then (getCore s 0).stk.spareC0 else (getCore s 0).stk.spareC1) = e.2 := by
  rintro e h s rfl
  revert e
  decide +kernel
theorem witness_StacksUpkeep_retire : ∀ set : Fin 20, ∀ s, s = Tests.stk (fun k => { k with retirePend := 0xFFFFF }) State.reset →
    (getCore s 0).jobId = 0 ∧ bit (getCore s 0).stk.retirePend set.val = true ∧ bit (getCore s 0).stk.insvc set.val = true ∧
    18 < popcount (getCore s 0).stk.insvc := by
  rintro set s rfl
  revert set
  decide +kernel
theorem witness_StacksUpkeep_lost : ∀ s, s = Tests.stk (fun k => { k with retirePend := 1, insvc := 0x3FFFF }) State.reset →
    (getCore s 0).jobId = 0 ∧ bit (getCore s 0).stk.retirePend 0 = true ∧ bit (getCore s 0).stk.insvc 0 = true ∧
    popcount (getCore s 0).stk.insvc ≤ 18 := by
  rintro s rfl; decide +kernel
theorem witness_StacksUpkeep_scrub : ∀ j, j = { Tests.job with state := 6, killed := true } →
    ∀ s, s = modReg (Tests.busy Tests.on) (fun r => { r with jobs := [j] }) →
    findJob s j.id = some j ∧ j.state = 6 ∧ j.draining = false ∧ (∀ d ∈ j.cores, (getCore s d).stk.hold = false) ∧
    (∀ d ∈ j.cores, (getCore s d).st ≠ .lost ∧ (getCore s d).fenced = false) := by
  rintro j rfl s rfl; decide +kernel

/-- FILL and COPY of two rows of 128 bytes. -/
theorem witness_FillCopyWrite : ∀ o : BitVec 8, o = 0x10 ∨ o = 0x11 → ∀ y, y = Tests.fly (instrWord o 0) [(0, Tests.desc 0 0 128 2 256)] [] [] →
    classHasSlot (frameTable (getCore (Tests.flying (dmaSeq 7) y Tests.on) 0)) 7 = true ∧
    (Tests.flying (dmaSeq 7) y Tests.on).Landed 0 (dmaSeq 7) (instrWord o 0) y ∧
    (descrOf (smapGet 0 y.view (fld (0#120) 112 8))).pieces.length = 4 := by
  unfold State.Landed
  rintro o (rfl | rfl) y rfl <;> decide +kernel

/-- A CROPEN record: BASE, LENGTH, and no function, no job but this, no session. -/
def Tests.record (base len : Nat) : List Byte := leBytes 4 base ++ leBytes 4 len ++ List.replicate 24 0

theorem witness_CarrelsOpenAndClose_open : ∀ e ∈ ([(0, 64, false, 0), (0, 64, true, 1), (1, 64, false, 2), (0x50000000, 64, false, 3), (0x1000, 64, false, 4)] :
      List (Nat × Nat × Bool × Nat)), ∀ r l y s, r = Tests.record e.1 e.2.1 → l = [Tests.read r false] →
    y = Tests.fly (instrWord 0x10 0) [] [l] [] →
    s = Tests.stk (fun k => { k with
      carrels := (k.carrels.set 0 { Carrel.init with opened := e.2.2.1 }).set 63 { Carrel.init with
        opened := true, base := 0x1000, length := 64 } }) (Tests.busy (Tests.flying ccSeq y Tests.on)) →
    (0 : Fin 64) = carrelIdx 0 ∧ s.Landed 0 ccSeq (instrWord 0x10 0) y ∧ y.got = [l] ∧ opndPoison l 0 = false ∧ r = opndData l 0 ∧
    ((vget (getCore s 0).stk.carrels 0).opened = true ↔ e.2.2.2 = 1) ∧ (carrelForm r (jobCores s 0) = true ↔ e.2.2.2 = 2) ∧
    (allocEnd s 0 < leAt r 0 4 + leAt r 4 4 ↔ e.2.2.2 = 3) ∧ (carrelOverlap (getCore s 0).stk r = true ↔ e.2.2.2 = 4) := by
  unfold State.Landed
  rintro e h r l y s rfl rfl rfl rfl
  revert e
  decide +kernel
theorem witness_CarrelsOpenAndClose_close : ∀ b : Bool, ∀ s, s = Tests.stk (fun k => { k with
      carrels := k.carrels.set 63 { Carrel.init with opened := b } }) (Tests.one ccSeq (instrWord 0x11 63#120)) →
    (63 : Fin 64) = carrelIdx (63#120) ∧ s.Offers 0 ccSeq (instrWord 0x11 63#120) (mask128 119 6) [] ∧
    (vget (getCore s 0).stk.carrels 63).opened = b ∧ s.RunsOn 0 ccSeq ((getSeq s 0 ccSeq).pc + 1) := by
  unfold State.Offers State.RunsOn
  rintro b s rfl
  revert b
  decide +kernel

/-! ## Lasts -/

theorem witness_LastShapesAndPairs_lcfg : ∀ e ∈ ([(5, true), (5, false), (6, true), (7, true)] : List (Nat × Bool)), ∀ w s, w = BitVec.ofNat 120 e.1 →
    s = modLast (Tests.one (lastSeq 3) (instrWord 0x10 w)) 0 3 (fun x => { x with loadQ := if e.2 then [] else [⟨Plane.init, false⟩] }) →
    s.Offers 0 (lastSeq 3) (instrWord 0x10 w) (mask128 119 3) [] ∧ (6 ≤ fld w 0 3 ↔ 6 ≤ e.1) ∧ lastEmpty s 0 3 = e.2 ∧
    s.RunsOn 0 (lastSeq 3) ((getSeq s 0 (lastSeq 3)).pc + 1) := by
  unfold State.Offers State.RunsOn
  rintro e h w s rfl rfl
  revert e
  decide +kernel
/-- ON: paired already, not declared, the first of the pair, the later of the pair. -/
theorem witness_LastShapesAndPairs_on : ∀ e ∈ ([(true, 8, false), (false, 0, false), (false, 8, false), (false, 8, true)] :
      List (Bool × Nat × Bool)), ∀ s, s = modLast (modLast (modReg (Tests.busy (Tests.one (lastSeq 0) (instrWord 0x15 1)))
        (fun r => { r with jobs := [{ Tests.job with flags := BitVec.ofNat 32 e.2.1 }] })) 0 0 (fun x => { x with paired := e.1 })) 0 1
      (fun x => { x with pairWait := e.2.2 }) →
    s.Offers 0 (lastSeq 0) (instrWord 0x15 1) (mask128 119 1) [] ∧ bit (1#120) 0 = true ∧ (getLast s 0 0).follower = false ∧
    (getLast s 0 0).pairWait = false ∧ (getLast s 0 0).paired = e.1 ∧ dupDeclared s 0 = (e.2.1 == 8) ∧ lastEmpty s 0 0 = true ∧
    (getLast s 0 (partner 0)).pairWait = e.2.2 ∧ s.RunsOn 0 (lastSeq 0) ((getSeq s 0 (lastSeq 0)).pc + 1) ∧ isLeader 0 = true := by
  unfold State.Offers State.RunsOn
  rintro e h s rfl
  revert e
  decide +kernel
theorem witness_LastShapesAndPairs_off : ∀ l : Fin 4, ∀ s, s = modLast (Tests.one (lastSeq l) (instrWord 0x15 0)) 0 l (fun x => { x with paired := true }) →
    s.Offers 0 (lastSeq l) (instrWord 0x15 0) (mask128 119 1) [] ∧ bit (0#120) 0 = false ∧ lastEmpty s 0 l = true ∧
    (getLast s 0 l).paired = true ∧ s.RunsOn 0 (lastSeq l) ((getSeq s 0 (lastSeq l)).pc + 1) ∧
    s.RunsOn 0 (lastSeq (partner l)) ((getSeq s 0 (lastSeq (partner l))).pc + 1) ∧ isLeader l = (l.val % 2 == 0) := by
  unfold State.Offers State.RunsOn
  rintro l s rfl
  revert l
  decide +kernel
theorem witness_LastShapesAndPairs_timeout : ∀ s, s = modLast Tests.on 0 0 (fun x => { x with pairWait := true }) →
    (getLast s 0 0).pairWait = true ∧ (getCore s 0).stk.tagTmoUs ≠ 0 ∧ (getCore s 0).st = .running := by
  rintro s rfl; decide +kernel

theorem witness_LastQueues_loadw : ∀ w y s, w = 0#120 → y = Tests.fly (instrWord 0x11 w) [] [[Tests.read (List.replicate 64 1) false]] [1, 1] →
    s = Tests.flying (lastSeq 0) y Tests.on → s.Landed 0 (lastSeq 0) (instrWord 0x11 w) y ∧
    (∀ x ∈ [Tests.read (List.replicate 64 1) false], x.poison = false) ∧
    queueTurn s 0 (lastSeq 0) (instrWord 0x11 w) [0x11] = true ∧ (getLast s 0 0).loadQ.length < 2 ∧ fld w 98 2 ≠ 3 ∧ fld w 98 2 ≠ 1 := by
  unfold State.Landed
  rintro w y s rfl rfl rfl; decide +kernel
/-- S24 with an index group of four ones: with dense fallback and without. -/
theorem witness_LastQueues_malformed : ∀ b : Bool, ∀ w y s d, w = (1#120 <<< 98) →
    y = Tests.fly (instrWord 0x11 w) [] [[{ Tests.read (List.replicate 64 0xFF) false with opnd := 16 }]] [1, 1] →
    s = modLast (Tests.flying (lastSeq 0) y Tests.on) 0 0 (fun x => { x with fallback := b }) →
    d = opndData [{ Tests.read (List.replicate 64 0xFF) false with opnd := 16 }] 16 →
    s.Landed 0 (lastSeq 0) (instrWord 0x11 w) y ∧ queueTurn s 0 (lastSeq 0) (instrWord 0x11 w) [0x11] = true ∧ fld w 98 2 = 1 ∧
    (getLast s 0 0).fallback = b ∧ (getSeq s 0 (lastSeq 0)).pendFault = 0 ∧
    badGroup d (fld w 100 4) (partRows (getLast s 0 0).shape) (partCols (getLast s 0 0).shape) ≠ none := by
  unfold State.Landed
  rintro b w y s d rfl rfl rfl rfl
  revert b
  decide +kernel
theorem witness_LastQueues_stream : ∀ w y p s, w = (1#120 <<< 83) → p = { Plane.init with serial := 7 } →
    y = Tests.fly (instrWord 0x12 w) [] [[Tests.read (List.replicate 64 1) false]] [0, 0, 7] →
    s = modLast (Tests.flying (lastSeq 0) y Tests.on) 0 0 (fun x => { x with p0 := p }) →
    s.Landed 0 (lastSeq 0) (instrWord 0x12 w) y ∧ bit w 73 = false ∧ queueTurn s 0 (lastSeq 0) (instrWord 0x12 w) [0x12] = true ∧
    (getLast s 0 0).streamQ.length < 2 ∧ planeBySerial (getLast s 0 0) (y.notes.getD 2 0) = some p ∧ p.sp ≠ 3 ∧ fld w 83 7 ≠ 0 := by
  unfold State.Landed
  rintro w y p s rfl rfl rfl rfl; decide +kernel
theorem witness_LastQueues_drain : ∀ o : BitVec 8, o = 0x13 ∨ o = 0x14 → ∀ y s,
    y = Tests.fly (instrWord o 0) [] [[Tests.read (List.replicate 64 1) false]] [0] → s = Tests.flying (lastSeq 0) y Tests.on →
    s.Landed 0 (lastSeq 0) (instrWord o 0) y ∧ queueTurn s 0 (lastSeq 0) (instrWord o 0) [0x13, 0x14] = true ∧
    (getLast s 0 0).drainQ.length < 2 := by
  unfold State.Landed
  rintro o (rfl | rfl) y s rfl rfl <;> decide +kernel

/-- A load, a STREAM, a vector in the array and a DRAIN of one entry. -/
def Tests.last (f : LastState → LastState) : State := modLast Tests.on 0 0 f

theorem witness_LastArray_planeStart : ∀ s, s = Tests.last (fun x => { x with loadQ := [⟨{ Plane.init with serial := 2 }, true⟩] }) →
    coreClocked s 0 = true ∧ (getLast s 0 0).loadQ = [⟨{ Plane.init with serial := 2 }, true⟩] ∧
    planeNeeded s 0 0 true (planeAt (getLast s 0 0) true).serial = false := by
  rintro s rfl; decide +kernel

/-- A STREAM of one vector on plane 0, entry 63. -/
def Tests.stream : StreamJob where
  seq := 1
  plane := false
  needs := 2
  afmt := 3
  acc := false
  half := false
  entry := 63
  gather := false
  count := 1
  next := 0
  pass := 0
  poison := false
  acts := [[List.replicate 128 0]]
  scales := []

theorem witness_LastArray_enter : ∀ x, x = getLast (Tests.last fun x => { x with p0 := { Plane.init with serial := 2 }, streamQ := [Tests.stream] }) 0 0 →
    x.streamQ = Tests.stream :: [] ∧ (planeAt x Tests.stream.plane).serial = Tests.stream.needs ∧ (planeAt x Tests.stream.plane).waits = false ∧
    entryFree x Tests.stream.seq Tests.stream.half (Tests.stream.entry + Tests.stream.next) = true ∧ armed x false = false := by
  rintro x rfl; decide +kernel
theorem witness_LastArray_land : ∀ v f m x, v = { idx := 63 * 512 + 511, bits := 0x3F800000, bad := false } →
    f = { seq := 1, half := false, entry := 63, acc := true, vals := [v], hit := [] } → m = { col := 511, seg := 0, storage := false } →
    x = getLast (Tests.last fun x => { x with arr := [f] }) 0 0 →
    x.arr = f :: [] ∧ f.hit = [] ∧ x.drainQ = [] ∧ f.vals = [v] ∧ misIndex x.shape f.half f.entry m = v.idx := by
  rintro v f m x rfl rfl rfl rfl; decide +kernel

/-- A DRAIN of entry 63. -/
def Tests.drain : DrainJob where
  seq := 2
  drain := true
  half := false
  entry := 63
  count := 1
  next := 0
  fmt := 0
  flag := true
  alpha := 0x3F800000
  descs := [Tests.desc 0 0 64 32 64]
  input := []

theorem witness_LastArray_drain : ∀ s, s = Tests.last (fun x => { x with drainQ := [Tests.drain] }) →
    (getLast s 0 0).drainQ = Tests.drain :: [] ∧ Tests.drain.drain = true ∧
    entryFinal s 0 0 Tests.drain.seq Tests.drain.half (Tests.drain.entry + Tests.drain.next) = true ∧ (getLast s 0 0).paired = false := by
  rintro s rfl; decide +kernel
theorem witness_LastArray_fallback : ∀ b : Bool, ∀ x, x = getLast (Tests.last fun x => setPlane x b { Plane.init with sp := 1, waits := true }) 0 0 →
    (planeAt x b).waits = true ∧ (b = true → x.p0.waits = false) := by
  rintro b x rfl
  revert b
  decide +kernel

/-! ## Awl -/

theorem witness_AwlLoadsMultipliesAndSequences_avld : ∀ o : BitVec 8, o = 0x10 ∨ o = 0x12 → ∀ y s,
    y = Tests.fly (instrWord o 0) [] [[Tests.read (List.replicate 192 1) false]] [] → s = Tests.flying awlSeq y Tests.on →
    s.Landed 0 awlSeq (instrWord o 0) y ∧ (∀ b ∈ [Tests.read (List.replicate 192 1) false], b.poison = false) ∧
    awlTurn s 0 (instrWord o 0) = true ∧ bit (0#120) 0 = false ∧ bit (1#120) 0 = true := by
  unfold State.Landed
  rintro o (rfl | rfl) y s rfl rfl <;> decide +kernel
/-- One row of one BF16 weight against one vector. -/
theorem witness_AwlLoadsMultipliesAndSequences_amv : ∀ w y s od starts, w = (3#120 <<< 84) ||| (3#120 <<< 92) →
    y = Tests.fly (instrWord 0x11 w) [(0, Tests.desc 0 0 64 1 0)] [[Tests.read (List.replicate 64 1) false]] [] →
    s = modAwl (Tests.flying awlSeq y Tests.on) 0 (fun x => { x with lens := x.lens.set 0 1 }) →
    od = descrOf (smapGet 0 y.view (fld w 104 8)) →
    starts = amvVectors (getCore s 0).awl (bit w 73) (fld w 79 5) (fld w 74 5 + 1) (cdiv (fld w 54 16 + 1) vregElems) →
    s.Landed 0 awlSeq (instrWord 0x11 w) y ∧ awlTurn s 0 (instrWord 0x11 w) = true ∧ bit w 89 = false ∧ bit w 88 = false ∧
    fld w 90 2 = 0 ∧ fld w 70 3 = 0 ∧ vregBad (getCore s 0).awl starts (fld w 54 16 + 1) = false ∧
    starts.length * (fld w 32 22 + 1) * (elemBits (fld w 84 4) / 8) ≤ od.bytes := by
  unfold State.Landed
  rintro w y s od starts rfl rfl rfl rfl rfl; decide +kernel
theorem witness_AwlLoadsMultipliesAndSequences_redo : ∀ s, s = modAwl Tests.on 0 (fun x => { x with redo := [⟨0, 0, []⟩] }) →
    (getCore s 0).awl.redo = [⟨0, 0, []⟩] ∧ (getSeq s 0 awlSeq).writes = [] := by
  rintro s rfl; decide +kernel

/-! ## Welts -/

/-- A Welt instruction in flight that has read 1,024 zero bytes for each of eight operands. -/
def Tests.weltFly (w : Word128) (notes : List Nat) : InFlight :=
  Tests.fly w [] [(List.range 8).map fun i => { Tests.read (List.replicate 64 0) false with opnd := i }] notes

/-- WOP with one value per row of two; WCVT between scaled formats; WRED over rows with CARRY; both WSMX; WOPT with ADAM; CFILL and
CEVICT: sources in Stacks and in the cache. -/
theorem witness_WeltComputes : ∀ e ∈ ([(0x10, (2#120 <<< 48) ||| (3#120 <<< 64) ||| 2#120 ||| (3#120 <<< 46), [srcOpnd 0 true 0]),
      (0x11, (32#120 <<< 48), [srcOpnd 0 false 32, dstOpnd 0 false 32]),
      (0x12, (4#120 <<< 64) ||| (2#120 <<< 48) ||| (1#120 <<< 91), [srcOpnd 0 false 4, dstOpnd 0 false 2]),
      (0x13, (2#120 <<< 64) ||| (2#120 <<< 48), [srcOpnd 0 false 2, dstOpnd 0 false 2, dstOpnd 0 false 8]),
      (0x13, (2#120 <<< 64) ||| (2#120 <<< 48) ||| (1#120 <<< 86), [srcOpnd 0 false 16, dstOpnd 0 false 2, dstOpnd 0 false 8]),
      (0x16, (1#120 <<< 44) ||| (1#120 <<< 62), [srcOpnd 0 false 5, srcOpnd 0 false 4]),
      (0x1A, 0#120, [{ idx := 0, cached := false, dst := false, len := none }, { idx := 0, cached := true, dst := true, len := none }]),
      (0x1B, 0#120, [{ idx := 0, cached := false, dst := true, len := none }, { idx := 0, cached := true, dst := false, len := none }])] :
      List (BitVec 8 × BitVec 120 × List WOpnd)), ∀ y a,
    y = Tests.weltFly (instrWord e.1 e.2.1) [0, 0, 0] → a = y.got.getD 0 [] →
    (Tests.flying (weltSeq 1) y Tests.on).WeltHas 0 1 (instrWord e.1 e.2.1) e.2.2 y a := by
  unfold State.WeltHas State.Landed
  rintro e h y a rfl rfl
  revert e
  decide +kernel

/-- WGTH and WSCT of two rows of 64 bytes at the first and the last index of a table of two, and of one beyond it. -/
theorem witness_WeltMovesRowsAndSelects_rows : ∀ o : BitVec 8, o = 0x14 ∨ o = 0x15 → ∀ w y s data,
    w = (64#120 <<< 48) ||| (3#120 <<< 64) → data = leBytes 2 0 ++ leBytes 2 1 ++ leBytes 2 2 ++ List.replicate 58 0 →
    y = Tests.fly (instrWord o w) [(0, Tests.desc 0 0 64 3 64)] [[{ Tests.read data false with opnd := 64 }], [Tests.read (List.replicate 64 1) false]] [] →
    s = Tests.flying (weltSeq 0) y Tests.on →
    s.Landed 0 (weltSeq 0) (instrWord o w) y ∧ y.got.length = 1 + 1 ∧ (∀ b ∈ y.got.getD 1 [], b.poison = false) ∧ bit w 91 = false ∧
    bit w 90 = false ∧ [0, 1, 2].length * fld w 48 16 ≤ (descrOf (smapGet 0 y.view (fld w 112 8))).bytes ∧
    (indexPhase s 0 (descrOf (smapGet 0 y.view (fld w 104 8))) (bit w 92) (if bit w 93 then 4 else 2) (fld w 64 16) y).toOption =
      some ([0, 1, 2], 1, 2 ^ 32) := by
  unfold State.Landed
  rintro o (rfl | rfl) w y s data rfl rfl rfl rfl <;> decide +kernel

theorem witness_WeltMovesRowsAndSelects_shadow : ∀ n : Nat, n = 0 ∨ n = 1 → ∀ y s,
    y = Tests.fly (instrWord 0x17 0) [] [[Tests.read (List.replicate 64 0) false]] [n] → s = Tests.flying (weltSeq 0) y Tests.on →
    s.Landed 0 (weltSeq 0) (instrWord 0x17 0) y ∧ y.notes.getD 0 0 = n ∧ (∀ b ∈ y.got.getD 0 [], b.poison = false) ∧
    (getCore (shadowFinish (dropFlight s 0 (weltSeq 0) (instrWord 0x17 0)) 0 0 0 [0]) 0).num.hardKill = false := by
  unfold State.Landed
  rintro n (rfl | rfl) y s rfl rfl <;> decide +kernel

/-- SELTOP and SELTHR of one row of sixteen BF16 scores with one mask: its header still to write, and written. -/
theorem witness_WeltMovesRowsAndSelects_select : ∀ o : BitVec 8, o = 0x18 ∨ o = 0x19 → ∀ b : Bool, ∀ w y s ds,
    w = (1#120 <<< 103) ||| (1#120 <<< 80) → ds = Tests.desc 0 0 32 1 64 →
    y = Tests.fly (instrWord o w) [(0, ds)] ([[Tests.read (List.replicate 32 0) false], []] ++ if b then [[]] else []) [0] →
    s = Tests.flying (weltSeq 0) y Tests.on →
    s.Landed 0 (weltSeq 0) (instrWord o w) y ∧ (∀ b ∈ y.got.getD 0 [], b.poison = false) ∧ fld w 80 16 ≠ 0 ∧
    y.got.length = (selMasks (descrOf ds).rows ((descrOf ds).rowlen * 8 / elemBits 8) (elemBits 8) 8 none (fld w 64 10 + 1) (bit w 102)
      (fld w 56 8) (fld w 48 8) (fld w 80 16) (if bit w 101 then 4 else 2) (fld w 99 2)
      (cdiv (fld w 64 10 + 1 + fld w 56 8 + fld w 48 8) (fld w 80 16)) 0 (opndData (y.got.getD 0 []) 0)).1.length + (if b then 2 else 1) := by
  unfold State.Landed
  rintro o (rfl | rfl) b w y s ds rfl rfl rfl rfl <;> revert b <;> decide +kernel

theorem witness_WeltControl : ∀ e ∈ ([(0x1C, 0xFFFFFFFF, 33, 119, 120, 0), (0x1C, 2 ^ 32, 33, 31, 0, 0), (0x1D, 2 ^ 32 + 0x1FF, 34, 31, 9, 0),
      (0x1D, 2 ^ 32 + 1, 34, 31, 9, 1), (0x1D, 2 ^ 33, 34, 31, 0, 0)] : List (Nat × Nat × Nat × Nat × Nat × Nat)), ∀ s w m, w = BitVec.ofNat 120 e.2.1 →
    m = (if e.2.2.2.1 = 119 then mask128 119 33 else mask128 119 e.2.2.1 ||| mask128 31 e.2.2.2.2.1) →
    s = modWelt (Tests.one (weltSeq 1) (instrWord (BitVec.ofNat 8 e.1) w)) 0 1 (fun x => { x with sswOr := BitVec.ofNat 9 e.2.2.2.2.2 }) →
    s.Offers 0 (weltSeq 1) (instrWord (BitVec.ofNat 8 e.1) w) m [] ∧ s.RunsOn 0 (weltSeq 1) ((getSeq s 0 (weltSeq 1)).pc + 1) ∧
    engineIdle s 0 (weltSeq 1) = true ∧
    (getWelt s 0 1).sswOr &&& w.extractLsb' 0 9 = BitVec.ofNat 9 e.2.2.2.2.2 := by
  unfold State.Offers State.RunsOn
  rintro e h s w m rfl rfl rfl
  revert e
  decide +kernel
theorem witness_WeltControl_check : ∀ s w, w = 3#120 <<< 32 → s = Tests.one (weltSeq 1) (instrWord 0x1D w) →
    s.Offers 0 (weltSeq 1) (instrWord 0x1D w) (mask128 111 34 ||| mask128 31 9) [] ∧ s.RunsOn 0 (weltSeq 1) ((getSeq s 0 (weltSeq 1)).pc + 1) := by
  unfold State.Offers State.RunsOn
  rintro s w rfl rfl
  decide +kernel
theorem witness_WeltControl_store : ∀ y s, y = Tests.fly (instrWord 0x1D 0) [] [] [] → s = Tests.flying (weltSeq 1) y Tests.on →
    fld (0#120) 32 2 = 0 ∧ s.Landed 0 (weltSeq 1) (instrWord 0x1D 0) y ∧ y.got = [] := by
  unfold State.Landed
  rintro y s rfl rfl; decide +kernel
/-- The first and the last segment, with the spare free and taken. -/
theorem witness_WeltControl_remap : ∀ e ∈ ([(0, 0xF), (7, 0xF), (0, 7), (7, 0)] : List (Fin 8 × BitVec 4)), ∀ s,
    s = modWelt State.reset 0 1 (fun x => { x with permSegs := [e.1.val], spSeg := e.2 }) →
    (getCore s 0).jobId = 0 ∧ e.1.val ∈ (getWelt s 0 1).permSegs ∧ (getWelt s 0 1).spSeg = e.2 := by
  rintro e h s rfl
  revert e
  decide +kernel

/-! ## Tier instructions -/

/-- A DMA instruction in flight whose source of 64 bytes has been read, with what came after it. -/
def Tests.dma (w : Word128) (view : SMap Word128) (rest : List (List Access)) (notes : List Nat) : InFlight :=
  Tests.fly w view ([Tests.read (List.replicate 64 1) false] :: rest) notes

theorem witness_TierInstructionsMove_copies : ∀ e ∈ ([(0x12, 0#120, []), (0x12, 1#120 <<< 95, []), (0x13, 0#120, []), (0x13, 0#120, [[]]),
      (0x15, 0#120, []), (0x15, 0#120, [[]])] : List (BitVec 8 × BitVec 120 × List (List Access))), ∀ y,
    y = Tests.dma (instrWord e.1 e.2.1) [(0, Tests.desc 0 0 64 1 64)] e.2.2 [] →
    (Tests.flying (dmaSeq 7) y Tests.on).Landed 0 (dmaSeq 7) (instrWord e.1 e.2.1) y ∧
    dmaShut (Tests.flying (dmaSeq 7) y Tests.on) 0 = false ∧ y.got.length = 1 + e.2.2.length := by
  unfold State.Landed
  rintro e h y rfl
  revert e
  decide +kernel

/-- A mask header of the index width 2 with this count over so many items. -/
def Tests.mask (count items : Nat) : List Byte :=
  maskHeadBytes { count := count, items := items, width := 2, kind := 0, group := 0, step := 0, first := 0, rsv := false }

/-- XGATHER of the last of 16 items: nothing moved yet, its item read, and all done. -/
theorem witness_TierInstructionsMove_gather : ∀ n : Nat, n = 0 ∨ n = 1 ∨ n = 3 → ∀ y a b head ents,
    a = [{ Tests.read (Tests.mask 1 16) false with opnd := 64 }] → b = [{ Tests.read (leBytes 2 15 ++ List.replicate 62 0) false with opnd := 64 }] →
    y = Tests.fly (instrWord 0x14 0) [(0, Tests.desc 0 0 64 4 64)] (a :: b :: List.replicate n []) [] →
    head = maskHeadOf (opndData a 64) → ents = maskEntries head (opndData b 64) →
    (Tests.flying (dmaSeq 0) y Tests.on).Landed 0 (dmaSeq 0) (instrWord 0x14 0) y ∧ (∀ x ∈ a, x.poison = false) ∧ (∀ x ∈ b, x.poison = false) ∧
    head.bad (descrOf (smapGet 0 y.view (fld (0#120) 96 8))).bytes = false ∧ rising ents = true ∧ (∀ i ∈ ents, i < head.items) ∧
    ents = [15] ∧ (n / 3 + 1 = ents.length ↔ n ≠ 3) ∧ bit (0#120) 91 = false ∧ dmaShut (Tests.flying (dmaSeq 0) y Tests.on) 0 = false := by
  unfold State.Landed
  rintro n (rfl | rfl | rfl) y a b head ents rfl rfl rfl rfl rfl <;> decide +kernel
/-- Its destination outside every set of the job. -/
theorem witness_TierInstructionsMove_gatherFault :
    (itemFault Tests.on 0 (memDescrOf 0) (.inl (descrOf (Tests.desc 0 0 64 4 64))) none).isSome = true := by decide +kernel

/-- ESEND of one packet: still to send, and sent with nothing left to acknowledge. -/
theorem witness_TierInstructionsMove_esend : ∀ b : Bool, ∀ y s,
    y = Tests.dma (instrWord 0x16 0) [(0, 5#128 <<< 48)] (if b then [[]] else []) [0] → s = Tests.eyt Tests.session (Tests.flying (dmaSeq 0) y Tests.on) →
    s.Landed 0 (dmaSeq 0) (instrWord 0x16 0) y ∧ y.notes = [(0#32).toNat] ∧
    findSession s ((smapGet 0 y.view (fld (0#120) 104 8)).extractLsb' 48 24) = some Tests.session ∧
    (parcels (gotStream [Tests.read (List.replicate 64 1) false])).length = 1 ∧ y.got.length = (if b then 2 else 1) ∧
    Tests.session.unacked.length < 4096 ∧ (∀ u ∈ Tests.session.unacked, u.core = some (0, dmaSeq 0) → u.pkt.msg ≠ 0) := by
  unfold State.Landed
  rintro b y s rfl rfl
  revert b
  decide +kernel

/-! ## Lacing -/

/-- A request to core 0's first slot: served, past STK_SIZE, and to a core that is off. -/
theorem witness_LacingRequestsAndAnswers_core : ∀ typ : BitVec 4, typ = 0 ∨ typ = 1 ∨ typ = 2 →
    ∀ f, f = { Tests.flit typ 1 [] with addr := 0x2000000000 } → ∀ g, g = { f with addr := 0x2001FFFFFF } →
    f.dst.toNat = (0 : CoreId).val ∧ 0x80000000 * (0 : CoreId).val + 0x080000000000 ≤ g.addr.toNat * 64 ∧
    g.addr.toNat * 64 < 0x80000000 * ((0 : CoreId).val + 1) + 0x080000000000 ∧
    0x080000000000 ≤ f.addr.toNat * 64 ∧ nodeUp Tests.on (fieldOf Tests.on 0).val = true ∧ targetDown Tests.on 0 = false ∧
    flitSa f < stkSize Tests.on 0 ∧ stkSize Tests.on 0 ≤ flitSa g ∧ coreClocked Tests.on 0 = true ∧ remoteFull Tests.on 0 f = false ∧
    nodeUp State.reset (fieldOf State.reset 0).val = true ∧ targetDown State.reset 0 = true := by
  rintro typ (rfl | rfl | rfl) f rfl g rfl <;> decide +kernel
/-- A request to memory: the first slot, its region up and its domain off. -/
theorem witness_LacingRequestsAndAnswers_memory : ∀ f, f = { Tests.flit 1 1 (List.replicate 64 1) with dst := 12, addr := 0 } →
    12 ≤ f.dst.toNat ∧ f.data.length = 64 ∧ populated Tests.on.tiers (f.addr.toNat * 64) = true ∧ memUp Tests.on (f.addr.toNat * 64) = true ∧
    unitPending Tests.on.tiers (memWhere Tests.on.tiers (f.addr.toNat * 64)) = false ∧ Tests.on.Canonical ∧
    populated State.reset.tiers (f.addr.toNat * 64) = true ∧ memUp State.reset (f.addr.toNat * 64) = false := by
  unfold State.Canonical
  rintro f rfl; decide +kernel
/-- An answer that comes late; one to a transaction, with status OK and with one that faults. -/
theorem witness_LacingRequestsAndAnswers_answer : ∀ st : BitVec 4, st = 0 ∨ st = 3 → ∀ f s, f = { Tests.flit 3 2 (List.replicate 64 1) with status := st } →
    s = modCore (modSeq Tests.on 0 0 fun x => { x with writes := [{ Tests.acc with write := true, place := .remote 1, phase := .sent 0 }] }) 0
      (fun k => { k with txns := [{ tag := 0, flit := Tests.flit 1 1 [] }] }) →
    f.dst.toNat = (0 : CoreId).val ∧ f.typ = 3 ∧ ((getCore Tests.on 0).txns.any fun t => t.tag.toNat == f.tag.toNat) = false ∧
    ((getCore s 0).txns.any fun t => t.tag.toNat == f.tag.toNat) = true ∧ (getSeq s 0 (seqOf (f.tag.toNat / 256))).st ≠ .fault ∧
    (openAccesses (getSeq s 0 (seqOf (f.tag.toNat / 256)))).any (awaits f.tag.toNat) = true := by
  rintro st (rfl | rfl) f s rfl rfl <;> decide +kernel

theorem witness_MessagesArrive_barrier : ∀ f, f = { Tests.flit 5 0 [] with aux := 0xFF01 } →
    f.typ = 5 ∧ fld f.aux 0 8 = 1 ∧ f.dst.toNat = (0 : CoreId).val ∧ f.src.toNat = (1 : CoreId).val ∧ targetDown Tests.on 0 = false ∧
    (getCore Tests.on 0).jobId = f.job ∧ f.job ≠ 0 ∧ ((1 : CoreId), f.aux.extractLsb' 8 8) ∉ (getCore Tests.on 0).arrivals ∧
    (getCore Tests.on 0).barrier = none ∧ targetDown State.reset 0 = true ∧
    (getCore (modCore Tests.on 0 fun k => { k with barrier := some (0xFF, [1]) }) 0).barrier = some (f.aux.extractLsb' 8 8, [1]) := by
  rintro f rfl; decide +kernel
theorem witness_MessagesArrive_rest : ∀ f g h k, f = { Tests.flit 5 0 [] with aux := 2 } → g = { Tests.flit 5 0 [] with aux := 0x1F } →
    h = { Tests.flit 6 0 (List.replicate 64 0) with aux := BitVec.ofNat 64 (15 * 2 ^ 32 + agentPart 0 * 2 ^ 36) } → k = { Tests.flit 5 0 [] with aux := 0x80000000_00000003 } →
    f.typ = 5 ∧ fld f.aux 0 8 = 2 ∧ g.typ = 5 ∧ 0x10 ≤ fld g.aux 0 8 ∧ fld g.aux 0 8 < 0x20 ∧ (vget Tests.on.agents 0).retired = false ∧
    h.typ = 6 ∧ fld h.aux 32 4 = 15 ∧ fld h.aux 36 8 = agentPart 0 ∧ h.poison = false ∧ k.tag.toNat = (0 : Fin 440).val ∧ k.typ = 5 ∧
    fld k.aux 0 8 = 3 ∧ fld k.aux 32 32 ≠ 0 ∧ fld ({ k with aux := 3 } : Flit).aux 32 32 = 0 := by
  rintro f g h k rfl rfl rfl rfl; decide +kernel

/-- Lace 0 of link 0 with so many replays. -/
def Tests.lace (f : LinkDir → LinkDir) : State := modDir Tests.on 0 false f

theorem witness_LacesServe_beats : ∀ n ∈ ([0, 2, 3] : List Nat), ∀ s, s = Tests.lace (fun x => { x with replays := smapSet 0 [] 0 n }) →
    (0 : Fin 23).val < 17 ∧ (vget s.lacing.links 0).failed = false ∧ bit ((vget s.lacing.links 0).dir false).active 0 = true ∧
    smapGet 0 ((vget s.lacing.links 0).dir false).replays 0 = n ∧ ((vget s.lacing.links 0).dir false).errTimes = [] ∧
    1 < clampNat 1 255 (fld s.lacing.errThr 0 8) := by
  rintro n h s rfl
  revert n
  decide +kernel
theorem witness_LacesServe_retire : ∀ x, x = (vget Tests.on.lacing.links 16).dir true →
    (16 : Fin 23).val < 17 ∧ bit x.retired 0 = false ∧ bit x.active 0 = true ∧ popcount (setBit x.active 0 false) + x.training.length < 16 ∧
    (0 : Nat) ∉ x.training ∧ x.spares = 16 :: [17] ∧ bit (setBit x.retired 0 true) 0 = true := by
  rintro x rfl; decide +kernel
theorem witness_LacesServe_rest : ∀ s x, s = Tests.lace (fun x => { x with training := [17], retrain := some 0 }) →
    x = (vget s.lacing.links 0).dir false → (17 : Fin 18).val ∈ x.training ∧ x.retrain = some (0 : Fin 18).val ∧ bit x.retired 0 = false := by
  rintro s x rfl rfl; decide +kernel

theorem witness_RoutersFail : ∀ s, s = modLacing Tests.on (fun x => { x with distGen := 1 }) →
    nodeUp s (fieldOf s 11).val = true ∧ s.lacing.distGen ≠ 0 ∧ (3 : Fin 15).val = (3 : CoreId).val ∧ s.tiers.queue = [] ∧
    (∃ n : CoreId, (regionAt (fieldOf s n).val).isSome = true) ∧
    (vget (modSite s 15 fun x => { x with state := 3 }).sites 15).state = 3 := by
  rintro s rfl; decide +kernel

/-! ## Memory tiers -/

/-- A read of the first slot that waits at its controller. -/
def Tests.req : MemReq where
  id := 3
  from_ := .engine 0 0
  write := false
  addr := 0
  data := []
  poison := false
  prio := 0
  aged := false
  job := 1

theorem witness_MemoryServes : ∀ b : Bool, ∀ r s, r = { Tests.req with write := b, data := if b then List.replicate 64 1 else [] } →
    s = modTiers Tests.on (fun t => { t with queue := [r] }) →
    (s.tiers.queue.find? fun x => x.id == r.id) = some r ∧ behindSlot s.tiers.queue r = false ∧ memServes s r = true ∧ r.write = b ∧
    unitPending s.tiers (memWhere s.tiers r.addr) = false ∧
    (∀ x ∈ s.tiers.queue, x.write = false → x.cls < r.cls → behindSlot s.tiers.queue x = false →
      (memWhere s.tiers x.addr).unitKey ≠ (memWhere s.tiers r.addr).unitKey) ∧ (vget s.tiers.chans 0).state ≠ 3 := by
  rintro b r s rfl rfl
  revert b
  decide +kernel
/-- The same write at a unit that is RETIRE_PENDING. -/
theorem witness_MemoryServes_pending : ∀ r s, r = { Tests.req with write := true, data := List.replicate 64 1 } →
    s = modTiers Tests.on (fun t => { t with queue := [r], regions := vmod t.regions 0 fun q => { q with pend := 0xFFFFFFFFFFFFFFFF } }) →
    memServes s r = true ∧ unitPending s.tiers (memWhere s.tiers r.addr) = true := by
  rintro r s rfl rfl; decide +kernel

/-- The first slot, and the last of the pass. -/
theorem witness_MemoryUpkeep_patrol : ∀ a, a = 0 ∨ a = lastMemSlot Tests.on.tiers → (BitVec.ofNat 48 a).toNat / 64 * 64 = a ∧
    populated Tests.on.tiers a = true ∧ memUp Tests.on a = true ∧ unitRetraining Tests.on.tiers (memWhere Tests.on.tiers a) = false ∧
    unitPending Tests.on.tiers (memWhere Tests.on.tiers a) = false := by
  rintro a (rfl | rfl) <;> decide +kernel
theorem witness_MemoryUpkeep_retrain : ∀ s, s = modChan (modStack Tests.on 15 fun x => { x with retrain := some 31 }) 15 (fun x => { x with state := 1 }) →
    (vget s.tiers.stackList 15).retrain = some (31 : Fin 32).val ∧ (vget s.tiers.chans 15).state = 1 := by
  rintro s rfl; decide +kernel
theorem witness_MemoryUpkeep_repair : ∀ w s, w = memWhere Tests.on.tiers (0#48).toNat →
    s = modTiers Tests.on (fun t => { t with permRows := [(w.unitKey, w.rowKey, 0)] }) →
    w = memWhere s.tiers (0#48).toNat ∧ populated s.tiers (0#48).toNat = true ∧ (∃ e ∈ s.tiers.permRows, e.2.1 = w.rowKey) ∧
    w.rowKey ∉ s.tiers.hpprRows := by
  rintro w s rfl rfl; decide +kernel
theorem witness_MemoryUpkeep_retire : ∀ s, s = modChan (modTiers Tests.on fun t => { t with
      regions := vmod t.regions 7 fun q => { q with pend := 0x8000000000000000 } }) 15 (fun x => { x with state := 2 }) →
    bit (vget s.tiers.regions (regionOf 15)).pend ((15 : Fin 16).val % 2 * 32 + (31 : Fin 32).val) = true ∧
    windowMeets s ((regionOf 15).val * regionBytes) (((regionOf 15).val + 1) * regionBytes) = false ∧
    (vget s.tiers.chans 15).state = 2 ∧ windowMeets s 0x20000000000 0x40000000000 = false ∧ s.flash.pairing = none := by
  rintro s rfl; decide +kernel
theorem witness_MemoryUpkeep_bypass : ∀ s, s = modLacing (modTiers Tests.on fun t => { t with regions := vmod t.regions 0 fun q => { q with state := 3 } })
      (fun x => { x with nodes := x.nodes.set (nodeOfPort 0) 2 (by decide) }) →
    nodeUp s (nodeOfPort (2 * (0 : Fin 8).val)) = false ∧ (vget s.tiers.regions 0).state = 3 ∧
    nodeUp s (bypassPartner (nodeOfPort (2 * (0 : Fin 8).val))) = true ∧ (vget s.lacing.links (bypassLink 0)).failed = false ∧
    (vget s.lacing.links (bypassLink 0)).a.active ≠ 0 ∧ (vget s.lacing.links (bypassLink 0)).b.active ≠ 0 := by
  rintro s rfl; decide +kernel

/-! ## The host port -/

/-- The first byte and the last of a slot of memory, written and read by the PF with no job; a VF without a grant. -/
theorem witness_HostReachesMemory_bar2 : ∀ n : Nat, n = 0 ∨ n = 63 → ∀ s, s = modFn (Tests.host Tests.on) 1 (fun f => { f with enabled := true }) →
    decodes s 0 = true ∧ decodes s 1 = true ∧ (vget s.pcie.fns 0).apBase.toNat * 2 ^ 30 + n = n ∧ n % 64 + 1 ≤ 64 ∧
    n + 1 ≤ apSize (vget s.pcie.fns 0) ∧ stacksCore n = none ∧ hostMemOk s 0 3 n 1 = true ∧ (∀ r ∈ s.tiers.queue, r.addr / 64 ≠ n / 64) ∧
    unitPending s.tiers (memWhere s.tiers n) = false ∧ hostMemOk s 1 3 n 1 = false ∧ hostReadOk s 0 n 1 = true ∧ hostReadOk s 1 n 1 = false := by
  rintro n (rfl | rfl) s rfl <;> decide +kernel
/-- An open Carrel of core 0 that names the PF, its slot empty and its slot full. -/
theorem witness_HostReachesMemory_carrel : ∀ b : Bool, ∀ s, s = { Tests.stk (fun k => { k with
        carrels := k.carrels.set 0 { Carrel.init with opened := true, tmreq := 3, length := 64, hostMask := 1, owner := 1, job := 1 } })
        (modFn (Tests.host Tests.on) 0 fun f => { f with apBase := 0x2000 }) with
      full := if b then [slotOf 0 0] else [] } →
    decodes s 0 = true ∧ (vget s.pcie.fns 0).apBase.toNat * 2 ^ 30 + 0 = 0x080000000000 ∧ stacksCore 0x080000000000 = some 0 ∧
    carrelAt (getCore s 0).stk ((0x080000000000 - 0x080000000000) % 0x80000000) = some 0 ∧
    (carrelMeets s (0x080000000000 / 64 * 64) (decide ((List.replicate 64 (1 : Byte)).length = 64)) (hostWriter s 0)).toOption =
      (if b then none else some (0, 0)) := by
  rintro b s rfl
  revert b
  decide +kernel
theorem witness_HostReachesMemory_bar0 : ∀ b : Bool, ∀ s, s = modMb (Tests.host Tests.on) 0 (fun m => { m with own := b }) →
    decodes s 0 = true ∧ mailboxesServed s = true ∧ (vget s.pcie.fns 0).pba = 0 ∧ (0x40 < 0x10000) ∧ mailboxAt s 0 (0x40 / 0x1000) = some 0 ∧
    (getMb s 0).own = b ∧ 0x40 ≤ 0x40 % 0x1000 ∧ (tableAt 0).2 ≠ 0 := by
  rintro b s rfl
  revert b
  decide +kernel

theorem witness_HostPortEvents : ∀ s, s = modFn (Tests.host Tests.on) 8 (fun f => { f with enabled := true }) →
    s.pcie.up = true ∧ s.pcie.ready = true ∧ (vget s.pcie.fns 0).enabled = true ∧ (vget s.pcie.fns 8).enabled = true ∧
    (vget s.pcie.fns 8).pba = 0 ∧ State.reset.pcie.up = false ∧
    (let t := modPcie s fun p => { p with up := false }
     let u := { t with pins := { t.pins with perst := false } }
     u.pcie.up = false ∧ u.pins.perst = false ∧ domainUp u 28 = true) ∧
    linkWidthOk 16 = true ∧ linkWidthOk (8 : Fin 17).val = true ∧ (8 : Fin 17).val < s.pcie.width.toNat := by
  rintro s rfl; decide +kernel

theorem witness_FunctionsReset : ∀ j s, j = { Tests.job with func := vfOf 7 } →
    s = modReg (modFn (Tests.host Tests.on) (vfOf 7) fun f => { f with enabled := true }) (fun r => { r with jobs := [j] }) →
    (vget s.pcie.fns (vfOf 7)).enabled = true ∧ findJob s 1 = some j ∧ j.func = vfOf 7 ∧ (vget s.pcie.fns 0).enabled = true ∧
    (∀ c ∈ s.resil.snaps, c.restore = none) := by
  rintro j s rfl rfl; decide +kernel

/-- A Write that the vault drive holds. -/
def Tests.nvme : Nvme where
  id := 4
  job := 1
  snap := 0
  trailer := false
  flush := false
  retried := false

theorem witness_VaultCommands : ∀ e ∈ ([(false, false, []), (true, false, []), (false, true, [0]), (false, true, [0, 0])] :
      List (Bool × Bool × List Nat)), ∀ x s, x = { Tests.nvme with retried := e.2.1 } →
    s = modVault Tests.on (fun v => { v with state := 1, wcache := e.1, cmds := [x], resets := e.2.2 }) →
    s.vault.state = 1 ∧ (s.vault.cmds.find? fun y => y.id == x.id) = some x ∧ x.flush = false ∧ s.vault.wcache = e.1 ∧
    x.retried = e.2.1 ∧ (s.reg.time.toNat :: recentTimes s dayNs s.vault.resets).length = 1 + e.2.2.length := by
  rintro e h x s rfl rfl
  revert e
  decide +kernel

/-! ## EYT -/

theorem witness_PacketsApplyOnce_noSession : portUp (Tests.eyt { Tests.session with num := 6 } Tests.on) 0 = true ∧
    findSession (Tests.eyt { Tests.session with num := 6 } Tests.on) (Tests.packet 1 []).session = none ∧ (Tests.packet 1 []).typ = 1 ∧
    (Tests.packet 8 []).typ = 8 := by decide +kernel
/-- DATA: session still opening, a packet with a tag that none needs, one applied before, a LAST out of turn. -/
theorem witness_PacketsApplyOnce_data : ∀ x p, x = { Tests.session with applied := [(0, 8)], state := 1 } → p = Tests.packet 1 (List.replicate 64 7) →
    portUp (Tests.eyt x Tests.on) 0 = true ∧ findSession (Tests.eyt x Tests.on) p.session = some x ∧
    findSession (Tests.eyt { x with state := 0 } Tests.on) p.session = some { x with state := 0 } ∧ authentic x { p with auth := true } = false ∧
    authentic x p = true ∧ (x.applied.find? fun e => e.1 == p.psn) = some (p.psn, 8) ∧ (x.applied.all fun e => e.1 != 1) = true ∧
    before 1 x.ackLow = false ∧ x.held = [] ∧ lastReady x { p with psn := 1, last := true, msg := 7 } = false := by
  rintro x p rfl rfl; decide +kernel
/-- A new slot for an open Carrel of the session: its slot empty and its slot full. -/
theorem witness_PacketsApplyOnce_carrel : ∀ b : Bool, ∀ p s, p = Tests.packet 1 (List.replicate 64 7) →
    s = { Tests.stk (fun k => { k with
        carrels := k.carrels.set 63 { Carrel.init with opened := true, tmreq := 3, length := 64, eys := 5, eysEn := true, owner := 1, job := 1 } })
        (Tests.eyt Tests.session Tests.on) with
      full := if b then [slotOf 0 0] else [] } →
    portUp s 0 = true ∧ findSession s p.session = some Tests.session ∧ authentic Tests.session p = true ∧
    Tests.session.applied = [] ∧ before p.psn Tests.session.ackLow = false ∧ Tests.session.held = [] ∧ p.last = false ∧
    p.ez = false ∧ p.payload.length = 64 ∧ Tests.session.unsent + 1 < 16 ∧
    (carrelMeets s p.taddr.toNat true (fun r => r.eysEn && r.eys == Tests.session.num)).toOption = (if b then none else some (0, 63)) ∧
    (vget (getCore s 0).stk.carrels 63).tmreq = 3 := by
  rintro b p s rfl rfl
  revert b
  decide +kernel

/-- An ACK that covers it and one that does not. -/
theorem witness_PacketsApplyOnce_ack : ∀ x p, x = { Tests.session with unacked := [Tests.unacked] } →
    p = { Tests.packet 2 (List.replicate 8 0) with ackPsn := 1 } →
    findSession (Tests.eyt x Tests.on) p.session = some x ∧ authentic x p = true ∧ x.queue = [] ∧ topSack p = none ∧ x.unacked = [Tests.unacked] ∧
    ackStatus p Tests.unacked.pkt.psn = some 0 ∧ topSack { p with ackPsn := 0 } = none ∧ ackStatus { p with ackPsn := 0 } Tests.unacked.pkt.psn = none := by
  rintro x p rfl rfl; decide +kernel
/-- Read requests for the last slot of the partner's window, past it, and with no pairing. -/
theorem witness_PacketsApplyOnce_rreq : ∀ x p s, x = { Tests.session with dup := true } → p = { Tests.packet 8 (leBytes 8 64) with taddr := 0x3FFFFFC0 } →
    s = modFlash (Tests.eyt x Tests.on) (fun f => { f with pairing := some { session := 5, peer := 0, base := 2 ^ 41, len := 2 ^ 30, key := [], shared := false } }) →
    portUp s 0 = true ∧ findSession s p.session = some x ∧ authentic x p = true ∧ dupWindow s = some (2 ^ 41, 2 ^ 30) ∧
    p.taddr.toNat + leAt p.payload 0 8 ≤ 2 ^ 30 ∧ 2 ^ 30 < 0x40000000 + leAt p.payload 0 8 ∧ dupWindow Tests.on = none ∧ x.home.isSome = true := by
  rintro x p s rfl rfl rfl; decide +kernel

theorem witness_PacketsApplyOnce_rresp : ∀ x p s c r, x = { Tests.session with dup := true } → p = { Tests.packet 9 (List.replicate 64 1) with taddr := BitVec.ofNat 48 (dupBase s false) } →
    c = { Tests.cfg with restore := some Tests.restore } → s = Tests.snaps c (Tests.eyt x Tests.on) →
    r = takeSlots Tests.restore (p.taddr.toNat - dupBase s Tests.restore.snap.half) p →
    findSession s p.session = some x ∧ authentic x p = true ∧ x.dup = true ∧ s.resil.snaps = [c] ∧ c.restore = some Tests.restore ∧
    Tests.restore.source = 0 ∧ Tests.restore.left ≠ [] ∧ x.queue = [] ∧ dupBase s Tests.restore.snap.half ≤ p.taddr.toNat ∧ r.left ≠ [] ∧
    (∀ c ∈ (Tests.eyt x Tests.on).resil.snaps, c.restore = none) := by
  rintro x p s c r rfl hp rfl rfl rfl
  subst hp
  decide +kernel

theorem witness_SessionsLive : ∀ x s, x = { Tests.session with unacked := [Tests.unacked], unsent := 1, state := 0 } → s = Tests.eyt x Tests.on →
    portUp s 0 = true ∧ findSession s (Tests.packet 3 []).session = some x ∧ authentic x (Tests.packet 3 []) = true ∧ x.dup = false ∧ x.state = 0 ∧
    leAt (Tests.packet 3 [0]).payload 0 1 = 0 ∧ leAt (Tests.packet 3 [1]).payload 0 1 ≠ 0 ∧ leAt (Tests.packet 4 [0, 0, 0, 0]).payload 3 1 = 0 ∧
    leAt (Tests.packet 4 [0, 0, 0, 9]).payload 3 1 ≠ 0 ∧ s.flash.pairing = none ∧
    (Tests.packet 6 []).ackPsn = 0 ∧ ({ Tests.packet 6 [] with ackPsn := 1 } : Packet).ackPsn ≠ 0 ∧ x.queue = [] ∧
    (x.unacked.find? fun v => v.pkt.psn == 0) = some Tests.unacked ∧ x.state ≠ 2 ∧
    (∀ v ∈ x.unacked, v.pkt.psn = 0 → v = Tests.unacked) ∧ 0 < Tests.unacked.full ∧ ({ x with state := 1 } : Session).state = 1 ∧ 0 < x.unsent := by
  rintro x s rfl rfl
  decide +kernel

theorem witness_EyeletsServe : ∀ s a, s = Tests.eyt Tests.session Tests.on → a = linkLocal s 0 →
    portUp s 0 = true ∧ ownAddr s 0 a = true ∧ ownAddr s 0 1 = false ∧ (vget s.eyes.ports 0).pfc.toNat ≠ (0 : Fin 8).val + 1 ∧
    (vget (modEye s 0 fun p => { p with pfc := 8 }).eyes.ports 0).pfc.toNat = (7 : Fin 8).val + 1 := by
  rintro s a rfl rfl; decide +kernel
theorem witness_EyeletsServe_up : ∀ s, s = modSite (modEye Tests.on 0 fun p => { p with configured := true }) 8 (fun x => { x with state := 3, role := 2 }) →
    (vget s.eyes.ports 0).configured = true ∧ (vget s.eyes.ports 0).state ≠ 1 ∧ (vget s.eyes.ports 0).state ≠ 3 ∧ eytPresent s = true := by
  rintro s rfl; decide +kernel

/-! ## Mailboxes -/

/-- A mailbox that holds a command posted, queued, running; one that is free. -/
theorem witness_MailboxTakesCommands_owned : ∀ p : BitVec 2, p = 0 ∨ p = 1 ∨ p = 2 → ∀ s, s = modMb (Tests.host Tests.on) 0 (fun m => { m with own := true, phase := p }) →
    decodes s 0 = true ∧ mailboxesServed s = true ∧ mailboxAt s 0 (0 : Fin 16).val = some 0 ∧ (getMb s 0).own = true ∧ bit (1#32) 1 = false ∧
    (getMb s 0).phase = p := by
  rintro p (rfl | rfl | rfl) s rfl <;> decide +kernel
/-- A free mailbox without an owner: during start-up; with CANCEL; an unknown code; a code that it may not carry; ERR_READ with a bad form; NOP and INVENTORY. -/
theorem witness_MailboxTakesCommands_posted : ∀ e ∈ ([(0x00FF, 0), (0x00C2, 1), (0x0003, 2), (0x0001, 3), (0x0002, 3)] : List (BitVec 16 × Nat)),
    ∀ s u, s = modMb (Tests.host Tests.on) 2 (fun m => { m with code := e.1, plen := if e.1 = 2 then 16 else 0 }) →
    u = modMb s 2 (fun m => { m with own := true, cancel := bit (1#32) 1, expert := bit (1#32) 2, phase := 0 }) →
    decodes s 0 = true ∧ mailboxesServed s = true ∧ mailboxAt s 0 (2 : Fin 16).val = some 2 ∧ (getMb s 2).own = false ∧ bit (1#32) 0 = true ∧
    bit (1#32) 1 = false ∧ bit (3#32) 1 = true ∧ takesCommands s = true ∧ takesCommands Tests.on = false ∧
    (knownCodes.contains (getMb u 2).code.toNat = false ↔ e.2 = 0) ∧ (1 ≤ e.2 → (mayCarry u 2 (getMb u 2) = false ↔ e.2 = 1)) ∧
    authenticated s 2 = false ∧ (2 ≤ e.2 → (laterChecks u (getMb u 2) ≠ 0 ↔ e.2 = 2)) ∧ s.reg.resetDue = false ∧ (getMb s 2).aband = false ∧
    (∀ j : Fin 16, j ≠ 2 → (getMb s j).own = false ∨ (getMb s j).phase = 0) := by
  rintro e h s u rfl rfl
  revert e
  decide +kernel
/-- An owned part: locked; a CHECK of zeros is wrong for some key or counter 0 is stale; the eighth failure. -/
theorem witness_MailboxTakesCommands_owner : ∀ e ∈ ([(2, 0), (1, 0), (1, 7)] : List (BitVec 32 × Nat)), ∀ s u, s = modReg (modMb (Tests.host Tests.on) 0 fun m => { m with code := 2 })
      (fun r => { r with ownerState := e.1, fails := e.2 }) →
    u = modMb s 0 (fun m => { m with own := true, cancel := bit (1#32) 1, expert := bit (1#32) 2, phase := 0 }) →
    takesCommands s = true ∧ knownCodes.contains (getMb u 0).code.toNat = true ∧ mayCarry u 0 (getMb u 0) = true ∧ authenticated s 0 = true ∧
    s.reg.ownerState = e.1 ∧ (getMb u 0).counter.toNat ≤ s.reg.lastCtr.toNat ∧ (8 ≤ s.reg.fails + 1 ↔ e.2 = 7) ∧ (getMb u 0).aband = false := by
  rintro e h s u rfl rfl
  revert e
  decide +kernel
/-- A right CHECK with a fresh counter. -/
theorem witness_MailboxTakesCommands_check : ∀ s u m, s = modReg (modMb (Tests.host Tests.on) 0 fun m => { m with
      code := 1, counter := 1
      check := memWrite [] 0 (commandCheck [] { (getMb Tests.on 0) with code := 1, counter := 1 } 1) })
      (fun r => { r with ownerState := 1 }) →
    u = modMb s 0 (fun m => { m with own := true, cancel := bit (1#32) 1, expert := bit (1#32) 2, phase := 0 }) → m = getMb u 0 →
    authenticated s 0 = true ∧ s.reg.ownerState ≠ 2 ∧ commandCheck s.reg.key m 1 = memRead m.check 0 24 ∧ s.reg.lastCtr.toNat < m.counter.toNat ∧
    laterChecks (consume u m) (getMb (consume u m) 0) = 0 := by
  rintro s u m rfl rfl rfl; decide +kernel

theorem witness_CommandsEnd : ∀ s, s = modMb (Tests.cmd 0 2 [] Tests.on) 0 (fun m => { m with result := some (0, [1], 1) }) →
    (getMb s 0).result = some (0, [1], 1) ∧ (getMb s 0).aband = false ∧ (getMb s 1).result = none ∧
    (modReg s fun r => { r with ownerState := 1 }).reg.ownerState ≠ 0 ∧
    (getMb (modMb s 0 fun m => { m with phase := 1 }) 0).own = true ∧ (getMb (modMb s 0 fun m => { m with phase := 1 }) 0).phase = 1 := by
  rintro s rfl; decide +kernel
/-- A lock at its last nanosecond and after it. -/
theorem witness_CommandsEnd_lock : ∀ n : Nat, n = 9999999999 ∨ n = 10000000000 → ∀ s, s = modReg Tests.on (fun r => { r with ownerState := 2, locks := [0], time := BitVec.ofNat 64 n }) →
    s.reg.ownerState = 2 ∧ (s.reg.locks.headD 0 + lockNs s.reg ≤ s.reg.time.toNat ↔ n = 10000000000) := by
  rintro n (rfl | rfl) s rfl <;> decide +kernel

/-! ## The commands -/

/-- Commands that run with an empty payload and are refused: from the PF, and three that only the PF may send, from a VF. -/
theorem witness_CommandsRefuse : ∀ e ∈ ([(0x20, 0, jobLoadAllow), (0x21, 0, jobStartAllow), (0x22, 0, jobIn [4]), (0x23, 0, jobIn [5]),
      (0x24, 0, jobIn [3, 4, 5]), (0x25, 0, jobIn [3, 4, 5, 6]), (0x40, 0, portCfgAllow), (0x41, 0, sessOpenAllow), (0x42, 0, sessCloseAllow),
      (0x50, 0, selftestAllow), (0x61, 0, domainAllow), (0x72, 0, restoreAllow), (0xC7, 0, debugReadAllow), (0x04, 1, provReadAllow),
      (0x30, 1, apertureAllow), (0x05, 1, fun _ m => if m.fn = 0 then 0 else stDenied)] : List (Nat × Fin 9 × (State → Mailbox → BitVec 16))), ∀ s,
    s = modMb (Tests.cmd 1 e.1 [] Tests.on) 1 (fun m => { m with fn := e.2.1 }) →
    running s 1 e.1 = true ∧ e.2.2 s (getMb s 1) ≠ 0 ∧ running s 1 0x63 = false := by
  intro e h s hs
  subst hs
  simp only [List.mem_cons, List.not_mem_nil, or_false] at h
  rcases h with rfl | rfl | rfl | rfl | rfl | rfl | rfl | rfl | rfl | rfl | rfl | rfl | rfl | rfl | rfl | rfl <;> decide +kernel
theorem witness_CommandsRefuse_op : ∀ e ∈ ([(0x70, [0, 0], 1, 0, snapCfgAllow), (0x70, [0, 1], 1, 1, snapConfigured [3, 4, 5]),
      (0x71, [0, 0], 1, 0, snapConfigured [3, 4, 5]), (0x71, [0, 1], 1, 1, archiveAllow), (0x71, [0, 2], 1, 2, abandonAllow),
      (0x80, [0], 0, 0, ledgerAllow), (0xC4, [0], 0, 0, editAllow), (0xC4, [1], 0, 1, clearAllow), (0xC6, [0], 0, 0, pairAllow),
      (0xC6, [1], 0, 1, unpairAllow)] : List (Nat × List Byte × Nat × Nat × (State → Mailbox → BitVec 16))), ∀ s,
    s = Tests.cmd 1 e.1 e.2.1 Tests.on →
    running s 1 e.1 = true ∧ pf (getMb s 1) e.2.2.1 1 = e.2.2.2.1 ∧ e.2.2.2.2 s (getMb s 1) ≠ 0 := by
  intro e h s hs
  subst hs
  simp only [List.mem_cons, List.not_mem_nil, or_false] at h
  rcases h with rfl | rfl | rfl | rfl | rfl | rfl | rfl | rfl | rfl | rfl <;> decide +kernel

/-- INVENTORY with no room, ERR_READ with and without ACK, PROV_READ of the last core, JOB_STATUS, REGRD of one register, ALLOW_READ, DEBUG_READ. -/
theorem witness_CommandsRead : (Tests.cmd 1 0x02 (List.replicate 16 0) Tests.on).Runs 1 0x02 inventoryAllow ∧
    (∀ a : Byte, a = 0 ∨ a = 1 → (Tests.cmd 1 0x03 (List.replicate 8 0 ++ [9, 0, a]) Tests.on).Runs 1 0x03 errReadAllow ∧
      pf (getMb (Tests.cmd 1 0x03 (List.replicate 8 0 ++ [9, 0, a]) Tests.on) 1) 10 1 = a.toNat) ∧
    (Tests.cmd 1 0x04 [1, 11] Tests.on).Runs 1 0x04 provReadAllow ∧ running (Tests.cmd 1 0x05 [] Tests.on) 1 0x05 = true ∧
    (getMb (Tests.cmd 1 0x05 [] Tests.on) 1).fn = 0 ∧ (Tests.jobCmd 1 0x25 [1]).Runs 1 0x25 (jobIn [3, 4, 5, 6]) ∧
    jobNamed (Tests.jobCmd 1 0x25 [1]) (getMb (Tests.jobCmd 1 0x25 [1]) 1) = some Tests.job ∧
    (Tests.cmd 1 0x90 ([1] ++ List.replicate 7 0 ++ leBytes 8 0x0F0000000000) Tests.on).Runs 1 0x90 regrdAllow ∧
    regrdAddrs (getMb (Tests.cmd 1 0x90 ([1] ++ List.replicate 7 0 ++ leBytes 8 0x0F0000000000) Tests.on) 1) = [0x0F0000000000] ∧
    (regAt 0x0F0000000000).isSome = true ∧ countEvent 0x0F0000000000 = none ∧ running (Tests.cmd 1 0x92 [] Tests.on) 1 0x92 = true := by
  unfold State.Runs
  refine ⟨by decide +kernel, ?_, by decide +kernel⟩
  rintro a (rfl | rfl) <;> decide +kernel
theorem witness_CommandsRead_rest : (∀ s, s = Tests.snapping 1 0x70 [1, 1] → pf (getMb s 1) 1 1 = 1 ∧
      s.Runs 1 0x70 (snapConfigured [3, 4, 5]) ∧ jobNamed s (getMb s 1) = some { Tests.job with flags := 0x10 } ∧ findCfg s 1 = some Tests.cfg) ∧
    (∀ s, s = Tests.cmd 1 0x80 [5] Tests.on → pf (getMb s 1) 0 1 = 5 ∧ running s 1 0x80 = true) ∧
    (∀ s, s = modReg (Tests.stk (fun k => { k with hold := true }) (Tests.cmd 1 0xC7 (List.replicate 12 0) Tests.on)) (fun r => { r with
        dbgCores := 1, dbgRights := 2, dbgUntil := 10 }) → s.Runs 1 0xC7 debugReadAllow) ∧
    (64 + (invSections Tests.on Mailbox.init).length ≤ 4032 ∨ 4032 < 64 + (invSections Tests.on Mailbox.init).length) := by
  unfold State.Runs
  refine ⟨?_, ?_, ?_, by omega⟩ <;> (rintro s rfl; decide +kernel)

theorem witness_CommandsSet : (Tests.cmd 0 0x10 [15, 8] Tests.on).Runs 0 0x10 mbxAllow ∧
    (Tests.cmd 0 0x30 (List.replicate 16 0) Tests.on).Runs 0 0x30 apertureAllow ∧ running (Tests.cmd 0 0x31 [1, 7] Tests.on) 0 0x31 = true ∧
    (Tests.cmd 0 0x60 (leBytes 2 3000) Tests.on).Runs 0 0x60 pwrLimitAllow ∧ (Tests.cmd 0 0x62 [14] Tests.on).Runs 0 0x62 clockCapAllow ∧
    running (Tests.cmd 0 0x63 [0, 1] Tests.on) 0 0x63 = true ∧ running (Tests.cmd 0 0x70 [0, 2] Tests.on) 0 0x70 = true ∧
    pf (getMb (Tests.cmd 0 0x70 [0, 2] Tests.on) 0) 1 1 = 2 := by
  unfold State.Runs; decide +kernel
theorem witness_CommandsSet_eyt : ∀ s, s = modSite Tests.on 8 (fun x => { x with state := 3, role := 2 }) →
    (Tests.cmd 0 0x40 [7, 0] s).Runs 0 0x40 portCfgAllow ∧
    (Tests.cmd 0 0x41 (leBytes 4 9 ++ [0, 1] ++ List.replicate 2 0 ++ List.replicate 16 1) (Tests.busy s)).Runs 0 0x41 sessOpenAllow ∧
    (Tests.cmd 0 0x42 (leBytes 4 5) (Tests.eyt Tests.session s)).Runs 0 0x42 sessCloseAllow ∧ Tests.on.flash.pairing = none := by
  unfold State.Runs
  rintro s rfl; decide +kernel

theorem witness_OwnerCommands : (running (Tests.cmd 0 0xC9 [] Tests.on) 0 0xC9 = true ∧ (Tests.cmd 0 0xC9 [] Tests.on).reg.ownerState = 0) ∧
    (modReg (Tests.cmd 0 0xC9 [] Tests.on) fun r => { r with ownerState := 1 }).reg.ownerState ≠ 0 ∧
    running (Tests.cmd 0 0xC2 [] Tests.on) 0 0xC2 = true ∧ running (Tests.cmd 0 0xC0 [] Tests.on) 0 0xC0 = true ∧
    imageVerifies (memRead [] 0 0) = false ∧ running (Tests.cmd 0 0xC1 [] Tests.on) 0 0xC1 = true ∧
    anyPoison { Tests.on with poison := [0] } 0 17120 = true ∧
    running (Tests.cmd 0 0xC3 [1, 0, 1, 0, 1] Tests.on) 0 0xC3 = true ∧ pf (getMb (Tests.cmd 0 0xC3 [1, 0, 1, 0, 1] Tests.on) 0) 4 4 ≠ 0 ∧
    pf (getMb (Tests.cmd 0 0xC3 [] Tests.on) 0) 4 4 = 0 ∧
    (modReg Tests.on fun r => { r with dbgUntil := 5, time := 5 }).reg.dbgUntil ≤ (modReg Tests.on fun r => { r with dbgUntil := 5, time := 5 }).reg.time.toNat ∧
    running (Tests.cmd 0 0xC8 [1, 0] Tests.on) 0 0xC8 = true ∧ (pf (getMb (Tests.cmd 0 0xC8 [1, 0] Tests.on) 0) 0 2).testBit 0 = true ∧
    (getCore (Tests.stk (fun k => { k with hold := true }) Tests.on) 0).stk.hold = true ∧ running (Tests.cmd 0 0xC5 [1] Tests.on) 0 0xC5 = true := by
  decide +kernel
/-- COND_EDIT of the first action and the last, and the CLEAR of the only field entry. -/
theorem witness_OwnerCommands_edit : ∀ a : Byte, a = 1 ∨ a = 13 → (Tests.cmd 0 0xC4 (List.replicate 12 0 ++ [a, 10]) Tests.on).Runs 0 0xC4 editAllow ∧
    (let s := condAppend Tests.on 0 1 10 0 0
     (Tests.cmd 0 0xC4 [1] s).Runs 0 0xC4 clearAllow ∧ pf (getMb (Tests.cmd 0 0xC4 [1] s) 0) 0 1 = 1) := by
  unfold State.Runs
  rintro a (rfl | rfl) <;> decide +kernel

/-- A test port right in force, before and after its first use; none; an unlock whose time is over. -/
theorem witness_TestPort : ∀ b : Bool, ∀ s, s = modReg (Tests.busy Tests.on) (fun r => { r with dbgRights := 4, dbgUntil := 9, tapUsed := b }) →
    bit s.reg.dbgRights 2 = true ∧ s.reg.time.toNat < s.reg.dbgUntil ∧ s.reg.tapUsed = b ∧ findJob s 1 = some Tests.job ∧
    bit Tests.on.reg.dbgRights 2 = false ∧ s.reg.dbgUntil ≠ 0 ∧ s.reg.dbgUntil ≤ (modReg s fun r => { r with time := 9 }).reg.time.toNat ∧
    running (Tests.cmd 0 0xC3 [] s) 0 0xC3 = true ∧ pf (getMb (Tests.cmd 0 0xC3 [] s) 0) 4 4 = 0 := by
  rintro b s rfl
  revert b
  decide +kernel

/-- SNAP_CFG posted under profile G, by an unowned part and with a right CHECK and a fresh counter. -/
theorem witness_ProfileRefuses : ∀ b : Bool, ∀ s u m ctrl, ctrl = 1#32 → s = modReg (modMb (Tests.host Tests.on) 0 fun m => { m with
      code := 0x70, counter := 1
      check := memWrite [] 0 (commandCheck [] { (getMb Tests.on 0) with code := 0x70, counter := 1 } 1) })
      (fun r => { r with ownerState := if b then 1 else 0 }) →
    u = modMb s 0 (fun m => { m with own := true, cancel := bit ctrl 1, expert := bit ctrl 2, phase := 0 }) → m = getMb u 0 →
    s.flash.profile = 1 ∧ decodes s 0 = true ∧ mailboxesServed s = true ∧ mailboxAt s 0 (0 : Fin 16).val = some 0 ∧ (getMb s 0).own = false ∧
    bit ctrl 0 = true ∧ bit ctrl 1 = false ∧ takesCommands s = true ∧ m.code = 0x70 ∧ mayCarry u 0 m = true ∧
    authenticated s 0 = b ∧ (b = true → s.reg.ownerState ≠ 2 ∧ commandCheck s.reg.key m ctrl = memRead m.check 0 24 ∧ s.reg.lastCtr.toNat < m.counter.toNat) := by
  rintro b s u m ctrl rfl rfl rfl rfl
  revert b
  decide +kernel

/-! ## Registers and jobs -/

/-- A REGWR of one entry, core 0 in some STATE. -/
def Tests.regwr (a d m : Nat) (st : CoreSt := .paused) : State :=
  Tests.cmd 1 0x91 ([1] ++ List.replicate 7 0 ++ leBytes 8 a ++ leBytes 8 d ++ leBytes 8 m) (modCore (Tests.busy Tests.on) 0 fun c => { c with st := st })

/-- No entry; an entry that may not be written; and one entry each for a run mask, an injection, the lace controls, MEM_CTRL and a sensor. -/
theorem witness_RegistersWritten : running (Tests.regwr 0 0 0) 1 0x91 = true ∧
    ((regwrEntries (getMb (Tests.regwr 0x0F0000000000 0 0xFF) 1)).zipIdx.find? fun e =>
      regwrCheck (Tests.regwr 0x0F0000000000 0 0xFF) e.1.addr e.1.data e.1.mask != 0) = some (⟨0x0F0000000000, 0, 0xFF⟩, 0) ∧
    regwrEntries (getMb (Tests.cmd 1 0x91 [] Tests.on) 1) = [] := by decide +kernel
theorem witness_RegistersWritten_entries : ∀ e ∈ [(coreBase 0 + 0x10, 3, 0xFFFF), (0x0F0010001020 + 0x40 * 0, 0x40, 0xFF), (0x0F0010001020 + 0x40 * 16, 0xA3, 0xFF), (0x0F0011000040, 0x400 + 31 * 32 + 15, 0x7FF),
      (0x0F0012003200, 0x20000, 0x20000), (0x0F0012003200 + 0x80 * 14, 0, 0x20000)], ∀ s, s = Tests.regwr e.1 e.2.1 e.2.2 →
    running s 1 0x91 = true ∧ regwrEntries (getMb s 1) = [⟨e.1, BitVec.ofNat 64 e.2.1, BitVec.ofNat 64 e.2.2⟩] ∧
    regwrCheck s e.1 (BitVec.ofNat 64 e.2.1) (BitVec.ofNat 64 e.2.2) = 0 := by
  intro e he s hs
  subst hs
  revert e
  decide +kernel
theorem witness_RegistersWritten_injection : ∀ i : Fin 4, ∀ s, s = Tests.regwr (coreBase 0 + 0x900028 + 0x10000 * i.val) 0x1001 0x1FFF .loaded →
    running s 1 0x91 = true ∧ regwrEntries (getMb s 1) = [⟨coreBase 0 + 0x900028 + 0x10000 * i.val, 0x1001, 0x1FFF⟩] ∧
    regwrCheck s (coreBase 0 + 0x900028 + 0x10000 * i.val) 0x1001 0x1FFF = 0 := by
  rintro i s rfl
  revert i
  decide +kernel
theorem witness_RegistersWritten_laces : ∀ n : Fin 23, ∀ d : Bool, bit ((vget Tests.on.lacing.links n).dir d).retired 0 = false ∧
    bit (0xA3 : Word) 5 = true ∧ bit (0xA3 : Word) 7 = true ∧ bit (0xA3 : Word) 6 = false ∧ bit (0x40 : Word) 5 = false ∧ bit (0x40 : Word) 6 = true ∧
    bit (0x7EF : Word) 10 = true ∧ bit (0x7EF : Word) 4 = false ∧ 0 < sensorCount 0 ∧ 0 < sensorCount 14 := by decide +kernel

/-- A directory entry of one entry. -/
def Tests.dir (typ off len : Nat) : List Byte := leBytes 2 typ ++ leBytes 2 0 ++ leBytes 4 1 ++ leBytes 4 off ++ leBytes 4 len

/-- A job image for core 0: one placement, one set, one frame, one instruction of sequencer 0. -/
def Tests.image (flags : Nat) : List Byte :=
  let l := leBytes 4 0x494A5A4E ++ leBytes 2 1 ++ leBytes 2 256 ++ leBytes 8 0 ++ leBytes 8 528 ++ leBytes 8 0 ++ leBytes 8 flags ++
    [1, 1, 1, 0, 0, 4, 0, 0] ++ List.replicate 16 0 ++ Tests.dir 1 256 16 ++ Tests.dir 2 320 4 ++ Tests.dir 3 384 4 ++ Tests.dir 5 448 16 ++
    List.replicate 128 0 ++ [0] ++ List.replicate 11 0xFF ++ List.replicate 52 0 ++ [0, 1] ++ List.replicate 62 0 ++
    leBytes 4 0x87693210 ++ List.replicate 60 0 ++ leBytes 4 0 ++ leBytes 4 16 ++ leBytes 4 512 ++ List.replicate 52 0 ++ List.replicate 16 0
  patch l 0x30 (leBytes 4 (crc32c l).toNat)

/-- A running JOB_LOAD of that image, which stands at the start of HBM, core 0 IDLE. -/
def Tests.load (flags : Nat) : State :=
  let s := modCore Tests.on 0 fun c => { c with st := .idle, jobId := 0, seqRun := 0, fenced := false }
  Tests.cmd 1 0x20 (leBytes 8 0 ++ leBytes 8 528 ++ [0, 0]) { s with mem := cells (Tests.image flags) }

/-- JOB_LOAD of a well-formed image. -/
theorem witness_JobsRun_load : (Tests.load 0).Runs 1 0x20 jobLoadAllow ∧ (getMb (Tests.load 0) 1).aband = false ∧
    freeJobId (Tests.load 0).reg = some 1 ∧ choosePlace (Tests.load 0) (loadImage (Tests.load 0) (getMb (Tests.load 0) 1)) 0 = some 0 := by
  unfold State.Runs
  decide +kernel
/-- JOB_LOAD of an image that declares a feature which profile G disables. -/
theorem witness_ProfileRefuses_load : ∀ s i m, m = getMb (Tests.load 2) 1 → i = loadImage (Tests.load 2) m → s = Tests.load 2 →
    s.flash.profile = 1 ∧ running s 1 0x20 = true ∧ imgFlags i &&& 0x1E ≠ 0 ∧ leAt i 0x10 8 = pf m 8 8 ∧ pf m 17 1 < imgPlaces i ∧ m.fn = 0 ∧
    anyPoison s (pf m 0 8) (pf m 8 8) = false ∧ imageOk s i = true := by
  rintro s i m rfl rfl rfl
  decide +kernel
/-- JOB_START, JOB_PAUSE and JOB_RESUME of job 1 in the STATE each needs, its one sequencer with code. -/
theorem witness_JobsRun : ∀ e ∈ ([(0x21, 3, jobStartAllow), (0x22, 4, jobIn [4]), (0x23, 5, jobIn [5])] :
      List (Nat × BitVec 8 × (State → Mailbox → BitVec 16))), ∀ s j, j = { Tests.job with state := e.2.1, coded := [((0 : CoreId), (0 : SeqId))] } →
    s = modReg (Tests.jobCmd 1 e.1 [1]) (fun r => { r with jobs := [j] }) →
    s.Runs 1 e.1 e.2.2 ∧ jobNamed s (getMb s 1) = some j ∧ j.cores.Nodup := by
  unfold State.Runs
  intro e h s j hj hs
  subst hs hj
  simp only [List.mem_cons, List.not_mem_nil, or_false] at h
  rcases h with rfl | rfl | rfl <;> decide +kernel

/-- A kill of job 1; its drain, with a core held and without; a job that has finished and one that has not. -/
theorem witness_JobsEnd : (findJob (Tests.jobCmd 1 0x24 [1]) 1 = some Tests.job ∧
      jobNamed (Tests.jobCmd 1 0x24 [1]) (getMb (Tests.jobCmd 1 0x24 [1]) 1) = some Tests.job ∧ (Tests.jobCmd 1 0x24 [1]).Runs 1 0x24 (jobIn [3, 4, 5])) ∧
    (∀ h ∈ ([[], [0]] : List (List CoreId)), ∀ j s, j = { Tests.job with state := 6, draining := true, hold := h } →
      s = modReg (Tests.busy Tests.on) (fun r => { r with jobs := [j] }) → findJob s j.id = some j ∧ j.cores.Nodup) ∧
    (∀ b : Bool, ∀ s, s = modSeq (modCore (Tests.busy Tests.on) 0 fun c => { c with seqRun := 0 }) 0 0 (fun x => { x with ran := b, ended := true, st := .halted }) →
      findJob s 1 = some Tests.job ∧ jobFinished s Tests.job = b) := by
  unfold State.Runs
  refine ⟨by decide +kernel, ?_, ?_⟩
  · rintro h hh j s rfl rfl; revert h; decide +kernel
  · rintro b s rfl; revert b; decide +kernel

/-- CLGATE before its write, beside an idle and a busy Last of the cluster; after it, with its clusters up and one still ungating. -/
theorem witness_GatesAndSteps : (∀ b : Bool, ∀ y s, y = Tests.fly (instrWord 0x13 3) [] [] [] →
      s = modSeq (Tests.flying ccSeq y (Tests.busy Tests.on)) 0 0 (fun x => { x with infl := if b then [] else [Tests.fly 0 [] [] []] }) →
      s.Landed 0 ccSeq (instrWord 0x13 3) y ∧ y.got = [] ∧ mayGate s 0 3 = b) ∧
    (∀ b : Bool, ∀ y s, y = Tests.fly (instrWord 0x13 0) [] [[]] [] →
      s = modCore (Tests.flying ccSeq y (Tests.busy Tests.on)) 0 (fun x => { x with ungating := if b then 0 else 1 }) →
      s.Landed 0 ccSeq (instrWord 0x13 0) y ∧ y.got ≠ [] ∧ ((getCore s 0).ungating &&& ~~~(0 : BitVec 2) = 0 ↔ b)) := by
  unfold State.Landed
  constructor <;> (rintro b y s rfl rfl; revert b; decide +kernel)

/-- STEPEND of an image without SNAP; with it: a poisoned record, a core missing, the last arrival with a snapshot due and with none. -/
theorem witness_GatesAndSteps_steps : (∀ s, s = Tests.busy (Tests.one ccSeq (instrWord 0x12 0)) → snapsSteps s 0 = false ∧
      s.Offers 0 ccSeq (instrWord 0x12 0) (mask128 111 0) [fld (0 : BitVec 120) 112 8] ∧ s.RunsOn 0 ccSeq ((getSeq s 0 ccSeq).pc + 1)) ∧
    (∀ p e : Bool, ∀ n : Fin 2, ∀ y l j x s, l = [Tests.read (List.replicate 64 0) p] → y = Tests.fly (instrWord 0x12 0) [] [l] [] →
      j = { Tests.job with flags := 0x10, cores := if e then [0, 1] else [0] } → x = { Tests.cfg with steps := BitVec.ofNat 32 n.val } →
      s = Tests.snaps x (modReg (Tests.flying ccSeq y (Tests.busy Tests.on)) fun r => { r with jobs := [j] }) →
      s.Landed 0 ccSeq (instrWord 0x12 0) y ∧ y.got = [l] ∧ jobOn s 0 = some j ∧ bit j.flags 4 = true ∧ findCfg s j.id = some x ∧
      x.arrived = [] ∧ opndPoison l 0 = p ∧ ((1 : CoreId) ∈ j.cores ↔ e) ∧ (∀ d ∈ j.cores, d = 0 ∨ e) ∧ x.restore = none ∧ x.flying = none ∧
      snapDue s { x with since := x.since + 1 } = (n.val == 1)) := by
  unfold State.Landed State.Offers State.RunsOn
  constructor
  · rintro s rfl; decide +kernel
  · rintro p e n y l j x s rfl rfl rfl rfl rfl; revert p e n; decide +kernel

/-! ## Snapshots -/

/-- A running command on job 1 in a STATE with this configuration, and a window that holds everything. -/
def Tests.snapAt (st : BitVec 8) (x : SnapCfg) (code : Nat) (payload : List Byte) : State :=
  modReg (Tests.snaps x (Tests.jobCmd 1 code payload)) fun r => { r with jobs := [{ Tests.job with
    state := st, flags := 0x10, windows := [{ base := 0, len := 0x100000, rights := 3 }] }] }

/-- A snapshot with its manifest, as a layer keeps it. -/
def Tests.kept (man : List Byte) : Snapshot :=
  { Tests.snap with data := 7, trailer := 7, rng := [], image := memWrite [] 0 (List.replicate 128 0 ++ man) }

/-- SNAP_CFG SET of one range; SNAP_NOW TAKE, its confirmation of data and of the trailer, and ABANDON of a freezing snapshot. -/
theorem witness_SnapshotCommands : (∀ s, s = Tests.snapAt 4 Tests.cfg 0x70 ([1, 0, 7, 1] ++ List.replicate 16 0 ++ leBytes 8 0x10000 ++
        leBytes 8 0x40000 ++ List.replicate 48 0 ++ leBytes 8 1 ++ leBytes 8 0 ++ leBytes 8 64) →
      pf (getMb s 1) 1 1 = 0 ∧ s.Runs 1 0x70 snapCfgAllow ∧ (jobNamed s (getMb s 1)).isSome = true) ∧
    (∀ s, s = Tests.snapAt 4 Tests.cfg 0x71 [1, 0] → pf (getMb s 1) 1 1 = 0 ∧ s.Runs 1 0x71 (snapConfigured [3, 4, 5]) ∧
      findCfg s 1 = some Tests.cfg) ∧
    (∀ b : Bool, ∀ s x f, f = { Tests.snap with stage := 2, data := if b then 4 else 0, trailer := 0, trailerRec := if b then [1] else [] } →
      x = { Tests.cfg with flying := some f } → s = Tests.snapAt 4 x 0x71 [1, 1, 0, 0, 1, 0, 0, 0] → pf (getMb s 1) 1 1 = 1 ∧
      s.Runs 1 0x71 archiveAllow ∧ findCfg s 1 = some x ∧ archiveTarget x (getMb s 1) = some f ∧ awaitsLayer f 2 false = !b ∧ (f.trailerRec = [] ↔ b = false)) ∧
    (∀ s x f, f = { Tests.snap with stage := 1 } → x = { Tests.cfg with flying := some f } →
      s = Tests.snapAt 4 x 0x71 [1, 2, 0, 0, 1, 0, 0, 0] → pf (getMb s 1) 1 1 = 2 ∧ s.Runs 1 0x71 abandonAllow ∧ findCfg s 1 = some x ∧ f.stage = 1) := by
  unfold State.Runs
  refine ⟨?_, ?_, ?_, ?_⟩
  · rintro s rfl; decide +kernel
  · rintro s rfl; decide +kernel
  · rintro b s x f rfl rfl rfl; revert b; decide +kernel
  · rintro s x f rfl rfl rfl; decide +kernel

/-- RESTORE from the Duplicate and from the archive, and a manifest without the magic. -/
theorem witness_SnapshotCommands_restore : ∀ e ∈ ([0, 2] : List Nat), ∀ s x, x = { Tests.cfg with done := [Tests.kept []] } →
    s = Tests.paired [] (Tests.snapAt 3 x 0x72 [1, BitVec.ofNat 8 e, 0]) →
    s.Runs 1 0x72 restoreAllow ∧ pf (getMb s 1) 1 1 = e ∧ findCfg s 1 = some x ∧ restoreSnap x (pf (getMb s 1) 2 1) = some (Tests.kept []) ∧
    (memRead (Tests.kept []).image 128 134).take 4 ≠ ascii "NZSN" ∧ manifestLen 0 1 128 = 134 := by
  unfold State.Runs
  rintro e he s x rfl rfl
  revert e
  decide +kernel

/-- A manifest that checks. -/
theorem witness_SnapshotCommands_manifest : ∀ man, man = manifestOf { Tests.job with flags := 0x10 } Tests.cfg { Tests.snap with rng := [] } [] →
    memRead (Tests.kept man).image 128 134 = man ∧ man.take 4 = ascii "NZSN" ∧ leAt man 4 8 = Tests.job.imageId.toNat ∧
    man.drop (134 - 24) = (hmac384 (snapKey Tests.cfg) (man.take (134 - 24))).take 24 ∧
    ((List.range (chunkCount 128)).all fun i => (chunkCrc (Tests.kept man).image 128 i).toNat == leAt man (90 + 16 + 4 * i) 4) = true := by
  rintro man rfl
  decide +kernel

/-- A freeze of a range with and without poison. -/
theorem witness_SnapshotEvents_freeze : ∀ b : Bool, ∀ s x f y, y = { Tests.job with flags := 0x10 } → f = { Tests.snap with stage := 1, size := 64 } →
    x = { Tests.cfg with flying := some f } → s = { Tests.snapAt 4 x 0 [] with poison := if b then [0] else [] } →
    findCfg s 1 = some x ∧ (findJob s 1).isSome = true ∧ y.cores ≠ [] ∧ (x.ranges.any fun r => anyPoison s r.1 r.2) = b ∧ x.ranges = [(0, 64)] := by
  rintro b s x f y rfl rfl rfl rfl
  revert b
  decide +kernel
theorem witness_SnapshotEvents_canonical : (Tests.snapAt 4 Tests.cfg 0 []).Canonical := by unfold State.Canonical; decide +kernel

/-- A data and a trailer confirmation of the Duplicate that have come, and that have not. -/
theorem witness_SnapshotEvents_confirm : ∀ t b : Bool, ∀ s x f, f = { Tests.snap with
      stage := 2, data := if t then 1 else 0, trailer := 0, trailerRec := if t then [1] else [], dataMsg := some 3, trailMsg := some 3 } →
    x = { Tests.cfg with flying := some f } →
    s = Tests.paired (if b then [] else [{ Tests.unacked with pkt := { Tests.packet 1 [] with msg := 3 } }]) (Tests.snapAt 4 x 0 []) →
    findCfg s 1 = some x ∧ (x.inOrder.find? fun g => awaitsLayer g 0 t) = some f ∧ layerSettled s 1 f 0 t = b ∧ x.flying = some f ∧
    (t = true → (f.data &&& setBit f.trailer 0 true &&& f.commit) = f.commit) ∧ (f.trailerRec = [] ↔ t = false) ∧ x.arrived = [] := by
  rintro t b s x f rfl rfl rfl
  revert t b
  decide +kernel

/-- A layer that fails: outside COMMIT; in it, with another to replace it and with none; one that has failed; the archive awaited. -/
theorem witness_SnapshotEvents_fail : ∀ e ∈ ([(7, 2, 0), (7, 1, 0), (1, 1, 0), (7, 1, 1)] : List (Nat × Nat × Nat)), ∀ s x f, f = { Tests.snap with
      stage := 2, layers := BitVec.ofNat 3 e.1, commit := BitVec.ofNat 3 e.2.1, failed := BitVec.ofNat 3 e.2.2, data := 0, trailer := 0 } →
    x = { Tests.cfg with flying := some f } → s = Tests.snapAt 4 x 0 [] → findCfg s 1 = some x ∧ f.stage ≠ 1 ∧
    bit f.failed 0 = (e.2.2 == 1) ∧ bit f.layers 0 = true ∧ awaitsLayer f 2 false = (e.1 == 7) ∧ bit f.commit 0 = (e.2.1 == 1) ∧
    (bit f.commit 0 = true → (layersIn f.layers).find? (fun l => !bit (setBit f.failed 0 true) l && !bit f.commit l) =
      if e.1 = 7 then some 1 else none) := by
  rintro e he s x f rfl rfl rfl
  revert e
  decide +kernel

/-! ## The performance monitor, health and tests -/

/-- A running device whose ledger has two records and whose slip ring has two, at 64 KiB. -/
def Tests.rings (w : Option (Nat × List Byte)) (lat : Nat) (s : State) : State :=
  modPmu s fun p => { p with
    ledEn := true, ledRecs := 2, writing := w, slipRecs := 2, slipBase := 2
    slipCtrl := Vector.replicate 12 (BitVec.ofNat 64 (0xFFFF + lat * 2 ^ 32)) }

/-- PMU_CFG: the ledger with two records, the slips of all cores and of one, a filter, a binding, an event. -/
theorem witness_PerformanceMonitor : ∀ e ∈ ([(0, ledgerAllow), (1, slipsAllow)] : List (Nat × (State → Mailbox → BitVec 16))), ∀ n : Byte, n = 0xFF ∨ n = 11 →
    ∀ s, s = Tests.cmd 1 0x80 ([BitVec.ofNat 8 e.1, 0, 0, 0, n, 0, 0, 0] ++ List.replicate 12 0 ++ [2, 0]) Tests.on →
    s.Runs 1 0x80 e.2 ∧ pf (getMb s 1) 0 1 = e.1 ∧ pf (getMb s 1) 4 1 = n.toNat := by
  unfold State.Runs
  intro e h n hn s hs
  subst hs
  simp only [List.mem_cons, List.not_mem_nil, or_false] at h
  rcases h with rfl | rfl <;> rcases hn with rfl | rfl <;> decide +kernel
theorem witness_PerformanceMonitor_op : ∀ e ∈ ([2, 3, 4] : List Nat), ∀ s, s = Tests.cmd 1 0x80 [BitVec.ofNat 8 e, 0, 0, 0, 1, 0] Tests.on →
    running s 1 0x80 = true ∧ pf (getMb s 1) 0 1 = e ∧ smapWf Counter.init s.pmu.counters = true ∧ (ledgerEntry 1).isSome = true := by
  rintro e he s rfl
  revert e
  decide +kernel

/-- A latch while a record is being written and while none is, and with the ledger off; a slip above MINLAT, one below, and none asked for. -/
theorem witness_PerformanceMonitor_events : (∀ w, w = none ∨ w = some (0, []) → ∀ s, s = Tests.rings w 0 Tests.on → s.pmu.ledEn = true ∧
      2 ≤ s.pmu.ledRecs.toNat ∧ (vget s.power.doms 25).state = 1 ∧ s.pmu.writing = w ∧ Tests.on.pmu.ledEn = false) ∧
    (∀ n : Fin 2, ∀ s, s = Tests.rings none n.val (Tests.busy Tests.on) → bit (vget s.pmu.slipCtrl 0) 15 = true ∧ s.pmu.slipRecs ≠ 0 ∧
      (getCore s 0).jobId ≠ 0 ∧ fld (vget s.pmu.slipCtrl 0) 32 24 = n.val ∧ bit (vget Tests.on.pmu.slipCtrl 0) 15 = false) := by
  constructor
  · rintro w (rfl | rfl) s rfl <;> decide +kernel
  · rintro n s rfl; revert n; decide +kernel

/-- A SELFTEST of an idle core, passed and failed, and of a memory stack. -/
theorem witness_HealthAndTests : ∀ b : Bool, ∀ t : Fin 2, ∀ s, s = modCore (Tests.cmd 1 0x50 [BitVec.ofNat 8 (7 * t.val), 0] Tests.on) 0 (fun c => { c with
      st := .idle, jobId := 0 }) → s.Runs 1 0x50 selftestAllow ∧ pf (getMb s 1) 0 1 = 7 * t.val ∧ (getMb s 1).expert = false ∧ (Tests.outcome b).pass = b ∧
      (Tests.outcome b).failBanks = [] := by
  unfold State.Runs
  rintro b t s rfl
  revert b t
  decide +kernel
/-- A SUSPECT Last, Welt and AWL Unit of an idle core; one of a core with a job; a Registrar core in service and not; READY and not. -/
theorem witness_HealthAndTests_rest : (∀ e : Fin 7, ∀ s, s = modAwl (modWelt (modWelt (modLast (modLast (modCore Tests.on 0 fun c => { c with
        st := .idle, jobId := 0 }) 0 0 fun x => { x with suspect := true }) 0 3 fun x => { x with suspect := true }) 0 0 fun x => { x with
        suspect := true }) 0 1 fun x => { x with suspect := true }) 0 (fun x => { x with suspect := true }) →
      (getCore s 0).jobId = 0 ∧ (getCore s 0).st = .idle ∧ engineSuspect s 0 e = !(e == 1 || e == 2)) ∧ (getCore Tests.on 0).jobId ≠ 0 ∧
    (∀ b : Bool, ∀ s, s = modReg (Tests.cmd 3 0x90 [] Tests.on) (fun r => { r with cores := #v[true, b, true, true] }) →
      vget s.reg.cores 1 = b ∧ (getMb s 3).own = true ∧ (getMb s 3).phase = 2 ∧ (getMb s 3).result = none ∧
      ((allFin 4).filter (fun i => vget s.reg.cores i))[3 % ((allFin 4).filter fun i => vget s.reg.cores i).length]? = some (if b then 3 else 0)) ∧
    (Tests.host Tests.on).reg.devState = 1 ∧ Tests.on.reg.devState ≠ 1 := by
  refine ⟨?_, by decide +kernel, ?_, by decide +kernel⟩
  · rintro e s rfl; revert e; decide +kernel
  · rintro b s rfl; revert b; decide +kernel

/-! ## Starts, sites, agents, pairs -/

/-- The device held in reset with a boot image in slot A, or with none. -/
def Tests.held (good : Bool) : State :=
  let f := State.reset.flash
  { State.reset with flash := { f with slotA := { f.slotA with valid := good }, slotB := { f.slotB with valid := false }, pending := none, fwCtr := 0, active := false } }

/-- A device that starts up: its domains are ON. -/
def Tests.booting : State :=
  let s := Tests.on
  modReg { s with pins := { s.pins with perst := false } } fun r => { r with devState := 0 }

/-- PERST# at both levels, with an image and with none. -/
theorem witness_StartsAndResets : ∀ b : Bool, ∀ s, s = Tests.held b → s.pins.perst = true ∧ Tests.booting.pins.perst = false ∧
    (vget s.power.doms 25).latched = false ∧ s.flash.pending = none ∧ slotPasses s.flash s.flash.active = b ∧
    (∀ d : Fin 30, (vget s.power.doms d).latched = false) ∧ slotPasses s.flash true = false ∧ slotPasses s.flash false = b := by
  rintro b s rfl
  revert b
  decide +kernel
/-- START_UP_READY with EDN and without; the watchdog with a good other slot; a core that waits in reset. -/
theorem witness_StartsAndResets_ready : ∀ b : Bool, ∀ s, s = modCore (modSite Tests.booting 0 fun x => { x with state := if b then 3 else 0 }) 0 (fun c => { c with
      st := .reset, jobId := 0 }) → s.reg.devState = 0 ∧ s.pins.perst = false ∧ (∀ d : Fin 30, d = 24 ∨ d = 25 ∨ d = 28 → domainUp s d = true) ∧
    (∀ c, coreWaits s c = false) ∧ ((∃ u : Fin 16, u.val < 8 ∧ ((vget s.sites u).state = 3 ∨ (vget s.sites u).state = 4)) ↔ b) ∧
    (∃ c, (getCore s c).st = .reset ∧ domainUp s (coreDomain s c) = true ∧ domainUp s (stkDomain s c) = true) ∧
    (getCore s 0).st = .reset ∧ (getCore s 0).jobId = 0 ∧ (getCore s 0).stk.hold = false ∧ domainUp s (coreDomain s 0) = true ∧
    domainUp s (stkDomain s 0) = true ∧ domainUp s 29 = true ∧ (vget s.power.doms 26).latched = false := by
  rintro b s rfl
  revert b
  decide +kernel
theorem witness_StartsAndResets_other : ∀ s, s = { Tests.booting with flash := { Tests.booting.flash with
      slotB := { Tests.booting.flash.slotB with valid := true }, pending := none, fwCtr := 0, active := false } } →
    s.flash.pending = none ∧ slotPasses s.flash (!s.flash.active) = true ∧ (modReg s fun r => { r with resetDue := true }).reg.resetDue = true ∧
    s.reg.resetDue = false ∧ (∀ k, (getMb s k).code = 0xC5 → (getMb s k).result = none) ∧ Tests.on.reg.devState = 0 ∧ (Tests.host Tests.on).reg.devState ≠ 0 := by
  rintro s rfl; decide +kernel

/-- A discovery answer whose role fits and one that does not, the first and the last timeout; provenance answers 1 and 8, the record good and bad. -/
theorem witness_SitesAgentsPairs : siteUp Tests.on 0 = true ∧ (vget Tests.on.sites 0).state = 0 ∧ (vget Tests.on.sites 0).tries < 2 ∧
    roleFits 0 (fld (1 : Word) 0 4) = true ∧ roleFits 0 (fld (2 : Word) 0 4) = false ∧ roleFits 15 (fld (3 : Word) 0 4) = true ∧
    (vget (modSite Tests.on 0 fun x => { x with tries := 2 }).sites 0).tries = 2 := by decide +kernel
theorem witness_SitesAgentsPairs_prov : ∀ b : Bool, ∀ r s l, r = [2] ++ List.replicate 59 0 →
    s = modSite Tests.on 0 (fun x => { x with state := 1, prov := (List.range 7).map fun i => (i, BitVec.ofNat 64 (leAt r (8 * i) 8)) }) →
    l = (7, BitVec.ofNat 64 (leAt (r ++ leBytes 4 ((crc32c r).toNat + if b then 0 else 1)) 56 8)) :: (vget s.sites 0).prov.filter (fun p => p.1 != 7) →
    (vget s.sites 0).state = 1 ∧ l.length = 8 ∧ leAt (siteRecord { vget s.sites 0 with prov := l }) 0 1 = 2 ∧
    provGood (siteRecord { vget s.sites 0 with prov := l }) = b := by
  rintro b r s l rfl rfl rfl
  revert b
  decide +kernel
/-- Agents that miss nothing, miss packets in their first and their last round, and are retired; regions whose agents all have their part. -/
theorem witness_SitesAgentsPairs_agents : (∀ n : Fin 4, ∀ i : Fin 2, ∀ s, s = modAgent (Tests.host Tests.on) (if i = 0 then 0 else 439) (fun a => { a with
      missing := [3], rounds := n.val }) → (vget s.agents (if i = 0 then 0 else 439)).retired = false ∧
      (vget s.agents (if i = 0 then 0 else 439)).missing ≠ [] ∧ (vget s.agents (if i = 0 then 0 else 439)).rounds = n.val ∧ s.reg.devState ≠ 0) ∧
    (vget Tests.on.agents 5).missing = [] ∧
    (∀ r : Fin 15, r = 0 ∨ r = 13 → (∃ i : Fin 440, agentRegion i = r.val ∧ (vget Tests.on.agents i).retired = false ∧
        (vget Tests.on.agents i).parts.contains (agentPart i) = false)) := by
  refine ⟨?_, by decide +kernel, ?_⟩
  · rintro n i s rfl; revert n i; decide +kernel
  · rintro r (rfl | rfl)
    · exact ⟨0, by decide +kernel⟩
    · exact ⟨439, by decide +kernel⟩
theorem witness_SitesAgentsPairs_region : ∀ s, s = { Tests.on with agents := Vector.replicate 440 { vget Tests.on.agents 0 with parts := List.range 10 } } →
    ∀ i : Fin 440, (vget s.agents i).parts.contains (agentPart i) = true := by
  rintro s rfl i
  have h : agentPart i < 10 := by unfold agentPart; dsimp only; repeat' split
                                  all_goals omega
  simp [vget, h]

/-- PAIR of a window that nothing holds; UNPAIR with no PAIR waiting. -/
theorem witness_SitesAgentsPairs_pair : (∀ s, s = Tests.cmd 1 0xC6 ([0, 0, 0, 0] ++ leBytes 4 5 ++ List.replicate 16 1 ++ leBytes 8 0x020000000000 ++
        leBytes 8 65536) (modSite Tests.on 8 fun x => { x with state := 3, role := 2 }) →
      s.Runs 1 0xC6 pairAllow ∧ pf (getMb s 1) 0 1 = 0 ∧ s.flash.pairing = none) ∧
    (∀ s, s = Tests.paired [] (Tests.cmd 1 0xC6 [1] Tests.on) → pf (getMb s 1) 0 1 = 1 ∧ running s 1 0xC6 = true ∧ s.flash.pairing.isSome = true ∧
      ∀ i, pairWaits (getMb s i) = false) := by
  unfold State.Runs
  constructor <;> (rintro s rfl; decide +kernel)

/-! ## Power -/

/-- One domain of a running device changed. -/
def Tests.dom (d : Fin 30) (f : PowerDomain → PowerDomain) (s : State) : State :=
  modPower s fun w => { w with doms := vmod w.doms d f }

/-- DOMAIN for a domain ON and OFF, asked on and off: the first core's, whose Stacks are up. -/
theorem witness_DomainPower : ∀ on up : Bool, ∀ s, s = modCore (Tests.dom 11 (fun x => { x with state := if up then 1 else 0 })
      (Tests.cmd 1 0x61 [11, if on then 1 else 0] Tests.on)) 0 (fun c => { c with jobId := 0 }) →
    s.Runs 1 0x61 domainAllow ∧ finOf 30 (by decide) (pf (getMb s 1) 0 1) = 11 ∧ (pf (getMb s 1) 1 1 = 1 ↔ on) ∧
    ((vget s.power.doms 11).state = 1 ↔ up) ∧ ((vget s.power.doms 11).state = 0 ↔ up = false) := by
  unfold State.Runs
  rintro on up s rfl
  revert on up
  decide +kernel
/-- A request for core 0's domain: waiting with room and without, granted, its lead time over. -/
theorem witness_DomainPower_requests : ∀ g l r : Bool, ∀ s, s = modPower (Tests.dom 0 (fun x => { x with state := 0 }) Tests.on) (fun w => { w with
      requests := [⟨0, false, g, l, some 1⟩], peakW := if r then 3400 else 0 }) →
    ((waitingRequests s.power).head?.any (fun r => r.dom == (0 : Fin 30)) = !g) ∧ packageRoom s.power 0 = (r || decide (g = true ∧ r = true)) ∧
    (r = true → feedRoom s.power 0 = true) ∧ mayRise s 0 = true ∧ (s.power.requests.any fun r => r.dom == (0 : Fin 30) && r.granted && !r.leadDone) = (g && !l) ∧
    (s.power.requests.find? fun r => r.dom == (0 : Fin 30) && r.leadDone) = (if l then some ⟨0, false, g, l, some 1⟩ else none) ∧
    (s.power.requests.find? fun r => r.dom == (0 : Fin 30) && !r.granted) = (if g then none else some ⟨0, false, g, l, some 1⟩) := by
  rintro g l r s rfl
  revert g l r
  decide +kernel
/-- A command that waits on its domain; domains of a core and of Stacks going off, with the core's job there and gone. -/
theorem witness_DomainPower_off : (∀ s, s = waits (Tests.cmd 1 0x61 [0, 0] Tests.on) 1 → waitsOn s 1 0x61 = true ∧ pf (getMb s 1) 0 1 = 0 ∧ pf (getMb s 1) 1 1 = 0) ∧
    (∀ b : Bool, ∀ n : Fin 2, ∀ d : Fin 30, ∀ s, d = (if n = 0 then 0 else 12) →
      s = modPower (modCore (Tests.busy Tests.on) 0 fun c => { c with jobId := if b then 1 else 0 }) (fun w => { w with offs := [d] }) →
      s.power.offs.contains d = true ∧ (domainJob s d).isSome = b ∧ coreOfDomain s d = some 0 ∧ (getCore s 0).st ≠ .lost) := by
  constructor
  · rintro s rfl; decide +kernel
  · rintro b n d s rfl rfl; revert b n; decide +kernel

/-- A current over 125 % of each domain's maximum and at it; shares and senses of feed 0 in and out of their limits, native and compatible. -/
theorem witness_TripsAndFeeds : (∀ d : Fin 30, domainUp Tests.on d = true ∧ domainMaxD Tests.on d * 125 < (60000 : BitVec 16).toNat * 100 ∧
      (0 : BitVec 16).toNat * 100 ≤ domainMaxD Tests.on d * 125) ∧ (coreOfDomain Tests.on 0 = some 0) ∧
    (∀ b : Bool, ∀ s, s = modPower Tests.on (fun w => { w with
        compat := b, fgs := w.fgs.map fun x => { x with senseMv := 1600, suspect := false, fault := false } }) →
      s.power.compat = b ∧ (vget s.power.fgs 0).suspect = false ∧ (vget s.power.fgs 0).fault = false ∧
      500 ≤ (1000 : BitVec 16).toNat ∧ (699 : BitVec 16).toNat * 100 < (1000 : BitVec 16).toNat * 70 ∧
      ((1574 : BitVec 12).toNat + 25) * 5 < otherSense s.power 0 ∧ otherSense s.power 0 ≤ ((1575 : BitVec 12).toNat + 25) * 5 ∧
      (1399 : BitVec 12).toNat < 1400 ∧ 1850 < (1851 : BitVec 12).toNat ∧ 4200 < (4201 : BitVec 16).toNat ∧
      bit s.power.feedLost 0 = false ∧ (699 : BitVec 12).toNat < 700 ∧ setBit s.power.feedLost 0 true ≠ 3 ∧
      setBit (modPower s fun w => { w with feedLost := 2 }).power.feedLost 0 true = 3) := by
  refine ⟨by decide +kernel, by decide +kernel, ?_⟩
  rintro b s rfl
  revert b
  decide +kernel
/-- Rails above their absolute maximum, at it, in range and below range; a PHY domain ON and OFF. -/
theorem witness_TripsAndFeeds_rails : (∀ r ∈ [Rail.vin 5, .vc 1, .hbmVdd 0, .hbmVddq 1, .hbmVpp 0, .vddqLp 1, .vio],
      (railLimits r).2.2 < 2201 ∧ (railLimits r).2.1 < (railLimits r).2.2 ∧ 0 < (railLimits r).1 ∧ (railLimits r).1 ≤ (railLimits r).2.1 ∧
      coreRail r = (r == .vin 5 || r == .vc 1)) ∧ State.reset.pins.perst = true ∧ Tests.booting.pins.perst = false ∧
    domainUp Tests.on 26 = true ∧ domainUp State.reset 27 = false := by decide +kernel

/-- A running device at 200 µs whose cores run to 2,000 MHz, with a governor limit; the governor acted last at this time. -/
def Tests.governed (mhz : Nat) (at_ : Option Nat) : State :=
  modPower (modReg Tests.on fun r => { r with time := 200000 }) fun w => { w with
    govNs := at_, raisedNs := at_
    cores := w.cores.map fun p => { p with
      fmax := 2000, govMhz := BitVec.ofNat 11 mhz, loweredNs := at_, vf := vmod p.vf 0 fun x => { x with mhz := 600, valid := true } } }

/-- A sample at PEAK_W and above it; a window above SUST_W with and without a core to lower; below 98 % of it with a core to raise. -/
theorem witness_GovernorTicks : Tests.on.power.peakW.toNat < (3401 : BitVec 16).toNat ∧ (3400 : BitVec 16).toNat ≤ Tests.on.power.peakW.toNat ∧
    (∀ c, (0 : BitVec 16).toNat ≤ (vget Tests.on.power.cores c).imaxD.toNat) ∧ Tests.on.power.sustW.toNat < (2801 : BitVec 16).toNat ∧
    (2743 : BitVec 16).toNat * 100 < Tests.on.power.sustW.toNat * 98 ∧ Tests.on.power.sustW.toNat * 98 ≤ (2744 : BitVec 16).toNat * 100 ∧
    longSince (Tests.governed 1500 (some 0)) 10000 (Tests.governed 1500 (some 0)).power.govNs = true ∧
    longSince (Tests.governed 1500 (some 199999)) 10000 (Tests.governed 1500 (some 199999)).power.govNs = false ∧
    mayLower (Tests.governed 1500 (some 0)) 0 = true ∧ (∀ c, mayLower (Tests.governed 1500 (some 199999)) c = false) ∧
    (Tests.governed 1500 (some 0)).power.sustW = 2800 ∧ (vget (Tests.governed 1500 (some 0)).power.cores 0).govMhz ≠ noLimit := by decide +kernel

/-! ## Clocks and temperature -/

/-- The reference there and lost. -/
theorem witness_ClocksChange : ∀ b : Bool, ∀ s, s = { Tests.on with clock := { Tests.on.clock with holdover := b } } →
    s.clock.holdover = b ∧ (vget s.power.doms 25).state = 1 ∧ s.reg.devState ≠ 3 := by rintro b s rfl; revert b; decide +kernel
/-- A core region and an edge region that may change, and stopped ones that may not; margin codes below and at WARN and STRETCH, of a path there and not. -/
theorem witness_ClocksChange_regions : ∀ b : Bool, ∀ r : Fin 15, r = 0 ∨ r = 13 → ∀ s, s = modRegion (modRegion (modCore Tests.on 0 fun c => { c with
      fenced := false }) 0 fun k => { k with stopped := b, cur := 1, margin := 1000 }) 13 (fun k => { k with stopped := b, cur := 1, margin := 1000 }) →
    mayChange s r = !b ∧ (vget s.clock.regions r).stopped = b ∧ (0 : BitVec 5).toNat < pathCount r ∧ pathCount r ≤ (31 : BitVec 5).toNat ∧
    (0 : BitVec 6) < s.clock.warn ∧ s.clock.warn ≤ 63 ∧ (0 : BitVec 6) ≤ s.clock.stretch ∧ s.clock.stretch < 63 ∧
    s.clock.strLim.toNat < (0xFFFFFFFF : BitVec 32).toNat ∧ r.val < 14 ∧ (vget s.clock.regions r).margin ≠ noLimit ∧
    longSince s (10 * 10 ^ 9) none = true ∧ longSince s (10 * 10 ^ 9) (some 1) = false ∧ (vget Tests.on.clock.regions 14).margin = noLimit := by
  rintro b r (rfl | rfl) s rfl <;> (revert b; decide +kernel)
/-- An ageing step of a point that is invalid, that has room, that has its 50 mV, and that would pass 900 mV, of a fast core and of one at 1,000 MHz. -/
theorem witness_ClocksChange_ageing : ∀ e ∈ ([(false, 700, 0, 2000), (true, 700, 45, 2000), (true, 700, 50, 2000), (true, 896, 0, 2000), (true, 896, 0, 1000)] :
      List (Bool × Nat × Nat × Nat)), ∀ s p x, s = modPower Tests.on (fun w => { w with
        cores := vmod w.cores 3 fun p => { p with
          fmax := BitVec.ofNat 11 e.2.2.2
          vf := vmod p.vf 15 fun x => { x with valid := e.1, fused := BitVec.ofNat 10 e.2.1, ageMv := BitVec.ofNat 6 e.2.2.1, offMv := 0 } } }) →
    p = vget s.power.cores 3 → x = vget p.vf 15 → (getCore s 3).st ≠ .lost ∧ x.valid = e.1 ∧
    (x.fused.toNat + x.ageMv.toNat + 5 + x.offMv.toNat ≤ 900 ↔ e.2.1 = 700) ∧ (x.ageMv.toNat < 50 ↔ e.2.2.1 ≠ 50) ∧
    (p.fmax.toNat - 50 < 1000 ↔ e.2.2.2 = 1000) := by
  rintro e he s p x rfl rfl rfl
  revert e
  decide +kernel

/-- Readings in range, at 110 °C, twice at 115 °C and out of range, of a working sensor, the first and the last of a region; of one that is not there. -/
theorem witness_SensorsThrottle : ∀ n : Fin 2, ∀ s, s = { Tests.on with thermal := { Tests.on.thermal with
      tripped := false, regions := vmod Tests.on.thermal.regions 0 fun x => { x with
        crit := false, sensors := Vector.replicate 16 { vget x.sensors 0 with tempQ := 0, failed := false, disable := false, trips := n.val } } } } →
    sensorCount 14 ≤ (4 : Fin 16).val ∧ (15 : Fin 16).val < sensorCount 0 ∧ (-160 : Int) ≤ (440 : BitVec 16).toInt ∧ (440 : BitVec 16).toInt ≤ 600 ∧
    440 ≤ (hottestReading 0 { vget s.thermal.regions 0 with sensors := vmod (vget s.thermal.regions 0).sensors 15 fun y => { y with tempQ := 440 } }).toInt ∧
    (vget s.thermal.regions 0).crit = false ∧ (vget (vget s.thermal.regions 0).sensors 15).bad = false ∧ s.thermal.tripped = false ∧
    ((vget (vget s.thermal.regions 0).sensors 15).trips = 0 ↔ n = 0) ∧ (1 ≤ (vget (vget s.thermal.regions 0).sensors 15).trips ↔ n = 1) ∧
    (460 : Int) ≤ (460 : BitVec 16).toInt ∧ (600 : Int) < (601 : BitVec 16).toInt ∧ (-161 : BitVec 16).toInt < -160 ∧
    (vget (vget s.thermal.regions 0).sensors 15).failed = false ∧ (vget (vget s.thermal.regions 0).sensors 15).disable = false := by
  rintro n s rfl
  revert n
  decide +kernel
theorem witness_SensorsThrottle_failed : ∀ s, s = { Tests.on with thermal := { Tests.on.thermal with
      regions := vmod Tests.on.thermal.regions 11 fun x => { x with
        sensors := Vector.ofFn fun i : Fin 16 => { vget x.sensors 0 with failed := decide (i.val < 8), disable := false } } } } →
    8 < failedWith s 11 8 ∧ (vget (vget s.thermal.regions 11).sensors 8).failed = false := by rintro s rfl; decide +kernel
/-- Regions that may be throttled and released, and none. -/
theorem witness_SensorsThrottle_limits : ∀ b : Bool, ∀ s, s = { modReg Tests.on (fun r => { r with time := 10000000 }) with thermal := { Tests.on.thermal with
      raisedAt := none
      regions := vmod (vmod Tests.on.thermal.regions 12 fun x => { x with tempQ := if b then 400 else 0, lim := noLimit, lowered := none }) 13 fun x => { x with
        lim := 500, below := if b then some 0 else none } } } →
    ((∃ r, mayThrottle s r = true) ↔ b) ∧ ((∃ r, mayRelease s r = true) ↔ b) ∧ longSince s (10 ^ 6) s.thermal.raisedAt = true ∧
    longSince s (10 ^ 6) (some 9999999) = false := by
  rintro b s rfl
  revert b
  decide +kernel

/-! ## Well-formed commands, one refused by each check -/

/-- A packet and flits that are well formed, beside ones that fail each check of theirs. -/
theorem test_wellFormed_packets : (Instr.eytData 0 (Tests.packet 1 [0])).wellFormed = true ∧ (Instr.eytData 0 (Tests.packet 2 [0])).wellFormed = false ∧
    (Instr.eytData 0 { Tests.packet 1 [0] with auth := true }).wellFormed = false ∧
    (Instr.eytData 0 { Tests.packet 1 [0] with taddr := 1 }).wellFormed = false ∧
    (Instr.eytData 0 (Tests.packet 1 (List.replicate 8961 0))).wellFormed = false := by decide +kernel
theorem test_wellFormed_flits : (Instr.rd (Tests.flit 0 1 []) .clean).wellFormed = true ∧ (Instr.rd (Tests.flit 1 1 []) .clean).wellFormed = false ∧
    (Instr.rd (Tests.flit 0 2 []) .clean).wellFormed = false ∧ (Instr.rd (Tests.flit 0 1 [0]) .clean).wellFormed = false ∧
    (Instr.rd { Tests.flit 0 1 [] with poison := true } .clean).wellFormed = false ∧ (Instr.rd { Tests.flit 0 1 [] with route := 3 } .clean).wellFormed = false ∧
    (Instr.wr (Tests.flit 1 3 (List.replicate 64 0))).wellFormed = true := by decide +kernel
/-- Addresses, check-code events, lengths and settings at and beside their bounds. -/
theorem test_wellFormed_bounds : (Instr.copy 0 0 0 [⟨true, 8191, false⟩, ⟨false, 2 ^ 31 - 1, true⟩]).wellFormed = true ∧
    (Instr.copy 0 0 0 [⟨true, 8192, false⟩]).wellFormed = false ∧ (Instr.copy 0 0 0 [⟨false, 2 ^ 31, false⟩]).wellFormed = false ∧
    (Instr.patrolRead 0 64 .clean).wellFormed = true ∧ (Instr.patrolRead 0 65 .clean).wellFormed = false ∧ (Instr.correctedWriteback 0 63).wellFormed = false ∧
    (Instr.memPatrolRead 63 .clean).wellFormed = false ∧ (Instr.memRowRepair 1 true).wellFormed = false ∧ (Instr.memRowRepair 64 true).wellFormed = true ∧
    (Instr.bar2Read 0 0 4096 []).wellFormed = true ∧ (Instr.bar2Read 0 0 0 []).wellFormed = false ∧ (Instr.bar2Read 0 0 4097 []).wellFormed = false ∧
    (Instr.bar2Read 0 (2 ^ 48 - 1) 2 []).wellFormed = false ∧ (Instr.bar2Write 0 0 []).wellFormed = false ∧
    (Instr.bar2Write 0 (2 ^ 48 - 1) [0, 0]).wellFormed = false ∧ (Instr.bar0Write 0 0x3FFFFFF [0]).wellFormed = true ∧
    (Instr.bar0Write 1 0x200000 [0]).wellFormed = false ∧ (Instr.pcieLinkUp 6 16).wellFormed = true ∧ (Instr.pcieLinkUp 6 3).wellFormed = false ∧
    (Instr.pcieLinkUp 0 16).wellFormed = false ∧ (Instr.hostLaneFault 8).wellFormed = true ∧ (Instr.hostLaneFault 16).wellFormed = false ∧
    (Instr.sensorSample 14 3 0 false).wellFormed = true ∧ (Instr.sensorSample 14 4 0 false).wellFormed = false ∧
    (Instr.sensorSample 12 8 0 false).wellFormed = false ∧ (Instr.icmpv6Echo 0 0 0 (List.replicate 7 0)).wellFormed = false ∧
    (Instr.spdmDoeRequest [0, 0, 0]).wellFormed = false ∧ (Instr.spdmDoeRequest [0, 0, 0, 0]).wellFormed = true ∧
    (Instr.selftest 0 { Tests.outcome true with failUnit := 0x1000000 }).wellFormed = false ∧ (Instr.selftest 0 (Tests.outcome true)).wellFormed = true := by
  decide +kernel

/-! ## The spec's worked examples -/

/-- 00_scope, the conventions' example: core 7's Stacks window and control block. -/
theorem test_example_addresses : stacksAddr 7 0 = 0x080380000000 ∧ coreBase 7 = 0x0F0007000000 ∧ (fieldOf State.reset 7).val = 7 := by decide +kernel

/-- 10_memory_tiers, the address example: W4, PC 11, column 8, bank 0, stack ID 0, row 0. -/
theorem test_example_hbm : ∀ t w, t = { State.reset.tiers with regions := State.reset.tiers.regions.map fun r => { r with live := BitVec.allOnes 64 } } →
    w = memWhere t 0x002400004A00 → w.lp = false ∧ w.unit = 4 ∧ w.pc = 11 ∧ w.loc = 256 ∧ w.row = 0 ∧ w.bank = 0 ∧ w.sid = 0 := by
  rintro t w rfl rfl; decide +kernel

/-- 01_die_geography, the example of DIST: three entries of stack E7, before and after router 8 fails, and E4 then. -/
theorem test_example_dist : distWord 1200 1600 3 false false = 0x02080003 ∧ distWord 1200 1600 2 false false = 0x01900002 ∧
    distWord 1200 1600 4 true false = 0x02800104 ∧ hopsTo Tests.on [] 4 27 = (3, false) ∧ hopsTo Tests.on [] 5 27 = (2, false) := by decide +kernel
theorem test_example_dist_failed : ∀ s lens, s = setNode Tests.on 8 2 →
    lens = (let adj := (List.range 14).map (neighbours s); (List.range 14).map (detours adj (meshLevels s adj))) →
    hopsTo s lens 5 27 = (4, true) ∧ hopsTo s lens 5 24 = (0xFF, false) := by rintro s lens rfl rfl; decide +kernel

/-- 02_core_and_dataflow, the descriptor example. -/
theorem test_example_descriptor : descrOf (0x00000000#32 ++ 0x08000040#32 ++ 0x00080060#32 ++ 0x04000000#32) =
    { sa := 0x04000000, core := 0, rmt := false, tm := 3, rowlen := 2048, rows := 64, stride := 2048, rsv := false } := by decide +kernel

/-- 11_ports, the packet example: its 32 header bytes. -/
theorem test_example_packet : packetHeader { Tests.packet 1 (List.replicate 64 0) with
      last := true, session := 0x0A31, psn := 1000, ackPsn := 0, taddr := 0x080102000200, msg := 77 } =
    [0x11, 0x04, 0x40, 0x00, 0x31, 0x0A, 0, 0, 0xE8, 0x03, 0, 0, 0, 0, 0, 0, 0x00, 0x02, 0x00, 0x02, 0x01, 0x08, 0, 0, 0, 0, 0, 0, 0x4D, 0, 0, 0] := by
  decide +kernel

/-- The 64 BF16 elements of the EZ example. -/
def Tests.ezGroup : List Nat := [0x3F80, 0xC000, 0x3F00, 0x3FC0] ++ List.replicate 16 0 ++ [0x3E80, 0x4040] ++ List.replicate 18 0 ++ [0xBF80] ++
  List.replicate 22 0 ++ [0x3F40]
/-- 05_sparse_and_clicker, the EZ example: 18 bytes with the header 18 7D 08 02, and back again. -/
theorem test_example_ez : ∀ f l, f = { code := 8, exp := 8, man := 7, int8 := false } → l = ezGroup f Tests.ezGroup → ezFmt 8 = some f ∧
    l.length = 18 ∧ l.take 4 = [0x18, 0x7D, 0x08, 0x02] ∧ (ezUngroup f 64 l).map (·.1) = some Tests.ezGroup := by
  rintro f l rfl rfl; decide +kernel

/-- 08_numerics, the FX40 example: 1 and 1 − 2^−26 in FX40, the same in FP32, and the stochastic rounding to BF16 after 1,000 steps at both sides of its bound. -/
theorem test_example_fx40 : (convert 0xC rne (.fin false 1 0)).1 = 0x3F80000000 ∧ (convert 0xC rne (.fin false (2 ^ 26 - 1) (-26))).1 = 0x3F7FFFFFC0 ∧
    (convert 0xB rne (.fin false (2 ^ 26 - 1) (-26))).1 = 0x3F800000 ∧
    (convert 0x8 { mode := 4, draw := 16383999 } (.fin false (2 ^ 32 - 64000) (-32))).1 = 0x3F7F ∧
    (convert 0x8 { mode := 4, draw := 16384000 } (.fin false (2 ^ 32 - 64000) (-32))).1 = 0x3F80 := by decide +kernel

/-- 14_power, the grant example: neither test holds at first, one after 1 µs, both after 3 µs. -/
theorem test_example_grant : ∀ w e, w = Power.init → e = (fun inst amps => { w with
      compat := false, requests := [], instW := inst, peakW := 3400, fgs := vmod w.fgs 1 fun x => { x with ampsD := amps, suspect := false } }) →
    packageRoom (e 3352 3000) 4 = false ∧ feedRoom (e 3352 3000) 4 = false ∧ packageRoom (e 3335 2896) 4 = false ∧ feedRoom (e 3335 2896) 4 = true ∧
    packageRoom (e 3302 2688) 4 = true ∧ feedRoom (e 3302 2688) 4 = true := by rintro w e rfl rfl; decide +kernel

/-- The next state of an outcome, or s. -/
def Tests.next (o : Out) (s : State) : State :=
  match o with
  | .next t => t
  | _ => s

/-- 15_clocks_thermal, the throttling example: core 4 goes to 1,450 MHz first; 100 µs later core 7 does. -/
theorem test_example_throttle : ∀ s t u, s = { modReg (modPower Tests.on fun w => { w with cores := w.cores.map fun p => { p with
        fmax := 1500, vf := vmod p.vf 0 fun x => { x with mhz := 600, valid := true } } }) (fun r => { r with time := 1000000 }) with
      thermal := { Tests.on.thermal with
        throttleQ := 380, regions := vmod (vmod (vmod (Tests.on.thermal.regions.map fun x => { x with tempQ := 0, lim := noLimit, lowered := none }) 4 fun x => { x with
          tempQ := 389 }) 7 fun x => { x with tempQ := 384 }) 1 fun x => { x with tempQ := 378 } } } →
    t = Tests.next (exec .thermalCheck s) s → u = Tests.next (exec .thermalCheck (modReg t fun r => { r with time := 1100000 })) s →
    (vget t.thermal.regions 4).lim = 1450 ∧ (vget t.thermal.regions 7).lim = noLimit ∧ (vget u.thermal.regions 4).lim = 1450 ∧
    (vget u.thermal.regions 7).lim = 1450 := by
  rintro s t u rfl rfl rfl; decide +kernel

/-- CRC-32C of "123456789" (RFC 3720's polynomial) and SHA-384 of "abc" (FIPS 180-4): the digests the spec names by their standards. -/
theorem test_digests : crc32c (ascii "123456789") = 0xE3069283 ∧ (sha384 (ascii "abc")).take 8 = [0xCB, 0x00, 0x75, 0x3F, 0x45, 0xA3, 0x5E, 0x8B] := by decide +kernel

end Sys2Proof
end

section
/-!
The scope of profile G (R2, R3): how Ikied judges a posted command, how a running command ends on a failed check, and what
profile G refuses by each.
-/
namespace Sys2Proof.Machine

/-- A mailbox as the CTRL write that posts its command leaves it (R290). -/
def Mailbox.posted (ctrl : BitVec 32) (m : Mailbox) : Mailbox :=
  { m with own := true, cancel := bit ctrl 1, expert := bit ctrl 2, phase := 0 }

theorem exec_mailboxOwnWrite (fn : Fin 9) (n : Fin 16) (ctrl : BitVec 32) (s : State) :
    exec (.mailboxOwnWrite fn n ctrl) s = execMailboxOwnWrite fn n ctrl s := rfl

theorem exec_jobLoad (k : Fin 16) (s : State) : exec (.jobLoad k) s = execJobLoad k s := rfl

@[simp] theorem consume_flash (s : State) (m : Mailbox) : (consume s m).flash = s.flash := by
  simp [consume]

@[simp] theorem getMb_consume (s : State) (m : Mailbox) (k : Fin 16) : getMb (consume s m) k = getMb s k := rfl

/-- A CTRL write with OWN to a mailbox that holds no command posts it, and Ikied sees it (R290, R291). -/
theorem execMailboxOwnWrite_posts {s : State} {fn : Fin 9} {n k : Fin 16} {ctrl : BitVec 32} (hdec : decodes s fn = true)
    (hserved : mailboxesServed s = true) (hat : mailboxAt s fn n.val = some k) (hown : (getMb s k).own = false)
    (hbit : bit ctrl 0 = true) (htakes : takesCommands s = true) :
    execMailboxOwnWrite fn n ctrl s = .next (see (modMb s k (Mailbox.posted ctrl)) k ctrl) := by
  have htakes' : takesCommands (modMb s k (Mailbox.posted ctrl)) = true := htakes
  unfold execMailboxOwnWrite
  rw [if_neg (by simp [hdec, hserved, hbit]), hat]
  dsimp only
  rw [if_neg (by simp [hown])]
  exact congrArg Host.Outcome.next (if_pos htakes')

/-- A command that its mailbox may carry, and that needs no authentication or passes it, is judged by the checks 5 to 7
(R291); passing the authentication consumes its counter. -/
theorem judge_of_authentic {u v : State} {k : Fin 16} {ctrl : BitVec 32}
    (hknown : knownCodes.contains (getMb u k).code.toNat = true) (hcarry : mayCarry u k (getMb u k) = true)
    (hauth : (authenticated u k = false ∧ v = u) ∨ (authenticated u k = true ∧ u.reg.ownerState ≠ 2 ∧
      commandCheck u.reg.key (getMb u k) ctrl = memRead (getMb u k).check 0 24 ∧
      u.reg.lastCtr.toNat < (getMb u k).counter.toNat ∧ v = consume u (getMb u k))) :
    judge u k ctrl = (v, laterChecks v (getMb v k)) := by
  unfold judge
  dsimp only
  rw [hknown, hcarry]
  obtain ⟨hfree, rfl⟩ | ⟨hheld, hunlocked, hcheck, hfresh, rfl⟩ := hauth
  · simp [hfree]
  · simp only [hheld, hcheck, if_neg hunlocked, if_neg (Nat.not_le.mpr hfresh), Bool.not_true, Bool.false_eq_true,
      ne_eq, not_true_eq_false, if_false]

/-- A command that is not cancelled and fails a check is refused with the STATUS of that check. -/
theorem see_of_failed_check {u v : State} {k : Fin 16} {ctrl : BitVec 32} {st : BitVec 16}
    (hcancel : (getMb u k).cancel = false) (hjudge : judge u k ctrl = (v, st)) (hst : st ≠ 0) :
    see u k ctrl = refuse v k st := by
  unfold see
  dsimp only
  rw [if_neg (by simp [hcancel]), hjudge, if_neg hst]

/-- A command that runs and fails a check ends with the STATUS of that check (R291). -/
theorem command_of_failed_check {s : State} {k : Fin 16} {code : Nat} {allow : State → Mailbox → BitVec 16}
    {effect : State → Mailbox → State} {st : BitVec 16} (hrun : running s k code = true)
    (hallow : allow s (getMb s k) = st) (hst : st ≠ 0) : command s k code allow effect = .next (ends s k st []) := by
  subst hallow
  unfold command
  rw [if_pos hrun, if_neg hst]

/-- A command of a feature that profile G disables: SNAP_CFG, SNAP_NOW, RESTORE, PAIR, and SESS_OPEN of a Duplicate
session (R2, R3). -/
def Mailbox.disabledByG (m : Mailbox) : Prop :=
  m.code = 0x70 ∨ m.code = 0x71 ∨ m.code = 0x72 ∨ m.code = 0xC6 ∨ (m.code = 0x41 ∧ pf m 4 1 = 1)

theorem Mailbox.disabledByG.known {m : Mailbox} (h : m.disabledByG) : knownCodes.contains m.code.toNat = true := by
  obtain hc | hc | hc | hc | ⟨hc, -⟩ := h <;> rw [hc] <;> decide

theorem licensedFor_of_disabledByG {s : State} {m : Mailbox} (hprof : s.flash.profile = 1) (h : m.disabledByG) :
    licensedFor s m = false := by
  obtain hc | hc | hc | hc | ⟨hc, hkind⟩ := h
  all_goals simp [licensedFor, *]

theorem laterChecks_of_disabledByG {s : State} {m : Mailbox} (hprof : s.flash.profile = 1) (h : m.disabledByG) :
    laterChecks s m = stNotLicensed := by
  simp [laterChecks, licensedFor_of_disabledByG hprof h]

/-- JOB_LOAD of an image that declares a feature which profile G disables answers NOT_LICENSED where its length, its
placement, its caller's grant and its form pass (the order of Table 13-3). -/
theorem jobLoadAllow_of_unlicensed {s : State} {m : Mailbox} {i : List Byte} (hi : i = loadImage s m)
    (hlen : leAt i 0x10 8 = pf m 8 8)
    (hplace : pf m 17 1 = 0xFF ∨ imgPlaces i = 0 ∨ 5 < imgPlaces i ∨ pf m 17 1 < imgPlaces i)
    (hgrant : m.fn = 0 ∨ (finOf 9 (by decide) (pf m 16 1) = m.fn ∧ inGrant s m.fn (pf m 0 8) (pf m 8 8) = true))
    (hpoison : anyPoison s (pf m 0 8) (pf m 8 8) = false) (hok : imageOk s i = true)
    (hunlic : unlicensed s i = true) : jobLoadAllow s m = stNotLicensed := by
  have hcaller : (m.fn ≠ 0 && (finOf 9 (by decide) (pf m 16 1) != m.fn ||
      !inGrant s (finOf 9 (by decide) (pf m 16 1)) (pf m 0 8) (pf m 8 8))) = false := by
    obtain hpf | ⟨hfn, hin⟩ := hgrant
    · simp [hpf]
    · simp [hfn, hin]
  unfold jobLoadAllow
  rw [← hi]
  dsimp only
  rw [if_neg (not_not_intro hlen), if_neg (by omega), if_neg (by rw [hcaller]; decide), if_neg (by simp [hpoison, hok]),
    if_pos hunlic]

/-- Settles O59: both refusals are the licence check's, check 5 of R291 for a posted command and the fifth check of Table 13-3
for an image. -/
theorem profileRefuses : Obligations.ProfileRefuses := by
  intro s k hprof
  refine ⟨?_, ?_⟩
  · rintro fn n ctrl u v m hu rfl hdec hserved hat hown hbit hcancel htakes hdis hcarry hauth
    obtain rfl : u = modMb s k (Mailbox.posted ctrl) := hu
    have hv : v.flash.profile = 1 ∧ getMb v k = getMb (modMb s k (Mailbox.posted ctrl)) k := by
      obtain ⟨-, rfl⟩ | ⟨-, -, -, -, rfl⟩ := hauth
      · exact ⟨hprof, rfl⟩
      · exact ⟨(consume_flash _ _).symm ▸ hprof, getMb_consume _ _ _⟩
    have hjudge : judge (modMb s k (Mailbox.posted ctrl)) k ctrl = (v, stNotLicensed) := by
      rw [judge_of_authentic (Mailbox.disabledByG.known hdis) hcarry hauth, hv.2,
        laterChecks_of_disabledByG hv.1 hdis]
    rw [exec_mailboxOwnWrite, execMailboxOwnWrite_posts hdec hserved hat hown hbit htakes,
      see_of_failed_check (by simpa [Mailbox.posted] using hcancel) hjudge (by decide)]
  · intro m i hm hi hrun hflags hlen hplace hgrant hpoison hok
    have hallow : jobLoadAllow s m = stNotLicensed :=
      jobLoadAllow_of_unlicensed hi hlen hplace hgrant hpoison hok (by simpa [unlicensed, hprof] using hflags)
    rw [exec_jobLoad]
    exact command_of_failed_check hrun (hm ▸ hallow) (by decide)

end Sys2Proof.Machine
end

section
/-!
The fault of a sequencer (R41): what it does to the sequencer at once, and what its records do to the cores of the job that
they kill (R334, R407).
-/
namespace Sys2Proof.Machine

/-- A sequencer as its fault leaves it (R41). -/
def SeqState.faulted (code : BitVec 8) (x : SeqState) : SeqState :=
  { x with st := .fault, fault := code, infl := [], loops := [], pendFault := 0 }

/-- The state in which a sequencer has stopped with a fault that Ikied has not yet recorded. -/
def faultStop (s : State) (c : CoreId) (q : SeqId) (code : BitVec 8) : State :=
  modCore (modSeq s c q (SeqState.faulted code)) c fun k => { k with seqErr := setBit k.seqErr q.val true }

theorem seqFault_eq_faultRecords (s : State) (c : CoreId) (q : SeqId) (opc code : BitVec 8) :
    seqFault s c q opc code = faultRecords (faultStop s c q code) c q opc (code.setWidth 16) := rfl

/-- A fault's own stop leaves of a core what lies outside its sequencers and JOB_SEQ_ERR. -/
theorem faultStop_keeps {α : Type} (g : CoreState → α) (hg : ∀ (k : CoreState) v w, g { k with seqs := v, seqErr := w } = g k)
    (s : State) (c : CoreId) (q : SeqId) (code : BitVec 8) (d : CoreId) :
    g (getCore (faultStop s c q code) d) = g (getCore s d) := by
  unfold faultStop modSeq
  rw [modCore_modCore]
  by_cases hd : c = d
  · subst hd
    rw [getCore_modCore_same]
    exact hg (getCore s c) _ _
  · rw [getCore_modCore_other _ _ hd]

/-- The sequencer that faults. -/
theorem getSeq_seqFault_self (s : State) (c : CoreId) (q : SeqId) (opc code : BitVec 8) :
    getSeq (seqFault s c q opc code) c q = (getSeq s c q).faulted code := by
  rw [seqFault_getSeq, getSeq_modSeq_same]
  rfl

/-- JOB_SEQ_ERR after a fault. -/
theorem seqErr_seqFault (s : State) (c : CoreId) (q : SeqId) (opc code : BitVec 8) :
    (getCore (seqFault s c q opc code) c).seqErr = setBit (getCore s c).seqErr q.val true := by
  rw [seqFault_eq_faultRecords, faultRecords_keeps (·.seqErr) (fun _ => rfl), faultStop, getCore_modCore_same]
  simp [modSeq]

/-- The job that holds a core is found under its own ID. -/
theorem findJob_of_jobOn {s : State} {c : CoreId} {j : Job} (h : jobOn s c = some j) : findJob s j.id = some j := by
  unfold jobOn at h
  split at h
  · cases h
  · have hid : j.id = (getCore s c).jobId := by simpa using List.find?_some h
    rw [hid, h]

/-- The job of a core depends on its JOB_ID and on the jobs. -/
theorem jobOn_congr {s t : State} {c : CoreId} (hid : (getCore t c).jobId = (getCore s c).jobId)
    (hjobs : t.reg.jobs = s.reg.jobs) : jobOn t c = jobOn s c := by
  unfold jobOn
  rw [hid, findJob_reg hjobs]

/-- Where a job holds the core, a fault writes the record of its unit and kills the job with the code (R407). -/
theorem faultRecords_of_jobOn {s : State} {c : CoreId} {j : Job} (hj : jobOn s c = some j) (q : SeqId) (opc : BitVec 8)
    (code : BitVec 16) : ∃ r op x, faultRecords s c q opc code =
      killJob (writeRecord s r) j.id code op (4, c.val, q.val) x := by
  unfold faultRecords
  rw [hj]
  exact ⟨_, _, _, rfl⟩

/-- The records of a fault stop every core of a job that is not yet killed, and kill it with the code (R334, R407). -/
theorem faultRecords_kills {s : State} {c : CoreId} {j : Job} (hj : jobOn s c = some j) (hk : j.killed = false) (q : SeqId)
    (opc : BitVec 8) (code : BitVec 16) :
    (∀ d ∈ j.cores, getCore (faultRecords s c q opc code) d = scr (getCore s d)) ∧
      ∃ x, findJob (faultRecords s c q opc code) j.id = some x ∧ x.killed = true ∧ x.state = 6 ∧
        x.lastFault = code.setWidth 8 := by
  obtain ⟨r, op, x, heq⟩ := faultRecords_of_jobOn hj q opc code
  rw [heq]
  obtain ⟨-, -, hkill⟩ := killJob_facts (writeRecord s r) j.id code op (4, c.val, q.val) x
  obtain ⟨hcores, hjob⟩ := hkill j ((findJob_reg (writeRecord_jobs _ _) _).trans (findJob_of_jobOn hj)) hk
  refine ⟨fun d hd => ?_, hjob⟩
  rw [hcores d, if_pos hd, getCore_cores (writeRecord_cores _ _)]

/-- Settles O8: the fault stops the sequencer itself; the core and the job follow from the kill that its records do. -/
theorem faultStopsSequencer : Obligations.FaultStopsSequencer := by
  intro s c q opc code
  refine ⟨_, rfl, ?_⟩
  rw [getSeq_seqFault_self, seqErr_seqFault]
  refine ⟨rfl, rfl, rfl, rfl, setBit_bit _ _ q.isLt, seqFault_mem .., seqFault_full .., seqFault_poison .., ?_⟩
  intro j hj hk
  have hstop : jobOn (faultStop s c q code) c = some j :=
    (jobOn_congr (faultStop_keeps (·.jobId) (fun _ _ _ => rfl) s c q code c) rfl).trans hj
  rw [seqFault_eq_faultRecords]
  obtain ⟨hcores, x, hfind, hkilled, hstate, hlast⟩ := faultRecords_kills hstop hk q opc (code.setWidth 16)
  refine ⟨fun d hd => ?_, x, hfind, hkilled, hstate, by simpa using hlast⟩
  have hst : (getCore (faultStop s c q code) d).st = (getCore s d).st :=
    faultStop_keeps (·.st) (fun _ _ _ => rfl) s c q code d
  rw [hcores d hd]
  exact ⟨rfl, by rw [← hst]; rfl⟩

end Sys2Proof.Machine
end
section
/-!
How control instructions issue and go on (R33, R37, R461): each changes its own sequencer alone, in one update.
-/
namespace Sys2Proof.Machine

/-- An issue and a change of the sequencer are one change. -/
theorem modSeq_issued (s : State) (c : CoreId) (q : SeqId) (opc : BitVec 8) (f : SeqState → SeqState) :
    modSeq (issued s c q opc) c q f =
      modSeq s c q fun x => f { x with lastOpc := opc, ran := true, dormant := false, st := .issuing } :=
  modSeq_modSeq ..

/-- An instruction that changes its sequencer by f and goes on at the next instruction. -/
theorem thenAdvance_modSeq {s : State} {c : CoreId} {q : SeqId} {opc : BitVec 8} {g : State → State} {f : SeqState → SeqState}
    (hg : g (issued s c q opc) = modSeq (issued s c q opc) c q f) (hf : ∀ x, (f x).pc = x.pc ∧ (f x).loops = x.loops)
    (h : s.RunsOn c q ((getSeq s c q).pc + 1)) :
    thenAdvance c q opc g s = modSeq s c q fun x =>
      { f { x with lastOpc := opc, ran := true, dormant := false, st := .issuing } with
        pc := (loopStep (x.pc + 1) x.loops).1, loops := (loopStep (x.pc + 1) x.loops).2 } := by
  have hpc : (getSeq (modSeq (issued s c q opc) c q f) c q).pc = (getSeq s c q).pc := by
    rw [getSeq_modSeq_same, (hf _).1, issued_getSeq]
  unfold thenAdvance advance
  rw [hg, hpc, adv_issued hf h]
  exact modSeq_congr s c q rfl

/-- An instruction without an effect of its own goes on at the next instruction. -/
theorem thenAdvance_id {s : State} {c : CoreId} {q : SeqId} {opc : BitVec 8} (h : s.RunsOn c q ((getSeq s c q).pc + 1)) :
    thenAdvance c q opc id s = modSeq s c q fun x => x.past opc (x.pc + 1) :=
  thenAdvance_modSeq (f := fun x => x) (modSeq_id ..).symm (fun _ => ⟨rfl, rfl⟩) h

theorem exec_nop_offered {s : State} {c : CoreId} {q : SeqId} {w : BitVec 120}
    (h : s.Offers c q (instrWord 0x00 w) (mask128 119 0) []) :
    exec (.nop c q w) s = .next (thenAdvance c q 0x00 id s) :=
  congrArg Host.Outcome.next (controlInstr_offers h)

theorem exec_wait_idle {s : State} {c : CoreId} {q : SeqId} {w : BitVec 120}
    (h : s.Offers c q (instrWord 0x02 w) (mask128 119 0) []) (hidle : engineIdle s c q = true) :
    exec (.wait c q w) s = .next (thenAdvance c q 0x02 id s) :=
  congrArg Host.Outcome.next ((controlInstr_offers h).trans (if_pos hidle))

/-- LOOP with a body inside the half and a level free: COUNT 0 goes past the body, any other COUNT opens a level over it. -/
theorem exec_loop_inside {s : State} {c : CoreId} {q : SeqId} {w : BitVec 120}
    (h : s.Offers c q (instrWord 0x03 w) (mask128 119 44) []) (hlen : fld w 32 12 ≠ 0)
    (hbody : (getSeq s c q).pc + fld w 32 12 < halfLen q) (hlevels : (getSeq s c q).loops.length < 4) :
    exec (.loop c q w) s = .next (if fld w 0 32 = 0 then goOn (issued s c q 0x03) c q 0x03 ((getSeq s c q).pc + 1 + fld w 32 12)
      else modSeq (issued s c q 0x03) c q fun y =>
        { y with pc := y.pc + 1, loops := { first := y.pc + 1, len := fld w 32 12, left := fld w 0 32 } :: y.loops }) := by
  refine congrArg Host.Outcome.next ((controlInstr_offers h).trans ?_)
  dsimp only
  rw [if_neg hlen, if_neg (Nat.not_le.mpr hbody), if_neg (Nat.not_le.mpr hlevels)]

/-- JMP to an instruction of the half. -/
theorem exec_jmp_inside {s : State} {c : CoreId} {q : SeqId} {w : BitVec 120} {n : Nat}
    (h : s.Offers c q (instrWord 0x04 w) (mask128 119 32) []) (hn : (n : Int) = (getSeq s c q).pc + sfld w 0 32)
    (hlt : n < halfLen q) :
    exec (.jmp c q w) s = .next (modSeq (issued s c q 0x04) c q fun y => { y with pc := n, loops := levelsAround n y.loops }) := by
  refine congrArg Host.Outcome.next ((controlInstr_offers h).trans ?_)
  dsimp only
  rw [← hn, if_pos (by omega), Int.toNat_natCast]

/-- A sequencer with delta added to the SA of descriptor i (R37). -/
def SeqState.addToSa (i : Nat) (delta : BitVec 32) (x : SeqState) : SeqState :=
  { x with desc := smapSet 0 x.desc i (addSa (smapGet 0 x.desc i) delta) }

theorem setDesc_addSa (s : State) (c : CoreId) (q : SeqId) (i : Nat) (delta : BitVec 32) :
    setDesc s c q i (addSa (descAt s c q i) delta) = modSeq s c q (SeqState.addToSa i delta) :=
  modSeq_congr s c q rfl

theorem exec_dadv_offered {s : State} {c : CoreId} {q : SeqId} {w : BitVec 120}
    (h : s.Offers c q (instrWord 0x05 w) (mask128 111 32) [fld w 112 8]) :
    exec (.dadv c q w) s = .next (thenAdvance c q 0x05
      (fun s => setDesc s c q (fld w 112 8) (addSa (descAt s c q (fld w 112 8)) (w.extractLsb' 0 32))) s) :=
  congrArg Host.Outcome.next (controlInstr_offers h)

theorem exec_swapi_ready {s : State} {c : CoreId} {q : SeqId} {w : BitVec 120}
    (h : s.Offers c q (instrWord 0x07 w) (mask128 119 0) []) (hready : (getSeq s c q).altReady = true) :
    exec (.swapi c q w) s = .next (modSeq (issued s c q 0x07) c q fun x =>
      { x with half := !x.half, pc := 0, loops := [], altReady := false }) :=
  congrArg Host.Outcome.next ((controlInstr_offers h).trans (if_pos hready))

/-- A sequencer that halts: one change of its core. -/
theorem haltSeq_eq_modCore (s : State) (c : CoreId) (q : SeqId) (code : BitVec 16) :
    haltSeq s c q code = modCore s c fun k => { k with
      seqRun := setBit k.seqRun q.val false
      seqs := vmod k.seqs q fun x => { x with
        lastOpc := 0x01, ran := true, dormant := false, st := .halted, ended := true, haltCode := code } } := by
  unfold haltSeq
  rw [modSeq_issued]
  exact modCore_modCore ..

theorem exec_halt_offered {s : State} {c : CoreId} {q : SeqId} {w : BitVec 120}
    (h : s.Offers c q (instrWord 0x01 w) (mask128 119 16) []) :
    exec (.halt c q w) s = .next (if w.extractLsb' 0 16 = 0 then haltSeq s c q (w.extractLsb' 0 16)
      else faultRecords (modCore (haltSeq s c q (w.extractLsb' 0 16)) c fun k => { k with seqErr := setBit k.seqErr q.val true })
        c q 0x01 (w.extractLsb' 0 16)) :=
  congrArg Host.Outcome.next (controlInstr_offers h)

/-- Settles O6: each instruction issues, and its effect and the way its control goes are one change of its sequencer. -/
theorem sequencerGoesOn : Obligations.SequencerGoesOn := by
  intro s c q w
  refine ⟨fun h hrun => ?nop, fun h hidle hrun => ?wait, fun h hlen hbody hlevels => ⟨fun hcount hrun => ?skip, fun hcount => ?enter⟩,
    fun h n hn hlt => ?jmp, fun h hrun => ?dadv, fun h hready => ?swapi, fun h => ⟨_, rfl, fun hcode => ?normal, fun hcode => ?abort⟩⟩
  case nop => rw [exec_nop_offered h, thenAdvance_id hrun]
  case wait => rw [exec_wait_idle h hidle, thenAdvance_id hrun]
  case skip =>
    rw [exec_loop_inside h hlen hbody hlevels, if_pos hcount, adv_plain hrun]
    exact congrArg Host.Outcome.next (modSeq_congr s c q rfl)
  case enter => rw [exec_loop_inside h hlen hbody hlevels, if_neg hcount, modSeq_issued]
  case jmp => rw [exec_jmp_inside h hn hlt, modSeq_issued]
  case dadv =>
    rw [exec_dadv_offered h, thenAdvance_modSeq (f := SeqState.addToSa (fld w 112 8) (w.extractLsb' 0 32)) (setDesc_addSa ..)
      (fun _ => ⟨rfl, rfl⟩) hrun]
    rfl
  case swapi => rw [exec_swapi_ready h hready, modSeq_issued]
  case normal => rw [exec_halt_offered h, if_pos hcode, haltSeq_eq_modCore]
  case abort => rw [exec_halt_offered h, if_neg hcode, haltSeq_eq_modCore]

end Sys2Proof.Machine
end

section
/-!
How an engine instruction issues (R32, R35): the checks and conditions in the order of the manual, a lemma for each way they
come out.
-/
namespace Sys2Proof.Machine

/-- An instruction that is not in flight and is offered tries to issue. -/
theorem engineInstr_offered {s : State} {c : CoreId} {q : SeqId} {word rsv : Word128} {ev : List EccEvent} {p : Plan}
    {script : State → InFlight → Phase} (hflight : flightOf s c q word = none) (h : s.Offers c q word rsv p.names) :
    engineInstr s c q word rsv ev p script = tryIssue s c q word ev p script := by
  unfold engineInstr
  rw [hflight]
  exact controlInstr_offers h

section
variable {s : State} {c : CoreId} {q : SeqId} {word : Word128} {ev : List EccEvent} {p : Plan} {script : State → InFlight → Phase}

theorem tryIssue_of_bad {f : BitVec 8} (hbad : p.bad = some f) :
    tryIssue s c q word ev p script = seqFault s c q (opcodeOf word) f := by
  unfold tryIssue
  rw [hbad]

theorem tryIssue_of_tagHolds (hbad : p.bad = none) (htag : ∃ o ∈ p.ops, tagHolds s c (opnd s c q o.1) = true) :
    tryIssue s c q word ev p script = setSt s c q .waitTag := by
  unfold tryIssue
  rw [hbad]
  exact if_pos (by simpa using htag)

theorem tryIssue_of_noCredit (hbad : p.bad = none) (htag : ∀ o ∈ p.ops, tagHolds s c (opnd s c q o.1) = false)
    (hcredit : ∃ o ∈ p.ops, noCredit (getSeq s c q) (opnd s c q o.1) o.2 = true) :
    tryIssue s c q word ev p script = setSt s c q .waitCredit := by
  unfold tryIssue
  rw [hbad]
  exact (if_neg (by simpa using htag)).trans (if_pos (by simpa using hcredit))

theorem tryIssue_launches (hbad : p.bad = none) (htag : ∀ o ∈ p.ops, tagHolds s c (opnd s c q o.1) = false)
    (hcredit : ∀ o ∈ p.ops, noCredit (getSeq s c q) (opnd s c q o.1) o.2 = false) (hheld : p.held = none) :
    tryIssue s c q word ev p script = launch s c q word ev p script := by
  unfold tryIssue
  rw [hbad, hheld]
  exact (if_neg (by simpa using htag)).trans (if_neg (by simpa using hcredit))

end

/-- Settles O9: the four ways that the checks and the conditions of issue come out. -/
theorem engineIssues : Obligations.EngineIssues := by
  intro s c q word rsv ev p script hflight h
  rw [engineInstr_offered hflight h]
  exact ⟨fun _ hbad => tryIssue_of_bad hbad, fun hbad => ⟨fun htag => tryIssue_of_tagHolds hbad htag,
    fun htag => ⟨fun hcredit => tryIssue_of_noCredit hbad htag hcredit,
      fun hcredit hheld => ⟨_, rfl, tryIssue_launches hbad htag hcredit hheld⟩⟩⟩⟩

end Sys2Proof.Machine
end

section
/-!
The completion of DLOAD and ILOAD (R37, R38, R318): what the bytes they have read become.
-/
namespace Sys2Proof.Machine

section
variable {s : State} {c : CoreId} {t : SeqId} {l : List Byte}

/-- A dormant sequencer takes the instructions in half 0 and starts at its first one (R318). -/
theorem getSeq_iloadInto_dormant (h : (getSeq s c t).dormant = true) : getSeq (iloadInto s c t l) c t =
    { getSeq s c t with imem0 := imemOf l, pc := 0, half := false, st := .issuing } := by
  unfold iloadInto
  rw [if_pos h, getSeq_modCore _ _ _ _ (by split <;> rfl), getSeq_modSeq_same]

/-- On a running core its RUN bit sets. -/
theorem seqRun_iloadInto_dormant (h : (getSeq s c t).dormant = true) (hrun : (getCore s c).st = .running) :
    bit (getCore (iloadInto s c t l) c).seqRun t.val = true := by
  unfold iloadInto
  rw [if_pos h, getCore_modCore_same, modSeq, getCore_modCore_same, if_neg (by simp [hrun])]
  exact setBit_bit _ _ t.isLt

/-- Any other sequencer takes them in its inactive half. -/
theorem getSeq_iloadInto_awake (h : (getSeq s c t).dormant = false) : getSeq (iloadInto s c t l) c t =
    { getSeq s c t with
      altReady := true
      imem0 := if (getSeq s c t).half then imemOf l else (getSeq s c t).imem0
      imem1 := if (getSeq s c t).half then (getSeq s c t).imem1 else imemOf l } := by
  unfold iloadInto
  rw [if_neg (by simp [h]), getSeq_modSeq_same]
  dsimp only
  cases (getSeq s c t).half <;> rfl

/-- The other sequencers stay as they are. -/
theorem getSeq_iloadInto_other {e : SeqId} (h : t ≠ e) : getSeq (iloadInto s c t l) c e = getSeq s c e := by
  unfold iloadInto
  split
  · rw [getSeq_modCore _ _ _ _ (by split <;> rfl), getSeq_modSeq_other _ _ _ h]
  · exact getSeq_modSeq_other _ _ _ h

theorem onlyCore_iloadInto : s.OnlyCore (iloadInto s c t l) c := by
  unfold iloadInto
  split
  · exact (onlyCore_modCore ..).trans (onlyCore_modCore ..)
  · exact onlyCore_modCore ..

end

section
variable {s : State} {c : CoreId} {q : SeqId} {w : BitVec 120} {ev : List EccEvent} {y : InFlight} {l : List Access}

/-- An instruction in flight whose script faults, faults under its own opcode. -/
theorem engineInstr_fault_opcode {o : BitVec 8} {rsv : Word128} {pl : Plan} {script : State → InFlight → Phase}
    {code : BitVec 8} (h : s.Landed c q (instrWord o w) y) (e : script s y = .fault code) :
    engineInstr s c q (instrWord o w) rsv ev pl script = seqFault s c q o code := by
  rw [engineInstr_fault h e, opcodeOf_instr]

theorem exec_dload_read (h : s.Landed c q (instrWord 0x06 w) y) (hgot : y.got = [l]) (hpoison : opndPoison l 0 = false) :
    exec (.dload c q w ev) s = .next (setDesc (dropFlight s c q (instrWord 0x06 w)) c q (fld w 112 8)
      (BitVec.ofNat 128 (leNat (opndData l 0)))) :=
  congrArg Host.Outcome.next (engineInstr_finish
    (f := fun s => setDesc s c q (fld w 112 8) (BitVec.ofNat 128 (leNat (opndData l 0)))) h (by simp [lastGot, hgot, hpoison]))

theorem exec_dload_poisoned (h : s.Landed c q (instrWord 0x06 w) y) (hgot : y.got = [l]) (hpoison : opndPoison l 0 = true) :
    exec (.dload c q w ev) s = .next (seqFault s c q 0x06 0x0A) :=
  congrArg Host.Outcome.next (engineInstr_fault_opcode h (by simp [lastGot, hgot, hpoison]))

theorem exec_iload_read (h : s.Landed c ccSeq (instrWord 0x0E w) y) (hgot : y.got = [l]) (hpoison : opndPoison l 0 = false) :
    exec (.iload c ccSeq w ev) s = .next (iloadInto (dropFlight s c ccSeq (instrWord 0x0E w)) c (seqOf (fld w 0 4))
      (opndData l 0)) :=
  congrArg Host.Outcome.next ((if_pos rfl).trans (engineInstr_finish
    (f := fun s => iloadInto s c (seqOf (fld w 0 4)) (opndData l 0)) h (by simp [lastGot, hgot, hpoison])))

theorem exec_iload_poisoned (h : s.Landed c ccSeq (instrWord 0x0E w) y) (hgot : y.got = [l])
    (hpoison : opndPoison l 0 = true) : exec (.iload c ccSeq w ev) s = .next (seqFault s c ccSeq 0x0E 0x0A) :=
  congrArg Host.Outcome.next ((if_pos rfl).trans (engineInstr_fault_opcode h (by simp [lastGot, hgot, hpoison])))

end

/-- Settles O10: the script of each instruction finishes or faults on what has been read; leaving flight changes only the
sequencer that loads. -/
theorem loadsComplete : Obligations.LoadsComplete := by
  intro s c q w ev y l hgot
  refine ⟨fun h => ⟨fun hpoison => ?_, exec_dload_poisoned h hgot⟩, fun h => ⟨exec_iload_poisoned h hgot, ?_⟩⟩
  · rw [exec_dload_read h hgot hpoison]
    exact congrArg Host.Outcome.next (modSeq_modSeq ..)
  · rintro hpoison d rfl hd
    have hseq : ∀ e : SeqId, e ≠ ccSeq → getSeq (dropFlight s c ccSeq (instrWord 0x0E w)) c e = getSeq s c e :=
      fun e he => getSeq_modSeq_other _ _ _ he.symm
    have hst : (getCore (dropFlight s c ccSeq (instrWord 0x0E w)) c).st = (getCore s c).st := by
      rw [dropFlight, modSeq, getCore_modCore_same]
    refine ⟨_, exec_iload_read h hgot hpoison, fun hdormant => ?_, fun hawake => ?_, fun e hed he => ?_, ?_⟩
    · rw [← hseq _ hd] at hdormant
      rw [getSeq_iloadInto_dormant hdormant]
      exact ⟨rfl, rfl, rfl, fun hrun => seqRun_iloadInto_dormant hdormant (hst.trans hrun)⟩
    · rw [← hseq _ hd] at hawake ⊢
      exact getSeq_iloadInto_awake hawake
    · rw [getSeq_iloadInto_other hed.symm, hseq e he]
    · exact (onlyCore_modCore ..).trans onlyCore_iloadInto

end Sys2Proof.Machine
end

section
/-!
Messages, microcode packets and returned credits where they arrive (R40, R220, R223, R400, R401).
-/
namespace Sys2Proof.Machine

/-- A core that holds the arrival of core d at a BARRIER, once (R40). -/
def CoreState.arrive (d : CoreId) (b : BitVec 8) (k : CoreState) : CoreState :=
  { k with arrivals := if k.arrivals.contains (d, b) then k.arrivals else k.arrivals ++ [(d, b)] }

/-- A flit that leaves the mesh changes no core. -/
theorem getCore_landed (s : State) (f : Flit) (c : CoreId) : getCore (landed s f) c = getCore s c := rfl

/-- What is left of the arrivals held when a BARRIER takes the one it waits for. -/
theorem mem_arrivals_left {l : List (CoreId × BitVec 8)} {d e : CoreId} {a b : BitVec 8} :
    (e, a) ∈ (l ++ [(d, b)]).filter (fun x => !(x.2 == b && [d].contains x.1)) ↔ (e, a) ∈ l ∧ ¬(e = d ∧ a = b) := by
  simp only [List.mem_filter, List.mem_append, List.mem_singleton, Prod.mk.injEq, List.contains_cons, List.contains_nil,
    Bool.or_false, Bool.not_eq_true', Bool.and_eq_false_iff, beq_eq_false_iff_ne]
  constructor
  · rintro ⟨hl | hnew, hother⟩
    · exact ⟨hl, fun h => hother.elim (· h.2) (· h.1)⟩
    · exact absurd hnew fun h => hother.elim (· h.2) (· h.1)
  · rintro ⟨hl, hother⟩
    refine ⟨.inl hl, ?_⟩
    by_cases hab : a = b
    · exact .inr fun hed => hother ⟨hed, hab⟩
    · exact .inl hab

/-- An arrival that is not yet held joins those that are. -/
theorem CoreState.arrive_of_not_mem {d : CoreId} {b : BitVec 8} {k : CoreState} (h : (d, b) ∉ k.arrivals) :
    k.arrive d b = { k with arrivals := k.arrivals ++ [(d, b)] } := by
  simp [CoreState.arrive, h]

/-- A barrier arrival from core d at core c leaves the mesh, and is held where the target takes it. -/
theorem exec_barrierArrival {s : State} {f : Flit} {c d : CoreId} (htyp : f.typ = 5) (hsub : fld f.aux 0 8 = 1)
    (hdst : f.dst.toNat = c.val) (hsrc : f.src.toNat = d.val) :
    exec (.barrierArrival f) s = .next (if targetDown s c = true ∨ (getCore s c).jobId ≠ f.job ∨ f.job = 0 then landed s f
      else barrierCheck (modCore (landed s f) c (CoreState.arrive d (f.aux.extractLsb' 8 8))) c) := by
  have hlt : f.typ = 5 ∧ fld f.aux 0 8 = 1 ∧ f.dst.toNat < 12 ∧ f.src.toNat < 12 := ⟨htyp, hsub, hdst ▸ c.isLt, hsrc ▸ d.isLt⟩
  obtain rfl : c = ⟨f.dst.toNat, hlt.2.2.1⟩ := Fin.ext hdst.symm
  obtain rfl : d = ⟨f.src.toNat, hlt.2.2.2⟩ := Fin.ext hsrc.symm
  refine congrArg Host.Outcome.next ((dif_pos hlt).trans ?_)
  dsimp only
  refine ite_congr (propext ?_) (fun _ => rfl) (fun _ => rfl)
  rw [Bool.or_eq_true, Bool.or_eq_true, decide_eq_true_iff, decide_eq_true_iff, or_assoc]
  rfl

theorem barrierCheck_of_none {s : State} {c : CoreId} (h : (getCore s c).barrier = none) : barrierCheck s c = s := by
  simp [barrierCheck, h]

/-- A BARRIER for which every core has arrived completes, and the arrivals it takes are used up (R40). -/
theorem barrierCheck_of_all {s : State} {c : CoreId} {b : BitVec 8} {l : List CoreId}
    (h : (getCore s c).barrier = some (b, l)) (hall : ∀ d ∈ l, (d, b) ∈ (getCore s c).arrivals) :
    barrierCheck s c = setSt (modCore s c fun k => { k with
      barrier := none, arrivals := k.arrivals.filter fun a => !(a.2 == b && l.contains a.1) }) c ccSeq .issuing := by
  unfold barrierCheck
  dsimp only
  rw [h]
  exact if_pos (by simpa using hall)

/-- The arrival that completes a BARRIER which waits for it alone. -/
theorem barrierCheck_last_arrival {s : State} {c d : CoreId} {b : BitVec 8} (h : (getCore s c).barrier = some (b, [d]))
    (hnew : (d, b) ∉ (getCore s c).arrivals) :
    barrierCheck (modCore s c (CoreState.arrive d b)) c = setSt (modCore s c fun k => { k with
      barrier := none, arrivals := (k.arrivals ++ [(d, b)]).filter fun a => !(a.2 == b && [d].contains a.1) }) c ccSeq .issuing := by
  have harrive := CoreState.arrive_of_not_mem hnew
  rw [barrierCheck_of_all (b := b) (l := [d]) (by rw [getCore_modCore_same, harrive, h])
    (by rw [getCore_modCore_same, harrive]; simp), modCore_modCore]
  refine congrArg (setSt · c ccSeq .issuing) (modCore_congr s c ?_)
  rw [harrive]

/-- A packet of the agent's own part: noted where its last flit is good. -/
theorem exec_mcd {s : State} {f : Flit} {i : Fin 440} (hservice : (vget s.agents i).retired = false) (htyp : f.typ = 6)
    (hlast : fld f.aux 32 4 = 15) (hpart : fld f.aux 36 8 = agentPart i) (ok : Bool) :
    exec (.mcd i f ok) s = .next (if !ok || f.poison then s else modAgent s i fun a =>
      { a with got := setAdd a.got (fld f.aux 16 16), missing := setDel a.missing (fld f.aux 16 16) }) := by
  refine congrArg Host.Outcome.next (ite_congr (propext ?_) (fun _ => rfl) (fun _ => rfl))
  simp [htyp, hservice, hlast, hpart]

/-- The acknowledgement of an agent in service. -/
theorem exec_ucodeAck {s : State} {f : Flit} {i : Fin 440} (hservice : (vget s.agents i).retired = false)
    (htag : f.tag.toNat = i.val) (htyp : f.typ = 5) (hsub : fld f.aux 0 8 = 3) :
    exec (.ucodeAck f) s = .next (if fld f.aux 16 16 = 0 ∧ fld f.aux 32 32 = 0 then agentDone s i else modAgent s i fun a =>
      { a with missing := (bitList (f.aux.extractLsb' 32 32)).foldl (fun l k => setAdd l (fld f.aux 16 16 + k)) a.missing }) := by
  have hlt : f.tag.toNat < 440 := htag ▸ i.isLt
  obtain rfl : i = ⟨f.tag.toNat, hlt⟩ := Fin.ext htag.symm
  refine congrArg Host.Outcome.next ((dif_pos hlt).trans (if_neg ?_))
  simp [htyp, hsub, hservice]

/-- What a set holds after several numbers were added to it. -/
theorem mem_foldl_setAdd {n base : Nat} : ∀ {ks l : List Nat},
    n ∈ ks.foldl (fun l k => setAdd l (base + k)) l ↔ n ∈ l ∨ ∃ k ∈ ks, n = base + k
  | [], l => by simp
  | k :: ks, l => by
    rw [List.foldl_cons, mem_foldl_setAdd, mem_setAdd]
    simp only [List.mem_cons, exists_eq_or_imp]
    rw [← or_assoc, or_comm (a := n ∈ l)]

theorem mem_bitList {w k : Nat} {x : BitVec w} : k ∈ bitList x ↔ k < w ∧ x.getLsbD k = true := by
  simp [bitList]

/-- Settles O25: each kind of message by the lemma about its arrival. -/
theorem messagesArrive : Obligations.MessagesArrive := by
  intro s f
  refine ⟨fun c d htyp hsub hdst hsrc => ?barrier, fun htyp hsub => congrArg Host.Outcome.next (if_pos ⟨htyp, hsub⟩),
    fun htyp hlo hhi => congrArg Host.Outcome.next (if_pos ⟨htyp, hlo, hhi⟩),
    fun i hservice => ⟨fun htyp hlast hpart => ?packet, fun htag htyp hsub => ?ack⟩, fun _ _ => ⟨rfl, rfl⟩⟩
  case barrier =>
    rw [exec_barrierArrival htyp hsub hdst hsrc]
    refine ⟨fun hdropped => congrArg Host.Outcome.next (if_pos hdropped), fun hup hjob hf hnew => ?_⟩
    rw [if_neg (by simpa [hup, hjob] using hf)]
    refine ⟨fun hnone => ?_, fun hwaits => ⟨_, congrArg Host.Outcome.next (barrierCheck_last_arrival hwaits hnew), ?_⟩⟩
    · rw [barrierCheck_of_none (by rw [getCore_modCore_same]; exact hnone)]
      exact congrArg Host.Outcome.next (modCore_congr _ c (CoreState.arrive_of_not_mem hnew))
    · refine ⟨?_, by rw [setSt, getSeq_modSeq_same], rfl, fun e b => ?_⟩
      · rw [setSt, modSeq, getCore_modCore_same, getCore_modCore_same]
      · rw [setSt, modSeq, getCore_modCore_same, getCore_modCore_same, mem_arrivals_left, getCore_landed]
  case packet =>
    rw [exec_mcd hservice htyp hlast hpart, exec_mcd hservice htyp hlast hpart]
    exact ⟨fun hgood => by rw [hgood]; rfl, rfl⟩
  case ack =>
    rw [exec_ucodeAck hservice htag htyp hsub]
    refine ⟨fun hbase hnone => congrArg Host.Outcome.next (if_pos ⟨hbase, hnone⟩), fun hmissed => ?_⟩
    refine ⟨_, congrArg Host.Outcome.next (if_neg fun h => hmissed h.2), fun n => ?_, fun j hj => ?_⟩
    · rw [modAgent_agents, vget_vmod_same]
      simp [mem_foldl_setAdd, mem_bitList, and_assoc]
    · exact vget_vmod_other _ _ hj.symm

end Sys2Proof.Machine
end

section
/-!
The Stacks registers of a core and its sequencers are apart: what a change of either leaves of the other.
-/
namespace Sys2Proof.Machine

/-- A change of the Stacks of a core leaves its sequencers. -/
theorem getSeq_modStk (s : State) (c : CoreId) (f : StkState → StkState) (d : CoreId) (q : SeqId) :
    getSeq (modStk s c f) d q = getSeq s d q := by
  by_cases hd : c = d
  · subst hd
    exact getSeq_modCore s c q _ rfl
  · rw [getSeq, modStk, getCore_modCore_other _ _ hd]
    rfl

/-- The Stacks after they were changed. -/
theorem stk_modStk (s : State) (c : CoreId) (f : StkState → StkState) :
    (getCore (modStk s c f) c).stk = f (getCore s c).stk := by
  rw [modStk, getCore_modCore_same]

/-- A change of a sequencer leaves the Stacks. -/
theorem stk_modSeq (s : State) (c : CoreId) (q : SeqId) (f : SeqState → SeqState) :
    (getCore (modSeq s c q f) c).stk = (getCore s c).stk := by
  rw [modSeq, getCore_modCore_same]

end Sys2Proof.Machine
end

section
/-!
One access at its bank (R59 to R65): what its execution or its parking leaves of the state, and how a tag wait ends (R62).
-/
namespace Sys2Proof.Machine

/-! ### The check code of a read -/

/-- A part of the state that no error of a check code reaches: it lies outside the Stacks registers, the records and the
poison (R64). -/
structure OutsideErrors {β : Type} (g : State → β) : Prop where
  stk : ∀ s c f, g (modStk s c f) = g s
  record : ∀ s r, g (writeRecord s r) = g s
  gen : ∀ s, g (bumpGen s) = g s
  poison : ∀ s n b, g (setPoison s n b) = g s

theorem outsideErrors_mem : OutsideErrors (·.mem) :=
  ⟨modStk_mem, writeRecord_mem, bumpGen_mem, fun _ _ _ => rfl⟩

theorem outsideErrors_full : OutsideErrors (·.full) :=
  ⟨modStk_full, writeRecord_full, bumpGen_full, fun _ _ _ => rfl⟩

theorem outsideErrors_getSeq (c : CoreId) (q : SeqId) : OutsideErrors (getSeq · c q) where
  stk s d f := getSeq_modStk s d f c q
  record s r := getSeq_cores (writeRecord_cores s r) c q
  gen s := getSeq_cores (bumpGen_cores s) c q
  poison _ _ _ := rfl

theorem OutsideErrors.markRepair {β : Type} {g : State → β} (hg : OutsideErrors g) (s : State) (c : CoreId) (sa bank : Nat) :
    g (markRepair s c sa bank) = g s := by
  unfold Machine.markRepair
  split
  · rfl
  · exact (hg.record _ _).trans (hg.stk _ _ _)

theorem OutsideErrors.markRepair_if {β : Type} {g : State → β} (hg : OutsideErrors g) (p : Prop) [Decidable p] (s : State)
    (c : CoreId) (sa bank : Nat) : g (if p then Machine.markRepair s c sa bank else s) = g s := by
  split
  · exact hg.markRepair ..
  · rfl

theorem OutsideErrors.stkError {β : Type} {g : State → β} (hg : OutsideErrors g) (s : State) (c : CoreId) (sa : Nat)
    (ue patrol : Bool) : g (stkError s c sa ue patrol) = g s := by
  unfold Machine.stkError
  cases ue
  case false =>
    simp only [Bool.false_eq_true, if_false]
    rw [hg.markRepair_if, hg.stk, hg.gen, hg.stk]
  case true =>
    simp only [if_true]
    rw [hg.markRepair_if, hg.record, hg.stk, hg.poison, hg.gen, hg.stk]

theorem OutsideErrors.eccRead {β : Type} {g : State → β} (hg : OutsideErrors g) (s : State) (c : CoreId) (sa : Nat) (e : Ecc)
    (patrol : Bool) : g (eccRead s c sa e patrol) = g s := by
  cases e
  case clean => rfl
  case correctable => exact hg.stkError s c sa false patrol
  case uncorrectable => exact hg.stkError s c sa true patrol

theorem markRepair_if_poison (p : Prop) [Decidable p] (s : State) (c : CoreId) (sa bank : Nat) :
    (if p then markRepair s c sa bank else s).poison = s.poison := by
  unfold markRepair
  split
  · split
    · rfl
    · exact writeRecord_poison _ _
  · rfl

theorem isPoison_congr {s t : State} (h : t.poison = s.poison) (n : Nat) : isPoison t n = isPoison s n := by
  unfold isPoison
  rw [h]

theorem isPoison_setPoison_true (s : State) (n : Nat) : isPoison (setPoison s n true) n = true := by
  simp [isPoison, setPoison, setPut, mem_setAdd]

/-- An uncorrectable error poisons the slot that was read (R64). -/
theorem isPoison_eccRead_uncorrectable (s : State) (c : CoreId) (sa : Nat) (patrol : Bool) :
    isPoison (eccRead s c sa .uncorrectable patrol) (slotOf c sa) = true := by
  rw [← isPoison_setPoison_true s (slotOf c sa)]
  refine isPoison_congr ?_ _
  unfold eccRead stkError
  simp only [if_true]
  rw [markRepair_if_poison, writeRecord_poison]
  rfl

/-! ### The execution of an access -/

section
variable {s : State} {c : CoreId} {a : Access} {e : Ecc}

theorem execLocal_write (h : a.write = true) : execLocal s c a e =
    (setFull (stkPut s c a.addr a.lo a.data a.poison) (slotOf c a.addr) (tagAfter a.tm (isFull s (slotOf c a.addr))),
      { a with phase := .done }) := by
  unfold execLocal
  exact if_pos h

theorem execLocal_read (h : a.write = false) : execLocal s c a e =
    (countConsumed (setFull (eccRead s c a.addr e false) (slotOf c a.addr) (tagAfter a.tm (isFull s (slotOf c a.addr)))) c a.addr a.tm,
      { a with
        data := memRead (eccRead s c a.addr e false).mem (stacksAddr c a.addr + a.lo) a.len
        poison := isPoison (eccRead s c a.addr e false) (slotOf c a.addr)
        phase := .done }) := by
  unfold execLocal
  exact if_neg (by simp [h])

theorem execLocal_done : (execLocal s c a e).2.phase = .done := by
  cases h : a.write
  case true => rw [execLocal_write h]
  case false => rw [execLocal_read h]

/-- CONSUMED is a register of a Carrel. -/
theorem countConsumed_eq_modStk (s : State) (c : CoreId) (sa : Nat) (tm : BitVec 2) :
    ∃ f, countConsumed s c sa tm = modStk s c f := by
  unfold countConsumed
  split
  · split
    · exact ⟨_, rfl⟩
    · exact ⟨id, (modCore_id s c).symm⟩
  · exact ⟨id, (modCore_id s c).symm⟩

/-- A write notes a full write of its slot in the Stacks registers. -/
theorem stkPut_eq_modStk (s : State) (c : CoreId) (sa lo : Nat) (data : List Byte) (poison : Bool) :
    ∃ f, stkPut s c sa lo data poison = modStk (putSlot s (stacksAddr c sa + lo) data poison) c f := by
  unfold stkPut
  dsimp only
  split
  · exact ⟨_, rfl⟩
  · exact ⟨id, (modCore_id _ c).symm⟩

/-- The state after a write: bytes, poison and tag of its slot, and the Stacks registers. -/
theorem execLocal_write_state (h : a.write = true) : ∃ f, (execLocal s c a e).1 =
    modStk (setFull (putSlot s (stacksAddr c a.addr + a.lo) a.data a.poison) (slotOf c a.addr)
      (tagAfter a.tm (isFull s (slotOf c a.addr)))) c f := by
  obtain ⟨f, hput⟩ := stkPut_eq_modStk s c a.addr a.lo a.data a.poison
  rw [execLocal_write h, hput]
  exact ⟨f, rfl⟩

/-- The state after a read: what the check code does, the tag of its slot, and the Stacks registers. -/
theorem execLocal_read_state (h : a.write = false) : ∃ f, (execLocal s c a e).1 =
    modStk (setFull (eccRead s c a.addr e false) (slotOf c a.addr) (tagAfter a.tm (isFull s (slotOf c a.addr)))) c f := by
  rw [execLocal_read h]
  exact countConsumed_eq_modStk ..

/-- An access leaves the sequencers to its engine. -/
theorem getSeq_execLocal (p : SeqId) : getSeq (execLocal s c a e).1 c p = getSeq s c p := by
  cases h : a.write
  case true =>
    obtain ⟨f, hstate⟩ := execLocal_write_state (s := s) (c := c) (e := e) h
    rw [hstate, getSeq_modStk]
    rfl
  case false =>
    obtain ⟨f, hstate⟩ := execLocal_read_state (s := s) (c := c) (e := e) h
    rw [hstate, getSeq_modStk]
    exact (outsideErrors_getSeq c p).eccRead ..

/-- The tags after an access: that of its slot as Table 03-6 says. -/
theorem execLocal_full : (execLocal s c a e).1.full =
    setPut s.full (slotOf c a.addr) (tagAfter a.tm (isFull s (slotOf c a.addr))) := by
  cases h : a.write
  case true =>
    obtain ⟨f, hstate⟩ := execLocal_write_state (s := s) (c := c) (e := e) h
    rw [hstate]
    rfl
  case false =>
    obtain ⟨f, hstate⟩ := execLocal_read_state (s := s) (c := c) (e := e) h
    rw [hstate]
    exact congrArg (setPut · _ _) (outsideErrors_full.eccRead ..)

theorem isFull_execLocal (hs : s.Canonical) (m : Nat) : isFull (execLocal s c a e).1 m =
    if m = slotOf c a.addr then tagAfter a.tm (isFull s (slotOf c a.addr)) else isFull s m := by
  rw [← isFull_setFull s hs.2.1, isFull, execLocal_full]
  rfl

/-- Memory after a write: its own bytes. -/
theorem execLocal_write_mem (h : a.write = true) :
    (execLocal s c a e).1.mem = memWrite s.mem (stacksAddr c a.addr + a.lo) a.data := by
  obtain ⟨f, hstate⟩ := execLocal_write_state (s := s) (c := c) (e := e) h
  rw [hstate]
  rfl

theorem execLocal_read_mem (h : a.write = false) : (execLocal s c a e).1.mem = s.mem := by
  obtain ⟨f, hstate⟩ := execLocal_read_state (s := s) (c := c) (e := e) h
  rw [hstate]
  exact outsideErrors_mem.eccRead ..

/-- What a read returns: the bytes that stand there. -/
theorem execLocal_read_data (h : a.write = false) :
    (execLocal s c a e).2.data = memRead s.mem (stacksAddr c a.addr + a.lo) a.len := by
  rw [execLocal_read h]
  exact congrArg (memRead · _ _) (outsideErrors_mem.eccRead ..)

/-- A clean read returns the poison of its slot and leaves all poison as it is. -/
theorem execLocal_clean_poison (h : a.write = false) :
    (execLocal s c a .clean).2.poison = isPoison s (slotOf c a.addr) ∧ (execLocal s c a .clean).1.poison = s.poison := by
  obtain ⟨f, hstate⟩ := execLocal_read_state (s := s) (c := c) (e := .clean) h
  rw [hstate, execLocal_read h]
  exact ⟨rfl, rfl⟩

theorem execLocal_uncorrectable_poison (h : a.write = false) : (execLocal s c a .uncorrectable).2.poison = true := by
  rw [execLocal_read h]
  exact isPoison_eccRead_uncorrectable ..

/-- A write of a whole slot gives the slot its own poison (R65). -/
theorem isPoison_execLocal_whole (h : a.write = true) (hlo : a.lo = 0) (hlen : a.data.length = 64) (haddr : a.addr % 64 = 0)
    (hs : s.Canonical) : isPoison (execLocal s c a e).1 (slotOf c a.addr) = a.poison := by
  have hstart : stacksAddr c a.addr % 64 = 0 := by
    unfold stacksAddr
    omega
  obtain ⟨f, hstate⟩ := execLocal_write_state (s := s) (c := c) (e := e) h
  have hpoison : (execLocal s c a e).1.poison = (setPoison s (slotOf c a.addr) a.poison).poison := by
    rw [hstate]
    simp [putSlot, setPoison, setFull, setBytesAt, slotOf, hstart, hlen, hlo]
  rw [isPoison_congr hpoison, isPoison_setPoison s hs.2.2, if_pos rfl]

end

/-! ### The bank -/

section
variable {s : State} {c : CoreId} {cyc n : Nat} {q : SeqId} {e : Ecc} {a : Access}

/-- What a bank does with an open local access in a slot of its class that nothing holds back (R42, R59 to R61). -/
theorem exec_bankAccess (hopen : openAt (getSeq s c q) n = some a) (hplace : a.place = .here)
    (hphase : a.phase = .todo ∨ a.phase = .parked true ∨ a.phase = .parked false) (hclock : coreClocked s c = true)
    (howner : frameOwner (frameTable (getCore s c)) cyc = frameClass q)
    (hheld : heldBack s c (presentedBefore (getSeq s c q) n) a = false) :
    exec (.stacksAccessExecute c cyc (.engine q n) e) s = .next (
      if localPasses s c a then
        if isChosen s c q n (bankOf s c a.addr) then
          let t := modSeq (execLocal s c a e).1 c q fun x => setOpen x n (execLocal s c a e).2
          if q.val < 7 then t else modStk t c fun k => { k with dmaTurn := smapSet 0 k.dmaTurn (bankOf s c a.addr) q.val }
        else s
      else modSeq (parkLocal s c [] a).1 c q fun x => setOpen x n (parkLocal s c [] a).2) := by
  refine congrArg Host.Outcome.next ((if_pos hclock).trans ?_)
  unfold execEngineAccess
  dsimp only
  rw [hopen]
  dsimp only
  rw [if_neg (by simp [hplace, howner, hheld])]
  obtain h | h | h := hphase
  all_goals rw [h]

/-- An access that passes and is chosen executes; a DMA requester's turn is noted in the Stacks registers. -/
theorem exec_bankAccess_executes (hopen : openAt (getSeq s c q) n = some a) (hplace : a.place = .here)
    (hphase : a.phase = .todo ∨ a.phase = .parked true ∨ a.phase = .parked false) (hclock : coreClocked s c = true)
    (howner : frameOwner (frameTable (getCore s c)) cyc = frameClass q)
    (hheld : heldBack s c (presentedBefore (getSeq s c q) n) a = false) (hpass : localPasses s c a = true)
    (hchosen : isChosen s c q n (bankOf s c a.addr) = true) :
    ∃ turn, exec (.stacksAccessExecute c cyc (.engine q n) e) s =
      .next (modStk (modSeq (execLocal s c a e).1 c q fun x => setOpen x n (execLocal s c a e).2) c turn) := by
  rw [exec_bankAccess hopen hplace hphase hclock howner hheld, if_pos hpass, if_pos hchosen]
  dsimp only
  split
  · exact ⟨id, congrArg Host.Outcome.next (modCore_id _ c).symm⟩
  · exact ⟨_, rfl⟩

/-- An access that does not pass takes a waiter entry of its bank where one is free (R60). -/
theorem exec_bankAccess_parks (hopen : openAt (getSeq s c q) n = some a) (hplace : a.place = .here) (hphase : a.phase = .todo)
    (hclock : coreClocked s c = true) (howner : frameOwner (frameTable (getCore s c)) cyc = frameClass q)
    (hheld : heldBack s c (presentedBefore (getSeq s c q) n) a = false) (hpass : localPasses s c a = false)
    (hfree : localWaiters s c (bankOf s c a.addr) < 12) :
    ∃ waiters, exec (.stacksAccessExecute c cyc (.engine q n) e) s =
      .next (modSeq (modStk s c waiters) c q fun x => setOpen x n { a with phase := .parked true }) := by
  have hpark : ∃ waiters, parkLocal s c [] a = (modStk s c waiters, { a with phase := .parked true }) := by
    unfold parkLocal
    rw [hphase]
    exact ⟨_, if_pos hfree⟩
  obtain ⟨waiters, hpark⟩ := hpark
  rw [exec_bankAccess hopen hplace (.inl hphase) hclock howner hheld, if_neg (by simp [hpass]), hpark]
  exact ⟨_, rfl⟩

theorem tagTimeoutRuns_iff : tagTimeoutRuns s c = true ↔ (getCore s c).stk.tagTmoUs ≠ 0 ∧ (getCore s c).st = .running := by
  simp [tagTimeoutRuns]

/-- A parked access whose tag wait has lasted too long (R62). -/
theorem exec_tagTimeout_engine (hruns : tagTimeoutRuns s c = true) (hopen : openAt (getSeq s c q) n = some a)
    (hparked : ∃ b, a.phase = .parked b) :
    exec (.tagTimeout c (.engine q n)) s = .next (seqFault s c q (opcodeOfOpen (getSeq s c q) n) 0x06) := by
  obtain ⟨b, hb⟩ := hparked
  refine congrArg Host.Outcome.next ((if_neg (by simp [hruns])).trans ?_)
  dsimp only
  rw [hopen]
  dsimp only
  rw [hb]

/-- An instruction held at issue by a tag. -/
theorem exec_tagTimeout_issue (hruns : tagTimeoutRuns s c = true) (hwait : (getSeq s c q).st = .waitTag) :
    exec (.tagTimeout c (.issue q)) s = .next (seqFault s c q (opcodeOf (fetched (getSeq s c q))) 0x06) :=
  congrArg Host.Outcome.next ((if_neg (by simp [hruns])).trans (if_pos hwait))

/-- A remote access parked at its target. -/
theorem exec_tagTimeout_remote {r : RemoteAccess} (hruns : tagTimeoutRuns s c = true)
    (hat : (getCore s c).stk.remote[n]? = some r) (hparked : r.parked = true) :
    exec (.tagTimeout c (.remote n)) s =
      .next (modStk (respond s r.flit 4 [] false) c fun k => { k with remote := k.remote.eraseIdx n }) := by
  refine congrArg Host.Outcome.next ((if_neg (by simp [hruns])).trans ?_)
  dsimp only
  rw [hat]
  exact if_pos hparked

end

/-- Settles O12: the bank's cases, then what the execution of the access leaves of each part of the state. -/
theorem bankExecutesAccess : Obligations.BankExecutesAccess := by
  intro s c cyc n q e a
  refine ⟨fun hopen hplace hphase hclock howner hheld => ⟨fun hpass hchosen => ?executes, fun hpass hphase hfree => ?parks⟩,
    fun hopen hparked htmo hrun => exec_tagTimeout_engine (tagTimeoutRuns_iff.mpr ⟨htmo, hrun⟩) hopen hparked,
    fun hwait htmo hrun => exec_tagTimeout_issue (tagTimeoutRuns_iff.mpr ⟨htmo, hrun⟩) hwait,
    fun r hat hparked htmo hrun => exec_tagTimeout_remote (tagTimeoutRuns_iff.mpr ⟨htmo, hrun⟩) hat hparked⟩
  case executes =>
    obtain ⟨turn, hexec⟩ := exec_bankAccess_executes (e := e) hopen hplace hphase hclock howner hheld hpass hchosen
    refine ⟨_, (execLocal s c a e).2, hexec, execLocal_done, ?_, fun p hp => ?_, fun hs => ?_, fun hwrite => ?_, fun hread => ?_⟩
    · rw [getSeq_modStk, getSeq_modSeq_same, getSeq_execLocal]
    · rw [getSeq_modStk, getSeq_modSeq_other _ _ _ hp.symm, getSeq_execLocal]
    · exact ⟨(isFull_execLocal hs _).trans (if_pos rfl), fun m hm => (isFull_execLocal hs m).trans (if_neg hm)⟩
    · rw [modStk_mem, modSeq_mem, execLocal_write_mem hwrite]
      exact ⟨fun x hx => memGet_memWrite_other hx, fun hs i hi => memGet_memWrite_same i hi hs.1, isPoison_execLocal_whole hwrite⟩
    · rw [modStk_mem, modSeq_mem, execLocal_read_mem hread]
      refine ⟨rfl, execLocal_read_data hread, ?_, ?_⟩
      · rintro rfl
        exact execLocal_clean_poison hread
      · rintro rfl
        exact execLocal_uncorrectable_poison hread
  case parks =>
    obtain ⟨waiters, hexec⟩ := exec_bankAccess_parks (e := e) hopen hplace hphase hclock howner hheld hpass hfree
    refine ⟨_, hexec, ?_, rfl, rfl, rfl, (onlyCore_modCore s c _).trans (onlyCore_modCore _ c _)⟩
    rw [getSeq_modSeq_same, getSeq_modStk]

end Sys2Proof.Machine
end

section
/-!
The upkeep of Stacks (R50 to R53, R64, R66, R78) and the end of a scrub (R79).
-/
namespace Sys2Proof.Machine

/-! ### Write-back and patrol -/

/-- A clean patrol read of the slot whose turn it is moves the patrol to the next slot, or starts a new pass (R66). -/
theorem exec_patrolRead_turn {s : State} {c : CoreId} {sa : BitVec 32} (halign : sa.toNat % 64 = 0)
    (hin : sa.toNat < stkSize s c) (hscrub : inScrub (getCore s c).stk sa.toNat = false) (hdown : targetDown s c = false)
    (hturn : (getCore s c).stk.patrolAt = sa.toNat) :
    exec (.patrolRead c sa .clean) s = .next (modStk s c fun k =>
      if sa.toNat + 64 < stkSize s c then { k with patrolAt := sa.toNat + 64 } else { k with patrolAt := 0, passes := k.passes + 1 }) := by
  have hslot : sa.toNat / 64 * 64 = sa.toNat := by omega
  refine congrArg Host.Outcome.next ((if_neg ?_).trans ((if_neg ?_).trans ?_))
  · rw [hslot]
    simp [hin, hscrub, hdown]
  · rw [hslot]
    exact not_not_intro hturn
  · rw [hslot]
    by_cases hlast : sa.toNat + 64 < stkSize s c
    · simp [eccRead, hlast]
    · simp [eccRead, hlast]

/-! ### Banks and sets -/

/-- The condition report and the records are apart from the cores. -/
theorem getCore_writeRecord_condAppend (s : State) (u : BitVec 32) (x y : BitVec 8) (z : BitVec 16) (v : BitVec 32) (r : ErrRec)
    (c : CoreId) : getCore (writeRecord (condAppend s u x y z v) r) c = getCore s c :=
  getCore_cores ((writeRecord_cores _ _).trans (condAppend_cores _ _ _ _ _ _)) c

/-- The slots of a bank (R53), among all slots: those of window set w in column b. -/
def inBank (c : CoreId) (w b n : Nat) : Bool :=
  decide (slotOf c (w * setBytes) ≤ n) && decide (n < slotOf c ((w + 1) * setBytes)) && decide (n % 32 = b)

/-- Memory after the scrub of a bank: its bytes are zero. -/
theorem memGet_scrubBank (s : State) (c : CoreId) (w b x : Nat) :
    memGet (scrubBank s c w b).mem x = if inBank c w b (x / 64) then 0 else memGet s.mem x := by
  refine (memGet_filter (fun x => !inBank c w b (x / 64)) x s.mem).trans ?_
  cases inBank c w b (x / 64) <;> rfl

theorem getCore_scrubBank (s : State) (c : CoreId) (w b : Nat) (d : CoreId) : getCore (scrubBank s c w b) d = getCore s d := rfl

/-- Byte i of the bank's slot in row r lies in the bank. -/
theorem inBank_row {c : CoreId} {w b r i : Nat} (hb : b < 32) (hr : r < 32768) (hi : i < 64) :
    inBank c w b (stacksAddr c (w * setBytes + r * 2048 + b * 64 + i) / 64) = true := by
  have hrange : slotOf c (w * setBytes) ≤ stacksAddr c (w * setBytes + r * 2048 + b * 64 + i) / 64 ∧
      stacksAddr c (w * setBytes + r * 2048 + b * 64 + i) / 64 < slotOf c ((w + 1) * setBytes) ∧
      stacksAddr c (w * setBytes + r * 2048 + b * 64 + i) / 64 % 32 = b := by
    simp only [slotOf, stacksAddr, setBytes]
    omega
  simpa [inBank, and_assoc] using hrange

section
variable {s : State} {c : CoreId}

/-- The Stacks registers with bank b in repair: its mark gone, a spare of its cluster in its place (R53). -/
def StkState.repairedBank (b : Nat) (used : Nat × Bool → Bool) (k : StkState) : StkState :=
  { k with
    repairPend := setDel k.repairPend b
    repaired := setAdd k.repaired b
    spareC0 := if b / 32 < 10 then k.spareC0 - 1 else k.spareC0
    spareC1 := if b / 32 < 10 then k.spareC1 else k.spareC1 - 1
    ueSlots := k.ueSlots.filter used }

/-- The repair of a bank takes one spare, where its cluster has one. -/
theorem StkState.spares_repairedBank {b : Nat} {used : Nat × Bool → Bool} {k : StkState}
    (h : (if b / 32 < 10 then k.spareC0 else k.spareC1) ≠ 0) :
    (k.repairedBank b used).spareC0 + (k.repairedBank b used).spareC1 + 1 = k.spareC0 + k.spareC1 := by
  unfold StkState.repairedBank
  by_cases hset : b / 32 < 10
  · simp only [hset, if_true] at h ⊢
    omega
  · simp only [hset, if_false] at h ⊢
    omega

theorem exec_bankRepair_spare {bank : Fin 640} (hjob : (getCore s c).jobId = 0) (hpend : bank.val ∈ (getCore s c).stk.repairPend)
    (hspare : (if bank.val / 32 < 10 then (getCore s c).stk.spareC0 else (getCore s c).stk.spareC1) ≠ 0) :
    ∃ t, exec (.bankRepair c bank) s = .next t ∧
      t.mem = (scrubBank s c (windowOf (getCore s c).stk (bank.val / 32)) (bank.val % 32)).mem ∧
      ∃ used, (getCore t c).stk = StkState.repairedBank bank.val used (getCore s c).stk := by
  refine ⟨_, congrArg Host.Outcome.next ((if_neg (by simp [hjob, hpend])).trans (if_neg hspare)),
    (writeRecord_mem _ _).trans (condAppend_mem _ _ _ _ _ _), ?_⟩
  rw [getCore_writeRecord_condAppend, getCore_scrubBank, stk_modStk, stk_modStk]
  exact ⟨_, rfl⟩

theorem exec_bankRepair_none {bank : Fin 640} (hjob : (getCore s c).jobId = 0) (hpend : bank.val ∈ (getCore s c).stk.repairPend)
    (hspare : (if bank.val / 32 < 10 then (getCore s c).stk.spareC0 else (getCore s c).stk.spareC1) = 0) :
    exec (.bankRepair c bank) s = .next (noted (modStk (modStk s c fun k => { k with
      repairPend := setDel k.repairPend bank.val }) c fun k => { k with retirePend := setBit k.retirePend (bank.val / 32) true })) :=
  congrArg Host.Outcome.next ((if_neg (by simp [hjob, hpend])).trans (if_pos hspare))

theorem exec_setRetire_leaves {set : Fin 20} (hjob : (getCore s c).jobId = 0)
    (hpend : bit (getCore s c).stk.retirePend set.val = true) (hin : bit (getCore s c).stk.insvc set.val = true)
    (hmany : 18 < popcount (getCore s c).stk.insvc) :
    ∃ t banks, exec (.setRetire c set) s = .next t ∧ getCore t c = { getCore s c with stk := { (getCore s c).stk with
      insvc := setBit (getCore s c).stk.insvc set.val false
      retirePend := setBit (getCore s c).stk.retirePend set.val false
      repairPend := banks } } :=
  ⟨_, _, congrArg Host.Outcome.next ((if_neg (by simp [hjob, hpend, hin])).trans (if_neg (Nat.not_le.mpr hmany))),
    (getCore_writeRecord_condAppend ..).trans (getCore_modCore_same s c _)⟩

theorem exec_setRetire_loses {set : Fin 20} (hjob : (getCore s c).jobId = 0)
    (hpend : bit (getCore s c).stk.retirePend set.val = true) (hin : bit (getCore s c).stk.insvc set.val = true)
    (hfew : popcount (getCore s c).stk.insvc ≤ 18) :
    exec (.setRetire c set) s = .next (loseCore (condAppend s (unitWord 0 c.val 0) 0x01 1 0 0) c) :=
  congrArg Host.Outcome.next ((if_neg (by simp [hjob, hpend, hin])).trans (if_pos hfew))

end

/-! ### The end of a scrub -/

/-- A core as the end of its scrub leaves it (R79, R183, R334). -/
def CoreState.scrubbed (k : CoreState) : CoreState :=
  { k with
    st := if k.st = .lost then .lost else if k.fenced then .reset else .idle
    stk := { k.stk with scrub := 0, hold := false }
    jobId := 0, clGate := 3, ungating := 0, sets := 0, seqRun := 0, saved := 0, frameSel := 0, framePend := none,
    arrivals := [], barrier := none
    welts := k.welts.map fun w => { w with cache := [], cpoison := [] }
    lasts := k.lasts.map fun l => { l with fallback := false }
    awl := { k.awl with fallback := false } }

theorem getCore_endScrub_same (s : State) (c : CoreId) : getCore (endScrub s c) c = (getCore s c).scrubbed := by
  unfold endScrub
  dsimp only
  rw [getCore_modCore_same, modStk, getCore_modCore_same]
  rfl

theorem getCore_endScrub_other (s : State) {c d : CoreId} (h : c ≠ d) : getCore (endScrub s c) d = getCore s d := by
  unfold endScrub
  dsimp only
  rw [getCore_modCore_other _ _ h, modStk, getCore_modCore_other _ _ h]
  rfl

theorem memGet_endScrub (s : State) (c : CoreId) (x : Nat) : memGet (endScrub s c).mem x =
    if x < stacksAddr c 0 ∨ stacksAddr c 0 + stkSize s c ≤ x then memGet s.mem x else 0 :=
  memGet_memErase ..

theorem CoreState.scrubbed_scrubbed (k : CoreState) : k.scrubbed.scrubbed = k.scrubbed := by
  have hst : k.scrubbed.scrubbed.st = k.scrubbed.st := by
    by_cases hlost : k.st = .lost
    · simp [CoreState.scrubbed, hlost]
    · cases hfence : k.fenced <;> simp [CoreState.scrubbed, hlost, hfence]
  unfold CoreState.scrubbed at hst ⊢
  simp only [Vector.map_map, Function.comp_def, CoreState.mk.injEq] at hst ⊢
  simpa using hst

/-- The cores after the scrub of a list of cores has ended. -/
theorem getCore_foldl_endScrub (d : CoreId) : ∀ (l : List CoreId) (s : State),
    getCore (l.foldl endScrub s) d = if d ∈ l then (getCore s d).scrubbed else getCore s d
  | [], s => by simp
  | c :: l, s => by
    rw [List.foldl_cons, getCore_foldl_endScrub d l]
    by_cases hd : c = d
    · subst hd
      simp [getCore_endScrub_same, CoreState.scrubbed_scrubbed]
    · simp [getCore_endScrub_other s hd, Ne.symm hd]

/-- A byte that reads zero stays so. -/
theorem memGet_foldl_endScrub_zero {x : Nat} : ∀ (l : List CoreId) {s : State}, memGet s.mem x = 0 →
    memGet (l.foldl endScrub s).mem x = 0
  | [], _, h => h
  | c :: l, s, h => by
    refine memGet_foldl_endScrub_zero l (s := endScrub s c) ?_
    rw [memGet_endScrub, h, ite_self]

/-- Every byte of the Stacks of a core in the list reads zero. -/
theorem memGet_foldl_endScrub {d : CoreId} {sa : Nat} {l : List CoreId} {s : State} (hd : d ∈ l) (hsa : sa < stkSize s d) :
    memGet (l.foldl endScrub s).mem (stacksAddr d sa) = 0 := by
  induction l generalizing s with
  | nil => cases hd
  | cons c l ih =>
    by_cases hc : c = d
    · subst hc
      refine memGet_foldl_endScrub_zero l (s := endScrub s c) ?_
      rw [memGet_endScrub, if_neg (by simp only [stacksAddr]; omega)]
    · have hsize : stkSize (endScrub s c) d = stkSize s d := by rw [stkSize, getCore_endScrub_other s hc, stkSize]
      exact ih (List.mem_of_ne_of_mem (Ne.symm hc) hd) (by rw [hsize]; exact hsa)

theorem freeJob_cores (s : State) (j : BitVec 6) : (freeJob s j).cores = s.cores := noted_cores _

theorem freeJob_mem (s : State) (j : BitVec 6) : (freeJob s j).mem = s.mem := noted_mem _

/-- The ID of a job that has left is free. -/
theorem findJob_freeJob (s : State) (j : BitVec 6) : findJob (freeJob s j) j = none := by
  have hjobs : (freeJob s j).reg.jobs = s.reg.jobs.filter fun x => x.id != j := congrArg Registrar.jobs (raiseVec_reg _ _ _)
  rw [findJob, hjobs, List.find?_eq_none]
  intro x hx
  simpa using (List.mem_filter.mp hx).2

/-- With no core of the job held, all its cores end their scrub and the job leaves (R79, R334). -/
theorem exec_scrubComplete_free {s : State} {j : Job} (hfind : findJob s j.id = some j) (hstate : j.state = 6)
    (hdrain : j.draining = false) (hhold : ∀ d ∈ j.cores, (getCore s d).stk.hold = false) :
    exec (.scrubComplete j.id) s = .next (freeJob (j.cores.foldl endScrub s) j.id) := by
  have hall : (j.cores.filter fun c => !(getCore s c).stk.hold) = j.cores :=
    List.filter_eq_self.mpr fun d hd => by rw [hhold d hd]; rfl
  refine congrArg Host.Outcome.next ?_
  rw [hfind]
  dsimp only
  rw [if_neg (by simp [hstate, hdrain]), hall, if_pos rfl]

/-- Settles O13: an equation for each command, then what it says of the parts named. -/
theorem stacksUpkeep : Obligations.StacksUpkeep := by
  intro s c
  refine ⟨fun _ => rfl, fun sa => exec_patrolRead_turn, fun _ => rfl, fun bank hjob hpend => ⟨fun hspare => ?repair, fun hnone => ?mark⟩,
    fun set hjob hpend hin => ⟨fun hmany => ?retire, fun hfew => ?lose⟩, fun j hfind hstate hdrain hhold => ?scrub⟩
  case repair =>
    obtain ⟨t, hexec, hmem, used, hstk⟩ := exec_bankRepair_spare hjob hpend hspare
    refine ⟨t, hexec, ?_⟩
    rw [hstk, hmem]
    refine ⟨rfl, rfl, StkState.spares_repairedBank hspare, rfl, fun x => ?_, fun r hr i hi => ?_⟩
    · rw [memGet_scrubBank]
      split
      · exact .inl rfl
      · exact .inr rfl
    · rw [memGet_scrubBank, inBank_row (Nat.mod_lt _ (by decide)) hr hi, if_pos rfl]
  case mark =>
    refine ⟨_, exec_bankRepair_none hjob hpend hnone, ?_, ?_⟩
    · rw [getCore_cores (noted_cores _), stk_modStk]
      exact setBit_bit _ _ (by omega)
    · rw [noted_mem]
      rfl
  case retire =>
    obtain ⟨t, banks, hexec, hcore⟩ := exec_setRetire_leaves hjob hpend hin hmany
    refine ⟨t, hexec, ?_⟩
    rw [hcore]
    exact ⟨rfl, setBit_clear _ _ set.isLt, rfl⟩
  case lose =>
    obtain ⟨hlost, hinsvc⟩ := loseCore_st (condAppend s (unitWord 0 c.val 0) 0x01 1 0 0) c
    exact ⟨_, exec_setRetire_loses hjob hpend hin hfew, hlost, hinsvc.trans (by rw [getCore_cores (condAppend_cores ..)])⟩
  case scrub =>
    refine ⟨_, exec_scrubComplete_free hfind hstate hdrain hhold, findJob_freeJob .., fun d hd => ?_, fun d hd => ?_⟩
    · rw [getCore_cores (freeJob_cores _ _), freeJob_mem, getCore_foldl_endScrub, if_pos hd]
      refine ⟨rfl, rfl, fun hlost hfence => ?_, fun sa hsa => memGet_foldl_endScrub hd hsa⟩
      simp [CoreState.scrubbed, hlost, hfence]
    · rw [getCore_cores (freeJob_cores _ _), getCore_foldl_endScrub, if_neg hd]

end Sys2Proof.Machine
end

section
/-!
FILL and COPY (R67, R68): what the bytes of a stream do to memory, and how both instructions complete.
-/
namespace Sys2Proof.Machine

/-- A byte outside every piece keeps its value. -/
theorem memGet_putPieces_outside {base x : Nat} : ∀ {ps : List Piece} {l : List (Byte × Bool)} {m : List Host.Cell},
    (∀ p ∈ ps, x < base + p.slot + p.lo ∨ base + p.slot + p.lo + p.len ≤ x) → memGet (putPieces base ps l m) x = memGet m x
  | [], _, _, _ => rfl
  | p :: ps, l, m, h => by
    obtain ⟨hp, hps⟩ := List.forall_mem_cons.mp h
    have hlen : ((l.take p.len).map (·.1)).length ≤ p.len := by
      rw [List.length_map]
      exact List.length_take_le ..
    rw [putPieces, memGet_putPieces_outside hps, memGet_memWrite_other (by omega)]

@[simp] theorem applyTagop_mem (s : State) (op slot : Nat) : (applyTagop s op slot).mem = s.mem := by
  unfold applyTagop
  split
  · rfl
  · split <;> rfl

/-- The poison and the tags of a stream's slots are apart from its bytes. -/
theorem putStream_mem (s : State) (c : CoreId) (ps : List Piece) (l : List (Byte × Bool)) (tagop : Nat) :
    (putStream s c ps l tagop).mem = putPieces (stacksAddr c 0) ps l s.mem := by
  refine foldl_field (·.mem) (fun s a => ?_) _ _
  dsimp only
  rw [applyTagop_mem]
  cases coversWhole ps a <;> rfl

/-- Memory outside the pieces of a stream that is written. -/
theorem memGet_putStream_outside {s : State} {c : CoreId} {ps : List Piece} {l : List (Byte × Bool)} {tagop x : Nat}
    (h : ∀ p ∈ ps, x < stacksAddr c 0 + p.slot + p.lo ∨ stacksAddr c 0 + p.slot + p.lo + p.len ≤ x) :
    memGet (putStream s c ps l tagop).mem x = memGet s.mem x := by
  rw [putStream_mem, memGet_putPieces_outside h]

/-- With no event at the check code, reading slots changes nothing (R64). -/
theorem eccRead_noEvents (s : State) (c : CoreId) (slots : List Nat) :
    slots.foldl (fun s a => eccRead s c a (eccAt [] false (a / 64)) false) s = s :=
  foldl_field id (fun _ _ => rfl) slots s

section
variable {s : State} {c : CoreId} {d : Fin 8} {w : BitVec 120} {y : InFlight}

/-- A FILL in flight completes where its class owns a frame slot. -/
theorem exec_fill_landed (hslot : classHasSlot (frameTable (getCore s c)) 7 = true)
    (h : s.Landed c (dmaSeq d) (instrWord 0x10 w) y) {ps : List Piece} (hps : ps = (descrOf (smapGet 0 y.view (fld w 112 8))).pieces) :
    exec (.fill c d w) s = .next (putStream (dropFlight s c (dmaSeq d) (instrWord 0x10 w)) c ps
      (ps.flatMap fun p => (List.range p.len).map fun i => (fillByte (w.extractLsb' 0 64) (fld w 108 2) (p.lo + i), false))
      (fld w 110 2)) := by
  subst hps
  rw [← viewOf_landed h]
  exact congrArg Host.Outcome.next ((engineInstr_finish h (if_neg (by simp [hslot]))).trans rfl)

/-- A COPY in flight completes where its class owns a frame slot. -/
theorem exec_copy_landed (hslot : classHasSlot (frameTable (getCore s c)) 7 = true)
    (h : s.Landed c (dmaSeq d) (instrWord 0x11 w) y) {ps rs : List Piece}
    (hps : ps = (descrOf (smapGet 0 y.view (fld w 112 8))).pieces) (hrs : rs = (descrOf (smapGet 0 y.view (fld w 104 8))).pieces) :
    exec (.copy c d w []) s = .next (putStream (dropFlight s c (dmaSeq d) (instrWord 0x11 w)) c ps (readStream s c rs)
      (fld w 102 2)) := by
  subst hps hrs
  rw [← viewOf_landed h, ← viewOf_landed h]
  refine congrArg Host.Outcome.next ((engineInstr_finish h (if_neg (by simp [hslot]))).trans ?_)
  dsimp only
  rw [eccRead_noEvents]
  rfl

end

/-- Settles O14: each instruction completes by writing its stream, which leaves memory outside its pieces. -/
theorem fillCopyWrite : Obligations.FillCopyWrite := by
  intro s c d w y hslot
  exact ⟨fun h ps hps => ⟨_, exec_fill_landed hslot h hps, rfl, fun _ => memGet_putStream_outside⟩,
    fun h ps rs hps hrs => ⟨_, exec_copy_landed hslot h hps hrs, rfl, fun _ => memGet_putStream_outside⟩⟩

end Sys2Proof.Machine
end
section
/-!
Opening and closing Carrels (R73, R77): what either does to the Carrels of the core, and the order of the faults of CROPEN.
-/
namespace Sys2Proof.Machine

/-! ### Closing -/

/-- A parked Lacing write on a slot of the Carrel (R77). -/
def Carrel.parksWrite (r : Carrel) (x : RemoteAccess) : Bool :=
  x.parked && x.flit.typ != 0 && decide (r.base.toNat ≤ flitSa x.flit) && decide (flitSa x.flit < r.base.toNat + r.length.toNat)

/-- The answer CARREL_DENIED to a parked write. -/
def denyParked (s : State) (x : RemoteAccess) : State := respond s x.flit 2 [] false

theorem releaseParked_eq (s : State) (c : CoreId) (r : Carrel) : releaseParked s c r =
    modStk (((getCore s c).stk.remote.filter r.parksWrite).foldl denyParked s) c fun k =>
      { k with remote := k.remote.filter fun x => !r.parksWrite x } := rfl

/-- A part of the state that Lacing is not, is the same after the answers. -/
theorem denyParked_keeps {β : Type} (g : State → β) (hg : ∀ s f, g (sendFlit s f) = g s) (l : List RemoteAccess) (s : State) :
    g (l.foldl denyParked s) = g s :=
  foldl_field g (fun _ _ => hg _ _) l s

/-- A Carrel with its registers zero, its counters and OPEN_SEQ kept (R77). -/
def Carrel.closed (x : Carrel) : Carrel :=
  { x with opened := false, tmreq := 0, job := 0, hostMask := 0, base := 0, length := 0, jobMask := 0, coreMask := 0, eys := 0,
           eysEn := false }

section
variable {s : State} {c : CoreId} {i : Fin 64}

theorem closeCarrel_of_open (h : (vget (getCore s c).stk.carrels i).opened = true) :
    closeCarrel s c i = noted (releaseParked (modCarrel s c i Carrel.closed) c (vget (getCore s c).stk.carrels i)) := by
  unfold closeCarrel
  exact if_pos h

/-- The cores after a Carrel has closed: its registers, and the writes that were parked on it. -/
theorem closeCarrel_cores (h : (vget (getCore s c).stk.carrels i).opened = true) :
    (closeCarrel s c i).cores = (modStk s c fun k => { k with
      carrels := vmod k.carrels i Carrel.closed
      remote := k.remote.filter fun x => !(vget (getCore s c).stk.carrels i).parksWrite x }).cores := by
  rw [closeCarrel_of_open h, noted_cores, releaseParked_eq, modStk_cores, denyParked_keeps (·.cores) fun _ _ => rfl,
    modCarrel, modStk_cores, vmod_vmod, modStk_cores]

theorem getSeq_closeCarrel (h : (vget (getCore s c).stk.carrels i).opened = true) (q : SeqId) :
    getSeq (closeCarrel s c i) c q = getSeq s c q := by
  rw [getSeq_cores (closeCarrel_cores h), getSeq_modStk]

theorem carrels_closeCarrel (h : (vget (getCore s c).stk.carrels i).opened = true) :
    (getCore (closeCarrel s c i) c).stk.carrels = vmod (getCore s c).stk.carrels i Carrel.closed := by
  rw [getCore_cores (closeCarrel_cores h), stk_modStk]

theorem closeCarrel_mem (h : (vget (getCore s c).stk.carrels i).opened = true) : (closeCarrel s c i).mem = s.mem := by
  rw [closeCarrel_of_open h, noted_mem, releaseParked_eq, modStk_mem, denyParked_keeps (·.mem) fun _ _ => rfl]
  rfl

theorem closeCarrel_full (h : (vget (getCore s c).stk.carrels i).opened = true) : (closeCarrel s c i).full = s.full := by
  rw [closeCarrel_of_open h, noted_full, releaseParked_eq, modStk_full, denyParked_keeps (·.full) fun _ _ => rfl]
  rfl

end

/-- Going on after an effect that leaves the sequencer: the instruction issues and goes on at the next one. -/
theorem thenAdvance_keepsSeq {s : State} {c : CoreId} {q : SeqId} {opc : BitVec 8} {g : State → State}
    (hg : getSeq (g (issued s c q opc)) c q = getSeq (issued s c q opc) c q) (h : s.RunsOn c q ((getSeq s c q).pc + 1)) :
    thenAdvance c q opc g s = modSeq (g (issued s c q opc)) c q fun y =>
      { y with pc := (loopStep ((getSeq s c q).pc + 1) (getSeq s c q).loops).1,
               loops := (loopStep ((getSeq s c q).pc + 1) (getSeq s c q).loops).2 } := by
  have hpc : (getSeq (g (issued s c q opc)) c q).pc = (getSeq s c q).pc := by rw [hg, issued_getSeq]
  have hloops : (getSeq (g (issued s c q opc)) c q).loops = (getSeq s c q).loops := by rw [hg, issued_getSeq]
  unfold thenAdvance advance
  rw [hpc, goOn_runs (by rw [State.RunsOn, hloops]; exact h), hloops]

section
variable {s : State} {c : CoreId} {w : BitVec 120}

theorem exec_crclose_closed (h : s.Offers c ccSeq (instrWord 0x11 w) (mask128 119 6) [])
    (hclosed : (vget (getCore s c).stk.carrels (carrelIdx w)).opened = false) :
    exec (.crclose c w) s = .next (seqFault s c ccSeq 0x11 0x14) :=
  congrArg Host.Outcome.next ((controlInstr_offers h).trans (if_neg (by simp [hclosed])))

theorem exec_crclose_open (h : s.Offers c ccSeq (instrWord 0x11 w) (mask128 119 6) [])
    (hopen : (vget (getCore s c).stk.carrels (carrelIdx w)).opened = true) :
    exec (.crclose c w) s = .next (thenAdvance c ccSeq 0x11 (fun s => closeCarrel s c (carrelIdx w)) s) :=
  congrArg Host.Outcome.next ((controlInstr_offers h).trans (if_pos hopen))

end

/-! ### Opening -/

/-- A Carrel opened with record r by job j, for the cores of mask m: its counters zero, its OPEN_SEQ one higher (R73). -/
def Carrel.openedWith (j : BitVec 6) (m : BitVec 12) (r : List Byte) (x : Carrel) : Carrel where
  opened := true
  tmreq := BitVec.ofNat 2 (leAt r 0x18 1)
  job := j
  hostMask := BitVec.ofNat 9 (leAt r 0x12 2)
  base := BitVec.ofNat 32 (leAt r 0 4)
  length := BitVec.ofNat 32 (leAt r 4 4)
  jobMask := BitVec.ofNat 64 (leAt r 8 8)
  coreMask := m
  eys := BitVec.ofNat 24 (leAt r 0x14 4)
  eysEn := decide (2 ^ 31 ≤ leAt r 0x14 4)
  filled := 0
  consumed := 0
  drops := 0
  denied := 0
  openSeq := x.openSeq + 1
  owner := j

theorem openCarrel_eq (s : State) (c : CoreId) (i : Fin 64) (r : List Byte) : openCarrel s c i r =
    noted (modCarrel s c i (Carrel.openedWith (getCore s c).jobId (placedMask s c (leAt r 0x10 2)) r)) := rfl

theorem carrels_openCarrel (s : State) (c : CoreId) (i : Fin 64) (r : List Byte) :
    (getCore (openCarrel s c i r) c).stk.carrels =
      vmod (getCore s c).stk.carrels i (Carrel.openedWith (getCore s c).jobId (placedMask s c (leAt r 0x10 2)) r) := by
  rw [openCarrel_eq, getCore_cores (noted_cores _), modCarrel, stk_modStk]

/-- The cores that a mask names depend on the job of the core. -/
theorem placedMask_congr {s t : State} {c : CoreId} (hid : (getCore t c).jobId = (getCore s c).jobId)
    (hjobs : t.reg.jobs = s.reg.jobs) (m : Nat) : placedMask t c m = placedMask s c m := by
  have hplaced : placedCore t c = placedCore s c := by
    unfold placedCore
    rw [jobOn_congr hid hjobs]
  unfold placedMask maskCores
  rw [hplaced]

section
variable {s : State} {c : CoreId} {w : BitVec 120} {ev : List EccEvent} {y : InFlight} {l : List Access}

/-- A CROPEN whose record has been read without poison faults where a condition of Table 03-11 holds. -/
theorem exec_cropen_fault (h : s.Landed c ccSeq (instrWord 0x10 w) y) (hgot : y.got = [l]) (hpoison : opndPoison l 0 = false)
    {code : BitVec 8} (hfault : carrelFault s c (carrelIdx w) (opndData l 0) = some code) :
    exec (.cropen c w ev) s = .next (seqFault s c ccSeq 0x10 code) :=
  congrArg Host.Outcome.next (engineInstr_fault_opcode h (by simp [lastGot, hgot, hpoison, hfault]))

/-- With none it opens the Carrel. -/
theorem exec_cropen_opens (h : s.Landed c ccSeq (instrWord 0x10 w) y) (hgot : y.got = [l]) (hpoison : opndPoison l 0 = false)
    (hfault : carrelFault s c (carrelIdx w) (opndData l 0) = none) :
    exec (.cropen c w ev) s = .next (openCarrel (dropFlight s c ccSeq (instrWord 0x10 w)) c (carrelIdx w) (opndData l 0)) :=
  congrArg Host.Outcome.next (engineInstr_finish (f := fun s => openCarrel s c (carrelIdx w) (opndData l 0)) h
    (by simp [lastGot, hgot, hpoison, hfault]))

end

/-- Settles O15: CROPEN by the first condition of Table 03-11 that holds, CRCLOSE by whether the Carrel is open. -/
theorem carrelsOpenAndClose : Obligations.CarrelsOpenAndClose := by
  rintro s c w ev k rfl
  refine ⟨?opening, fun h => ⟨exec_crclose_closed h, fun hopen hrun => ?closing⟩⟩
  case opening =>
    rintro y l r h hgot hpoison rfl
    refine ⟨fun hopen => exec_cropen_fault h hgot hpoison (if_pos hopen), fun hclosed => ?_⟩
    refine ⟨fun hform => exec_cropen_fault h hgot hpoison ?_, fun hform => ⟨fun hrange => exec_cropen_fault h hgot hpoison ?_, fun hrange => ⟨fun hmeet => exec_cropen_fault h hgot hpoison ?_, fun hmeet => ?_⟩⟩⟩
    · simp [carrelFault, hclosed, hform]
    · simp [carrelFault, carrelRange, hclosed, hform, hrange]
    · simp [carrelFault, carrelRange, hclosed, hform, hrange, hmeet]
    · refine ⟨_, exec_cropen_opens h hgot hpoison (by simp [carrelFault, carrelRange, hclosed, hform, hrange, hmeet]), ?_⟩
      have hid : (getCore (dropFlight s c ccSeq (instrWord 0x10 w)) c).jobId = (getCore s c).jobId := by
        rw [dropFlight, modSeq, getCore_modCore_same]
      rw [carrels_openCarrel, placedMask_congr hid rfl, hid, dropFlight, stk_modSeq]
      refine ⟨vget_vmod_same .., fun i hi => vget_vmod_other _ _ hi.symm, ?_, ?_⟩
      · rw [openCarrel_eq, noted_mem]
        rfl
      · rw [openCarrel_eq, noted_full]
        rfl
  case closing =>
    have hstk : (getCore (issued s c ccSeq 0x11) c).stk = (getCore s c).stk := stk_modSeq ..
    have hopen' : (vget (getCore (issued s c ccSeq 0x11) c).stk.carrels (carrelIdx w)).opened = true := hstk ▸ hopen
    rw [exec_crclose_open h hopen, thenAdvance_keepsSeq (g := fun s => closeCarrel s c (carrelIdx w)) (getSeq_closeCarrel hopen' ccSeq) hrun]
    refine ⟨_, rfl, ?_⟩
    rw [stk_modSeq, carrels_closeCarrel hopen', hstk, getSeq_modSeq_same, getSeq_closeCarrel hopen', issued_getSeq]
    exact ⟨vget_vmod_same .., fun i hi => vget_vmod_other _ _ hi.symm, rfl, closeCarrel_mem hopen', closeCarrel_full hopen'⟩

end Sys2Proof.Machine
end

section
/-!
The Lasts of a core, its sequencers and the other parts of the state: what a change of either leaves of the other.
-/
namespace Sys2Proof.Machine

/-- A change of a Last leaves the sequencers of its core. -/
theorem getSeq_modLast (s : State) (c : CoreId) (l : Fin 4) (f : LastState → LastState) (q : SeqId) :
    getSeq (modLast s c l f) c q = getSeq s c q :=
  getSeq_modCore s c q _ rfl

/-- A Last depends on the cores alone. -/
theorem getLast_cores {s t : State} (h : t.cores = s.cores) (c : CoreId) (l : Fin 4) : getLast t c l = getLast s c l := by
  rw [getLast, getCore_cores h, getLast]

/-- A Last when an instruction leaves flight. -/
theorem getLast_dropFlight (s : State) (c : CoreId) (l : Fin 4) (q : SeqId) (word : Word128) :
    getLast (dropFlight s c q word) c l = getLast s c l :=
  getLast_modSeq ..

/-- A change of a sequencer leaves of every sequencer of the core what it leaves of that one. -/
theorem modSeq_keeps {α : Type} (g : SeqState → α) {f : SeqState → SeqState} (hg : ∀ x, g (f x) = g x) (s : State) (c : CoreId)
    (q p : SeqId) : g (getSeq (modSeq s c q f) c p) = g (getSeq s c p) := by
  by_cases hq : q = p
  · rw [hq, getSeq_modSeq_same, hg]
  · rw [getSeq_modSeq_other _ _ _ hq]

/-- An instruction that leaves flight leaves of every sequencer all but what is in flight. -/
theorem dropFlight_keeps {α : Type} (g : SeqState → α) (hg : ∀ (x : SeqState) y, g { x with infl := y } = g x) (s : State)
    (c : CoreId) (q : SeqId) (word : Word128) (p : SeqId) : g (getSeq (dropFlight s c q word) c p) = g (getSeq s c p) :=
  modSeq_keeps g (fun x => hg x _) ..

/-- Going on to the next instruction, from a state in which the sequencer has the PC and the levels of an earlier one. -/
theorem advance_runs {s t : State} {c : CoreId} {q : SeqId} {opc : BitVec 8} (hpc : (getSeq t c q).pc = (getSeq s c q).pc)
    (hloops : (getSeq t c q).loops = (getSeq s c q).loops) (h : s.RunsOn c q ((getSeq s c q).pc + 1)) :
    advance t c q opc = modSeq t c q fun y =>
      { y with pc := (loopStep ((getSeq s c q).pc + 1) (getSeq s c q).loops).1,
               loops := (loopStep ((getSeq s c q).pc + 1) (getSeq s c q).loops).2 } := by
  unfold advance
  rw [hpc, goOn_runs (by rw [State.RunsOn, hloops]; exact h), hloops]

theorem lastSeq_inj {l m : Fin 4} (h : lastSeq l = lastSeq m) : l = m := by
  revert l m
  decide

end Sys2Proof.Machine
end

section
/-!
LCFG and LPAIR (R98, R99, R103 to R105): the shape of a Last, and how two Lasts come to be a pair and part again.
-/
namespace Sys2Proof.Machine

/-! ### The shape -/

/-- An instruction that changes a Last and goes on: one change of its core. -/
theorem thenAdvance_modLast {s : State} {c : CoreId} {q : SeqId} {opc : BitVec 8} {l : Fin 4} {f : LastState → LastState}
    (h : s.RunsOn c q ((getSeq s c q).pc + 1)) :
    thenAdvance c q opc (fun s => modLast s c l f) s = modCore s c fun k => { k with
      seqs := vmod k.seqs q fun x => x.past opc (x.pc + 1), lasts := vmod k.lasts l f } := by
  rw [thenAdvance_keepsSeq (g := fun s => modLast s c l f) (getSeq_modLast ..) h]
  unfold issued modSeq modLast
  rw [modCore_modCore, modCore_modCore]
  refine modCore_congr s c ?_
  dsimp only
  rw [vmod_vmod]
  congr 1

theorem exec_lcfg_offered {s : State} {c : CoreId} {l : Fin 4} {w : BitVec 120}
    (h : s.Offers c (lastSeq l) (instrWord 0x10 w) (mask128 119 3) []) :
    exec (.lcfg c l w) s = .next (if 6 ≤ fld w 0 3 then seqFault s c (lastSeq l) 0x10 0x11
      else if lastEmpty s c l then
        thenAdvance c (lastSeq l) 0x10 (fun s => modLast s c l (lastShaped (w.extractLsb' 0 3))) s
      else setSt s c (lastSeq l) .waitDrain) :=
  congrArg Host.Outcome.next (controlInstr_offers h)

/-! ### The two Lasts of a pair -/

theorem partner_ne (l : Fin 4) : partner l ≠ l := by
  revert l
  decide

theorem partner_partner (l : Fin 4) : partner (partner l) = l := by
  revert l
  decide

/-- The leader of a pair, named from either Last: this one or the other. -/
theorem leader_cases {l lead : Fin 4} (h : lead = if isLeader l then l else partner l) :
    lead = l ∧ partner lead = partner l ∨ lead = partner l ∧ partner lead = l := by
  split at h
  · exact .inl ⟨h, by rw [h]⟩
  · exact .inr ⟨h, by rw [h, partner_partner]⟩

/-! ### Pairing -/

/-- A core whose LPAIR ON has issued and waits (R103). -/
def pairWaiting (s : State) (c : CoreId) (l : Fin 4) : State :=
  setSt (issued s c (lastSeq l) 0x15) c (lastSeq l) .waitBarrier

/-- The pairing of a leader and its partner. -/
def lastsPaired (s : State) (c : CoreId) (lead : Fin 4) : State :=
  modLast (modLast s c lead fun x => { x with paired := true, pairWait := false }) c (partner lead) fun x =>
    { x with paired := true, follower := true, pairWait := false }

/-- The Last's place at the pairing: this LPAIR ON completes it, or is the first and waits. -/
def joinPair (s : State) (c : CoreId) (l lead : Fin 4) : State :=
  if (getLast (pairWaiting s c l) c (partner l)).pairWait then
    advance (setSt (lastsPaired (pairWaiting s c l) c lead) c (lastSeq lead) .issuing) c (lastSeq lead) 0x15
  else modLast (pairWaiting s c l) c l fun x => { x with pairWait := true }

theorem exec_lpairOn_offered {s : State} {c : CoreId} {l : Fin 4} {w : BitVec 120}
    (h : s.Offers c (lastSeq l) (instrWord 0x15 w) (mask128 119 1) []) (hon : bit w 0 = true)
    (hfollower : (getLast s c l).follower = false) (hwait : (getLast s c l).pairWait = false) :
    exec (.lpairOn c l w) s = .next (if (getLast s c l).paired then seqFault s c (lastSeq l) 0x15 0x15
      else if !dupDeclared s c then seqFault s c (lastSeq l) 0x15 0x17
      else if !lastEmpty s c l then setSt s c (lastSeq l) .waitDrain
      else joinPair s c l (if isLeader l then l else partner l)) :=
  congrArg Host.Outcome.next ((if_neg (by simp [hon, hfollower, hwait])).trans (controlInstr_offers h))

section
variable {s : State} {c : CoreId} {l lead : Fin 4}

theorem getLast_pairWaiting (m : Fin 4) : getLast (pairWaiting s c l) c m = getLast s c m := by
  rw [pairWaiting, setSt, getLast_modSeq, issued, getLast_modSeq]

theorem onlyCore_pairWaiting : s.OnlyCore (pairWaiting s c l) c :=
  (onlyCore_modCore ..).trans (onlyCore_modCore ..)

/-- Waiting for its partner leaves of a sequencer what an issue and a status leave, so its PC and its levels. -/
theorem pairWaiting_keeps {α : Type} (g : SeqState → α)
    (hg : ∀ (x : SeqState) o r d t, g { x with lastOpc := o, ran := r, dormant := d, st := t } = g x) (q : SeqId) :
    g (getSeq (pairWaiting s c l) c q) = g (getSeq s c q) :=
  (modSeq_keeps g (fun x => hg x _ _ _ _) ..).trans (modSeq_keeps g (fun x => hg x _ _ _ _) ..)

theorem getLast_lastsPaired_leader : getLast (lastsPaired s c lead) c lead =
    { getLast s c lead with paired := true, pairWait := false } := by
  rw [lastsPaired, getLast_modLast_other _ _ _ (partner_ne lead), getLast_modLast_same]

theorem getLast_lastsPaired_follower : getLast (lastsPaired s c lead) c (partner lead) =
    { getLast s c (partner lead) with paired := true, follower := true, pairWait := false } := by
  rw [lastsPaired, getLast_modLast_same, getLast_modLast_other _ _ _ (partner_ne lead).symm]

theorem onlyCore_lastsPaired : s.OnlyCore (lastsPaired s c lead) c :=
  (onlyCore_modCore ..).trans (onlyCore_modCore ..)

theorem getSeq_lastsPaired (q : SeqId) : getSeq (lastsPaired s c lead) c q = getSeq s c q := by
  rw [lastsPaired, getSeq_modLast, getSeq_modLast]

theorem joinPair_first (hpartner : (getLast s c (partner l)).pairWait = false) :
    joinPair s c l lead = modLast (pairWaiting s c l) c l fun x => { x with pairWait := true } :=
  if_neg (by rw [getLast_pairWaiting, hpartner]; decide)

/-- The later of the two: both Lasts after it, and the leader's sequencer at its next instruction. -/
theorem joinPair_later (hpartner : (getLast s c (partner l)).pairWait = true)
    (hrun : s.RunsOn c (lastSeq lead) ((getSeq s c (lastSeq lead)).pc + 1)) :
    ∃ t, joinPair s c l lead = t ∧ s.OnlyCore t c ∧
      getLast t c lead = { getLast s c lead with paired := true, pairWait := false } ∧
      getLast t c (partner lead) = { getLast s c (partner lead) with paired := true, follower := true, pairWait := false } ∧
      (getSeq t c (lastSeq lead)).st = .issuing := by
  have hseq : getSeq (setSt (lastsPaired (pairWaiting s c l) c lead) c (lastSeq lead) .issuing) c (lastSeq lead) =
      { getSeq (pairWaiting s c l) c (lastSeq lead) with st := .issuing } := by
    rw [setSt, getSeq_modSeq_same, getSeq_lastsPaired]
  have hon := advance_runs (opc := 0x15) (by rw [hseq]; exact pairWaiting_keeps (·.pc) (fun _ _ _ _ _ => rfl) _)
    (by rw [hseq]; exact pairWaiting_keeps (·.loops) (fun _ _ _ _ _ => rfl) _) hrun
  refine ⟨_, (if_pos (by rw [getLast_pairWaiting, hpartner])).trans hon, ?_, ?_, ?_, ?_⟩
  · exact ((onlyCore_pairWaiting.trans onlyCore_lastsPaired).trans (onlyCore_modCore ..)).trans (onlyCore_modCore ..)
  · rw [getLast_modSeq, setSt, getLast_modSeq, getLast_lastsPaired_leader, getLast_pairWaiting]
  · rw [getLast_modSeq, setSt, getLast_modSeq, getLast_lastsPaired_follower, getLast_pairWaiting]
  · rw [getSeq_modSeq_same, hseq]

end

/-! ### Parting -/

/-- The follower with the leader's shape, planes and accumulators, on its own again (R104). -/
def LastState.takeOver (x y : LastState) : LastState :=
  { y with
    paired := false, follower := false, shape := x.shape, cur := x.cur, curLoad := x.curLoad, curFmt := x.curFmt
    curSp := x.curSp, newFmt := x.newFmt, newSp := x.newSp, swapped := x.swapped, serial := x.serial
    p0 := x.p0, p1 := x.p1, acc := x.acc, plan := x.plan }

/-- The two Lasts of a leader parted; x is what the follower takes over. -/
def lastsParted (s : State) (c : CoreId) (l : Fin 4) (x : LastState) : State :=
  modLast (modLast s c l fun x => { x with paired := false }) c (partner l) x.takeOver

/-- The pair parted, and the follower's sequencer past its LPAIR. -/
def partPair (c : CoreId) (l : Fin 4) (x : LastState) (s : State) : State :=
  advance (setSt (lastsParted s c l x) c (lastSeq (partner l)) .issuing) c (lastSeq (partner l)) 0x15

theorem exec_lpairOff_offered {s : State} {c : CoreId} {l : Fin 4} {w : BitVec 120}
    (h : s.Offers c (lastSeq l) (instrWord 0x15 w) (mask128 119 1) []) (hoff : bit w 0 = false) :
    exec (.lpairOff c l w) s = .next (if !isLeader l then seqFault s c (lastSeq l) 0x15 0x15
      else if !lastEmpty s c l then setSt s c (lastSeq l) .waitDrain
      else if !(getLast s c l).paired then thenAdvance c (lastSeq l) 0x15 id s
      else thenAdvance c (lastSeq l) 0x15 (partPair c l (getLast s c l)) s) :=
  congrArg Host.Outcome.next ((if_neg (by simp [hoff])).trans (controlInstr_offers h))

section
variable {s : State} {c : CoreId} {l : Fin 4} {x : LastState}

theorem getLast_lastsParted_leader : getLast (lastsParted s c l x) c l = { getLast s c l with paired := false } := by
  rw [lastsParted, getLast_modLast_other _ _ _ (partner_ne l), getLast_modLast_same]

theorem getLast_lastsParted_follower : getLast (lastsParted s c l x) c (partner l) = x.takeOver (getLast s c (partner l)) := by
  rw [lastsParted, getLast_modLast_same, getLast_modLast_other _ _ _ (partner_ne l).symm]

theorem getSeq_lastsParted (q : SeqId) : getSeq (lastsParted s c l x) c q = getSeq s c q := by
  rw [lastsParted, getSeq_modLast, getSeq_modLast]

theorem onlyCore_lastsParted : s.OnlyCore (lastsParted s c l x) c :=
  (onlyCore_modCore ..).trans (onlyCore_modCore ..)

theorem partPair_runs (hrun : s.RunsOn c (lastSeq (partner l)) ((getSeq s c (lastSeq (partner l))).pc + 1)) :
    partPair c l x s = modSeq (lastsParted s c l x) c (lastSeq (partner l)) fun y => { y with
      st := .issuing
      pc := (loopStep ((getSeq s c (lastSeq (partner l))).pc + 1) (getSeq s c (lastSeq (partner l))).loops).1
      loops := (loopStep ((getSeq s c (lastSeq (partner l))).pc + 1) (getSeq s c (lastSeq (partner l))).loops).2 } := by
  have hseq : getSeq (setSt (lastsParted s c l x) c (lastSeq (partner l)) .issuing) c (lastSeq (partner l)) =
      { getSeq s c (lastSeq (partner l)) with st := .issuing } := by
    rw [setSt, getSeq_modSeq_same, getSeq_lastsParted]
  rw [partPair, advance_runs (s := s) (by rw [hseq]) (by rw [hseq]) hrun, setSt, modSeq_modSeq]

end

/-- LPAIR OFF of a leader: both Lasts and both sequencers after it. -/
theorem lpairOff_parts {s : State} {c : CoreId} {l : Fin 4} {x : LastState}
    (hrun : s.RunsOn c (lastSeq l) ((getSeq s c (lastSeq l)).pc + 1))
    (hother : s.RunsOn c (lastSeq (partner l)) ((getSeq s c (lastSeq (partner l))).pc + 1)) :
    ∃ t, thenAdvance c (lastSeq l) 0x15 (partPair c l x) s = t ∧ s.OnlyCore t c ∧
      getLast t c l = { getLast s c l with paired := false } ∧
      getLast t c (partner l) = x.takeOver (getLast s c (partner l)) ∧ (getSeq t c (lastSeq (partner l))).st = .issuing := by
  have hne : lastSeq l ≠ lastSeq (partner l) := fun h => partner_ne l (lastSeq_inj h).symm
  have hissued : getSeq (issued s c (lastSeq l) 0x15) c (lastSeq (partner l)) = getSeq s c (lastSeq (partner l)) :=
    getSeq_modSeq_other _ _ _ hne
  have hpart := partPair_runs (s := issued s c (lastSeq l) 0x15) (c := c) (l := l) (x := x)
    (by rw [State.RunsOn, hissued]; exact hother)
  have hkeep : getSeq (partPair c l x (issued s c (lastSeq l) 0x15)) c (lastSeq l) =
      getSeq (issued s c (lastSeq l) 0x15) c (lastSeq l) := by
    rw [hpart, getSeq_modSeq_other _ _ _ hne.symm, getSeq_lastsParted]
  refine ⟨_, thenAdvance_keepsSeq hkeep hrun, ?_, ?_, ?_, ?_⟩
  · rw [hpart]
    exact (((onlyCore_modCore ..).trans onlyCore_lastsParted).trans (onlyCore_modCore ..)).trans (onlyCore_modCore ..)
  · rw [getLast_modSeq, hpart, getLast_modSeq, getLast_lastsParted_leader, issued, getLast_modSeq]
  · rw [getLast_modSeq, hpart, getLast_modSeq, getLast_lastsParted_follower, issued, getLast_modSeq]
  · rw [getSeq_modSeq_other _ _ _ hne, hpart, getSeq_modSeq_same]

/-! ### The wait for the other -/

theorem exec_lastPairTimeout_waiting {s : State} {c : CoreId} {l : Fin 4} (hwait : (getLast s c l).pairWait = true)
    (htmo : (getCore s c).stk.tagTmoUs ≠ 0) (hrun : (getCore s c).st = .running) :
    exec (.lastPairTimeout c l) s =
      .next (seqFault (modLast s c l fun x => { x with pairWait := false }) c (lastSeq l) 0x15 0x16) :=
  congrArg Host.Outcome.next (if_pos (by rw [hwait, Bool.true_and]; exact tagTimeoutRuns_iff.mpr ⟨htmo, hrun⟩))

/-- Settles O16: LCFG and the two forms of LPAIR by the order of their checks; what a pairing and a parting leave of both Lasts
and of their sequencers. -/
theorem lastShapesAndPairs : Obligations.LastShapesAndPairs := by
  intro s c l w
  refine ⟨fun h => ⟨fun hsh => ?reserved, fun hsh hfull => ?waits, fun hsh hempty hrun => ?shaped⟩,
    fun h hon hfollower hwait => ⟨fun hpaired => ?already, fun hpaired hundecl => ?undeclared, fun hpaired hdecl hempty =>
      ⟨fun hpartner => ?first, fun hpartner lead hlead hrun => ?later⟩⟩,
    fun h hoff => ⟨fun hfol => ?notLeader, fun hlead hempty hpaired hrun hother => ?parts⟩, exec_lastPairTimeout_waiting⟩
  case reserved => rw [exec_lcfg_offered h, if_pos hsh]
  case waits => rw [exec_lcfg_offered h, if_neg (by omega), hfull]; rfl
  case shaped => rw [exec_lcfg_offered h, if_neg (by omega), if_pos hempty, thenAdvance_modLast hrun]
  case already => rw [exec_lpairOn_offered h hon hfollower hwait, if_pos hpaired]
  case undeclared => rw [exec_lpairOn_offered h hon hfollower hwait, hpaired, hundecl]; rfl
  case first =>
    rw [exec_lpairOn_offered h hon hfollower hwait, hpaired, hdecl, hempty]
    refine ⟨_, congrArg Host.Outcome.next (joinPair_first hpartner), onlyCore_pairWaiting.trans (onlyCore_modCore ..),
      ?_, ?_, ?_⟩
    · rw [getLast_modLast_same, getLast_pairWaiting]
    · rw [getSeq_modLast, pairWaiting, setSt, getSeq_modSeq_same]
    · rw [getLast_modLast_other _ _ _ (partner_ne l).symm, getLast_pairWaiting]
  case later =>
    rw [exec_lpairOn_offered h hon hfollower hwait, hpaired, hdecl, hempty, ← hlead]
    obtain ⟨t, ht, hcore, hleader, hfollows, hst⟩ := joinPair_later (l := l) hpartner hrun
    refine ⟨t, congrArg Host.Outcome.next ht, by rw [hleader], by rw [hleader], by rw [hfollows],
      by rw [hfollows], ?_, ?_, hst, hcore⟩
    · obtain ⟨hl, -⟩ | ⟨-, hl⟩ := leader_cases hlead
      · rw [← hl, hleader]
      · rw [← hl, hfollows]
    · obtain ⟨-, hp⟩ | ⟨hp, -⟩ := leader_cases hlead
      · rw [← hp, hfollows]
      · rw [← hp, hleader]
  case notLeader => rw [exec_lpairOff_offered h hoff, hfol]; rfl
  case parts =>
    rw [exec_lpairOff_offered h hoff, hlead, hempty, hpaired]
    obtain ⟨t, ht, hcore, hl, hp, hst⟩ := lpairOff_parts (x := getLast s c l) hrun hother
    refine ⟨t, congrArg Host.Outcome.next ht, hcore, hl, ?_⟩
    rw [hp]
    exact ⟨rfl, rfl, rfl, rfl, rfl, hst⟩

end Sys2Proof.Machine
end

section
/-!
What LOADW, STREAM, DRAIN and ACCLD leave when they enter their queues (R90, R92, R94 to R97, R122 to R125).
-/
namespace Sys2Proof.Machine

/-! ### The format decoder -/

/-- The partitions of an S24 tile that hold a malformed index group, each with its first such group (R122). -/
def malformedParts (x : LastState) (p : Plane) : List (Nat × Nat × Nat × Nat) :=
  p.side.zipIdx.filterMap fun e => (badGroup e.1 p.fmt (partRows x.shape) (partCols x.shape)).map fun b => (e.2, b)

theorem malformedParts_eq_nil_iff {x : LastState} {p : Plane} :
    malformedParts x p = [] ↔ ∀ d ∈ p.side, badGroup d p.fmt (partRows x.shape) (partCols x.shape) = none := by
  simp only [malformedParts, List.filterMap_eq_nil_iff, Option.map_eq_none_iff]
  constructor
  · intro h d hd
    obtain ⟨i, hi, rfl⟩ := List.getElem_of_mem hd
    exact h (p.side[i], i) (List.mk_mem_zipIdx_iff_getElem?.mpr (List.getElem?_eq_getElem hi))
  · exact fun h e he => h e.1 (List.fst_mem_of_mem_zipIdx he)

section
variable {s : State} {c : CoreId} {l : Fin 4} {p : Plane}

/-- A well-formed tile passes as it is (R122). -/
theorem checkS24_wellFormed (h : malformedParts (getLast s c l) p = []) : checkS24 s c l p = (s, p) := by
  rw [malformedParts] at h
  unfold checkS24
  dsimp only
  rw [h]

/-- A malformed group is counted and logged; then the tile waits for its expansion, or is violated and the next issue of its
sequencer faults (R123, R124). -/
theorem checkS24_malformed (h : malformedParts (getLast s c l) p ≠ []) : ∃ col row index, checkS24 s c l p =
    if (getLast s c l).fallback then (sparseLog s c l 0 col row index, { p with waits := true })
    else (faultNext (sparseLog s c l 0 col row index) c (lastSeq l) 0x20,
      { p with violated := (malformedParts (getLast s c l) p).map (·.1) }) := by
  obtain ⟨⟨part, b⟩, rest, hcons⟩ := List.exists_cons_of_ne_nil h
  rw [hcons]
  rw [malformedParts] at hcons
  unfold checkS24
  dsimp only
  rw [hcons]
  exact ⟨_, _, _, rfl⟩

end

/-! ### LOADW -/

/-- The plane that a LOADW of dense, S14 or S24 weights makes of what it has read (R90, R92). -/
def loadedPlane (x : LastState) (w : BitVec 120) (y : InFlight) (a : List Access) : Plane :=
  { Plane.init with
    serial := y.notes.getD 0 0, fmt := fld w 100 4, sp := fld w 98 2
    words := (List.range (parts x.shape)).map fun i => opndData a i
    side := (List.range (parts x.shape)).map fun i => opndData a (16 + i) }

/-- It enters the load queue: an S24 tile through the format decoder, any other as it is (R92, R122). -/
def enterLoad (c : CoreId) (l : Fin 4) (p : Plane) (target : Bool) (s : State) : State :=
  let r := if p.sp = 1 then checkS24 s c l p else (s, p)
  acceptLoad r.1 c l r.2 target

/-- A tile without a malformed group enters as it is. -/
theorem enterLoad_wellFormed {s : State} {c : CoreId} {l : Fin 4} {p : Plane} {target : Bool}
    (h : p.sp = 1 → malformedParts (getLast s c l) p = []) : enterLoad c l p target s = acceptLoad s c l p target := by
  unfold enterLoad
  by_cases hsp : p.sp = 1
  · rw [if_pos hsp, checkS24_wellFormed (h hsp)]
  · rw [if_neg hsp]

/-- Where the turn of an instruction has come and its queue has a place, nothing holds it (R92, R97). -/
theorem not_held_of_turn {turn : Bool} {n : Nat} (hturn : turn = true) (hplace : n < 2) :
    ¬((!(turn && decide (n < 2))) = true) := by
  simp [hturn, hplace]

section
variable {s : State} {c : CoreId} {l : Fin 4} {w : BitVec 120} {ev : List EccEvent} {y : InFlight} {a : List Access}

theorem lastGot_of_got (hgot : y.got = [a]) : lastGot y = a := by
  rw [lastGot, hgot]
  rfl

/-- What has been read without poison is read, and does not fault. -/
theorem not_poisoned_of_got (hgot : y.got = [a]) (h : ∀ x ∈ a, x.poison = false) :
    ¬((lastGot y).any (·.poison) = true) := by
  rw [lastGot_of_got hgot]
  simpa using h

theorem not_unread_of_got (hgot : y.got = [a]) : ¬(y.got.isEmpty = true) := by
  rw [hgot]
  exact Bool.false_ne_true

/-- A LOADW of dense, S14 or S24 weights, read without poison, enters the load queue. -/
theorem exec_loadw_read (h : s.Landed c (lastSeq l) (instrWord 0x11 w) y) (hgot : y.got = [a])
    (hpoison : ∀ x ∈ a, x.poison = false)
    (hturn : queueTurn s c (lastSeq l) (instrWord 0x11 w) [0x11] = true) (hplace : (getLast s c l).loadQ.length < 2)
    (hsp : fld w 98 2 ≠ 3) :
    exec (.loadw c l w ev) s = .next (enterLoad c l (loadedPlane (getLast s c l) w y a) (y.notes.getD 1 0 == 1)
      (dropFlight s c (lastSeq l) (instrWord 0x11 w))) := by
  refine congrArg Host.Outcome.next (engineInstr_finish
    (f := enterLoad c l (loadedPlane (getLast s c l) w y a) (y.notes.getD 1 0 == 1)) h ?_)
  refine (if_pos hsp).trans ((if_neg (not_unread_of_got hgot)).trans ((if_neg (not_poisoned_of_got hgot hpoison)).trans
    ((if_neg (not_held_of_turn hturn hplace)).trans ?_)))
  rw [lastGot_of_got hgot, if_neg hsp]
  rfl

/-- A LOADW of an S24 tile with a malformed group: what it leaves of the Last and of its sequencer (R123, R124). -/
theorem enterLoad_malformed {p : Plane} {target : Bool} (hsp : p.sp = 1) (h : malformedParts (getLast s c l) p ≠ []) :
    ∃ t q, enterLoad c l p target s = t ∧ s.OnlyCore t c ∧
      (getLast t c l).loadQ = (getLast s c l).loadQ ++ [{ plane := q, target := target }] ∧
      (getLast t c l).spCnt = satAdd (getLast s c l).spCnt 1 ∧
      ((getLast s c l).fallback = true → q = { p with waits := true } ∧
        (getSeq t c (lastSeq l)).pendFault = (getSeq s c (lastSeq l)).pendFault) ∧
      ((getLast s c l).fallback = false → q.violated ≠ [] ∧
        ((getSeq s c (lastSeq l)).pendFault = 0 → (getSeq t c (lastSeq l)).pendFault = 0x20)) := by
  obtain ⟨col, row, index, hcheck⟩ := checkS24_malformed h
  have hlog : s.OnlyCore (sparseLog s c l 0 col row index) c := onlyCore_modCore ..
  cases hfall : (getLast s c l).fallback with
  | true =>
    rw [hfall, if_pos rfl] at hcheck
    refine ⟨acceptLoad (sparseLog s c l 0 col row index) c l { p with waits := true } target, { p with waits := true },
      by rw [enterLoad, if_pos hsp, hcheck], hlog.trans (onlyCore_modCore ..), ?_, ?_, fun _ => ⟨rfl, ?_⟩, nofun⟩
    · rw [acceptLoad, getLast_modLast_same, sparseLog, getLast_modLast_same]
    · rw [acceptLoad, getLast_modLast_same, sparseLog, getLast_modLast_same]
    · rw [acceptLoad, getSeq_modLast, sparseLog, getSeq_modLast]
  | false =>
    rw [hfall, if_neg Bool.false_ne_true] at hcheck
    refine ⟨acceptLoad (faultNext (sparseLog s c l 0 col row index) c (lastSeq l) 0x20) c l
        { p with violated := (malformedParts (getLast s c l) p).map (·.1) } target, _,
      by rw [enterLoad, if_pos hsp, hcheck], (hlog.trans (onlyCore_modCore ..)).trans (onlyCore_modCore ..),
      by rw [acceptLoad, getLast_modLast_same, faultNext, getLast_modSeq, sparseLog, getLast_modLast_same], ?_, nofun,
      fun _ => ⟨by simpa using h, fun hpend => ?_⟩⟩
    · rw [acceptLoad, getLast_modLast_same, faultNext, getLast_modSeq, sparseLog, getLast_modLast_same]
    · rw [acceptLoad, getSeq_modLast, faultNext, getSeq_modSeq_same, sparseLog, getSeq_modLast, hpend]
      rfl

/-! ### STREAM -/

/-- What a STREAM without a mask streams: its vectors and their scales, into its entries (R90, R94). -/
def streamedJob (w : BitVec 120) (y : InFlight) (acts scales : List (List (List Byte))) : StreamJob where
  seq := y.notes.getD 0 0
  plane := y.notes.getD 1 0 == 1
  needs := y.notes.getD 2 0
  afmt := fld w 100 4
  acc := bit w 98
  half := bit w 97
  entry := fld w 90 6
  gather := false
  count := fld w 83 7
  next := 0
  pass := 0
  poison := false
  acts := acts
  scales := scales

theorem takeStream_vectors {m : Nat} {job : StreamJob} (h : job.count ≠ 0) :
    takeStream s c l false m job = modLast s c l fun x => { x with streamQ := x.streamQ ++ [job] } := by
  simp [takeStream, h]

/-- On a plane that is not NZB, read without poison, it completes with the vectors of every partition. -/
theorem streamPhase_read {v : State} {p : Plane} (hgot : y.got = [a]) (hpoison : ∀ x ∈ a, x.poison = false)
    (hmask : bit w 73 = false) (hturn : queueTurn s c (lastSeq l) (instrWord 0x12 w) [0x12] = true)
    (hplace : (getLast s c l).streamQ.length < 2) (hsp : p.sp ≠ 3) :
    ∃ acts scales, acts.length = parts (getLast s c l).shape ∧ streamPhase v s c l w y p =
      .finish fun s => takeStream s c l false (fld w 83 7) (streamedJob w y acts scales) := by
  have hdense : (p.sp == 3) = false := beq_eq_false_iff_ne.mpr hsp
  have hread : ¬y.got.length = 0 := by rw [hgot]; exact Nat.one_ne_zero
  refine ⟨?acts, ?scales, ?len, ?phase⟩
  case phase =>
    unfold streamPhase
    dsimp only
    rw [hmask, hdense]
    simp only [Bool.false_and, Bool.false_eq_true, if_false, List.length_range]
    rw [if_neg hread, if_neg (not_poisoned_of_got hgot hpoison), if_neg (not_held_of_turn hturn hplace)]
    rfl
  case len => simp

theorem exec_stream_read (h : s.Landed c (lastSeq l) (instrWord 0x12 w) y) (hgot : y.got = [a])
    (hpoison : ∀ x ∈ a, x.poison = false)
    (hmask : bit w 73 = false) (hturn : queueTurn s c (lastSeq l) (instrWord 0x12 w) [0x12] = true)
    (hplace : (getLast s c l).streamQ.length < 2) {p : Plane} (hplane : planeBySerial (getLast s c l) (y.notes.getD 2 0) = some p)
    (hsp : p.sp ≠ 3) (hm : fld w 83 7 ≠ 0) :
    ∃ acts scales, acts.length = parts (getLast s c l).shape ∧ exec (.stream c l w ev) s =
      .next (modLast (dropFlight s c (lastSeq l) (instrWord 0x12 w)) c l fun x =>
        { x with streamQ := x.streamQ ++ [streamedJob w y acts scales] }) := by
  obtain ⟨acts, scales, hlen, hphase⟩ :=
    streamPhase_read (v := viewOf s c (lastSeq l) (instrWord 0x12 w)) hgot hpoison hmask hturn hplace hsp
  refine ⟨acts, scales, hlen, ?_⟩
  rw [← takeStream_vectors (m := fld w 83 7) (job := streamedJob w y acts scales) hm]
  refine congrArg Host.Outcome.next (engineInstr_finish
    (f := fun s => takeStream s c l false (fld w 83 7) (streamedJob w y acts scales)) h ?_)
  rw [hplane]
  exact hphase

/-! ### DRAIN and ACCLD -/

/-- The descriptors of an instruction in flight are those of its issue. -/
theorem descAt_landed {q : SeqId} {word : Word128} (h : s.Landed c q word y) (i : Nat) :
    descAt (viewOf s c q word) c q i = smapGet 0 y.view i := by
  rw [descAt, viewOf, h.2.1, getSeq_modSeq_same]

/-- A DRAIN enters the drain queue with the descriptors of its issue (R96, R97). -/
theorem exec_drain_turn (h : s.Landed c (lastSeq l) (instrWord 0x13 w) y)
    (hturn : queueTurn s c (lastSeq l) (instrWord 0x13 w) [0x13, 0x14] = true) (hplace : (getLast s c l).drainQ.length < 2) :
    exec (.drain c l w) s = .next (modLast (dropFlight s c (lastSeq l) (instrWord 0x13 w)) c l fun x => { x with
      drainQ := x.drainQ ++ [{
        seq := y.notes.getD 0 0, drain := true, half := bit w 107, entry := fld w 100 6, count := fld w 93 7, next := 0
        fmt := fld w 108 4, flag := bit w 106, alpha := w.extractLsb' 0 32
        descs := (descRun (fld w 112 8) (parts (getLast s c l).shape)).map (smapGet 0 y.view), input := [] }] }) := by
  rw [← funext (descAt_landed h)]
  exact congrArg Host.Outcome.next ((engineInstr_finish h (if_neg (not_held_of_turn hturn hplace))).trans rfl)

/-- An ACCLD enters it with its input, and then writes the entries that are final (R95, R97). -/
theorem exec_accld_read (h : s.Landed c (lastSeq l) (instrWord 0x14 w) y) (hgot : y.got = [a])
    (hpoison : ∀ x ∈ a, x.poison = false)
    (hturn : queueTurn s c (lastSeq l) (instrWord 0x14 w) [0x13, 0x14] = true) (hplace : (getLast s c l).drainQ.length < 2) :
    exec (.accld c l w ev) s = .next (pumpAccld c l 128
      (modLast (dropFlight s c (lastSeq l) (instrWord 0x14 w)) c l fun x => { x with
      drainQ := x.drainQ ++ [{
        seq := y.notes.getD 0 0, drain := false, half := bit w 107, entry := fld w 100 6, count := fld w 93 7, next := 0
        fmt := fld w 108 4, flag := bit w 106, alpha := 0, descs := []
        input := (List.range (parts x.shape)).map fun p => opndData a p }] })) := by
  rw [← lastGot_of_got hgot]
  exact congrArg Host.Outcome.next ((engineInstr_finish h ((if_neg (not_unread_of_got hgot)).trans
    ((if_neg (not_poisoned_of_got hgot hpoison)).trans (if_neg (not_held_of_turn hturn hplace))))).trans rfl)

end

/-- Settles O17: each instruction finishes on what it has read; a LOADW by what the format decoder finds in its tile. -/
theorem lastQueues : Obligations.LastQueues := by
  intro s c l w ev y a
  refine ⟨fun h hgot hpoison hturn hplace hsp p hp => ?loadw, fun h hgot hpoison hmask hturn hplace p hplane hsp hm => ?stream,
    fun h hturn hplace => ⟨_, exec_drain_turn h hturn hplace, fun i hi => by simp [descRun, hi]⟩, exec_accld_read⟩
  case loadw =>
    obtain rfl : p = loadedPlane (getLast s c l) w y a := hp
    have hlast : getLast (dropFlight s c (lastSeq l) (instrWord 0x11 w)) c l = getLast s c l := getLast_dropFlight ..
    rw [exec_loadw_read h hgot hpoison hturn hplace hsp]
    refine ⟨fun hgood => ?_, fun hs24 hbad => ?_⟩
    · rw [enterLoad_wellFormed fun hs24 => ?_]
      · rfl
      · rw [hlast]
        exact malformedParts_eq_nil_iff.mpr (hgood.resolve_left (absurd hs24))
    · have hmalformed : malformedParts (getLast (dropFlight s c (lastSeq l) (instrWord 0x11 w)) c l)
          (loadedPlane (getLast s c l) w y a) ≠ [] := by
        rw [hlast, ne_eq, malformedParts_eq_nil_iff]
        obtain ⟨d, hd, hgroup⟩ := hbad
        exact fun hall => hgroup (hall d hd)
      obtain ⟨t, q, ht, hcore, hrest⟩ := enterLoad_malformed (target := y.notes.getD 1 0 == 1) hs24 hmalformed
      rw [hlast] at hrest
      have hpend : (getSeq (dropFlight s c (lastSeq l) (instrWord 0x11 w)) c (lastSeq l)).pendFault =
        (getSeq s c (lastSeq l)).pendFault := dropFlight_keeps (·.pendFault) (fun _ _ => rfl) ..
      rw [hpend] at hrest
      exact ⟨t, q, congrArg Host.Outcome.next ht, (onlyCore_modCore ..).trans hcore, hrest⟩
  case stream =>
    obtain ⟨acts, scales, hlen, hexec⟩ := exec_stream_read h hgot hpoison hmask hturn hplace hplane hsp hm
    exact ⟨_, streamedJob w y acts scales, hexec, rfl, rfl, rfl, rfl, rfl, rfl, rfl, rfl, rfl, rfl, rfl, rfl, rfl, hlen⟩

end Sys2Proof.Machine
end

section
/-!
The events of the array of a Last (R88, R92, R94 to R96, R102, R124): a plane starts, a vector enters and lands, an entry drains,
a tile falls back to dense.
-/
namespace Sys2Proof.Machine

section
variable {s : State} {c : CoreId} {l : Fin 4}

/-- The oldest load writes its plane where no STREAM needs the load that the plane holds (R92). -/
theorem exec_lastPlaneStart_free (hclock : coreClocked s c = true) {j : LoadJob} {r : List LoadJob}
    (hq : (getLast s c l).loadQ = j :: r)
    (hfree : planeNeeded s c l j.target (planeAt (getLast s c l) j.target).serial = false) :
    exec (.lastPlaneStart c l) s = .next (modLast s c l fun x => { setPlane x j.target j.plane with loadQ := r }) := by
  refine congrArg Host.Outcome.next ((if_neg (by simp [hclock])).trans ?_)
  dsimp only
  rw [hq]
  exact if_neg (by simp [hfree])

/-! ### Vectors -/

/-- The next vector of the oldest STREAM enters, with no injection armed (R94, R95). -/
theorem exec_lastVectorEnter_free (hclock : coreClocked s c = true) {j : StreamJob} {r : List StreamJob}
    (hq : (getLast s c l).streamQ = j :: r) (hload : (planeAt (getLast s c l) j.plane).serial = j.needs)
    (hwaits : (planeAt (getLast s c l) j.plane).waits = false)
    (hfree : entryFree (getLast s c l) j.seq j.half (j.entry + j.next) = true) (harm : armed (getLast s c l) false = false) :
    exec (.lastVectorEnter c l) s = .next (modLast s c l fun x => { x with
      arr := x.arr ++ [{ seq := j.seq, half := j.half, entry := j.entry + j.next, acc := j.acc || decide (0 < j.pass)
                         vals := vectorVals x (planeAt (getLast s c l) j.plane) j, hit := [] }]
      streamQ := afterEnter (planeAt (getLast s c l) j.plane) x.streamQ
      gathered := if j.gather && j.pass == 0 then satAdd x.gathered 1 else x.gathered }) := by
  refine congrArg Host.Outcome.next ((if_neg (by simp [hclock])).trans ?_)
  dsimp only
  rw [hq]
  refine (if_neg (by simp [hload, hwaits, hfree])).trans (modLast_congr s c l ?_)
  rw [harm]
  rfl

/-- Nothing of an ACCLD is written where the drain queue is empty. -/
theorem pumpAccld_of_nil (h : (getLast s c l).drainQ = []) (n : Nat) : pumpAccld c l n s = s := by
  cases n with
  | zero => rfl
  | succ n => rw [pumpAccld, h]

/-- The Last after its oldest vector has landed, with these mismatches (R94, R102). -/
def LastState.land (f : Flying) (r : List Flying) (mis : List Mismatch) (x : LastState) : LastState :=
  { x with arr := r, acc := f.vals.foldl (landVal x.shape f mis) x.acc }

/-- The oldest vector lands with the mismatches found at its landing, where none was injected into it. -/
theorem exec_lastVectorLand_oldest (hclock : coreClocked s c = true) {f : Flying} {r : List Flying}
    (harr : (getLast s c l).arr = f :: r) (hhit : f.hit = []) (mis : List Mismatch) :
    exec (.lastVectorLand c l mis) s = .next (pumpAccld c l 128 (mis.foldl (fun s' m => resMismatch s' c l
      (segGroup (getLast s c l).shape m.seg.val * partEntries (getLast s c l).shape + f.entry) f.half m)
      (modLast s c l (LastState.land f r mis)))) := by
  refine congrArg Host.Outcome.next ((if_neg (by simp [hclock])).trans ?_)
  dsimp only
  rw [harr]
  dsimp only
  rw [hhit, List.nil_append]
  exact congrArg (fun t => pumpAccld c l 128 (mis.foldl _ t)) (modLast_congr s c l rfl)

/-! ### Mismatches -/

/-- A finding of the residue check leaves of the Last all but the record of its columns (R102, R409). -/
theorem getLast_computeRecord (m : Mismatch) (entry : Nat) (half : Bool) (place cnt : Nat) : ∃ times sus,
    getLast (computeRecord s c l m entry half place cnt) c l = { getLast s c l with misTimes := times, suspect := sus } := by
  unfold computeRecord
  dsimp only
  rw [getLast_cores (writeRecord_cores ..), getLast_modLast_same, getLast_cores (bumpGen_cores s)]
  exact ⟨_, _, rfl⟩

/-- LAST_RES_LOG after a mismatch (R102). -/
def resLogWord (job : BitVec 6) (entry : Nat) (half : Bool) (m : Mismatch) : BitVec 32 :=
  BitVec.ofNat 32 (m.col.val + m.seg.val * 512 + entry % 64 * 2048 + b2n half * 2 ^ 17 + b2n m.storage * 2 ^ 18 + 2 ^ 19 +
    job.toNat * 2 ^ 20)

/-- It is valid: the fields of the mismatch lie below its VALID bit, the job above. -/
theorem resLogWord_valid (job : BitVec 6) (entry : Nat) (half : Bool) (m : Mismatch) :
    bit (resLogWord job entry half m) 19 = true := by
  have hcol := m.col.isLt
  have hseg := m.seg.isLt
  have hhalf : b2n half ≤ 1 := by cases half <;> decide
  have hstorage : b2n m.storage ≤ 1 := by cases m.storage <;> decide
  rw [bit, resLogWord, BitVec.getLsbD_ofNat, Nat.testBit_eq_decide_div_mod_eq]
  simp only [show 19 < 32 by decide, decide_true, Bool.true_and, decide_eq_true_eq]
  omega

/-- A mismatch counts in LAST_RES_CNT and is logged (R102). -/
theorem getLast_resMismatch (entry : Nat) (half : Bool) (m : Mismatch) : ∃ times sus,
    getLast (resMismatch s c l entry half m) c l = { getLast s c l with
      resCnt := satAdd (getLast s c l).resCnt 1, resLog := resLogWord (getCore s c).jobId entry half m
      misTimes := times, suspect := sus } := by
  unfold resMismatch
  dsimp only
  obtain ⟨times, sus, h⟩ := getLast_computeRecord (c := c) (l := l) (s := modLast s c l _) m entry half (b2n m.storage) _
  refine ⟨times, sus, h.trans ?_⟩
  rw [getLast_modLast_same]
  rfl

theorem resMismatch_mem (entry : Nat) (half : Bool) (m : Mismatch) : (resMismatch s c l entry half m).mem = s.mem := by
  simp [resMismatch, computeRecord]

end

/-- The value that a mismatch names lands poisoned (R102). -/
theorem landVal_poisons {shape : BitVec 3} {f : Flying} {m : Mismatch} {v : FlyVal}
    (h : misIndex shape f.half f.entry m = v.idx) : (smapGet accZero (landVal shape f [m] [] v) v.idx).poison = true := by
  rw [landVal, smapGet_smapSet_same (m := []) (lo := 0) rfl]
  cases f.acc <;> simp [h]

/-! ### Draining -/

/-- The Last after the DRAIN at the head of its queue has read its next entry: cleared where CLR asks (R96). -/
def LastState.drained (d : DrainJob) (r : List DrainJob) (x : LastState) : LastState :=
  { x with
    acc := if d.flag then (entryIndices x (d.entry + d.next) d.half).foldl (fun a i => smapSet accZero a i accZero) x.acc
      else x.acc
    drainQ := if d.next + 1 < d.count then { d with next := d.next + 1 } :: r else r }

section
variable {s : State} {c : CoreId} {l : Fin 4}

/-- The DRAIN at the head of the queue reads its next entry of an unpaired Last and presents it for writing (R95, R96). -/
theorem exec_drainEntryRead_unpaired (hclock : coreClocked s c = true) {d : DrainJob} {r : List DrainJob}
    (hq : (getLast s c l).drainQ = d :: r) (hdrain : d.drain = true)
    (hfinal : entryFinal s c l d.seq d.half (d.entry + d.next) = true) (hpaired : (getLast s c l).paired = false) :
    exec (.drainEntryRead c l []) s = .next (pumpAccld c l 128 (pushWrites
      (modLast s c l (LastState.drained d r)) c (lastSeq l) 0x13
      ((List.range (parts (getLast s c l).shape)).flatMap fun p => drainWrites s c (getLast s c l) d p fun _ => false))) := by
  refine congrArg Host.Outcome.next ((if_neg (by simp [hclock])).trans ?_)
  dsimp only
  rw [hq]
  refine (if_neg (by simp [hdrain, hfinal])).trans ?_
  rw [hpaired]
  rfl

/-! ### Dense fallback -/

/-- The Last after its tile on plane b has gone over to dense passes (R124). -/
def LastState.expanded (b : Bool) (x : LastState) : LastState :=
  { setPlane x b { planeAt x b with
      waits := false
      passes := if (planeAt x b).sp = 3 then nzbPasses (planeAt x b).fmt (planeAt x b).blocks
        else expandPasses (planeAt x b).fmt } with
    fbCnt := satAdd x.fbCnt 1, spLog := x.spLog ||| 4 }

theorem planeAt_expanded_same (b : Bool) (x : LastState) : planeAt (x.expanded b) b = { planeAt x b with
    waits := false
    passes := if (planeAt x b).sp = 3 then nzbPasses (planeAt x b).fmt (planeAt x b).blocks
      else expandPasses (planeAt x b).fmt } := by
  cases b <;> rfl

theorem planeAt_expanded_other (b : Bool) (x : LastState) : planeAt (x.expanded b) (!b) = planeAt x (!b) := by
  cases b <;> rfl

theorem acc_expanded (b : Bool) (x : LastState) : (x.expanded b).acc = x.acc := by
  cases b <;> rfl

/-- The first tile that waits for its expansion gets its passes, and a record is written (R124). -/
theorem exec_denseFallbackReexec_waits {b : Bool} (hwaits : (planeAt (getLast s c l) b).waits = true)
    (hfirst : b = true → (getLast s c l).p0.waits = false) :
    ∃ r, exec (.denseFallbackReexec c l) s = .next (writeRecord (modLast s c l (LastState.expanded b)) r) := by
  cases b with
  | false =>
    exact ⟨_, congrArg Host.Outcome.next ((if_pos hwaits).trans
      (congrArg (writeRecord · _) (modLast_congr s c l rfl)))⟩
  | true =>
    exact ⟨_, congrArg Host.Outcome.next ((if_neg (by simp [hfirst rfl])).trans ((if_pos hwaits).trans
      (congrArg (writeRecord · _) (modLast_congr s c l rfl))))⟩

end

/-- Settles O18: each event by the lemma about its command, and what its one change of the Last leaves. -/
theorem lastArray : Obligations.LastArray := by
  rintro s c l x rfl
  refine ⟨fun hclock => ⟨fun j r => exec_lastPlaneStart_free hclock, fun j r p hq hp hload hwaits hfree harm => ?enter,
    fun f r harr hhit hdrainQ => ⟨?lands, fun m => ?mismatch, fun m v hvals hidx => ?poison⟩,
    fun d r hq hdrain hfinal hpaired => ?drain⟩, fun b hwaits hfirst => ?fallback⟩
  case enter =>
    subst hp
    exact exec_lastVectorEnter_free hclock hq hload hwaits hfree harm
  case lands =>
    rw [exec_lastVectorLand_oldest hclock harr hhit, List.foldl_nil,
      pumpAccld_of_nil (by rw [getLast_modLast_same]; exact hdrainQ)]
    exact congrArg Host.Outcome.next (modLast_congr s c l rfl)
  case mismatch =>
    obtain ⟨times, sus, hlast⟩ := getLast_resMismatch (s := modLast s c l (LastState.land f r [m])) (c := c) (l := l)
      (segGroup (getLast s c l).shape m.seg.val * partEntries (getLast s c l).shape + f.entry) f.half m
    rw [getLast_modLast_same] at hlast
    rw [exec_lastVectorLand_oldest hclock harr hhit, List.foldl_cons, List.foldl_nil,
      pumpAccld_of_nil (by rw [hlast]; exact hdrainQ)]
    refine ⟨_, rfl, ?_⟩
    rw [hlast, resMismatch_mem]
    exact ⟨rfl, rfl, rfl, resLogWord_valid .., rfl⟩
  case poison =>
    rw [hvals]
    exact landVal_poisons hidx
  case drain =>
    exact exec_drainEntryRead_unpaired hclock hq hdrain hfinal hpaired
  case fallback =>
    obtain ⟨r, hexec⟩ := exec_denseFallbackReexec_waits hwaits hfirst
    refine ⟨_, hexec, ?_⟩
    rw [getLast_cores (writeRecord_cores ..), getLast_modLast_same, writeRecord_mem, planeAt_expanded_same, planeAt_expanded_other,
      acc_expanded]
    exact ⟨rfl, rfl, rfl, rfl, rfl, by simp [LastState.expanded, bit], rfl⟩

end Sys2Proof.Machine
end

section
/-!
The Welt instructions that compute on streams: WOP, WCVT, WRED, WSMX, WOPT, CFILL and CEVICT (R163, R166, R170 to R173, R175, R178).
All have the plain shape of `weltInstr`; they differ in operands, results and what their completion does besides.
-/
namespace Sys2Proof.Machine

/-- What `weltInstr_runs` says, as the outcome of a command, for a function `run` that stands for `weltRuns`. -/
theorem next_weltInstr_runs {s : State} {c : CoreId} {wl : Fin 2} {opc : BitVec 8} {w : BitVec 120} {rsv : Word128}
    {ev : List EccEvent} {os : List WOpnd} {own : List (Nat × Bool)} {held : Bool} {notes : List Nat} {atIssue : State → State}
    {compute : (Nat → List Byte) → List Nat → WRes} {post : (Nat → List Byte) → State → State} {y : InFlight} {a : List Access}
    {run : BitVec 8 → ((Nat → List Byte) → WRes) → ((Nat → List Byte) → State → State) → State}
    (hev : ∀ e ∈ ev, e.cache = false)
    (hrun : ∀ opc r post, run opc r post = weltRuns s c wl (instrWord opc w) ev (weltOperands y os) a r post)
    (hhas : s.WeltHas c wl (instrWord opc w) os y a) :
    (.next (weltInstr s c wl (instrWord opc w) rsv ev os own held notes atIssue compute post) : Out) =
      .next (run opc (fun d => compute d y.notes) post) :=
  congrArg Host.Outcome.next ((weltInstr_runs hev hhas).trans (hrun ..).symm)

/-- Settles O20: each meaning is a `weltInstr` with the operands of its case, the two forms of WSMX under their FN, so its run is
the one of `weltInstr_runs`. -/
theorem weltComputes : Obligations.WeltComputes := by
  intro s c wl w ev y a os run hev hrun
  refine ⟨?wop, ?wcvt, ?wred, ?wsmx, ?wopt, ?cfill, ?cevict⟩
  case wop =>
    rintro af bf df fn rnd bm n g nb i rfl rfl rfl rfl rfl rfl rfl rfl rfl rfl rfl hhas
    exact next_weltInstr_runs hev hrun hhas
  case wcvt =>
    rintro af df rnd n k sr rfl rfl rfl rfl rfl rfl rfl hhas
    exact next_weltInstr_runs hev hrun hhas
  case wred =>
    rintro af df fn n g outs r rfl rfl rfl rfl rfl rfl rfl rfl hhas
    exact next_weltInstr_runs hev hrun hhas
  case wsmx =>
    rintro af df n g lim rfl rfl rfl rfl rfl
    refine ⟨?exps, ?merge⟩
    case exps =>
      rintro hexps rfl hhas
      have hnotMerge : fld w 86 2 ≠ 1 := by simp [hexps]
      exact (congrArg Host.Outcome.next (if_neg hnotMerge)).trans (next_weltInstr_runs hev hrun hhas)
    case merge =>
      rintro hmerge rfl hhas
      exact (congrArg Host.Outcome.next (if_neg (not_not_intro hmerge))).trans (next_weltInstr_runs hev hrun hhas)
  case wopt =>
    rintro n wf adam k sr rs rfl rfl rfl rfl rfl rfl rfl hhas
    exact ⟨_, next_weltInstr_runs hev hrun hhas⟩
  case cfill =>
    rintro rfl hhas
    exact next_weltInstr_runs hev hrun hhas
  case cevict =>
    rintro rfl hhas
    exact next_weltInstr_runs hev hrun hhas

end Sys2Proof.Machine
end

section
/-!
Links, laces, nodes and DIST: what the operations of Lacing do to the parts of the fabric that statements speak of, and that they
leave everything else but records and INVENTORY.
-/
namespace Sys2Proof.Machine

/-! ### Bits, links and their directions -/

/-- A bit other than the one that was changed. -/
theorem bit_setBit_other {w : Nat} (x : BitVec w) (b : Bool) {i j : Nat} (h : i ≠ j) : bit (setBit x i b) j = bit x j := by
  have hpow : (BitVec.ofNat w (2 ^ i)).getLsbD j = false := by
    rw [BitVec.getLsbD_ofNat, Nat.testBit_two_pow_of_ne h, Bool.and_false]
  cases b
  · by_cases hj : j < w
    · simp only [bit, setBit, Bool.false_eq_true, if_false, BitVec.getLsbD_and, BitVec.getLsbD_not, hpow, hj, decide_true,
        Bool.not_false, Bool.and_true]
    · rw [bit, bit, BitVec.getLsbD_of_ge _ j (Nat.le_of_not_lt hj), BitVec.getLsbD_of_ge _ j (Nat.le_of_not_lt hj)]
  · simp only [bit, setBit, if_true, BitVec.getLsbD_or, hpow, Bool.or_false]

/-- A link with one direction changed. -/
def Link.mapDir (d : Bool) (f : LinkDir → LinkDir) (k : Link) : Link := if d then { k with b := f k.b } else { k with a := f k.a }

@[simp] theorem Link.dir_mapDir_same (d : Bool) (f : LinkDir → LinkDir) (k : Link) : (k.mapDir d f).dir d = f (k.dir d) := by
  cases d <;> rfl

@[simp] theorem Link.dir_mapDir_not (d : Bool) (f : LinkDir → LinkDir) (k : Link) : (k.mapDir d f).dir (!d) = k.dir (!d) := by
  cases d <;> rfl

@[simp] theorem Link.failed_mapDir (d : Bool) (f : LinkDir → LinkDir) (k : Link) : (k.mapDir d f).failed = k.failed := by
  cases d <;> rfl

@[simp] theorem Link.retires_mapDir (d : Bool) (f : LinkDir → LinkDir) (k : Link) : (k.mapDir d f).retires = k.retires := by
  cases d <;> rfl

@[simp] theorem Link.replays_mapDir (d : Bool) (f : LinkDir → LinkDir) (k : Link) : (k.mapDir d f).replays = k.replays := by
  cases d <;> rfl

@[simp] theorem link_modLink (s : State) (l : Fin 23) (f : Link → Link) :
    vget (modLink s l f).lacing.links l = f (vget s.lacing.links l) :=
  vget_vmod_same s.lacing.links l f

@[simp] theorem link_modDir (s : State) (l : Fin 23) (d : Bool) (f : LinkDir → LinkDir) :
    vget (modDir s l d f).lacing.links l = (vget s.lacing.links l).mapDir d f :=
  link_modLink s l (Link.mapDir d f)

/-! ### Outside the fabric -/

/-- Rewriting DIST for a route change: the fault table, the entries, the epoch and DIST_GEN (R22, R228). -/
theorem rewriteDist_true (s : State) : rewriteDist s true = modLacing s fun x => { x with
    ft := faultTable s
    dist := distTable (modLacing s fun y => { y with ft := faultTable s })
    distEpoch := x.distEpoch + 2
    distGen := x.distGen + 1 } := by
  simp only [rewriteDist, modLacing, if_true]

/-- Rewriting DIST for other delays: the entries and the epoch (R22). -/
theorem rewriteDist_false (s : State) : rewriteDist s false = modLacing s fun x => { x with
    dist := distTable s
    distEpoch := x.distEpoch + 2 } := by
  simp only [rewriteDist, modLacing, Bool.false_eq_true, if_false]

/-- A part of the state that no change of Lacing and no record reaches. -/
structure OutsideLacing {β : Type} (g : State → β) : Prop where
  lacing : ∀ s f, g (modLacing s f) = g s
  record : ∀ s r, g (writeRecord s r) = g s
  noted : ∀ s, g (noted s) = g s

theorem outsideLacing_mem : OutsideLacing (·.mem) := ⟨modLacing_mem, writeRecord_mem, noted_mem⟩

theorem outsideLacing_cores : OutsideLacing (·.cores) := ⟨modLacing_cores, writeRecord_cores, noted_cores⟩

theorem outsideLacing_tiers : OutsideLacing (·.tiers) := ⟨modLacing_tiers, writeRecord_tiers, noted_tiers⟩

theorem outsideLacing_sites : OutsideLacing (·.sites) := ⟨modLacing_sites, writeRecord_sites, noted_sites⟩

section
variable {β : Type} {g : State → β} (hg : OutsideLacing g)
include hg

theorem OutsideLacing.modLink (s : State) (l : Fin 23) (f : Link → Link) : g (modLink s l f) = g s := hg.lacing _ _

theorem OutsideLacing.modDir (s : State) (l : Fin 23) (d : Bool) (f : LinkDir → LinkDir) : g (modDir s l d f) = g s :=
  hg.modLink _ _ _

theorem OutsideLacing.setNode (s : State) (n : Fin 15) (st : BitVec 2) : g (setNode s n st) = g s :=
  hg.lacing s fun x => { x with nodes := vset x.nodes n st }

theorem OutsideLacing.routeChange (s : State) (node link : Nat) : g (routeChange s node link) = g s := by
  unfold Machine.routeChange
  split
  · rfl
  · exact (hg.record _ _).trans (by rw [rewriteDist_true, hg.lacing])

theorem OutsideLacing.failLink (s : State) (l : Fin 23) : g (failLink s l) = g s := by
  unfold Machine.failLink
  split
  · rfl
  · rw [hg.noted, hg.routeChange, hg.modLink]

theorem OutsideLacing.noteLinkEvent (s : State) (l : Fin 23) : g (noteLinkEvent s l) = g s :=
  have hnote : ∀ s n, g (noteRetrain s n) = g s := fun s n => hg.lacing s fun _ => (noteRetrain s n).lacing
  (hnote _ _).trans (hnote _ _)

end

/-! ### Route changes and failed links -/

/-- What a route change does to Lacing, once DIST has been written: it rewrites DIST. -/
theorem routeChange_lacing {s : State} (h : s.lacing.distGen ≠ 0) (node link : Nat) :
    (routeChange s node link).lacing = (rewriteDist s true).lacing := by
  unfold routeChange
  rw [if_neg h]
  exact writeRecord_lacing _ _

/-- A route change leaves what of Lacing is neither DIST nor the fault table. -/
theorem routeChange_keeps {β : Type} (g : Lacing → β) (hg : ∀ s, g (rewriteDist s true).lacing = g s.lacing) (s : State)
    (node link : Nat) : g (routeChange s node link).lacing = g s.lacing := by
  by_cases h : s.lacing.distGen = 0
  · rw [routeChange, if_pos h]
  · rw [routeChange_lacing h, hg]

theorem routeChange_links (s : State) (node link : Nat) : (routeChange s node link).lacing.links = s.lacing.links :=
  routeChange_keeps (·.links) (fun s => by rw [rewriteDist_true, modLacing_lacing]) s node link

theorem routeChange_nodes (s : State) (node link : Nat) : (routeChange s node link).lacing.nodes = s.lacing.nodes :=
  routeChange_keeps (·.nodes) (fun s => by rw [rewriteDist_true, modLacing_lacing]) s node link

/-- A route change once DIST has been written: a new DIST_GEN, and the epoch odd and even again (R22, R23). -/
theorem routeChange_dist {s : State} (h : s.lacing.distGen ≠ 0) (node link : Nat) :
    (routeChange s node link).lacing.distGen = s.lacing.distGen + 1 ∧
      (routeChange s node link).lacing.distEpoch = s.lacing.distEpoch + 2 := by
  rw [routeChange_lacing h, rewriteDist_true, modLacing_lacing]
  exact ⟨rfl, rfl⟩

/-- A link that fails has failed, and is otherwise as it was; failing again changes nothing (R218). -/
theorem link_failLink (s : State) (l : Fin 23) :
    vget (failLink s l).lacing.links l = { vget s.lacing.links l with failed := true } := by
  unfold failLink
  split
  case isTrue hfailed => rw [← hfailed]
  case isFalse => rw [noted_lacing, routeChange_links, link_modLink]

end Sys2Proof.Machine
end

section
/-!
Laces (R216 to R219): beats and their replays, retirement, spares, and retraining.
-/
namespace Sys2Proof.Machine

/-! ### Retirement of a lace -/

/-- A direction that has lost a lace for good. -/
def LinkDir.dropLace (i : Nat) (x : LinkDir) : LinkDir := { x with
  active := setBit x.active i false, retired := setBit x.retired i true
  training := x.training.filter fun n => n != i
  retrain := if x.retrain = some i then none else x.retrain
  replays := smapSet 0 x.replays i 0 }

/-- A direction with fewer than 16 laces in service or training trains its first free spare. -/
def LinkDir.trainSpare (x : LinkDir) : LinkDir :=
  if x.width + x.training.length < 16 then { x with training := x.training ++ x.spares.take 1 } else x

/-- A direction one of whose laces is retired (R217). -/
def LinkDir.retireLace (i : Nat) (x : LinkDir) : LinkDir := (x.dropLace i).trainSpare

/-- Training a spare leaves what is not its training. -/
theorem LinkDir.trainSpare_keeps {β : Type} (g : LinkDir → β) (hg : ∀ (x : LinkDir) l, g { x with training := l } = g x)
    (x : LinkDir) : g x.trainSpare = g x := by
  unfold LinkDir.trainSpare
  split
  · exact hg x _
  · rfl

@[simp] theorem LinkDir.active_retireLace (i : Nat) (x : LinkDir) : (x.retireLace i).active = setBit x.active i false :=
  LinkDir.trainSpare_keeps (·.active) (fun _ _ => rfl) _

@[simp] theorem LinkDir.retired_retireLace (i : Nat) (x : LinkDir) : (x.retireLace i).retired = setBit x.retired i true :=
  LinkDir.trainSpare_keeps (·.retired) (fun _ _ => rfl) _

/-- A lace that retires while it retrains no longer does. -/
theorem LinkDir.retrain_retireLace {i : Nat} {x : LinkDir} (h : x.retrain = none) : (x.retireLace i).retrain = none := by
  have hdrop : (x.dropLace i).retrain = none := by simp [LinkDir.dropLace, h]
  exact (LinkDir.trainSpare_keeps (·.retrain) (fun _ _ => rfl) _).trans hdrop

theorem LinkDir.training_dropLace {i : Nat} {x : LinkDir} (h : i ∉ x.training) : (x.dropLace i).training = x.training := by
  refine List.filter_eq_self.mpr fun n hn => ?_
  simpa using fun e : n = i => h (e ▸ hn)

/-- The loss of a lace in service leaves the spares: it was none, and it becomes none. -/
theorem LinkDir.spares_dropLace {i : Nat} {x : LinkDir} (hi : i < 18) (hactive : bit x.active i = true) (htraining : i ∉ x.training) :
    (x.dropLace i).spares = x.spares := by
  refine List.filter_congr fun n _ => ?_
  rw [LinkDir.training_dropLace htraining]
  by_cases hn : i = n
  · subst hn
    have hretired : bit (x.dropLace i).retired i = true := setBit_bit x.retired i hi
    simp [hactive, hretired]
  · have hactive' : bit (x.dropLace i).active n = bit x.active n := bit_setBit_other _ _ hn
    have hretired' : bit (x.dropLace i).retired n = bit x.retired n := bit_setBit_other _ _ hn
    have hretrain' : ((x.dropLace i).retrain != some n) = (x.retrain != some n) := by
      by_cases hx : x.retrain = some i
      · simp [LinkDir.dropLace, hx, bne, beq_eq_false_iff_ne.mpr hn]
      · simp [LinkDir.dropLace, hx]
    rw [hactive', hretired', hretrain']

/-- The first free spare trains in the place of a lace that leaves service. -/
theorem LinkDir.training_retireLace {i n : Nat} {r : List Nat} {x : LinkDir} (hi : i < 18) (hactive : bit x.active i = true)
    (hwidth : popcount (setBit x.active i false) + x.training.length < 16) (htraining : i ∉ x.training)
    (hspares : x.spares = n :: r) : (x.retireLace i).training = x.training ++ [n] := by
  have hroom : (x.dropLace i).width + (x.dropLace i).training.length < 16 := by
    rw [LinkDir.training_dropLace htraining]
    exact hwidth
  rw [LinkDir.retireLace, LinkDir.trainSpare, if_pos hroom]
  dsimp only
  rw [LinkDir.training_dropLace htraining, LinkDir.spares_dropLace hi hactive htraining, hspares]
  rfl

/-- The state in which a link counts a lace that has left it. -/
def laceOut (s : State) (l : Fin 23) (d : Bool) (i : Fin 18) : State :=
  modLink (modDir s l d (LinkDir.retireLace i.val)) l fun k => { k with retires := satAdd k.retires 1 }

/-- The health score, the condition report and a record keep the loss of a lace. -/
def laceReported (s : State) (l : Fin 23) (d : Bool) (i : Fin 18) : State :=
  linkRecord (noteLinkEvent (condAppend s (unitWord 6 15 (65536 * b2n d + 256 * l.val + i.val)) 0x04 3 0 0) l) l d i.val 1 3

/-- An entry of the condition report leaves Lacing. -/
theorem condAppend_lacing (s : State) (u : BitVec 32) (x y : BitVec 8) (z : BitVec 16) (v : BitVec 32) :
    (condAppend s u x y z v).lacing = s.lacing := by
  unfold condAppend condWrite
  dsimp only
  repeat' split
  all_goals simp

theorem OutsideLacing.laceReported {β : Type} {g : State → β} (hg : OutsideLacing g)
    (hcond : ∀ s u x y z v, g (condAppend s u x y z v) = g s) (s : State) (l : Fin 23) (d : Bool) (i : Fin 18) :
    g (laceReported s l d i) = g s := by
  unfold Machine.laceReported linkRecord
  rw [hg.record, hg.noteLinkEvent, hcond]

/-- Of Lacing, only the events that count for the health score change. -/
theorem laceReported_lacing (s : State) (l : Fin 23) (d : Bool) (i : Fin 18) : ∃ times,
    (laceReported s l d i).lacing = { s.lacing with retrainTimes := times } := by
  unfold laceReported linkRecord
  rw [writeRecord_lacing, noteLinkEvent, noteRetrain, noteRetrain, condAppend_lacing]
  exact ⟨_, rfl⟩

section
variable {s : State} {l : Fin 23} {d : Bool} {i : Fin 18}

theorem retireLace_eq (hl : l.val < 17) (h : bit ((vget s.lacing.links l).dir d).retired i.val = false) :
    retireLace s l d i =
      if ((vget (laceReported (laceOut s l d i) l d i).lacing.links l).dir d).width <
          clampNat 4 16 (fld (laceReported (laceOut s l d i) l d i).lacing.errThr 8 5) then
        failLink (laceReported (laceOut s l d i) l d i) l
      else laceReported (laceOut s l d i) l d i :=
  if_neg (by simp [h, hl])

theorem OutsideLacing.retireLace {β : Type} {g : State → β} (hg : OutsideLacing g)
    (hcond : ∀ s u x y z v, g (condAppend s u x y z v) = g s) (hl : l.val < 17)
    (h : bit ((vget s.lacing.links l).dir d).retired i.val = false) : g (retireLace s l d i) = g s := by
  have hreported : g (Machine.laceReported (laceOut s l d i) l d i) = g s := by
    rw [hg.laceReported hcond, laceOut, hg.modLink, hg.modDir]
  rw [retireLace_eq hl h]
  split
  · rw [hg.failLink, hreported]
  · exact hreported

/-- A link that loses a lace: its direction, its count, and its failure where the direction is below MIN_WIDTH (R217, R218). -/
theorem link_retireLace (hl : l.val < 17) (h : bit ((vget s.lacing.links l).dir d).retired i.val = false) :
    vget (retireLace s l d i).lacing.links l = { (vget s.lacing.links l).mapDir d (LinkDir.retireLace i.val) with
      retires := satAdd (vget s.lacing.links l).retires 1
      failed := (vget s.lacing.links l).failed || decide
        (popcount (setBit ((vget s.lacing.links l).dir d).active i.val false) < clampNat 4 16 (fld s.lacing.errThr 8 5)) } := by
  have hlink : vget (laceReported (laceOut s l d i) l d i).lacing.links l =
      { (vget s.lacing.links l).mapDir d (LinkDir.retireLace i.val) with retires := satAdd (vget s.lacing.links l).retires 1 } := by
    obtain ⟨times, heq⟩ := laceReported_lacing (laceOut s l d i) l d i
    rw [heq]
    simp [laceOut]
  have hthr : (laceReported (laceOut s l d i) l d i).lacing.errThr = s.lacing.errThr := by
    obtain ⟨times, heq⟩ := laceReported_lacing (laceOut s l d i) l d i
    rw [heq]
    rfl
  have hwidth : ((vget (laceReported (laceOut s l d i) l d i).lacing.links l).dir d).width =
      popcount (setBit ((vget s.lacing.links l).dir d).active i.val false) := by
    rw [hlink]
    exact congrArg popcount ((congrArg LinkDir.active (Link.dir_mapDir_same ..)).trans (LinkDir.active_retireLace ..))
  rw [retireLace_eq hl h, hwidth, hthr]
  split
  case isTrue hlow => simp [link_failLink, hlink, hlow]
  case isFalse hlow => simp [hlink, hlow]

/-- The direction that loses the lace. -/
theorem dir_retireLace (hl : l.val < 17) (h : bit ((vget s.lacing.links l).dir d).retired i.val = false) :
    (vget (retireLace s l d i).lacing.links l).dir d = ((vget s.lacing.links l).dir d).retireLace i.val := by
  rw [link_retireLace hl h]
  exact Link.dir_mapDir_same ..

/-- The other direction. -/
theorem dir_not_retireLace (hl : l.val < 17) (h : bit ((vget s.lacing.links l).dir d).retired i.val = false) :
    (vget (retireLace s l d i).lacing.links l).dir (!d) = (vget s.lacing.links l).dir (!d) := by
  rw [link_retireLace hl h]
  exact Link.dir_mapDir_not ..

/-! ### Beats and retraining -/

section
variable (hl : l.val < 17) (hworks : (vget s.lacing.links l).failed = false)
  (hactive : bit ((vget s.lacing.links l).dir d).active i.val = true)
include hl hworks hactive

/-- A beat of a lace in service on a working link is taken. -/
theorem beat_taken : ¬((decide (17 ≤ l.val) || (vget s.lacing.links l).failed ||
    !bit ((vget s.lacing.links l).dir d).active i.val) = true) := by
  simp [hl, hworks, hactive]

/-- A beat whose CRC fails is replayed, and the third failed replay retires the lace (R216, R217). -/
theorem exec_laceBeatReceive_bad : exec (.laceBeatReceive l d i false) s =
    .next (if smapGet 0 ((vget s.lacing.links l).dir d).replays i.val < 3 then modDir s l d fun y => { y with
        replays := smapSet 0 y.replays i.val (smapGet 0 ((vget s.lacing.links l).dir d).replays i.val + 1) }
      else retireLace s l d i) :=
  congrArg Host.Outcome.next (if_neg (beat_taken hl hworks hactive))

theorem exec_laceBeatReceive_good (hreplays : smapGet 0 ((vget s.lacing.links l).dir d).replays i.val = 0) :
    exec (.laceBeatReceive l d i true) s = .next s :=
  congrArg Host.Outcome.next ((if_neg (beat_taken hl hworks hactive)).trans (if_pos hreplays))

/-- The first transient error of a direction: the replayed beat passes, and CRC_LIM is not reached (R217). -/
theorem exec_laceBeatReceive_replayed (hreplays : smapGet 0 ((vget s.lacing.links l).dir d).replays i.val ≠ 0)
    (hfirst : ((vget s.lacing.links l).dir d).errTimes = []) (hlim : 1 < clampNat 1 255 (fld s.lacing.errThr 0 8)) :
    exec (.laceBeatReceive l d i true) s = .next (bumpGen (modLink (modDir s l d fun y => { y with
      replays := smapSet 0 y.replays i.val 0, errTimes := [(i.val, s.reg.time.toNat)] }) l fun k => { k with
      replays := satAdd k.replays 1 })) := by
  refine congrArg Host.Outcome.next ((if_neg (beat_taken hl hworks hactive)).trans ((if_neg hreplays).trans ?_))
  rw [hfirst]
  exact if_neg (Nat.not_le.mpr (lt_of_eq_of_lt (by simp) hlim))

end

theorem exec_laceRetire : exec (.laceRetire l d i) s = .next (retireLace s l d i) := rfl

/-- The state in which the retraining of a lace is over: back in service where it passed and its direction has room. -/
def retrainEnded (s : State) (l : Fin 23) (d : Bool) (i : Fin 18) (ok : Bool) : State :=
  modLink (modDir s l d fun x => { x with
    retrain := none
    active := if ok = true ∧ popcount x.active + x.training.length < 16 then setBit x.active i.val true else x.active }) l fun k =>
    { k with ctrl := if fld k.ctrl 0 5 = i.val ∧ bit k.ctrl 5 = d then setBit k.ctrl 6 false else k.ctrl }

theorem exec_laceRetrainDone (hretrain : ((vget s.lacing.links l).dir d).retrain = some i.val) (ok : Bool) :
    exec (.laceRetrainDone l d i ok) s =
      .next (if ok = true then noted (retrainEnded s l d i ok) else retireLace (retrainEnded s l d i ok) l d i) :=
  congrArg Host.Outcome.next (if_neg (not_not_intro hretrain))

theorem dir_retrainEnded (ok : Bool) : (vget (retrainEnded s l d i ok).lacing.links l).dir d =
    { (vget s.lacing.links l).dir d with
      retrain := none
      active := if ok = true ∧ popcount ((vget s.lacing.links l).dir d).active + ((vget s.lacing.links l).dir d).training.length < 16
        then setBit ((vget s.lacing.links l).dir d).active i.val true else ((vget s.lacing.links l).dir d).active } := by
  rw [retrainEnded, link_modLink, link_modDir]
  exact Link.dir_mapDir_same ..

end

/-- Settles O26: beats and retraining come out as the lemma about their command says; what a retired lace leaves is read off the
link. -/
theorem lacesServe : Obligations.LacesServe := by
  rintro s l d i _ hl rfl
  refine ⟨?beats, ?retire, ?retired, ?trained, ?retrained⟩
  case beats =>
    intro hworks hactive
    have hbad := exec_laceBeatReceive_bad hl hworks hactive
    refine ⟨exec_laceBeatReceive_good hl hworks hactive, fun hfew => ?_, fun hmany => ?_, fun hreplays hfirst hlim => ?_, ?_⟩
    · rw [hbad, if_pos hfew]
    · rw [hbad, if_neg (Nat.not_lt.mpr hmany), exec_laceRetire]
    · refine ⟨_, exec_laceBeatReceive_replayed hl hworks hactive hreplays hfirst hlim, ?_, ?_, rfl, rfl⟩
      · rw [bumpGen_lacing, link_modLink, link_modDir]
        exact Link.dir_mapDir_same ..
      · rw [bumpGen_lacing, link_modLink, link_modDir, Link.replays_mapDir]
    · exact congrArg Host.Outcome.next (if_pos hactive)
  case retire =>
    intro hretired
    refine ⟨_, _, exec_laceRetire, (dir_retireLace hl hretired).symm, LinkDir.active_retireLace .., LinkDir.retired_retireLace .., ?_,
      fun hactive hwidth htraining n r hspares => LinkDir.training_retireLace i.isLt hactive hwidth htraining hspares, ?_,
      dir_not_retireLace hl hretired, outsideLacing_mem.retireLace condAppend_mem hl hretired,
      outsideLacing_cores.retireLace condAppend_cores hl hretired⟩
    · rw [link_retireLace hl hretired]
    · rw [link_retireLace hl hretired, LinkDir.active_retireLace]
  case retired =>
    intro hretired
    exact congrArg Host.Outcome.next (if_pos (by simp [hretired]))
  case trained =>
    intro htraining
    exact congrArg Host.Outcome.next (if_pos (by simpa using htraining))
  case retrained =>
    intro hretrain
    refine ⟨?passed, fun hretired => ?failed⟩
    case passed =>
      rw [exec_laceRetrainDone hretrain]
      simp [retrainEnded]
    case failed =>
      have hended := dir_retrainEnded (s := s) (l := l) (d := d) (i := i) false
      have hretired' : bit ((vget (retrainEnded s l d i false).lacing.links l).dir d).retired i.val = false := by
        rw [hended]
        exact hretired
      refine ⟨_, exec_laceRetrainDone hretrain false, ?_⟩
      rw [if_neg Bool.false_ne_true, dir_retireLace hl hretired', LinkDir.retired_retireLace]
      exact ⟨setBit_bit _ _ i.isLt, LinkDir.retrain_retireLace (by rw [hended])⟩

end Sys2Proof.Machine
end

section
/-!
Failed routers and what they cut off, quarantined tags, DIST, and lost UCIe modules (R18, R21, R22, R228 to R230).
-/
namespace Sys2Proof.Machine

/-! ### Failed routers -/

/-- Node m after the router of node n has failed. -/
theorem nodeUp_setNode_failed (s : State) {n m : Nat} (hn : n < 15) (hm : m < 15) :
    nodeUp (setNode s (finOf 15 (by decide) n) 2) m = if m = n then false else nodeUp s m := by
  unfold nodeUp setNode
  dsimp only
  split
  case isTrue h => rw [h, vget_vset_same, bne_self_eq_false]
  case isFalse h =>
    have hne : finOf 15 (by decide) n ≠ finOf 15 (by decide) m := fun e => h (by
      have hmod : n % 15 = m % 15 := congrArg Fin.val e
      rw [Nat.mod_eq_of_lt hn, Nat.mod_eq_of_lt hm] at hmod
      exact hmod.symm)
    rw [vget_vset_other _ _ hne]

/-- Whether a node forwards is told by its state. -/
theorem nodeUp_congr {s t : State} (h : t.lacing.nodes = s.lacing.nodes) (m : Nat) : nodeUp t m = nodeUp s m := by
  rw [nodeUp, nodeUp, h]

/-- The HBM region whose router is node n, if any, is DOWN (R24). -/
def regionDown (s : State) (n : Nat) : State :=
  (regionAt n).elim s fun q => modTiers s fun t => { t with regions := vmod t.regions q fun r => { r with state := 3 } }

theorem regionDown_keeps {β : Type} (g : State → β) (hg : ∀ s f, g (modTiers s f) = g s) (s : State) (n : Nat) :
    g (regionDown s n) = g s := by
  unfold regionDown
  cases regionAt n with
  | none => rfl
  | some q => rw [Option.elim_some, hg]

theorem regions_regionDown (s : State) {n : Nat} {q : Fin 8} (h : regionAt n = some q) :
    (vget (regionDown s n).tiers.regions q).state = 3 := by
  rw [regionDown, h]
  simp

/-- The state in which the router of node f forwards nothing and its region is DOWN. -/
def routerDown (s : State) (f : Nat) : State := regionDown (setNode s (finOf 15 (by decide) f) 2) f

theorem exec_routerFail {s : State} {n : CoreId} (hup : nodeUp s (fieldOf s n).val = true) :
    exec (.routerFail n) s = .next (noted (routeChange (routerDown s (fieldOf s n).val) (fieldOf s n).val 0xFF)) := by
  refine congrArg Host.Outcome.next ((if_neg (by simp [hup])).trans ?_)
  unfold routerDown regionDown
  cases regionAt (fieldOf s n).val <;> rfl

theorem OutsideLacing.routerDown {β : Type} {g : State → β} (hg : OutsideLacing g) (htiers : ∀ s f, g (modTiers s f) = g s)
    (s : State) (f : Nat) : g (routerDown s f) = g s :=
  (regionDown_keeps g htiers _ f).trans (hg.setNode _ _ _)

/-- A failed router changes Lacing at its node alone. -/
theorem routerDown_lacing (s : State) (f : Nat) :
    (routerDown s f).lacing = (setNode s (finOf 15 (by decide) f) 2).lacing :=
  regionDown_keeps (·.lacing) (fun _ _ => rfl) _ f

theorem nodeUp_routerFail (s : State) {f m : Nat} (node link : Nat) (hf : f < 15) (hm : m < 15) :
    nodeUp (noted (routeChange (routerDown s f) node link)) m = if m = f then false else nodeUp s m := by
  rw [← nodeUp_setNode_failed s hf hm]
  refine nodeUp_congr ?_ m
  rw [noted_lacing, routeChange_nodes, routerDown_lacing]

/-! ### Transactions that are cut off -/

/-- The transactions of core c that a failure cuts are no longer outstanding, and their tags are held (R230). -/
def txnsCut (s : State) (c : CoreId) (cut : List Txn) : State :=
  modCore s c fun k => { k with
    txns := k.txns.filter fun t => !cut.contains t, quarantine := k.quarantine ++ cut.map (·.tag) }

/-- Transactions of core c end with TARGET_DOWN. -/
def txnsFail (s : State) (c : CoreId) (cut : List Txn) : State := cut.foldl (fun s t => failTxn s c t.tag.toNat 3) s

section
variable {β : Type} (g : State → β) (hseq : ∀ s c q f, g (modSeq s c q f) = g s)
  (hfault : ∀ s c q o e, g (seqFault s c q o e) = g s)
include hseq hfault

/-- A failing transaction ends at its sequencer. -/
theorem failTxn_keeps (s : State) (c : CoreId) (tag : Nat) (st : BitVec 4) : g (failTxn s c tag st) = g s := by
  unfold failTxn
  dsimp only
  split
  · rfl
  · rw [hfault, hseq]

theorem txnsFail_keeps (s : State) (c : CoreId) (cut : List Txn) : g (txnsFail s c cut) = g s :=
  foldl_field g (fun _ _ => failTxn_keeps g hseq hfault _ _ _ _) cut s

end

/-- Of a core, the failing transactions leave what lies outside its sequencers and what their faults stop. -/
theorem txnsFail_keepsCore {α : Type} (g : CoreState → α) (hscr : ∀ k, g (scr k) = g k)
    (hseqs : ∀ (k : CoreState) v, g { k with seqs := v } = g k) (herr : ∀ (k : CoreState) v, g { k with seqErr := v } = g k)
    (s : State) (c : CoreId) (cut : List Txn) (d : CoreId) : g (getCore (txnsFail s c cut) d) = g (getCore s d) := by
  refine txnsFail_keeps (fun s => g (getCore s d)) (fun s e q f => ?_) (fun s e q o x => ?_) s c cut
  · by_cases h : e = d
    · subst h
      rw [modSeq, getCore_modCore_same, hseqs]
    · rw [modSeq, getCore_modCore_other _ _ h]
  · exact seqFault_keeps g hscr hseqs herr s e q o x d

/-- Dropping what was picked leaves what was not. -/
theorem filter_not_picked {α : Type} [DecidableEq α] (p : α → Bool) (l : List α) :
    (l.filter fun x => !(l.filter p).contains x) = l.filter fun x => !p x := by
  refine List.filter_congr fun x hx => ?_
  simp [hx]

/-- With no memory request waiting, an abort is of transactions alone. -/
theorem exec_outstandingPathAbort {s : State} {n : Fin 15} {c : CoreId} (hn : n.val = c.val) (hqueue : s.tiers.queue = []) :
    exec (.outstandingPathAbort n) s = .next (txnsFail (txnsCut s c ((getCore s c).txns.filter (txnCut s))) c
      ((getCore s c).txns.filter (txnCut s))) := by
  have hcore : n.val < 12 := hn ▸ c.isLt
  obtain rfl : c = ⟨n.val, hcore⟩ := Fin.ext hn.symm
  have hempty : ∀ cut, (txnsFail (txnsCut s ⟨n.val, hcore⟩ cut) ⟨n.val, hcore⟩ cut).tiers.queue = [] := fun cut =>
    (txnsFail_keeps (·.tiers.queue) (fun _ _ _ _ => rfl) (fun s c q o e => by rw [seqFault_tiers]) _ _ _).trans hqueue
  refine congrArg Host.Outcome.next ((dif_pos hcore).trans ?_)
  show List.foldl _ (txnsFail _ _ _) (List.filter _ (txnsFail (txnsCut s ⟨n.val, hcore⟩ _) ⟨n.val, hcore⟩ _).tiers.queue) = _
  rw [hempty]
  rfl

/-! ### UCIe modules -/

/-- The state in which the module of a site and its edge link have lost each other, and a record says so (R18). -/
def moduleLost (s : State) (u : Fin 16) : State :=
  portRecord (modLink (modSite s u fun x => { x with state := 0, down := satAdd x.down 1 }) (siteLink u) fun k =>
    { k with modules := k.modules - 1 }) 3 u.val 1 0 0 (vget s.sites u).rate.toNat (if (vget s.sites u).x32 then 32 else 64)
    (vget s.sites u).retry.toNat 0

theorem exec_ucieModuleFail {s : State} {u : Fin 16} (hup : (vget s.sites u).state = 3 ∨ (vget s.sites u).state = 4) :
    exec (.ucieModuleFail u) s = .next (if (vget (moduleLost s u).lacing.links (siteLink u)).modules = 0 then
      failLink (moduleLost s u) (siteLink u) else moduleLost s u) :=
  congrArg Host.Outcome.next (if_neg fun h => hup.elim h.1 h.2)

theorem moduleLost_sites (s : State) (u : Fin 16) :
    (moduleLost s u).sites = vmod s.sites u fun x => { x with state := 0, down := satAdd x.down 1 } :=
  (writeRecord_sites _ _).trans rfl

theorem link_moduleLost (s : State) (u : Fin 16) : vget (moduleLost s u).lacing.links (siteLink u) =
    { vget s.lacing.links (siteLink u) with modules := (vget s.lacing.links (siteLink u)).modules - 1 } := by
  rw [moduleLost, portRecord, writeRecord_lacing, link_modLink]
  rfl

/-- A part outside the fabric, whether the edge link fails or not. -/
theorem OutsideLacing.failLink_if {β : Type} {g : State → β} (hg : OutsideLacing g) (p : Prop) [Decidable p] (s : State)
    (l : Fin 23) : g (if p then Machine.failLink s l else s) = g s := by
  split
  · exact hg.failLink s l
  · rfl

/-- Settles O27: each outcome is the state that the lemma about its command names. -/
theorem routersFail : Obligations.RoutersFail := by
  intro s
  refine ⟨?router, ?abort, fun _ _ => rfl, ?recompute, ?ucie⟩
  case router =>
    intro n hup
    have hn : (fieldOf s n).val < 15 := by omega
    refine ⟨_, exec_routerFail hup, ?_, fun m hm hne => ?_, fun q hq => ?_, fun hgen => ?_, ?_, ?_⟩
    · rw [nodeUp_routerFail s _ _ hn hn, if_pos rfl]
    · rw [nodeUp_routerFail s _ _ hn hm, if_neg hne]
    · rw [noted_tiers, outsideLacing_tiers.routeChange]
      exact regions_regionDown _ hq
    · have hgen' : (routerDown s (fieldOf s n).val).lacing.distGen ≠ 0 := by
        rw [routerDown_lacing]
        exact hgen
      rw [noted_lacing, (routeChange_dist hgen' _ _).1, (routeChange_dist hgen' _ _).2, routerDown_lacing]
      exact ⟨rfl, rfl⟩
    · rw [noted_mem, outsideLacing_mem.routeChange, outsideLacing_mem.routerDown modTiers_mem]
    · rw [noted_cores, outsideLacing_cores.routeChange, outsideLacing_cores.routerDown modTiers_cores]
  case abort =>
    intro n c hn hqueue
    refine ⟨_, exec_outstandingPathAbort hn hqueue, ?_, ?_, ?_⟩
    · rw [txnsFail_keepsCore (·.txns) (fun _ => rfl) (fun _ _ => rfl) (fun _ _ => rfl), txnsCut, getCore_modCore_same]
      exact filter_not_picked _ _
    · rw [txnsFail_keepsCore (·.quarantine) (fun _ => rfl) (fun _ _ => rfl) (fun _ _ => rfl), txnsCut, getCore_modCore_same]
    · rw [txnsFail_keeps (·.mem) modSeq_mem seqFault_mem]
      rfl
  case recompute =>
    intro a b v q hgen
    refine ⟨_, congrArg Host.Outcome.next ((if_neg hgen).trans (rewriteDist_false _)), ?_⟩
    simp only [modLacing_lacing, modLacing_cores, modLacing_mem, and_self]
  case ucie =>
    intro u hup
    refine ⟨_, exec_ucieModuleFail hup, ?_, ?_, ?_, fun hlast => ?_, fun v hv => ?_, ?_, ?_⟩
    · rw [outsideLacing_sites.failLink_if, moduleLost_sites, vget_vmod_same]
    · rw [outsideLacing_sites.failLink_if, moduleLost_sites, vget_vmod_same]
    · split
      · rw [link_failLink, link_moduleLost]
      · rw [link_moduleLost]
    · have hnone : (vget (moduleLost s u).lacing.links (siteLink u)).modules = 0 := by
        rw [link_moduleLost]
        exact Nat.sub_eq_zero_of_le hlast
      rw [if_pos hnone, link_failLink]
    · rw [outsideLacing_sites.failLink_if, moduleLost_sites, vget_vmod_other _ _ hv.symm]
    · rw [outsideLacing_mem.failLink_if]
      exact writeRecord_mem _ _
    · rw [outsideLacing_cores.failLink_if]
      exact writeRecord_cores _ _

end Sys2Proof.Machine
end

section
/-!
The tier instructions XLOAD, XSTORE, XMOVE and XGATHER (R246, R247): what each does once its source has been read.
-/
namespace Sys2Proof.Machine

/-! ### XLOAD, XSTORE and XMOVE -/

section
variable {s : State} {c : CoreId} {d : Fin 8} {w : BitVec 120} {ev : List EccEvent} {y : InFlight} {a b : List Access}

/-- An XLOAD without HDR writes its stream over D and completes. -/
theorem exec_xload_data {D : Descr} (h : s.Landed c (dmaSeq d) (instrWord 0x12 w) y) (hgot : y.got = [a])
    (hopen : dmaShut s c = false) (hD : D = descrOf (smapGet 0 y.view (fld w 112 8))) (hhdr : bit w 95 = false) :
    exec (.xload c d w) s = .next (dropFlight (putStream s c D.plain.pieces (gotStream a) (fld w 93 2)) c (dmaSeq d)
      (instrWord 0x12 w)) := by
  obtain rfl := hD.trans (viewOf_landed h _).symm
  refine congrArg Host.Outcome.next (act_finish (f := fun s => putStream s c _ (gotStream a) _) h ?_ (putStream_infl s c _ _ _)
    fun t => ?_)
  · simp [hgot, hopen]
  · simp [hgot, hhdr]

/-- With HDR it then presents its landing header. -/
theorem exec_xload_header {D E : Descr} {m : MemDescr} (h : s.Landed c (dmaSeq d) (instrWord 0x12 w) y) (hgot : y.got = [a])
    (hopen : dmaShut s c = false) (hD : D = descrOf (smapGet 0 y.view (fld w 112 8)))
    (hm : m = memDescrOf (smapGet 0 y.view (fld w 104 8))) (hE : E = descrOf (smapGet 0 y.view (fld w 96 8)))
    (hhdr : bit w 95 = true) :
    exec (.xload c d w) s = .next (presents
      (modFlight (putStream s c D.plain.pieces (gotStream a) (fld w 93 2)) c (dmaSeq d) (instrWord 0x12 w)
        fun y => { y with got := y.got ++ [[]] }) c (dmaSeq d) (instrWord 0x12 w) []
      (headerWrite 1 E.sa (landingHeader m.ma m.bytes 0 (fld w 0 16) (a.any (·.poison)))) id) := by
  obtain rfl := hD.trans (viewOf_landed h _).symm
  obtain rfl := hm.trans (mem_landed h _).symm
  obtain rfl := hE.trans (viewOf_landed h _).symm
  refine congrArg Host.Outcome.next (act_presents (f := fun s => putStream s c _ (gotStream a) _) h ?_ (putStream_infl s c _ _ _)
    (fun t => ?_) fun t g => ?_)
  · simp [hgot, hopen]
  · simp [hgot, hhdr]
  · simp [hgot]

/-- An XSTORE presents what it has read as writes of its memory footprint. -/
theorem exec_xstore_read {m : MemDescr} (h : s.Landed c (dmaSeq d) (instrWord 0x13 w) y) (hgot : y.got = [a])
    (hm : m = memDescrOf (smapGet 0 y.view (fld w 104 8))) :
    exec (.xstore c d w ev) s = .next (presents s c (dmaSeq d) (instrWord 0x13 w) ev
      (memWrites 1 (prioOf w) m (gotStream a)) id) := by
  obtain rfl := hm.trans (mem_landed h _).symm
  exact congrArg Host.Outcome.next (engineInstr_presents h (by simp [hgot]) fun t g => by simp [hgot])

theorem exec_xstore_written (h : s.Landed c (dmaSeq d) (instrWord 0x13 w) y) (hgot : y.got = [a, b]) :
    exec (.xstore c d w ev) s = .next (dropFlight s c (dmaSeq d) (instrWord 0x13 w)) :=
  congrArg Host.Outcome.next (engineInstr_finish (f := id) h (by simp [hgot]))

/-- An XMOVE presents what it has read as writes of the memory footprint of N. -/
theorem exec_xmove_read {n : MemDescr} (h : s.Landed c (dmaSeq d) (instrWord 0x15 w) y) (hgot : y.got = [a])
    (hn : n = memDescrOf (smapGet 0 y.view (fld w 112 8))) :
    exec (.xmove c d w) s = .next (presents s c (dmaSeq d) (instrWord 0x15 w) []
      (memWrites 1 (prioOf w) n (gotStream a)) id) := by
  obtain rfl := hn.trans (mem_landed h _).symm
  exact congrArg Host.Outcome.next (engineInstr_presents h (by simp [hgot]) fun t g => by simp [hgot])

theorem exec_xmove_written (h : s.Landed c (dmaSeq d) (instrWord 0x15 w) y) (hgot : y.got = [a, b]) :
    exec (.xmove c d w) s = .next (dropFlight s c (dmaSeq d) (instrWord 0x15 w)) :=
  congrArg Host.Outcome.next (engineInstr_finish (f := id) h (by simp [hgot]))

end

/-! ### XGATHER -/

/-- An XGATHER has read its mask of n bytes: unpoisoned, well formed, its entries rising and in range (R125, R130, R246). -/
structure MaskSound (got : List (List Access)) (n : Nat) (head : MaskHead) (ents : List Nat) : Prop where
  unread : got.isEmpty = false
  entriesUnread : got.length ≠ 1
  header : head = maskHeadOf (opndData (got.getD 0 []) 64)
  entries : ents = maskEntries head (opndData (got.getD 1 []) 64)
  headerClean : (got.getD 0 []).any (·.poison) = false
  entriesClean : (got.getD 1 []).any (·.poison) = false
  wellFormed : head.bad n = false
  rise : rising ents = true
  inRange : (ents.any fun e => decide (head.items ≤ e)) = false

theorem MaskSound.of_got {got g : List (List Access)} {a b : List Access} {n : Nat} {head : MaskHead} {ents : List Nat}
    (hgot : got = a :: b :: g) (ha : ∀ x ∈ a, x.poison = false) (hb : ∀ x ∈ b, x.poison = false)
    (hhead : head = maskHeadOf (opndData a 64)) (hents : ents = maskEntries head (opndData b 64)) (hbad : head.bad n = false)
    (hrise : rising ents = true) (hrange : ∀ i ∈ ents, i < head.items) : MaskSound got n head ents := by
  subst hgot
  exact { unread := rfl, entriesUnread := by simp, header := hhead, entries := hents, headerClean := by simpa using ha
          entriesClean := by simpa using hb, wellFormed := hbad, rise := hrise, inRange := by simpa using hrange }

/-- Later phases leave the mask as it was read. -/
theorem MaskSound.append {got l : List (List Access)} {n : Nat} {head : MaskHead} {ents : List Nat}
    (h : MaskSound got n head ents) : MaskSound (got ++ l) n head ents := by
  match got, h with
  | [], h => exact absurd h.unread (by simp)
  | [_], h => exact absurd rfl h.entriesUnread
  | _ :: _ :: _, h => exact { h with unread := rfl, entriesUnread := by simp }

/-- With a sound mask an XGATHER is past the phases that read and check it. -/
theorem MaskSound.phase {got : List (List Access)} {n : Nat} {head : MaskHead} {ents : List Nat} {readHead readEntries item : Phase}
    (h : MaskSound got n head ents) :
    (if got.isEmpty then readHead
      else if (got.getD 0 []).any (·.poison) then .fault 0x0A
      else if (maskHeadOf (opndData (got.getD 0 []) 64)).bad n then .fault 0x23
      else if got.length = 1 then readEntries
      else if (got.getD 1 []).any (·.poison) then .fault 0x0A
      else if !rising (maskEntries (maskHeadOf (opndData (got.getD 0 []) 64)) (opndData (got.getD 1 []) 64)) then .fault 0x23
      else if (maskEntries (maskHeadOf (opndData (got.getD 0 []) 64)) (opndData (got.getD 1 []) 64)).any fun e =>
        decide ((maskHeadOf (opndData (got.getD 0 []) 64)).items ≤ e) then .fault 0x21
      else item) = item := by
  rw [← h.header, ← h.entries, h.unread, h.headerClean, h.wellFormed, h.entriesClean, h.rise, h.inRange]
  simp [h.entriesUnread]

end Sys2Proof.Machine
end

section
/-!
XGATHER item by item (R246, R247), once its mask has been read.
-/
namespace Sys2Proof.Machine

/-- How far the place of an item lies from the first one's: by its entry in the mask or by its turn. -/
def itemOffset (w : BitVec 120) (e k : Nat) : Nat := (if bit w 90 then e else k) * fld w 32 32

/-- The memory footprint from which item e is gathered. -/
def itemSource (w : BitVec 120) (m : MemDescr) (e : Nat) : MemDescr := m.shift (e * fld w 0 32 * 64)

/-- Where an item goes in Stacks. -/
def itemPlace (w : BitVec 120) (D : Descr) (e k : Nat) : Descr := { D.plain with sa := D.sa + itemOffset w e k }

/-- An XGATHER is in flight with these descriptors, those of its issue, and has read a sound mask. -/
structure Gathers (s : State) (c : CoreId) (d : Fin 8) (w : BitVec 120) (y : InFlight) (D E H : Descr) (m n : MemDescr)
    (head : MaskHead) (ents : List Nat) : Prop where
  landed : s.Landed c (dmaSeq d) (instrWord 0x14 w) y
  place : D = opnd (viewOf s c (dmaSeq d) (instrWord 0x14 w)) c (dmaSeq d) (fld w 112 8)
  memPlace : n = memOpnd (viewOf s c (dmaSeq d) (instrWord 0x14 w)) c (dmaSeq d) (fld w 112 8)
  source : m = memOpnd (viewOf s c (dmaSeq d) (instrWord 0x14 w)) c (dmaSeq d) (fld w 104 8)
  maskAt : E = opnd (viewOf s c (dmaSeq d) (instrWord 0x14 w)) c (dmaSeq d) (fld w 96 8)
  headerAt : H = opnd (viewOf s c (dmaSeq d) (instrWord 0x14 w)) c (dmaSeq d) (fld w 80 8)
  sound : MaskSound y.got E.bytes head ents

section
variable {count k part : Nat} {done first second third : Phase} (hmore : k < count)
include hmore

theorem itemPhase_first (hpart : part = 0) :
    (if count ≤ k then done else if part = 0 then first else if part = 1 then second else third) = first :=
  (if_neg (Nat.not_le.mpr hmore)).trans (if_pos hpart)

theorem itemPhase_second (hpart : part = 1) :
    (if count ≤ k then done else if part = 0 then first else if part = 1 then second else third) = second :=
  (if_neg (Nat.not_le.mpr hmore)).trans ((if_neg (by omega)).trans (if_pos hpart))

theorem itemPhase_third (hpart : part = 2) :
    (if count ≤ k then done else if part = 0 then first else if part = 1 then second else third) = third :=
  (if_neg (Nat.not_le.mpr hmore)).trans ((if_neg (by omega)).trans (if_neg (by omega)))

end

section
variable {s : State} {c : CoreId} {d : Fin 8} {w : BitVec 120} {ev : List EccEvent} {y : InFlight} {D E H : Descr}
  {m n : MemDescr} {head : MaskHead} {ents : List Nat} {k e : Nat}

/-- An XGATHER whose items have all moved completes. -/
theorem exec_xgather_done (h : Gathers s c d w y D E H m n head ents) (hdone : ents.length ≤ (y.got.length - 2) / 3) :
    exec (.xgather c d w ev) s = .next (dropFlight s c (dmaSeq d) (instrWord 0x14 w)) := by
  obtain ⟨hland, rfl, rfl, rfl, rfl, rfl, hsound⟩ := h
  refine congrArg Host.Outcome.next (engineInstr_finish (f := id) hland (hsound.phase.trans ?_))
  rw [← hsound.header, ← hsound.entries]
  exact if_pos hdone

/-- An item whose place in Stacks, memory or the windows is not the job's faults before any of its data moves. -/
theorem exec_xgather_itemFault {f : BitVec 8} (h : Gathers s c d w y D E H m n head ents) (hk : (y.got.length - 2) / 3 = k)
    (hpart : (y.got.length - 2) % 3 = 0) (hmore : k < ents.length) (he : e = ents.getD k 0)
    (hf : itemFault s c (itemSource w m e) (if bit w 91 then .inr (n.shift (itemOffset w e k)) else .inl (itemPlace w D e k))
      (if bit w 95 then some (H.sa + k * 64) else none) = some f) :
    exec (.xgather c d w ev) s = .next (seqFault s c (dmaSeq d) 0x14 f) := by
  obtain ⟨hland, rfl, rfl, rfl, rfl, rfl, hsound⟩ := h
  subst he
  refine congrArg Host.Outcome.next (engineInstr_fault_opcode hland (hsound.phase.trans ?_))
  rw [← hsound.header, ← hsound.entries, hk]
  refine (itemPhase_first hmore hpart).trans ?_
  split
  case h_1 heq => rw [Option.some.inj (heq.symm.trans hf)]
  case h_2 heq => exact absurd (heq.symm.trans hf) (by simp)

/-- The last item into Stacks, without headers, lands its bytes, and the XGATHER completes. -/
theorem exec_xgather_last_data (h : Gathers s c d w y D E H m n head ents) (hk : (y.got.length - 2) / 3 = k)
    (hpart : (y.got.length - 2) % 3 = 1) (hlast : k + 1 = ents.length) (he : e = ents.getD k 0) (hstacks : bit w 91 = false)
    (hopen : dmaShut s c = false) (hhdr : bit w 95 = false) :
    exec (.xgather c d w ev) s = .next (dropFlight (putStream s c (itemPlace w D e k).pieces (gotStream (lastGot y)) (fld w 93 2))
      c (dmaSeq d) (instrWord 0x14 w)) := by
  obtain ⟨hland, rfl, rfl, rfl, rfl, rfl, hsound⟩ := h
  subst he
  refine congrArg Host.Outcome.next (act_act_finish (f := fun s => putStream s c _ (gotStream (lastGot y)) _) hland
    (hsound.phase.trans ?_) (putStream_infl s c _ _ _) (fun t => hsound.append.phase.trans ?_)
    fun t => hsound.append.append.phase.trans ?_)
  · rw [← hsound.header, ← hsound.entries, hk]
    refine (itemPhase_second (by omega) hpart).trans ?_
    rw [hstacks]
    exact if_neg (by simp [hopen])
  · rw [← hsound.append.header, ← hsound.append.entries]
    refine (itemPhase_third (by simp; omega) (by simp; omega)).trans ?_
    exact if_neg (by simp [hhdr])
  · rw [← hsound.append.append.header, ← hsound.append.append.entries]
    exact if_pos (by simp; omega)

/-- With headers it then presents the item's landing header. -/
theorem exec_xgather_last_header (h : Gathers s c d w y D E H m n head ents) (hk : (y.got.length - 2) / 3 = k)
    (hpart : (y.got.length - 2) % 3 = 1) (hlast : k + 1 = ents.length) (he : e = ents.getD k 0) (hstacks : bit w 91 = false)
    (hopen : dmaShut s c = false) (hhdr : bit w 95 = true) :
    exec (.xgather c d w ev) s = .next (presents
      (modFlight (putStream s c (itemPlace w D e k).pieces (gotStream (lastGot y)) (fld w 93 2)) c (dmaSeq d) (instrWord 0x14 w)
        fun y => { y with got := y.got ++ [[]] }) c (dmaSeq d) (instrWord 0x14 w) ev
      (headerWrite 2 (H.sa + k * 64) (landingHeader (itemSource w m e).ma (itemSource w m e).bytes e head.group
        ((y.got.getD (2 + 3 * k) []).any (·.poison)))) id) := by
  obtain ⟨hland, rfl, rfl, rfl, rfl, rfl, hsound⟩ := h
  subst he
  refine congrArg Host.Outcome.next (act_presents (f := fun s => putStream s c _ (gotStream (lastGot y)) _) hland
    (hsound.phase.trans ?_) (putStream_infl s c _ _ _) (fun t => hsound.append.phase.trans ?_)
    fun t g => hsound.append.append.phase.trans ?_)
  · rw [← hsound.header, ← hsound.entries, hk]
    refine (itemPhase_second (by omega) hpart).trans ?_
    rw [hstacks]
    exact if_neg (by simp [hopen])
  · have hgot : (y.got ++ [[]]).getD (2 + 3 * k) [] = y.got.getD (2 + 3 * k) [] := by
      rw [List.getD_eq_getElem?_getD, List.getElem?_append_left (by omega), ← List.getD_eq_getElem?_getD]
    have hturn : ((y.got ++ [[]]).length - 2) / 3 = k := by simp; omega
    rw [← hsound.append.header, ← hsound.append.entries, hturn]
    refine (itemPhase_third (by omega) (by simp; omega)).trans ((if_pos hhdr).trans ?_)
    rw [hgot]
    rfl
  · rw [← hsound.append.append.header, ← hsound.append.append.entries]
    exact if_pos (by simp; omega)

end

end Sys2Proof.Machine
end

section
/-!
ESEND (R278, R280): its last packet, and its completion once every packet is acknowledged.
-/
namespace Sys2Proof.Machine

theorem findSession_num {s : State} {sn : BitVec 24} {x : Session} (h : findSession s sn = some x) : x.num = sn := by
  simpa using List.find?_some h

/-- A session after a change that keeps session numbers. -/
theorem findSession_modSession {s : State} {sn : BitVec 24} {x : Session} {f : Session → Session} (hf : ∀ y, (f y).num = y.num)
    (h : findSession s sn = some x) : findSession (modSession s sn f) sn = some (f x) := by
  have hnum : ∀ y : Session, (if y.num = sn then f y else y).num = y.num := fun y => by
    split
    · exact hf y
    · rfl
  unfold findSession modSession at *
  rw [modEyes_eyes, List.find?_map]
  simp only [Function.comp_def, hnum, h, Option.map_some, if_pos (findSession_num h)]

/-- A packet that leaves changes no session. -/
theorem findSession_emit (s : State) (x : Session) (p : Packet) (sn : BitVec 24) :
    findSession (emit s x p) sn = findSession s sn := by
  unfold emit
  cases x.home <;> rfl

theorem findSession_modFlight (s : State) (c : CoreId) (q : SeqId) (word : Word128) (f : InFlight → InFlight) (sn : BitVec 24) :
    findSession (modFlight s c q word f) sn = findSession s sn := rfl

theorem emit_cores (s : State) (x : Session) (p : Packet) : (emit s x p).cores = s.cores := by
  unfold emit
  cases x.home <;> rfl

/-- Sending a packet changes no instruction in flight. -/
theorem sendTracked_infl (s : State) (x : Session) (p : Packet) (core : Option (CoreId × SeqId)) :
    SameInfl s (sendTracked s x p core) := by
  unfold sendTracked
  split
  · exact SameInfl.cores rfl
  · exact SameInfl.cores (emit_cores _ _ _)

/-- A session in which a packet has been sent and waits for its acknowledgement (R280). -/
def Session.sent (x : Session) (p : Packet) (core : Option (CoreId × SeqId)) : Session :=
  { x with psn := x.psn + 1, unacked := x.unacked ++ [{ pkt := p, core := core, tries := 0, full := 0 }] }

theorem findSession_sendTracked {s : State} {sn : BitVec 24} {x : Session} {p : Packet} {core : Option (CoreId × SeqId)}
    (h : findSession s sn = some x) (hroom : x.unacked.length < 4096) :
    findSession (sendTracked s x p core) sn = some (x.sent p core) := by
  obtain rfl := findSession_num h
  unfold sendTracked
  rw [if_neg (Nat.not_le.mpr hroom), findSession_emit]
  exact findSession_modSession (f := fun y => y.sent p core) (fun _ => rfl) h

theorem dataPacket_msg (x : Session) (ta msg : Nat) (ez : Option EzFmt) (last : Bool) (p : Parcel) :
    (dataPacket x ta msg ez last p).msg = BitVec.ofNat 32 msg := by
  unfold dataPacket
  cases ez with
  | none => rfl
  | some f => dsimp only; split <;> rfl

/-- ESEND's target from the fields of its descriptor (R278). -/
theorem targetOf_of_fields {word : Word128} {ta : Nat} {sn : BitVec 24} (hta : ta = fld word 0 48)
    (hsn : sn = word.extractLsb' 48 24) : targetOf word = (ta, sn, fld word 72 56 != 0) := by
  subst hta hsn
  rfl

section
variable {s : State} {c : CoreId} {d : Fin 8} {w : BitVec 120} {ev : List EccEvent} {y : InFlight} {a : List Access}
  {g : List (List Access)} {x : Session} {r : BitVec 32} {ta : Nat} {sn : BitVec 24} {rsv : Bool}

/-- An ESEND sends its last packet under its message number and waits for its acknowledgements. -/
theorem exec_esend_last {p : Parcel} (h : s.Landed c (dmaSeq d) (instrWord 0x16 w) y) (hgot : y.got = a :: g)
    (hnotes : y.notes = [r.toNat]) (htarget : targetOf (smapGet 0 y.view (fld w 104 8)) = (ta, sn, rsv))
    (hfind : findSession s sn = some x) (hp : (parcels (gotStream a))[g.length]? = some p)
    (hlast : g.length + 1 = (parcels (gotStream a)).length) (hroom : x.unacked.length < 4096) :
    exec (.esend c d w ev) s = .next (modFlight
      (sendTracked s x (dataPacket x ta r.toNat (if bit w 91 then ezFmt (fld w 87 4) else none) true p) (some (c, dmaSeq d)))
      c (dmaSeq d) (instrWord 0x16 w) fun y => { y with got := y.got ++ [[]] }) := by
  rw [← descAt_landed h] at htarget
  refine congrArg Host.Outcome.next (act_hold (f := fun s => sendTracked s x _ _) h ?_ (sendTracked_infl s x _ _) ?_)
  · simp only [htarget, hgot, hnotes, hfind, List.isEmpty_cons, List.getD_cons_zero, List.length_cons, Nat.add_sub_cancel, hp,
      if_neg (Nat.not_le.mpr hroom), decide_eq_true hlast, Bool.false_eq_true, if_false]
  · have hnone : (parcels (gotStream a))[g.length + 1]? = none := List.getElem?_eq_none (by omega)
    simp only [htarget, findSession_modFlight, findSession_sendTracked hfind hroom, hgot, hnotes, List.isEmpty_cons,
      List.cons_append, List.getD_cons_zero, List.length_cons, Nat.add_sub_cancel, List.length_append, List.length_nil,
      Nat.zero_add, hnone, Bool.false_eq_true, if_false]
    exact if_pos (by simp [Session.sent, dataPacket_msg])

/-- An ESEND whose packets are all sent and acknowledged completes. -/
theorem exec_esend_acknowledged (h : s.Landed c (dmaSeq d) (instrWord 0x16 w) y) (hgot : y.got = a :: g)
    (hnotes : y.notes = [r.toNat]) (htarget : targetOf (smapGet 0 y.view (fld w 104 8)) = (ta, sn, rsv))
    (hfind : findSession s sn = some x) (hsent : (parcels (gotStream a)).length ≤ g.length)
    (hacked : ∀ u ∈ x.unacked, u.core = some (c, dmaSeq d) → u.pkt.msg ≠ r) :
    exec (.esend c d w ev) s = .next (dropFlight s c (dmaSeq d) (instrWord 0x16 w)) := by
  rw [← descAt_landed h] at htarget
  refine congrArg Host.Outcome.next (engineInstr_finish (f := id) h ?_)
  simp only [htarget, hgot, hnotes, hfind, List.isEmpty_cons, List.getD_cons_zero, List.length_cons, Nat.add_sub_cancel,
    List.getElem?_eq_none hsent, Bool.false_eq_true, if_false]
  exact if_neg (by simpa [BitVec.toNat_inj] using hacked)

end

end Sys2Proof.Machine
end

section
/-!
The tier instructions of the DMA sequencers together (R246, R247, R278).
-/
namespace Sys2Proof.Machine

/-- Settles O23: each instruction is past the phases that read, and its next phases are those of the lemma about it. -/
theorem tierInstructionsMove : Obligations.TierInstructionsMove := by
  rintro s c d w ev y a b q D E H m n rfl hD hn hm hE hH
  refine ⟨fun h hgot hopen => ⟨_, rfl, exec_xload_data h hgot hopen hD, exec_xload_header h hgot hopen hD hm hE⟩,
    fun h => ⟨fun hgot => exec_xstore_read h hgot hm, exec_xstore_written h⟩,
    fun h => ⟨fun hgot => exec_xmove_read h hgot hn, exec_xmove_written h⟩, ?gather, ?esend⟩
  case gather =>
    rintro g head ents e k src h hgot ha hb hhead hents hbad hrise hrange hk he rfl
    have hg : Gathers s c d w y D E H m n head ents := {
      landed := h
      place := hD.trans (viewOf_landed h _).symm
      memPlace := hn.trans (mem_landed h _).symm
      source := hm.trans (mem_landed h _).symm
      maskAt := hE.trans (viewOf_landed h _).symm
      headerAt := hH.trans (viewOf_landed h _).symm
      sound := .of_got hgot ha hb hhead hents hbad hrise hrange }
    have hlen : y.got.length - 2 = g.length := by simp [hgot]
    rw [← hlen] at hk ⊢
    refine ⟨fun hdone => exec_xgather_done hg (hk ▸ hdone), fun hmore hpart f hf => ?_,
      fun hlast hpart hstacks hopen => ⟨_, rfl, fun hhdr => ?_, fun hhdr => ?_⟩⟩
    · exact exec_xgather_itemFault hg hk.symm hpart hmore he hf
    · exact exec_xgather_last_data hg hk.symm hpart hlast he hstacks hopen hhdr
    · exact exec_xgather_last_header hg hk.symm hpart hlast he hstacks hopen hhdr
  case esend =>
    rintro g x r ps ta sn h hgot hnotes hta hsn hfind rfl
    have htarget := targetOf_of_fields hta hsn
    exact ⟨fun p hp hlast hroom => exec_esend_last h hgot hnotes htarget hfind hp hlast hroom,
      exec_esend_acknowledged h hgot hnotes htarget hfind⟩

end Sys2Proof.Machine
end

section
/-!
The memory tiers and the rest of the state: what the operations of chapter 10 leave outside the tiers.
-/
namespace Sys2Proof.Machine

/-- An entry of the condition report changes the report and the records alone. -/
theorem condAppend_keeps {β : Type} (g : State → β) (hrecord : ∀ s r, g (writeRecord s r) = g s)
    (hflash : ∀ s f, g (modFlash s f) = g s) (s : State) (u : BitVec 32) (x y : BitVec 8) (z : BitVec 16) (v : BitVec 32) :
    g (condAppend s u x y z v) = g s := by
  unfold condAppend condWrite
  extract_lets unit entry field
  split
  · exact hrecord ..
  · exact hflash s fun _ => _

/-- A part of the state that no change of the tiers, no record, no entry of the condition report and no note reaches. -/
structure OutsideTiers {β : Type} (g : State → β) : Prop where
  tiers : ∀ s f, g (modTiers s f) = g s
  record : ∀ s r, g (writeRecord s r) = g s
  flash : ∀ s f, g (modFlash s f) = g s
  noted : ∀ s, g (noted s) = g s

theorem outsideTiers_mem : OutsideTiers (·.mem) := ⟨modTiers_mem, writeRecord_mem, modFlash_mem, noted_mem⟩

theorem outsideTiers_cores : OutsideTiers (·.cores) := ⟨modTiers_cores, writeRecord_cores, modFlash_cores, noted_cores⟩

theorem outsideTiers_poison : OutsideTiers (·.poison) := ⟨modTiers_poison, writeRecord_poison, modFlash_poison, noted_poison⟩

section
variable {β : Type} {g : State → β} (hg : OutsideTiers g)
include hg

theorem OutsideTiers.modStack (s : State) (u : Fin 16) (f : Stack → Stack) : g (modStack s u f) = g s := hg.tiers _ _

theorem OutsideTiers.modChan (s : State) (u : Fin 16) (f : Channel → Channel) : g (modChan s u f) = g s := hg.tiers _ _

theorem OutsideTiers.logMem (s : State) (w : MemWhere) (a : Nat) (ue perm : Bool) (job : BitVec 6) :
    g (logMem s w a ue perm job) = g s := hg.tiers _ _

theorem OutsideTiers.memRecord (s : State) (w : MemWhere) (a : Nat) (sev flags : BitVec 8) (job : BitVec 6) (action : Nat) :
    g (memRecord s w a sev flags job action) = g s := hg.record _ _

/-- A unit's entry in the condition report and its record. -/
theorem OutsideTiers.reported (s : State) (u : BitVec 32) (x y : BitVec 8) (z : BitVec 16) (v : BitVec 32) (w : MemWhere)
    (a : Nat) (sev flags : BitVec 8) (job : BitVec 6) (action : Nat) :
    g (Machine.memRecord (condAppend s u x y z v) w a sev flags job action) = g s :=
  (hg.memRecord ..).trans (condAppend_keeps g hg.record hg.flash ..)

/-- A count of either tier. -/
theorem OutsideTiers.unit_if (p : Prop) [Decidable p] (s : State) (u : Fin 16) (f : Channel → Channel) (k : Stack → Stack) :
    g (if p then Machine.modChan s u f else Machine.modStack s u k) = g s := by
  split
  · exact hg.modChan ..
  · exact hg.modStack ..

theorem OutsideTiers.retirePending (s : State) (w : MemWhere) (a : Nat) : g (retirePending s w a) = g s := by
  unfold Machine.retirePending
  split
  · rfl
  · rw [hg.memRecord]
    split
    · exact hg.modChan ..
    · exact hg.tiers ..

theorem OutsideTiers.permanentRow (s : State) (w : MemWhere) (a : Nat) (job : BitVec 6) :
    g (permanentRow s w a job) = g s := by
  unfold Machine.permanentRow
  split
  · rfl
  · dsimp only
    split
    · rw [hg.retirePending, hg.memRecord, hg.logMem, hg.tiers]
    · rw [hg.memRecord, hg.logMem, hg.tiers]

/-- An uncorrectable error changes outside the tiers and the records what the poison of its slot changes (R254). -/
theorem OutsideTiers.memUncorrected (s : State) (w : MemWhere) (a : Nat) (job : BitVec 6)
    (hpoison : ∀ s t : State, g t = g s → g (setPoison t (a / 64) true) = g (setPoison s (a / 64) true)) :
    g (memUncorrected s w a job) = g (setPoison s (a / 64) true) := by
  unfold Machine.memUncorrected
  dsimp only
  split
  · rw [hg.permanentRow, hg.memRecord, hg.tiers, hg.logMem]
    exact hpoison _ _ (hg.unit_if ..)
  · rw [hg.memRecord, hg.tiers, hg.logMem]
    exact hpoison _ _ (hg.unit_if ..)

end

theorem memUncorrected_mem (s : State) (w : MemWhere) (a : Nat) (job : BitVec 6) : (memUncorrected s w a job).mem = s.mem :=
  outsideTiers_mem.memUncorrected s w a job fun _ _ h => h

theorem memUncorrected_cores (s : State) (w : MemWhere) (a : Nat) (job : BitVec 6) :
    (memUncorrected s w a job).cores = s.cores :=
  outsideTiers_cores.memUncorrected s w a job fun _ _ h => h

/-- An uncorrectable error poisons its slot (R254). -/
theorem isPoison_memUncorrected (s : State) (w : MemWhere) (a : Nat) (job : BitVec 6) :
    isPoison (memUncorrected s w a job) (a / 64) = true := by
  rw [← isPoison_setPoison_true s (a / 64)]
  exact isPoison_congr (outsideTiers_poison.memUncorrected s w a job fun s t h => by simp only [setPoison, h]) _

end Sys2Proof.Machine
end

section
/-!
The controllers' queues (R248 to R250, R254, R256, R260): a write that enters memory, a read that is served, and refresh.
-/
namespace Sys2Proof.Machine

/-! ### Writes that reach a controller -/

section
variable {s : State} {a : Nat} {data : List Byte} {poison : Bool}

theorem memPut_keeps {β : Type} {g : State → β} (hslot : ∀ s a data poison, g (putSlot s a data poison) = g s)
    (htiers : ∀ s f, g (modTiers s f) = g s) : g (memPut s a data poison) = g s := by
  unfold memPut noteFullMem
  dsimp only
  split
  · split
    · exact htiers ..
    · exact htiers ..
  · split
    · rw [htiers, hslot]
    · exact hslot ..

theorem memPut_queue : (memPut s a data poison).tiers.queue = s.tiers.queue := by
  unfold memPut
  dsimp only
  split
  · split <;> rfl
  · split <;> rfl

/-- A unit in service takes the bytes. -/
theorem memPut_mem (h : unitPending s.tiers (memWhere s.tiers a) = false) :
    (memPut s a data poison).mem = memWrite s.mem a data := by
  unfold memPut
  rw [if_neg (by simp [h])]
  dsimp only
  split <;> rfl

/-- A RETIRE_PENDING unit discards the write (R260). -/
theorem memPut_pending (h : unitPending s.tiers (memWhere s.tiers a) = true) :
    (memPut s a data poison).mem = s.mem ∧ (memPut s a data poison).poison = s.poison := by
  unfold memPut
  rw [if_pos h]
  split
  · exact ⟨rfl, rfl⟩
  · exact ⟨rfl, rfl⟩

end

/-! ### Answers -/

theorem settleMem_keeps {β : Type} {g : State → β} (htiers : ∀ s f, g (modTiers s f) = g s)
    (hseq : ∀ s c q f, g (modSeq s c q f) = g s) (s : State) (r : MemReq) (data : List Byte) (poison : Bool) :
    g (settleMem s r data poison) = g s := by
  unfold settleMem
  dsimp only
  split
  · exact htiers ..
  · rw [hseq, htiers]

/-- An answered request leaves the queue. -/
theorem settleMem_queue (s : State) (r : MemReq) (data : List Byte) (poison : Bool) :
    (settleMem s r data poison).tiers.queue = s.tiers.queue.filter fun x => x.id != r.id := by
  unfold settleMem
  dsimp only
  split <;> rfl

/-- The access that waits for a request completes with its answer. -/
theorem getSeq_settleMem {s : State} {r : MemReq} {c : CoreId} {q : SeqId} (hfrom : r.from_ = .engine c q) (data : List Byte)
    (poison : Bool) : getSeq (settleMem s r data poison) c q =
      settle (getSeq s c q) (fun a => a.place == .memory && a.phase == .sent r.id) fun a =>
        if a.write then { a with phase := .done }
        else { a with data := slice data a.lo a.len, poison := poison, phase := .done } := by
  unfold settleMem
  rw [hfrom]
  exact getSeq_modSeq_same ..

/-! ### Where a slot lies -/

/-- The first byte of a slot lies in the PC or sub-channel of each of its bytes (R241 to R243). -/
theorem memWhere_slot (t : Tiers) (a : Nat) : (memWhere t (a / 64 * 64)).lp = (memWhere t a).lp ∧
    (memWhere t (a / 64 * 64)).unit = (memWhere t a).unit ∧ (memWhere t (a / 64 * 64)).pc = (memWhere t a).pc := by
  have hregion : a / 64 * 64 / regionBytes = a / regionBytes := by
    unfold regionBytes
    omega
  have hgranule : a / 64 * 64 % regionBytes / 256 = a % regionBytes / 256 := by
    unfold regionBytes
    omega
  have hblock : (a / 64 * 64 - 0x20000000000) / 4096 = (a - 0x20000000000) / 4096 := by omega
  have hpart : ∀ n, (n * 4096 + (a / 64 * 64 - 0x20000000000) % 4096) / 256 = (n * 4096 + (a - 0x20000000000) % 4096) / 256 := by
    omega
  unfold memWhere
  simp only [hregion]
  split
  · simp only [hgranule, and_self]
  · simp only [hblock, hpart, and_self]

theorem unitPending_slot (t : Tiers) (a : Nat) :
    unitPending t (memWhere t (a / 64 * 64)) = unitPending t (memWhere t a) := by
  obtain ⟨hlp, hunit, hpc⟩ := memWhere_slot t a
  rw [unitPending, unitPending, hlp, hunit, hpc]

/-- What a read finds in the slot of a byte (R254, R260). -/
theorem memTake_slot (s : State) (a : Nat) : memTake s (a / 64 * 64) 64 =
    (memRead s.mem (a / 64 * 64) 64, isPoison s (a / 64) || unitPending s.tiers (memWhere s.tiers a)) := by
  rw [memTake, unitPending_slot, Nat.mul_div_cancel _ (by decide)]

/-! ### Requests in service -/

section
variable {s : State} {r : MemReq} (hfind : (s.tiers.queue.find? fun x => x.id == r.id) = some r)
  (hturn : behindSlot s.tiers.queue r = false) (hserves : memServes s r = true)
include hfind hturn hserves

theorem exec_memWriteAccept_clean (hwrite : r.write = true) :
    exec (.memWriteAccept r.id .clean) s = .next (settleMem (memPut s r.addr r.data r.poison) r [] false) := by
  refine congrArg Host.Outcome.next ?_
  rw [hfind]
  exact if_neg (by simp [hwrite, hturn, hserves])

section
variable (hread : r.write = false) (hbest : ∀ x ∈ s.tiers.queue, x.write = false → x.cls < r.cls →
  behindSlot s.tiers.queue x = false → (memWhere s.tiers x.addr).unitKey ≠ (memWhere s.tiers r.addr).unitKey)
include hread hbest

/-- A read that no better class keeps waiting meets its event, and is then answered with what it finds (R249). -/
theorem exec_memReadServe {ev : MemEvent} {t : State} (hev : memMeets s r.addr ev r.job = (t, true)) :
    exec (.memReadServe r.id ev) s = .next (settleMem t r (memRead t.mem (r.addr / 64 * 64) 64)
      (isPoison t (r.addr / 64) || unitPending t.tiers (memWhere t.tiers r.addr))) := by
  have hbetter : (s.tiers.queue.any fun x => !x.write && decide (x.cls < r.cls) &&
      (memWhere s.tiers x.addr).unitKey == (memWhere s.tiers r.addr).unitKey && !behindSlot s.tiers.queue x) = false := by
    simp only [List.any_eq_false, Bool.and_eq_true, Bool.not_eq_true', decide_eq_true_eq, beq_iff_eq, not_and]
    exact fun x hx ⟨⟨hxread, hcls⟩, hunit⟩ hfirst => hbest x hx hxread hcls hfirst hunit
  refine congrArg Host.Outcome.next ?_
  rw [hfind]
  refine (if_neg (by simp [hread, hbetter, hturn, hserves])).trans ?_
  rw [hev]
  dsimp only
  rw [memTake_slot]

end

end

/-- Settles O28: the equation of each command, and what the answer leaves. -/
theorem memoryServes : Obligations.MemoryServes := by
  intro s
  refine ⟨fun r hfind hturn hserves => ⟨fun hwrite => ⟨fun hservice => ?write, fun hpending => ?discard⟩,
    fun hread hbest => ⟨?read, ?uncorrectable⟩⟩, fun _ => rfl, fun u k => ⟨rfl, fun h => ?refresh⟩⟩
  case write =>
    refine ⟨_, exec_memWriteAccept_clean hfind hturn hserves hwrite, fun x hx => ?_, fun hcanon i hi => ?_, ?_, ?_, ?_⟩
    · rw [settleMem_keeps modTiers_mem modSeq_mem, memPut_mem hservice, memGet_memWrite_other hx]
    · rw [settleMem_keeps modTiers_mem modSeq_mem, memPut_mem hservice, memGet_memWrite_same i hi hcanon.1]
    · rw [settleMem_queue, memPut_queue]
    · rw [settleMem_keeps modTiers_full modSeq_full, memPut_keeps (fun _ _ _ _ => rfl) modTiers_full]
    · intro c q hfrom
      rw [getSeq_settleMem hfrom, getSeq_cores (memPut_keeps (fun _ _ _ _ => rfl) modTiers_cores)]
  case discard =>
    refine ⟨_, exec_memWriteAccept_clean hfind hturn hserves hwrite, ?_, ?_, ?_⟩
    · rw [settleMem_keeps modTiers_mem modSeq_mem, (memPut_pending hpending).1]
    · rw [settleMem_keeps modTiers_poison modSeq_poison, (memPut_pending hpending).2]
    · rw [settleMem_queue, memPut_queue]
  case read => exact exec_memReadServe hfind hturn hserves hread hbest rfl
  case uncorrectable =>
    refine ⟨memUncorrected s (memWhere s.tiers r.addr) r.addr r.job, ?_, memUncorrected_mem .., isPoison_memUncorrected ..,
      memUncorrected_cores ..⟩
    rw [exec_memReadServe hfind hturn hserves hread hbest rfl, memUncorrected_mem, isPoison_memUncorrected, Bool.true_or]
  case refresh => exact congrArg Host.Outcome.next (if_neg h)

end Sys2Proof.Machine
end

section
/-!
The upkeep of the memory tiers (R255, R257 to R261): patrol, retraining, row repair, retirement and the bypass of a failed router.
-/
namespace Sys2Proof.Machine

/-! ### Reports -/

theorem memRecord_tiers (s : State) (w : MemWhere) (a : Nat) (sev flags : BitVec 8) (job : BitVec 6) (action : Nat) :
    (memRecord s w a sev flags job action).tiers = s.tiers := writeRecord_tiers _ _

theorem reported_tiers (s : State) (u : BitVec 32) (x y : BitVec 8) (z : BitVec 16) (v : BitVec 32) (w : MemWhere) (a : Nat)
    (sev flags : BitVec 8) (job : BitVec 6) (action : Nat) :
    (memRecord (condAppend s u x y z v) w a sev flags job action).tiers = s.tiers :=
  (memRecord_tiers ..).trans (condAppend_keeps (·.tiers) writeRecord_tiers modFlash_tiers ..)

/-! ### Patrol and retraining -/

/-- A clean patrol read of a slot in service moves the patrol past it, or starts a new pass (R255). -/
theorem exec_memPatrolRead_clean {s : State} {da : BitVec 48} {a : Nat} (ha : a = da.toNat / 64 * 64)
    (hpop : populated s.tiers a = true) (hup : memUp s a = true)
    (htrained : unitRetraining s.tiers (memWhere s.tiers a) = false)
    (hservice : unitPending s.tiers (memWhere s.tiers a) = false) :
    exec (.memPatrolRead da .clean) s = .next (modTiers s fun t =>
      if a = lastMemSlot t then { t with patrolAt := 0, passes := t.passes + 1 } else { t with patrolAt := a + 64 }) := by
  subst ha
  refine congrArg Host.Outcome.next ((if_neg (by simp [hpop, hup, htrained, hservice])).trans ?_)
  refine congrArg (modTiers s) (funext fun t => ?_)
  split <;> rfl

/-- The state in which a unit that has retrained is back in service. -/
def retrained (s : State) (lp : Bool) (u : Fin 16) (repaired : Bool) : State :=
  if lp then modChan s u fun x => { x with state := 0 }
  else modStack s u fun x => { x with retrain := none, lanes := if repaired then satAdd x.lanes 1 else x.lanes }

/-- MEM_CTRL no longer shows the unit retraining (R257). -/
def retrainShown (s : State) (lp : Bool) (u : Fin 16) : State :=
  modTiers s fun t => { t with
    ctrl := if fld t.ctrl 0 4 = u.val ∧ bit t.ctrl 4 = lp then setBit t.ctrl 10 false else t.ctrl }

theorem exec_memRetrainDone_ok {s : State} {lp : Bool} {u : Fin 16} {p : Fin 32} (repaired : Bool)
    (h : unitRetraining s.tiers (memUnitOf lp u p) = true) :
    exec (.memRetrainDone lp u p true repaired) s = .next (noted (retrainShown (retrained s lp u repaired) lp u)) :=
  congrArg Host.Outcome.next ((if_neg (by simp [h])).trans rfl)

theorem OutsideTiers.retrainDone {β : Type} {g : State → β} (hg : OutsideTiers g) (s : State) (lp : Bool) (u : Fin 16)
    (repaired : Bool) : g (Machine.noted (retrainShown (retrained s lp u repaired) lp u)) = g s := by
  rw [hg.noted, retrainShown, hg.tiers]
  exact hg.unit_if ..

/-! ### Row repair -/

/-- The page of an address, every slot of it poisoned. -/
def pagePoisoned (s : State) (a : Nat) : State := (pageSlots s.tiers a).foldl (fun s x => setPoison s (x / 64) true) s

theorem isPoison_setPoison_iff (s : State) (m n : Nat) :
    isPoison (setPoison s m true) n = true ↔ n = m ∨ isPoison s n = true := by
  simp [isPoison, setPoison, setPut, mem_setAdd]

theorem isPoison_foldl_setPoison {n : Nat} : ∀ (l : List Nat) (s : State),
    isPoison (l.foldl (fun s x => setPoison s (x / 64) true) s) n = true ↔ isPoison s n = true ∨ ∃ x ∈ l, x / 64 = n
  | [], s => by simp
  | x :: l, s => by
    rw [List.foldl_cons, isPoison_foldl_setPoison l, isPoison_setPoison_iff]
    simp only [List.mem_cons, exists_eq_or_imp]
    rw [eq_comm (a := n), or_comm (a := x / 64 = n), or_assoc]

/-- A part of the state that poison does not reach, at the poisoning of a page. -/
theorem pagePoisoned_keeps {β : Type} (g : State → β) (hg : ∀ s n, g (setPoison s n true) = g s) (s : State) (a : Nat) :
    g (pagePoisoned s a) = g s := foldl_field g (fun _ _ => hg _ _) _ _

/-- The row is kept for hPPR, and its slots count no error until their next full write (R258, R259). -/
def rowKept (s : State) (w : MemWhere) (a : Nat) : State :=
  modTiers s fun t => { t with
    hpprRows := setAdd t.hpprRows w.rowKey
    ueSlots := t.ueSlots.filter fun e => !(pageSlots s.tiers a).contains (e.1 * 64) }

/-- The repair counts at its stack. -/
def repairCounted (s : State) (w : MemWhere) : State :=
  if w.lp then s else modStack s w.unit fun k => { k with ppr := satAdd k.ppr 1 }

theorem OutsideTiers.repairCounted {β : Type} {g : State → β} (hg : OutsideTiers g) (s : State) (w : MemWhere) :
    g (repairCounted s w) = g s := by
  unfold Machine.repairCounted
  split
  · rfl
  · exact hg.modStack ..

theorem repairCounted_hpprRows (s : State) (w : MemWhere) : (repairCounted s w).tiers.hpprRows = s.tiers.hpprRows := by
  unfold repairCounted
  split <;> rfl

/-- A repaired row in the condition report and in a record (R259). -/
def rowReported (s : State) (w : MemWhere) (a : Nat) : State :=
  memRecord (condAppend s (unitWord w.recUnit.1 15 w.recUnit.2) 0x05 1 0
    (BitVec.ofNat 32 (w.row % 32768 + w.bank * 32768 + w.sid * 524288))) w a 1 1 0 5

/-- The state in which the row of an address has been repaired. -/
def rowRepaired (s : State) (w : MemWhere) (a : Nat) : State :=
  rowReported (repairCounted (rowKept (pagePoisoned s a) w a) w) w a

theorem OutsideTiers.rowRepaired {β : Type} {g : State → β} (hg : OutsideTiers g) (s : State) (w : MemWhere) (a : Nat) :
    g (rowRepaired s w a) = g (pagePoisoned s a) :=
  (hg.reported ..).trans ((hg.repairCounted ..).trans (hg.tiers ..))

theorem isPoison_rowRepaired (s : State) (w : MemWhere) (a n : Nat) :
    isPoison (rowRepaired s w a) n = true ↔ isPoison s n = true ∨ ∃ x ∈ pageSlots s.tiers a, x / 64 = n := by
  rw [isPoison_congr (outsideTiers_poison.rowRepaired ..)]
  exact isPoison_foldl_setPoison _ _

theorem mem_hpprRows_rowRepaired (s : State) (w : MemWhere) (a : Nat) :
    w.rowKey ∈ (rowRepaired s w a).tiers.hpprRows := by
  rw [rowRepaired, rowReported, reported_tiers, repairCounted_hpprRows]
  exact mem_setAdd.mpr (.inl rfl)

section
variable {s : State} {da : BitVec 48} (hpop : populated s.tiers da.toNat = true)
  (hperm : ∃ e ∈ s.tiers.permRows, e.2.1 = (memWhere s.tiers da.toNat).rowKey)
  (hnew : (memWhere s.tiers da.toNat).rowKey ∉ s.tiers.hpprRows)
include hpop hperm hnew

/-- The repair of a permanently faulty row, with repair resource and without (R258, R259). -/
theorem exec_memRowRepair : exec (.memRowRepair da true) s = .next (rowRepaired s (memWhere s.tiers da.toNat) da.toNat) ∧
    exec (.memRowRepair da false) s = .next (retirePending s (memWhere s.tiers da.toNat) da.toNat) := by
  have hrow : (s.tiers.permRows.any fun e => e.2.1 == (memWhere s.tiers da.toNat).rowKey) = true := by simpa using hperm
  have hgoes : ¬(!populated s.tiers da.toNat || !(s.tiers.permRows.any fun e => e.2.1 == (memWhere s.tiers da.toNat).rowKey) ||
      s.tiers.hpprRows.contains (memWhere s.tiers da.toNat).rowKey) = true := by
    simp [hpop, hrow, hnew]
  refine ⟨congrArg Host.Outcome.next ((if_neg hgoes).trans ((if_neg (by decide)).trans ?_)),
    congrArg Host.Outcome.next ((if_neg hgoes).trans (if_pos rfl))⟩
  unfold rowRepaired rowReported repairCounted rowKept pagePoisoned
  rfl

end

/-! ### RETIRE_PENDING units -/

/-- A stack has 32 PCs (R241). -/
theorem memWhere_pc_lt {t : Tiers} {a : Nat} (h : (memWhere t a).lp = false) : (memWhere t a).pc < 32 := by
  by_cases hhbm : a / regionBytes < 8
  · rw [memWhere, if_pos hhbm]
    exact Nat.mod_lt _ (by decide)
  · rw [memWhere, if_neg hhbm] at h
    cases h

/-- A unit that is marked is RETIRE_PENDING (R258). -/
theorem unitPending_retirePending (s : State) {w : MemWhere} (a : Nat) (hpc : w.lp = false → w.pc < 32) :
    unitPending (retirePending s w a).tiers w = true := by
  unfold retirePending
  split
  case isTrue h => exact h
  case isFalse =>
    rw [memRecord_tiers]
    cases hlp : w.lp
    case true => simp [unitPending, hlp, modChan]
    case false =>
      have hbit : w.unit.val % 2 * 32 + w.pc < 64 := by
        have := hpc hlp
        omega
      simp [unitPending, hlp, setBit_bit _ _ hbit]

/-! ### Retirement -/

theorem memGet_zeroRange (s : State) (a n x : Nat) :
    memGet (zeroRange s a n).mem x = if x < a ∨ a + n ≤ x then memGet s.mem x else 0 := memGet_memErase ..

theorem isPoison_zeroRange (s : State) (a n k : Nat) : isPoison (zeroRange s a n) k =
    (isPoison s k && (decide (k < a / 64) || decide (a / 64 + n / 64 ≤ k))) := by
  rw [Bool.eq_iff_iff]
  simp [isPoison, zeroRange, setErase]

/-- A region without one of its units, its interleave rebuilt (R260). -/
def Region.dropUnit (i : Nat) (r : Region) : Region := { r with
  live := setBit r.live i false
  pend := setBit r.pend i false
  invalid := true
  state := if r.state = 2 ∧ setBit r.pend i false = 0 then 0 else r.state }

/-- The state with an HBM region changed. -/
def modHbmRegion (s : State) (q : Fin 8) (f : Region → Region) : State :=
  modTiers s fun t => { t with regions := vmod t.regions q f }

theorem exec_memRetireApply_hbm {s : State} {u : Fin 16} {p : Fin 32}
    (hpend : bit (vget s.tiers.regions (regionOf u)).pend (u.val % 2 * 32 + p.val) = true)
    (hfree : windowMeets s ((regionOf u).val * regionBytes) (((regionOf u).val + 1) * regionBytes) = false) :
    exec (.memRetireApply false u p) s = .next (memRecord
      (condAppend (modHbmRegion (zeroRange s ((regionOf u).val * regionBytes) regionBytes) (regionOf u)
        (Region.dropUnit (u.val % 2 * 32 + p.val))) (unitWord 8 15 (memUnitOf false u p).recUnit.2) 0x06 1 0 0)
      (memUnitOf false u p) ((regionOf u).val * regionBytes) 2 3 0 6) := by
  have hunit : unitPending s.tiers (memUnitOf false u p) = true := hpend
  exact congrArg Host.Outcome.next ((if_neg (by simp [hunit])).trans ((if_neg Bool.false_ne_true).trans
    ((if_neg (by simp [hfree])).trans rfl)))

/-- Every channel of LPDDR5X that is left has lost its contents. -/
def channelsInvalid (s : State) : State :=
  modTiers s fun t => { t with chans := t.chans.map fun x => if x.state = 3 then x else { x with invalid := true } }

theorem state_channelsInvalid (s : State) (v : Fin 16) :
    (vget (channelsInvalid s).tiers.chans v).state = (vget s.tiers.chans v).state := by
  simp only [channelsInvalid, vget, modTiers_tiers, Vector.getElem_map]
  split <;> rfl

theorem exec_memRetireApply_lpddr {s : State} {u : Fin 16} {p : Fin 32} (hpend : (vget s.tiers.chans u).state = 2)
    (hfree : windowMeets s 0x20000000000 0x40000000000 = false) (hpair : s.flash.pairing = none) :
    exec (.memRetireApply true u p) s = .next (memRecord
      (condAppend (channelsInvalid (zeroRange (modChan s u fun x => { x with state := 3 }) 0x20000000000 0x20000000000))
        (unitWord 9 15 u.val) 0x06 1 0 0)
      (memUnitOf true u p) 0x20000000000 2 3 0 6) := by
  have hunit : unitPending s.tiers (memUnitOf true u p) = true := beq_iff_eq.mpr hpend
  exact congrArg Host.Outcome.next ((if_neg (by simp [hunit])).trans ((if_pos rfl).trans
    ((if_neg (by simp [hfree, hpair])).trans rfl)))

/-! ### Bypass -/

/-- The state in which a region is reached over the seam link of its partner (R261). -/
def regionBypassed (s : State) (q : Fin 8) : State :=
  noted (routeChange (modLink (modHbmRegion s q fun r => { r with state := 1 }) (bypassLink q) fun k => { k with bypass := true })
    0xFF (bypassLink q).val)

theorem exec_hbmBypassSwitch_down {s : State} {q : Fin 8} (hdown : nodeUp s (nodeOfPort (2 * q.val)) = false)
    (hregion : (vget s.tiers.regions q).state = 3) (hpartner : nodeUp s (bypassPartner (nodeOfPort (2 * q.val))) = true)
    (hlink : (vget s.lacing.links (bypassLink q)).failed = false) (ha : (vget s.lacing.links (bypassLink q)).a.active ≠ 0)
    (hb : (vget s.lacing.links (bypassLink q)).b.active ≠ 0) :
    exec (.hbmBypassSwitch q) s = .next (regionBypassed s q) :=
  congrArg Host.Outcome.next ((if_neg (by simpa [hdown, hregion, hpartner, hlink] using ⟨ha, hb⟩)).trans rfl)

/-- Outside the fabric, the bypass changes its region alone. -/
theorem OutsideLacing.regionBypassed {β : Type} {g : State → β} (hg : OutsideLacing g) (s : State) (q : Fin 8) :
    g (regionBypassed s q) = g (modHbmRegion s q fun r => { r with state := 1 }) := by
  unfold Machine.regionBypassed
  rw [hg.noted, hg.routeChange, hg.modLink]

theorem link_regionBypassed (s : State) (q : Fin 8) : (vget (regionBypassed s q).lacing.links (bypassLink q)).bypass = true := by
  rw [regionBypassed, noted_lacing, routeChange_links, link_modLink]

/-- Settles O29: the equation of each command, and what the state it names leaves. -/
theorem memoryUpkeep : Obligations.MemoryUpkeep := by
  intro s
  refine ⟨fun da a ha hpop hup htrained hservice => exec_memPatrolRead_clean ha hpop hup htrained hservice,
    fun u p b h => ?stack, fun u p b h => ?channel, ?repair,
    fun u p => ⟨fun hpend hfree => ?hbm, fun hpend hfree hpair => ?lpddr⟩,
    fun q hdown hregion hpartner hlink ha hb => ?bypass⟩
  case stack =>
    have hunit : unitRetraining s.tiers (memUnitOf false u p) = true := beq_iff_eq.mpr h
    refine ⟨_, exec_memRetrainDone_ok b hunit, outsideTiers_mem.retrainDone .., outsideTiers_cores.retrainDone .., ?_⟩
    rw [noted_tiers]
    exact vget_vmod_same ..
  case channel =>
    have hunit : unitRetraining s.tiers (memUnitOf true u p) = true := beq_iff_eq.mpr h
    refine ⟨_, exec_memRetrainDone_ok b hunit, outsideTiers_mem.retrainDone .., outsideTiers_cores.retrainDone .., ?_⟩
    rw [noted_tiers]
    exact vget_vmod_same ..
  case repair =>
    rintro da w rfl hpop hperm hnew
    obtain ⟨hrepaired, hfailed⟩ := exec_memRowRepair hpop hperm hnew
    refine ⟨⟨_, hrepaired, mem_hpprRows_rowRepaired .., fun x hx => ?_, fun n hn => ?_, ?_, ?_⟩, _, hfailed,
      unitPending_retirePending s _ memWhere_pc_lt, outsideTiers_mem.retirePending .., outsideTiers_cores.retirePending ..⟩
    · exact (isPoison_rowRepaired ..).mpr (.inr ⟨x, hx, rfl⟩)
    · exact (isPoison_rowRepaired ..).mpr (.inl hn)
    · rw [outsideTiers_mem.rowRepaired, pagePoisoned_keeps (·.mem) fun _ _ => rfl]
    · rw [outsideTiers_cores.rowRepaired, pagePoisoned_keeps (·.cores) fun _ _ => rfl]
  case hbm =>
    refine ⟨_, exec_memRetireApply_hbm hpend hfree, ?_, ?_, fun x => ?_, fun n => ?_, ?_⟩
    · rw [reported_tiers]
      exact congrArg Region.live (vget_vmod_same ..)
    · rw [reported_tiers]
      exact congrArg Region.pend (vget_vmod_same ..)
    · rw [outsideTiers_mem.reported]
      exact memGet_zeroRange ..
    · rw [isPoison_congr (outsideTiers_poison.reported ..)]
      exact isPoison_zeroRange ..
    · rw [outsideTiers_cores.reported]
      rfl
  case lpddr =>
    refine ⟨_, exec_memRetireApply_lpddr hpend hfree hpair, ?_, fun v hv => ?_, fun x => ?_, ?_⟩
    · rw [reported_tiers, state_channelsInvalid]
      exact congrArg Channel.state (vget_vmod_same ..)
    · rw [reported_tiers, state_channelsInvalid]
      exact congrArg Channel.state (vget_vmod_other _ _ hv.symm)
    · rw [outsideTiers_mem.reported]
      exact memGet_zeroRange ..
    · rw [outsideTiers_cores.reported]
      rfl
  case bypass =>
    refine ⟨_, exec_hbmBypassSwitch_down hdown hregion hpartner hlink ha hb, ?_, link_regionBypassed .., fun p hp => ?_,
      outsideLacing_mem.regionBypassed .., outsideLacing_cores.regionBypassed ..⟩
    · rw [outsideLacing_tiers.regionBypassed]
      exact congrArg Region.state (vget_vmod_same ..)
    · rw [outsideLacing_tiers.regionBypassed]
      exact vget_vmod_other _ _ hp.symm

end Sys2Proof.Machine
end

section
/-!
The invariant of the machine (R312, R324, R391, Table 12-3): every command keeps it and the queue it runs on, and so does a step.
-/
namespace Sys2Proof.Machine

/-- A command keeps the invariant and the queue of the commands behind it. -/
theorem exec_kept {pq : List Instr} (i : Instr) (s : State) (h : Kept pq s) : NextKept pq (exec i s) :=
  match i with
  | .nop c q w => execNop_kept c q w s h
  | .halt c q w => execHalt_kept c q w s h
  | .wait c q w => execWait_kept c q w s h
  | .loop c q w => execLoop_kept c q w s h
  | .jmp c q w => execJmp_kept c q w s h
  | .dadv c q w => execDadv_kept c q w s h
  | .dload c q w ev => execDload_kept c q w ev s h
  | .swapi c q w => execSwapi_kept c q w s h
  | .barrier c q w => execBarrier_kept c q w s h
  | .frame c q w => execFrame_kept c q w s h
  | .frameTakesEffect c => execFrameTakesEffect_kept c s h
  | .iload c q w ev => execIload_kept c q w ev s h
  | .barrierTimeout c => execBarrierTimeout_kept c s h
  | .stacksAccessExecute c cyc a ecc => execStacksAccessExecute_kept c cyc a ecc s h
  | .tagTimeout c a => execTagTimeout_kept c a s h
  | .correctedWriteback c sa => execCorrectedWriteback_kept c sa s h
  | .patrolRead c sa ecc => execPatrolRead_kept c sa ecc s h
  | .bankRepair c bank => execBankRepair_kept c bank s h
  | .setRetire c set => execSetRetire_kept c set s h
  | .carrelMirrorUpdate c k => execCarrelMirrorUpdate_kept c k s h
  | .scrubComplete job => execScrubComplete_kept job s h
  | .fill c d w => execFill_kept c d w s h
  | .copy c d w ev => execCopy_kept c d w ev s h
  | .cropen c w ev => execCropen_kept c w ev s h
  | .crclose c w => execCrclose_kept c w s h
  | .stepend c w ev => execStepend_kept c w ev s h
  | .clgate c w => execClgate_kept c w s h
  | .clusterUngateDone c k => execClusterUngateDone_kept c k s h
  | .lcfg c l w => execLcfg_kept c l w s h
  | .loadw c l w ev => execLoadw_kept c l w ev s h
  | .stream c l w ev => execStream_kept c l w ev s h
  | .drain c l w => execDrain_kept c l w s h
  | .accld c l w ev => execAccld_kept c l w ev s h
  | .lpairOn c l w => execLpairOn_kept c l w s h
  | .lpairOff c l w => execLpairOff_kept c l w s h
  | .lastPairTimeout c l => execLastPairTimeout_kept c l s h
  | .lastPlaneStart c l => execLastPlaneStart_kept c l s h
  | .lastVectorEnter c l => execLastVectorEnter_kept c l s h
  | .lastVectorLand c l mis => execLastVectorLand_kept c l mis s h
  | .drainEntryRead c l mis => execDrainEntryRead_kept c l mis s h
  | .denseFallbackReexec c l => execDenseFallbackReexec_kept c l s h
  | .lastInjArm mb => execLastInjArm_kept mb s h
  | .avld c w ev => execAvld_kept c w ev s h
  | .amv c w ev => execAmv_kept c w ev s h
  | .awlFallbackReexec c => execAwlFallbackReexec_kept c s h
  | .aseqApply c w ev => execAseqApply_kept c w ev s h
  | .aseqAdvance c w => execAseqAdvance_kept c w s h
  | .wop c wl w ev => execWop_kept c wl w ev s h
  | .wcvt c wl w ev => execWcvt_kept c wl w ev s h
  | .wred c wl w ev => execWred_kept c wl w ev s h
  | .wsmxExps c wl w ev => execWsmxExps_kept c wl w ev s h
  | .wsmxMerge c wl w ev => execWsmxMerge_kept c wl w ev s h
  | .wgth c wl w ev => execWgth_kept c wl w ev s h
  | .wsct c wl w ev => execWsct_kept c wl w ev s h
  | .wopt c wl w ev => execWopt_kept c wl w ev s h
  | .wshdw c wl w ev => execWshdw_kept c wl w ev s h
  | .seltop c wl w ev => execSeltop_kept c wl w ev s h
  | .selthr c wl w ev => execSelthr_kept c wl w ev s h
  | .cfill c wl w ev => execCfill_kept c wl w ev s h
  | .cevict c wl w ev => execCevict_kept c wl w ev s h
  | .wstepLoad c wl w => execWstepLoad_kept c wl w s h
  | .wstepInc c wl w => execWstepInc_kept c wl w s h
  | .wflagStore c wl w => execWflagStore_kept c wl w s h
  | .wflagCheck c wl w => execWflagCheck_kept c wl w s h
  | .wflagClear c wl w => execWflagClear_kept c wl w s h
  | .cacheSegmentRemap c wl seg => execCacheSegmentRemap_kept c wl seg s h
  | .xload c d w => execXload_kept c d w s h
  | .xstore c d w ev => execXstore_kept c d w ev s h
  | .xgather c d w ev => execXgather_kept c d w ev s h
  | .xmove c d w => execXmove_kept c d w s h
  | .esend c d w ev => execEsend_kept c d w ev s h
  | .laceBeatReceive link dir lace ok => execLaceBeatReceive_kept link dir lace ok s h
  | .rd f ecc => execRd_kept f ecc s h
  | .wr f => execWr_kept f s h
  | .wrp f => execWrp_kept f s h
  | .rdr f => execRdr_kept f s h
  | .ack f => execAck_kept f s h
  | .barrierArrival f => execBarrierArrival_kept f s h
  | .creditResync f => execCreditResync_kept f s h
  | .ucodeAck f => execUcodeAck_kept f s h
  | .ikiedMgmtMsg f => execIkiedMgmtMsg_kept f s h
  | .mcd agent f ok => execMcd_kept agent f ok s h
  | .creditReturn c q vc3 => execCreditReturn_kept c q vc3 s h
  | .laceRetire link dir lace => execLaceRetire_kept link dir lace s h
  | .laceHandshakeTimeout link dir lace => execLaceHandshakeTimeout_kept link dir lace s h
  | .spareLaceTrained link dir lace => execSpareLaceTrained_kept link dir lace s h
  | .lacLinkRetrain mb => execLacLinkRetrain_kept mb s h
  | .lacLinkRetire mb => execLacLinkRetire_kept mb s h
  | .laceRetrainDone link dir lace ok => execLaceRetrainDone_kept link dir lace ok s h
  | .routerFail n => execRouterFail_kept n s h
  | .outstandingPathAbort n => execOutstandingPathAbort_kept n s h
  | .tagQuarantineEnd c tag => execTagQuarantineEnd_kept c tag s h
  | .distRecompute hopPs bndPs vlacMv tlacQ => execDistRecompute_kept hopPs bndPs vlacMv tlacQ s h
  | .ucieModuleFail site => execUcieModuleFail_kept site s h
  | .memWriteAccept id ev => execMemWriteAccept_kept id ev s h
  | .memReadServe id ev => execMemReadServe_kept id ev s h
  | .memRequestAge id => execMemRequestAge_kept id s h
  | .memRefresh lp unit temp => execMemRefresh_kept lp unit temp s h
  | .memPatrolRead da ev => execMemPatrolRead_kept da ev s h
  | .memCtrlRetrain mb => execMemCtrlRetrain_kept mb s h
  | .memRetrainDone lp unit pc ok laneRepaired => execMemRetrainDone_kept lp unit pc ok laneRepaired s h
  | .memRowRepair da ok => execMemRowRepair_kept da ok s h
  | .memRetireApply lp unit pc => execMemRetireApply_kept lp unit pc s h
  | .hbmBypassSwitch region => execHbmBypassSwitch_kept region s h
  | .bar2Write fn off bytes => execBar2Write_kept fn off bytes s h
  | .bar2Read fn off len ev => execBar2Read_kept fn off len ev s h
  | .perstAssert => execPerstAssert_kept s h
  | .perstDeassert => execPerstDeassert_kept s h
  | .discRsp site payload => execDiscRsp_kept site payload s h
  | .discProv site index data rate x32 => execDiscProv_kept site index data rate x32 s h
  | .discTimeout site => execDiscTimeout_kept site s h
  | .ucodeRepairRound => execUcodeRepairRound_kept s h
  | .regionActivate r => execRegionActivate_kept r s h
  | .startUpReady t => execStartUpReady_kept t s h
  | .startUpWatchdog => execStartUpWatchdog_kept s h
  | .flrVf v => execFlrVf_kept v s h
  | .flrPf => execFlrPf_kept s h
  | .vfEnableClear => execVfEnableClear_kept s h
  | .pcieLinkDown => execPcieLinkDown_kept s h
  | .pcieLinkUp speed width => execPcieLinkUp_kept speed width s h
  | .powerstateD3hot fn => execPowerstateD3hot_kept fn s h
  | .nvmeCmdComplete id ok => execNvmeCmdComplete_kept id ok s h
  | .nvmeCmdTimeout id => execNvmeCmdTimeout_kept id s h
  | .vaultSurpriseRemoval => execVaultSurpriseRemoval_kept s h
  | .eytData port p => execEytData_kept port p s h
  | .eytAck port p => execEytAck_kept port p s h
  | .eytOpen port p => execEytOpen_kept port p s h
  | .eytOpenAck port p => execEytOpenAck_kept port p s h
  | .eytClose port p => execEytClose_kept port p s h
  | .eytKeepalive port p => execEytKeepalive_kept port p s h
  | .eytMove port p => execEytMove_kept port p s h
  | .eytRreq port p => execEytRreq_kept port p s h
  | .eytRresp port p => execEytRresp_kept port p s h
  | .neighbourDiscovery port target src => execNeighbourDiscovery_kept port target src s h
  | .icmpv6Echo port dst src data => execIcmpv6Echo_kept port dst src data s h
  | .foreignFrame port => execForeignFrame_kept port s h
  | .eytRtoExpire sess psn => execEytRtoExpire_kept sess psn s h
  | .carrelFullRetry sess psn => execCarrelFullRetry_kept sess psn s h
  | .eytAckDelay sess => execEytAckDelay_kept sess s h
  | .eytKeepaliveTimer sess => execEytKeepaliveTimer_kept sess s h
  | .eytSessionDead sess => execEytSessionDead_kept sess s h
  | .eyeletLinkDown port => execEyeletLinkDown_kept port s h
  | .eyeletLinkUp port ok => execEyeletLinkUp_kept port ok s h
  | .mailboxOwnWrite fn k ctrl => execMailboxOwnWrite_kept fn k ctrl s h
  | .mailboxCancel fn k => execMailboxCancel_kept fn k s h
  | .queuedTimeout mb => execQueuedTimeout_kept mb s h
  | .authLockExpire => execAuthLockExpire_kept s h
  | .inventory mb => execInventory_kept mb s h
  | .errRead mb => execErrRead_kept mb s h
  | .provRead mb => execProvRead_kept mb s h
  | .condRead mb => execCondRead_kept mb s h
  | .mbxAssign mb => execMbxAssign_kept mb s h
  | .jobLoad mb => execJobLoad_kept mb s h
  | .jobStart mb => execJobStart_kept mb s h
  | .jobPause mb => execJobPause_kept mb s h
  | .jobResume mb => execJobResume_kept mb s h
  | .jobKill mb => execJobKill_kept mb s h
  | .killDrainEnd job => execKillDrainEnd_kept job s h
  | .jobNormalEnd job => execJobNormalEnd_kept job s h
  | .jobStatus mb => execJobStatus_kept mb s h
  | .aperture mb => execAperture_kept mb s h
  | .memStatus mb => execMemStatus_kept mb s h
  | .portCfg mb => execPortCfg_kept mb s h
  | .sessOpen mb => execSessOpen_kept mb s h
  | .sessClose mb => execSessClose_kept mb s h
  | .selftest mb r => execSelftest_kept mb r s h
  | .pwrLimit mb => execPwrLimit_kept mb s h
  | .domain mb => execDomain_kept mb s h
  | .clockCap mb => execClockCap_kept mb s h
  | .thermal mb => execThermal_kept mb s h
  | .snapCfgSet mb => execSnapCfgSet_kept mb s h
  | .snapCfgRead mb => execSnapCfgRead_kept mb s h
  | .snapCfgCaps mb => execSnapCfgCaps_kept mb s h
  | .snapNowTake mb => execSnapNowTake_kept mb s h
  | .snapNowArchiveConfirm mb => execSnapNowArchiveConfirm_kept mb s h
  | .snapNowAbandon mb => execSnapNowAbandon_kept mb s h
  | .restore mb => execRestore_kept mb s h
  | .pmuCfgLedger mb => execPmuCfgLedger_kept mb s h
  | .pmuCfgSlips mb => execPmuCfgSlips_kept mb s h
  | .pmuCfgFilter mb => execPmuCfgFilter_kept mb s h
  | .pmuCfgBinding mb => execPmuCfgBinding_kept mb s h
  | .pmuCfgEvent mb => execPmuCfgEvent_kept mb s h
  | .pmuCfgDirectory mb => execPmuCfgDirectory_kept mb s h
  | .regrd mb => execRegrd_kept mb s h
  | .regwr mb => execRegwr_kept mb s h
  | .jobSeqRunWrite mb => execJobSeqRunWrite_kept mb s h
  | .thmSensDisable mb => execThmSensDisable_kept mb s h
  | .allowRead mb => execAllowRead_kept mb s h
  | .fwUpdate mb agentsOk => execFwUpdate_kept mb agentsOk s h
  | .licenceInstall mb => execLicenceInstall_kept mb s h
  | .keyChange mb => execKeyChange_kept mb s h
  | .debugUnlock mb => execDebugUnlock_kept mb s h
  | .debugUnlockExpire => execDebugUnlockExpire_kept s h
  | .condEditAppend mb => execCondEditAppend_kept mb s h
  | .condEditClear mb => execCondEditClear_kept mb s h
  | .deviceReset mb => execDeviceReset_kept mb s h
  | .deviceResetStart => execDeviceResetStart_kept s h
  | .pair mb => execPair_kept mb s h
  | .unpair mb => execUnpair_kept mb s h
  | .debugRead mb => execDebugRead_kept mb s h
  | .debugRelease mb => execDebugRelease_kept mb s h
  | .ownerSet mb => execOwnerSet_kept mb s h
  | .tapInstruction ir => execTapInstruction_kept ir s h
  | .domainPowerGrant d => execDomainPowerGrant_kept d s h
  | .loadNoticeLeadEnd d => execLoadNoticeLeadEnd_kept d s h
  | .domainSoftStartDone d mv => execDomainSoftStartDone_kept d mv s h
  | .domainPowerOffDone d => execDomainPowerOffDone_kept d s h
  | .domainGrantTimeout d => execDomainGrantTimeout_kept d s h
  | .domainTrip d ampsD => execDomainTrip_kept d ampsD s h
  | .feedSuspect n ampsD expD senseMv => execFeedSuspect_kept n ampsD expD senseMv s h
  | .feedFault n ampsD expD senseMv => execFeedFault_kept n ampsD expD senseMv s h
  | .feedLost b senseMv => execFeedLost_kept b senseMv s h
  | .governorPeakTick p => execGovernorPeakTick_kept p s h
  | .governorSustTick avgW activity => execGovernorSustTick_kept avgW activity s h
  | .hbmPgDeassert side => execHbmPgDeassert_kept side s h
  | .railOutOfRange rail mv => execRailOutOfRange_kept rail mv s h
  | .refLoss => execRefLoss_kept s h
  | .refReturn => execRefReturn_kept s h
  | .holdoverExpire => execHoldoverExpire_kept s h
  | .freqChangeStart r => execFreqChangeStart_kept r s h
  | .freqChangeRestart r => execFreqChangeRestart_kept r s h
  | .marginWarn r code path => execMarginWarn_kept r code path s h
  | .stretchLimitExceeded r n => execStretchLimitExceeded_kept r n s h
  | .marginLimitRaise r => execMarginLimitRaise_kept r s h
  | .vfAgeStep c k => execVfAgeStep_kept c k s h
  | .sensorSample r n tempQ apart => execSensorSample_kept r n tempQ apart s h
  | .thermalCheck => execThermalCheck_kept s h
  | .thermalRelease => execThermalRelease_kept s h
  | .resetRelease c => execResetRelease_kept c s h
  | .snapshotFreezeDone job => execSnapshotFreezeDone_kept job s h
  | .snapLayerConfirm job layer trailer => execSnapLayerConfirm_kept job layer trailer s h
  | .snapLayerFail job layer => execSnapLayerFail_kept job layer s h
  | .archiveConfirmTimeout job => execArchiveConfirmTimeout_kept job s h
  | .healthScoreUpdate => execHealthScoreUpdate_kept s h
  | .suspectEngineTest c e pass => execSuspectEngineTest_kept c e pass s h
  | .registrarCoreFail n => execRegistrarCoreFail_kept n s h
  | .hostLaneFault width => execHostLaneFault_kept width s h
  | .ledgerLatch => execLedgerLatch_kept s h
  | .ledgerHeaderWrite => execLedgerHeaderWrite_kept s h
  | .callSlipWrite c q m => execCallSlipWrite_kept c q m s h
  | .periodStretch r code path => execPeriodStretch_kept r code path s h
  | .hbmPgAssert side => execHbmPgAssert_kept side s h
  | .powerRemoval => execPowerRemoval_kept s h
  | .bar0Write fn off bytes => execBar0Write_kept fn off bytes s h
  | .pcieConfigWrite fn op => execPcieConfigWrite_kept fn op s h
  | .spdmDoeRequest req => execSpdmDoeRequest_kept req s h
  | .pfcPauseFrame port prio pause => execPfcPauseFrame_kept port prio pause s h
  | .preFecBerLimit port => execPreFecBerLimit_kept port s h
  | .commandComplete mb => execCommandComplete_kept mb s h

/-- A sound state whose front command is taken from its queue is sound (the invariant does not speak of the queue). -/
theorem Kept.of_sound {s : State} (h : s.Sound) (pq : List Instr) : Kept pq { s with pending := pq } := ⟨rfl, h⟩

/-- A step of a sound state leaves the queue without its front command, and a sound state. -/
theorem step_kept {s : State} (h : s.Sound) : NextKept s.pending.tail (step s) := by
  unfold step
  split
  case h_1 hidle =>
    rw [hidle]
    exact NextKept.next (idleTick_kept s ⟨hidle, h⟩)
  case h_2 c rest hfront =>
    rw [hfront]
    exact exec_kept c _ (Kept.of_sound h rest)

/-- Settles O4: each command keeps the invariant, by the lemma of its meaning, and so does the idle step. -/
theorem stepKeepsSound : Obligations.StepKeepsSound := fun _ t hs hstep => (step_kept hs t hstep).2

end Sys2Proof.Machine
end

section
/-!
How Ikied takes, queues, runs and answers a posted command (R290 to R300): what each of its operations leaves, and the
mailbox that it leaves behind.
-/
namespace Sys2Proof.Machine

/-! ### What the mailboxes' operations leave -/

/-- A view of the state in which no mailbox, no INV_GEN and no interrupt shows. -/
structure OutsideMailboxes {β : Type} (g : State → β) : Prop where
  mb : ∀ s k f, g (modMb s k f) = g s
  gen : ∀ s, g (bumpGen s) = g s
  vec : ∀ s fn v, g (raiseVec s fn v) = g s

theorem outsideMailboxes_cores : OutsideMailboxes (·.cores) := ⟨modMb_cores, bumpGen_cores, raiseVec_cores⟩

theorem outsideMailboxes_mem : OutsideMailboxes (·.mem) := ⟨modMb_mem, bumpGen_mem, raiseVec_mem⟩

/-- Of the Registrar, whatever is neither a mailbox nor INV_GEN. -/
theorem outsideMailboxes_reg {β : Type} (g : Registrar → β) (hmb : ∀ r v, g { r with mailboxes := v } = g r)
    (hgen : ∀ r n, g { r with invGen := n } = g r) : OutsideMailboxes fun s => g s.reg :=
  ⟨fun _ _ _ => hmb .., fun _ => hgen .., fun _ _ _ => congrArg g (raiseVec_reg ..)⟩

@[simp] theorem getMb_bumpGen (s : State) (j : Fin 16) : getMb (bumpGen s) j = getMb s j := rfl

@[simp] theorem getMb_raiseVec (s : State) (fn : Fin 9) (v : Nat) (j : Fin 16) : getMb (raiseVec s fn v) j = getMb s j := by
  simp only [getMb, raiseVec_reg]

/-- A record changes of the Registrar its ring, its journal and their counts, and INV_GEN. -/
theorem writeRecord_keeps_reg {β : Type} (g : Registrar → β)
    (hg : ∀ r a b c d e, g { r with errNext := a, ring := b, errLost := c, journal := d, invGen := e } = g r)
    (s : State) (r : ErrRec) : g (writeRecord s r).reg = g s.reg := by
  have hnoted : ∀ t : State, (noted t).reg = { t.reg with invGen := t.reg.invGen + 1 } := fun _ => raiseVec_reg ..
  unfold writeRecord
  dsimp only
  split
  · split
    · rw [raiseVec_reg, hnoted]
      exact hg s.reg _ _ _ _ _
    · rw [hnoted]
      exact hg s.reg _ _ _ _ _
  · rw [hnoted]
    exact hg s.reg _ _ _ _ _

@[simp] theorem getMb_writeRecord (s : State) (r : ErrRec) (j : Fin 16) : getMb (writeRecord s r) j = getMb s j :=
  writeRecord_keeps_reg (fun r => vget r.mailboxes j) (by intros; rfl) s r

/-! ### The answer -/

/-- The mailbox's CHECK after an answer (R299). -/
def answerCheck (s : State) (k : Fin 16) (st : BitVec 16) (resp : List Byte) : List (Nat × Byte) :=
  if k.val < 2 then
    memWrite [] 0 (if s.reg.ownerState = 0 then List.replicate 24 0 else responseCheck s.reg.key (getMb s k) st resp)
  else (getMb s k).check

/-- A mailbox that holds an answer (R292); the answer to an abandoned command is discarded (R271). -/
def Mailbox.answered (m : Mailbox) (st : BitVec 16) (resp : List Byte) (rsize : BitVec 32) (check : List (Nat × Byte)) : Mailbox :=
  if m.aband then m.released
  else { m.released with
    status := st, rlen := BitVec.ofNat 16 resp.length, rsize := rsize, check := check
    payload := memWrite m.payload 0 resp }

section
variable (s : State) (k : Fin 16) (st : BitVec 16) (resp : List Byte) (n : BitVec 32)

theorem OutsideMailboxes.answer {β : Type} {g : State → β} (hg : OutsideMailboxes g) : g (answer s k st resp n) = g s := by
  unfold Machine.answer
  dsimp only
  split
  · rw [hg.gen, hg.mb]
  · rw [hg.vec, hg.gen, hg.mb]

theorem getMb_answer_same :
    getMb (answer s k st resp n) k = (getMb s k).answered st resp n (answerCheck s k st resp) := by
  unfold answer Mailbox.answered
  dsimp only
  split
  · rw [getMb_bumpGen, getMb_modMb_same]
  · rw [getMb_raiseVec, getMb_bumpGen, getMb_modMb_same]
    rfl

theorem getMb_answer_other {j : Fin 16} (h : k ≠ j) : getMb (answer s k st resp n) j = getMb s j := by
  unfold answer
  dsimp only
  split
  · rw [getMb_bumpGen, getMb_modMb_other _ _ h]
  · rw [getMb_raiseVec, getMb_bumpGen, getMb_modMb_other _ _ h]

end

section
variable (m : Mailbox) (st : BitVec 16) (resp : List Byte) (n : BitVec 32) (check : List (Nat × Byte))

@[simp] theorem Mailbox.own_answered : (m.answered st resp n check).own = false := by
  unfold Mailbox.answered
  split <;> rfl

@[simp] theorem Mailbox.phase_answered : (m.answered st resp n check).phase = 0 := by
  unfold Mailbox.answered
  split <;> rfl

@[simp] theorem Mailbox.result_answered : (m.answered st resp n check).result = none := by
  unfold Mailbox.answered
  split <;> rfl

variable {m} in
theorem Mailbox.answered_of_kept (h : m.aband = false) : m.answered st resp n check = { m.released with
    status := st, rlen := BitVec.ofNat 16 resp.length, rsize := n, check := check, payload := memWrite m.payload 0 resp } :=
  if_neg (by simp [h])

variable {m} in
theorem Mailbox.status_answered (h : m.aband = false) : (m.answered st resp n check).status = st := by
  rw [Mailbox.answered_of_kept _ _ _ _ h]

variable {m} in
theorem Mailbox.rlen_answered (h : m.aband = false) : (m.answered st resp n check).rlen = BitVec.ofNat 16 resp.length := by
  rw [Mailbox.answered_of_kept _ _ _ _ h]

end

/-! ### The queue -/

section
variable {s : State} {k : Fin 16}

theorem runOrQueue_of_mustQueue (h : mustQueue s k = true) :
    runOrQueue s k = bumpGen (modMb s k fun m => { m with phase := 1 }) := if_pos h

theorem runOrQueue_of_free (h : mustQueue s k = false) (hcode : (getMb s k).code ≠ 1) :
    runOrQueue s k = bumpGen (modMb s k fun m => { m with phase := 2 }) := by
  unfold runOrQueue
  rw [if_neg (by simp [h])]
  dsimp only
  rw [if_neg (by simpa using hcode)]

theorem runOrQueue_nop (h : mustQueue s k = false) (hcode : (getMb s k).code = 1) :
    runOrQueue s k = answer (bumpGen (modMb s k fun m => { m with phase := 2 })) k 0 [] 0 := by
  unfold runOrQueue
  rw [if_neg (by simp [h])]
  dsimp only
  rw [if_pos (by simpa using hcode)]

/-- A command waits for none where no reset is due and no other mailbox holds an accepted command (R294). -/
theorem mustQueue_of_alone (hreset : s.reg.resetDue = false)
    (halone : ∀ j, j ≠ k → (getMb s j).own = false ∨ (getMb s j).phase = 0) : mustQueue s k = false := by
  unfold mustQueue
  rw [hreset, Bool.false_or, List.any_eq_false]
  intro j _
  by_cases e : j = k
  · simp [e]
  · obtain h | h := halone j e <;> simp [h]

variable (s k)

theorem OutsideMailboxes.runOrQueue {β : Type} {g : State → β} (hg : OutsideMailboxes g) : g (runOrQueue s k) = g s := by
  unfold Machine.runOrQueue
  dsimp only
  split
  · rw [hg.gen, hg.mb]
  · split
    · rw [hg.answer, hg.gen, hg.mb]
    · rw [hg.gen, hg.mb]

theorem getMb_runOrQueue_other {j : Fin 16} (h : k ≠ j) : getMb (runOrQueue s k) j = getMb s j := by
  unfold runOrQueue
  dsimp only
  split
  · rw [getMb_bumpGen, getMb_modMb_other _ _ h]
  · split
    · rw [getMb_answer_other _ _ _ _ _ h, getMb_bumpGen, getMb_modMb_other _ _ h]
    · rw [getMb_bumpGen, getMb_modMb_other _ _ h]

theorem OutsideMailboxes.promote {β : Type} {g : State → β} (hg : OutsideMailboxes g) : g (promote s) = g s := by
  refine foldl_field g (fun t j => ?_) _ s
  unfold promoteOne
  split
  · rfl
  · exact hg.runOrQueue t j

end

theorem mem_byOrder {s : State} {k j : Fin 16} : ∀ {l : List (Fin 16)}, j ∈ byOrder s k l → j = k ∨ j ∈ l
  | [], h => .inl (List.mem_singleton.mp h)
  | a :: t, h => by
    unfold byOrder at h
    split at h
    · exact List.mem_cons.mp h
    · obtain rfl | ht := List.mem_cons.mp h
      · exact .inr List.mem_cons_self
      · exact (mem_byOrder ht).imp_right (List.mem_cons_of_mem _)

theorem mem_foldr_byOrder {s : State} {j : Fin 16} : ∀ {l : List (Fin 16)}, j ∈ l.foldr (byOrder s) [] → j ∈ l
  | [], h => h
  | _ :: _, h => (mem_byOrder h).elim (fun e => e ▸ List.mem_cons_self) fun ht => List.mem_cons_of_mem _ (mem_foldr_byOrder ht)

theorem queued_of_mem {s : State} {j : Fin 16} (h : j ∈ queuedMailboxes s) : (getMb s j).own = true ∧ (getMb s j).phase = 1 := by
  simpa using (List.mem_filter.mp (mem_foldr_byOrder h)).2

/-- Starting what waits leaves a mailbox alone that holds no queued command. -/
theorem getMb_promote_of_released {s : State} {k : Fin 16} (h : (getMb s k).own = false) : getMb (promote s) k = getMb s k := by
  have hfold : ∀ (l : List (Fin 16)) (t : State), k ∉ l → getMb (l.foldl promoteOne t) k = getMb t k := by
    intro l
    induction l with
    | nil => exact fun _ _ => rfl
    | cons j l ih =>
      intro t hk
      obtain ⟨hj, hl⟩ := not_or.mp (mt List.mem_cons.mpr hk)
      rw [List.foldl_cons, ih _ hl]
      unfold promoteOne
      split
      · rfl
      · exact getMb_runOrQueue_other _ _ (Ne.symm hj)
  exact hfold _ s fun hk => Bool.false_ne_true (h.symm.trans (queued_of_mem hk).1)


theorem promote_refuse_keeps {β : Type} {g : State → β} (hg : OutsideMailboxes g) (s : State) (k : Fin 16) (st : BitVec 16) :
    g (promote (refuse s k st)) = g s := (hg.promote _).trans (hg.answer ..)

theorem getMb_promote_refuse (s : State) (k : Fin 16) (st : BitVec 16) :
    getMb (promote (refuse s k st)) k = (getMb s k).answered st [] 0 (answerCheck s k st []) := by
  have hrefuse : getMb (refuse s k st) k = _ := getMb_answer_same s k st [] 0
  rw [getMb_promote_of_released (by rw [hrefuse, Mailbox.own_answered]), hrefuse]

/-! ### The end of a command -/

/-- A command that has ended is answered, a new key holds (R302), and what waited for it may start (R292). -/
def completed (s : State) (k : Fin 16) (st : BitVec 16) (resp : List Byte) (n : BitVec 32) : State :=
  let t := answer s k st resp n
  if (getMb s k).code == 0xC2 then modReg t fun r => { r with key := r.newKey.getD r.key, newKey := none } else t

section
variable {s : State} {k : Fin 16} {st : BitVec 16} {resp : List Byte} {n : BitVec 32}

theorem exec_commandComplete (h : (getMb s k).result = some (st, resp, n)) :
    exec (.commandComplete k) s = .next (promote (completed s k st resp n)) := by
  show execCommandComplete k s = _
  unfold execCommandComplete
  rw [h]
  rfl

theorem exec_commandComplete_running (h : (getMb s k).result = none) : exec (.commandComplete k) s = .next s := by
  show execCommandComplete k s = _
  unfold execCommandComplete
  rw [h]

variable (s k st resp n)

/-- A new key apart, a command's end leaves what its answer leaves. -/
theorem completed_keeps {β : Type} (g : State → β)
    (hkey : ∀ t (a : Registrar → List Byte) b, g (modReg t fun r => { r with key := a r, newKey := b }) = g t) :
    g (completed s k st resp n) = g (answer s k st resp n) := by
  unfold completed
  dsimp only
  split
  · exact hkey ..
  · rfl

theorem key_completed : (completed s k st resp n).reg.key =
    if (getMb s k).code = 0xC2 then s.reg.newKey.getD s.reg.key else s.reg.key := by
  have hkey : (answer s k st resp n).reg.key = s.reg.key :=
    (outsideMailboxes_reg (·.key) (fun _ _ => rfl) (fun _ _ => rfl)).answer ..
  have hnew : (answer s k st resp n).reg.newKey = s.reg.newKey :=
    (outsideMailboxes_reg (·.newKey) (fun _ _ => rfl) (fun _ _ => rfl)).answer ..
  unfold completed
  dsimp only
  by_cases hcode : (getMb s k).code = 0xC2
  · rw [if_pos (beq_iff_eq.mpr hcode), if_pos hcode, modReg_reg, hkey, hnew]
  · rw [if_neg (mt beq_iff_eq.mp hcode), if_neg hcode, hkey]

theorem getMb_promote_completed :
    getMb (promote (completed s k st resp n)) k = (getMb s k).answered st resp n (answerCheck s k st resp) := by
  have hmb : getMb (completed s k st resp n) k = _ :=
    (completed_keeps s k st resp n (getMb · k) (fun _ _ _ => rfl)).trans (getMb_answer_same ..)
  rw [getMb_promote_of_released (by rw [hmb, Mailbox.own_answered]), hmb]

theorem promote_completed_keeps {β : Type} {g : State → β} (hg : OutsideMailboxes g)
    (hkey : ∀ t (a : Registrar → List Byte) b, g (modReg t fun r => { r with key := a r, newKey := b }) = g t) :
    g (promote (completed s k st resp n)) = g s :=
  (hg.promote _).trans ((completed_keeps s k st resp n g hkey).trans (hg.answer ..))

end

/-- Settles O38: the mailbox as its answer leaves it, and what neither the answer nor the start of a waiting command touches. -/
theorem commandsEnd : Obligations.CommandsEnd := by
  intro s k
  refine ⟨fun st resp n h => ?answered, exec_commandComplete_running, fun hown hphase => ?timeout, fun hlocked => ⟨fun hover => ?_,
    fun hbefore => ?_⟩⟩
  case answered =>
    refine ⟨_, exec_commandComplete h, ?_, ?_, ?_, promote_completed_keeps _ _ _ _ _ outsideMailboxes_cores (fun _ _ _ => rfl),
      promote_completed_keeps _ _ _ _ _ outsideMailboxes_mem (fun _ _ _ => rfl),
      promote_completed_keeps _ _ _ _ _ (outsideMailboxes_reg (·.jobs) (fun _ _ => rfl) (fun _ _ => rfl)) (fun _ _ _ => rfl),
      fun hkept => ?_, ?_⟩
    · rw [getMb_promote_completed, Mailbox.own_answered]
    · rw [getMb_promote_completed, Mailbox.phase_answered]
    · rw [getMb_promote_completed, Mailbox.result_answered]
    · rw [getMb_promote_completed, Mailbox.answered_of_kept _ _ _ _ hkept]
      refine ⟨rfl, rfl, rfl, rfl, fun hk howner => ?_⟩
      exact (if_pos hk).trans (congrArg (memWrite [] 0) (if_neg howner))
    · rw [(outsideMailboxes_reg (·.key) (fun _ _ => rfl) (fun _ _ => rfl)).promote]
      exact key_completed ..
  case timeout =>
    have hexec : exec (.queuedTimeout k) s = .next (promote (refuse s k stBusy)) :=
      congrArg Host.Outcome.next (if_pos (by simp [hown, hphase]))
    refine ⟨_, hexec, ?_, ?_, promote_refuse_keeps outsideMailboxes_cores .., promote_refuse_keeps outsideMailboxes_mem ..,
      fun hkept => ?_⟩
    · rw [getMb_promote_refuse, Mailbox.own_answered]
    · rw [getMb_promote_refuse, Mailbox.phase_answered]
    · rw [getMb_promote_refuse]
      exact ⟨Mailbox.status_answered _ _ _ _ hkept, Mailbox.rlen_answered _ _ _ _ hkept⟩
  · exact congrArg Host.Outcome.next (if_pos ⟨hlocked, hover⟩)
  · exact congrArg Host.Outcome.next (if_neg fun h => absurd h.2 (Nat.not_le.mpr hbefore))

/-! ### The checks of a posted command -/

section
variable {s : State} {fn : Fin 9} {n k : Fin 16} {ctrl : BitVec 32}

theorem execMailboxOwnWrite_held
    (hat : mailboxAt s fn n.val = some k) (hown : (getMb s k).own = true) (hcancel : bit ctrl 1 = false) :
    execMailboxOwnWrite fn n ctrl s = .next s := by
  unfold execMailboxOwnWrite
  split
  · rfl
  · rw [hat]
    dsimp only
    rw [if_pos hown, if_neg (by simp [hcancel])]

/-- A command posted while Ikied takes none waits (R296). -/
theorem execMailboxOwnWrite_waits (hdec : decodes s fn = true) (hserved : mailboxesServed s = true)
    (hat : mailboxAt s fn n.val = some k) (hown : (getMb s k).own = false) (hbit : bit ctrl 0 = true)
    (htakes : takesCommands s = false) :
    execMailboxOwnWrite fn n ctrl s = .next (modMb s k (Mailbox.posted ctrl)) := by
  have htakes' : ¬takesCommands (modMb s k (Mailbox.posted ctrl)) = true := fun h => Bool.false_ne_true (htakes.symm.trans h)
  unfold execMailboxOwnWrite
  rw [if_neg (by simp [hdec, hserved, hbit]), hat]
  dsimp only
  rw [if_neg (by simp [hown])]
  exact congrArg Host.Outcome.next (if_neg htakes')

theorem execMailboxCancel_at (hdec : decodes s fn = true) (hserved : mailboxesServed s = true)
    (hat : mailboxAt s fn n.val = some k) : execMailboxCancel fn n s = .next (cancelIn s k) := by
  unfold execMailboxCancel
  rw [if_neg (by simp [hdec, hserved]), hat]

theorem cancelIn_posted (hown : (getMb s k).own = true) (hphase : (getMb s k).phase = 0) :
    cancelIn s k = modMb s k fun m => { m with cancel := true } := by
  simp [cancelIn, hown, hphase]

theorem cancelIn_queued (hown : (getMb s k).own = true) (hphase : (getMb s k).phase = 1) :
    cancelIn s k = promote (refuse s k stCancelled) := by
  simp [cancelIn, hown, hphase]

theorem cancelIn_running (hphase : (getMb s k).phase = 2) : cancelIn s k = s := by
  simp [cancelIn, hphase]

end

section
variable {u v : State} {k : Fin 16} {ctrl : BitVec 32}

theorem see_cancelled (hcancel : (getMb u k).cancel = true) : see u k ctrl = refuse u k stCancelled := if_pos hcancel

theorem see_accepts (hcancel : (getMb u k).cancel = false) (hjudge : judge u k ctrl = (v, 0)) : see u k ctrl = accept v k := by
  unfold see
  dsimp only
  rw [if_neg (by simp [hcancel]), hjudge, if_pos rfl]

theorem judge_of_unknown (hknown : knownCodes.contains (getMb u k).code.toNat = false) : judge u k ctrl = (u, stBadCode) := by
  unfold judge
  dsimp only
  rw [hknown]
  rfl

section
variable (hknown : knownCodes.contains (getMb u k).code.toNat = true)
include hknown

theorem judge_of_uncarried (hcarry : mayCarry u k (getMb u k) = false) : judge u k ctrl = (u, stNotOwner) := by
  unfold judge
  dsimp only
  rw [hknown, hcarry]
  rfl

variable (hcarry : mayCarry u k (getMb u k) = true) (hauth : authenticated u k = true)
include hcarry hauth

theorem judge_of_locked (hlocked : u.reg.ownerState = 2) : judge u k ctrl = (u, stLocked) := by
  unfold judge
  dsimp only
  rw [hknown, hcarry, hauth]
  exact if_pos hlocked

/-- The STATUS of a command that fails its authentication (R291, checks 3 and 4). -/
def authStatus (u : State) (k : Fin 16) (ctrl : BitVec 32) : BitVec 16 :=
  if commandCheck u.reg.key (getMb u k) ctrl ≠ memRead (getMb u k).check 0 24 then stBadCheck else stStale

omit hknown hcarry hauth in
theorem authStatus_ne_zero : authStatus u k ctrl ≠ 0 := by
  unfold authStatus
  split <;> decide

theorem judge_of_unauthentic (hunlocked : u.reg.ownerState ≠ 2)
    (hbad : commandCheck u.reg.key (getMb u k) ctrl ≠ memRead (getMb u k).check 0 24 ∨
      (getMb u k).counter.toNat ≤ u.reg.lastCtr.toNat) :
    judge u k ctrl = (authFail u (getMb u k) (authStatus u k ctrl), authStatus u k ctrl) := by
  unfold judge authStatus
  dsimp only
  rw [hknown, hcarry, hauth, if_neg hunlocked]
  by_cases hcheck : commandCheck u.reg.key (getMb u k) ctrl ≠ memRead (getMb u k).check 0 24
  · rw [if_pos hcheck, if_pos hcheck]
    rfl
  · rw [if_neg hcheck, if_neg hcheck, if_pos (hbad.resolve_left hcheck)]
    rfl

end
end

/-! ### Failed authentication -/

/-- A failed authentication, counted and recorded (R300). -/
def authCounted (s : State) (m : Mailbox) (st : BitVec 16) : State :=
  securityRecord (modReg s fun r => { r with fails := r.fails + 1 }) m 1 st

section
variable (s : State) (m : Mailbox) (st : BitVec 16)

theorem authCounted_keeps {β : Type} (g : State → β) (hrecord : ∀ t r, g (writeRecord t r) = g t)
    (hfails : ∀ t (a : Registrar → Nat), g (modReg t fun r => { r with fails := a r }) = g t) :
    g (authCounted s m st) = g s := (hrecord ..).trans (hfails s (·.fails + 1))

theorem fails_authCounted : (authCounted s m st).reg.fails = s.reg.fails + 1 :=
  writeRecord_keeps_reg (·.fails) (by intros; rfl) ..

theorem ownerState_authCounted : (authCounted s m st).reg.ownerState = s.reg.ownerState :=
  writeRecord_keeps_reg (·.ownerState) (by intros; rfl) ..

variable {s}

theorem authFail_below (h : s.reg.fails + 1 < 8) : authFail s m st = authCounted s m st :=
  if_pos ((fails_authCounted s m st).symm ▸ h)

/-- The eighth failure in a row locks the part and starts a new count (R300). -/
theorem authFail_eighth (h : 8 ≤ s.reg.fails + 1) :
    (authFail s m st).reg.fails = 0 ∧ (authFail s m st).reg.ownerState = 2 := by
  have hcount : ¬(authCounted s m st).reg.fails < 8 := (fails_authCounted s m st).symm ▸ Nat.not_lt.mpr h
  have heq : authFail s m st = _ := if_neg hcount
  rw [heq]
  exact ⟨rfl, rfl⟩

variable (s) in
theorem authFail_keeps {β : Type} (g : State → β) (hrecord : ∀ t r, g (writeRecord t r) = g t) (hgen : ∀ t, g (bumpGen t) = g t)
    (hreg : ∀ t (a : Registrar → BitVec 32) (b : Registrar → Nat) (c : Registrar → List Nat),
      g (modReg t fun r => { r with ownerState := a r, fails := b r, locks := c r }) = g t) : g (authFail s m st) = g s := by
  have hcounted : g (authCounted s m st) = g s := authCounted_keeps s m st g hrecord fun t a => hreg t (·.ownerState) a (·.locks)
  by_cases h : s.reg.fails + 1 < 8
  · rw [authFail_below m st h, hcounted]
  · have heq : authFail s m st = _ := if_neg ((fails_authCounted s m st).symm ▸ h)
    rw [heq, hgen]
    exact (hreg (authCounted s m st) (fun _ => 2) (fun _ => 0) _).trans hcounted

end

/-! ### Acceptance -/

/-- A mailbox whose command is the n-th accepted. -/
def Mailbox.accepted (n : Nat) (m : Mailbox) : Mailbox := { m with order := n, progress := 0, result := none, waiting := false }

/-- An accepted command before it is recorded, queued or run: it has its order, and the failure count is cleared (R291, R300). -/
def ordered (s : State) (k : Fin 16) : State :=
  modMb (modReg s fun r => { r with accepted := r.accepted + 1, fails := if k.val < 2 then 0 else r.fails }) k
    (Mailbox.accepted (s.reg.accepted + 1))

/-- An accepted command before it is queued or run: a critical one is recorded (R303). -/
def enlisted (s : State) (k : Fin 16) : State :=
  if isCritical (getMb (ordered s k) k) then securityRecord (ordered s k) (getMb (ordered s k) k) 0 0 else ordered s k

section
variable (s : State) (k : Fin 16)

theorem enlisted_keeps {β : Type} (g : State → β) (hrecord : ∀ t r, g (writeRecord t r) = g t) :
    g (enlisted s k) = g (ordered s k) := by
  unfold enlisted
  split
  · exact hrecord ..
  · rfl

@[simp] theorem getMb_enlisted_same : getMb (enlisted s k) k = (getMb s k).accepted (s.reg.accepted + 1) :=
  (enlisted_keeps s k (getMb · k) fun t r => getMb_writeRecord t r k).trans (getMb_modMb_same ..)

theorem getMb_enlisted_other {j : Fin 16} (h : k ≠ j) : getMb (enlisted s k) j = getMb s j :=
  (enlisted_keeps s k (getMb · j) fun t r => getMb_writeRecord t r j).trans (getMb_modMb_other _ _ h)

theorem resetDue_enlisted : (enlisted s k).reg.resetDue = s.reg.resetDue :=
  enlisted_keeps s k (·.reg.resetDue) (writeRecord_keeps_reg (·.resetDue) (by intros; rfl))

end

section
variable {s : State} {k : Fin 16}

theorem accept_eq (hcode : (getMb s k).code ≠ 0xC5) : accept s k = runOrQueue (enlisted s k) k := by
  have hcode' : ¬(getMb (enlisted s k) k).code = 0xC5 := by rw [getMb_enlisted_same]; exact hcode
  exact congrArg (runOrQueue · k) (if_neg hcode')

theorem accept_keeps (hcode : (getMb s k).code ≠ 0xC5) {β : Type} {g : State → β} (hg : OutsideMailboxes g)
    (hrecord : ∀ t r, g (writeRecord t r) = g t) : g (accept s k) = g (ordered s k) := by
  rw [accept_eq hcode, hg.runOrQueue, enlisted_keeps s k g hrecord]

theorem getMb_accept_other (hcode : (getMb s k).code ≠ 0xC5) {j : Fin 16} (h : k ≠ j) : getMb (accept s k) j = getMb s j := by
  rw [accept_eq hcode, getMb_runOrQueue_other _ _ h, getMb_enlisted_other _ _ h]

theorem mustQueue_enlisted_of_alone (hreset : s.reg.resetDue = false)
    (halone : ∀ j, j ≠ k → (getMb s j).own = false ∨ (getMb s j).phase = 0) : mustQueue (enlisted s k) k = false :=
  mustQueue_of_alone (resetDue_enlisted s k ▸ hreset) fun j hj => getMb_enlisted_other s k hj.symm ▸ halone j hj

/-- An accepted command other than NOP is QUEUED, or RUNNING where it waits for none. -/
theorem getMb_accept_same (hcode : (getMb s k).code ≠ 0xC5) (hnop : (getMb s k).code ≠ 1) : ∃ p : BitVec 2,
    getMb (accept s k) k = { (getMb s k).accepted (s.reg.accepted + 1) with phase := p } ∧ (p = 1 ∨ p = 2) ∧
    (mustQueue (enlisted s k) k = false → p = 2) := by
  rw [accept_eq hcode]
  cases hqueue : mustQueue (enlisted s k) k with
  | true =>
    refine ⟨1, ?_, .inl rfl, fun h => Bool.noConfusion h⟩
    rw [runOrQueue_of_mustQueue hqueue, getMb_bumpGen, getMb_modMb_same, getMb_enlisted_same]
  | false =>
    refine ⟨2, ?_, .inr rfl, fun _ => rfl⟩
    rw [runOrQueue_of_free hqueue (by rw [getMb_enlisted_same]; exact hnop), getMb_bumpGen, getMb_modMb_same, getMb_enlisted_same]

/-- A NOP that waits for none is answered at once. -/
theorem getMb_accept_nop (hnop : (getMb s k).code = 1) (hkept : (getMb s k).aband = false)
    (hfree : mustQueue (enlisted s k) k = false) :
    (getMb (accept s k) k).own = false ∧ (getMb (accept s k) k).status = 0 ∧ (getMb (accept s k) k).rlen = 0 := by
  have hcode : (getMb s k).code ≠ 0xC5 := by rw [hnop]; decide
  rw [accept_eq hcode, runOrQueue_nop hfree (by rw [getMb_enlisted_same]; exact hnop), getMb_answer_same, getMb_bumpGen,
    getMb_modMb_same, getMb_enlisted_same]
  exact ⟨Mailbox.own_answered .., Mailbox.status_answered _ _ _ _ hkept, Mailbox.rlen_answered _ _ _ _ hkept⟩

end

/-! ### What a posted command comes to -/

/-- Of the Registrar, whatever a record leaves and is no mailbox: LAST_CTR, the jobs and the counts of commands among it. -/
structure OutsideCommands {β : Type} (g : State → β) : Prop extends OutsideMailboxes g where
  record : ∀ s r, g (writeRecord s r) = g s

theorem outsideCommands_cores : OutsideCommands (·.cores) := ⟨outsideMailboxes_cores, writeRecord_cores⟩

theorem outsideCommands_mem : OutsideCommands (·.mem) := ⟨outsideMailboxes_mem, writeRecord_mem⟩

theorem outsideCommands_reg {β : Type} (g : Registrar → β) (hmb : ∀ r v, g { r with mailboxes := v } = g r)
    (hrecord : ∀ r a b c d e, g { r with errNext := a, ring := b, errLost := c, journal := d, invGen := e } = g r) :
    OutsideCommands fun s => g s.reg :=
  ⟨outsideMailboxes_reg g hmb fun r n => hrecord r r.errNext r.ring r.errLost r.journal n, writeRecord_keeps_reg g hrecord⟩

theorem outsideCommands_jobs : OutsideCommands (·.reg.jobs) := outsideCommands_reg (·.jobs) (fun _ _ => rfl) (by intros; rfl)

theorem outsideCommands_accepted : OutsideCommands (·.reg.accepted) :=
  outsideCommands_reg (·.accepted) (fun _ _ => rfl) (by intros; rfl)

theorem outsideCommands_fails : OutsideCommands (·.reg.fails) := outsideCommands_reg (·.fails) (fun _ _ => rfl) (by intros; rfl)

theorem outsideCommands_lastCtr : OutsideCommands (·.reg.lastCtr) :=
  outsideCommands_reg (·.lastCtr) (fun _ _ => rfl) (by intros; rfl)

theorem outsideCommands_ownerState : OutsideCommands (·.reg.ownerState) :=
  outsideCommands_reg (·.ownerState) (fun _ _ => rfl) (by intros; rfl)

/-- A refused authentication leaves what holds no mailbox, no record and no count or state of it. -/
theorem OutsideCommands.refuse_authFail {β : Type} {g : State → β} (hg : OutsideCommands g)
    (hreg : ∀ t (a : Registrar → BitVec 32) (b : Registrar → Nat) (c : Registrar → List Nat),
      g (modReg t fun r => { r with ownerState := a r, fails := b r, locks := c r }) = g t)
    (s : State) (m : Mailbox) (k : Fin 16) (st : BitVec 16) : g (refuse (authFail s m st) k st) = g s :=
  (hg.answer ..).trans (authFail_keeps s m st g hg.record hg.gen hreg)

theorem status_refuse_authFail (s : State) (k : Fin 16) (st : BitVec 16) (hkept : (getMb s k).aband = false) :
    (getMb (refuse (authFail s (getMb s k) st) k st) k).status = st := by
  have hmb : getMb (authFail s (getMb s k) st) k = getMb s k :=
    authFail_keeps s (getMb s k) st (getMb · k) (fun t r => getMb_writeRecord t r k) (fun _ => rfl) fun _ _ _ _ => rfl
  have hanswer : getMb (refuse (authFail s (getMb s k) st) k st) k = _ := getMb_answer_same ..
  rw [hanswer, hmb, Mailbox.answered_of_kept _ _ _ _ hkept]

/-- The state in which the later checks of a command are made, after the authentication that it needs and passes. -/
def Passes (s u v : State) (k : Fin 16) (m : Mailbox) (ctrl : BitVec 32) : Prop :=
  (authenticated s k = false ∧ v = u) ∨ (authenticated s k = true ∧ s.reg.ownerState ≠ 2 ∧
    commandCheck s.reg.key m ctrl = memRead m.check 0 24 ∧ s.reg.lastCtr.toNat < m.counter.toNat ∧ v = consume u m)

section
variable {s u v : State} {k : Fin 16} {m : Mailbox} {ctrl : BitVec 32}

/-- Passing the authentication changes LAST_CTR and CTR_HIGH. -/
theorem Passes.keeps (h : Passes s u v k m ctrl) {β : Type} (g : State → β) (hgen : ∀ t, g (bumpGen t) = g t)
    (hctr : ∀ t (a b : Registrar → BitVec 64), g (modReg t fun r => { r with lastCtr := a r, ctrHigh := b r }) = g t) :
    g v = g u := by
  obtain ⟨-, rfl⟩ | ⟨-, -, -, -, rfl⟩ := h
  · rfl
  · exact (hgen _).trans (hctr ..)

theorem Passes.getMb (h : Passes s u v k m ctrl) (j : Fin 16) : getMb v j = Machine.getMb u j :=
  h.keeps (Machine.getMb · j) (fun _ => rfl) fun _ _ _ => rfl

theorem Passes.lastCtr (h : Passes s u v k m ctrl) (hauth : authenticated s k = true) : v.reg.lastCtr = m.counter := by
  obtain ⟨hfree, -⟩ | ⟨-, -, -, -, rfl⟩ := h
  · exact absurd (hfree.symm.trans hauth) Bool.false_ne_true
  · rfl

end

/-! ### The posted command's outcome -/

section
variable {s u v : State} {k : Fin 16} {ctrl : BitVec 32}

/-- A posted command that fails its authentication is refused, and the failure counted (R300). -/
theorem refused_of_unauthentic (hu : u = modMb s k (Mailbox.posted ctrl)) {st : BitVec 16} {t : State}
    (ht : t = refuse (authFail u (getMb u k) st) k st) :
    t.cores = s.cores ∧ t.mem = s.mem ∧ t.reg.lastCtr = s.reg.lastCtr ∧
    ((getMb u k).aband = false → (getMb t k).status = st) ∧
    (s.reg.fails + 1 < 8 → t.reg.fails = s.reg.fails + 1 ∧ t.reg.ownerState = s.reg.ownerState) ∧
    (8 ≤ s.reg.fails + 1 → t.reg.fails = 0 ∧ t.reg.ownerState = 2) := by
  have hfails : u.reg.fails = s.reg.fails := hu ▸ rfl
  have hcount : t.reg.fails = (authFail u (getMb u k) st).reg.fails := ht ▸ outsideCommands_fails.answer ..
  have howner : t.reg.ownerState = (authFail u (getMb u k) st).reg.ownerState := ht ▸ outsideCommands_ownerState.answer ..
  have hkeeps : ∀ {β : Type} {g : State → β}, OutsideCommands g → (∀ t (a : Registrar → BitVec 32) (b : Registrar → Nat)
      (c : Registrar → List Nat), g (modReg t fun r => { r with ownerState := a r, fails := b r, locks := c r }) = g t) →
      g t = g s :=
    fun hg hreg => ht ▸ (hg.refuse_authFail hreg ..).trans (hu ▸ hg.mb ..)
  refine ⟨hkeeps outsideCommands_cores fun _ _ _ _ => rfl, hkeeps outsideCommands_mem fun _ _ _ _ => rfl,
    hkeeps outsideCommands_lastCtr fun _ _ _ _ => rfl, fun hkept => ht ▸ status_refuse_authFail _ _ _ hkept,
    fun hbelow => ?_, fun heighth => ?_⟩
  · rw [hcount, howner, authFail_below _ _ (by rwa [hfails]), fails_authCounted, ownerState_authCounted, hfails, hu]
    exact ⟨rfl, rfl⟩
  · rw [hcount, howner]
    exact authFail_eighth _ _ (by rwa [hfails])

/-- A posted command that passes the checks is accepted, and queued, run, or answered (R291, R294, R300). -/
theorem accepted_of_passes (hu : u = modMb s k (Mailbox.posted ctrl)) (hpass : Passes s u v k (getMb u k) ctrl)
    (hcode : (getMb u k).code ≠ 0xC5) {t : State} (ht : t = accept v k) :
    t.cores = s.cores ∧ t.mem = s.mem ∧ t.reg.jobs = s.reg.jobs ∧ t.reg.accepted = s.reg.accepted + 1 ∧
    (k.val < 2 → t.reg.fails = 0) ∧ (authenticated s k = true → t.reg.lastCtr = (getMb u k).counter) ∧
    (∀ j, j ≠ k → getMb t j = getMb s j) ∧
    ((getMb u k).code ≠ 1 → (getMb t k).own = true ∧ (getMb t k).order = s.reg.accepted + 1 ∧ (getMb t k).result = none ∧
      ((getMb t k).phase = 1 ∨ (getMb t k).phase = 2) ∧
      (s.reg.resetDue = false → (∀ j, j ≠ k → (getMb s j).own = false ∨ (getMb s j).phase = 0) → (getMb t k).phase = 2)) ∧
    ((getMb u k).code = 1 → (getMb u k).aband = false → s.reg.resetDue = false →
      (∀ j, j ≠ k → (getMb s j).own = false ∨ (getMb s j).phase = 0) →
      (getMb t k).own = false ∧ (getMb t k).status = 0 ∧ (getMb t k).rlen = 0) := by
  have hother : ∀ j, j ≠ k → getMb v j = getMb s j := fun j hj => (hpass.getMb j).trans (hu ▸ getMb_modMb_other _ _ hj.symm)
  have hown : (getMb v k).own = true := by rw [hpass.getMb, hu, getMb_modMb_same]; rfl
  have hvcode : (getMb v k).code ≠ 0xC5 := by rwa [hpass.getMb]
  have hordered : ∀ {β : Type} {g : State → β}, OutsideCommands g → g t = g (ordered v k) :=
    fun hg => ht ▸ accept_keeps hvcode hg.toOutsideMailboxes hg.record
  have hcount : v.reg.accepted = s.reg.accepted :=
    (hpass.keeps (·.reg.accepted) (fun _ => rfl) fun _ _ _ => rfl).trans (hu ▸ rfl)
  have hfree : s.reg.resetDue = false → (∀ j, j ≠ k → (getMb s j).own = false ∨ (getMb s j).phase = 0) →
      mustQueue (enlisted v k) k = false := by
    refine fun hreset halone => mustQueue_enlisted_of_alone ?_ fun j hj => hother j hj ▸ halone j hj
    exact (hpass.keeps (·.reg.resetDue) (fun _ => rfl) fun _ _ _ => rfl).trans (hu ▸ hreset)
  refine ⟨(hordered outsideCommands_cores).trans ((hpass.keeps (·.cores) bumpGen_cores fun _ _ _ => rfl).trans (hu ▸ rfl)),
    (hordered outsideCommands_mem).trans ((hpass.keeps (·.mem) bumpGen_mem fun _ _ _ => rfl).trans (hu ▸ rfl)),
    (hordered outsideCommands_jobs).trans ((hpass.keeps (·.reg.jobs) (fun _ => rfl) fun _ _ _ => rfl).trans (hu ▸ rfl)),
    (hordered outsideCommands_accepted).trans (congrArg (· + 1) hcount),
    fun hk => (hordered outsideCommands_fails).trans (if_pos hk),
    fun hauth => (hordered outsideCommands_lastCtr).trans (hpass.lastCtr hauth),
    fun j hj => ht ▸ (getMb_accept_other hvcode hj.symm).trans (hother j hj), fun hnop => ?_,
    fun hnop hkept hreset halone => ht ▸ getMb_accept_nop (by rwa [hpass.getMb]) (by rwa [hpass.getMb]) (hfree hreset halone)⟩
  obtain ⟨p, heq, hp, hrun⟩ := getMb_accept_same hvcode (by rwa [hpass.getMb])
  rw [ht, heq, hcount]
  exact ⟨hown, rfl, rfl, hp, fun hreset halone => hrun (hfree hreset halone)⟩

end

/-- Settles O37: the checks in the order of `judge`, and the mailbox and counts that a refusal or acceptance leaves. -/
theorem mailboxTakesCommands : Obligations.MailboxTakesCommands := by
  intro s fn n k ctrl hdec hserved hat
  have hcancels := execMailboxCancel_at hdec hserved hat
  refine ⟨fun hown => ⟨execMailboxOwnWrite_held hat hown, fun hphase => hcancels.trans (congrArg _ (cancelIn_posted hown hphase)),
    fun hphase => hcancels.trans (congrArg _ (cancelIn_queued hown hphase)),
    fun hphase => hcancels.trans (congrArg _ (cancelIn_running hphase))⟩, fun u m hu hm hown hbit => ?_⟩
  subst hm
  have hcancel : (getMb u k).cancel = bit ctrl 1 := by rw [hu, getMb_modMb_same]
  have hreg : u.reg = { s.reg with mailboxes := u.reg.mailboxes } := hu ▸ rfl
  have hsees : takesCommands s = true → exec (.mailboxOwnWrite fn n ctrl) s = .next (see u k ctrl) :=
    fun htakes => hu ▸ execMailboxOwnWrite_posts hdec hserved hat hown hbit htakes
  refine ⟨fun hbusy => hu ▸ execMailboxOwnWrite_waits hdec hserved hat hown hbit hbusy,
    fun htakes hset => (hsees htakes).trans (congrArg _ (see_cancelled (hcancel.trans hset))), fun htakes hclear => ?_⟩
  have hlive : (getMb u k).cancel = false := hcancel.trans hclear
  have hrefused : ∀ {v st}, judge u k ctrl = (v, st) → st ≠ 0 →
      exec (.mailboxOwnWrite fn n ctrl) s = .next (refuse v k st) :=
    fun hjudge hst => (hsees htakes).trans (congrArg _ (see_of_failed_check hlive hjudge hst))
  refine ⟨fun hunknown => hrefused (judge_of_unknown hunknown) (by decide), fun hknown =>
    ⟨fun hcarry => hrefused (judge_of_uncarried hknown hcarry) (by decide), fun hcarry => ⟨fun hauth => ?_, fun v hv => ?_⟩⟩⟩
  · have hauth' : authenticated u k = true := by rw [authenticated, hreg]; exact hauth
    refine ⟨fun hlocked => hrefused (judge_of_locked hknown hcarry hauth' (by rw [hreg]; exact hlocked)) (by decide),
      fun hunlocked hbad => ?_⟩
    have hjudge := judge_of_unauthentic (ctrl := ctrl) hknown hcarry hauth' (by rw [hreg]; exact hunlocked) (by rw [hreg]; exact hbad)
    have hstatus : authStatus u k ctrl =
        if commandCheck s.reg.key (getMb u k) ctrl ≠ memRead (getMb u k).check 0 24 then stBadCheck else stStale := by
      rw [authStatus, hreg]
    refine ⟨_, hrefused hjudge authStatus_ne_zero, ?_⟩
    rw [hstatus]
    exact refused_of_unauthentic hu rfl
  · have hjudge : judge u k ctrl = (v, laterChecks v (getMb v k)) := by
      refine judge_of_authentic hknown hcarry ?_
      rw [authenticated, hreg]
      exact hv
    exact ⟨hrefused hjudge, fun hchecks hcode =>
      ⟨_, (hsees htakes).trans (congrArg _ (see_accepts hlive (hchecks ▸ hjudge))), accepted_of_passes hu hv hcode rfl⟩⟩

end Sys2Proof.Machine
end

section
/-!
REGWR (R305 to R307): where the register of an address lies in the allow-list, what an entry under its mask writes, and the
writes that act: run masks, injection, lace and memory retraining, retirement, sensors.
-/
namespace Sys2Proof.Machine

/-! ### Commands that run -/

/-- A command that runs and passes its checks has its effect. -/
theorem command_of_passed {s : State} {k : Fin 16} {code : Nat} {allow : State → Mailbox → BitVec 16}
    {effect : State → Mailbox → State} (hrun : running s k code = true) (hallow : allow s (getMb s k) = 0) :
    command s k code allow effect = .next (effect s (getMb s k)) := by
  unfold command
  rw [if_pos hrun, if_pos hallow]

@[simp] theorem result_endsWith (s : State) (k : Fin 16) (st : BitVec 16) (resp : List Byte) (n : Nat) :
    (getMb (endsWith s k st resp n) k).result = some (st, resp, BitVec.ofNat 32 n) :=
  congrArg Mailbox.result (getMb_modMb_same ..)

section
variable {s : State} {k : Fin 16} {e : RegwrEntry} (hrun : running s k 0x91 = true)
include hrun

theorem exec_regwr : exec (.regwr k) s = .next (regwrEffect k s (getMb s k)) := command_of_passed hrun rfl

/-- A REGWR of one entry that may be written. -/
theorem regwrOf_single {hit : RegwrEntry → Bool} (hentries : [e] = regwrEntries (getMb s k))
    (hcheck : regwrCheck s e.addr e.data e.mask = 0) (hhit : hit e = true) :
    regwrOf s k hit = .next (ends (regwrApply s e.addr e.data e.mask) k 0 (leBytes 4 0xFFFFFFFF ++ [0, 0, 0, 0])) := by
  have hfree : (regwrEntries (getMb s k)).zipIdx.find? (fun e => regwrCheck s e.1.addr e.1.data e.1.mask != 0) = none := by
    simp [← hentries, hcheck]
  unfold regwrOf
  rw [if_pos (by simp [← hentries, hhit]), command_of_passed hrun rfl, regwrEffect, hfree, ← hentries]
  rfl

end

/-! ### Where a register lies -/

theorem rowAt_of_index {a n i : Nat} {r : RegRow} : ∀ {l : List RegRow}, l[n]? = some r →
    ((l.take n).all fun x => (x.at a).isNone) = true → r.at a = some i → rowAt a l = some (r, i) := by
  induction n with
  | zero =>
    intro l hr _ hat
    cases l with
    | nil => cases hr
    | cons x t =>
      obtain rfl : x = r := Option.some.inj hr
      rw [rowAt, hat]
  | succ n ih =>
    intro l hr hmiss hat
    cases l with
    | nil => cases hr
    | cons x t =>
      rw [List.take_succ_cons, List.all_cons, Bool.and_eq_true] at hmiss
      rw [rowAt, Option.isNone_iff_eq_none.mp hmiss.1]
      exact ih hr hmiss.2 hat

/-- A register array that lies outside the addresses lo to hi - 1. -/
def RegRow.apart (lo hi : Nat) (r : RegRow) : Bool :=
  decide (0 < r.step) && (decide (r.addr + r.step * r.inst ≤ lo) || decide (hi ≤ r.addr))

theorem RegRow.at_of_apart {lo hi a : Nat} {r : RegRow} (h : r.apart lo hi = true) (hlo : lo ≤ a) (hhi : a < hi) : r.at a = none := by
  obtain ⟨hstep, hplace⟩ : 0 < r.step ∧ (r.addr + r.step * r.inst ≤ lo ∨ hi ≤ r.addr) := by simpa [RegRow.apart] using h
  refine if_neg fun ⟨hle, _, hinst⟩ => ?_
  obtain hbelow | habove := hplace
  · have hlt : a - r.addr < r.inst * r.step := (Nat.div_lt_iff_lt_mul hstep).mp hinst
    have hcomm := Nat.mul_comm r.inst r.step
    omega
  · omega

theorem blockCore_coreBase (c : CoreId) {n : Nat} (hn : n < 0x1000000) : blockCore (coreBase c + n) = some c := by
  have hc := c.isLt
  unfold blockCore coreBase
  rw [if_pos (by omega)]
  refine congrArg some (Fin.ext ?_)
  simp only [coreOf]
  omega

/-- The registers outside the cores' control blocks. -/
def deviceRows : List RegRow := lacRows ++ memRows ++ portRows ++ pwrRows ++ clkRows ++ thmRows ++ pmuRows

/-- JOB_SEQ_RUN. -/
def seqRunRow (c : CoreId) : RegRow := (coreRows c)[2]'(by decide +revert)

/-- LAST_INJ of the four Lasts. -/
def lastInjRow (c : CoreId) : RegRow := (coreRows c)[29]'(by decide +revert)

/-- LAC_LINK_CTRL of the links with laces. -/
def linkCtrlRow : RegRow := lacRows[10]'(by decide)

/-- MEM_CTRL. -/
def memCtrlRow : RegRow := memRows[8]'(by decide)

/-- THM_SENS of the sensors of region r. -/
def sensorRow (r : Fin 15) : RegRow := thmRows[3 + r.val]'(Nat.add_lt_add_left r.isLt 3)

section
variable (c : CoreId) (i : Fin 4) (n : Fin 17) (r : Fin 15)

theorem regAt_seqRun : regAt (coreBase c + 0x10) = some (seqRunRow c, 0) := by
  have hat : (seqRunRow c).at (coreBase c + 0x10) = some 0 := by
    revert c
    decide +kernel
  have hmiss : (((coreRows c).take 2).all fun x => (x.at (coreBase c + 0x10)).isNone) = true := by
    revert c
    decide +kernel
  rw [regAt, blockCore_coreBase c (by decide)]
  exact rowAt_of_index rfl hmiss hat

theorem regAt_lastInj : regAt (coreBase c + 0x900028 + 0x10000 * i.val) = some (lastInjRow c, i.val) := by
  have hat : (lastInjRow c).at (coreBase c + 0x900028 + 0x10000 * i.val) = some i.val := by
    revert c i
    decide +kernel
  have hmiss : (((coreRows c).take 29).all fun x => (x.at (coreBase c + 0x900028 + 0x10000 * i.val)).isNone) = true := by
    revert c i
    decide +kernel
  rw [regAt, Nat.add_assoc, blockCore_coreBase c (by omega)]
  exact rowAt_of_index rfl (Nat.add_assoc .. ▸ hmiss) (Nat.add_assoc .. ▸ hat)

theorem regAt_linkCtrl : regAt (0x0F0010001020 + 0x40 * n.val) = some (linkCtrlRow, n.val) := by
  have hblock : blockCore (0x0F0010001020 + 0x40 * n.val) = none := by
    revert n
    decide +kernel
  have hat : linkCtrlRow.at (0x0F0010001020 + 0x40 * n.val) = some n.val := by
    revert n
    decide +kernel
  have hmiss : ((deviceRows.take 10).all fun x => (x.at (0x0F0010001020 + 0x40 * n.val)).isNone) = true := by
    revert n
    decide +kernel
  rw [regAt, hblock]
  exact rowAt_of_index rfl hmiss hat

theorem regAt_memCtrl : regAt 0x0F0011000040 = some (memCtrlRow, 0) := by
  have hblock : blockCore 0x0F0011000040 = none := by decide +kernel
  have hat : memCtrlRow.at 0x0F0011000040 = some 0 := by decide +kernel
  have hmiss : ((deviceRows.take 35).all fun x => (x.at 0x0F0011000040).isNone) = true := by decide +kernel
  rw [regAt, hblock]
  exact rowAt_of_index rfl hmiss hat

theorem regAt_sensor {j : Fin 16} (hj : j.val < sensorCount r) :
    regAt (0x0F0012003200 + 0x80 * r.val + 8 * j.val) = some (sensorRow r, j.val) := by
  have hblock : blockCore (0x0F0012003200 + 0x80 * r.val + 8 * j.val) = none := by
    revert r j
    decide +kernel
  have hat : (sensorRow r).at (0x0F0012003200 + 0x80 * r.val + 8 * j.val) = some j.val := by
    revert r j
    decide +kernel
  have hapart : ((deviceRows.take (98 + r.val)).all
      (RegRow.apart (0x0F0012003200 + 0x80 * r.val) (0x0F0012003200 + 0x80 * r.val + 0x80))) = true := by
    clear hat hblock hj
    revert r
    decide +kernel
  have hmiss : ((deviceRows.take (98 + r.val)).all fun x =>
      (x.at (0x0F0012003200 + 0x80 * r.val + 8 * j.val)).isNone) = true :=
    List.all_eq_true.mpr fun x hx => Option.isNone_iff_eq_none.mpr
      (RegRow.at_of_apart (List.all_eq_true.mp hapart x hx) (by omega) (by omega))
  have hrow : deviceRows[98 + r.val]? = some (sensorRow r) := by
    have hbefore : (lacRows ++ memRows ++ portRows ++ pwrRows ++ clkRows).length = 95 := rfl
    have hthm : 3 + r.val < thmRows.length := Nat.add_lt_add_left r.isLt 3
    rw [deviceRows, List.getElem?_append_left (by rw [List.length_append]; omega), List.getElem?_append_right (by omega), hbefore,
      show 98 + r.val - 95 = 3 + r.val by omega]
    exact List.getElem?_eq_getElem hthm
  rw [regAt, hblock]
  exact rowAt_of_index hrow hmiss hat

end

/-! ### What an entry writes under its mask -/

section
variable (old data mask : Word)

theorem bit_merged {i : Nat} (h : bit mask i = true) : bit (merged old data mask) i = bit data i := by
  unfold bit at h ⊢
  simp [merged, h]

theorem setWidth_merged {n : Nat} (h : ∀ i < n, bit mask i = true) : (merged old data mask).setWidth n = data.setWidth n := by
  refine BitVec.eq_of_getLsbD_eq fun i hi => ?_
  simpa [hi] using (show (merged old data mask).getLsbD i = data.getLsbD i from bit_merged old data mask (h i hi))

theorem fld_merged {lo n : Nat} (h : ∀ i < n, bit mask (lo + i) = true) : fld (merged old data mask) lo n = fld data lo n := by
  refine congrArg BitVec.toNat (BitVec.eq_of_getLsbD_eq fun i hi => ?_)
  simpa [hi] using (show (merged old data mask).getLsbD (lo + i) = data.getLsbD (lo + i) from bit_merged old data mask (h i hi))

end

section
variable {s : State} {a i : Nat} {r : RegRow} {data mask : Word} (h : regAt a = some (r, i))
include h

theorem regwrApply_at : regwrApply s a data mask = r.write s i (merged (r.read s i) data mask) mask := by
  rw [regwrApply, h]

/-- An entry that may be written passes the check of its register (R307). -/
theorem check_of_regwrCheck (hcheck : regwrCheck s a data mask = 0) : r.check s i (merged (r.read s i) data mask) mask = 0 := by
  rw [regwrCheck, h] at hcheck
  dsimp only at hcheck
  split at hcheck
  · exact absurd hcheck (by decide)
  · split at hcheck
    · exact absurd hcheck (by decide)
    · exact hcheck

end

/-! ### Run masks -/

/-- Changing those elements of a vector that a predicate names. -/
theorem vget_foldl_vmod {α : Type} {n : Nat} (p : Fin n → Bool) (f : α → α) (q : Fin n) : ∀ (l : List (Fin n)) (v : Vector α n), l.Nodup →
    vget (l.foldl (fun v i => if p i = true then vmod v i f else v) v) q =
      if q ∈ l ∧ p q = true then f (vget v q) else vget v q
  | [], v, _ => by simp
  | i :: t, v, hnodup => by
    obtain ⟨hi, ht⟩ := List.nodup_cons.mp hnodup
    rw [List.foldl_cons, vget_foldl_vmod p f q t _ ht]
    by_cases hq : q = i
    · subst hq
      by_cases hp : p q = true <;> simp [hi, hp]
    · by_cases hp : p i = true <;> simp [hq, hp, vget_vmod_other _ f (Ne.symm hq)]

/-- A sequencer that its core's run mask adds (R45, R318). -/
def SeqState.started (x : SeqState) : SeqState :=
  { x with st := if x.st = .halted && !x.ended then .issuing else x.st }

theorem SeqState.started_eq (x : SeqState) :
    x.started = if (x.st == .halted && !x.ended) = true then { x with st := .issuing } else x := by
  by_cases hstart : (x.st == .halted && !x.ended) = true
  · have hstart' : (decide (x.st = .halted) && !x.ended) = true := by simpa using hstart
    rw [if_pos hstart, SeqState.started, if_pos hstart']
  · have hstart' : ¬(decide (x.st = .halted) && !x.ended) = true := by simpa using hstart
    rw [if_neg hstart, SeqState.started, if_neg hstart']

theorem getCore_writeSeqRun (s : State) (c : CoreId) (v : Word) :
    (getCore (writeSeqRun s c v) c).seqRun = v.setWidth 16 :=
  congrArg CoreState.seqRun (getCore_modCore_same ..)

theorem getSeq_writeSeqRun (s : State) (c : CoreId) (v : Word) (q : SeqId) : getSeq (writeSeqRun s c v) c q =
    if (bit v q.val && !bit (getCore s c).seqRun q.val) = true then (getSeq s c q).started else getSeq s c q := by
  have hcore : getSeq (writeSeqRun s c v) c q = vget ((allFin 16).foldl (fun l i =>
      if (bit v i.val && !bit (getCore s c).seqRun i.val) = true then vmod l i SeqState.started else l) (getCore s c).seqs) q :=
    congrArg (fun k : CoreState => vget k.seqs q) (getCore_modCore_same ..)
  refine hcore.trans ((vget_foldl_vmod (fun i => bit v i.val && !bit (getCore s c).seqRun i.val) SeqState.started q _ _
    (List.nodup_finRange 16)).trans ?_)
  simp [getSeq]

/-- A core's full run mask written by one entry. -/
theorem regwrApply_seqRun {s : State} {c : CoreId} {data : Word} : ∃ v : Word,
    regwrApply s (coreBase c + 0x10) data 0xFFFF = writeSeqRun s c v ∧ v.setWidth 16 = data.setWidth 16 ∧
    ∀ q : SeqId, bit v q.val = bit data q.val := by
  have hmask : ∀ i < 16, bit (0xFFFF : Word) i = true := by decide
  exact ⟨_, regwrApply_at (regAt_seqRun c), setWidth_merged _ _ _ hmask, fun q => bit_merged _ _ _ (hmask q.val q.isLt)⟩

theorem regwrApply_lastInj {s : State} {c : CoreId} {i : Fin 4} {data : Word} :
    regwrApply s (coreBase c + 0x900028 + 0x10000 * i.val) data 0x1FFF =
      modLast s c i fun x => { x with inj := (data.setWidth 13).setWidth 32 } := by
  have hmask : ∀ j < 13, bit (0x1FFF : Word) j = true := by decide
  have hi : finOf 4 (by decide) i.val = i := Fin.ext (Nat.mod_eq_of_lt i.isLt)
  rw [regwrApply_at (regAt_lastInj c i), ← setWidth_merged ((lastInjRow c).read s i.val) data 0x1FFF hmask]
  exact congrArg (modLast s c · _) hi

/-! ### Laces -/

/-- A direction that takes a lace out of service for retraining; a free spare covers it (R219). -/
def LinkDir.startRetrain (i : Nat) (x : LinkDir) : LinkDir :=
  if x.retrain.isSome || bit x.retired i then x
  else
    let y := { x with active := setBit x.active i false, retrain := some i }
    match y.spares with
    | n :: _ => if bit x.active i then { y with active := setBit y.active n true } else y
    | [] => y

theorem startLaceRetrain_eq (s : State) (l : Fin 23) (d : Bool) (i : Fin 18) :
    startLaceRetrain s l d i = modDir s l d (LinkDir.startRetrain i.val) := rfl

theorem LinkDir.retrain_startRetrain {i : Nat} {x : LinkDir} (hidle : x.retrain = none) (hretired : bit x.retired i = false) :
    (x.startRetrain i).retrain = some i := by
  unfold LinkDir.startRetrain
  rw [if_neg (by simp [hidle, hretired])]
  dsimp only
  split
  · split <;> rfl
  · rfl

section
variable {s : State} {l : Fin 23} {data : Word}

/-- A write of LAC_LINK_CTRL with the full mask is made with the fields of DATA, and checked with them (R238). -/
theorem regwrApply_linkCtrl (hl : l.val < 17) : ∃ v : Word,
    regwrApply s (0x0F0010001020 + 0x40 * l.val) data 0xFF = writeLinkCtrl s l v ∧ fld v 0 5 = fld data 0 5 ∧
    bit v 5 = bit data 5 ∧ bit v 6 = bit data 6 ∧ bit v 7 = bit data 7 ∧
    (regwrCheck s (0x0F0010001020 + 0x40 * l.val) data 0xFF = 0 → linkCtrlCheck s l v = 0) := by
  have hmask : ∀ i < 8, bit (0xFF : Word) i = true := by decide
  have hrow := regAt_linkCtrl ⟨l.val, hl⟩
  have hlink : finOf 23 (by decide) l.val = l := Fin.ext (Nat.mod_eq_of_lt l.isLt)
  refine ⟨_, (regwrApply_at hrow).trans (congrArg (writeLinkCtrl s · _) hlink), fld_merged _ _ _ fun i hi => hmask _ (by omega),
    bit_merged _ _ _ (hmask 5 (by decide)), bit_merged _ _ _ (hmask 6 (by decide)), bit_merged _ _ _ (hmask 7 (by decide)),
    fun hcheck => ?_⟩
  exact (congrArg (linkCtrlCheck s · _) hlink).symm.trans (check_of_regwrCheck hrow hcheck)

variable {v : Word} (hcheck : linkCtrlCheck s l v = 0)
include hcheck

theorem lace_of_linkCtrlCheck : (finOf 18 (by decide) (fld v 0 5)).val = fld v 0 5 := by
  refine Nat.mod_eq_of_lt (Nat.lt_of_not_le fun h => ?_)
  rw [linkCtrlCheck, if_pos (by omega)] at hcheck
  exact absurd hcheck (by decide)

theorem retrain_of_linkCtrlCheck (hretrain : bit v 6 = true) :
    ((vget s.lacing.links l).dir (bit v 5)).retrain = none := by
  rw [linkCtrlCheck, hretrain] at hcheck
  split at hcheck
  · exact absurd hcheck (by decide)
  · split at hcheck
    · exact absurd hcheck (by decide)
    · next h => simpa using h

end

section
variable {s : State} {l : Fin 23} {v : Word}

theorem writeLinkCtrl_retrain (hretrain : bit v 6 = true) (hretire : bit v 7 = false) : writeLinkCtrl s l v =
    modDir (modLink s l fun k => { k with ctrl := (v.setWidth 7).setWidth 32 }) l (bit v 5)
      (LinkDir.startRetrain (finOf 18 (by decide) (fld v 0 5)).val) := by
  unfold writeLinkCtrl
  dsimp only
  rw [if_neg (by simp [hretire]), if_pos hretrain, startLaceRetrain_eq]

theorem writeLinkCtrl_retire (hretrain : bit v 6 = false) (hretire : bit v 7 = true) : writeLinkCtrl s l v =
    retireLace (modLink s l fun k => { k with ctrl := (v.setWidth 7).setWidth 32 }) l (bit v 5)
      (finOf 18 (by decide) (fld v 0 5)) := by
  unfold writeLinkCtrl
  dsimp only
  rw [if_pos hretire, if_neg (by simp [hretrain])]

end

section
variable {s : State} {l : Fin 23} {d : Bool} {i : Fin 18}

theorem retireLace_of_retired (h : bit ((vget s.lacing.links l).dir d).retired i.val = true) : retireLace s l d i = s :=
  if_pos (by simp [h])

/-- After its retirement a lace is retired, whether or not it was before. -/
theorem retired_retireLace (hl : l.val < 17) :
    bit ((vget (retireLace s l d i).lacing.links l).dir d).retired i.val = true := by
  cases h : bit ((vget s.lacing.links l).dir d).retired i.val with
  | true => rw [retireLace_of_retired h, h]
  | false =>
    rw [dir_retireLace hl h, LinkDir.retired_retireLace]
    exact setBit_bit _ _ i.isLt

theorem retireLace_mem (hl : l.val < 17) : (retireLace s l d i).mem = s.mem := by
  cases h : bit ((vget s.lacing.links l).dir d).retired i.val with
  | true => rw [retireLace_of_retired h]
  | false => exact outsideLacing_mem.retireLace condAppend_mem hl h

end

/-! ### Memory units -/

theorem startRetrain_stack {s : State} {w : MemWhere} (hlp : w.lp = false) (hidle : (vget s.tiers.stackList w.unit).retrain = none) :
    startRetrain s w = modStack s w.unit fun k => { k with retrain := some w.pc } := by
  unfold startRetrain
  rw [if_neg (by simp [hlp]), if_neg (by simp [hidle])]

section
variable {s : State} {data v : Word}

/-- A write of MEM_CTRL with the full mask is made with the fields of DATA, and checked with them (R264). -/
theorem regwrApply_memCtrl : ∃ v : Word, regwrApply s 0x0F0011000040 data 0x7FF = writeMemCtrl s v ∧ fld v 0 4 = fld data 0 4 ∧
    fld v 5 5 = fld data 5 5 ∧ bit v 4 = bit data 4 ∧ bit v 10 = bit data 10 ∧
    (regwrCheck s 0x0F0011000040 data 0x7FF = 0 → memCtrlCheck s v = 0) := by
  have hmask : ∀ i < 11, bit (0x7FF : Word) i = true := by decide
  exact ⟨_, regwrApply_at regAt_memCtrl, fld_merged _ _ _ fun i hi => hmask _ (by omega),
    fld_merged _ _ _ fun i hi => hmask _ (by omega), bit_merged _ _ _ (hmask 4 (by decide)),
    bit_merged _ _ _ (hmask 10 (by decide)), check_of_regwrCheck regAt_memCtrl⟩

/-- RETRAIN of an HBM pseudo-channel, which no other of its stack holds up (R257). -/
theorem writeMemCtrl_stack (hcheck : memCtrlCheck s v = 0) (hretrain : bit v 10 = true) (hhbm : bit v 4 = false) :
    writeMemCtrl s v = modStack (modTiers s fun t => { t with ctrl := (v.setWidth 11).setWidth 32 })
      (finOf 16 (by decide) (fld v 0 4)) fun k => { k with retrain := some (fld v 5 5) } := by
  have hlp : (memCtrlUnit v).lp = false := hhbm
  have hpc : (memCtrlUnit v).pc = fld v 5 5 := by
    have hlt : fld v 5 5 < 32 := (v.extractLsb' 5 5).isLt
    simpa [memCtrlUnit, memUnitOf, hhbm, finOf] using hlt
  have hidle : (vget s.tiers.stackList (memCtrlUnit v).unit).retrain = none := by
    rw [memCtrlCheck, hretrain, hlp] at hcheck
    cases h : (vget s.tiers.stackList (memCtrlUnit v).unit).retrain with
    | none => rfl
    | some _ => simp [h] at hcheck
  unfold writeMemCtrl
  rw [if_pos hretrain]
  refine Eq.trans (startRetrain_stack hlp ?_) ?_
  · exact hidle
  · rw [hpc]
    rfl

end

/-! ### Sensors -/

theorem sensorRow_write (r : Fin 15) : (sensorRow r).write = fun s j v _ => writeDisable s r (seqOf j) (bit v 17) := by
  match r with
  | 0 | 1 | 2 | 3 | 4 | 5 | 6 | 7 | 8 | 9 | 10 | 11 | 12 | 13 | 14 => rfl

section
variable (s : State) (r : Fin 15) (j : Fin 16) (on : Bool)

theorem regwrApply_sensor (hj : j.val < sensorCount r) (data : Word) :
    regwrApply s (0x0F0012003200 + 0x80 * r.val + 8 * j.val) data 0x20000 = writeDisable s r j (bit data 17) := by
  have hsensor : seqOf j.val = j := Fin.ext (Nat.mod_eq_of_lt j.isLt)
  rw [regwrApply_at (regAt_sensor r hj), sensorRow_write]
  dsimp only
  rw [hsensor, bit_merged _ _ _ (by decide)]

/-- A sensor with its DISABLE set, and its region's temperature taken again (R372, R380). -/
def sensorSet (s : State) (r : Fin 15) (j : Fin 16) (on : Bool) : State :=
  retakeTemp (modTherm s r fun x => { x with sensors := vmod x.sensors j fun y => { y with disable := on } }) r

/-- The condition report apart, a write of DISABLE sets the sensor and takes the region's temperature again. -/
theorem writeDisable_keeps {β : Type} (g : State → β) (hcond : ∀ s u x y z v, g (condAppend s u x y z v) = g s) :
    g (writeDisable s r j on) = g (sensorSet s r j on) := by
  unfold writeDisable
  dsimp only
  split
  · exact hcond ..
  · rfl

theorem disable_writeDisable : (vget (vget (writeDisable s r j on).thermal.regions r).sensors j).disable = on := by
  rw [writeDisable_keeps s r j on (·.thermal) (condAppend_keeps (·.thermal) writeRecord_thermal modFlash_thermal)]
  simp [sensorSet, retakeTemp, modTherm]

end

/-! ### The writes that act -/

section
variable (k : Fin 16) (s : State)

theorem exec_jobSeqRunWrite : exec (.jobSeqRunWrite k) s = regwrOf s k fun e => isSeqRun e.addr := rfl
theorem exec_lastInjArm : exec (.lastInjArm k) s = regwrOf s k fun e => isLastInj e.addr := rfl
theorem exec_lacLinkRetrain : exec (.lacLinkRetrain k) s =
    regwrOf s k fun e => isLinkCtrl e.addr && bit e.data 6 && bit e.mask 6 := rfl
theorem exec_lacLinkRetire : exec (.lacLinkRetire k) s =
    regwrOf s k fun e => isLinkCtrl e.addr && bit e.data 7 && bit e.mask 7 := rfl
theorem exec_memCtrlRetrain : exec (.memCtrlRetrain k) s =
    regwrOf s k fun e => isMemCtrl e.addr && bit e.data 10 && bit e.mask 10 := rfl
theorem exec_thmSensDisable : exec (.thmSensDisable k) s = regwrOf s k fun e => isSensor e.addr := rfl

end

theorem isSeqRun_coreBase (c : CoreId) : isSeqRun (coreBase c + 0x10) = true := by
  rw [isSeqRun, blockCore_coreBase c (by decide)]
  exact beq_self_eq_true _

theorem isLastInj_coreBase (c : CoreId) (i : Fin 4) : isLastInj (coreBase c + 0x900028 + 0x10000 * i.val) = true := by
  rw [isLastInj, Nat.add_assoc, blockCore_coreBase c (by omega)]
  exact List.any_eq_true.mpr ⟨i.val, List.mem_range.mpr i.isLt, beq_iff_eq.mpr (by omega)⟩

theorem isLinkCtrl_link {l : Fin 23} (hl : l.val < 17) : isLinkCtrl (0x0F0010001020 + 0x40 * l.val) = true :=
  List.any_eq_true.mpr ⟨l.val, List.mem_range.mpr hl, beq_self_eq_true _⟩

theorem isSensor_sensor (r : Fin 15) (j : Fin 16) : isSensor (0x0F0012003200 + 0x80 * r.val + 8 * j.val) = true := by
  simp only [isSensor, Bool.and_eq_true, decide_eq_true_eq]
  omega

/-- The run mask of one core, and the sequencers that it starts. -/
theorem seqRun_written (s : State) (c : CoreId) (data : Word) {t : State} (ht : t = regwrApply s (coreBase c + 0x10) data 0xFFFF) :
    (getCore t c).seqRun = data.setWidth 16 ∧ (∀ d, d ≠ c → getCore t d = getCore s d) ∧ t.mem = s.mem ∧
    ∀ q : SeqId, getSeq t c q = if bit data q.val && !bit (getCore s c).seqRun q.val && (getSeq s c q).st == .halted &&
      !(getSeq s c q).ended then { getSeq s c q with st := .issuing } else getSeq s c q := by
  obtain ⟨v, happly, hrunmask, hbits⟩ := regwrApply_seqRun (s := s) (c := c) (data := data)
  rw [ht, happly]
  refine ⟨(getCore_writeSeqRun s c v).trans hrunmask, fun d hd => getCore_modCore_other _ _ hd.symm, rfl, fun q => ?_⟩
  rw [getSeq_writeSeqRun, hbits, Bool.and_assoc (bit data q.val && _), SeqState.started_eq]
  cases bit data q.val && !bit (getCore s c).seqRun q.val
  · rfl
  · rw [if_pos rfl, Bool.true_and]

/-- A lace of one direction of one link that starts to retrain. -/
theorem lace_retraining {s : State} {l : Fin 23} {d : Bool} {data : Word} (hl : l.val < 17) (hd : bit data 5 = d)
    (hretrain : bit data 6 = true) (hretire : bit data 7 = false)
    (hkept : bit ((vget s.lacing.links l).dir d).retired (fld data 0 5) = false)
    (hcheck : regwrCheck s (0x0F0010001020 + 0x40 * l.val) data 0xFF = 0) {t : State}
    (ht : t = regwrApply s (0x0F0010001020 + 0x40 * l.val) data 0xFF) :
    ((vget t.lacing.links l).dir d).retrain = some (fld data 0 5) ∧ t.cores = s.cores ∧ t.mem = s.mem ∧
    ∀ o, o ≠ l → vget t.lacing.links o = vget s.lacing.links o := by
  obtain ⟨v, happly, hlace, hdir, h6, h7, hchecked⟩ := regwrApply_linkCtrl (s := s) (data := data) hl
  have hidle := retrain_of_linkCtrlCheck (hchecked hcheck) (h6.trans hretrain)
  rw [hdir, hd] at hidle
  rw [ht, happly, writeLinkCtrl_retrain (h6.trans hretrain) (h7.trans hretire), lace_of_linkCtrlCheck (hchecked hcheck), hlace,
    hdir, hd]
  refine ⟨?_, rfl, rfl, fun o ho => ?_⟩
  · rw [link_modDir, Link.dir_mapDir_same, link_modLink]
    exact LinkDir.retrain_startRetrain hidle hkept
  · exact (vget_vmod_other _ _ ho.symm).trans (vget_vmod_other _ _ ho.symm)

theorem lace_retired {s : State} {l : Fin 23} {d : Bool} {data : Word} (hl : l.val < 17) (hd : bit data 5 = d)
    (hretrain : bit data 6 = false) (hretire : bit data 7 = true)
    (hcheck : regwrCheck s (0x0F0010001020 + 0x40 * l.val) data 0xFF = 0) {t : State}
    (ht : t = regwrApply s (0x0F0010001020 + 0x40 * l.val) data 0xFF) :
    bit ((vget t.lacing.links l).dir d).retired (fld data 0 5) = true ∧ t.mem = s.mem := by
  obtain ⟨v, happly, hlace, hdir, h6, h7, hchecked⟩ := regwrApply_linkCtrl (s := s) (data := data) hl
  rw [ht, happly, writeLinkCtrl_retire (h6.trans hretrain) (h7.trans hretire), hdir, hd, ← hlace]
  refine ⟨?_, retireLace_mem hl⟩
  simpa only [lace_of_linkCtrlCheck (hchecked hcheck)] using retired_retireLace (i := finOf 18 (by decide) (fld v 0 5)) hl

theorem stack_retraining {s : State} {data : Word} (hretrain : bit data 10 = true) (hhbm : bit data 4 = false)
    (hcheck : regwrCheck s 0x0F0011000040 data 0x7FF = 0) {t : State} (ht : t = regwrApply s 0x0F0011000040 data 0x7FF) :
    (vget t.tiers.stackList (finOf 16 (by decide) (fld data 0 4))).retrain = some (fld data 5 5) ∧ t.cores = s.cores ∧
    t.mem = s.mem := by
  obtain ⟨v, happly, hunit, hpc, h4, h10, hchecked⟩ := regwrApply_memCtrl (s := s) (data := data)
  rw [ht, happly, writeMemCtrl_stack (hchecked hcheck) (h10.trans hretrain) (h4.trans hhbm), hunit, hpc]
  exact ⟨congrArg Stack.retrain (vget_vmod_same ..), rfl, rfl⟩

theorem injection_armed {s : State} {c : CoreId} {i : Fin 4} {data : Word} {t : State}
    (ht : t = regwrApply s (coreBase c + 0x900028 + 0x10000 * i.val) data 0x1FFF) :
    getLast t c i = { getLast s c i with inj := (data.setWidth 13).setWidth 32 } ∧ (∀ d, d ≠ c → getCore t d = getCore s d) ∧
    t.mem = s.mem := by
  rw [ht, regwrApply_lastInj]
  exact ⟨getLast_modLast_same .., fun d hd => getCore_modCore_other _ _ hd.symm, rfl⟩

theorem sensor_written {s : State} {r : Fin 15} {j : Fin 16} (hj : j.val < sensorCount r) {data : Word} {t : State}
    (ht : t = regwrApply s (0x0F0012003200 + 0x80 * r.val + 8 * j.val) data 0x20000) :
    (vget (vget t.thermal.regions r).sensors j).disable = bit data 17 ∧ t.cores = s.cores ∧ t.mem = s.mem := by
  rw [ht, regwrApply_sensor s r j hj data]
  exact ⟨disable_writeDisable .., writeDisable_keeps s r j _ (·.cores) condAppend_cores,
    writeDisable_keeps s r j _ (·.mem) condAppend_mem⟩

/-- Settles O43: each register is found in the allow-list, and its write is followed. -/
theorem registersWritten : Obligations.RegistersWritten := by
  intro s k l hrun hl
  refine ⟨fun e he => ?_, fun hnone => ?_, fun e hsingle hcheck => ?_⟩
  · rw [exec_regwr hrun, regwrEffect, ← hl, he]
  · rw [exec_regwr hrun, regwrEffect, ← hl, hnone]
  obtain ⟨a, data, mask⟩ := e
  obtain ⟨u, hu⟩ : ∃ u, u = regwrApply s a data mask := ⟨_, rfl⟩
  have hexec : ∀ {hit : RegwrEntry → Bool}, hit ⟨a, data, mask⟩ = true → regwrOf s k hit =
      .next (endsWith u k 0 (leBytes 4 0xFFFFFFFF ++ [0, 0, 0, 0]) 8) :=
    fun hhit => hu ▸ regwrOf_single hrun (hsingle.symm.trans hl) hcheck hhit
  refine ⟨fun c ha hm => ?runMask, fun c i ha hm => ?injection, fun n d hn ha hm hd => ⟨fun hretrain hretire hkept => ?retrain,
    fun hretrain hretire => ?retire⟩, fun ha hm hretrain hhbm => ?memory, fun r j hj ha hm => ?sensor⟩
  all_goals
    dsimp only at ha hm hcheck
    subst ha hm
  case runMask =>
    obtain ⟨hmask, hother, hmem, hseq⟩ := seqRun_written s c data hu
    exact ⟨_, (exec_jobSeqRunWrite k s).trans (hexec (isSeqRun_coreBase c)), hmask, hother, hmem, hseq, result_endsWith ..⟩
  case injection => exact ⟨_, (exec_lastInjArm k s).trans (hexec (isLastInj_coreBase c i)), injection_armed (t := u) hu⟩
  case retrain =>
    have hhit : (isLinkCtrl (0x0F0010001020 + 0x40 * n.val) && bit data 6 && bit (0xFF : Word) 6) = true := by
      rw [isLinkCtrl_link hn, hretrain]
      decide
    exact ⟨_, (exec_lacLinkRetrain k s).trans (hexec hhit), lace_retraining (t := u) hn hd hretrain hretire hkept hcheck hu⟩
  case retire =>
    have hhit : (isLinkCtrl (0x0F0010001020 + 0x40 * n.val) && bit data 7 && bit (0xFF : Word) 7) = true := by
      rw [isLinkCtrl_link hn, hretire]
      decide
    exact ⟨_, (exec_lacLinkRetire k s).trans (hexec hhit), lace_retired (t := u) hn hd hretrain hretire hcheck hu⟩
  case memory =>
    have hhit : (isMemCtrl 0x0F0011000040 && bit data 10 && bit (0x7FF : Word) 10) = true := by
      rw [hretrain]
      decide
    exact ⟨_, (exec_memCtrlRetrain k s).trans (hexec hhit), stack_retraining (t := u) hretrain hhbm hcheck hu⟩
  case sensor => exact ⟨_, (exec_thmSensDisable k s).trans (hexec (isSensor_sensor r j)), sensor_written (t := u) hj hu⟩

end Sys2Proof.Machine
end

section
/-!
The commands that read (R304 to R312, R391, R421, R431): each that runs and passes its checks ends OK with the bytes it read.
-/
namespace Sys2Proof.Machine

/-- A form of a command that runs and passes its checks has its effect. -/
theorem commandOp_of_passed {s : State} {k : Fin 16} {code off op : Nat} {allow : State → Mailbox → BitVec 16}
    {effect : State → Mailbox → State} (hop : pf (getMb s k) off 1 = op) (hruns : s.Runs k code allow) :
    commandOp s k code off op allow effect = .next (effect s (getMb s k)) :=
  (if_pos hop).trans (command_of_passed hruns.1 hruns.2)

section
variable {s : State} {k : Fin 16}

/-! ### The instructions -/

theorem exec_inventory : exec (.inventory k) s = execInventory k s := rfl
theorem exec_errRead : exec (.errRead k) s = execErrRead k s := rfl
theorem exec_provRead : exec (.provRead k) s = execProvRead k s := rfl
theorem exec_condRead : exec (.condRead k) s = execCondRead k s := rfl
theorem exec_jobStatus : exec (.jobStatus k) s = execJobStatus k s := rfl
theorem exec_regrd : exec (.regrd k) s = execRegrd k s := rfl
theorem exec_allowRead : exec (.allowRead k) s = execAllowRead k s := rfl
theorem exec_snapCfgRead : exec (.snapCfgRead k) s = execSnapCfgRead k s := rfl
theorem exec_pmuCfgDirectory : exec (.pmuCfgDirectory k) s = execPmuCfgDirectory k s := rfl
theorem exec_debugRead : exec (.debugRead k) s = execDebugRead k s := rfl

/-! ### INVENTORY -/

section
variable (hruns : s.Runs k 0x02 inventoryAllow) {total : Nat} (htotal : total = 64 + (invSections s (getMb s k)).length)
include hruns htotal

/-- In the mailbox where it fits, else spilled where there is room (R308). -/
theorem exec_inventory_of_runs : exec (.inventory k) s = .next (
    if total ≤ 4032 then ends s k 0 (invHeader s (getMb s k) total false ++ invSections s (getMb s k))
    else if pf (getMb s k) 8 8 < total then endsWith s k stTooSmall (invHeader s (getMb s k) total false) total
    else endsWith (putFresh s (pf (getMb s k) 0 8) (invHeader s (getMb s k) total true ++ invSections s (getMb s k))) k 0
      (invHeader s (getMb s k) total true) total) := by
  rw [exec_inventory, execInventory, command_of_passed hruns.1 hruns.2]
  dsimp only
  rw [← htotal]

theorem exec_inventory_of_fits (hfits : total ≤ 4032) :
    exec (.inventory k) s = .next (ends s k 0 (invHeader s (getMb s k) total false ++ invSections s (getMb s k))) := by
  rw [exec_inventory_of_runs hruns htotal, if_pos hfits]

theorem exec_inventory_of_tooSmall (hlong : 4032 < total) (hsmall : pf (getMb s k) 8 8 < total) :
    exec (.inventory k) s = .next (endsWith s k stTooSmall (invHeader s (getMb s k) total false) total) := by
  rw [exec_inventory_of_runs hruns htotal, if_neg (Nat.not_le.mpr hlong), if_pos hsmall]

theorem exec_inventory_of_spill (hlong : 4032 < total) (hroom : total ≤ pf (getMb s k) 8 8) : exec (.inventory k) s =
    .next (endsWith (putFresh s (pf (getMb s k) 0 8) (invHeader s (getMb s k) total true ++ invSections s (getMb s k))) k 0
      (invHeader s (getMb s k) total true) total) := by
  rw [exec_inventory_of_runs hruns htotal, if_neg (Nat.not_le.mpr hlong), if_neg (Nat.not_lt.mpr hroom)]

end

/-! ### ERR_READ and PROV_READ -/

/-- The records before an ERR_READ's FROM_SEQ acknowledged. -/
def acknowledged (s : State) (m : Mailbox) : State :=
  bumpGen (modReg s fun r => { r with acked := if r.acked.toNat < pf m 0 8 then BitVec.ofNat 64 (pf m 0 8) else r.acked })

theorem acknowledged_keeps (s : State) (m : Mailbox) :
    (acknowledged s m).reg.acked = (if s.reg.acked.toNat < pf m 0 8 then BitVec.ofNat 64 (pf m 0 8) else s.reg.acked) ∧
      (acknowledged s m).reg.ring = s.reg.ring ∧ (acknowledged s m).reg.journal = s.reg.journal ∧
      (acknowledged s m).cores = s.cores ∧ (acknowledged s m).mem = s.mem := by
  simp only [acknowledged, bumpGen, modReg_reg, modReg_cores, modReg_mem, and_self]

theorem exec_errRead_of_runs (hruns : s.Runs k 0x03 errReadAllow) {l : List ErrRec}
    (hl : l = ((if 2 ≤ pf (getMb s k) 10 1 then s.reg.journal else s.reg.ring).filter
      fun r => decide (pf (getMb s k) 0 8 ≤ r.seq.toNat) && recordSeen s (getMb s k) r).take (pf (getMb s k) 8 2)) :
    exec (.errRead k) s = .next (ends (if pf (getMb s k) 10 1 % 2 = 1 then acknowledged s (getMb s k) else s) k 0
      (leBytes 2 l.length ++ List.replicate 6 0 ++ l.flatMap recordBytes)) := by
  rw [exec_errRead, execErrRead, command_of_passed hruns.1 hruns.2]
  dsimp only
  rw [← hl, acknowledged]

theorem exec_provRead_of_runs (hruns : s.Runs k 0x04 provReadAllow) {r : List Byte}
    (hr : (pf (getMb s k) 0 1 = 2 ∧ partnerRecord s (pf (getMb s k) 1 1) = some r) ∨
      ((pf (getMb s k) 0 1 ≠ 2 ∨ partnerRecord s (pf (getMb s k) 1 1) = none) ∧
        r = provRecord s (pf (getMb s k) 0 1) (pf (getMb s k) 1 1))) :
    exec (.provRead k) s =
      .next (ends s k 0 (leBytes 1 (if provGood (provCopies s (pf (getMb s k) 0 1) (pf (getMb s k) 1 1)).1 then 1 else 2) ++
        List.replicate 7 0 ++ slice r 0 64)) := by
  rw [exec_provRead, execProvRead, command_of_passed hruns.1 hruns.2]
  dsimp only
  obtain ⟨htype, hpartner⟩ | ⟨hnone, rfl⟩ := hr
  · rw [if_pos htype, hpartner]
  · have hown : (if pf (getMb s k) 0 1 = 2 then partnerRecord s (pf (getMb s k) 1 1) else none) = none := by
      split
      · next htype => exact hnone.resolve_left (not_not_intro htype)
      · rfl
    rw [hown]

/-! ### JOB_STATUS, REGRD, SNAP_CFG READ -/

theorem exec_jobStatus_of_runs (hruns : s.Runs k 0x25 (jobIn [3, 4, 5, 6])) {j : Job} (hj : jobNamed s (getMb s k) = some j) :
    exec (.jobStatus k) s = .next (ends s k 0 (jobEntry j)) := by
  rw [exec_jobStatus, execJobStatus, command_of_passed hruns.1 hruns.2, hj]

theorem exec_regrd_of_runs (hruns : s.Runs k 0x90 regrdAllow) :
    exec (.regrd k) s = .next (ends (readRegs s (regrdAddrs (getMb s k))).2 k 0 (readRegs s (regrdAddrs (getMb s k))).1) := by
  rw [exec_regrd, execRegrd, command_of_passed hruns.1 hruns.2]

/-- A register that holds no PMU count is read without an effect. -/
theorem readReg_of_plain {a i : Nat} {r : RegRow} (hreg : regAt a = some (r, i)) (hplain : countEvent a = none) :
    readReg s a = (r.read s i, s) := by
  rw [readReg, hreg, hplain]

theorem exec_regrd_of_single (hruns : s.Runs k 0x90 regrdAllow) {a i : Nat} {r : RegRow} (haddrs : regrdAddrs (getMb s k) = [a])
    (hreg : regAt a = some (r, i)) (hplain : countEvent a = none) :
    exec (.regrd k) s = .next (ends s k 0 (leBytes 8 (r.read s i).toNat)) := by
  rw [exec_regrd_of_runs hruns, haddrs, readRegs, readRegs, readReg_of_plain hreg hplain, List.append_nil]

theorem exec_snapCfgRead_of_runs (hop : pf (getMb s k) 1 1 = 1) (hruns : s.Runs k 0x70 (snapConfigured [3, 4, 5])) {j : Job}
    {c : SnapCfg} (hj : jobNamed s (getMb s k) = some j) (hc : findCfg s j.id = some c) :
    exec (.snapCfgRead k) s = .next (ends s k 0 (patch c.payload 52 (List.replicate 32 0))) := by
  rw [exec_snapCfgRead, execSnapCfgRead, commandOp_of_passed hop hruns, hj, Option.bind_some, hc]

end

/-- Settles O40: a command that runs and passes its checks has its effect, and each of these effects is the end of the command with
the bytes read. -/
theorem commandsRead : Obligations.CommandsRead := by
  rintro s k _ rfl
  refine ⟨?inventory, ?errRead, ?provRead, ?condRead, ?jobStatus, ?regrd, ?allowRead, ?snapCfgRead, ?directory, ?debugRead⟩
  case inventory =>
    rintro hruns _ total rfl htotal
    exact ⟨exec_inventory_of_fits hruns htotal, exec_inventory_of_tooSmall hruns htotal, exec_inventory_of_spill hruns htotal⟩
  case errRead =>
    intro hruns l hl
    refine ⟨fun hkeep => ?_, fun hack => ⟨acknowledged s (getMb s k), ?_, acknowledged_keeps s _⟩⟩
    · rw [exec_errRead_of_runs hruns hl, if_neg (by omega)]
    · rw [exec_errRead_of_runs hruns hl, if_pos hack]
  case provRead => exact fun hruns _ => exec_provRead_of_runs hruns
  case condRead =>
    rintro hrun hpf _ _ rfl rfl
    rw [exec_condRead, execCondRead, command_of_passed hrun (if_pos hpf)]
  case jobStatus => exact fun hruns _ => exec_jobStatus_of_runs hruns
  case regrd => exact fun hruns => ⟨exec_regrd_of_runs hruns, fun _ _ _ => exec_regrd_of_single hruns⟩
  case allowRead =>
    rintro hrun _ rfl
    rw [exec_allowRead, execAllowRead, command_of_passed hrun rfl]
  case snapCfgRead => exact fun hop hruns _ _ => exec_snapCfgRead_of_runs hop hruns
  case directory =>
    rintro hop hrun _ rfl
    rw [exec_pmuCfgDirectory, execPmuCfgDirectory, commandOp_of_passed hop ⟨hrun, rfl⟩]
  case debugRead =>
    intro hruns
    rw [exec_debugRead, execDebugRead, command_of_passed hruns.1 hruns.2]

end Sys2Proof.Machine
end

section
/-!
The owner's commands (R301 to R304, R386 to R396): keys, images, folios, the debug unlock and the sets it holds, the condition
report's entries, and the reset.
-/
namespace Sys2Proof.Machine

section
variable {s : State} {k : Fin 16}

/-! ### The instructions -/

theorem exec_ownerSet : exec (.ownerSet k) s = execOwnerSet k s := rfl
theorem exec_keyChange : exec (.keyChange k) s = execKeyChange k s := rfl
theorem exec_fwUpdate {ok : Bool} : exec (.fwUpdate k ok) s = execFwUpdate k ok s := rfl
theorem exec_licenceInstall : exec (.licenceInstall k) s = execLicenceInstall k s := rfl
theorem exec_debugUnlock : exec (.debugUnlock k) s = execDebugUnlock k s := rfl
theorem exec_debugUnlockExpire : exec .debugUnlockExpire s = execDebugUnlockExpire s := rfl
theorem exec_debugRelease : exec (.debugRelease k) s = execDebugRelease k s := rfl
theorem exec_condEditAppend : exec (.condEditAppend k) s = execCondEditAppend k s := rfl
theorem exec_condEditClear : exec (.condEditClear k) s = execCondEditClear k s := rfl
theorem exec_deviceReset : exec (.deviceReset k) s = execDeviceReset k s := rfl

/-! ### OWNER_SET and KEY_CHANGE -/

/-- The part owned by the key and the counter of an OWNER_SET. -/
def owned (s : State) (m : Mailbox) : State :=
  bumpGen (modReg s fun r => { r with
    key := payBytes m 0 48, lastCtr := BitVec.ofNat 64 (pf m 48 8), ctrHigh := BitVec.ofNat 64 (pf m 48 8), ownerState := 1 })

theorem ends_owned_sets (s : State) (m : Mailbox) (st : BitVec 16) (resp : List Byte) :
    (ends (owned s m) k st resp).reg.key = payBytes m 0 48 ∧
      (ends (owned s m) k st resp).reg.lastCtr = BitVec.ofNat 64 (pf m 48 8) ∧
      (ends (owned s m) k st resp).reg.ctrHigh = BitVec.ofNat 64 (pf m 48 8) ∧
      (ends (owned s m) k st resp).reg.ownerState = 1 ∧ (ends (owned s m) k st resp).cores = s.cores ∧
      (ends (owned s m) k st resp).mem = s.mem := by
  simp only [ends, endsWith, owned, bumpGen, modMb_reg, modMb_cores, modMb_mem, modReg_reg, modReg_cores, modReg_mem, and_self]

theorem exec_ownerSet_of_unowned (hrun : running s k 0xC9 = true) (hfree : s.reg.ownerState = 0) :
    exec (.ownerSet k) s = .next (ends (owned s (getMb s k)) k 0 []) := by
  rw [exec_ownerSet, execOwnerSet, command_of_passed hrun (if_pos hfree), owned]

theorem exec_ownerSet_of_owned (hrun : running s k 0xC9 = true) (howned : s.reg.ownerState ≠ 0) :
    exec (.ownerSet k) s = .next (ends s k stBadState []) := by
  rw [exec_ownerSet, execOwnerSet, command_of_failed_check hrun (if_neg howned) (by decide)]

/-- The new key that a KEY_CHANGE unwraps. -/
def unwrappedKey (s : State) (m : Mailbox) : Option (List Byte) :=
  Config.gcmOpen (hkdf32 s.reg.key (ascii "NZKEYWRAP1")) (payBytes m 0 12) (payBytes m 12 48) (payBytes m 60 16)

theorem exec_keyChange_of_refused (hrun : running s k 0xC2 = true) (hkey : unwrappedKey s (getMb s k) = none) :
    exec (.keyChange k) s = .next (ends s k stBadCheck []) := by
  rw [unwrappedKey] at hkey
  rw [exec_keyChange, execKeyChange, command_of_passed hrun rfl, hkey]

theorem exec_keyChange_of_unwrapped (hrun : running s k 0xC2 = true) {x : List Byte} (hkey : unwrappedKey s (getMb s k) = some x) :
    exec (.keyChange k) s = .next (ends (modReg s fun r => { r with newKey := some (slice x 0 48) }) k 0 []) := by
  rw [unwrappedKey] at hkey
  rw [exec_keyChange, execKeyChange, command_of_passed hrun rfl, hkey]

end

/-! ### FW_UPDATE -/

/-- The slot that holds an image. -/
def imageSlot (img : List Byte) : FwSlot :=
  { valid := true, live := bit (BitVec.ofNat 16 (leAt img 6 2)) 0
    version := BitVec.ofNat 32 (leAt img 8 4), svn := BitVec.ofNat 32 (leAt img 0x0C 4) }

theorem stageImage_eq (f : Flash) (img : List Byte) : stageImage f img =
    if f.active then { f with slotA := imageSlot img, pending := some false }
    else { f with slotB := imageSlot img, pending := some true } := rfl

@[simp] theorem stageImage_active (f : Flash) (img : List Byte) : (stageImage f img).active = f.active := by
  rw [stageImage_eq]
  split <;> rfl

@[simp] theorem stageImage_pending (f : Flash) (img : List Byte) : (stageImage f img).pending = some (!f.active) := by
  cases hactive : f.active <;> simp [stageImage_eq, hactive]

@[simp] theorem fwSlot_stageImage (f : Flash) (img : List Byte) : fwSlot (stageImage f img) (!f.active) = imageSlot img := by
  cases hactive : f.active <;> simp [stageImage_eq, fwSlot, hactive]

/-- An image in the slot not active. -/
def staged (s : State) (img : List Byte) : State := noted (modFlash s fun f => stageImage f img)

@[simp] theorem staged_flash (s : State) (img : List Byte) : (staged s img).flash = stageImage s.flash img := noted_flash _
@[simp] theorem staged_cores (s : State) (img : List Byte) : (staged s img).cores = s.cores := noted_cores _
@[simp] theorem staged_mem (s : State) (img : List Byte) : (staged s img).mem = s.mem := noted_mem _

@[simp] theorem handOver_cores (s : State) : (handOver s).cores = s.cores := rfl
@[simp] theorem handOver_mem (s : State) : (handOver s).mem = s.mem := rfl
@[simp] theorem handOver_active (s : State) : (handOver s).flash.active = !s.flash.active := rfl
@[simp] theorem handOver_pending (s : State) : (handOver s).flash.pending = none := rfl
@[simp] theorem handOver_running (s : State) : (handOver s).flash.running = (fwSlot s.flash (!s.flash.active)).version := rfl

/-- The end of an FW_UPDATE that has used the image (R303). -/
def updateEnds (s : State) (k : Fin 16) (st : BitVec 16) (resp : List Byte) : State :=
  modMb (ends s k st resp) k fun m => { m with progress := 1000 }

@[simp] theorem updateEnds_flash (s : State) (k : Fin 16) (st : BitVec 16) (resp : List Byte) :
    (updateEnds s k st resp).flash = s.flash := rfl
@[simp] theorem updateEnds_cores (s : State) (k : Fin 16) (st : BitVec 16) (resp : List Byte) :
    (updateEnds s k st resp).cores = s.cores := rfl
@[simp] theorem updateEnds_mem (s : State) (k : Fin 16) (st : BitVec 16) (resp : List Byte) :
    (updateEnds s k st resp).mem = s.mem := rfl

theorem result_updateEnds (s : State) (k : Fin 16) (st : BitVec 16) (resp : List Byte) :
    (getMb (updateEnds s k st resp) k).result = some (st, resp, BitVec.ofNat 32 resp.length) := by
  rw [updateEnds, getMb_modMb_same]
  exact result_endsWith ..

/-- The response of an FW_UPDATE: the version staged. -/
def versionResponse (img : List Byte) : List Byte := leBytes 4 (BitVec.ofNat 32 (leAt img 8 4)).toNat ++ [0, 0, 0, 0]

theorem result_updateEnds_version (s : State) (k : Fin 16) (img : List Byte) :
    (getMb (updateEnds s k 0 (versionResponse img)) k).result =
      some (0, leBytes 4 (BitVec.ofNat 32 (leAt img 8 4)).toNat ++ [0, 0, 0, 0], 8) := by
  have hlength : (versionResponse img).length = 8 := by simp [versionResponse, leBytes]
  rw [result_updateEnds, hlength]
  rfl

section
variable {s : State} {k : Fin 16} (ok : Bool) (hrun : running s k 0xC0 = true) {img : List Byte}
  (himg : img = memRead s.mem (pf (getMb s k) 0 8) (pf (getMb s k) 8 8))
include hrun himg

/-- FW_UPDATE by its cases (R386 to R389). -/
theorem exec_fwUpdate_of_runs : exec (.fwUpdate k ok) s = .next (
    if anyPoison s (pf (getMb s k) 0 8) (pf (getMb s k) 8 8) || !imageVerifies img then ends s k stBadSignature []
    else if leAt img 0x0C 4 < s.flash.fwCtr then ends s k stRollback []
    else if pf (getMb s k) 16 1 = 0 then updateEnds (staged s img) k 0 (versionResponse img)
    else if !(imageSlot img).live then updateEnds (staged s img) k stBadState []
    else if !ok then updateEnds (firmwareRecord (staged s img) 13 15 0 2 (imageSlot img) 0 (!s.flash.active)) k stDeviceFault []
    else updateEnds (noted (handOver (staged s img))) k 0 (versionResponse img)) := by
  have hslot : fwSlot (staged s img).flash (!(staged s img).flash.active) = imageSlot img := by simp
  have hactive : (staged s img).flash.active = s.flash.active := by simp
  rw [exec_fwUpdate, execFwUpdate, command_of_passed hrun rfl]
  dsimp only
  rw [← himg, ← staged, hslot, hactive]
  rfl

theorem exec_fwUpdate_of_unverified
    (hbad : anyPoison s (pf (getMb s k) 0 8) (pf (getMb s k) 8 8) = true ∨ imageVerifies img = false) :
    exec (.fwUpdate k ok) s = .next (ends s k stBadSignature []) := by
  rw [exec_fwUpdate_of_runs ok hrun himg, if_pos (by simpa using hbad)]

section
variable (hclean : anyPoison s (pf (getMb s k) 0 8) (pf (getMb s k) 8 8) = false) (hverifies : imageVerifies img = true)
include hclean hverifies

theorem exec_fwUpdate_of_rollback (hold : leAt img 0x0C 4 < s.flash.fwCtr) :
    exec (.fwUpdate k ok) s = .next (ends s k stRollback []) := by
  rw [exec_fwUpdate_of_runs ok hrun himg, if_neg (by simp [hclean, hverifies]), if_pos hold]

theorem exec_fwUpdate_of_stage (hnew : s.flash.fwCtr ≤ leAt img 0x0C 4) (hactivate : pf (getMb s k) 16 1 = 0) :
    exec (.fwUpdate k ok) s = .next (updateEnds (staged s img) k 0 (versionResponse img)) := by
  rw [exec_fwUpdate_of_runs ok hrun himg, if_neg (by simp [hclean, hverifies]), if_neg (Nat.not_lt.mpr hnew), if_pos hactivate]

theorem exec_fwUpdate_of_handOver (hnew : s.flash.fwCtr ≤ leAt img 0x0C 4) (hactivate : pf (getMb s k) 16 1 ≠ 0)
    (hlive : bit (BitVec.ofNat 16 (leAt img 6 2)) 0 = true) :
    exec (.fwUpdate k true) s = .next (updateEnds (noted (handOver (staged s img))) k 0 (versionResponse img)) := by
  rw [exec_fwUpdate_of_runs true hrun himg, if_neg (by simp [hclean, hverifies]), if_neg (Nat.not_lt.mpr hnew), if_neg hactivate,
    if_neg (by simp [imageSlot, hlive]), if_neg (by decide)]

end

end

/-! ### LICENCE_INSTALL -/

section
variable {s : State} {k : Fin 16} (hrun : running s k 0xC1 = true) {l : List Byte}
  (hl : l = memRead s.mem (pf (getMb s k) 0 8) 17120)
include hrun hl

/-- LICENCE_INSTALL by its cases (R395, R396). -/
theorem exec_licenceInstall_of_runs : exec (.licenceInstall k) s = .next (
    if anyPoison s (pf (getMb s k) 0 8) 17120 || !verifies (l.take 64) (l.drop 64) then ends s k stBadSignature []
    else if (folioOf l).svn.toNat < s.flash.licCtr then ends s k stRollback []
    else if !folioShape l || !folioOk s (folioOf l) then ends s k stBadForm []
    else ends (modFlash s fun f => { f with folio := some (folioOf l) }) k 0
      (leBytes 1 (folioOf l).profile.toNat ++ List.replicate 7 0)) := by
  rw [exec_licenceInstall, execLicenceInstall, command_of_passed hrun rfl]
  dsimp only
  rw [← hl]

theorem exec_licenceInstall_of_unverified
    (hbad : anyPoison s (pf (getMb s k) 0 8) 17120 = true ∨ verifies (l.take 64) (l.drop 64) = false) :
    exec (.licenceInstall k) s = .next (ends s k stBadSignature []) := by
  rw [exec_licenceInstall_of_runs hrun hl, if_pos (by simpa using hbad)]

section
variable (hclean : anyPoison s (pf (getMb s k) 0 8) 17120 = false) (hverifies : verifies (l.take 64) (l.drop 64) = true)
include hclean hverifies

theorem exec_licenceInstall_of_rollback (hold : (folioOf l).svn.toNat < s.flash.licCtr) :
    exec (.licenceInstall k) s = .next (ends s k stRollback []) := by
  rw [exec_licenceInstall_of_runs hrun hl, if_neg (by simp [hclean, hverifies]), if_pos hold]

theorem exec_licenceInstall_of_badForm (hnew : s.flash.licCtr ≤ (folioOf l).svn.toNat)
    (hform : folioShape l = false ∨ folioOk s (folioOf l) = false) :
    exec (.licenceInstall k) s = .next (ends s k stBadForm []) := by
  rw [exec_licenceInstall_of_runs hrun hl, if_neg (by simp [hclean, hverifies]), if_neg (Nat.not_lt.mpr hnew),
    if_pos (by simpa using hform)]

theorem exec_licenceInstall_of_kept (hnew : s.flash.licCtr ≤ (folioOf l).svn.toNat) (hshape : folioShape l = true)
    (hok : folioOk s (folioOf l) = true) : exec (.licenceInstall k) s =
      .next (ends (modFlash s fun f => { f with folio := some (folioOf l) }) k 0
        (leBytes 1 (folioOf l).profile.toNat ++ List.replicate 7 0)) := by
  rw [exec_licenceInstall_of_runs hrun hl, if_neg (by simp [hclean, hverifies]), if_neg (Nat.not_lt.mpr hnew),
    if_neg (by simp [hshape, hok])]

end

end

/-! ### Held sets (R79, R304) -/

/-- A view of the state in which neither the Stacks, nor the sets that jobs hold, nor INV_GEN and an interrupt show. -/
structure OutsideHolds {β : Type} (g : State → β) : Prop where
  stk : ∀ s c f, g (modStk s c f) = g s
  holds : ∀ s f, g (modReg s fun r => { r with jobs := r.jobs.map f }) = g s
  noted : ∀ s, g (noted s) = g s

theorem outsideHolds_mem : OutsideHolds (·.mem) := ⟨modStk_mem, fun _ _ => modReg_mem .., noted_mem⟩

/-- Of the Registrar, whatever is neither a job nor INV_GEN. -/
theorem outsideHolds_reg {β : Type} (g : Registrar → β) (hjobs : ∀ r l, g { r with jobs := l } = g r)
    (hgen : ∀ r n, g { r with invGen := n } = g r) : OutsideHolds fun s => g s.reg :=
  ⟨fun _ _ _ => rfl, fun _ _ => hjobs .., fun s => (congrArg g (raiseVec_reg (bumpGen s) 0 16)).trans (hgen ..)⟩

section
variable {β : Type} {g : State → β} (hg : OutsideHolds g)
include hg

theorem OutsideHolds.releaseHold (s : State) (c : CoreId) : g (releaseHold s c) = g s := by
  unfold Machine.releaseHold
  split
  · rw [hg.noted, hg.stk]
  · rfl

theorem OutsideHolds.releaseHolds (l : List CoreId) (s : State) : g (l.foldl Machine.releaseHold s) = g s :=
  foldl_field g hg.releaseHold l s

theorem OutsideHolds.settleHolds (s : State) : g (settleHolds s) = g s :=
  (hg.holds ..).trans (hg.releaseHolds ..)

end

/-- A core whose held sets went to SCRUB. -/
def CoreState.unheld (k : CoreState) : CoreState :=
  if k.stk.hold then { k with stk := { k.stk with hold := false, scrub := setsMask k.stk k.sets } } else k

theorem CoreState.unheld_of_held {k : CoreState} (h : k.stk.hold = true) :
    k.unheld = { k with stk := { k.stk with hold := false, scrub := setsMask k.stk k.sets } } := if_pos h

theorem CoreState.unheld_of_free {k : CoreState} (h : k.stk.hold = false) : k.unheld = k := if_neg (by simp [h])

@[simp] theorem CoreState.hold_unheld (k : CoreState) : k.unheld.stk.hold = false := by
  cases h : k.stk.hold
  · rwa [unheld_of_free h]
  · rw [unheld_of_held h]

theorem CoreState.unheld_unheld (k : CoreState) : k.unheld.unheld = k.unheld := unheld_of_free k.hold_unheld

theorem getCore_releaseHold_same (s : State) (c : CoreId) : getCore (releaseHold s c) c = (getCore s c).unheld := by
  unfold releaseHold
  split
  · next h => rw [getCore_cores (noted_cores _), modStk, getCore_modCore_same, CoreState.unheld_of_held h]
  · next h => rw [CoreState.unheld_of_free (by simpa using h)]

theorem getCore_releaseHold_other (s : State) {c d : CoreId} (h : c ≠ d) : getCore (releaseHold s c) d = getCore s d := by
  unfold releaseHold
  split
  · rw [getCore_cores (noted_cores _), modStk, getCore_modCore_other _ _ h]
  · rfl

/-- The cores after the release of a list of cores. -/
theorem getCore_releaseHolds (d : CoreId) : ∀ (l : List CoreId) (s : State),
    getCore (l.foldl releaseHold s) d = if d ∈ l then (getCore s d).unheld else getCore s d
  | [], s => by simp
  | c :: l, s => by
    rw [List.foldl_cons, getCore_releaseHolds d l]
    by_cases hd : c = d
    · subst hd
      simp [getCore_releaseHold_same, CoreState.unheld_unheld]
    · simp [getCore_releaseHold_other s hd, Ne.symm hd]

theorem hold_settleHolds {s : State} {c : CoreId} (h : holdsSets s c = false) : (getCore (settleHolds s) c).stk.hold = false := by
  have hcore : getCore (settleHolds s) c = (getCore s c).unheld := by
    refine (getCore_cores (modReg_cores ..) c).trans ?_
    rw [getCore_releaseHolds, if_pos (by simp [allFin, h])]
  rw [hcore, CoreState.hold_unheld]

/-- The Registrar without a debug unlock. -/
def locked (s : State) : State := modReg s fun r => { r with dbgCores := 0, dbgRights := 0, dbgUntil := 0, tapUsed := false }

theorem holdsSets_locked (s : State) (c : CoreId) : holdsSets (locked s) c = false := by
  simp [holdsSets, locked, modReg, bit]

/-- What the end of an unlock leaves. -/
theorem endUnlock_keeps {β : Type} {g : State → β} (hg : OutsideHolds g)
    (hreset : ∀ s, g (modReg s fun r => { r with resetDue := true }) = g s) (s : State) : g (endUnlock s) = g (locked s) := by
  unfold endUnlock
  refine (hg.noted _).trans ?_
  split
  · rw [hreset, hg.settleHolds, locked]
  · rw [hg.settleHolds, locked]

theorem hold_endUnlock (s : State) (c : CoreId) : (getCore (endUnlock s) c).stk.hold = false := by
  have hsettled := hold_settleHolds (holdsSets_locked s c)
  unfold endUnlock
  rw [getCore_cores (noted_cores _)]
  split
  · exact hsettled
  · exact hsettled

/-! ### DEBUG_UNLOCK and DEBUG_RELEASE -/

theorem endUnlock_mem (s : State) : (endUnlock s).mem = s.mem := endUnlock_keeps outsideHolds_mem (fun _ => rfl) s

theorem endUnlock_dbgCores (s : State) : (endUnlock s).reg.dbgCores = 0 :=
  endUnlock_keeps (outsideHolds_reg (·.dbgCores) (fun _ _ => rfl) fun _ _ => rfl) (fun _ => rfl) s

theorem endUnlock_dbgRights (s : State) : (endUnlock s).reg.dbgRights = 0 :=
  endUnlock_keeps (outsideHolds_reg (·.dbgRights) (fun _ _ => rfl) fun _ _ => rfl) (fun _ => rfl) s

theorem endUnlock_dbgUntil (s : State) : (endUnlock s).reg.dbgUntil = 0 :=
  endUnlock_keeps (outsideHolds_reg (·.dbgUntil) (fun _ _ => rfl) fun _ _ => rfl) (fun _ => rfl) s

/-- Cores, rights and an end as a DEBUG_UNLOCK gives them. -/
def unlocked (s : State) (m : Mailbox) : State :=
  modReg s fun r => { r with
    dbgCores := BitVec.ofNat 12 (pf m 0 2), dbgRights := BitVec.ofNat 8 (pf m 2 1)
    dbgUntil := r.time.toNat + pf m 4 4 * 10 ^ 9 }

/-- A debug unlock taken up. -/
def startUnlock (s : State) (m : Mailbox) : State := noted (settleHolds (unlocked s m))

theorem startUnlock_keeps {β : Type} {g : State → β} (hg : OutsideHolds g) (s : State) (m : Mailbox) :
    g (startUnlock s m) = g (unlocked s m) := (hg.noted _).trans (hg.settleHolds _)

theorem startUnlock_sets (s : State) (m : Mailbox) :
    (startUnlock s m).reg.dbgCores = BitVec.ofNat 12 (pf m 0 2) ∧ (startUnlock s m).reg.dbgRights = BitVec.ofNat 8 (pf m 2 1) ∧
      (startUnlock s m).reg.dbgUntil = s.reg.time.toNat + pf m 4 4 * 10 ^ 9 ∧ (startUnlock s m).mem = s.mem :=
  ⟨startUnlock_keeps (outsideHolds_reg (·.dbgCores) (fun _ _ => rfl) fun _ _ => rfl) s m,
    startUnlock_keeps (outsideHolds_reg (·.dbgRights) (fun _ _ => rfl) fun _ _ => rfl) s m,
    startUnlock_keeps (outsideHolds_reg (·.dbgUntil) (fun _ _ => rfl) fun _ _ => rfl) s m,
    startUnlock_keeps outsideHolds_mem s m⟩

section
variable {s : State} {k : Fin 16}

theorem exec_debugUnlock_of_start (hrun : running s k 0xC3 = true) (htime : pf (getMb s k) 4 4 ≠ 0) :
    exec (.debugUnlock k) s = .next (ends (startUnlock s (getMb s k)) k 0 []) := by
  rw [exec_debugUnlock, execDebugUnlock, command_of_passed hrun rfl]
  dsimp only
  rw [if_neg htime, startUnlock, unlocked]

theorem exec_debugUnlock_of_end (hrun : running s k 0xC3 = true) (htime : pf (getMb s k) 4 4 = 0) :
    exec (.debugUnlock k) s = .next (ends (endUnlock s) k 0 []) := by
  rw [exec_debugUnlock, execDebugUnlock, command_of_passed hrun rfl]
  dsimp only
  rw [if_pos htime]

theorem exec_debugUnlockExpire_of_over (hunlock : s.reg.dbgUntil ≠ 0) (hover : s.reg.dbgUntil ≤ s.reg.time.toNat) :
    exec .debugUnlockExpire s = .next (endUnlock s) := by
  rw [exec_debugUnlockExpire, execDebugUnlockExpire, if_neg (by omega)]

theorem exec_debugRelease_of_runs (hrun : running s k 0xC8 = true) :
    exec (.debugRelease k) s = .next (ends ((coresIn (pf (getMb s k) 0 2)).foldl releaseHold s) k 0 []) := by
  rw [exec_debugRelease, execDebugRelease, command_of_passed hrun rfl]

end

/-- Settles O42: each command that runs has the effect of its case, and the views of the state that no release of held sets changes
give what an unlock, its end and a release leave. -/
theorem ownerCommands : Obligations.OwnerCommands := by
  rintro s k _ rfl
  refine ⟨?ownerSet, exec_ownerSet_of_owned, ?keyChange, ?fwUpdate, ?licenceInstall, ?debugUnlock, ?expire, ?debugRelease,
    ?append, ?clear, ?reset⟩
  case ownerSet =>
    intro hrun hfree
    obtain ⟨hkey, hlast, hhigh, howned, hcores, hmem⟩ := ends_owned_sets s (getMb s k) (k := k) 0 []
    exact ⟨_, exec_ownerSet_of_unowned hrun hfree, hkey, hlast, hhigh, howned, result_endsWith .., hcores, hmem⟩
  case keyChange =>
    rintro hrun _ rfl
    exact ⟨exec_keyChange_of_refused hrun, fun _ => exec_keyChange_of_unwrapped hrun⟩
  case fwUpdate =>
    intro hrun ok img himg
    refine ⟨exec_fwUpdate_of_unverified ok hrun himg, fun hclean hverifies =>
      ⟨exec_fwUpdate_of_rollback ok hrun himg hclean hverifies, fun hnew hactivate => ?stage,
        fun hnew hactivate hlive hok => ?handOver⟩⟩
    case stage =>
      exact ⟨_, exec_fwUpdate_of_stage ok hrun himg hclean hverifies hnew hactivate, by simp, by simp, by simp, by simp, by simp,
        result_updateEnds_version ..⟩
    case handOver =>
      subst hok
      refine ⟨_, exec_fwUpdate_of_handOver hrun himg hclean hverifies hnew hactivate hlive, ?_⟩
      simp [imageSlot]
  case licenceInstall =>
    rintro hrun l _ hl rfl
    exact ⟨exec_licenceInstall_of_unverified hrun hl, fun hclean hverifies =>
      ⟨exec_licenceInstall_of_rollback hrun hl hclean hverifies, exec_licenceInstall_of_kept hrun hl hclean hverifies,
        exec_licenceInstall_of_badForm hrun hl hclean hverifies⟩⟩
  case debugUnlock =>
    refine fun hrun => ⟨fun htime => ?_, fun htime => ?_⟩
    · obtain ⟨hcores, hrights, huntil, hmem⟩ := startUnlock_sets s (getMb s k)
      exact ⟨_, exec_debugUnlock_of_start hrun htime, hcores, hrights, huntil, result_endsWith .., hmem⟩
    · exact ⟨_, exec_debugUnlock_of_end hrun htime, endUnlock_dbgCores s, endUnlock_dbgRights s, endUnlock_dbgUntil s,
        result_endsWith .., endUnlock_mem s⟩
  case expire =>
    exact fun hunlock hover => ⟨_, exec_debugUnlockExpire_of_over hunlock hover, endUnlock_dbgCores s, endUnlock_dbgRights s,
      endUnlock_dbgUntil s, endUnlock_mem s, hold_endUnlock s⟩
  case debugRelease =>
    refine fun hrun => ⟨_, exec_debugRelease_of_runs hrun, result_endsWith .., outsideHolds_mem.releaseHolds .., fun c hc => ?_⟩
    rw [ends, endsWith, getCore_cores (modMb_cores ..), getCore_releaseHolds, if_pos (by simp [coresIn, allFin, hc])]
    refine ⟨CoreState.hold_unheld _, fun hheld => ?_⟩
    rw [CoreState.unheld_of_held hheld]
  case append =>
    intro hop hruns
    rw [exec_condEditAppend, execCondEditAppend, commandOp_of_passed hop hruns]
  case clear =>
    intro hop hruns
    rw [exec_condEditClear, execCondEditClear, commandOp_of_passed hop hruns]
  case reset =>
    intro hrun
    rw [exec_deviceReset, execDeviceReset, command_of_passed hrun rfl]

end Sys2Proof.Machine
end

section
/-!
What the operations on the cores of a job leave (R330 to R334): views of the state in which no change of a core, of its traffic or
of its announcements shows, and folds over the cores of a job.
-/
namespace Sys2Proof.Machine

/-! ### Views apart from a core -/

/-- A change that INVENTORY reports leaves of the Registrar whatever is not INV_GEN. -/
theorem noted_keeps_reg {β : Type} (g : Registrar → β) (hg : ∀ r n, g { r with invGen := n } = g r) (s : State) :
    g (noted s).reg = g s.reg :=
  (congrArg g (raiseVec_reg ..)).trans (hg s.reg _)

theorem noted_jobs (s : State) : (noted s).reg.jobs = s.reg.jobs := noted_keeps_reg (·.jobs) (fun _ _ => rfl) s

/-- A view of the state in which neither the cores of a list show nor what Lacing, the tiers, the power block, the tags, the free
values and INV_GEN record of what they do. -/
structure OutsideCores {β : Type} (l : List CoreId) (g : State → β) : Prop where
  core : ∀ c ∈ l, ∀ s f, g (modCore s c f) = g s
  lacing : ∀ s f, g (modLacing s f) = g s
  tiers : ∀ s f, g (modTiers s f) = g s
  power : ∀ s f, g (modPower s f) = g s
  full : ∀ s n b, g (setFull s n b) = g s
  free : ∀ s, g (takeFree s).2 = g s
  noted : ∀ s, g (noted s) = g s

theorem outsideCores_mem (l : List CoreId) : OutsideCores l (·.mem) where
  core _ _ _ _ := rfl
  lacing _ _ := rfl
  tiers _ _ := rfl
  power _ _ := rfl
  full _ _ _ := rfl
  free _ := rfl
  noted := noted_mem

/-- Of the Registrar, whatever is not INV_GEN. -/
theorem outsideCores_reg {β : Type} (l : List CoreId) (g : Registrar → β) (hg : ∀ r n, g { r with invGen := n } = g r) :
    OutsideCores l fun s => g s.reg where
  core _ _ _ _ := rfl
  lacing _ _ := rfl
  tiers _ _ := rfl
  power _ _ := rfl
  full _ _ _ := rfl
  free _ := rfl
  noted := noted_keeps_reg g hg

/-- A core that the list does not name. -/
theorem outsideCores_getCore {l : List CoreId} {d : CoreId} (h : d ∉ l) : OutsideCores l (getCore · d) where
  core _ hc s f := getCore_modCore_other s f fun e => h (e ▸ hc)
  lacing _ _ := rfl
  tiers _ _ := rfl
  power _ _ := rfl
  full _ _ _ := rfl
  free _ := rfl
  noted s := getCore_cores (noted_cores s) d

/-- What a change of a core leaves of each core. -/
theorem modCore_keeps {α : Type} (g : CoreState → α) {f : CoreState → CoreState} (hf : ∀ k, g (f k) = g k) (s : State) (c d : CoreId) :
    g (getCore (modCore s c f) d) = g (getCore s d) := by
  by_cases h : c = d
  · subst h
    rw [getCore_modCore_same, hf]
  · rw [getCore_modCore_other s f h]

/-! ### Folds over the cores of a job -/

/-- A fold whose steps on the elements of its list leave a view leaves it. -/
theorem foldl_keeps_of_mem {α β : Type} (g : State → β) {f : State → α → State} : ∀ {l : List α} {s : State},
    (∀ a ∈ l, ∀ s, g (f s a) = g s) → g (l.foldl f s) = g s
  | [], _, _ => rfl
  | a :: l, s, h => by
    rw [List.foldl_cons, foldl_keeps_of_mem g fun b hb => h b (List.mem_cons_of_mem _ hb), h a List.mem_cons_self]

/-- What the step on its own core brings about and the steps on other cores leave, holds after the fold. -/
theorem foldl_establishes {α : Type} {f : State → α → State} (key : α → CoreId) (p : CoreState → Prop)
    {d : CoreId} (hsame : ∀ s a, key a = d → p (getCore (f s a) d)) (hother : ∀ s a, key a ≠ d → getCore (f s a) d = getCore s d) :
    ∀ {l : List α} {s : State}, p (getCore s d) ∨ d ∈ l.map key → p (getCore (l.foldl f s) d)
  | [], _, h => h.resolve_right List.not_mem_nil
  | a :: l, s, h => by
    rw [List.foldl_cons]
    refine foldl_establishes key p hsame hother ?_
    by_cases ha : key a = d
    · exact .inl (hsame s a ha)
    · rw [hother s a ha]
      exact h.imp_right fun hd => List.mem_of_ne_of_mem (Ne.symm ha) hd

/-- A change done on each core of a list in which no core stands twice. -/
theorem getCore_foldl_modCore (f : CoreState → CoreState) (d : CoreId) : ∀ {l : List CoreId} {s : State}, l.Nodup →
    getCore (l.foldl (fun s c => modCore s c f) s) d = if d ∈ l then f (getCore s d) else getCore s d
  | [], s, _ => by simp
  | c :: l, s, h => by
    obtain ⟨hc, hl⟩ := List.nodup_cons.mp h
    rw [List.foldl_cons, getCore_foldl_modCore f d hl]
    by_cases hd : c = d
    · subst hd
      simp [hc]
    · simp [getCore_modCore_other s f hd, Ne.symm hd]

end Sys2Proof.Machine
end

section
/-!
JOB_LOAD, JOB_START, JOB_PAUSE and JOB_RESUME (R324 to R332).
-/
namespace Sys2Proof.Machine

section
variable {s : State} {k : Fin 16}

/-! ### The instructions -/

theorem exec_jobStart : exec (.jobStart k) s = execJobStart k s := rfl
theorem exec_jobPause : exec (.jobPause k) s = execJobPause k s := rfl
theorem exec_jobResume : exec (.jobResume k) s = execJobResume k s := rfl

end

/-! ### The end of a command -/

@[simp] theorem findJob_ends (s : State) (k : Fin 16) (st : BitVec 16) (resp : List Byte) (n : BitVec 6) :
    findJob (ends s k st resp) n = findJob s n := rfl

@[simp] theorem getCore_ends (s : State) (k : Fin 16) (st : BitVec 16) (resp : List Byte) (c : CoreId) :
    getCore (ends s k st resp) c = getCore s c := rfl

@[simp] theorem mem_ends (s : State) (k : Fin 16) (st : BitVec 16) (resp : List Byte) : (ends s k st resp).mem = s.mem := rfl

@[simp] theorem grants_ends (s : State) (k : Fin 16) (st : BitVec 16) (resp : List Byte) :
    (ends s k st resp).reg.grants = s.reg.grants := rfl

/-! ### Loading -/

theorem loadConst_cores (i : List Byte) (c : CoreId) (s : State) (e : List Byte) : (loadConst i c s e).cores = s.cores :=
  foldl_field (·.cores) (by intros; rfl) _ _

/-- A CONST entry is written into Stacks, above all other device memory (R320). -/
theorem memGet_loadConst {a : Nat} (h : a < 0x080000000000) (i : List Byte) (c : CoreId) (s : State) (e : List Byte) :
    memGet (loadConst i c s e).mem a = memGet s.mem a := by
  have hmem : (loadConst i c s e).mem = memWrite s.mem (stacksAddr c (leAt e 4 4)) (slice i (leAt e 12 4) (leAt e 8 4)) :=
    foldl_field (·.mem) (by intros; rfl) _ _
  rw [hmem, memGet_memWrite_other (.inl (by simp only [stacksAddr]; omega))]

/-- The cores that image core k is loaded on reads LOADED with the job, no sequencer running (R330). -/
theorem getCore_loadCore_same (i : List Byte) (id : BitVec 6) (s : State) (k : Nat) (c : CoreId) :
    (getCore (loadCore i id s k c) c).st = .loaded ∧ (getCore (loadCore i id s k c) c).jobId = id ∧
      (getCore (loadCore i id s k c) c).seqRun = 0 := by
  unfold loadCore
  dsimp only
  rw [getCore_cores (foldl_field (·.cores) (loadConst_cores i c) _ _), getCore_modCore_same]
  exact ⟨rfl, rfl, rfl⟩

theorem getCore_loadCore_other (i : List Byte) (id : BitVec 6) (s : State) (k : Nat) {c d : CoreId} (h : c ≠ d) :
    getCore (loadCore i id s k c) d = getCore s d := by
  unfold loadCore
  dsimp only
  rw [getCore_cores (foldl_field (·.cores) (loadConst_cores i c) _ _), getCore_modCore_other _ _ h]

theorem memGet_loadCore {a : Nat} (h : a < 0x080000000000) (i : List Byte) (id : BitVec 6) (s : State) (k : Nat) (c : CoreId) :
    memGet (loadCore i id s k c).mem a = memGet s.mem a :=
  foldl_field (fun s => memGet s.mem a) (memGet_loadConst h i c) _ _

section
variable (s : State) (i : List Byte) (id : BitVec 6) (pl : Nat) (fn : Fin 9)

/-- The images' cores loaded on the placed cores. -/
def loadedCores : State := (jobOf i id pl fn).cores.zipIdx.foldl (fun s x => loadCore i id s x.2 x.1) s

theorem loadJob_eq : loadJob s i id pl fn = noted (modReg (loadedCores s i id pl fn) fun r => { r with
    jobs := r.jobs ++ [jobOf i id pl fn]
    nextJob := BitVec.ofNat 6 (id.toNat % 63 + 1)
    grants := vset r.grants fn (some (imageWindows i)) }) := rfl

theorem loadedCores_reg : (loadedCores s i id pl fn).reg = s.reg := foldl_field (·.reg) (fun _ _ => loadCore_reg) _ _

theorem loadJob_jobs : (loadJob s i id pl fn).reg.jobs = s.reg.jobs ++ [jobOf i id pl fn] := by
  rw [loadJob_eq, noted_jobs, modReg_reg, loadedCores_reg]

theorem loadJob_grant : vget (loadJob s i id pl fn).reg.grants fn = some (imageWindows i) := by
  rw [loadJob_eq, noted_keeps_reg (·.grants) fun _ _ => rfl]
  simp only [modReg_reg, vget_vset_same]

theorem getCore_loadJob (c : CoreId) : getCore (loadJob s i id pl fn) c = getCore (loadedCores s i id pl fn) c := by
  rw [loadJob_eq, getCore_cores (noted_cores _), getCore_cores (modReg_cores ..)]

variable {i id pl fn} in
theorem getCore_loadJob_of_mem {c : CoreId} (h : c ∈ (jobOf i id pl fn).cores) :
    (getCore (loadJob s i id pl fn) c).st = .loaded ∧ (getCore (loadJob s i id pl fn) c).jobId = id ∧
      (getCore (loadJob s i id pl fn) c).seqRun = 0 := by
  rw [getCore_loadJob]
  refine foldl_establishes Prod.fst (fun k => k.st = .loaded ∧ k.jobId = id ∧ k.seqRun = 0)
    (fun s x hx => hx ▸ getCore_loadCore_same i id s x.2 x.1) (fun s x => getCore_loadCore_other i id s x.2) (.inr ?_)
  rwa [List.zipIdx_map_fst]

variable {i id pl fn} in
theorem getCore_loadJob_of_not_mem {c : CoreId} (h : c ∉ (jobOf i id pl fn).cores) :
    getCore (loadJob s i id pl fn) c = getCore s c := by
  rw [getCore_loadJob]
  refine foldl_keeps_of_mem (getCore · c) fun x hx s => getCore_loadCore_other i id s x.2 fun hc => h ?_
  exact hc ▸ List.fst_mem_of_mem_zipIdx hx

theorem memGet_loadJob {a : Nat} (h : a < 0x080000000000) : memGet (loadJob s i id pl fn).mem a = memGet s.mem a := by
  rw [loadJob_eq, noted_mem, modReg_mem]
  exact foldl_field (fun s => memGet s.mem a) (by intro s x; exact memGet_loadCore h i id s x.2 x.1) _ _

end

/-- The next free ID is no job's. -/
theorem findJob_of_freeJobId {s : State} {id : BitVec 6} (h : freeJobId s.reg = some id) : findJob s id = none := by
  have hfree := List.find?_some h
  rw [findJob, List.find?_eq_none]
  simpa using hfree

/-- The jobs after one has been appended. -/
theorem findJob_append {s t : State} {j : Job} (h : t.reg.jobs = s.reg.jobs ++ [j]) (hnew : findJob s j.id = none) (n : BitVec 6) :
    findJob t n = if n = j.id then some j else findJob s n := by
  rw [findJob, h, List.find?_append]
  split
  case isTrue hn =>
    subst hn
    rw [show s.reg.jobs.find? (fun x => x.id == j.id) = none from hnew]
    simp
  case isFalse hn => simp [findJob, Ne.symm hn]

/-- JOB_LOAD of an image that passes its checks, from a mailbox that no FLR has abandoned (R327, R328, R330). -/
theorem exec_jobLoad_of_runs {s : State} {k : Fin 16} (hruns : s.Runs k 0x20 jobLoadAllow) (hkept : (getMb s k).aband = false)
    {i : List Byte} {fn : Fin 9} (hi : i = loadImage s (getMb s k)) (hfn : fn = finOf 9 (by decide) (pf (getMb s k) 16 1))
    {id : BitVec 6} {pl : Nat} (hid : freeJobId s.reg = some id) (hpl : choosePlace s i (pf (getMb s k) 17 1) = some pl) :
    exec (.jobLoad k) s = .next (ends (loadJob s i id pl fn) k 0
      (leBytes 1 id.toNat ++ leBytes 1 pl ++ leBytes 2 (coreMaskOf (jobOf i id pl fn).cores) ++ [0, 0, 0, 0])) := by
  rw [exec_jobLoad, execJobLoad, command_of_passed hruns.1 hruns.2, ← hi, ← hfn]
  dsimp only
  rw [hid, hpl, hkept]
  rfl

/-! ### Starting -/

section
variable {β : Type} {g : State → β} {l : List CoreId} (hg : OutsideCores l g)
include hg

theorem OutsideCores.announceActivity (s : State) (c : CoreId) (rise : Bool) : g (announceActivity s c rise) = g s := by
  unfold Machine.announceActivity announce
  exact (hg.power _ _).trans (hg.free s)

theorem OutsideCores.prepareCore {c : CoreId} (hc : c ∈ l) (j : Job) (key : BitVec 128) (fp : BitVec 16) (s : State) :
    g (prepareCore j key fp s c) = g s :=
  (hg.announceActivity _ _ _).trans (hg.core c hc s _)

theorem OutsideCores.openDecl {j : Job} (hl : j.cores = l) (s : State) (d : CarrelDecl) : g (openDecl j s d) = g s := by
  unfold Machine.openDecl
  split
  · rfl
  · rename_i c hc
    have hopen : g (openCarrel s c d.k (declRecord j d)) = g s :=
      (hg.noted _).trans (hg.core c (hl ▸ List.mem_of_getElem? hc) _ _)
    dsimp only
    split
    · exact hopen
    · exact (foldl_field g (fun _ _ => hg.full _ _ _) _ _).trans hopen

end

/-- Opening a declared Carrel changes of a core its Stacks only. -/
theorem openDecl_keeps {α : Type} (g : CoreState → α) (hg : ∀ k x, g { k with stk := x } = g k) (j : Job) (s : State) (x : CarrelDecl)
    (d : CoreId) : g (getCore (openDecl j s x) d) = g (getCore s d) := by
  unfold openDecl
  split
  · rfl
  · rename_i c _
    have hopen : g (getCore (openCarrel s c x.k (declRecord j x)) d) = g (getCore s d) := by
      rw [openCarrel_eq, getCore_cores (noted_cores _)]
      exact modCore_keeps g (fun _ => hg _ _) s c d
    dsimp only
    split
    · exact hopen
    · exact (congrArg g (getCore_cores (foldl_field (·.cores) (by intros; rfl) _ _) d)).trans hopen

/-- The registers of a core as its preparation leaves them (R331): clusters ungated, frame table T0, DET as the image says. -/
def CoreState.preparedFor (j : Job) (k : CoreState) : Prop := k.clGate = 0 ∧ k.frameSel = 0 ∧ k.num.det = bit j.flags 0

theorem getCore_prepareCore_same (j : Job) (key : BitVec 128) (fp : BitVec 16) (s : State) (c : CoreId) :
    (getCore (prepareCore j key fp s c) c).preparedFor j := by
  have hcore : getCore (prepareCore j key fp s c) c = getCore (modCore s c _) c := getCore_cores rfl c
  rw [hcore, getCore_modCore_same]
  exact ⟨rfl, rfl, rfl⟩

/-- The bits of a mask after those of a list have been set. -/
theorem bit_foldl_setBit {w i : Nat} : ∀ {l : List Nat} {m : BitVec w}, (∀ n ∈ l, n < w) →
    (bit (l.foldl (fun m n => setBit m n true) m) i = true ↔ bit m i = true ∨ i ∈ l)
  | [], m, _ => by simp
  | n :: l, m, h => by
    obtain ⟨hn, hl⟩ := List.forall_mem_cons.mp h
    rw [List.foldl_cons, bit_foldl_setBit hl, List.mem_cons]
    by_cases hi : n = i
    · subst hi
      simp [setBit_bit m n hn]
    · simp [bit_setBit_other m true hi, Ne.symm hi]

/-- The sequencers of core c that have half-0 code (R318). -/
def codedSeqs (j : Job) (c : CoreId) : List Nat := (j.coded.filter fun x => x.1 == c).map fun x => x.2.val

theorem mem_codedSeqs {j : Job} {c : CoreId} {q : SeqId} : q.val ∈ codedSeqs j c ↔ (c, q) ∈ j.coded := by
  simp [codedSeqs, Fin.val_inj]

theorem lt_of_mem_codedSeqs {j : Job} {c : CoreId} {n : Nat} (h : n ∈ codedSeqs j c) : n < 16 := by
  obtain ⟨x, _, rfl⟩ := List.mem_map.mp h
  exact x.2.isLt

/-- A core RUNS with exactly the sequencers that have code, these issuing (R331). -/
def CoreState.runsCode (j : Job) (c : CoreId) (k : CoreState) : Prop :=
  k.st = .running ∧ ∀ q : SeqId, (bit k.seqRun q.val = true ↔ (c, q) ∈ j.coded) ∧ ((c, q) ∈ j.coded → (vget k.seqs q).st = .issuing)

theorem getCore_runCore_same (j : Job) (s : State) (c : CoreId) : (getCore (runCore j s c) c).runsCode j c := by
  have hcore : getCore (runCore j s c) c = { getCore s c with
      st := .running
      seqRun := (codedSeqs j c).foldl (fun m q => setBit m q true) 0
      seqs := (allFin 16).foldl (fun v q => if (codedSeqs j c).contains q.val = true then vmod v q fun x => { x with st := .issuing } else v)
        (getCore s c).seqs } := getCore_modCore_same ..
  rw [hcore]
  refine ⟨rfl, fun q => ⟨?_, fun hq => ?_⟩⟩
  · rw [bit_foldl_setBit fun n => lt_of_mem_codedSeqs, mem_codedSeqs]
    simp [bit]
  · dsimp only
    rw [vget_foldl_vmod (fun q : SeqId => (codedSeqs j c).contains q.val) _ q (allFin 16) _ (List.nodup_finRange 16),
      if_pos ⟨List.mem_finRange q, List.contains_iff_mem.mpr (mem_codedSeqs.mpr hq)⟩]

theorem getCore_runCore_other (j : Job) (s : State) {c d : CoreId} (h : c ≠ d) : getCore (runCore j s c) d = getCore s d :=
  getCore_modCore_other _ _ h

/-- The cores of a job prepared, its declared Carrels open and its sequencers running (R331). -/
def startedCores (s : State) (j : Job) (key : BitVec 128) (fp : BitVec 16) (decls : List CarrelDecl) : State :=
  j.cores.foldl (runCore j) (decls.foldl (openDecl j) (j.cores.foldl (prepareCore j key fp) s))

section
variable (s : State) (j : Job) (key : BitVec 128) (fp : BitVec 16) (decls : List CarrelDecl)

theorem OutsideCores.startedCores {β : Type} {g : State → β} (hg : OutsideCores j.cores g) :
    g (startedCores s j key fp decls) = g s :=
  (foldl_keeps_of_mem g fun c hc _ => hg.core c hc _ _).trans
    ((foldl_field g (hg.openDecl rfl) _ _).trans (foldl_keeps_of_mem g fun _ hc => hg.prepareCore hc j key fp))

variable {j} in
/-- A core of the job once it has started (R331). -/
theorem getCore_startedCores {c : CoreId} (hc : c ∈ j.cores) :
    (getCore (startedCores s j key fp decls) c).runsCode j c ∧ (getCore (startedCores s j key fp decls) c).preparedFor j := by
  have hprep : (getCore (j.cores.foldl (prepareCore j key fp) s) c).preparedFor j :=
    foldl_establishes id (CoreState.preparedFor j) (fun s d hd => hd ▸ getCore_prepareCore_same j key fp s d)
      (fun s d hd => (outsideCores_getCore (l := [d]) (by simpa using Ne.symm hd)).prepareCore List.mem_cons_self j key fp s)
      (.inr (by simpa using hc))
  have hkeeps : (getCore (startedCores s j key fp decls) c).preparedFor j =
      (getCore (j.cores.foldl (prepareCore j key fp) s) c).preparedFor j :=
    (foldl_field (fun s => (getCore s c).preparedFor j) (by intro s d; exact modCore_keeps _ (by intro; rfl) s d c) _ _).trans
      (foldl_field (fun s => (getCore s c).preparedFor j) (by intro s x; exact openDecl_keeps _ (by intros; rfl) j s x c) _ _)
  refine ⟨?_, hkeeps ▸ hprep⟩
  exact foldl_establishes id (CoreState.runsCode j c) (fun s d hd => hd ▸ getCore_runCore_same j s d)
    (fun s d => getCore_runCore_other j s) (.inr (by simpa using hc))

end

/-- A job that starts (R331): its cores, and what shows neither in them nor in what they announce. -/
theorem startJob_eq (s : State) (j : Job) : ∃ v, startJob s j = noted (modJob v j.id fun x => { x with state := 4, startNs := s.reg.time }) ∧
    (∀ {β : Type} {g : State → β}, OutsideCores j.cores g → g v = g s) ∧
    ∀ c ∈ j.cores, (getCore v c).runsCode j c ∧ (getCore v c).preparedFor j := by
  obtain ⟨u, key, fp, decls, hu, hstart⟩ : ∃ u key fp decls, (u = s ∨ u = (takeFree s).2) ∧
      startJob s j = noted (modJob (startedCores u j key fp decls) j.id fun x =>
        { x with state := 4, startNs := (startedCores u j key fp decls).reg.time }) := by
    unfold startJob
    refine ⟨_, _, _, _, ?_, rfl⟩
    split
    · exact .inl rfl
    · exact .inr rfl
  have hkeeps : ∀ {β : Type} {g : State → β}, OutsideCores j.cores g → g (startedCores u j key fp decls) = g s := fun hg =>
    (hg.startedCores u j key fp decls).trans (hu.elim (fun e => by rw [e]) fun e => by rw [e, hg.free])
  refine ⟨_, ?_, hkeeps, fun c => getCore_startedCores u key fp decls⟩
  rw [hstart, hkeeps (outsideCores_reg _ (·.time) fun _ _ => rfl)]

/-! ### Commands on a job -/

theorem findJob_id {s : State} {n : BitVec 6} {j : Job} (h : findJob s n = some j) : j.id = n := by
  simpa using List.find?_some h

theorem findJob_of_jobNamed {s : State} {m : Mailbox} {j : Job} (h : jobNamed s m = some j) : findJob s j.id = some j := by
  rw [findJob_id h]
  exact h

/-- A command that has changed a job's cores and the job, and ends OK (R331, R332). -/
def endsJob (u : State) (k : Fin 16) (id : BitVec 6) (f : Job → Job) : State := ends (noted (modJob u id f)) k 0 []

section
variable (u : State) (k : Fin 16) (id : BitVec 6) (f : Job → Job)

@[simp] theorem endsJob_mem : (endsJob u k id f).mem = u.mem := noted_mem _

@[simp] theorem result_endsJob : (getMb (endsJob u k id f) k).result = some (0, [], 0) := result_endsWith ..

@[simp] theorem getCore_endsJob (c : CoreId) : getCore (endsJob u k id f) c = getCore u c := getCore_cores (noted_cores _) c

variable {u id f} in
theorem findJob_endsJob {j : Job} (hf : ∀ x, (f x).id = x.id) (h : findJob u id = some j) : findJob (endsJob u k id f) id = some (f j) := by
  rw [endsJob, findJob_ends, findJob_reg (noted_jobs _)]
  exact find_modJob hf h

end

/-- A core whose job pauses: its run mask saved and clear (R332). -/
def CoreState.paused (k : CoreState) : CoreState := { k with st := .paused, saved := k.seqRun, seqRun := 0 }

/-- A core whose job resumes: it runs the saved mask or what was set since (R332). -/
def CoreState.resumed (k : CoreState) : CoreState := { k with st := .running, seqRun := k.saved ||| k.seqRun, saved := 0 }

/-- The same change on each core of a job. -/
def changeCores (f : CoreState → CoreState) (s : State) (j : Job) : State := j.cores.foldl (fun s c => modCore s c f) s

theorem changeCores_mem (f : CoreState → CoreState) (s : State) (j : Job) : (changeCores f s j).mem = s.mem :=
  foldl_field (·.mem) (fun s c => modCore_mem s c f) _ _

theorem getCore_changeCores (f : CoreState → CoreState) (s : State) {j : Job} (h : j.cores.Nodup) (c : CoreId) :
    getCore (changeCores f s j) c = if c ∈ j.cores then f (getCore s c) else getCore s c :=
  getCore_foldl_modCore f c h

theorem findJob_changeCores (f : CoreState → CoreState) (s : State) (j : Job) (n : BitVec 6) :
    findJob (changeCores f s j) n = findJob s n :=
  findJob_reg (congrArg Registrar.jobs (fold_jobs f j.cores s)) n

section
variable {s : State} {k : Fin 16} {j : Job} (hj : jobNamed s (getMb s k) = some j)
include hj

theorem exec_jobStart_of_runs (hruns : s.Runs k 0x21 jobStartAllow) : exec (.jobStart k) s = .next (ends (startJob s j) k 0 []) := by
  rw [exec_jobStart, execJobStart, command_of_passed hruns.1 hruns.2]
  simp only [hj]

theorem exec_jobPause_of_runs (hruns : s.Runs k 0x22 (jobIn [4])) :
    exec (.jobPause k) s = .next (endsJob (changeCores CoreState.paused s j) k j.id fun x => { x with state := 5 }) := by
  rw [exec_jobPause, execJobPause, command_of_passed hruns.1 hruns.2]
  simp only [hj]
  rfl

theorem exec_jobResume_of_runs (hruns : s.Runs k 0x23 (jobIn [5])) :
    exec (.jobResume k) s = .next (endsJob (changeCores CoreState.resumed s j) k j.id fun x => { x with state := 4 }) := by
  rw [exec_jobResume, execJobResume, command_of_passed hruns.1 hruns.2]
  simp only [hj]
  rfl

end

/-- Settles O44: the load by its job and its cores, the other commands by what they do to the cores and the end they share. -/
theorem jobsRun : Obligations.JobsRun := by
  rintro s k _ rfl
  refine ⟨fun hruns hkept i fn id pl hi hfn hid hpl => ?load, fun j hj hnodup => ?_⟩
  case load =>
    have hjobs := findJob_append (loadJob_jobs s i id pl fn) (findJob_of_freeJobId hid)
    refine ⟨_, exec_jobLoad_of_runs hruns hkept hi hfn hid hpl, ?_⟩
    simp only [findJob_ends, getCore_ends, mem_ends, grants_ends, hjobs, loadJob_grant]
    exact ⟨if_pos rfl, rfl, fun n hn => if_neg hn, trivial, fun c => getCore_loadJob_of_mem s,
      fun c => getCore_loadJob_of_not_mem s, fun a ha => memGet_loadJob s i id pl fn ha, result_endsWith ..⟩
  have hfind := findJob_of_jobNamed hj
  refine ⟨fun hruns => ?start, fun hruns => ?pause, fun hruns => ?resume⟩
  case start =>
    obtain ⟨v, hstart, hkeeps, hcores⟩ := startJob_eq s j
    have hjob : findJob v j.id = some j := (findJob_reg (hkeeps (outsideCores_reg _ (·.jobs) fun _ _ => rfl)) _).trans hfind
    refine ⟨endsJob v k j.id fun x => { x with state := 4, startNs := s.reg.time },
      (exec_jobStart_of_runs hj hruns).trans (by rw [hstart]; rfl), findJob_endsJob k (fun _ => rfl) hjob,
      (endsJob_mem ..).trans (hkeeps (outsideCores_mem _)), result_endsJob .., fun c hc => ?_, fun c hc => ?_⟩
    · simp only [getSeq, getCore_endsJob]
      obtain ⟨⟨hst, hseqs⟩, hgate, hframe, hdet⟩ := hcores c hc
      exact ⟨hst, hgate, hframe, hdet, hseqs⟩
    · rw [getCore_endsJob, hkeeps (outsideCores_getCore hc)]
  case pause =>
    refine ⟨_, exec_jobPause_of_runs hj hruns, findJob_endsJob k (fun _ => rfl) ((findJob_changeCores ..).trans hfind), ?_⟩
    simp only [endsJob_mem, changeCores_mem, result_endsJob, getCore_endsJob, getCore_changeCores _ _ hnodup]
    exact ⟨trivial, trivial, fun c hc => if_neg hc, fun c hc => if_pos hc⟩
  case resume =>
    refine ⟨_, exec_jobResume_of_runs hj hruns, findJob_endsJob k (fun _ => rfl) ((findJob_changeCores ..).trans hfind), ?_⟩
    simp only [endsJob_mem, changeCores_mem, result_endsJob, getCore_endsJob, getCore_changeCores _ _ hnodup]
    exact ⟨trivial, trivial, fun c hc => if_neg hc, fun c hc => if_pos hc⟩

end Sys2Proof.Machine
end

section
/-!
The end of a job (R79, R333, R334, R398): its kill, the drain of its cores and its normal end.
-/
namespace Sys2Proof.Machine

section
variable {s : State} {k : Fin 16} {id : BitVec 6}

/-! ### The instructions -/

theorem exec_jobKill : exec (.jobKill k) s = execJobKill k s := rfl
theorem exec_killDrainEnd : exec (.killDrainEnd id) s = execKillDrainEnd id s := rfl
theorem exec_jobNormalEnd : exec (.jobNormalEnd id) s = execJobNormalEnd id s := rfl

end

/-! ### The kill -/

/-- The job that a kill leaves: draining, in SCRUB, its held cores those that a debug unlock covers now (R334). -/
theorem findJob_killJob {s : State} {id : BitVec 6} {j : Job} (hfind : findJob s id = some j) (hlive : j.killed = false)
    (code op : BitVec 16) (unit : Nat × Nat × Nat) (q : Option SeqState) :
    ∃ hold, findJob (killJob s id code op unit q) id = some { j with
      state := 6, killed := true, normal := false, draining := true, lastFault := code.setWidth 8, hold := hold } := by
  unfold killJob
  simp only [hfind, hlive, Bool.false_eq_true, if_false]
  rw [findJob_reg (writeRecord_jobs ..), findJob_reg (stopSnaps_jobs ..)]
  exact ⟨_, find_modJob (by intro; rfl) ((findJob_reg (congrArg Registrar.jobs (fold_jobs _ _ _)) _).trans hfind)⟩

/-- JOB_KILL starts the kill and waits for its end (R313, R334). -/
theorem exec_jobKill_of_runs {s : State} {k : Fin 16} {j : Job} (hj : jobNamed s (getMb s k) = some j)
    (hruns : s.Runs k 0x24 (jobIn [3, 4, 5])) :
    exec (.jobKill k) s = .next (waits (killJob s j.id 0 0 (0, 15, 0) none) k) := by
  rw [exec_jobKill, execJobKill, command_of_passed hruns.1 hruns.2, findJob_id hj]

/-! ### A core taken down -/

/-- The Stacks of a core with Carrel i closed (R77). -/
def StkState.closeCarrel (k : StkState) (i : Fin 64) : StkState :=
  if (vget k.carrels i).opened then
    { k with
      carrels := vmod k.carrels i Carrel.closed
      remote := k.remote.filter fun x => !(vget k.carrels i).parksWrite x }
  else k

theorem StkState.insvc_closeCarrel (k : StkState) (i : Fin 64) : (k.closeCarrel i).insvc = k.insvc := by
  unfold StkState.closeCarrel
  split <;> rfl

theorem StkState.opened_closeCarrel {k : StkState} {i n : Fin 64} (h : n = i ∨ (vget k.carrels n).opened = false) :
    (vget (k.closeCarrel i).carrels n).opened = false := by
  unfold StkState.closeCarrel
  split
  case isTrue hopen =>
    by_cases hn : i = n
    · subst hn
      simp [Carrel.closed]
    · rw [vget_vmod_other _ _ hn]
      exact h.resolve_left (Ne.symm hn)
  case isFalse hopen =>
    obtain rfl | hn := h
    · simpa using hopen
    · exact hn

theorem getCore_closeCarrel_same (s : State) (c : CoreId) (i : Fin 64) :
    getCore (closeCarrel s c i) c = { getCore s c with stk := (getCore s c).stk.closeCarrel i } := by
  by_cases h : (vget (getCore s c).stk.carrels i).opened = true
  · rw [getCore_cores (closeCarrel_cores h), modStk, getCore_modCore_same, StkState.closeCarrel, if_pos h]
  · rw [closeCarrel, StkState.closeCarrel, if_neg h, if_neg h]

/-- A core with the Carrels of a list closed: of its Stacks the sets in service stay, and a Carrel that was closed is closed. -/
theorem getCore_foldl_closeCarrel (c : CoreId) : ∀ (l : List (Fin 64)) (s : State), ∃ x : StkState,
    getCore (l.foldl (fun s i => closeCarrel s c i) s) c = { getCore s c with stk := x } ∧ x.insvc = (getCore s c).stk.insvc ∧
      ∀ n, n ∈ l ∨ (vget (getCore s c).stk.carrels n).opened = false → (vget x.carrels n).opened = false
  | [], s => ⟨_, rfl, rfl, fun n hn => hn.resolve_left List.not_mem_nil⟩
  | i :: l, s => by
    obtain ⟨x, hcore, hinsvc, hopened⟩ := getCore_foldl_closeCarrel c l (closeCarrel s c i)
    rw [getCore_closeCarrel_same] at hcore hinsvc hopened
    refine ⟨x, hcore, hinsvc.trans (StkState.insvc_closeCarrel ..), fun n hn => hopened n ?_⟩
    rw [List.mem_cons, or_assoc, or_left_comm] at hn
    exact hn.imp_right StkState.opened_closeCarrel

theorem getCore_releaseWaiters_same (s : State) (c : CoreId) (st : BitVec 4) : getCore (releaseWaiters s c st) c =
    { getCore s c with stk := { (getCore s c).stk with remote := (getCore s c).stk.remote.filter fun x => !x.parked } } := by
  unfold releaseWaiters
  dsimp only
  rw [modStk, getCore_modCore_same, getCore_cores (s := s) (foldl_field (·.cores) (by intros; rfl) _ _)]

/-- Core t is core k with nothing in flight and every Carrel closed; its state, its run masks and its sets stand (R334). -/
structure CoreState.Quieted (k t : CoreState) : Prop where
  infl : ∀ q : SeqId, (vget t.seqs q).infl = []
  txns : t.txns = []
  carrels : ∀ i, (vget t.stk.carrels i).opened = false
  st : t.st = k.st
  seqRun : t.seqRun = k.seqRun
  saved : t.saved = k.saved
  sets : t.sets = k.sets
  insvc : t.stk.insvc = k.stk.insvc

/-- A quiet core stays quiet whatever is written to its Stacks, apart from the sets in service and the Carrels. -/
theorem CoreState.Quieted.withStk {k t : CoreState} (h : k.Quieted t) {x : StkState} (hcarrels : x.carrels = t.stk.carrels)
    (hinsvc : x.insvc = t.stk.insvc) : k.Quieted { t with stk := x } :=
  ⟨h.infl, h.txns, fun i => hcarrels ▸ h.carrels i, h.st, h.seqRun, h.saved, h.sets, hinsvc.trans h.insvc⟩

/-- An engine reset leaves a quiet core quiet (R397). -/
theorem CoreState.Quieted.resetEngine {k : CoreState} {s : State} {c : CoreId} (h : k.Quieted (getCore s c)) (q : SeqId) :
    k.Quieted (getCore (resetEngine s c q) c) := by
  have hseq : k.Quieted (getCore (modSeq s c q fun x => { SeqState.init with imem0 := x.imem0, imem1 := x.imem1, desc := x.desc }) c) := by
    rw [modSeq, getCore_modCore_same]
    refine { h with infl := fun p => ?_ }
    by_cases hp : q = p
    · subst hp
      rw [vget_vmod_same]
      rfl
    · rw [vget_vmod_other _ _ hp, h.infl]
  unfold Machine.resetEngine
  dsimp only
  split
  · rw [modLast, getCore_modCore_same]
    exact { hseq with }
  · split
    · rw [modWelt, getCore_modCore_same]
      exact { hseq with }
    · split
      · rw [modAwl, getCore_modCore_same]
        exact { hseq with }
      · exact hseq

theorem CoreState.Quieted.foldl_resetEngine {k : CoreState} {c : CoreId} : ∀ {l : List SeqId} {s : State}, k.Quieted (getCore s c) →
    k.Quieted (getCore (l.foldl (fun s q => Machine.resetEngine s c q) s) c)
  | [], _, h => h
  | q :: l, _, h => foldl_resetEngine (l := l) (h.resetEngine q)

/-- A core whose work is absorbed, its Carrels closed, its waiters answered and its faulted engines reset (R334). -/
def quieted (s : State) (c : CoreId) : State := resetFaulted (releaseWaiters (closeAll (absorb s c) c) c 1) c

theorem getCore_quieted_same (s : State) (c : CoreId) : (getCore s c).Quieted (getCore (quieted s c) c) := by
  have hinfl : ∀ q : SeqId, (getSeq (absorb s c) c q).infl = [] := fun q => by
    rw [absorb, getSeq_cores (modTiers_cores ..), getSeq, getCore_modCore_same]
    simp [vget]
  have habsorb : getCore (absorb s c) c = getCore (modCore s c _) c := getCore_cores (modTiers_cores ..) c
  rw [getCore_modCore_same] at habsorb
  obtain ⟨x, hclose, hinsvc, hcarrels⟩ := getCore_foldl_closeCarrel c (allFin 64) (absorb s c)
  refine CoreState.Quieted.foldl_resetEngine ?_
  rw [getCore_releaseWaiters_same, closeAll, hclose]
  exact {
    infl := hinfl
    txns := by rw [habsorb]
    carrels := fun i => hcarrels i (.inl (List.mem_finRange i))
    st := by rw [habsorb]
    seqRun := by rw [habsorb]
    saved := by rw [habsorb]
    sets := by rw [habsorb]
    insvc := hinsvc.trans (by rw [habsorb]) }

section
variable {β : Type} {g : State → β} {l : List CoreId} (hg : OutsideCores l g)
include hg

theorem OutsideCores.sendFlit (s : State) (f : Flit) : g (sendFlit s f) = g s :=
  hg.lacing s fun x => { x with flight := x.flight ++ [f] }

theorem OutsideCores.respond (s : State) (f : Flit) (st : BitVec 4) (data : List Byte) (p : Bool) : g (respond s f st data p) = g s :=
  hg.sendFlit s _

variable {c : CoreId} (hc : c ∈ l)
include hc

theorem OutsideCores.absorb (s : State) : g (absorb s c) = g s := by
  unfold Machine.absorb
  exact (hg.tiers _ _).trans (hg.core c hc _ _)

theorem OutsideCores.closeCarrel (s : State) (i : Fin 64) : g (closeCarrel s c i) = g s := by
  by_cases h : (vget (getCore s c).stk.carrels i).opened = true
  · rw [closeCarrel_of_open h, hg.noted, releaseParked_eq]
    refine (hg.core c hc _ _).trans ?_
    exact (denyParked_keeps g hg.sendFlit _ _).trans (hg.core c hc _ _)
  · rw [Machine.closeCarrel, if_neg h]

theorem OutsideCores.releaseWaiters (s : State) (st : BitVec 4) : g (releaseWaiters s c st) = g s := by
  unfold Machine.releaseWaiters
  exact (hg.core c hc _ _).trans (foldl_field g (fun _ _ => hg.respond ..) _ _)

theorem OutsideCores.resetEngine (s : State) (q : SeqId) : g (resetEngine s c q) = g s := by
  have hcore := hg.core c hc
  have hseq : g (modSeq s c q fun x => { SeqState.init with imem0 := x.imem0, imem1 := x.imem1, desc := x.desc }) = g s := hcore _ _
  unfold Machine.resetEngine
  dsimp only
  split
  · exact (hcore _ _).trans hseq
  · split
    · exact (hcore _ _).trans hseq
    · split
      · exact (hcore _ _).trans hseq
      · exact hseq

theorem OutsideCores.quieted (s : State) : g (quieted s c) = g s :=
  (foldl_field g (fun s q => hg.resetEngine hc s q) _ _).trans ((hg.releaseWaiters hc _ 1).trans
    ((foldl_field g (fun s i => hg.closeCarrel hc s i) _ _).trans (hg.absorb hc s)))

theorem OutsideCores.drainCore (s : State) (held : Bool) : g (drainCore s held c) = g s :=
  (hg.core c hc _ _).trans (hg.quieted hc s)

end

theorem setsMask_congr {x y : StkState} (h : x.insvc = y.insvc) (n : Nat) : setsMask x n = setsMask y n := by
  rw [setsMask, h, setsMask]

/-- Core t is core k taken down: quiet, its sets held or in SCRUB (R334). -/
structure CoreState.Drained (held : Bool) (k t : CoreState) : Prop extends CoreState.Quieted k t where
  hold : held = true → t.stk.hold = true
  scrub : held = false → t.stk.scrub = setsMask k.stk k.sets

theorem drainCore_eq (s : State) (held : Bool) (c : CoreId) : drainCore s held c = modStk (quieted s c) c fun k =>
    if held then { k with hold := true } else { k with scrub := setsMask k (getCore (quieted s c) c).sets } := rfl

theorem CoreState.Quieted.drained {k t : CoreState} (h : k.Quieted t) (held : Bool) : CoreState.Drained held k { t with
    stk := if held then { t.stk with hold := true } else { t.stk with scrub := setsMask t.stk t.sets } } := by
  cases held with
  | true => exact ⟨h.withStk rfl rfl, fun _ => rfl, nofun⟩
  | false => exact ⟨h.withStk rfl rfl, nofun, fun _ => (setsMask_congr h.insvc _).trans (by rw [h.sets])⟩

theorem getCore_drainCore_same (s : State) (held : Bool) (c : CoreId) :
    CoreState.Drained held (getCore s c) (getCore (drainCore s held c) c) := by
  rw [drainCore_eq, modStk, getCore_modCore_same]
  exact (getCore_quieted_same s c).drained held

/-! ### The drain of a job -/

/-- A view of the state in which no session, no snapshot, no mailbox and no INV_GEN shows. -/
structure OutsideSessions {β : Type} (g : State → β) : Prop extends OutsideMailboxes g where
  eyes : ∀ s f, g (modEyes s f) = g s
  resil : ∀ s f, g (modResil s f) = g s

theorem outsideSessions_mem : OutsideSessions (·.mem) := ⟨outsideMailboxes_mem, modEyes_mem, modResil_mem⟩

theorem outsideSessions_cores : OutsideSessions (·.cores) := ⟨outsideMailboxes_cores, modEyes_cores, modResil_cores⟩

theorem outsideSessions_jobs : OutsideSessions (·.reg.jobs) :=
  ⟨outsideMailboxes_reg (·.jobs) (fun _ _ => rfl) fun _ _ => rfl, fun _ _ => rfl, fun _ _ => rfl⟩

section
variable {β : Type} {g : State → β} (hg : OutsideSessions g)
include hg

theorem OutsideSessions.dropRestore (s : State) (hit : SnapCfg → Bool) (st : BitVec 16) : g (dropRestore s hit st) = g s := by
  unfold Machine.dropRestore
  refine (hg.resil _ fun x => { x with snaps := x.snaps.map fun c => if hit c then { c with restore := none } else c }).trans
    (foldl_field g (fun s x => ?_) _ _)
  split
  · exact hg.mb _ _ fun m => { m with result := some (st, [], 0) }
  · rfl

theorem OutsideSessions.emptyDuplicate (s : State) : g (emptyDuplicate s) = g s := by
  unfold Machine.emptyDuplicate mapSnaps
  exact (hg.resil _ fun x => { x with snaps := _ }).trans (hg.dropRestore ..)

theorem OutsideSessions.dropSession (s : State) (n : BitVec 24) : g (dropSession s n) = g s := by
  unfold Machine.dropSession
  refine (hg.eyes _ _).trans ?_
  rw [apply_ite g, hg.emptyDuplicate, ite_self]

theorem OutsideSessions.closeSession (s : State) (n : BitVec 24) : g (closeSession s n) = g s := by
  unfold Machine.closeSession
  split
  · rfl
  · refine ((hg.vec _ _ _).trans (hg.gen _)).trans ((hg.dropSession ..).trans ?_)
    split
    · unfold emit
      split
      · rfl
      · exact hg.eyes _ _
    · rfl

theorem OutsideSessions.closeJobSessions (s : State) (id : BitVec 6) : g (closeJobSessions s id) = g s := by
  unfold Machine.closeJobSessions
  exact foldl_field g (fun _ _ => hg.closeSession ..) _ _

end

/-- The cores of a job taken down (R334). -/
def drainedCores (s : State) (j : Job) : State := j.cores.foldl (fun s c => drainCore s (j.hold.contains c) c) s

section
variable {s : State} {j : Job}

theorem OutsideCores.drainedCores {β : Type} {g : State → β} (hg : OutsideCores j.cores g) : g (drainedCores s j) = g s :=
  foldl_keeps_of_mem g fun c hc s => hg.drainCore hc s (j.hold.contains c)

theorem getCore_drainedCores_other {c : CoreId} (hc : c ∉ j.cores) : getCore (drainedCores s j) c = getCore s c :=
  (outsideCores_getCore hc).drainedCores

theorem getCore_drainCore_other (s : State) (held : Bool) {c d : CoreId} (h : c ≠ d) : getCore (drainCore s held c) d = getCore s d :=
  (outsideCores_getCore (l := [c]) (by simpa using Ne.symm h)).drainCore List.mem_cons_self s held

/-- What the drain of a core leaves of it, the drain of a job leaves of every core. -/
theorem drainedCores_keeps {α : Type} (g : CoreState → α) (hg : ∀ {held : Bool} {k t : CoreState}, CoreState.Drained held k t → g t = g k)
    (c : CoreId) : g (getCore (drainedCores s j) c) = g (getCore s c) :=
  foldl_field (fun s => g (getCore s c)) (by
    intro s d
    by_cases hd : d = c
    · subst hd
      exact hg (getCore_drainCore_same ..)
    · exact congrArg g (getCore_drainCore_other s _ hd)) _ _

variable {id : BitVec 6} (hfind : findJob s id = some j)
include hfind

theorem drainJob_eq : drainJob s id =
    noted (modJob (closeJobSessions (drainedCores s j) id) id fun x => { x with draining := false }) := by
  unfold drainJob
  rw [hfind]
  rfl

theorem findJob_drainJob : findJob (drainJob s id) id = some { j with draining := false } := by
  rw [drainJob_eq hfind, findJob_reg (noted_jobs _)]
  refine find_modJob (f := fun x => { x with draining := false }) (fun _ => rfl) (Eq.trans (findJob_reg ?_ id) hfind)
  exact (outsideSessions_jobs.closeJobSessions ..).trans (outsideCores_reg _ (·.jobs) fun _ _ => rfl).drainedCores

theorem drainJob_mem : (drainJob s id).mem = s.mem := by
  rw [drainJob_eq hfind, noted_mem, modJob_mem, outsideSessions_mem.closeJobSessions, (outsideCores_mem _).drainedCores]

theorem getCore_drainJob (c : CoreId) : getCore (drainJob s id) c = getCore (drainedCores s j) c := by
  rw [drainJob_eq hfind, getCore_cores (noted_cores _), getCore_cores (modJob_cores ..), getCore_cores (outsideSessions_cores.closeJobSessions ..)]

end

/-- A fold over the cores of a list, none twice, whose steps change their own core only, relates each core to itself before. -/
theorem foldl_relates {f : State → CoreId → State} {c : CoreId} (r : CoreState → CoreState → Prop)
    (hsame : ∀ s, r (getCore s c) (getCore (f s c) c)) (hother : ∀ s d, d ≠ c → getCore (f s d) c = getCore s c) :
    ∀ {l : List CoreId} {s : State}, l.Nodup → c ∈ l → r (getCore s c) (getCore (l.foldl f s) c)
  | [], _, _, hc => absurd hc List.not_mem_nil
  | d :: l, s, hnodup, hc => by
    obtain ⟨hd, hl⟩ := List.nodup_cons.mp hnodup
    rw [List.foldl_cons]
    by_cases h : d = c
    · subst h
      rw [foldl_keeps_of_mem (getCore · d) fun e he s => hother s e fun h => hd (h ▸ he)]
      exact hsame s
    · have hrest := foldl_relates r hsame hother (s := f s d) hl (List.mem_of_ne_of_mem (Ne.symm h) hc)
      rwa [hother s d h] at hrest

theorem getCore_drainedCores_same {s : State} {j : Job} (hnodup : j.cores.Nodup) {c : CoreId} (hc : c ∈ j.cores) :
    CoreState.Drained (j.hold.contains c) (getCore s c) (getCore (drainedCores s j) c) :=
  foldl_relates (f := fun s c => drainCore s (j.hold.contains c) c) (CoreState.Drained (j.hold.contains c))
    (fun s => getCore_drainCore_same s (j.hold.contains c) c) (fun s d hd => getCore_drainCore_other s (j.hold.contains d) hd) hnodup hc

theorem exec_killDrainEnd_of_draining {s : State} {j : Job} (hfind : findJob s j.id = some j) (hstate : j.state = 6)
    (hdrain : j.draining = true) : exec (.killDrainEnd j.id) s = .next (drainJob s j.id) := by
  rw [exec_killDrainEnd, execKillDrainEnd, hfind]
  exact congrArg Host.Outcome.next (if_pos ⟨hstate, hdrain⟩)

theorem exec_killDrainEnd_of_over {s : State} {j : Job} (hfind : findJob s j.id = some j) (h : j.state ≠ 6 ∨ j.draining = false) :
    exec (.killDrainEnd j.id) s = .next s := by
  rw [exec_killDrainEnd, execKillDrainEnd, hfind]
  refine congrArg Host.Outcome.next (if_neg fun hboth => ?_)
  simp [hboth.1, hboth.2] at h

/-! ### The normal end -/

/-- A core of a job that has ended normally (R333). -/
def CoreState.finished (k : CoreState) : CoreState := { k with st := .scrub, seqRun := 0, saved := 0 }

/-- A job that has ended normally, before its drain (R333). -/
def normallyEnded (s : State) (j : Job) : State :=
  stopSnaps (modJob (changeCores CoreState.finished s j) j.id fun x =>
    { x with
      state := 6, killed := true, normal := true, lastFault := 0
      hold := heldCores (changeCores CoreState.finished s j) x.cores }) j.id

section
variable {s : State} {j : Job} (hfind : findJob s j.id = some j)
include hfind

theorem exec_jobNormalEnd_of_finished (hstate : j.state = 4 ∨ j.state = 5) (hdone : jobFinished s j = true) :
    ∃ r, exec (.jobNormalEnd j.id) s = .next (drainJob (writeRecord (normallyEnded s j) r) j.id) := by
  rw [exec_jobNormalEnd, execJobNormalEnd, hfind]
  exact ⟨_, congrArg Host.Outcome.next (if_pos ⟨hstate, hdone⟩)⟩

theorem exec_jobNormalEnd_of_unfinished (hdone : jobFinished s j = false) : exec (.jobNormalEnd j.id) s = .next s := by
  rw [exec_jobNormalEnd, execJobNormalEnd, hfind]
  exact congrArg Host.Outcome.next (if_neg fun h => by simp [hdone] at h)

theorem findJob_normallyEnded (r : ErrRec) : ∃ hold, findJob (writeRecord (normallyEnded s j) r) j.id =
    some { j with state := 6, killed := true, normal := true, lastFault := 0, hold := hold } := by
  rw [findJob_reg (writeRecord_jobs ..), normallyEnded, findJob_reg (stopSnaps_jobs ..)]
  exact ⟨_, find_modJob (by intro; rfl) ((findJob_changeCores ..).trans hfind)⟩

end

theorem normallyEnded_mem (s : State) (j : Job) : (normallyEnded s j).mem = s.mem := by
  rw [normallyEnded, stopSnaps_mem, modJob_mem, changeCores_mem]

theorem getCore_normallyEnded (s : State) (j : Job) (c : CoreId) :
    getCore (normallyEnded s j) c = if c ∈ j.cores then (getCore s c).finished else getCore s c := by
  rw [normallyEnded, getCore_cores (stopSnaps_cores ..), getCore_cores (modJob_cores ..)]
  exact fold_core CoreState.finished _ _ _ fun _ => rfl

/-- Settles O45: the kill by the job and the cores it leaves, the drain core by core, the normal end as a drain of finished cores. -/
theorem jobsEnd : Obligations.JobsEnd := by
  intro s j hfind
  refine ⟨fun k hlive hj hruns => ?kill, fun hstate hdrain hnodup => ?drain, exec_killDrainEnd_of_over hfind,
    fun hstate => ⟨fun hdone => ?normal, exec_jobNormalEnd_of_unfinished hfind⟩⟩
  case kill =>
    obtain ⟨hold, hjob⟩ := findJob_killJob hfind hlive 0 0 (0, 15, 0) none
    have hcores := ((killJob_facts s j.id 0 0 (0, 15, 0) none).2.2 j hfind hlive).1
    refine ⟨_, _, exec_jobKill_of_runs hj hruns, hjob, rfl, rfl, rfl, rfl, rfl, rfl, ?_, killJob_mem .., fun c hc => ?_, fun c hc => ?_⟩
    · rw [waits, getMb_modMb_same]
    · rw [waits, getCore_cores (modMb_cores ..), hcores, if_pos hc]
      exact ⟨rfl, rfl, rfl⟩
    · rw [waits, getCore_cores (modMb_cores ..), hcores, if_neg hc]
  case drain =>
    refine ⟨_, _, exec_killDrainEnd_of_draining hfind hstate hdrain, findJob_drainJob hfind, rfl, hstate, drainJob_mem hfind,
      fun c hc => ?_, fun c hc => ?_⟩
    · have hdrained := getCore_drainedCores_same (s := s) hnodup hc
      simp only [getSeq, getCore_drainJob hfind]
      exact ⟨hdrained.infl, hdrained.txns, hdrained.carrels, fun h => hdrained.hold (by simpa using h),
        fun h => hdrained.scrub (by simpa using h)⟩
    · rw [getCore_drainJob hfind, getCore_drainedCores_other hc]
  case normal =>
    obtain ⟨r, hexec⟩ := exec_jobNormalEnd_of_finished hfind hstate hdone
    obtain ⟨hold, hjob⟩ := findJob_normallyEnded hfind r
    refine ⟨_, _, hexec, findJob_drainJob hjob, rfl, rfl, rfl, rfl, rfl, ?_, fun c hc => ?_, fun c hc => ?_⟩
    · rw [drainJob_mem hjob, writeRecord_mem, normallyEnded_mem]
    · have hcore := getCore_normallyEnded s j c
      rw [if_pos hc, ← getCore_cores (writeRecord_cores _ r)] at hcore
      rw [getCore_drainJob hjob, drainedCores_keeps (·.st) fun h => h.st, drainedCores_keeps (·.seqRun) fun h => h.seqRun,
        drainedCores_keeps (·.saved) fun h => h.saved, hcore]
      exact ⟨rfl, rfl, rfl⟩
    · rw [getCore_drainJob hjob, getCore_drainedCores_other (by exact hc), getCore_cores (writeRecord_cores ..), getCore_normallyEnded,
        if_neg hc]

end Sys2Proof.Machine
end

section
/-!
CLGATE and STEPEND (R337, R338, R419, R420): instructions that act once and then stay in flight while their state asks them to.
-/
namespace Sys2Proof.Machine

/-! ### An instruction that acts and then waits for its state -/

/-- State t is state s with other instructions in flight at sequencer q of core c. -/
def State.OnlyInfl (s t : State) (c : CoreId) (q : SeqId) : Prop := ∃ l, t = modSeq s c q fun x => { x with infl := l }

section
variable {s t : State} {c : CoreId} {q : SeqId}

theorem onlyInfl_modFlight (s : State) (c : CoreId) (q : SeqId) (word : Word128) (f : InFlight → InFlight) :
    s.OnlyInfl (modFlight s c q word f) c q := ⟨_, modSeq_congr s c q rfl⟩

theorem onlyInfl_dropFlight (s : State) (c : CoreId) (q : SeqId) (word : Word128) : s.OnlyInfl (dropFlight s c q word) c q :=
  ⟨_, modSeq_congr s c q rfl⟩

theorem State.OnlyInfl.mem (h : s.OnlyInfl t c q) : t.mem = s.mem := by
  obtain ⟨l, rfl⟩ := h
  rfl

theorem State.OnlyInfl.reg (h : s.OnlyInfl t c q) : t.reg = s.reg := by
  obtain ⟨l, rfl⟩ := h
  rfl

theorem State.OnlyInfl.resil (h : s.OnlyInfl t c q) : t.resil = s.resil := by
  obtain ⟨l, rfl⟩ := h
  rfl

theorem State.OnlyInfl.getCore_other (h : s.OnlyInfl t c q) {d : CoreId} (hd : d ≠ c) : getCore t d = getCore s d := by
  obtain ⟨l, rfl⟩ := h
  exact getCore_modCore_other _ _ (Ne.symm hd)

/-- Whatever of a core its sequencers are not. -/
theorem State.OnlyInfl.keeps {α : Type} (h : s.OnlyInfl t c q) (g : CoreState → α) (hg : ∀ k v, g { k with seqs := v } = g k)
    (d : CoreId) : g (getCore t d) = g (getCore s d) := by
  obtain ⟨l, rfl⟩ := h
  exact modCore_keeps g (fun k => hg k _) s c d

variable {word : Word128} {rsv : Word128} {ev : List EccEvent} {pl : Plan} {script : State → InFlight → Phase} {y : InFlight}

theorem flightOf_dropFlight (s : State) (c : CoreId) (q : SeqId) (word : Word128) : flightOf (dropFlight s c q word) c q word = none := by
  unfold flightOf dropFlight
  rw [getSeq_modSeq_same]
  simp

/-- An instruction in flight whose script waits. -/
theorem engineInstr_hold (h : s.Landed c q word y) (e : script s y = .hold) : engineInstr s c q word rsv ev pl script = s := by
  rw [engineInstr_landed h, phaseLimit, carry]
  simp [h.2.1, h.2.2, e]

/-- An instruction in flight that acts and, in the state its act has left, completes. -/
theorem act_finish_at {f : State → State} (h : s.Landed c q word y) (e : script s y = .act f) (hf : SameInfl s (f s))
    (e' : script (modFlight (f s) c q word fun y => { y with got := y.got ++ [[]] }) { y with got := y.got ++ [[]] } = .finish id) :
    engineInstr s c q word rsv ev pl script = dropFlight (f s) c q word := by
  refine (engineInstr_landed h).trans ((carry_act (n := 4095) h e).trans ?_)
  have htodo : InFlight.todo { y with got := y.got ++ [[]] } = [] := h.2.2
  rw [carry]
  simp only [act_landed h hf]
  rw [if_pos (by rw [htodo]; rfl), e', ← dropFlight_modFlight (f s) c q word (fun y => { y with got := y.got ++ [[]] }) fun _ => rfl]
  rfl

/-- An instruction in flight that acts once stays in flight exactly while b holds of the state that its act has left. -/
theorem act_rests {f : State → State} {b : Bool} (h : s.Landed c q word y) (e : script s y = .act f) (hf : SameInfl s (f s))
    (e' : ∀ t, (f s).OnlyInfl t c q → script t { y with got := y.got ++ [[]] } = if b then .hold else .finish id) :
    (f s).OnlyInfl (engineInstr s c q word rsv ev pl script) c q ∧
      (flightOf (engineInstr s c q word rsv ev pl script) c q word).isSome = b := by
  have hafter := e' _ (onlyInfl_modFlight (f s) c q word fun y => { y with got := y.got ++ [[]] })
  cases b with
  | true =>
    rw [act_hold h e hf hafter]
    exact ⟨onlyInfl_modFlight .., by rw [act_landed h hf]; rfl⟩
  | false =>
    rw [act_finish_at h e hf hafter]
    exact ⟨onlyInfl_dropFlight .., by rw [flightOf_dropFlight]; rfl⟩

end

/-! ### CLGATE -/

section
variable (s : State) (c : CoreId) (g : BitVec 2)

/-- The clusters that still ungate once the gates read g (R30). -/
def CoreState.ungatingAt (k : CoreState) (g : BitVec 2) : BitVec 2 := (k.ungating ||| (k.clGate &&& ~~~g)) &&& ~~~g

/-- A core with its gates written (R30, R338). -/
def CoreState.gated (k : CoreState) (g : BitVec 2) : CoreState := { k with clGate := g, ungating := k.ungatingAt g }

theorem writeGate_cores : (writeGate s c g).cores = (modCore s c fun k => k.gated g).cores := by
  unfold writeGate
  rw [noted_cores]
  split <;> rfl

theorem writeGate_mem : (writeGate s c g).mem = s.mem := by
  unfold writeGate
  rw [noted_mem]
  split <;> rfl

theorem writeGate_infl : SameInfl s (writeGate s c g) :=
  (SameInfl.modCore (f := fun k => k.gated g) rfl).trans (SameInfl.cores (writeGate_cores s c g))

theorem getCore_writeGate_same : getCore (writeGate s c g) c = (getCore s c).gated g := by
  rw [getCore_cores (writeGate_cores s c g), getCore_modCore_same]

theorem getCore_writeGate_other {d : CoreId} (hd : d ≠ c) : getCore (writeGate s c g) d = getCore s d := by
  rw [getCore_cores (writeGate_cores s c g), getCore_modCore_other _ _ (Ne.symm hd)]

/-- CLGATE, phase by phase (R337, R338). -/
def gateScript (c : CoreId) (g : BitVec 2) (s : State) (y : InFlight) : Phase :=
  if y.got.isEmpty then (if mayGate s c g then .act fun s => writeGate s c g else .hold)
  else if (getCore s c).ungating &&& ~~~g = 0 then .finish id else .hold

theorem exec_clgate (w : BitVec 120) : exec (.clgate c w) s = .next (engineInstr s c ccSeq (instrWord 0x13 w) (mask128 119 2) []
    { names := [], ops := [], bad := none } (gateScript c (w.extractLsb' 0 2))) := rfl

variable {s c g} in
/-- Once it has written the gates, CLGATE waits while a cluster it ungates is still ungating (R338). -/
theorem gateScript_written {y : InFlight} (h : y.got ≠ []) :
    gateScript c g s y = if (getCore s c).ungating &&& ~~~g ≠ 0 then .hold else .finish id := by
  rw [gateScript, if_neg (by simpa using h), ite_not]

/-- CLGATE in flight with its gates not yet written, writes them once they may be (R337, R338). -/
theorem exec_clgate_writes {s : State} {c : CoreId} {w : BitVec 120} {y : InFlight} {g : BitVec 2} (hg : g = w.extractLsb' 0 2)
    (h : s.Landed c ccSeq (instrWord 0x13 w) y) (hgot : y.got = []) (hmay : mayGate s c g = true) :
    ∃ t, exec (.clgate c w) s = .next t ∧ (writeGate s c g).OnlyInfl t c ccSeq ∧
      (flightOf t c ccSeq (instrWord 0x13 w)).isSome = ((getCore s c).ungatingAt g != 0) := by
  subst hg
  refine ⟨_, exec_clgate s c w, act_rests (f := fun s => writeGate s c (w.extractLsb' 0 2)) h
    (by simp [gateScript, hgot, hmay]) (writeGate_infl s c _) fun t ht => ?_⟩
  rw [gateScript_written (by simp), ht.keeps (·.ungating) (fun _ _ => rfl), getCore_writeGate_same]
  simp [CoreState.gated, CoreState.ungatingAt, BitVec.and_assoc]

end

/-! ### The arrival at STEPEND -/

/-- State u has the cores, the memory, the jobs and the time of state s, and the snapshot configuration of job j is z. -/
structure State.Boundary (s u : State) (j : Job) (z : SnapCfg) : Prop where
  cores : u.cores = s.cores
  mem : u.mem = s.mem
  jobs : u.reg.jobs = s.reg.jobs
  time : u.reg.time = s.reg.time
  cfg : findCfg u j.id = some z

theorem findCfg_modCfg {s : State} {i : BitVec 6} {f : SnapCfg → SnapCfg} {x : SnapCfg} (hf : ∀ x, (f x).job = x.job)
    (h : findCfg s i = some x) : findCfg (modCfg s i f) i = some (f x) := by
  have hmap : ((fun x : SnapCfg => x.job == i) ∘ fun x => if x.job = i then f x else x) = fun x => x.job == i := by
    funext x
    simp only [Function.comp_apply]
    split
    · rw [hf]
    · rfl
  have hjob : x.job = i := by simpa using List.find?_some h
  rw [findCfg, modCfg, modResil_resil]
  dsimp only
  rw [List.find?_map, hmap, show s.resil.snaps.find? (fun x => x.job == i) = some x from h, Option.map_some, if_pos hjob]

section
variable {s u : State} {c : CoreId} {j : Job} {x z : SnapCfg}

theorem State.Boundary.modCfg (h : s.Boundary u j z) (f : SnapCfg → SnapCfg) (hf : ∀ x, (f x).job = x.job) :
    s.Boundary (modCfg u j.id f) j (f z) :=
  ⟨h.cores, h.mem, h.jobs, h.time, findCfg_modCfg hf h.cfg⟩

theorem State.Boundary.noted (h : s.Boundary u j z) : s.Boundary (noted u) j z where
  cores := (noted_cores u).trans h.cores
  mem := (noted_mem u).trans h.mem
  jobs := (noted_jobs u).trans h.jobs
  time := (noted_keeps_reg (·.time) (fun _ _ => rfl) u).trans h.time
  cfg := by
    rw [findCfg, noted_resil]
    exact h.cfg

theorem State.Boundary.jobOn (h : s.Boundary u j z) (c : CoreId) : jobOn u c = jobOn s c :=
  jobOn_congr (by rw [getCore_cores h.cores]) h.jobs

theorem State.Boundary.snapDue (h : s.Boundary u j z) (x : SnapCfg) : snapDue u x = snapDue s x := by
  rw [Machine.snapDue, h.time, Machine.snapDue]

/-- Core c's step record has come (R419). -/
def SnapCfg.arrive (x : SnapCfg) (c : CoreId) (record : List Byte) : SnapCfg := { x with arrived := x.arrived ++ [(c, record)] }

/-- One more step has been counted (R420). -/
def SnapCfg.counted (x : SnapCfg) : SnapCfg := { x with since := x.since + 1 }

theorem judgeRestore_of_none {id : BitVec 6} (h : findCfg s id = some x) (hrestore : x.restore = none) (record : List Byte) :
    judgeRestore s id record = s := by
  unfold judgeRestore
  cases hjob : findJob s id with
  | none => rfl
  | some j => simp only [h, hrestore]

theorem writeTrailer_of_none {id : BitVec 6} (h : findCfg s id = some x) (hflying : x.flying = none) (record : List Byte) :
    writeTrailer s id record = s := by
  unfold writeTrailer
  simp only [h, hflying]

variable (hj : jobOn s c = some j) (hx : findCfg s j.id = some x) (record : List Byte)
include hj hx

/-- A core arrives at STEPEND; the last of its job judges a RESTORE, writes a trailer, counts the step and makes the boundary (R419). -/
theorem arriveStep_eq : arriveStep s c record = if allArrived j (x.arrive c record) then
    passBoundary (modCfg (writeTrailer (judgeRestore (modCfg s j.id (·.arrive c record)) j.id (stepRecord j (x.arrive c record))) j.id
      (stepRecord j (x.arrive c record))) j.id SnapCfg.counted) j.id
    else modCfg s j.id (·.arrive c record) := by
  have hcfg : findCfg (modCfg s j.id fun x => { x with arrived := x.arrived ++ [(c, record)] }) j.id = some (x.arrive c record) :=
    findCfg_modCfg (f := (·.arrive c record)) (fun _ => rfl) hx
  unfold arriveStep
  simp only [hj, hx, Option.isSome_some, if_true, hcfg]
  cases allArrived j (x.arrive c record) <;> rfl

/-- The last core of a job arrives with nothing to judge and no snapshot in flight. -/
theorem arriveStep_of_last (hall : allArrived j (x.arrive c record) = true) (hrestore : x.restore = none) (hflying : x.flying = none) :
    arriveStep s c record = passBoundary (modCfg (modCfg s j.id (·.arrive c record)) j.id SnapCfg.counted) j.id := by
  have hcfg : findCfg (modCfg s j.id (·.arrive c record)) j.id = some (x.arrive c record) := findCfg_modCfg (fun _ => rfl) hx
  rw [arriveStep_eq hj hx, if_pos hall, judgeRestore_of_none hcfg hrestore, writeTrailer_of_none hcfg hflying]

end

/-! ### The boundary -/

section
variable {s u : State} {c : CoreId} {j : Job} {x z : SnapCfg}

/-- A configuration whose snapshot f has started its freeze (R420). -/
def SnapCfg.frozen (x : SnapCfg) (f : Snapshot) (now : Nat) : SnapCfg :=
  { x with
    flying := some f, nextId := x.nextId + 1, armed := false, nowDue := false, since := 0, sinceNs := now
    done := x.done.take 1, kept := none }

theorem startFreeze_eq (s : State) (j : Job) (x : SnapCfg) (record : List Byte) : ∃ f : Snapshot, f.stage = 1 ∧ f.id = x.nextId ∧
    startFreeze s j x record = noted (modCfg s j.id fun x => x.frozen f s.reg.time.toNat) :=
  ⟨_, rfl, rfl, rfl⟩

theorem passBoundary_of_arrived (hjob : findJob s j.id = some j) (hx : findCfg s j.id = some x) (hall : allArrived j x = true)
    (hflying : x.flying = none) : passBoundary s j.id =
      if snapDue s x then startFreeze s j x (stepRecord j x) else releaseSteps s j.id := by
  unfold passBoundary
  simp only [hjob, hx, hall, hflying]
  cases snapDue s x <;> rfl

theorem State.Boundary.refl (hx : findCfg s j.id = some x) : s.Boundary s j x := ⟨rfl, rfl, rfl, rfl, hx⟩

/-- Every core of a job has arrived with core c where every other one had (R419). -/
theorem allArrived_arrive {record : List Byte} :
    allArrived j (x.arrive c record) = true ↔ ∀ d ∈ j.cores, d = c ∨ ∃ a ∈ x.arrived, a.1 = d := by
  simp only [allArrived, SnapCfg.arrive, List.all_eq_true, List.any_append, Bool.or_eq_true, List.any_eq_true, beq_iff_eq,
    List.mem_singleton, exists_eq_left]
  exact forall₂_congr fun d _ => or_comm.trans (or_congr_left eq_comm)

variable (hj : jobOn s c = some j) (hx : findCfg s j.id = some x) (record : List Byte)
include hj hx

theorem boundary_of_missing (hmissing : allArrived j (x.arrive c record) = false) :
    s.Boundary (arriveStep s c record) j (x.arrive c record) := by
  rw [arriveStep_eq hj hx, hmissing]
  exact (State.Boundary.refl hx).modCfg _ fun _ => rfl

variable (hall : allArrived j (x.arrive c record) = true) (hrestore : x.restore = none) (hflying : x.flying = none)
include hall hrestore hflying

/-- The last arrival at a boundary: its step counted, it freezes a due snapshot or lets every STEPEND go (R419, R420). -/
theorem arriveStep_passes : ∃ v, s.Boundary v j (x.arrive c record).counted ∧ arriveStep s c record =
    if snapDue s (x.arrive c record).counted then startFreeze v j (x.arrive c record).counted (stepRecord j (x.arrive c record).counted)
    else releaseSteps v j.id := by
  have hb : s.Boundary (modCfg (modCfg s j.id (·.arrive c record)) j.id SnapCfg.counted) j (x.arrive c record).counted :=
    ((State.Boundary.refl hx).modCfg (·.arrive c record) fun _ => rfl).modCfg SnapCfg.counted fun _ => rfl
  refine ⟨_, hb, ?_⟩
  rw [arriveStep_of_last hj hx record hall hrestore hflying,
    passBoundary_of_arrived ((findJob_reg hb.jobs _).trans (findJob_of_jobOn hj)) hb.cfg hall hflying, hb.snapDue]

theorem boundary_of_not_due (hdue : snapDue s x.counted = false) :
    s.Boundary (arriveStep s c record) j { x with arrived := [], since := x.since + 1 } := by
  obtain ⟨v, hb, harrive⟩ := arriveStep_passes hj hx record hall hrestore hflying
  rw [harrive, show snapDue s (x.arrive c record).counted = false from hdue]
  exact hb.modCfg (fun x => { x with arrived := [] }) fun _ => rfl

theorem boundary_of_due (hdue : snapDue s x.counted = true) : ∃ f : Snapshot, f.stage = 1 ∧ f.id = x.nextId ∧
    s.Boundary (arriveStep s c record) j ((x.arrive c record).counted.frozen f s.reg.time.toNat) := by
  obtain ⟨v, hb, harrive⟩ := arriveStep_passes hj hx record hall hrestore hflying
  obtain ⟨f, hstage, hid, hfreeze⟩ := startFreeze_eq v j (x.arrive c record).counted (stepRecord j (x.arrive c record).counted)
  rw [harrive, show snapDue s (x.arrive c record).counted = true from hdue, if_pos rfl, hfreeze, hb.time]
  exact ⟨f, hstage, hid, (hb.modCfg (fun x => x.frozen f s.reg.time.toNat) fun _ => rfl).noted⟩

end

/-! ### STEPEND -/

/-- STEPEND of an image with SNAP, phase by phase, its step record at o (R419). -/
def stepScript (c : CoreId) (o : Descr) (s : State) (y : InFlight) : Phase :=
  if y.got.isEmpty then .access (readFirst s c 0 o 64)
  else if y.got.length = 1 then
    (if opndPoison (lastGot y) 0 then .fault 0x0A
     else if atStep s c then .hold
     else .act fun s => arriveStep s c (opndData (lastGot y) 0))
  else if atStep s c then .hold
  else .finish id

section
variable {s : State} {c : CoreId} {w : BitVec 120} {ev : List EccEvent} {y : InFlight} {l : List Access} {o : Descr} {j : Job}
  {x z : SnapCfg}

/-- STEPEND of an image without SNAP is a control instruction without an effect (R316). -/
theorem exec_stepend_of_no_snap (h : snapsSteps s c = false) : exec (.stepend c w ev) s =
    .next (controlInstr s c ccSeq (instrWord 0x12 w) (mask128 111 0) [fld w 112 8] (thenAdvance c ccSeq 0x12 id)) :=
  congrArg Host.Outcome.next (if_pos (by simp [h]))

theorem exec_stepend_of_snap (h : snapsSteps s c = true) : ∃ o pl, exec (.stepend c w ev) s =
    .next (engineInstr s c ccSeq (instrWord 0x12 w) (mask128 111 0) ev pl (stepScript c o)) :=
  ⟨_, _, congrArg Host.Outcome.next (if_neg (by simp [h]))⟩

theorem snapsSteps_of_jobOn (hj : jobOn s c = some j) : snapsSteps s c = bit j.flags 4 := by
  rw [snapsSteps, hj, Option.any_some]

theorem atStep_of_jobOn (hj : jobOn s c = some j) (hx : findCfg s j.id = some x) : atStep s c = x.arrived.any fun a => a.1 == c := by
  unfold atStep
  simp only [hj, hx, Option.any_some]

section
variable (hgot : y.got = [l])
include hgot

theorem stepScript_poisoned (hpoison : opndPoison l 0 = true) : stepScript c o s y = .fault 0x0A := by
  simp [stepScript, lastGot_of_got hgot, hgot, hpoison]

theorem stepScript_arrives (hpoison : opndPoison l 0 = false) (hnew : atStep s c = false) :
    stepScript c o s y = .act fun s => arriveStep s c (opndData l 0) := by
  simp [stepScript, lastGot_of_got hgot, hgot, hpoison, hnew]

/-- Once its core has arrived, STEPEND waits at the step (R419). -/
theorem stepScript_arrived : stepScript c o s { y with got := y.got ++ [[]] } = if atStep s c then .hold else .finish id := by
  simp [stepScript, hgot]

variable (hland : s.Landed c ccSeq (instrWord 0x12 w) y) (hj : jobOn s c = some j) (hsnap : bit j.flags 4 = true)
include hland hj hsnap

theorem exec_stepend_poisoned (hpoison : opndPoison l 0 = true) : exec (.stepend c w ev) s = .next (seqFault s c ccSeq 0x12 0x0A) := by
  obtain ⟨o, pl, hexec⟩ := exec_stepend_of_snap (ev := ev) (w := w) ((snapsSteps_of_jobOn hj).trans hsnap)
  rw [hexec, engineInstr_fault_opcode hland (stepScript_poisoned hgot hpoison)]

/-- A core that arrives at STEPEND for the first time, and makes the boundary z, stays while its arrival stands there (R419). -/
theorem exec_stepend_arrives (hx : findCfg s j.id = some x) (hnew : ∀ a ∈ x.arrived, a.1 ≠ c) (hpoison : opndPoison l 0 = false)
    (hb : s.Boundary (arriveStep s c (opndData l 0)) j z) : ∃ t, exec (.stepend c w ev) s = .next t ∧ findCfg t j.id = some z ∧
      (flightOf t c ccSeq (instrWord 0x12 w)).isSome = (z.arrived.any fun a => a.1 == c) ∧ t.mem = s.mem ∧
      ∀ d, d ≠ c → getCore t d = getCore s d := by
  obtain ⟨o, pl, hexec⟩ := exec_stepend_of_snap (ev := ev) (w := w) ((snapsSteps_of_jobOn hj).trans hsnap)
  have hat : atStep s c = false := by
    rw [atStep_of_jobOn hj hx]
    simpa using hnew
  have hcfg : ∀ {t}, (arriveStep s c (opndData l 0)).OnlyInfl t c ccSeq → findCfg t j.id = some z := fun ht => by
    rw [findCfg, ht.resil]
    exact hb.cfg
  obtain ⟨honly, hflight⟩ := act_rests (rsv := mask128 111 0) (ev := ev) (pl := pl) hland (stepScript_arrives (o := o) hgot hpoison hat)
    (SameInfl.cores hb.cores) fun t ht => by
      have hjob : jobOn t c = some j :=
        (jobOn_congr (ht.keeps (·.jobId) (fun _ _ => rfl) c) (by rw [ht.reg])).trans ((hb.jobOn c).trans hj)
      rw [stepScript_arrived hgot, atStep_of_jobOn hjob (hcfg ht)]
  refine ⟨_, hexec, hcfg honly, hflight, honly.mem.trans hb.mem, fun d hd => (honly.getCore_other hd).trans ?_⟩
  rw [getCore_cores hb.cores]

end

end

/-- Settles O46: CLGATE and STEPEND as instructions that act once and stay while what they wait for stands in the state they have left. -/
theorem gatesAndSteps : Obligations.GatesAndSteps := by
  intro s c w ev
  refine ⟨fun y g hg hland => ⟨fun hgot hmay => ?_, fun hgot hmay => ?_, fun hgot hidle => ?_, fun hgot hidle => ?_⟩, fun n => rfl,
    fun hno hoffers hruns => ?_, fun y l j x hland hgot hj hsnap hx hnew => ⟨fun hpoison => ?_, fun hpoison => ⟨?missing, ?last⟩⟩⟩
  · subst hg
    rw [exec_clgate, engineInstr_hold hland (by simp [gateScript, hgot, hmay])]
  · obtain ⟨t, hexec, honly, hflight⟩ := exec_clgate_writes hg hland hgot hmay
    have hcore := getCore_writeGate_same s c g
    refine ⟨t, hexec, ?_, ?_, honly.mem.trans (writeGate_mem ..), fun d hd => ?_, hflight⟩
    · rw [honly.keeps (·.clGate) fun _ _ => rfl, hcore]
      rfl
    · rw [honly.keeps (·.ungating) fun _ _ => rfl, hcore]
      rfl
    · rw [honly.getCore_other hd, getCore_writeGate_other s c g hd]
  · subst hg
    rw [exec_clgate, engineInstr_finish hland ((gateScript_written hgot).trans (if_neg (not_not_intro hidle)))]
    rfl
  · subst hg
    rw [exec_clgate, engineInstr_hold hland ((gateScript_written hgot).trans (if_pos hidle))]
  · rw [exec_stepend_of_no_snap hno, controlInstr_offers hoffers, thenAdvance_id hruns]
  · exact exec_stepend_poisoned hgot hland hj hsnap hpoison
  case missing =>
    rintro ⟨d, hd, hdc, hmissing⟩
    have hb := boundary_of_missing hj hx (opndData l 0) (Bool.eq_false_iff.mpr fun hall => by
      obtain hd | ⟨a, ha, had⟩ := allArrived_arrive.mp hall d hd
      · exact hdc hd
      · exact hmissing a ha had)
    obtain ⟨t, hexec, hcfg, hflight, hmem, hother⟩ := exec_stepend_arrives (ev := ev) hgot hland hj hsnap hx hnew hpoison hb
    exact ⟨t, hexec, hcfg, hflight.trans (by simp [SnapCfg.arrive]), hmem, hother⟩
  case last =>
    intro hpresent hrestore hflying
    have hall : allArrived j (x.arrive c (opndData l 0)) = true := allArrived_arrive.mpr hpresent
    refine ⟨fun hdue => ?_, fun hdue => ?_⟩
    · have hb := boundary_of_not_due hj hx _ hall hrestore hflying hdue
      obtain ⟨t, hexec, hcfg, hflight, hmem, hother⟩ := exec_stepend_arrives (ev := ev) hgot hland hj hsnap hx hnew hpoison hb
      exact ⟨t, hexec, hcfg, Option.not_isSome_iff_eq_none.mp (by rw [hflight]; exact Bool.false_ne_true), hmem, hother⟩
    · obtain ⟨f, hstage, hid, hb⟩ := boundary_of_due hj hx _ hall hrestore hflying hdue
      obtain ⟨t, hexec, hcfg, hflight, hmem, hother⟩ := exec_stepend_arrives (ev := ev) hgot hland hj hsnap hx hnew hpoison hb
      exact ⟨t, _, f, hexec, hcfg, rfl, hstage, hid, rfl, rfl, hflight.trans (by simp [SnapCfg.arrive, SnapCfg.counted, SnapCfg.frozen]),
        hmem, hother⟩

end Sys2Proof.Machine
end

section
/-!
What the operations of the power block leave and bring about: a domain that goes off or trips, the domains switched off in order, and
the units of a domain that comes up (R342, R343, R349).
-/
namespace Sys2Proof.Machine

/-! ### Vectors -/

/-- Each element of a vector changed in its own way. -/
theorem vget_foldl_vmod_each {α : Type} {n : Nat} (f : Fin n → α → α) (q : Fin n) : ∀ {l : List (Fin n)} {v : Vector α n}, l.Nodup →
    vget (l.foldl (fun v i => vmod v i (f i)) v) q = if q ∈ l then f q (vget v q) else vget v q
  | [], v, _ => by simp
  | i :: l, v, hnodup => by
    obtain ⟨hi, hl⟩ := List.nodup_cons.mp hnodup
    rw [List.foldl_cons, vget_foldl_vmod_each f q hl]
    by_cases hq : q = i
    · subst hq
      simp [hi]
    · simp [hq, vget_vmod_other _ (f i) (Ne.symm hq)]

/-- Every element of a vector changed in its own way. -/
theorem vget_foldl_each {α : Type} {n : Nat} (f : Fin n → α → α) (q : Fin n) (v : Vector α n) :
    vget ((allFin n).foldl (fun v i => vmod v i (f i)) v) q = f q (vget v q) := by
  rw [allFin, vget_foldl_vmod_each f q (List.nodup_finRange n), if_pos (List.mem_finRange q)]

/-! ### Views in which the units of a domain do not show -/

/-- A view of the state in which no core, nothing of Lacing or of the tiers and no clock region shows. -/
structure OutsideParts {β : Type} (g : State → β) : Prop where
  core : ∀ s c f, g (modCore s c f) = g s
  lacing : ∀ s f, g (modLacing s f) = g s
  tiers : ∀ s f, g (modTiers s f) = g s
  region : ∀ s r f, g (modRegion s r f) = g s

/-- A view in which the units of a domain do not show: neither these nor memory, the host link and the Eyelets. -/
structure OutsideUnits {β : Type} (g : State → β) : Prop extends OutsideParts g where
  bytes : ∀ s a n, g (loseBytes s a n) = g s
  eyes : ∀ s f, g (modEyes s f) = g s
  pcie : ∀ s f, g (modPcie s f) = g s

theorem outsideParts_mem : OutsideParts (·.mem) := ⟨modCore_mem, modLacing_mem, modTiers_mem, fun _ _ _ => rfl⟩

theorem outsideUnits_power : OutsideUnits (·.power) :=
  ⟨⟨modCore_power, modLacing_power, modTiers_power, fun _ _ _ => rfl⟩, fun _ _ _ => rfl, modEyes_power, modPcie_power⟩

theorem outsideUnits_reg : OutsideUnits (·.reg) :=
  ⟨⟨modCore_reg, modLacing_reg, modTiers_reg, fun _ _ _ => rfl⟩, fun _ _ _ => rfl, modEyes_reg, modPcie_reg⟩

theorem modRegion_cores (s : State) (r : Fin 15) (f : ClockRegion → ClockRegion) : (modRegion s r f).cores = s.cores := rfl

theorem forwardOnly_cores (s : State) (c : CoreId) : (forwardOnly s c).cores = s.cores := by
  unfold forwardOnly
  dsimp only
  split <;> rfl

theorem liftFence_cores (s : State) (c : CoreId) : (liftFence s c).cores = (modCore s c fun k => { k with fenced := false }).cores := by
  unfold liftFence
  dsimp only
  split <;> rfl

section
variable {β : Type} {g : State → β} (hg : OutsideParts g) (s : State) (c : CoreId)
include hg

theorem OutsideParts.forwardOnly : g (forwardOnly s c) = g s := by
  unfold Machine.forwardOnly
  dsimp only
  split
  · rfl
  · exact hg.lacing s fun x => { x with nodes := vset x.nodes _ 1 }

theorem OutsideParts.fenceCore : g (fenceCore s c) = g s := (hg.forwardOnly _ c).trans (hg.core ..)

theorem OutsideParts.liftFence : g (liftFence s c) = g s := by
  unfold Machine.liftFence
  dsimp only
  split
  · exact (hg.lacing _ fun x => { x with nodes := vset x.nodes _ 0 }).trans (hg.core ..)
  · exact hg.core ..

theorem OutsideParts.respond (f : Flit) (st : BitVec 4) (data : List Byte) (p : Bool) : g (respond s f st data p) = g s :=
  hg.lacing s fun x => { x with flight := x.flight ++ [responseFlit f st data p] }

theorem OutsideParts.absorb : g (absorb s c) = g s := by
  unfold Machine.absorb
  exact (hg.tiers ..).trans (hg.core ..)

theorem OutsideParts.releaseWaiters (st : BitVec 4) : g (releaseWaiters s c st) = g s :=
  (hg.core ..).trans (foldl_field g (fun _ _ => hg.respond ..) _ _)

theorem OutsideParts.domainReady (d : Fin 30) : g (domainReady s d) = g s := by
  unfold Machine.domainReady
  dsimp only
  split
  · split
    · split
      · rfl
      · exact (hg.liftFence ..).trans ((hg.region ..).trans (hg.core ..))
    · split
      · rfl
      · exact hg.core ..
  · rfl

end

theorem OutsideUnits.domainGone {β : Type} {g : State → β} (hg : OutsideUnits g) (s : State) (d : Fin 30) :
    g (domainGone s d) = g s := by
  have hlp : g (loseLp s) = g s := hg.bytes ..
  unfold Machine.domainGone
  split
  · split
    · exact (hg.core ..).trans ((hg.fenceCore ..).trans (hg.absorb ..))
    · exact (hg.core ..).trans ((hg.bytes ..).trans (hg.releaseWaiters ..))
  · split_ifs
    · exact hg.bytes ..
    · exact hg.bytes ..
    · exact (hg.pcie _ fun p => { p with up := false, speed := 0, width := 0, flit := false }).trans hlp
    · exact (hg.eyes ..).trans hlp
    · exact hg.lacing ..
    · rfl

/-! ### A domain that goes off -/

/-- A power domain that is off, or latched off by a trip (R343, R349). -/
def PowerDomain.off (trip : Bool) (x : PowerDomain) : PowerDomain := { x with
  state := if trip || x.state == 3 then 3 else 0, clamp := true, mv := 0, ampsD := 0
  latched := x.latched || trip, trips := if trip then satAdd x.trips 1 else x.trips }

section
variable (s : State) (d : Fin 30) (trip : Bool)

theorem domainOff_power : (domainOff s d trip).power =
    { s.power with doms := vmod s.power.doms d (PowerDomain.off trip) } := by
  rw [← outsideUnits_power.domainGone s d]
  exact noted_power _

theorem domainOff_keeps_reg {β : Type} (g : Registrar → β) (hg : ∀ r n, g { r with invGen := n } = g r) :
    g (domainOff s d trip).reg = g s.reg :=
  (noted_keeps_reg g hg _).trans (congrArg g (outsideUnits_reg.domainGone s d))

theorem domainOff_cores : (domainOff s d trip).cores = (domainGone s d).cores := noted_cores _

theorem domainOff_mem : (domainOff s d trip).mem = (domainGone s d).mem := noted_mem _

end

/-! ### Domains switched off in order -/

/-- A power domain that a power-down leaves: one that is OFF or TRIPPED as it is, any other off (R342). -/
def PowerDomain.switchedOff (x : PowerDomain) : PowerDomain := if x.state = 0 || x.state = 3 then x else x.off false

theorem PowerDomain.state_switchedOff (x : PowerDomain) : x.switchedOff.state = 0 ∨ x.switchedOff.state = 3 := by
  unfold PowerDomain.switchedOff
  split
  case isTrue hdown => simpa using hdown
  case isFalse hup =>
    obtain ⟨-, hthree⟩ : x.state ≠ 0 ∧ x.state ≠ 3 := by simpa using hup
    exact .inl (by simpa [PowerDomain.off] using hthree)

/-- One step of a power-down. -/
def switchOff (s : State) (d : Fin 30) : State :=
  if (vget s.power.doms d).state = 0 || (vget s.power.doms d).state = 3 then s else domainOff s d false

theorem switchOff_power (s : State) (d : Fin 30) :
    (switchOff s d).power = { s.power with doms := vmod s.power.doms d PowerDomain.switchedOff } := by
  unfold switchOff
  split
  case isTrue hdown =>
    have hkept : vmod s.power.doms d PowerDomain.switchedOff = s.power.doms :=
      (vmod_congr _ d (f := PowerDomain.switchedOff) (g := fun x => x) (if_pos hdown)).trans (vmod_id ..)
    rw [hkept]
  case isFalse hup =>
    rw [domainOff_power, vmod_congr _ _ (g := PowerDomain.switchedOff) (if_neg hup).symm]

theorem foldl_switchOff_power : ∀ (l : List (Fin 30)) (s : State), (l.foldl switchOff s).power =
    { s.power with doms := l.foldl (fun v d => vmod v d PowerDomain.switchedOff) s.power.doms }
  | [], _ => rfl
  | d :: l, s => by rw [List.foldl_cons, foldl_switchOff_power l, switchOff_power, List.foldl_cons]

theorem mem_domainOrder (d : Fin 30) : d ∈ domainOrder := by
  revert d
  decide

/-- A power-down changes of the power block the domains that it does not keep (R342). -/
theorem powerDown_power (s : State) (keep : List (Fin 30)) : ∃ v, (powerDown s keep).power = { s.power with doms := v } ∧
    ∀ d, vget v d = if d ∈ keep then vget s.power.doms d else (vget s.power.doms d).switchedOff := by
  refine ⟨_, foldl_switchOff_power .., fun d => ?_⟩
  rw [vget_foldl_vmod_each (fun _ => PowerDomain.switchedOff) d (List.Nodup.filter _ (by decide))]
  by_cases hd : d ∈ keep <;> simp [hd, mem_domainOrder]

/-- After a power loss every domain is OFF or TRIPPED and nothing is asked for (R346, R451). -/
theorem powerLoss_power (s : State) : ∃ v, (powerLoss s).power = { s.power with doms := v, requests := [], offs := [] } ∧
    ∀ d, (vget v d).state = 0 ∨ (vget v d).state = 3 := by
  obtain ⟨v, hpower, hdoms⟩ := powerDown_power s []
  refine ⟨v, by rw [powerLoss, modPower_power, hpower], fun d => ?_⟩
  rw [hdoms, if_neg List.not_mem_nil]
  exact PowerDomain.state_switchedOff _

/-! ### The core of a domain -/

/-- The core of a domain is told by the fields. -/
theorem coreOfDomain_congr {s t : State} (h : t.reg.fieldOf = s.reg.fieldOf) (d : Fin 30) : coreOfDomain t d = coreOfDomain s d := by
  simp only [coreOfDomain, fieldOf, h]

theorem lt_of_coreOfDomain {s : State} {d : Fin 30} {c : CoreId} (h : coreOfDomain s d = some c) : d.val < 24 := by
  unfold coreOfDomain at h
  split at h
  case isTrue hlt => exact hlt
  case isFalse => contradiction

theorem fenced_fenceCore (s : State) (c : CoreId) : (getCore (fenceCore s c) c).fenced = true := by
  rw [fenceCore, getCore_cores (forwardOnly_cores ..), getCore_modCore_same]

end Sys2Proof.Machine
end

section
/-!
Domains asked for, granted, announced, soft-started and switched off (R342, R343, R353, R356).
-/
namespace Sys2Proof.Machine

/-! ### The instructions -/

section
variable {s : State}

theorem exec_domain (k : Fin 16) : exec (.domain k) s = execDomain k s := rfl
theorem exec_domainPowerGrant (d : Fin 30) : exec (.domainPowerGrant d) s = execDomainPowerGrant d s := rfl
theorem exec_loadNoticeLeadEnd (d : Fin 30) : exec (.loadNoticeLeadEnd d) s = execLoadNoticeLeadEnd d s := rfl
theorem exec_domainSoftStartDone (d : Fin 30) (mv : BitVec 12) : exec (.domainSoftStartDone d mv) s = execDomainSoftStartDone d mv s := rfl
theorem exec_domainPowerOffDone (d : Fin 30) : exec (.domainPowerOffDone d) s = execDomainPowerOffDone d s := rfl
theorem exec_domainGrantTimeout (d : Fin 30) : exec (.domainGrantTimeout d) s = execDomainGrantTimeout d s := rfl

end

/-! ### DOMAIN -/

/-- The job on the core of a domain dies with the switch-off of the domain (R343). -/
def domainKilled (s : State) (d : Fin 30) : State :=
  match domainJob s d with
  | some j => if j.killed then s else killJob s j.id 0 0 (0, 15, 0) none
  | none => s

/-- The core of a domain is fenced where the domain goes off (R343). -/
def domainFenced (s : State) (d : Fin 30) : State :=
  match coreOfDomain s d with
  | some c => fenceCore s c
  | none => s

section
variable {s : State} {k : Fin 16} {d : Fin 30} (hruns : s.Runs k 0x61 domainAllow) (hd : d = finOf 30 (by decide) (pf (getMb s k) 0 1))
include hruns hd

theorem exec_domain_on (hon : pf (getMb s k) 1 1 = 1) : exec (.domain k) s = .next (
    if (vget s.power.doms d).state = 1 then ends s k 0 []
    else modPower (waits s k) fun w => { w with
      requests := w.requests ++ [PowerRequest.mk d ((getMb s k).expert && decide (pf (getMb s k) 2 1 = 1)) false false (some k)] }) := by
  rw [exec_domain, execDomain, command_of_passed hruns.1 hruns.2, ← hd]
  exact congrArg Host.Outcome.next (if_pos hon)

theorem exec_domain_off (hoff : pf (getMb s k) 1 1 ≠ 1) : exec (.domain k) s = .next (
    if (vget s.power.doms d).state = 0 then ends s k 0 []
    else modPower (waits (domainFenced (domainKilled s d) d) k) fun w => { w with offs := w.offs ++ [d] }) := by
  rw [exec_domain, execDomain, command_of_passed hruns.1 hruns.2, ← hd]
  exact congrArg Host.Outcome.next (if_neg hoff)

end

/-- A kill leaves the fields of the cores. -/
theorem killJob_fieldOf (s : State) (id : BitVec 6) (code op : BitVec 16) (unit : Nat × Nat × Nat) (q : Option SeqState) :
    (killJob s id code op unit q).reg.fieldOf = s.reg.fieldOf := by
  have hrecord : ∀ s r, (writeRecord s r).reg.fieldOf = s.reg.fieldOf :=
    writeRecord_keeps_reg (·.fieldOf) fun _ _ _ _ _ _ => rfl
  have houtside : OutsideSessions (·.reg.fieldOf) :=
    ⟨outsideMailboxes_reg (·.fieldOf) (fun _ _ => rfl) fun _ _ => rfl, fun _ _ => rfl, fun _ _ => rfl⟩
  cases hfind : findJob s id with
  | none =>
    unfold killJob
    rw [hfind]
  | some j =>
    cases hkilled : j.killed with
    | true =>
      unfold killJob
      simp only [hfind, hkilled, if_true]
      exact hrecord ..
    | false =>
      obtain ⟨f, r, -, hkill⟩ := killJob_eq hfind hkilled code op unit q
      have hcores : (j.cores.foldl (fun s c => modCore s c scr) s).reg.fieldOf = s.reg.fieldOf := by rw [fold_jobs]
      rw [hkill, hrecord]
      exact (houtside.dropRestore ..).trans hcores

section
variable (s : State) (d : Fin 30)

theorem domainKilled_keeps {β : Type} (g : State → β) (hkill : ∀ s id code op unit q, g (killJob s id code op unit q) = g s) :
    g (domainKilled s d) = g s := by
  unfold domainKilled
  split
  · split
    · rfl
    · exact hkill ..
  · rfl

theorem OutsideParts.domainFenced {β : Type} {g : State → β} (hg : OutsideParts g) : g (domainFenced s d) = g s := by
  unfold Machine.domainFenced
  split
  · exact hg.fenceCore ..
  · rfl

variable {s d}

/-- The job on a domain's core is killed where it was not (R343). -/
theorem findJob_domainKilled {j : Job} (hj : domainJob s d = some j) :
    ∃ y, findJob (domainKilled s d) j.id = some y ∧ y.killed = true := by
  obtain ⟨c, -, hon⟩ := Option.bind_eq_some_iff.mp hj
  have hfind := findJob_of_jobOn hon
  unfold domainKilled
  rw [hj]
  dsimp only
  split
  case isTrue hkilled => exact ⟨j, hfind, hkilled⟩
  case isFalse hlive =>
    obtain ⟨hold, hkill⟩ := findJob_killJob hfind (Bool.eq_false_iff.mpr hlive) 0 0 (0, 15, 0) none
    exact ⟨_, hkill, rfl⟩

theorem fenced_domainFenced {c : CoreId} (hc : coreOfDomain s d = some c) : (getCore (domainFenced s d) c).fenced = true := by
  unfold domainFenced
  rw [hc]
  exact fenced_fenceCore ..

end

/-! ### Commands that wait on a domain -/

theorem waitsOn_congr {s t : State} {k : Fin 16} (h : getMb t k = getMb s k) (code : Nat) : waitsOn t k code = waitsOn s k code := by
  rw [waitsOn, waitsOn, h]

/-- The DOMAIN command that waits for a request, if any, ends with a STATUS. -/
def endsFor (s : State) (mb : Option (Fin 16)) (st : BitVec 16) : State :=
  match mb with
  | some k => if waitsOn s k 0x61 then ends s k st [] else s
  | none => s

theorem endsFor_keeps {β : Type} (g : State → β) (hg : ∀ s k f, g (modMb s k f) = g s) (s : State) (mb : Option (Fin 16))
    (st : BitVec 16) : g (endsFor s mb st) = g s := by
  unfold endsFor
  split
  · split
    · exact hg ..
    · rfl
  · rfl

theorem result_endsFor {s : State} {k : Fin 16} (h : waitsOn s k 0x61 = true) (st : BitVec 16) :
    (getMb (endsFor s (some k) st) k).result = some (st, [], 0) := by
  unfold endsFor
  dsimp only
  rw [if_pos h]
  exact result_endsWith ..

/-- The DOMAIN command of mailbox k ends OK where it waits for domain d to go off. -/
def endsOff (d : Fin 30) (s : State) (k : Fin 16) : State :=
  if waitsOn s k 0x61 && pf (getMb s k) 0 1 == d.val && pf (getMb s k) 1 1 == 0 then ends s k 0 [] else s

theorem endsOff_keeps {β : Type} (g : State → β) (hg : ∀ s k f, g (modMb s k f) = g s) (d : Fin 30) (s : State) (k : Fin 16) :
    g (endsOff d s k) = g s := by
  unfold endsOff
  split
  · exact hg ..
  · rfl

theorem getMb_endsOff_other (d : Fin 30) (s : State) {j k : Fin 16} (h : j ≠ k) : getMb (endsOff d s j) k = getMb s k := by
  unfold endsOff
  split
  · exact getMb_modMb_other _ _ h
  · rfl

/-- After a fold whose steps change their own mailbox only, a mailbox is that of its own step, from a state in which it is as before. -/
theorem getMb_foldl {f : State → Fin 16 → State} {k : Fin 16} (hother : ∀ s j, j ≠ k → getMb (f s j) k = getMb s k) :
    ∀ {l : List (Fin 16)} {s : State}, l.Nodup → k ∈ l → ∃ t, getMb t k = getMb s k ∧ getMb (l.foldl f s) k = getMb (f t k) k
  | [], _, _, hk => absurd hk List.not_mem_nil
  | j :: l, s, hnodup, hk => by
    obtain ⟨hj, hl⟩ := List.nodup_cons.mp hnodup
    rw [List.foldl_cons]
    by_cases h : j = k
    · subst h
      exact ⟨s, rfl, foldl_keeps_of_mem (getMb · j) fun i hi s => hother s i fun e => hj (e ▸ hi)⟩
    · obtain ⟨t, ht, hfold⟩ := getMb_foldl hother (s := f s j) hl (List.mem_of_ne_of_mem (Ne.symm h) hk)
      exact ⟨t, ht.trans (hother s j h), hfold⟩

theorem result_foldl_endsOff {d : Fin 30} {s : State} {k : Fin 16} (hwaits : waitsOn s k 0x61 = true)
    (hdom : pf (getMb s k) 0 1 = d.val) (hoff : pf (getMb s k) 1 1 = 0) :
    (getMb ((allFin 16).foldl (endsOff d) s) k).result = some (0, [], 0) := by
  obtain ⟨t, ht, hfold⟩ := getMb_foldl (f := endsOff d) (fun s j => getMb_endsOff_other d s) (s := s) (List.nodup_finRange 16)
    (List.mem_finRange k)
  have hends : endsOff d t k = ends t k 0 [] := if_pos (by simp [waitsOn_congr ht, ht, hwaits, hdom, hoff])
  rw [allFin, hfold, hends]
  exact result_endsWith ..

/-! ### Requests -/

section
variable {s : State} {d : Fin 30}

theorem exec_domainPowerGrant_of_room (hfirst : (waitingRequests s.power).head?.any (fun r => r.dom == d) = true)
    (hpackage : packageRoom s.power d = true) (hfeed : feedRoom s.power d = true) (horder : mayRise s d = true) :
    exec (.domainPowerGrant d) s = .next (announce (modPower s fun w => { w with
      requests := w.requests.map fun r => if r.dom = d then { r with granted := true } else r }) d (inrushIdleD d) true) := by
  rw [exec_domainPowerGrant, execDomainPowerGrant, if_pos (by simp only [hfirst, hpackage, hfeed, horder, Bool.and_self])]

theorem exec_domainPowerGrant_of_refused (h : (waitingRequests s.power).head?.any (fun r => r.dom == d) = false ∨
    packageRoom s.power d = false ∨ feedRoom s.power d = false ∨ mayRise s d = false) :
    exec (.domainPowerGrant d) s = .next s := by
  rw [exec_domainPowerGrant, execDomainPowerGrant]
  refine congrArg Host.Outcome.next (if_neg ?_)
  obtain h | h | h | h := h <;> simp only [h, Bool.false_and, Bool.and_false] <;> exact Bool.false_ne_true

/-- A request that was announced, once its lead time has passed: the domain starts (R343, R356). -/
def leadEnded (s : State) (d : Fin 30) : State :=
  noted (modDom (modPower s fun w => { w with
    requests := w.requests.map fun r => if r.dom = d then { r with leadDone := true } else r }) d fun x => { x with state := 2 })

theorem exec_loadNoticeLeadEnd_of_granted (h : (s.power.requests.any fun r => r.dom == d && r.granted && !r.leadDone) = true) :
    exec (.loadNoticeLeadEnd d) s = .next (leadEnded s d) := by
  rw [exec_loadNoticeLeadEnd, execLoadNoticeLeadEnd, if_pos h]
  rfl

/-- The state without the request for a domain (R353). -/
def requestGone (s : State) (d : Fin 30) : State := modPower s fun w => { w with requests := w.requests.filter fun x => x.dom != d }

theorem exec_domainGrantTimeout_of_waiting {r : PowerRequest}
    (h : (s.power.requests.find? fun r => r.dom == d && !r.granted) = some r) :
    exec (.domainGrantTimeout d) s = .next (endsFor (requestGone s d) r.mb stBusy) := by
  rw [exec_domainGrantTimeout, execDomainGrantTimeout, h]
  rfl

end

/-! ### Soft start -/

/-- A domain that has come up at the voltage given, its units ready (R343). -/
def softStarted (s : State) (d : Fin 30) (mv : BitVec 12) : State :=
  noted (domainReady (requestGone (modDom s d fun x => { x with state := 1, clamp := false, mv := mv }) d) d)

theorem exec_domainSoftStartDone_of_lead {s : State} {d : Fin 30} (mv : BitVec 12) {r : PowerRequest}
    (h : (s.power.requests.find? fun r => r.dom == d && r.leadDone) = some r) :
    exec (.domainSoftStartDone d mv) s = .next (endsFor (softStarted s d mv) r.mb 0) := by
  rw [exec_domainSoftStartDone, execDomainSoftStartDone, h]
  rfl

section
variable (s : State) (d : Fin 30) (mv : BitVec 12)

theorem softStarted_power : (softStarted s d mv).power = { s.power with
    doms := vmod s.power.doms d fun x => { x with state := 1, clamp := false, mv := mv }
    requests := s.power.requests.filter fun x => x.dom != d } :=
  (noted_power _).trans (outsideUnits_power.domainReady ..)

theorem softStarted_mem : (softStarted s d mv).mem = s.mem := (noted_mem _).trans (outsideParts_mem.domainReady ..)

theorem getMb_softStarted (k : Fin 16) : getMb (softStarted s d mv) k = getMb s k :=
  (noted_keeps_reg (fun r => vget r.mailboxes k) (fun _ _ => rfl) _).trans
    (congrArg (fun r => vget r.mailboxes k) (outsideUnits_reg.domainReady ..))

variable {d} in
/-- A core whose compute domain comes up leaves reset, unfenced, with its Stacks as they are (R343, R366). -/
theorem getCore_domainReady (hd : d.val < 12) {c : CoreId} (hc : coreOfDomain s d = some c) (hst : (getCore s c).st ≠ .lost) :
    (getCore (domainReady s d) c).st = .idle ∧ (getCore (domainReady s d) c).fenced = false ∧
      (getCore (domainReady s d) c).stk = (getCore s c).stk := by
  unfold domainReady
  rw [hc]
  dsimp only
  rw [if_pos hd, if_neg hst, getCore_cores (liftFence_cores ..), getCore_modCore_same, getCore_cores (modRegion_cores ..),
    getCore_modCore_same]
  exact ⟨rfl, rfl, rfl⟩

end

/-! ### A domain that has gone off -/

/-- A domain switched off, no more among those going off (R343). -/
def wentOff (s : State) (d : Fin 30) : State := domainOff (modPower s fun w => { w with offs := w.offs.filter (· != d) }) d false

section
variable {s : State} {d : Fin 30}

theorem exec_domainPowerOffDone_of_free (hoff : s.power.offs.contains d = true) (hfree : domainJob s d = none) :
    exec (.domainPowerOffDone d) s = .next ((allFin 16).foldl (endsOff d) (wentOff s d)) := by
  rw [exec_domainPowerOffDone, execDomainPowerOffDone, if_pos (by simp only [hoff, hfree, Option.isNone_none, Bool.and_self])]
  rfl

theorem exec_domainPowerOffDone_of_held (h : s.power.offs.contains d = false ∨ (domainJob s d).isSome = true) :
    exec (.domainPowerOffDone d) s = .next s := by
  rw [exec_domainPowerOffDone, execDomainPowerOffDone]
  refine congrArg Host.Outcome.next (if_neg fun hboth => ?_)
  obtain ⟨hoff, hfree⟩ := Bool.and_eq_true_iff.mp hboth
  obtain h | h := h
  · exact Bool.false_ne_true (h.symm.trans hoff)
  · rw [Option.isNone_iff_eq_none.mp hfree] at h
    exact Bool.false_ne_true h

theorem wentOff_power (s : State) (d : Fin 30) : (wentOff s d).power = { s.power with
    doms := vmod s.power.doms d (PowerDomain.off false), offs := s.power.offs.filter (· != d) } := by
  rw [wentOff, domainOff_power]
  rfl

theorem getMb_wentOff (s : State) (d : Fin 30) (k : Fin 16) : getMb (wentOff s d) k = getMb s k :=
  domainOff_keeps_reg _ d false (fun r => vget r.mailboxes k) fun _ _ => rfl

variable {c : CoreId} (hc : coreOfDomain s d = some c)
include hc

/-- A core whose compute domain is off is OFF and fenced (R343). -/
theorem getCore_domainGone (hd : d.val < 12) (hst : (getCore s c).st ≠ .lost) :
    (getCore (domainGone s d) c).st = .off ∧ (getCore (domainGone s d) c).fenced = true := by
  have habsorb : (getCore (absorb s c) c).st = (getCore s c).st := by
    unfold absorb
    rw [getCore_cores (modTiers_cores ..), getCore_modCore_same]
  have hfence : (getCore (fenceCore (absorb s c) c) c).st = (getCore s c).st := by
    rw [fenceCore, getCore_cores (forwardOnly_cores ..), getCore_modCore_same]
    exact habsorb
  unfold domainGone
  rw [hc]
  dsimp only
  rw [if_pos hd, getCore_modCore_same]
  exact ⟨if_neg (hfence ▸ hst), fenced_fenceCore ..⟩

/-- Stacks whose domain is off keep nothing (R343). -/
theorem memGet_domainGone (hd : 12 ≤ d.val) {a : Nat} (ha : a < 0x80000000) :
    memGet (domainGone s d).mem (stacksAddr c a) = 0 := by
  unfold domainGone
  rw [hc]
  dsimp only
  rw [if_neg (Nat.not_lt.mpr hd)]
  refine (memGet_memErase ..).trans (if_neg ?_)
  simp only [stacksAddr]
  omega

end

/-- Settles O53: DOMAIN by the state it asks for, each later event by what it leaves of the requests, the domain, its core and the command
that waits. -/
theorem domainPower : Obligations.DomainPower := by
  intro s d
  refine ⟨?domain, ?grant, exec_domainPowerGrant_of_refused, ?lead, ?start, ?off, exec_domainPowerOffDone_of_held, ?timeout⟩
  case domain =>
    rintro k _ rfl hruns hd
    refine ⟨fun hon => ⟨fun hup => ?_, fun hdown => ?_⟩, fun hoff => ⟨fun hdown => ?_, fun hup => ?_⟩⟩
    · rw [exec_domain_on hruns hd hon, if_pos hup]
    · rw [exec_domain_on hruns hd hon, if_neg hdown]
    · rw [exec_domain_off hruns hd hoff, if_pos hdown]
    · have hcore : coreOfDomain (domainKilled s d) d = coreOfDomain s d :=
        coreOfDomain_congr (domainKilled_keeps s d (·.reg.fieldOf) killJob_fieldOf) d
      refine ⟨_, (exec_domain_off hruns hd hoff).trans (by rw [if_neg hup]), ?_, ?_, ?_, fun c hc => ?_, fun j hj => ?_⟩
      · rw [modPower_power, waits, modMb_power, outsideUnits_power.domainFenced, domainKilled_keeps s d (·.power) killJob_power]
      · exact congrArg Mailbox.waiting (getMb_modMb_same ..)
      · rw [modPower_mem, waits, modMb_mem, outsideParts_mem.domainFenced, domainKilled_keeps s d (·.mem) killJob_mem]
      · rw [waits, getCore_cores (modPower_cores ..), getCore_cores (modMb_cores ..)]
        exact fenced_domainFenced (hcore.trans hc)
      · obtain ⟨y, hfind, hkilled⟩ := findJob_domainKilled hj
        exact ⟨y, (findJob_reg (congrArg Registrar.jobs (outsideUnits_reg.domainFenced (domainKilled s d) d)) _).trans hfind, hkilled⟩
  case grant => exact fun hfirst hpackage hfeed horder =>
    ⟨_, exec_domainPowerGrant_of_room hfirst hpackage hfeed horder, rfl, rfl, rfl, rfl⟩
  case lead =>
    refine fun h => ⟨_, exec_loadNoticeLeadEnd_of_granted h, ?_⟩
    rw [leadEnded, noted_power, noted_cores, noted_mem]
    exact ⟨vget_vmod_same .., fun e he => vget_vmod_other _ _ (Ne.symm he), rfl, rfl, rfl⟩
  case start =>
    intro mv r hr
    refine ⟨_, exec_domainSoftStartDone_of_lead mv hr, ?_⟩
    rw [endsFor_keeps (·.mem) modMb_mem, endsFor_keeps (·.power) modMb_power, softStarted_mem, softStarted_power]
    refine ⟨rfl, vget_vmod_same .., fun e he => vget_vmod_other _ _ (Ne.symm he), rfl, fun c hlt hc hst => ?_, fun k hk hwaits => ?_⟩
    · rw [endsFor_keeps (getCore · c) fun s k f => getCore_cores (modMb_cores s k f) c, softStarted, getCore_cores (noted_cores _)]
      exact getCore_domainReady _ hlt hc hst
    · rw [hk]
      exact result_endsFor ((waitsOn_congr (getMb_softStarted s d mv k) _).trans hwaits) 0
  case off =>
    intro hoff hfree
    have hpower : ((allFin 16).foldl (endsOff d) (wentOff s d)).power = (wentOff s d).power :=
      foldl_field (·.power) (endsOff_keeps (·.power) modMb_power d) _ _
    have hcores : ((allFin 16).foldl (endsOff d) (wentOff s d)).cores = (wentOff s d).cores :=
      foldl_field (·.cores) (endsOff_keeps (·.cores) modMb_cores d) _ _
    have hmem : ((allFin 16).foldl (endsOff d) (wentOff s d)).mem = (wentOff s d).mem :=
      foldl_field (·.mem) (endsOff_keeps (·.mem) modMb_mem d) _ _
    refine ⟨_, exec_domainPowerOffDone_of_free hoff hfree, ?_⟩
    rw [hpower, hmem, wentOff_power, vget_vmod_same]
    refine ⟨?_, rfl, rfl, rfl, fun e he => vget_vmod_other _ _ (Ne.symm he), fun c hlt hc hst => ?_, fun c hle hc a ha => ?_,
      fun k hwaits hdom hasked => ?_⟩
    · simp [PowerDomain.off]
    · rw [getCore_cores hcores, wentOff, getCore_cores (domainOff_cores ..)]
      exact getCore_domainGone (s := modPower s _) hc hlt hst
    · rw [wentOff, domainOff_mem]
      exact memGet_domainGone (s := modPower s _) hc hle ha
    · have hmb := getMb_wentOff s d k
      rw [← hmb] at hdom hasked
      exact result_foldl_endsOff ((waitsOn_congr hmb _).trans hwaits) hdom hasked
  case timeout =>
    intro r hr
    refine ⟨_, exec_domainGrantTimeout_of_waiting hr, ?_⟩
    rw [endsFor_keeps (·.power) modMb_power, endsFor_keeps (·.cores) modMb_cores, endsFor_keeps (·.mem) modMb_mem]
    refine ⟨rfl, rfl, rfl, rfl, fun k hk hwaits => ?_⟩
    rw [hk]
    exact result_endsFor (s := requestGone s d) hwaits stBusy

end Sys2Proof.Machine
end

section
/-!
Trips of domains, feed groups in native and in compatibility delivery, and rails (R346 to R349, R451, R452).
-/
namespace Sys2Proof.Machine

/-! ### The instructions -/

section
variable {s : State}

theorem exec_domainTrip (d : Fin 30) (a : BitVec 16) : exec (.domainTrip d a) s = execDomainTrip d a s := rfl
theorem exec_feedSuspect (n : Fin 6) (a e : BitVec 16) (v : BitVec 12) : exec (.feedSuspect n a e v) s = execFeedSuspect n a e v s := rfl
theorem exec_feedFault (n : Fin 6) (a e : BitVec 16) (v : BitVec 12) : exec (.feedFault n a e v) s = execFeedFault n a e v s := rfl
theorem exec_feedLost (b : Fin 2) (v : BitVec 12) : exec (.feedLost b v) s = execFeedLost b v s := rfl
theorem exec_railOutOfRange (r : Rail) (mv : Nat) : exec (.railOutOfRange r mv) s = execRailOutOfRange r mv s := rfl

end

/-! ### What a trip leaves of the power block -/

section
variable (s : State)

theorem loseCore_power (c : CoreId) : (loseCore s c).power = s.power := by
  unfold loseCore
  dsimp only
  split
  · rfl
  · have hforward := outsideUnits_power.forwardOnly (modCore s c fun k => { k with st := .lost, fenced := true, seqRun := 0 }) c
    split
    · exact (killJob_power ..).trans ((noted_power _).trans hforward)
    · exact (noted_power _).trans hforward

theorem killJobs_power (l : List Job) (code : BitVec 16) (unit : Nat × Nat × Nat) : (killJobs s l code unit).power = s.power :=
  foldl_field (·.power) (fun _ _ => killJob_power ..) _ _

theorem killAll_power (code : BitVec 16) (unit : Nat × Nat × Nat) : (killAll s code unit).power = s.power := by
  refine foldl_field (·.power) (fun s j => ?_) _ _
  split
  · rfl
  · exact killJob_power ..

theorem poisonReads_power (hit : Nat → Bool) : (poisonReads s hit).power = s.power :=
  foldl_field (·.power) (fun _ _ => settleMem_keeps modTiers_power modSeq_power ..) _ _

theorem failDevice_power : (failDevice s).power = s.power := noted_power _

end

/-- Power block t has of w the domain that trips and the inputs of the board; the domains of the edge, of Lacing and of the management
region assert PWR_FAULT (Table 14-3). -/
structure Power.Tripped (d : Fin 30) (w t : Power) : Prop where
  dom : vget t.doms d = vget w.doms d
  hbmPg : t.hbmPg = w.hbmPg
  fault : d = 24 ∨ d = 25 ∨ d = 28 → t.pwrFault = true

/-- The domains that assert no PWR_FAULT change nothing of the power block. -/
theorem Power.Tripped.of_eq {d : Fin 30} {w t : Power} (h : t = w) (hd : ¬(d = 24 ∨ d = 25 ∨ d = 28)) : Power.Tripped d w t :=
  ⟨by rw [h], by rw [h], fun hd' => absurd hd' hd⟩

/-- Whether or not a domain is to go off next. -/
theorem Power.Tripped.goesOff {d : Fin 30} {w : Power} {t : State} (h : Power.Tripped d w t.power) (p : Prop) [Decidable p]
    (e : Fin 30) : Power.Tripped d w (if p then modPower t fun w => { w with offs := w.offs ++ [e] } else t).power := by
  split
  · exact ⟨h.dom, h.hbmPg, h.fault⟩
  · exact h

theorem Power.Tripped.assert {d : Fin 30} {w : Power} {t : State} (hdom : vget t.power.doms d = vget w.doms d)
    (hpg : t.power.hbmPg = w.hbmPg) : Power.Tripped d w (assertPwrFault t).power := ⟨hdom, hpg, fun _ => rfl⟩

theorem Power.Tripped.failed {d : Fin 30} (s : State) (unit : Nat × Nat × Nat) :
    Power.Tripped d s.power (assertPwrFault (failDevice (killAll s 0 unit))).power := by
  have hpower : (failDevice (killAll s 0 unit)).power = s.power := (failDevice_power _).trans (killAll_power ..)
  exact .assert (by rw [hpower]) (by rw [hpower])

theorem tripEffects_power (s : State) (d : Fin 30) : Power.Tripped d s.power (tripEffects s d).power := by
  unfold tripEffects
  dsimp only
  split
  case h_1 c hc =>
    have hlt := lt_of_coreOfDomain hc
    have hd : ¬(d = 24 ∨ d = 25 ∨ d = 28) := by omega
    split
    · exact .of_eq ((loseCore_power ..).trans (outsideUnits_power.fenceCore ..)) hd
    · have hanswered : ∀ l : List RemoteAccess, (l.foldl (fun s x => respond s x.flit 0 (List.replicate 64 0) true) s).power = s.power :=
        fun l => foldl_field (·.power) (fun _ _ => outsideUnits_power.respond ..) l s
      exact .goesOff (t := loseCore _ c) (.of_eq ((loseCore_power ..).trans ((modStk_power ..).trans (hanswered _))) hd) _ _
  case h_2 =>
    have hpoisoned : ∀ hit l code unit, (killJobs (poisonReads s hit) l code unit).power = s.power := fun _ _ _ _ =>
      (killJobs_power ..).trans (poisonReads_power ..)
    split_ifs with h24 h25 hphy hside h28 h29
    · exact .failed ..
    · obtain ⟨v, hpower, hdoms⟩ := powerDown_power (killAll s 0 (11, 15, d.val)) [25]
      rw [killAll_power] at hpower hdoms
      exact .assert (by rw [hpower, hdoms, if_pos (by simp [h25])]) (by rw [hpower])
    · exact .of_eq (hpoisoned ..) (by simp [hside])
    · exact .of_eq (hpoisoned ..) (by simp [hphy.resolve_left hside])
    · exact .failed ..
    · exact .of_eq (hpoisoned ..) (by simp [h29])
    · exact .of_eq rfl (by simp [h24, h25, h28])

/-! ### The trip -/

section
variable (s : State) (d : Fin 30) (a : BitVec 16)

/-- Apart from its record and its entry in the condition report, a trip is the domain's going off and its results (R349). -/
theorem tripDomain_keeps {β : Type} (g : State → β) (hrecord : ∀ s r, g (writeRecord s r) = g s)
    (hflash : ∀ s f, g (modFlash s f) = g s) : g (tripDomain s d a) = g (tripEffects (domainOff s d true) d) := by
  unfold tripDomain powerRecord
  exact (hrecord ..).trans (condAppend_keeps g hrecord hflash ..)

theorem tripDomain_power : Power.Tripped d (domainOff s d true).power (tripDomain s d a).power := by
  rw [tripDomain_keeps s d a (·.power) writeRecord_power modFlash_power]
  exact tripEffects_power ..

/-- A domain that trips is TRIPPED, its clamps closed (R349). -/
theorem dom_tripDomain : vget (tripDomain s d a).power.doms d = (vget s.power.doms d).off true := by
  rw [(tripDomain_power s d a).dom, domainOff_power, vget_vmod_same]

theorem hbmPg_tripDomain : (tripDomain s d a).power.hbmPg = s.power.hbmPg := by
  rw [(tripDomain_power s d a).hbmPg, domainOff_power]

variable {d} in
theorem lost_tripEffects {c : CoreId} (hc : coreOfDomain s d = some c) : (getCore (tripEffects s d) c).st = .lost := by
  unfold tripEffects
  rw [hc]
  dsimp only
  split
  · exact (loseCore_st ..).1
  · split
    · rw [getCore_cores (modPower_cores ..)]
      exact (loseCore_st ..).1
    · exact (loseCore_st ..).1

variable {d} in
/-- The core of a domain that trips is LOST (Table 14-3). -/
theorem lost_tripDomain {c : CoreId} (hc : coreOfDomain s d = some c) : (getCore (tripDomain s d a) c).st = .lost := by
  rw [tripDomain_keeps s d a (getCore · c) (fun s r => getCore_cores (writeRecord_cores s r) c)
    fun s f => getCore_cores (modFlash_cores s f) c]
  refine lost_tripEffects _ ?_
  rwa [coreOfDomain_congr (domainOff_keeps_reg s d true (·.fieldOf) fun _ _ => rfl)]

variable {d} in
/-- A trip of Lacing or of the north edge die kills every job and fails the device (Table 14-3). -/
theorem tripEffects_of_fatal (hd : d = 24 ∨ d = 28) :
    tripEffects s d = assertPwrFault (failDevice (killAll s 0 (11, 15, d.val))) := by
  obtain rfl | rfl := hd
  · rfl
  · rfl

variable {d} in
theorem devState_tripDomain (hd : d = 24 ∨ d = 28) : (tripDomain s d a).reg.devState = 3 := by
  rw [tripDomain_keeps s d a (·.reg.devState) (writeRecord_keeps_reg (·.devState) fun _ _ _ _ _ _ => rfl)
    fun _ _ => by rw [modFlash_reg]]
  rw [tripEffects_of_fatal _ hd]
  exact noted_keeps_reg (·.devState) (fun _ _ => rfl) _

variable {s d a}

theorem exec_domainTrip_of_over (hup : domainUp s d = true) (hover : domainMaxD s d * 125 < a.toNat * 100) :
    exec (.domainTrip d a) s = .next (tripDomain s d a) := by
  rw [exec_domainTrip, execDomainTrip, if_pos (by simp [hup, hover])]

theorem exec_domainTrip_of_below (h : domainUp s d = false ∨ a.toNat * 100 ≤ domainMaxD s d * 125) :
    exec (.domainTrip d a) s = .next s := by
  rw [exec_domainTrip, execDomainTrip, if_neg (by simpa [← Bool.not_eq_true, imp_iff_not_or] using h)]

end

/-- A power-good input that falls trips its PHY domain where that is on (R452). -/
theorem exec_hbmPgDeassert_eq {s : State} {side : Fin 2} {d : Fin 30} (hd : d = if side = 0 then 26 else 27) :
    exec (.hbmPgDeassert side) s =
      .next (if domainUp s d = true then tripDomain (setHbmPg s side false) d 0 else setHbmPg s side false) := by
  subst hd
  rfl

/-! ### Feed groups -/

section
variable (s : State) (i : Nat) (sev : BitVec 8) (x y z : Nat)

@[simp] theorem powerRecord_power : (powerRecord s i sev x y z).power = s.power := writeRecord_power ..
@[simp] theorem powerRecord_cores : (powerRecord s i sev x y z).cores = s.cores := writeRecord_cores ..
@[simp] theorem powerRecord_mem : (powerRecord s i sev x y z).mem = s.mem := writeRecord_mem ..

end

/-- While a feed group is in FAULT, no core has a ceiling above 25 % (R348). -/
theorem ceilingOf_le_of_fault {s : State} {g : Fin 6} (h : (vget s.power.fgs g).fault = true) (c : CoreId) : ceilingOf s c ≤ 25 := by
  have hany : (allFin 6).any (fun g => (vget s.power.fgs g).fault) = true := List.any_eq_true.mpr ⟨g, List.mem_finRange g, h⟩
  unfold ceilingOf
  rw [hany, Bool.true_or, if_pos rfl]
  exact Nat.min_le_right ..

section
variable {s : State} {n : Fin 6} {a e : BitVec 16} {v : BitVec 12}

theorem exec_feedSuspect_of_low (hnative : s.power.compat = false) (hsuspect : (vget s.power.fgs n).suspect = false)
    (hfault : (vget s.power.fgs n).fault = false) (hexp : 500 ≤ e.toNat) (hshare : a.toNat * 100 < e.toNat * 70)
    (hsense : (v.toNat + 25) * 5 < otherSense s.power n) : exec (.feedSuspect n a e v) s = .next (powerRecord (noted
      (modFeed s n fun x => { x with suspect := true, ampsD := a, expD := e, senseMv := v })) (0x40 + n.val) 1 a.toNat v.toNat e.toNat) := by
  rw [exec_feedSuspect, execFeedSuspect]
  exact congrArg Host.Outcome.next (if_neg (by simp [hnative, hsuspect, hfault, hexp, hshare, hsense]))

theorem exec_feedSuspect_of_well (h : s.power.compat = true ∨ (vget s.power.fgs n).suspect = true ∨ e.toNat * 70 ≤ a.toNat * 100 ∨
    otherSense s.power n ≤ (v.toNat + 25) * 5) : exec (.feedSuspect n a e v) s = .next s := by
  rw [exec_feedSuspect, execFeedSuspect]
  refine congrArg Host.Outcome.next (if_pos ?_)
  obtain h | h | h | h := h <;> simp [h]

theorem exec_feedFault_of_out (hnative : s.power.compat = false) (hfault : (vget s.power.fgs n).fault = false)
    (hout : v.toNat < 1400 ∨ 1850 < v.toNat ∨ 4200 < a.toNat) : exec (.feedFault n a e v) s = .next (powerRecord (noted (assertPwrFault
      (modFeed s n fun x => { x with fault := true, ampsD := a, expD := e, senseMv := v }))) (0x40 + n.val) 2 a.toNat v.toNat e.toNat) := by
  rw [exec_feedFault, execFeedFault]
  refine congrArg Host.Outcome.next (if_neg fun h => ?_)
  have hin : 1400 ≤ v.toNat ∧ v.toNat ≤ 1850 ∧ a.toNat ≤ 4200 := by simpa [hnative, hfault, and_assoc] using h
  omega

theorem exec_feedFault_of_in (h : s.power.compat = true ∨ (1400 ≤ v.toNat ∧ v.toNat ≤ 1850 ∧ a.toNat ≤ 4200)) :
    exec (.feedFault n a e v) s = .next s := by
  rw [exec_feedFault, execFeedFault]
  refine congrArg Host.Outcome.next (if_pos ?_)
  obtain h | ⟨hlow, hhigh, hamps⟩ := h
  · simp [h]
  · simp [hlow, hhigh, hamps]

end

/-! ### Feeds in compatibility delivery -/

/-- A feed that is lost, with its record (R346). -/
def feedGone (s : State) (b : Fin 2) (v : BitVec 12) : State :=
  powerRecord (noted (modPower s fun w => { w with feedLost := setBit w.feedLost b.val true })) (0x40 + 3 * b.val) 2 0 v.toNat 0

theorem feedGone_power (s : State) (b : Fin 2) (v : BitVec 12) :
    (feedGone s b v).power = { s.power with feedLost := setBit s.power.feedLost b.val true } := by
  rw [feedGone, powerRecord_power, noted_power, modPower_power]

section
variable {s : State} {b : Fin 2} {v : BitVec 12}

theorem exec_feedLost_of_low (hcompat : s.power.compat = true) (hhere : bit s.power.feedLost b.val = false) (hlow : v.toNat < 700) :
    exec (.feedLost b v) s = .next (if setBit s.power.feedLost b.val true = 3 then powerLoss (feedGone s b v) else feedGone s b v) := by
  rw [exec_feedLost, execFeedLost, if_neg (by simp [hcompat, hhere, hlow])]
  have hlost : (feedGone s b v).power.feedLost = setBit s.power.feedLost b.val true := by rw [feedGone_power]
  rw [← hlost]
  rfl

theorem exec_feedLost_of_there (h : s.power.compat = false ∨ bit s.power.feedLost b.val = true ∨ 700 ≤ v.toNat) :
    exec (.feedLost b v) s = .next s := by
  rw [exec_feedLost, execFeedLost]
  refine congrArg Host.Outcome.next (if_pos ?_)
  obtain h | h | h := h <;> simp [h]

end

/-! ### Rails -/

section
variable {s : State} {r : Rail} {mv : Nat}

theorem exec_railOutOfRange_of_damage (h : (railLimits r).2.2 < mv) : exec (.railOutOfRange r mv) s = .fault .absoluteMaximum := by
  rw [exec_railOutOfRange, execRailOutOfRange]
  exact if_pos h

variable (hmax : mv ≤ (railLimits r).2.2)
include hmax

theorem exec_railOutOfRange_of_in (h : s.pins.perst = true ∨ ((railLimits r).1 ≤ mv ∧ mv ≤ (railLimits r).2.1)) :
    exec (.railOutOfRange r mv) s = .next s := by
  rw [exec_railOutOfRange, execRailOutOfRange]
  refine (if_neg (Nat.not_lt.mpr hmax)).trans (congrArg Host.Outcome.next (if_pos ?_))
  simpa using h

theorem exec_railOutOfRange_of_out (hrun : s.pins.perst = false) (hout : mv < (railLimits r).1 ∨ (railLimits r).2.1 < mv) :
    exec (.railOutOfRange r mv) s = .next (if coreRail r = true then modPower s fun w => { w with railsBad := true }
      else powerLoss (modPower s fun w => { w with railsBad := true })) := by
  rw [exec_railOutOfRange, execRailOutOfRange]
  refine (if_neg (Nat.not_lt.mpr hmax)).trans (congrArg Host.Outcome.next (if_neg fun h => ?_))
  have hin : (railLimits r).1 ≤ mv ∧ mv ≤ (railLimits r).2.1 := by simpa [hrun] using h
  omega

end

/-- Settles O54: each event by the lemma about its outcome; a trip by what it leaves of the power block, its core and the device. -/
theorem tripsAndFeeds : Obligations.TripsAndFeeds := by
  intro s
  refine ⟨fun d a => ⟨exec_domainTrip_of_below, fun hup hover => ?trip⟩,
    fun n a e v => ⟨fun hnative hsuspect hfault hexp hshare hsense => ?suspect, exec_feedSuspect_of_well,
      fun hnative hfault hout => ?fault, exec_feedFault_of_in⟩,
    fun b v => ⟨exec_feedLost_of_there, fun hcompat hhere hlow => ?lost⟩, fun side d hd => ⟨fun hdown => ?_, fun hup => ?_⟩,
    fun r mv => ⟨exec_railOutOfRange_of_damage, fun hmax => ⟨exec_railOutOfRange_of_in hmax, fun hrun hout => ⟨fun hcore => ?_, fun hcore => ?_⟩⟩⟩⟩
  case trip =>
    refine ⟨_, exec_domainTrip_of_over hup hover, ?_, ?_, ?_, fun c => lost_tripDomain s a, (tripDomain_power s d a).fault,
      devState_tripDomain s a⟩
    · rw [dom_tripDomain]
      rfl
    · rw [dom_tripDomain]
      exact Bool.or_true _
    · rw [dom_tripDomain]
      rfl
  case suspect =>
    refine ⟨_, exec_feedSuspect_of_low hnative hsuspect hfault hexp hshare hsense, ?_⟩
    simp only [powerRecord_power, powerRecord_cores, powerRecord_mem, noted_power, noted_cores, noted_mem, modFeed, modPower_power,
      modPower_cores, modPower_mem, vget_vmod_same]
    exact ⟨trivial, fun i hi => vget_vmod_other _ _ (Ne.symm hi), trivial, trivial, trivial⟩
  case fault =>
    refine ⟨_, exec_feedFault_of_out hnative hfault hout, ?_, ?_, ceilingOf_le_of_fault (g := n) ?_, ?_, ?_, ?_⟩
    all_goals simp [modFeed, assertPwrFault]
  case lost =>
    refine ⟨_, exec_feedLost_of_low hcompat hhere hlow, ?_⟩
    split
    case isTrue hboth =>
      obtain ⟨w, hpower, hdoms⟩ := powerLoss_power (feedGone s b v)
      rw [hpower, feedGone_power]
      exact ⟨rfl, fun _ => ⟨rfl, hdoms⟩, fun h => absurd hboth h⟩
    case isFalse hone =>
      rw [feedGone_power]
      exact ⟨rfl, fun h => absurd h hone, fun _ => ⟨rfl, by simp [feedGone], by simp [feedGone]⟩⟩
  · rw [exec_hbmPgDeassert_eq hd, if_neg (by simp [hdown])]
  · refine ⟨_, (exec_hbmPgDeassert_eq hd).trans (congrArg Host.Outcome.next (if_pos hup)), ?_, ?_, ?_⟩
    · rw [hbmPg_tripDomain]
      exact vget_vset_same ..
    · rw [dom_tripDomain]
      rfl
    · rw [dom_tripDomain]
      exact Bool.or_true _
  · rw [exec_railOutOfRange_of_out hmax hrun hout, if_pos hcore]
  · obtain ⟨w, hpower, hdoms⟩ := powerLoss_power (modPower s fun w => { w with railsBad := true })
    refine ⟨_, exec_railOutOfRange_of_out hmax hrun hout, ?_⟩
    rw [if_neg (by simp [hcore]), hpower]
    exact ⟨rfl, rfl, hdoms⟩

end Sys2Proof.Machine
end

section
/-!
The governor (R344, R350 to R352): allowances after a sample of 1 µs, and the core that a sample of the sustained window lowers or
raises.
-/
namespace Sys2Proof.Machine

/-! ### Allowances -/

section
variable (x goal step : Nat)

theorem moveToward_le : moveToward x goal step ≤ max goal (x - step) := by
  unfold moveToward
  split <;> omega

theorem moveToward_near : moveToward x goal step ≤ x + step ∧ x ≤ moveToward x goal step + step := by
  unfold moveToward
  split <;> omega

end

section
variable (s : State) (act : Nat) (c : CoreId)

/-- The four ways an allowance goes: above PEAK_W down in proportion to the activity; at most PEAK_W down by the step, held below the
ceiling, or moved toward a goal that lies under the ceiling (R350, R351). -/
theorem nextAllow_cases :
    (s.power.peakW.toNat < s.power.instW.toNat ∧ nextAllow s act c =
      (vget s.power.cores c).allowD - slopeStep s c * act / max (vget s.power.cores c).imaxD.toNat 1) ∨
    (s.power.instW.toNat ≤ s.power.peakW.toNat ∧
      (nextAllow s act c = (vget s.power.cores c).allowD - slopeStep s c ∨
        (nextAllow s act c = (vget s.power.cores c).allowD ∧
          (vget s.power.cores c).allowD < ceilingOf s c * (vget s.power.cores c).imaxD.toNat / 100) ∨
        ∃ goal, goal ≤ ceilingOf s c * (vget s.power.cores c).imaxD.toNat / 100 ∧
          nextAllow s act c = moveToward (vget s.power.cores c).allowD goal (slopeStep s c))) := by
  unfold nextAllow
  extract_lets p step top overs hold goal
  have hgoal : goal ≤ top := Nat.min_le_left ..
  by_cases hover : s.power.peakW.toNat < s.power.instW.toNat
  · exact .inl ⟨hover, if_pos (decide_eq_true hover)⟩
  · refine .inr ⟨Nat.not_lt.mp hover, ?_⟩
    rw [if_neg (by simpa [overs] using hover)]
    split
    · exact .inl rfl
    · split
      case isTrue hheld =>
        obtain ⟨-, hlow⟩ : hold = true ∧ p.allowD < goal := by simpa using hheld
        exact .inr (.inl ⟨rfl, Nat.lt_of_lt_of_le hlow hgoal⟩)
      case isFalse => exact .inr (.inr ⟨goal, hgoal, rfl⟩)

variable {act} in
/-- For an activity up to IMAX an allowance moves by at most the step of its slope (R350). -/
theorem nextAllow_near (hact : act ≤ (vget s.power.cores c).imaxD.toNat) :
    nextAllow s act c ≤ (vget s.power.cores c).allowD + slopeStep s c ∧
      (vget s.power.cores c).allowD ≤ nextAllow s act c + slopeStep s c := by
  have hpart : slopeStep s c * act / max (vget s.power.cores c).imaxD.toNat 1 ≤ slopeStep s c := by
    refine Nat.div_le_of_le_mul ?_
    rw [Nat.mul_comm]
    exact Nat.mul_le_mul_right _ (hact.trans (Nat.le_max_left ..))
  obtain ⟨-, hnext⟩ | ⟨-, hnext | ⟨hnext, -⟩ | ⟨goal, -, hnext⟩⟩ := nextAllow_cases s act c
  · rw [hnext]
    exact ⟨(Nat.sub_le ..).trans (Nat.le_add_right ..), Nat.sub_le_iff_le_add.mp (Nat.sub_le_sub_left hpart _)⟩
  · omega
  · omega
  · rw [hnext]
    exact moveToward_near ..

variable {s} in
/-- Above PEAK_W no allowance rises (R351). -/
theorem nextAllow_le_of_over (h : s.power.peakW.toNat < s.power.instW.toNat) :
    nextAllow s act c ≤ (vget s.power.cores c).allowD := by
  obtain ⟨-, hnext⟩ | ⟨hbelow, -⟩ := nextAllow_cases s act c
  · rw [hnext]
    exact Nat.sub_le ..
  · exact absurd h (Nat.not_lt.mpr hbelow)

variable {s} in
/-- At most PEAK_W an allowance comes to lie under its ceiling or falls by its step (R350). -/
theorem nextAllow_le_of_below (h : s.power.instW.toNat ≤ s.power.peakW.toNat) : nextAllow s act c ≤
    max (ceilingOf s c * (vget s.power.cores c).imaxD.toNat / 100) ((vget s.power.cores c).allowD - slopeStep s c) := by
  obtain ⟨hover, -⟩ | ⟨-, hnext | ⟨hnext, hlow⟩ | ⟨goal, hgoal, hnext⟩⟩ := nextAllow_cases s act c
  · exact absurd hover (Nat.not_lt.mpr h)
  · rw [hnext]
    exact Nat.le_max_right ..
  · rw [hnext]
    exact hlow.le.trans (Nat.le_max_left ..)
  · rw [hnext]
    exact (moveToward_le ..).trans (max_le_max_right _ hgoal)

end

/-! ### A sample of 1 µs -/

section
variable (s : State) (x : PowerSample)

/-- A feed group with its current and its voltage of a sample (R344). -/
def FeedGroup.sampled (y : FeedGroup) (g : Fin 6) : FeedGroup := { y with ampsD := vget x.fgAmpsD g, senseMv := vget x.fgSense g }

/-- The power block with a sample kept (R344). -/
def peakSampled : State := modPower s fun w => { w with
  instW := x.instW, nowW := x.nowW
  fgs := (allFin 6).foldl (fun v g => vmod v g (FeedGroup.sampled x · g)) w.fgs }

/-- The power data of a core after a sample: its limit in a SUSPECT feed group and its allowance (R347, R350, R351). -/
def nextPower (act : Vector (BitVec 16) 12) (c : CoreId) : CorePower :=
  { feedLowered s c with allowD := nextAllow s (vget act c).toNat c }

/-- The allowances and limits after a sample. -/
def allowed (act : Vector (BitVec 16) 12) : State := modPower s fun w => { w with
  thrPeak := decide (s.power.peakW.toNat * 100 < s.power.instW.toNat * 100 + committed s.power * 16)
  cores := (allFin 12).foldl (fun v c => vset v c (nextPower s act c)) w.cores }

theorem exec_governorPeakTick : exec (.governorPeakTick x) s = .next (allowed (peakSampled s x) x.activity) := rfl

theorem feed_peakSampled (g : Fin 6) : vget (peakSampled s x).power.fgs g = FeedGroup.sampled x (vget s.power.fgs g) g :=
  vget_foldl_each (fun g y => FeedGroup.sampled x y g) g s.power.fgs

theorem ceilingOf_peakSampled (c : CoreId) : ceilingOf (peakSampled s x) c = ceilingOf s c := by
  have hfault : ((allFin 6).any fun g => (vget (peakSampled s x).power.fgs g).fault) =
      (allFin 6).any fun g => (vget s.power.fgs g).fault := by
    simp only [feed_peakSampled, FeedGroup.sampled]
  unfold ceilingOf
  rw [hfault]
  rfl

theorem core_allowed (act : Vector (BitVec 16) 12) (c : CoreId) : vget (allowed s act).power.cores c = nextPower s act c :=
  vget_foldl_each (fun c _ => nextPower s act c) c s.power.cores

end

/-! ### The core that ranks highest -/

section
variable {α : Type} (f : α → Nat)

/-- The element that a measure ranks highest among a first one and those of a list. -/
theorem foldl_best : ∀ (l : List α) (b : α), l.foldl (fun b y => if f b < f y then y else b) b ∈ b :: l ∧
    ∀ y ∈ b :: l, f y ≤ f (l.foldl (fun b y => if f b < f y then y else b) b)
  | [], b => by simp
  | a :: l, b => by
    rw [List.foldl_cons]
    by_cases h : f b < f a
    · rw [if_pos h]
      obtain ⟨hmem, hbest⟩ := foldl_best l a
      exact ⟨List.mem_cons_of_mem _ hmem, List.forall_mem_cons.mpr ⟨h.le.trans (hbest a List.mem_cons_self), hbest⟩⟩
    · rw [if_neg h]
      obtain ⟨hmem, hbest⟩ := foldl_best l b
      obtain ⟨hfirst, hrest⟩ := List.forall_mem_cons.mp hbest
      refine ⟨?_, List.forall_mem_cons.mpr ⟨hfirst, List.forall_mem_cons.mpr ⟨(Nat.not_lt.mp h).trans hfirst, hrest⟩⟩⟩
      exact List.mem_cons.mpr ((List.mem_cons.mp hmem).imp_right (List.mem_cons_of_mem _))

theorem bestOf_of_ne_nil {l : List α} (h : l ≠ []) : ∃ x, bestOf f l = some x ∧ x ∈ l ∧ ∀ y ∈ l, f y ≤ f x := by
  cases l with
  | nil => exact absurd rfl h
  | cons a l => exact ⟨_, rfl, foldl_best f l a⟩

end

/-! ### A sample of the sustained window -/

section
variable (s : State) (a : BitVec 16) (act : Vector (BitVec 16) 12)

/-- The power block with a sample of the sustained window kept (R352). -/
def sustSampled : State := modPower s fun w => { w with avgW := a, thrSust := decide (w.sustW.toNat < a.toNat) }

@[simp] theorem longSince_sustSampled (span : Nat) (x : Option Nat) : longSince (sustSampled s a) span x = longSince s span x := rfl

variable {s a}

section
variable (hover : s.power.sustW.toNat < a.toNat)
include hover

theorem exec_governorSustTick_of_recent (h : longSince s 10000 s.power.govNs = false) :
    exec (.governorSustTick a act) s = .next (sustSampled s a) :=
  congrArg Host.Outcome.next ((if_pos hover).trans (if_neg (Bool.not_eq_true _ ▸ h)))

/-- Above SUST_W the governor lowers the core of highest activity among those that it may lower (R352). -/
theorem exec_governorSustTick_of_over (h : longSince s 10000 s.power.govNs = true) :
    exec (.governorSustTick a act) s = .next ((bestOf (fun c => (vget act c).toNat) ((allFin 12).filter (mayLower s))).elim
      (sustSampled s a) (lowerCore (sustSampled s a))) := by
  refine congrArg Host.Outcome.next ((if_pos hover).trans ((if_pos h).trans ?_))
  split
  case h_1 c hc => exact (congrArg (Option.elim · (sustSampled s a) (lowerCore (sustSampled s a))) hc).symm
  case h_2 hc => exact (congrArg (Option.elim · (sustSampled s a) (lowerCore (sustSampled s a))) hc).symm

end

section
variable (hbelow : a.toNat ≤ s.power.sustW.toNat)
include hbelow

theorem exec_governorSustTick_of_rest
    (h : s.power.sustW.toNat * 98 ≤ a.toNat * 100 ∨ longSince s 100000 s.power.raisedNs = false) :
    exec (.governorSustTick a act) s = .next (sustSampled s a) := by
  refine congrArg Host.Outcome.next ((if_neg (Nat.not_lt.mpr hbelow)).trans (if_neg fun hboth => ?_))
  obtain ⟨hlow, hlong⟩ := Bool.and_eq_true_iff.mp hboth
  obtain h | h := h
  · exact absurd (of_decide_eq_true hlow) (Nat.not_lt.mpr h)
  · exact Bool.false_ne_true (h.symm.trans hlong)

/-- Below 98 % of SUST_W the governor raises the core lowered most among those with a limit (R352). -/
theorem exec_governorSustTick_of_low (hlow : a.toNat * 100 < s.power.sustW.toNat * 98)
    (hlong : longSince s 100000 s.power.raisedNs = true) :
    exec (.governorSustTick a act) s = .next ((bestOf
      (fun c => (vget s.power.cores c).fmax.toNat - (vget s.power.cores c).govMhz.toNat)
      ((allFin 12).filter fun c => (vget s.power.cores c).govMhz != noLimit)).elim (sustSampled s a) (raiseCore (sustSampled s a))) := by
  refine congrArg Host.Outcome.next ((if_neg (Nat.not_lt.mpr hbelow)).trans
    ((if_pos (Bool.and_eq_true_iff.mpr ⟨decide_eq_true hlow, hlong⟩)).trans ?_))
  split
  case h_1 c hc => exact (congrArg (Option.elim · (sustSampled s a) (raiseCore (sustSampled s a))) hc).symm
  case h_2 hc => exact (congrArg (Option.elim · (sustSampled s a) (raiseCore (sustSampled s a))) hc).symm

end

end

/-- The core that a measure ranks highest among those that a predicate names. -/
theorem bestOf_filter (f : CoreId → Nat) (p : CoreId → Bool) (h : ∃ c, p c = true) :
    ∃ c, bestOf f ((allFin 12).filter p) = some c ∧ p c = true ∧ ∀ e, p e = true → f e ≤ f c := by
  obtain ⟨d, hd⟩ := h
  have hmem : ∀ e, p e = true → e ∈ (allFin 12).filter p := fun e he => List.mem_filter.mpr ⟨List.mem_finRange e, he⟩
  obtain ⟨c, hbest, hc, hmax⟩ := bestOf_of_ne_nil f (List.ne_nil_of_mem (hmem d hd))
  exact ⟨c, hbest, (List.mem_filter.mp hc).2, fun e he => hmax e (hmem e he)⟩

/-- Settles O55: the sample of 1 µs core by core, by the ways its allowance goes; the sustained window by the core that ranks highest. -/
theorem governorTicks : Obligations.GovernorTicks := by
  intro s
  refine ⟨fun x => ?peak, ?sust⟩
  case peak =>
    have hallow : ∀ c, (vget (allowed (peakSampled s x) x.activity).power.cores c).allowD =
        nextAllow (peakSampled s x) (vget x.activity c).toNat c := fun c => congrArg CorePower.allowD (core_allowed ..)
    refine ⟨_, exec_governorPeakTick s x, rfl, rfl, rfl, rfl, rfl, fun g => ?_, fun c hact => ?_, fun c hover => ?_, fun c hbelow => ?_⟩
    · have hfeed := feed_peakSampled s x g
      exact ⟨congrArg FeedGroup.ampsD hfeed, congrArg FeedGroup.senseMv hfeed⟩
    · rw [hallow]
      exact nextAllow_near (peakSampled s x) c hact
    · rw [hallow]
      exact nextAllow_le_of_over (s := peakSampled s x) _ c hover
    · rw [hallow, ← ceilingOf_peakSampled s x]
      exact nextAllow_le_of_below (s := peakSampled s x) _ c hbelow
  case sust =>
    rintro a act _ rfl
    refine ⟨fun hover => ⟨exec_governorSustTick_of_recent act hover, fun hlong => ⟨fun hnone => ?_, fun hsome => ?_⟩⟩,
      fun hbelow => ⟨exec_governorSustTick_of_rest act hbelow, fun hlow hlong hsome => ?_⟩⟩
    · have hempty : (allFin 12).filter (mayLower s) = [] := List.filter_eq_nil_iff.mpr fun c _ => by simp [hnone c]
      rw [exec_governorSustTick_of_over act hover hlong, hempty]
      rfl
    · obtain ⟨c, hbest, hmay, hmax⟩ := bestOf_filter (fun c => (vget act c).toNat) (mayLower s) hsome
      refine ⟨_, c, (exec_governorSustTick_of_over act hover hlong).trans (by rw [hbest]; rfl), hmay, hmax, rfl, ?_, fun e he => ?_⟩
      · exact congrArg CorePower.govMhz (vget_vmod_same ..)
      · exact vget_vmod_other _ _ (Ne.symm he)
    · obtain ⟨c, hbest, hlimit, -⟩ := bestOf_filter
        (fun c => (vget s.power.cores c).fmax.toNat - (vget s.power.cores c).govMhz.toNat)
        (fun c => (vget s.power.cores c).govMhz != noLimit) (hsome.imp fun c hc => by simpa using hc)
      refine ⟨_, c, (exec_governorSustTick_of_low act hbelow hlow hlong).trans (by rw [hbest]; rfl), by simpa using hlimit, rfl, ?_,
        fun e he => ?_⟩
      · exact congrArg CorePower.govMhz (vget_vmod_same ..)
      · exact vget_vmod_other _ _ (Ne.symm he)

end Sys2Proof.Machine
end

section
/-!
The machine as a whole: what a step does with the queue and on an empty queue, and the machine at reset.
-/
namespace Sys2Proof.Machine

/-! ### The step and the queue -/

theorem step_of_pending {s : State} {i : Instr} {rest : List Instr} (h : s.pending = i :: rest) :
    step s = exec i { s with pending := rest } := by
  unfold step
  rw [h]

theorem step_of_idle {s : State} (h : s.pending = []) : step s = .next (idleTick s) := by
  unfold step
  rw [h]

/-- Settles O1: by the definition of a step on a queue with a front. -/
theorem stepRunsFront : Obligations.StepRunsFront := fun _ _ _ h => step_of_pending h

/-- Settles O5: each command keeps the queue that it was started with, which is part of what O4's lemmas keep. -/
theorem stepDropsFront : Obligations.StepDropsFront := fun _ t hs hstep => (step_kept hs t hstep).1

/-! ### The microsecond of an empty queue -/

/-- A core after a microsecond: its cycles are counted where its clock runs (Table 02-7). -/
def CoreState.counted (s : State) (c : CoreId) (k : CoreState) : CoreState :=
  if coreClocked s c then { k with
    cycles := k.cycles + ((vget s.clock.regions (finOf 15 (by decide) c.val)).cur).setWidth 64 } else k

theorem counted_eq (s : State) (v : Vector CoreState 12) (c : CoreId) : (if coreClocked s c then vmod v c fun k => { k with
    cycles := k.cycles + ((vget s.clock.regions (finOf 15 (by decide) c.val)).cur).setWidth 64 } else v) =
    vmod v c (CoreState.counted s c) := by
  unfold CoreState.counted
  split
  · rfl
  · exact (vmod_id v c).symm

/-- The state after a microsecond in which device time runs (log 2). -/
def ticked (s : State) : State :=
  modReg { s with cores := (allFin 12).foldl (fun v c => vmod v c (CoreState.counted s c)) s.cores }
    fun r => { r with time := r.time + 1000 }

theorem idleTick_of_up {s : State} (hup : (vget s.power.doms 25).state = 1) : idleTick s = ticked s := by
  unfold idleTick ticked
  simp only [counted_eq, modReg_cores]
  exact if_pos hup

/-- Settles O2: the tick with domain D25 ON core by core, and with it off. -/
theorem stepIdles : Obligations.StepIdles := by
  intro s hidle
  refine ⟨_, step_of_idle hidle, ?_⟩
  by_cases hup : (vget s.power.doms 25).state = 1
  · have hcore : ∀ c, getCore (ticked s) c = (getCore s c).counted s c := fun c => vget_foldl_each (CoreState.counted s) c s.cores
    rw [idleTick_of_up hup, if_pos hup]
    refine ⟨rfl, fun c => ?_, rfl⟩
    rw [hcore, CoreState.counted]
    by_cases hclock : coreClocked s c = true
    · rw [if_pos hclock, if_pos ⟨hup, hclock⟩]
    · rw [if_neg hclock, if_neg fun h => hclock h.2]
  · have hoff : idleTick s = s := if_neg hup
    rw [hoff, if_neg hup]
    exact ⟨rfl, fun c => by rw [if_neg fun h => hup h.1], rfl⟩

/-! ### Reset -/

/-- Settles O3: the reset state lists no byte, no tag, no record, no job and no field entry. -/
theorem resetSound : Obligations.ResetSound :=
  ⟨⟨rfl, rfl, rfl⟩, ⟨by decide, by decide, by decide, by decide⟩, by decide, by decide⟩

end Sys2Proof.Machine
end

section
/-!
The kill of every job (R363, R378, R385, R406): each job that there was is killed, and memory stays.
-/
namespace Sys2Proof.Machine

/-! ### A job across kills -/

/-- A change of the job with one ID leaves the jobs with other IDs. -/
theorem findJob_modJob_other (s : State) {i j : BitVec 6} {f : Job → Job} (hf : ∀ x, (f x).id = x.id) (h : i ≠ j) :
    findJob (modJob s i f) j = findJob s j := by
  simp only [findJob, modJob, modReg, List.find?_map]
  have hid : (fun x => x.id == j) ∘ (fun x => if x.id = i then f x else x) = fun x : Job => x.id == j := by
    funext x
    by_cases hx : x.id = i <;> simp [hx, hf]
  rw [hid]
  cases hfind : s.reg.jobs.find? fun x => x.id == j with
  | none => rfl
  | some x =>
    have hx : x.id = j := by simpa using List.find?_some hfind
    simp [hx, Ne.symm h]

/-- The job with an ID is there and dead. -/
def State.Dead (s : State) (j : BitVec 6) : Prop := ∃ y, findJob s j = some y ∧ y.killed = true

section
variable (s : State) (i j : BitVec 6) (code op : BitVec 16) (unit : Nat × Nat × Nat) (q : Option SeqState)

/-- A kill of another job, or of a dead one, leaves the job. -/
theorem findJob_killJob_kept (h : i ≠ j ∨ s.Dead j) : findJob (killJob s i code op unit q) j = findJob s j := by
  cases hfind : findJob s i with
  | none =>
    unfold killJob
    rw [hfind]
  | some x =>
    cases hkilled : x.killed with
    | true =>
      unfold killJob
      simp only [hfind, hkilled, if_true]
      exact findJob_reg (writeRecord_jobs ..) j
    | false =>
      have hne : i ≠ j := by
        rintro rfl
        obtain ⟨y, hy, hdead⟩ := h.resolve_left fun hne => hne rfl
        rw [hfind, Option.some.injEq] at hy
        rw [← hy, hkilled] at hdead
        exact Bool.false_ne_true hdead
      obtain ⟨f, r, hf, hkill⟩ := killJob_eq hfind hkilled code op unit q
      rw [hkill, findJob_reg (writeRecord_jobs ..), findJob_reg (stopSnaps_jobs ..),
        findJob_modJob_other _ (fun x => (hf x).1) hne, findJob_reg (congrArg Registrar.jobs (fold_jobs ..))]

variable {s i j}

/-- A kill kills the job it names. -/
theorem State.Dead.of_killJob {x : Job} (h : findJob s j = some x) : (killJob s j code op unit q).Dead j := by
  cases hkilled : x.killed with
  | true =>
    have hdead : s.Dead j := ⟨x, h, hkilled⟩
    exact ⟨x, (findJob_killJob_kept s j j code op unit q (.inr hdead)).trans h, hkilled⟩
  | false =>
    obtain ⟨hold, hkill⟩ := findJob_killJob h hkilled code op unit q
    exact ⟨_, hkill, rfl⟩

theorem State.Dead.killJob (h : s.Dead j) : (killJob s i code op unit q).Dead j := by
  obtain ⟨x, hfind, hkilled⟩ := h
  exact ⟨x, (findJob_killJob_kept s i j code op unit q (.inr ⟨x, hfind, hkilled⟩)).trans hfind, hkilled⟩

/-- A kill takes no job away. -/
theorem isSome_findJob_killJob (h : (findJob s j).isSome = true) : (findJob (Machine.killJob s i code op unit q) j).isSome = true := by
  by_cases hij : i = j
  · subst hij
    obtain ⟨x, hx⟩ := Option.isSome_iff_exists.mp h
    obtain ⟨y, hy, -⟩ := State.Dead.of_killJob code op unit q hx
    simp [hy]
  · rwa [findJob_killJob_kept s i j code op unit q (.inl hij)]

end

/-! ### Every job -/

section
variable (code : BitVec 16) (unit : Nat × Nat × Nat)

/-- The kill of one of the jobs that a list names. -/
def killOne (s : State) (x : Job) : State := if x.killed then s else killJob s x.id code 0 unit none

theorem killOne_keeps {β : Type} (g : State → β) (hkill : ∀ s id, g (killJob s id code 0 unit none) = g s) (s : State) (x : Job) :
    g (killOne code unit s x) = g s := by
  unfold killOne
  split
  · rfl
  · exact hkill ..

theorem killAll_keeps {β : Type} (g : State → β) (hkill : ∀ s id, g (killJob s id code 0 unit none) = g s) (s : State) :
    g (killAll s code unit) = g s := foldl_field g (killOne_keeps code unit g hkill) _ _

variable {code unit}

theorem State.Dead.killOne {s : State} {j : BitVec 6} (h : s.Dead j) (x : Job) : (killOne code unit s x).Dead j := by
  unfold Machine.killOne
  split
  · exact h
  · exact h.killJob ..

theorem State.Dead.foldl_killOne {j : BitVec 6} : ∀ {l : List Job} {s : State}, s.Dead j → (l.foldl (Machine.killOne code unit) s).Dead j
  | [], _, h => h
  | x :: _, _, h => by
    rw [List.foldl_cons]
    exact State.Dead.foldl_killOne (h.killOne x)

/-- A job that a list names, dead already where the list marks it, is dead after the kills of the list. -/
theorem State.Dead.of_mem {x : Job} : ∀ {l : List Job} {s : State}, x ∈ l → (findJob s x.id).isSome = true →
    (x.killed = true → s.Dead x.id) → (l.foldl (Machine.killOne code unit) s).Dead x.id
  | [], _, hx, _, _ => absurd hx List.not_mem_nil
  | y :: l, s, hx, hthere, hmarked => by
    rw [List.foldl_cons]
    by_cases hxy : x = y
    · subst hxy
      refine State.Dead.foldl_killOne ?_
      unfold Machine.killOne
      split
      case isTrue hkilled => exact hmarked hkilled
      case isFalse =>
        obtain ⟨z, hz⟩ := Option.isSome_iff_exists.mp hthere
        exact State.Dead.of_killJob code 0 unit none hz
    · refine State.Dead.of_mem (List.mem_of_ne_of_mem hxy hx) ?_ fun h => (hmarked h).killOne y
      unfold Machine.killOne
      split
      · exact hthere
      · exact isSome_findJob_killJob code 0 unit none hthere

/-- Every job that there was is dead after the kill of all. -/
theorem dead_killAll {s : State} {j : BitVec 6} {x : Job} (h : findJob s j = some x) : (killAll s code unit).Dead j := by
  have hid := findJob_id h
  subst hid
  exact State.Dead.of_mem (List.mem_of_find?_eq_some h) (by simp [h]) fun hkilled => ⟨x, h, hkilled⟩

/-- What leaves the jobs leaves them dead. -/
theorem State.Dead.of_jobs {s t : State} {j : BitVec 6} (h : s.Dead j) (hjobs : t.reg.jobs = s.reg.jobs) : t.Dead j := by
  obtain ⟨x, hfind, hkilled⟩ := h
  exact ⟨x, (findJob_reg hjobs j).trans hfind, hkilled⟩

variable (code unit) in
theorem killAll_mem (s : State) : (killAll s code unit).mem = s.mem := killAll_keeps code unit (·.mem) (fun _ _ => killJob_mem ..) s

end

end Sys2Proof.Machine
end

section
/-!
The test access port and the end of a debug unlock (R406).
-/
namespace Sys2Proof.Machine

theorem exec_tapInstruction (i : TapInstruction) (s : State) : exec (.tapInstruction i) s = execTapInstruction i s := rfl

/-- The instructions of the test port that need RIGHTS bit 2 (R406). -/
def isInstrument (i : TapInstruction) : Prop := i = .extest ∨ i = .clamp ∨ i = .ieee1687 ∨ i = .ieee1500

section
variable {s : State} {i : TapInstruction}

theorem exec_tapInstruction_of_free
    (h : i = .bypass ∨ i = .idcode ∨ i = .samplePreload ∨ bit s.reg.dbgRights 2 = false ∨ s.reg.dbgUntil ≤ s.reg.time.toNat) :
    exec (.tapInstruction i) s = .next s := by
  rw [exec_tapInstruction, execTapInstruction.eq_def]
  obtain rfl | rfl | rfl | h | h := h
  · rfl
  · rfl
  · rfl
  · simp [h]
  · simp [h]

theorem exec_tapInstruction_of_used (h : s.reg.tapUsed = true) : exec (.tapInstruction i) s = .next s := by
  rw [exec_tapInstruction, execTapInstruction.eq_def]
  simp [h]

theorem exec_tapInstruction_first (hi : isInstrument i) (hright : bit s.reg.dbgRights 2 = true)
    (htime : s.reg.time.toNat < s.reg.dbgUntil) (hfirst : s.reg.tapUsed = false) :
    exec (.tapInstruction i) s = .next (modReg (killAll s 0 (13, 15, 0)) fun r => { r with tapUsed := true }) := by
  rw [exec_tapInstruction, execTapInstruction.eq_def]
  obtain rfl | rfl | rfl | rfl := hi <;> simp [hright, htime, hfirst]

end

/-- The end of an unlock makes a reset due where an instrument was used (R406). -/
theorem endUnlock_resetDue (s : State) : (endUnlock s).reg.resetDue = (s.reg.tapUsed || s.reg.resetDue) := by
  have houtside : OutsideHolds (·.reg.resetDue) := outsideHolds_reg (·.resetDue) (fun _ _ => rfl) fun _ _ => rfl
  unfold endUnlock
  rw [houtside.noted]
  cases s.reg.tapUsed with
  | true => rfl
  | false => exact houtside.settleHolds _

/-- Settles O58: each instruction by whether it may change anything, the kill by the jobs it leaves dead, each end of the unlock as
`endUnlock`. -/
theorem testPort : Obligations.TestPort := by
  intro s
  refine ⟨fun i => ⟨exec_tapInstruction_of_free, fun hi hright htime => ⟨fun hfirst => ?_, exec_tapInstruction_of_used⟩⟩,
    fun hset hover => ?_, fun k hrun hend => ?_⟩
  · exact ⟨_, exec_tapInstruction_first hi hright htime hfirst, rfl, killAll_mem .., fun j x hj => dead_killAll hj⟩
  · exact ⟨_, exec_debugUnlockExpire_of_over hset hover, endUnlock_resetDue s⟩
  · exact ⟨_, exec_debugUnlock_of_end hrun hend, endUnlock_resetDue s⟩

end Sys2Proof.Machine
end

section
/-!
Clocks (R357, R358, R363 to R371): the reference, frequency changes, margin codes, stretches, limits and ageing.
-/
namespace Sys2Proof.Machine

/-! ### The loss of a core -/

/-- What the loss of a core leaves: whatever neither the core, nor Lacing, nor a note, nor the kill of its job changes. -/
theorem loseCore_keeps {β : Type} (g : State → β) (c : CoreId) (hcore : ∀ s f, g (modCore s c f) = g s)
    (hlacing : ∀ s f, g (modLacing s f) = g s) (hnoted : ∀ s, g (noted s) = g s)
    (hkill : ∀ s id code op unit q, g (killJob s id code op unit q) = g s) (s : State) : g (loseCore s c) = g s := by
  have hforward : ∀ s, g (forwardOnly s c) = g s := fun s => by
    unfold forwardOnly
    dsimp only
    split
    · rfl
    · exact hlacing s fun x => { x with nodes := vset x.nodes (routerOf s c) 1 }
  unfold loseCore
  split
  · rfl
  · dsimp only
    split
    · exact (hkill ..).trans ((hnoted _).trans ((hlacing _ fun _ => _).trans ((hforward _).trans (hcore ..))))
    · exact (hnoted _).trans ((hlacing _ fun _ => _).trans ((hforward _).trans (hcore ..)))

theorem loseCore_mem (s : State) (c : CoreId) : (loseCore s c).mem = s.mem :=
  loseCore_keeps (·.mem) c (fun _ _ => rfl) (fun _ _ => rfl) noted_mem killJob_mem s

/-- A core marked LOST, for whatever neither its entry in the condition report nor its loss changes. -/
theorem markLost_keeps {β : Type} (g : State → β) (c : CoreId) (hlose : ∀ s, g (loseCore s c) = g s)
    (hrecord : ∀ s r, g (writeRecord s r) = g s) (hflash : ∀ s f, g (modFlash s f) = g s) (s : State) (reason : BitVec 8) :
    g (markLost s c reason) = g s := by
  unfold markLost
  split
  · rfl
  · exact (hlose _).trans (condAppend_keeps g hrecord hflash ..)

theorem markLost_mem (s : State) (c : CoreId) (reason : BitVec 8) : (markLost s c reason).mem = s.mem :=
  markLost_keeps (·.mem) c (loseCore_mem · c) writeRecord_mem modFlash_mem s reason

theorem markLost_power (s : State) (c : CoreId) (reason : BitVec 8) : (markLost s c reason).power = s.power :=
  markLost_keeps (·.power) c (loseCore_power · c) writeRecord_power modFlash_power s reason

theorem lost_markLost (s : State) (c : CoreId) (reason : BitVec 8) : (getCore (markLost s c reason) c).st = .lost := by
  unfold markLost
  split
  case isTrue hlost => exact hlost
  case isFalse => exact (loseCore_st ..).1

/-! ### The instructions -/

section
variable (s : State) (r : Fin 15) (code : BitVec 6) (path : BitVec 5)

theorem exec_refLoss : exec .refLoss s = execRefLoss s := rfl
theorem exec_refReturn : exec .refReturn s = execRefReturn s := rfl
theorem exec_holdoverExpire : exec .holdoverExpire s = execHoldoverExpire s := rfl
theorem exec_freqChangeStart : exec (.freqChangeStart r) s = execFreqChangeStart r s := rfl
theorem exec_freqChangeRestart : exec (.freqChangeRestart r) s = execFreqChangeRestart r s := rfl
theorem exec_marginWarn : exec (.marginWarn r code path) s = execMarginWarn r code path s := rfl
theorem exec_periodStretch : exec (.periodStretch r code path) s = execPeriodStretch r code path s := rfl
theorem exec_stretchLimitExceeded (n : BitVec 32) : exec (.stretchLimitExceeded r n) s = execStretchLimitExceeded r n s := rfl
theorem exec_marginLimitRaise : exec (.marginLimitRaise r) s = execMarginLimitRaise r s := rfl
theorem exec_vfAgeStep (c : CoreId) (k : Fin 16) : exec (.vfAgeStep c k) s = execVfAgeStep c k s := rfl

end

/-! ### The reference (R363) -/

section
variable {s : State}

/-- The state in holdover, its loss of the reference counted (R363). -/
def heldOver (s : State) : State :=
  { s with clock := { s.clock with refOk := false, lock := false, holdover := true, losses := satAdd s.clock.losses 1 } }

theorem exec_refLoss_of_held (h : s.clock.holdover = true ∨ (vget s.power.doms 25).state ≠ 1) : exec .refLoss s = .next s := by
  rw [exec_refLoss, execRefLoss, if_pos (by simpa using h)]

theorem exec_refLoss_of_locked (hlocked : s.clock.holdover = false) (hup : (vget s.power.doms 25).state = 1) :
    exec .refLoss s = .next (clockRecord (heldOver s) 14 2 0) := by
  rw [exec_refLoss, execRefLoss, if_neg (by simp [hlocked, hup])]
  rfl

theorem exec_refReturn_of_held (h : s.clock.holdover = true) :
    exec .refReturn s = .next { s with clock := { s.clock with refOk := true, lock := true, holdover := false } } := by
  rw [exec_refReturn, execRefReturn, if_pos h]

theorem exec_refReturn_of_locked (h : s.clock.holdover = false) : exec .refReturn s = .next s := by
  rw [exec_refReturn, execRefReturn, if_neg (Bool.eq_false_iff.mp h)]

theorem exec_holdoverExpire_of_locked (h : s.clock.holdover = false) : exec .holdoverExpire s = .next s := by
  rw [exec_holdoverExpire, execHoldoverExpire, if_neg (by simp [h])]

theorem exec_holdoverExpire_of_held (hheld : s.clock.holdover = true) (hlive : s.reg.devState ≠ 3) :
    exec .holdoverExpire s = .next (clockRecord (failDevice (killAll s 0 (12, 15, 14 * 256 + 0xFF))) 14 3 0) := by
  rw [exec_holdoverExpire, execHoldoverExpire, if_pos (by simpa [hheld] using hlive)]

end

section
variable (s : State) (r : Fin 15) (sev : BitVec 8) (n : Nat)

@[simp] theorem clockRecord_clock : (clockRecord s r sev n).clock = s.clock := writeRecord_clock ..
@[simp] theorem clockRecord_cores : (clockRecord s r sev n).cores = s.cores := writeRecord_cores ..
@[simp] theorem clockRecord_mem : (clockRecord s r sev n).mem = s.mem := writeRecord_mem ..

theorem clockRecord_keeps_reg {β : Type} (g : Registrar → β)
    (hg : ∀ r a b c d e, g { r with errNext := a, ring := b, errLost := c, journal := d, invGen := e } = g r) :
    g (clockRecord s r sev n).reg = g s.reg := writeRecord_keeps_reg g hg ..

theorem failDevice_devState : (failDevice s).reg.devState = 3 := noted_keeps_reg (·.devState) (fun _ _ => rfl) _

theorem failDevice_jobs : (failDevice s).reg.jobs = s.reg.jobs := noted_jobs _

theorem failDevice_mem : (failDevice s).mem = s.mem := noted_mem _

end

/-! ### One clock region -/

/-- Of t, the clock regions other than r, the cores and memory are those of s. -/
def OnlyRegion (r : Fin 15) (s t : State) : Prop :=
  (∀ q, q ≠ r → vget t.clock.regions q = vget s.clock.regions q) ∧ t.cores = s.cores ∧ t.mem = s.mem

section
variable {r : Fin 15} {s t : State}

/-- A state that has the clock block, the cores and the memory of one with another region r only. -/
theorem OnlyRegion.of_same {u : State} (h : OnlyRegion r s t) (hclock : u.clock = t.clock) (hcores : u.cores = t.cores)
    (hmem : u.mem = t.mem) : OnlyRegion r s u := by
  obtain ⟨hregions, hc, hm⟩ := h
  exact ⟨fun q hq => by rw [hclock, hregions q hq], hcores.trans hc, hmem.trans hm⟩

theorem OnlyRegion.refl : OnlyRegion r s s := ⟨fun _ _ => rfl, rfl, rfl⟩

theorem OnlyRegion.modRegion (h : OnlyRegion r s t) (f : ClockRegion → ClockRegion) : OnlyRegion r s (modRegion t r f) := by
  obtain ⟨hregions, hc, hm⟩ := h
  exact ⟨fun q hq => (vget_vmod_other _ f (Ne.symm hq)).trans (hregions q hq), hc, hm⟩

theorem OnlyRegion.clockRecord (h : OnlyRegion r s t) (q : Fin 15) (sev : BitVec 8) (n : Nat) :
    OnlyRegion r s (clockRecord t q sev n) := h.of_same (clockRecord_clock ..) (clockRecord_cores ..) (clockRecord_mem ..)

theorem OnlyRegion.noted (h : OnlyRegion r s t) : OnlyRegion r s (noted t) :=
  h.of_same (noted_clock _) (noted_cores _) (noted_mem _)

end

section
variable (s : State) (r : Fin 15) (f : ClockRegion → ClockRegion)

@[simp] theorem region_modRegion : vget (modRegion s r f).clock.regions r = f (vget s.clock.regions r) := vget_vmod_same ..

@[simp] theorem region_noted : vget (noted s).clock.regions r = vget s.clock.regions r := by rw [noted_clock]

end

/-! ### Frequency changes (R365, R366) -/

/-- The raise of a core's frequency is announced (R356). -/
def raiseAnnounced (s : State) (r : Fin 15) : State :=
  if r.val < 12 ∧ (vget s.clock.regions r).cur.toNat < targetMhz s r then announceActivity s (coreOf r.val) true else s

/-- The announcement of a raise changes the power block and takes a free value. -/
theorem raiseAnnounced_keeps {β : Type} (g : State → β) (hpower : ∀ s f, g (modPower s f) = g s)
    (hfree : ∀ s, g (takeFree s).2 = g s) (s : State) (r : Fin 15) : g (raiseAnnounced s r) = g s := by
  unfold raiseAnnounced
  split
  · unfold announceActivity announce
    exact (hpower ..).trans (hfree s)
  · rfl

section
variable {s : State} {r : Fin 15}

theorem exec_freqChangeStart_of_held (h : mayChange s r = false) : exec (.freqChangeStart r) s = .next s := by
  rw [exec_freqChangeStart, execFreqChangeStart, if_neg (Bool.eq_false_iff.mp h)]

theorem exec_freqChangeStart_of_free (h : mayChange s r = true) :
    exec (.freqChangeStart r) s = .next (modRegion (raiseAnnounced s r) r fun k => { k with
      stopped := true, goal := BitVec.ofNat 11 (targetMhz s r), changedAt := some s.reg.time.toNat }) := by
  have htime := raiseAnnounced_keeps (·.reg.time) (fun _ _ => rfl) (fun _ => rfl) s r
  rw [exec_freqChangeStart, execFreqChangeStart, if_pos h, ← htime]
  rfl

theorem exec_freqChangeRestart_of_running (h : (vget s.clock.regions r).stopped = false) :
    exec (.freqChangeRestart r) s = .next s := by
  rw [exec_freqChangeRestart, execFreqChangeRestart, if_neg (Bool.eq_false_iff.mp h)]

theorem exec_freqChangeRestart_of_stopped (h : (vget s.clock.regions r).stopped = true) :
    exec (.freqChangeRestart r) s =
      .next (noted (modRegion s r fun k => { k with stopped := false, cur := k.goal, changes := k.changes + 1 })) := by
  rw [exec_freqChangeRestart, execFreqChangeRestart, if_pos h]

end

/-! ### Margin codes and stretches (R367 to R370) -/

/-- A region after a code below WARN (R368). -/
def warned (s : State) (r : Fin 15) (code : BitVec 6) (path : BitVec 5) : State :=
  modRegion (noteCode s r code path) r fun k => { k with warnNew := true }

/-- A region's minute after a record begins anew (R368). -/
def warnRecorded (s : State) (r : Fin 15) : State :=
  if longSince s (60 * 10 ^ 9) (vget s.clock.regions r).warnAt then
    modRegion (clockRecord s r 1 (stretchesMs s r)) r fun k => { k with warnAt := some s.reg.time.toNat }
  else s

/-- The region of state u with one stretch more, of e picoseconds, at the time of s (R369, R370). -/
def stretched (s u : State) (r : Fin 15) (e : Nat) : State :=
  modRegion u r fun k => { k with
    str := satAdd k.str 1, strPs := satAdd k.strPs e
    strTimes := s.reg.time.toNat :: recentTimes s (10 ^ 6) k.strTimes }

section
variable {s : State} {r : Fin 15} {code : BitVec 6} {path : BitVec 5}

theorem exec_marginWarn_of_above (h : pathCount r ≤ path.toNat ∨ s.clock.warn ≤ code) :
    exec (.marginWarn r code path) s = .next s := by
  rw [exec_marginWarn, execMarginWarn, if_pos (by simpa using h)]

theorem exec_marginWarn_of_below (hpath : path.toNat < pathCount r) (hcode : code < s.clock.warn) :
    exec (.marginWarn r code path) s = .next (warnRecorded (warned s r code path) r) := by
  rw [exec_marginWarn, execMarginWarn, if_neg (by simpa using ⟨hpath, hcode⟩)]
  rfl

theorem exec_periodStretch_of_none
    (h : (vget s.clock.regions r).stopped = true ∨ pathCount r ≤ path.toNat ∨ s.clock.stretch < code) :
    exec (.periodStretch r code path) s = .next s := by
  rw [exec_periodStretch, execPeriodStretch, if_pos (by simpa [or_assoc] using h)]

/-- The stretch of a code takes a free value at most; for codes 0 to 3 it is a part of the period (R369). -/
theorem stretchPs_cases (s : State) (r : Fin 15) (code : BitVec 6) : ∃ e u, stretchPs s r code = (e, u) ∧
    (u = s ∨ u = (takeFree s).2) ∧
    (code.toNat ≤ 3 → e = 10 ^ 6 / max 1 (vget s.clock.regions r).cur.toNat * (4 - code.toNat) / 8) := by
  unfold stretchPs
  dsimp only
  split
  · exact ⟨_, _, rfl, .inl rfl, fun _ => rfl⟩
  case isFalse h => exact ⟨_, _, rfl, .inr rfl, fun h' => absurd h' h⟩

theorem exec_periodStretch_of_counted (hpath : path.toNat < pathCount r) (hruns : (vget s.clock.regions r).stopped = false)
    (hcode : code ≤ s.clock.stretch) : exec (.periodStretch r code path) s =
      .next (bumpGen (stretched s (stretchPs (noteCode s r code path) r code).2 r (stretchPs (noteCode s r code path) r code).1)) := by
  have htaken : (vget s.clock.regions r).stopped = false ∧ path.toNat < pathCount r ∧ code ≤ s.clock.stretch := ⟨hruns, hpath, hcode⟩
  rw [exec_periodStretch, execPeriodStretch, if_neg (by simpa [and_assoc] using htaken)]
  rfl

end

section
variable (s : State) (r : Fin 15) (code : BitVec 6) (path : BitVec 5)

theorem OnlyRegion.warnRecorded {t : State} (h : OnlyRegion r s t) : OnlyRegion r s (warnRecorded t r) := by
  unfold Machine.warnRecorded
  split
  · exact (h.clockRecord ..).modRegion _
  · exact h

/-- A record's minute is all that a region has anew with its record (R368). -/
theorem region_warnRecorded : ∃ t, vget (warnRecorded s r).clock.regions r = { vget s.clock.regions r with warnAt := t } := by
  unfold warnRecorded
  split
  · exact ⟨_, (region_modRegion ..).trans (by rw [clockRecord_clock])⟩
  · exact ⟨_, rfl⟩

end

/-! ### The margin limit (R371) -/

section
variable {s : State} {r : Fin 15} {n : BitVec 32}

/-- The margin limit lowered by 50 MHz, not below the floor (R371). -/
def marginLowered (s : State) (r : Fin 15) : State :=
  modRegion s r fun k => { k with
    margin := BitVec.ofNat 11 (max (floorMhz s r) (min (vget s.clock.regions r).margin.toNat (topMhz s r) - 50))
    marginAt := some s.reg.time.toNat }

theorem exec_stretchLimitExceeded_of_below (h : n.toNat ≤ s.clock.strLim.toNat ∨ 14 ≤ r.val) :
    exec (.stretchLimitExceeded r n) s = .next s := by
  rw [exec_stretchLimitExceeded, execStretchLimitExceeded, if_pos (by simpa using h)]

theorem exec_stretchLimitExceeded_of_over (hover : s.clock.strLim.toNat < n.toNat) (hr : r.val < 14) :
    exec (.stretchLimitExceeded r n) s = .next (clockRecord (marginLowered s r) r 1 n.toNat) := by
  have hboth : s.clock.strLim.toNat < n.toNat ∧ r.val < 14 := ⟨hover, hr⟩
  rw [exec_stretchLimitExceeded, execStretchLimitExceeded, if_neg (by simpa using hboth)]
  rfl

theorem exec_marginLimitRaise_of_rest
    (h : (vget s.clock.regions r).margin = noLimit ∨ longSince s (10 * 10 ^ 9) (vget s.clock.regions r).marginAt = false) :
    exec (.marginLimitRaise r) s = .next s := by
  rw [exec_marginLimitRaise, execMarginLimitRaise]
  exact congrArg Host.Outcome.next (if_pos (by simpa using h))

theorem exec_marginLimitRaise_of_due (hlimit : (vget s.clock.regions r).margin ≠ noLimit)
    (hlong : longSince s (10 * 10 ^ 9) (vget s.clock.regions r).marginAt = true) :
    exec (.marginLimitRaise r) s = .next (modRegion s r fun k => { k with
      margin := if topMhz s r ≤ k.margin.toNat + 50 then noLimit else k.margin + 50
      marginAt := some s.reg.time.toNat }) := by
  have hboth : (vget s.clock.regions r).margin ≠ noLimit ∧ longSince s (10 * 10 ^ 9) (vget s.clock.regions r).marginAt = true :=
    ⟨hlimit, hlong⟩
  rw [exec_marginLimitRaise, execMarginLimitRaise]
  exact congrArg Host.Outcome.next (if_neg (by simpa using hboth))

end

/-! ### Ageing (R357, R358) -/

section
variable {s : State} {c : CoreId} {k : Fin 16} {p : CorePower} {x : VfPoint}

/-- A point of a core's table with 5 mV more (R358). -/
def aged (s : State) (c : CoreId) (k : Fin 16) (x : VfPoint) : State :=
  condAppend (modCorePower s c fun p => { p with vf := vmod p.vf k fun x => { x with ageMv := x.ageMv + 5 } })
    (unitWord 0 c.val 0) 0x08 6 (BitVec.ofNat 16 (k.val + 16 * (x.ageMv.toNat + 5))) 0

/-- A core's present Fmax lowered to f and its table rebuilt (R357, R358). -/
def fmaxLowered (s : State) (c : CoreId) (f : Nat) : State :=
  noted (condAppend (modCorePower s c fun p => rebuildVf p f) (unitWord 0 c.val 0) 0x09 6 (BitVec.ofNat 16 f) 0)

theorem fmaxLowered_power (s : State) (c : CoreId) (f : Nat) :
    (fmaxLowered s c f).power = (modCorePower s c fun p => rebuildVf p f).power :=
  (noted_power _).trans (condAppend_keeps (·.power) writeRecord_power modFlash_power ..)

theorem fmaxLowered_mem (s : State) (c : CoreId) (f : Nat) : (fmaxLowered s c f).mem = s.mem :=
  (noted_mem _).trans (condAppend_mem ..)

theorem fmaxLowered_cores (s : State) (c : CoreId) (f : Nat) : (fmaxLowered s c f).cores = s.cores :=
  (noted_cores _).trans (condAppend_cores ..)

theorem exec_vfAgeStep_of_none (hp : p = vget s.power.cores c) (hx : x = vget p.vf k)
    (h : x.valid = false ∨ (getCore s c).st = .lost) : exec (.vfAgeStep c k) s = .next s := by
  subst hp hx
  rw [exec_vfAgeStep, execVfAgeStep]
  exact congrArg Host.Outcome.next (if_pos (by simpa using h))

section
variable (hp : p = vget s.power.cores c) (hx : x = vget p.vf k) (hvalid : x.valid = true) (hst : (getCore s c).st ≠ .lost)
include hp hx hvalid hst

theorem exec_vfAgeStep_of_high (hhigh : 900 < x.fused.toNat + x.ageMv.toNat + 5 + x.offMv.toNat) :
    exec (.vfAgeStep c k) s = .next (if p.fmax.toNat - 50 < 1000 then markLost (fmaxLowered s c (p.fmax.toNat - 50)) c 6
      else fmaxLowered s c (p.fmax.toNat - 50)) := by
  subst hp hx
  rw [exec_vfAgeStep, execVfAgeStep]
  exact congrArg Host.Outcome.next ((if_neg (by simp [hvalid, hst])).trans (if_pos hhigh))

theorem exec_vfAgeStep_of_low (hlow : x.fused.toNat + x.ageMv.toNat + 5 + x.offMv.toNat ≤ 900) :
    exec (.vfAgeStep c k) s = .next (if 50 ≤ x.ageMv.toNat then s else aged s c k x) := by
  subst hp hx
  rw [exec_vfAgeStep, execVfAgeStep]
  exact congrArg Host.Outcome.next ((if_neg (by simp [hvalid, hst])).trans (if_neg (Nat.not_lt.mpr hlow)))

end

/-- The frequencies of a rebuilt table: 16 points from 600 MHz to the new Fmax (R357). -/
theorem mhz_rebuildVf (p : CorePower) (f : Nat) (n : Fin 16) :
    (vget (rebuildVf p f).vf n).mhz = BitVec.ofNat 11 (600 + (f - 600) * n.val / 15) := by
  have hpoint := vget_foldl_each (fun (k : Fin 16) (_ : VfPoint) =>
    { pointFor p (600 + (f - 600) * k.val / 15) with mhz := BitVec.ofNat 11 (600 + (f - 600) * k.val / 15) }) n p.vf
  exact congrArg VfPoint.mhz hpoint

end

/-- Settles O56: each event by the equation of its branch, and what the states those equations name leave. -/
theorem clocksChange : Obligations.ClocksChange := by
  intro s
  refine ⟨exec_refLoss_of_held, fun hlocked hup => ?loss, exec_refReturn_of_held,
    fun h => ⟨exec_refReturn_of_locked h, exec_holdoverExpire_of_locked h⟩, fun hheld hlive => ?expire, fun r => ?region,
    fun c k p x hp hx => ⟨exec_vfAgeStep_of_none hp hx, fun hvalid hst => ⟨fun hlow => ?low, fun hhigh => ?high⟩⟩⟩
  case loss =>
    refine ⟨_, exec_refLoss_of_locked hlocked hup, ?_⟩
    rw [clockRecord_clock, clockRecord_cores, clockRecord_mem]
    exact ⟨rfl, rfl, rfl⟩
  case expire =>
    refine ⟨_, exec_holdoverExpire_of_held hheld hlive, ?_, ?_, fun j x hj => ?_⟩
    · exact (clockRecord_keeps_reg _ 14 3 0 (·.devState) fun _ _ _ _ _ _ => rfl).trans (failDevice_devState _)
    · rw [clockRecord_mem, failDevice_mem, killAll_mem]
    · exact ((dead_killAll hj).of_jobs (failDevice_jobs _)).of_jobs (writeRecord_jobs ..)
  case region =>
    refine ⟨exec_freqChangeStart_of_held, fun hmay => ?start, exec_freqChangeRestart_of_running, fun hstopped => ?restart,
      fun code path => ⟨fun hpath => ⟨exec_marginWarn_of_above (.inl hpath), exec_periodStretch_of_none (.inr (.inl hpath))⟩,
        fun hcode => exec_marginWarn_of_above (.inr hcode), fun hpath hcode => ?warn,
        fun h => exec_periodStretch_of_none (h.imp_right .inr), fun hpath hruns hcode => ?stretch⟩,
      fun n => ⟨exec_stretchLimitExceeded_of_below, fun hover hr => ?limit⟩,
      exec_marginLimitRaise_of_rest, exec_marginLimitRaise_of_due⟩
    case start =>
      have hsame : ∀ {β : Type} (g : State → β), (∀ s f, g (modPower s f) = g s) → (∀ s, g (takeFree s).2 = g s) →
        g (raiseAnnounced s r) = g s := fun g hpower hfree => raiseAnnounced_keeps g hpower hfree s r
      have hclock := hsame (·.clock) modPower_clock fun _ => rfl
      have honly : OnlyRegion r s (raiseAnnounced s r) :=
        OnlyRegion.refl.of_same hclock (hsame (·.cores) modPower_cores fun _ => rfl) (hsame (·.mem) modPower_mem fun _ => rfl)
      refine ⟨_, exec_freqChangeStart_of_free hmay, ?_, honly.modRegion _⟩
      rw [region_modRegion, hclock]
    case restart =>
      exact ⟨_, exec_freqChangeRestart_of_stopped hstopped, (region_noted ..).trans (region_modRegion ..),
        (OnlyRegion.refl.modRegion _).noted⟩
    case warn =>
      obtain ⟨t, hregion⟩ := region_warnRecorded (warned s r code path) r
      rw [warned, noteCode, region_modRegion, region_modRegion] at hregion
      refine ⟨_, exec_marginWarn_of_below hpath hcode, ?_, ?_, ?_,
        OnlyRegion.warnRecorded s r ((OnlyRegion.refl.modRegion _).modRegion _)⟩
      · exact congrArg ClockRegion.warnNew hregion
      · exact congrArg ClockRegion.low hregion
      · exact congrArg ClockRegion.path hregion
    case stretch =>
      obtain ⟨e, u, hps, hu, he⟩ := stretchPs_cases (noteCode s r code path) r code
      have hclock : u.clock = (noteCode s r code path).clock := by
        obtain rfl | rfl := hu <;> rfl
      have hnoted : OnlyRegion r s (noteCode s r code path) := OnlyRegion.refl.modRegion _
      have honly : OnlyRegion r s u := by
        obtain rfl | rfl := hu
        · exact hnoted
        · exact hnoted.of_same rfl rfl rfl
      have hnote : vget (noteCode s r code path).clock.regions r = _ := region_modRegion ..
      refine ⟨_, exec_periodStretch_of_counted hpath hruns hcode, ?_, fun hcode' => ?_, ?_⟩
      · rw [hps]
        refine (congrArg ClockRegion.str (region_modRegion ..)).trans ?_
        rw [hclock, hnote]
      · rw [hps]
        refine (congrArg ClockRegion.strPs (region_modRegion ..)).trans ?_
        rw [hclock, he hcode', hnote]
      · rw [hps]
        exact (honly.modRegion _).of_same rfl rfl rfl
    case limit =>
      obtain ⟨-, hcores, hmem⟩ : OnlyRegion r s (clockRecord (marginLowered s r) r 1 n.toNat) :=
        (OnlyRegion.refl.modRegion _).clockRecord ..
      refine ⟨_, exec_stretchLimitExceeded_of_over hover hr, ?_, hcores, hmem⟩
      rw [clockRecord_clock, marginLowered, region_modRegion]
  case low =>
    rw [exec_vfAgeStep_of_low hp hx hvalid hst hlow]
    refine ⟨fun hage => by rw [if_pos hage], fun hage => ⟨_, congrArg Host.Outcome.next (if_neg (Nat.not_le.mpr hage)), ?_, ?_, ?_⟩⟩
    · have hpower : (aged s c k x).power = _ := condAppend_keeps (·.power) writeRecord_power modFlash_power ..
      rw [hpower, hp]
      exact vget_vmod_same ..
    · exact condAppend_cores ..
    · exact condAppend_mem ..
  case high =>
    have hpower : ∀ f, vget (fmaxLowered s c f).power.cores c = rebuildVf p f := fun f => by
      rw [fmaxLowered_power, hp]
      exact vget_vmod_same ..
    refine ⟨_, exec_vfAgeStep_of_high hp hx hvalid hst hhigh, ?_⟩
    split
    case isTrue hlost =>
      rw [markLost_mem, fmaxLowered_mem, markLost_power, hpower]
      exact ⟨rfl, rfl, mhz_rebuildVf p _, fun _ => lost_markLost .., fun h => absurd hlost (Nat.not_lt.mpr h)⟩
    case isFalse hkept =>
      rw [fmaxLowered_mem, hpower]
      exact ⟨rfl, rfl, mhz_rebuildVf p _, fun h => absurd h hkept, fun _ => fmaxLowered_cores ..⟩

end Sys2Proof.Machine
end

section
/-!
Temperature (R372 to R378): a reading, a region's judgement, the thermal trip, throttling and its release.
-/
namespace Sys2Proof.Machine

/-! ### The instructions -/

section
variable (s : State)

theorem exec_sensorSample (r : Fin 15) (i : Fin 16) (q : BitVec 16) (apart : Bool) :
    exec (.sensorSample r i q apart) s = execSensorSample r i q apart s := rfl
theorem exec_thermalCheck : exec .thermalCheck s = execThermalCheck s := rfl
theorem exec_thermalRelease : exec .thermalRelease s = execThermalRelease s := rfl

end

section
variable (s : State) (r : Fin 15) (i : Nat) (sev : BitVec 8)

@[simp] theorem thermalRecord_thermal : (thermalRecord s r i sev).thermal = s.thermal := writeRecord_thermal ..
@[simp] theorem thermalRecord_power : (thermalRecord s r i sev).power = s.power := writeRecord_power ..
@[simp] theorem thermalRecord_clock : (thermalRecord s r i sev).clock = s.clock := writeRecord_clock ..
@[simp] theorem thermalRecord_cores : (thermalRecord s r i sev).cores = s.cores := writeRecord_cores ..
@[simp] theorem thermalRecord_mem : (thermalRecord s r i sev).mem = s.mem := writeRecord_mem ..

end

section
variable (s : State) (r : Fin 15) (f : ThermRegion → ThermRegion)

theorem therm_modTherm : vget (modTherm s r f).thermal.regions r = f (vget s.thermal.regions r) := vget_vmod_same ..

end

/-! ### The hottest reading of a region (R372) -/

/-- The highest of some temperatures, or one given where there is none. -/
def highestOf (d : BitVec 16) : List (BitVec 16) → BitVec 16
  | [] => d
  | y :: t => t.foldl (fun m z => if m.toInt < z.toInt then z else m) y

/-- What a region's temperature takes of a sensor: its reading, and whether it counts. -/
def Sensor.reading (y : Sensor) : BitVec 16 × Bool := (y.tempQ, y.bad)

theorem hottestReading_eq (r : Fin 15) (x : ThermRegion) : hottestReading r x =
    highestOf x.tempQ ((((x.sensors.toList.map Sensor.reading).take (sensorCount r)).filter fun y => !y.2).map (·.1)) := by
  rw [← List.map_take, List.filter_map, List.map_map]
  unfold hottestReading
  change _ = highestOf x.tempQ (((x.sensors.toList.take (sensorCount r)).filter fun y => !y.bad).map Sensor.tempQ)
  cases (x.sensors.toList.take (sensorCount r)).filter fun y => !y.bad with
  | nil => rfl
  | cons y t => exact (List.foldl_map (f := Sensor.tempQ) (g := fun m z => if m.toInt < z.toInt then z else m)).symm

/-- A change of a sensor that leaves its reading leaves what the region reads. -/
theorem hottestReading_vmod (r : Fin 15) (x : ThermRegion) (i : Fin 16) {f : Sensor → Sensor} (hf : ∀ y, (f y).reading = y.reading) :
    hottestReading r { x with sensors := vmod x.sensors i f } = hottestReading r x := by
  have hreadings : (vmod x.sensors i f).toList.map Sensor.reading = x.sensors.toList.map Sensor.reading := by
    rw [← Vector.toList_map, ← Vector.toList_map]
    congr 1
    apply Vector.ext
    intro j hj
    by_cases h : i.val = j
    · subst h
      simp [vmod, vset, vget, hf]
    · simp [vmod, vset, h]
  rw [hottestReading_eq, hottestReading_eq, hreadings]

/-! ### The failed sensors of a region (R373) -/

/-- The elements of a list that satisfy p once one has been replaced by such an element. -/
theorem length_filter_set {α : Type} (p : α → Bool) {y : α} (hy : p y = true) : ∀ (l : List α) (i k : Nat),
    ((l.set i y).filter p).length = ((l.zipIdx k).filter fun x => p x.1 || x.2 == i + k).length
  | [], _, _ => rfl
  | a :: l, 0, k => by
    have hrest : ((l.zipIdx (k + 1)).filter fun x => p x.1 || x.2 == 0 + k) = (l.zipIdx (k + 1)).filter fun x => p x.1 := by
      refine List.filter_congr fun x hx => ?_
      have hle := List.le_snd_of_mem_zipIdx hx
      have hne : (x.2 == 0 + k) = false := by
        rw [beq_eq_false_iff_ne]
        omega
      rw [hne, Bool.or_false]
    have hcount : ((l.zipIdx (k + 1)).filter fun x => p x.1).length = (l.filter p).length := by
      conv_rhs => rw [← List.zipIdx_map_fst (k + 1) l]
      rw [List.filter_map, List.length_map]
      rfl
    rw [List.set_cons_zero, List.zipIdx_cons, List.filter_cons_of_pos hy, List.filter_cons_of_pos (by simp), hrest]
    simp [hcount]
  | a :: l, i + 1, k => by
    have hrest := length_filter_set p hy l i (k + 1)
    have hindex : i + (k + 1) = i + 1 + k := by omega
    have hne : (k == i + 1 + k) = false := by
      rw [beq_eq_false_iff_ne]
      omega
    rw [hindex] at hrest
    rw [List.set_cons_succ, List.zipIdx_cons]
    cases ha : p a with
    | true => rw [List.filter_cons_of_pos ha, List.filter_cons_of_pos (by simp [ha]), List.length_cons, hrest, List.length_cons]
    | false => rw [List.filter_cons_of_neg (by simp [ha]), List.filter_cons_of_neg (by simp [ha, hne]), hrest]

/-- The failed sensors of a region in which a sensor has come to fail. -/
theorem failedSensors_of_bad {s t : State} {r : Fin 15} {i : Fin 16} {y : Sensor} (hy : y.bad = true)
    (h : (vget t.thermal.regions r).sensors = vset (vget s.thermal.regions r).sensors i y) :
    failedSensors t r = failedWith s r i.val := by
  unfold failedSensors failedWith
  rw [h, vset, Vector.toList_set, List.take_set]
  exact length_filter_set Sensor.bad hy _ i.val 0

/-! ### A reading -/

section
variable (s : State) (r : Fin 15) (i : Fin 16)

/-- A sensor of a region changed. -/
def modSensor (f : Sensor → Sensor) : State := modTherm s r fun x => { x with sensors := vmod x.sensors i f }

theorem therm_modSensor (f : Sensor → Sensor) : vget (modSensor s r i f).thermal.regions r =
    { vget s.thermal.regions r with sensors := vmod (vget s.thermal.regions r).sensors i f } := therm_modTherm ..

/-- The temperature of a sensor kept (R372). -/
def readingKept (q : BitVec 16) : State := modSensor s r i fun y => { y with tempQ := q }

/-- A sensor that fails where it had not, by a reading out of range or apart from its region's mean (R373). -/
def judgeSensor (q : BitVec 16) (apart : Bool) : State :=
  if (decide (q.toInt < -160) || decide (600 < q.toInt) || apart) && !(vget (vget s.thermal.regions r).sensors i).failed then
    failSensor (readingKept s r i q) r i
  else readingKept s r i q

/-- The readings in a row at or above 115 °C of a working sensor of state u, of which there were m (R378). -/
def tripCount (u : State) (q : BitVec 16) (m : Nat) : Nat :=
  if (vget (vget u.thermal.regions r).sensors i).bad || decide (q.toInt < 460) then 0 else m + 1

/-- The region judged anew once the count of the sensor stands (R372, R374, R375, R377). -/
def rejudged (u : State) (n : Nat) (was : BitVec 16) : State :=
  bumpGen (judgeRegion (retakeTemp (modSensor u r i fun y => { y with trips := n }) r) r was)

variable {s r i} in
theorem exec_sensorSample_of_missing (h : sensorCount r ≤ i.val) (q : BitVec 16) (apart : Bool) :
    exec (.sensorSample r i q apart) s = .next s := by
  rw [exec_sensorSample, execSensorSample, if_pos h]

variable {s r i} in
theorem exec_sensorSample_of_present (h : i.val < sensorCount r) (q : BitVec 16) (apart : Bool) {u t : State} {n : Nat}
    (hu : u = judgeSensor s r i q apart) (hn : n = tripCount r i u q (vget (vget s.thermal.regions r).sensors i).trips)
    (ht : t = rejudged r i u n (vget s.thermal.regions r).tempQ) :
    exec (.sensorSample r i q apart) s = .next (if 2 ≤ n ∧ !t.thermal.tripped then thermalTrip t r i.val else t) := by
  subst hu hn ht
  rw [exec_sensorSample, execSensorSample, if_neg (Nat.not_le.mpr h)]
  rfl

end

/-! ### The judgement of a region -/

/-- Since when a region has been cool, and whether its critical step lasts (R375, R377). -/
def coolSince (s : State) (r : Fin 15) : State :=
  modTherm s r fun x => { x with
    below := if decide ((vget s.thermal.regions r).tempQ.toInt < (s.thermal.throttleQ.toNat : Int) - s.thermal.hystQ.toNat) then
      some (x.below.getD s.reg.time.toNat) else none
    crit := x.crit && decide ((s.thermal.throttleQ.toNat : Int) ≤ (vget s.thermal.regions r).tempQ.toInt) }

/-- The management region's warning in state u, for the region as it was in s (R374). -/
def managementWarned (s u : State) (r : Fin 15) (was : BitVec 16) : State :=
  if r = 14 ∧ (s.thermal.throttleQ.toNat : Int) ≤ (vget s.thermal.regions r).tempQ.toInt ∧
      was.toInt < (s.thermal.throttleQ.toNat : Int) then
    thermalRecord u r (hotSensor (vget s.thermal.regions r) r) 1
  else u

/-- A region at its floor in its critical step (R377). -/
def floored (u : State) (r : Fin 15) : State :=
  modTherm u r fun x => { x with
    crit := true, lim := if r = 14 then x.lim else BitVec.ofNat 11 (floorMhz u r)
    steps := if r = 14 then x.steps else satAdd x.steps 1, lowered := some u.reg.time.toNat }

/-- The critical step of state u, where the region as it was in s, not yet critical, reads 110 °C or more (R377). -/
def criticalStep (s u : State) (r : Fin 15) : State :=
  if 440 ≤ (vget s.thermal.regions r).tempQ.toInt ∧ !(vget s.thermal.regions r).crit then
    thermalRecord (noted (floored u r)) r (hotSensor (vget s.thermal.regions r) r) 2
  else u

theorem judgeRegion_eq (s : State) (r : Fin 15) (was : BitVec 16) :
    judgeRegion s r was = criticalStep s (managementWarned s (coolSince s r) r was) r := rfl

section
variable {β : Type} (g : State → β) (hrecord : ∀ s r, g (writeRecord s r) = g s) (s u : State) (r : Fin 15) (was : BitVec 16)
include hrecord

theorem managementWarned_keeps : g (managementWarned s u r was) = g u := by
  unfold managementWarned
  split
  · exact hrecord ..
  · rfl

/-- A view that a judgement of a region leaves: no thermal region, no record and no note shows. -/
theorem judgeRegion_keeps (htherm : ∀ s r f, g (modTherm s r f) = g s) (hnoted : ∀ s, g (noted s) = g s) :
    g (judgeRegion s r was) = g s := by
  have hwarned : g (managementWarned s (coolSince s r) r was) = g s := (managementWarned_keeps g hrecord ..).trans (htherm ..)
  rw [judgeRegion_eq, criticalStep]
  split
  · exact (hrecord ..).trans ((hnoted _).trans ((htherm ..).trans hwarned))
  · exact hwarned

end

/-- The floor of a region is told by the VF tables and the rated clocks. -/
theorem floorMhz_congr {s t : State} (hpower : t.power = s.power) (hclock : t.clock = s.clock) (r : Fin 15) :
    floorMhz t r = floorMhz s r := by
  rw [floorMhz, floorMhz, hpower, hclock]

/-- A region is judged by the temperature it reads, its sensors as they are; at or above 110 °C, where not yet critical, it is
critical and at its floor (R377). -/
theorem region_judgeRegion (s : State) (r : Fin 15) (was : BitVec 16) {x : ThermRegion} (hx : x = vget s.thermal.regions r) :
    ∃ y, vget (judgeRegion s r was).thermal.regions r = y ∧ y.tempQ = x.tempQ ∧ y.sensors = x.sensors ∧
      (440 ≤ x.tempQ.toInt → x.crit = false → y.crit = true ∧ (r ≠ 14 → y.lim = BitVec.ofNat 11 (floorMhz s r))) := by
  subst hx
  have hthermal := managementWarned_keeps (·.thermal) writeRecord_thermal s (coolSince s r) r was
  have hfloor : floorMhz (managementWarned s (coolSince s r) r was) r = floorMhz s r :=
    floorMhz_congr (managementWarned_keeps (·.power) writeRecord_power ..) (managementWarned_keeps (·.clock) writeRecord_clock ..) r
  have hcool : vget (managementWarned s (coolSince s r) r was).thermal.regions r = _ :=
    (congrArg (fun w => vget w.regions r) hthermal).trans (therm_modTherm ..)
  rw [judgeRegion_eq, criticalStep]
  split
  case isTrue =>
    refine ⟨_, rfl, ?_⟩
    rw [thermalRecord_thermal, noted_thermal, floored, therm_modTherm, hcool, hfloor]
    exact ⟨rfl, rfl, fun _ _ => ⟨rfl, fun hr => if_neg hr⟩⟩
  case isFalse hcold =>
    refine ⟨_, hcool, rfl, rfl, fun hhot hcrit => absurd ⟨hhot, ?_⟩ hcold⟩
    rw [hcrit]
    rfl

/-! ### The thermal trip (R378) -/

theorem outsideUnits_thermal : OutsideUnits (·.thermal) :=
  ⟨⟨modCore_thermal, modLacing_thermal, modTiers_thermal, fun _ _ _ => rfl⟩, fun _ _ _ => rfl, modEyes_thermal, modPcie_thermal⟩

/-- A power-down, for a view in which neither units, nor domains, nor notes show. -/
theorem powerDown_keeps {β : Type} {g : State → β} (hunits : OutsideUnits g) (hdom : ∀ s d f, g (modDom s d f) = g s)
    (hnoted : ∀ s, g (noted s) = g s) (s : State) (keep : List (Fin 30)) : g (powerDown s keep) = g s := by
  refine foldl_field g (fun s d => ?_) _ _
  split
  · rfl
  · exact (hnoted _).trans ((hdom ..).trans (hunits.domainGone s d))

/-- The device as a thermal trip kills and fails it and writes its record (R378). -/
def tripFailed (s : State) (r : Fin 15) (i : Nat) : State :=
  thermalRecord (failDevice (killAll s 0 (12, regionCore r, r.val * 256 + i))) r i 3

/-- A domain that a trip does not keep is latched. -/
def tripLatch (keep : List (Fin 30)) (d : Fin 30) (x : PowerDomain) : PowerDomain :=
  if keep.contains d then x else { x with latched := true }

section
variable (s : State) (r : Fin 15) (i : Nat)

theorem thermalTrip_eq : ∃ f, thermalTrip s r i = { modPower (assertPwrFault (powerDown (tripFailed s r i) (tripKeeps r))) f with
      thermal := { (powerDown (tripFailed s r i) (tripKeeps r)).thermal with tripped := true } } ∧
    ∀ w : Power, (f w).pwrFault = w.pwrFault ∧ ∀ d, vget (f w).doms d = tripLatch (tripKeeps r) d (vget w.doms d) := by
  refine ⟨_, rfl, fun w => ⟨rfl, fun d => ?_⟩⟩
  have hlatch : (fun (v : Vector PowerDomain 30) d => if (tripKeeps r).contains d then v
      else vmod v d fun x => { x with latched := true }) = fun v d => vmod v d (tripLatch (tripKeeps r) d) := by
    funext v d
    unfold tripLatch
    split
    · exact (vmod_id v d).symm
    · rfl
  dsimp only
  rw [hlatch]
  exact vget_foldl_each (tripLatch (tripKeeps r)) d w.doms

/-- What a trip leaves of the thermal regions, and the mark it leaves. -/
theorem thermalTrip_thermal : (thermalTrip s r i).thermal = { s.thermal with tripped := true } := by
  obtain ⟨f, heq, -⟩ := thermalTrip_eq s r i
  have hthermal : (powerDown (tripFailed s r i) (tripKeeps r)).thermal = s.thermal :=
    (powerDown_keeps outsideUnits_thermal (fun _ _ _ => rfl) noted_thermal ..).trans
      ((thermalRecord_thermal ..).trans ((noted_thermal _).trans (killAll_keeps _ _ (·.thermal) (fun _ _ => killJob_thermal ..) s)))
  rw [heq]
  exact congrArg (fun w : Thermal => { w with tripped := true }) hthermal

/-- The Registrar after a trip, but for its records and INV_GEN. -/
theorem thermalTrip_keeps_reg {β : Type} (g : Registrar → β)
    (hg : ∀ r a b c d e, g { r with errNext := a, ring := b, errLost := c, journal := d, invGen := e } = g r) :
    g (thermalTrip s r i).reg = g (failDevice (killAll s 0 (12, regionCore r, r.val * 256 + i))).reg := by
  obtain ⟨f, heq, -⟩ := thermalTrip_eq s r i
  have hreg : OutsideUnits fun s => g s.reg :=
    ⟨⟨fun _ _ _ => rfl, fun _ _ => rfl, fun _ _ => rfl, fun _ _ _ => rfl⟩, fun _ _ _ => rfl, fun _ _ => rfl, fun _ _ => rfl⟩
  have hnoted : ∀ s, g (noted s).reg = g s.reg := noted_keeps_reg g fun r n => hg r r.errNext r.ring r.errLost r.journal n
  have hdown : g (powerDown (tripFailed s r i) (tripKeeps r)).reg = g (tripFailed s r i).reg :=
    powerDown_keeps hreg (fun _ _ _ => rfl) hnoted ..
  have hfailed : g (tripFailed s r i).reg = g (failDevice (killAll s 0 (12, regionCore r, r.val * 256 + i))).reg :=
    writeRecord_keeps_reg g hg ..
  rw [heq]
  exact hdown.trans hfailed

theorem thermalTrip_devState : (thermalTrip s r i).reg.devState = 3 :=
  (thermalTrip_keeps_reg s r i (·.devState) fun _ _ _ _ _ _ => rfl).trans (failDevice_devState _)

/-- A trip kills every job that there was (R378). -/
theorem dead_thermalTrip {j : BitVec 6} {x : Job} (h : findJob s j = some x) : (thermalTrip s r i).Dead j :=
  (dead_killAll h).of_jobs ((thermalTrip_keeps_reg s r i (·.jobs) fun _ _ _ _ _ _ => rfl).trans (failDevice_jobs _))

theorem thermalTrip_pwrFault : (thermalTrip s r i).power.pwrFault = true := by
  obtain ⟨f, heq, hf⟩ := thermalTrip_eq s r i
  rw [heq]
  exact (hf _).1

/-- A domain that a trip does not keep is off and latched (R378). -/
theorem dom_thermalTrip {d : Fin 30} (hd : (tripKeeps r).contains d = false) :
    (vget (thermalTrip s r i).power.doms d).latched = true ∧
      ((vget (thermalTrip s r i).power.doms d).state = 0 ∨ (vget (thermalTrip s r i).power.doms d).state = 3) := by
  obtain ⟨f, heq, hf⟩ := thermalTrip_eq s r i
  obtain ⟨v, hpower, hdoms⟩ := powerDown_power (tripFailed s r i) (tripKeeps r)
  have hkept : d ∉ tripKeeps r := by simpa using hd
  have hdom : vget (thermalTrip s r i).power.doms d =
      { (vget (tripFailed s r i).power.doms d).switchedOff with latched := true } := by
    rw [heq]
    refine ((hf _).2 d).trans ?_
    rw [tripLatch, if_neg (Bool.eq_false_iff.mp hd), assertPwrFault]
    dsimp only
    rw [hpower, hdoms, if_neg hkept]
  have hstate := PowerDomain.state_switchedOff (vget (tripFailed s r i).power.doms d)
  rw [hdom]
  exact ⟨rfl, hstate⟩

end

/-! ### The readings that trip, and those that fail their sensor -/

section
variable (s u : State) (r : Fin 15) (i : Fin 16) (n : Nat) (was : BitVec 16)

/-- A judgement after a reading, for a view in which no thermal region, no record and no note shows. -/
theorem rejudged_keeps {β : Type} (g : State → β) (htherm : ∀ s r f, g (modTherm s r f) = g s)
    (hrecord : ∀ s r, g (writeRecord s r) = g s) (hnoted : ∀ s, g (noted s) = g s) (hgen : ∀ s, g (bumpGen s) = g s) :
    g (rejudged r i u n was) = g u :=
  (hgen _).trans ((judgeRegion_keeps g hrecord _ r was htherm hnoted).trans ((htherm ..).trans (htherm ..)))

theorem tripped_rejudged : (rejudged r i u n was).thermal.tripped = u.thermal.tripped := by
  have htherm : ∀ s r f, (modTherm s r f).thermal.tripped = s.thermal.tripped := fun _ _ _ => rfl
  exact rejudged_keeps u r i n was (·.thermal.tripped) htherm (fun s r => by rw [writeRecord_thermal])
    (fun s => by rw [noted_thermal]) fun _ => rfl

/-- The sensors and the temperature of a region that is judged anew. -/
theorem region_rejudged : ∃ y, vget (rejudged r i u n was).thermal.regions r = y ∧
    y.tempQ = hottestReading r (vget u.thermal.regions r) ∧
    y.sensors = vmod (vget u.thermal.regions r).sensors i (fun y => { y with trips := n }) ∧
    (440 ≤ y.tempQ.toInt → (vget u.thermal.regions r).crit = false →
      y.crit = true ∧ (r ≠ 14 → y.lim = BitVec.ofNat 11 (floorMhz u r))) := by
  have hretaken : vget (retakeTemp (modSensor u r i fun y => { y with trips := n }) r).thermal.regions r = _ :=
    (therm_modTherm ..).trans (by rw [therm_modSensor])
  obtain ⟨y, hy, htemp, hsensors, hcrit⟩ := region_judgeRegion _ r was hretaken.symm
  have hhot : y.tempQ = hottestReading r (vget u.thermal.regions r) :=
    htemp.trans (hottestReading_vmod r _ i fun _ => rfl)
  have hfloor : floorMhz (retakeTemp (modSensor u r i fun y => { y with trips := n }) r) r = floorMhz u r := floorMhz_congr rfl rfl r
  rw [hfloor, ← htemp] at hcrit
  exact ⟨y, hy, hhot, hsensors, hcrit⟩

variable {s u r i n}

/-- A reading in range and not apart from its region's mean leaves its sensor working or failed as it was (R373). -/
theorem judgeSensor_of_plain {q : BitVec 16} (hlo : -160 ≤ q.toInt) (hhi : q.toInt ≤ 600) :
    judgeSensor s r i q false = readingKept s r i q := by
  refine if_neg ?_
  simp [Int.not_lt.mpr hlo, Int.not_lt.mpr hhi]

/-- A reading out of range, or apart from its region's mean, fails a sensor that had not failed (R373). -/
theorem judgeSensor_of_wrong {q : BitVec 16} {apart : Bool} (h : q.toInt < -160 ∨ 600 < q.toInt ∨ apart = true)
    (hfailed : (vget (vget s.thermal.regions r).sensors i).failed = false) :
    judgeSensor s r i q apart = failSensor (readingKept s r i q) r i := by
  refine if_pos ?_
  simpa [hfailed, or_assoc] using h

/-! #### A sensor that fails -/

theorem failSensor_thermal (s : State) (r : Fin 15) (i : Fin 16) :
    (failSensor s r i).thermal = (modSensor s r i fun y => { y with failed := true }).thermal := by
  have hreported : ∀ s, (sensorFailed s r i.val).thermal = s.thermal := fun _ =>
    condAppend_keeps (·.thermal) writeRecord_thermal modFlash_thermal ..
  have hlost : ∀ s c x, (markLost s c x).thermal = s.thermal := fun s c x =>
    markLost_keeps (·.thermal) c (loseCore_keeps (·.thermal) c (fun _ _ => rfl) (fun _ _ => rfl) noted_thermal killJob_thermal)
      writeRecord_thermal modFlash_thermal s x
  unfold failSensor
  split
  · rfl
  · dsimp only
    split
    · exact (hlost ..).trans (hreported _)
    · exact hreported _

theorem failSensor_mem (s : State) (r : Fin 15) (i : Fin 16) : (failSensor s r i).mem = s.mem := by
  unfold failSensor
  split
  · rfl
  · dsimp only
    split
    · exact (markLost_mem ..).trans (condAppend_mem ..)
    · exact condAppend_mem ..

/-- A core with more than eight failed sensors is LOST; u differs from s in what the sensor that fails reads (R373). -/
theorem lost_failSensor {s u : State} {r : Fin 15} {i : Fin 16} {f : Sensor → Sensor} (hr : r.val < 12)
    (hu : (vget u.thermal.regions r).sensors = vmod (vget s.thermal.regions r).sensors i f)
    (hwork : (vget (vget u.thermal.regions r).sensors i).bad = false) (hmany : 8 < failedWith s r i.val) :
    (getCore (failSensor u r i) (coreOf r.val)).st = .lost := by
  have hthermal : (sensorFailed (modSensor u r i fun y => { y with failed := true }) r i.val).thermal =
      (modSensor u r i fun y => { y with failed := true }).thermal :=
    condAppend_keeps (·.thermal) writeRecord_thermal modFlash_thermal ..
  have hcount : failedSensors (sensorFailed (modSensor u r i fun y => { y with failed := true }) r i.val) r = failedWith s r i.val := by
    refine failedSensors_of_bad (y := { f (vget (vget s.thermal.regions r).sensors i) with failed := true }) rfl ?_
    rw [hthermal, therm_modSensor, hu, vmod_vmod]
    rfl
  have hlost : failSensor u r i = markLost (sensorFailed (modSensor u r i fun y => { y with failed := true }) r i.val) (coreOf r.val) 11 :=
    (if_neg (Bool.eq_false_iff.mp hwork)).trans (if_pos ⟨hr, hcount ▸ hmany⟩)
  rw [hlost]
  exact lost_markLost ..

end

section
variable {s : State} {r : Fin 15} {i : Fin 16} {q : BitVec 16}

/-- A region after a plain reading, before it may trip. -/
def plainRead (s : State) (r : Fin 15) (i : Fin 16) (q : BitVec 16) : State :=
  rejudged r i (readingKept s r i q) (tripCount r i (readingKept s r i q) q (vget (vget s.thermal.regions r).sensors i).trips)
    (vget s.thermal.regions r).tempQ

/-- The readings in a row at or above 115 °C with a plain one (R378). -/
theorem tripCount_readingKept (s : State) (r : Fin 15) (i : Fin 16) (q : BitVec 16) (m : Nat) :
    tripCount r i (readingKept s r i q) q m =
      if (vget (vget s.thermal.regions r).sensors i).bad || decide (q.toInt < 460) then 0 else m + 1 := by
  have hbad : (vget (vget (readingKept s r i q).thermal.regions r).sensors i).bad = (vget (vget s.thermal.regions r).sensors i).bad := by
    rw [readingKept, therm_modSensor, vget_vmod_same]
    rfl
  rw [tripCount, hbad]

theorem exec_sensorSample_of_plain (hi : i.val < sensorCount r) (hlo : -160 ≤ q.toInt) (hhi : q.toInt ≤ 600) :
    exec (.sensorSample r i q false) s = .next (
      if 2 ≤ tripCount r i (readingKept s r i q) q (vget (vget s.thermal.regions r).sensors i).trips ∧ !s.thermal.tripped then
        thermalTrip (plainRead s r i q) r i.val
      else plainRead s r i q) := by
  have hexec := exec_sensorSample_of_present (s := s) hi q false (judgeSensor_of_plain hlo hhi).symm rfl rfl
  rw [tripped_rejudged] at hexec
  exact hexec

theorem plainRead_keeps {β : Type} (g : State → β) (htherm : ∀ s r f, g (modTherm s r f) = g s)
    (hrecord : ∀ s r, g (writeRecord s r) = g s) (hnoted : ∀ s, g (noted s) = g s) (hgen : ∀ s, g (bumpGen s) = g s) :
    g (plainRead s r i q) = g s := (rejudged_keeps _ r i _ _ g htherm hrecord hnoted hgen).trans (htherm ..)

/-- A region after a plain reading: the reading kept, the hottest reading its temperature, critical where that is due (R372, R377). -/
theorem region_plainRead (s : State) (r : Fin 15) (i : Fin 16) (q : BitVec 16) :
    ∃ y, vget (plainRead s r i q).thermal.regions r = y ∧
      y.tempQ = hottestReading r { vget s.thermal.regions r with
        sensors := vmod (vget s.thermal.regions r).sensors i fun y => { y with tempQ := q } } ∧
      (vget y.sensors i).tempQ = q ∧
      (440 ≤ y.tempQ.toInt → (vget s.thermal.regions r).crit = false →
        y.crit = true ∧ (r ≠ 14 → y.lim = BitVec.ofNat 11 (floorMhz s r))) := by
  obtain ⟨y, hy, htemp, hsensors, hcrit⟩ := region_rejudged (readingKept s r i q) r i
    (tripCount r i (readingKept s r i q) q (vget (vget s.thermal.regions r).sensors i).trips) (vget s.thermal.regions r).tempQ
  have hfloor : floorMhz (readingKept s r i q) r = floorMhz s r := floorMhz_congr rfl rfl r
  rw [readingKept, therm_modSensor] at htemp hsensors
  rw [hfloor, readingKept, therm_modSensor] at hcrit
  refine ⟨y, hy, htemp, ?_, hcrit⟩
  rw [hsensors, vget_vmod_same, vget_vmod_same]

/-- A trip leaves the thermal regions. -/
theorem regions_ite_thermalTrip (p : Prop) [Decidable p] (t : State) (r : Fin 15) (i : Nat) :
    (if p then thermalTrip t r i else t).thermal.regions = t.thermal.regions := by
  split
  · rw [thermalTrip_thermal]
  · rfl

/-- A reading that fails its sensor does not trip (R373, R378). -/
theorem exec_sensorSample_of_wrong {apart : Bool} (hi : i.val < sensorCount r)
    (h : q.toInt < -160 ∨ 600 < q.toInt ∨ apart = true) (hfailed : (vget (vget s.thermal.regions r).sensors i).failed = false) :
    exec (.sensorSample r i q apart) s = .next (rejudged r i (failSensor (readingKept s r i q) r i) 0 (vget s.thermal.regions r).tempQ) := by
  have hzero : 0 = tripCount r i (failSensor (readingKept s r i q) r i) q (vget (vget s.thermal.regions r).sensors i).trips := by
    rw [tripCount, failSensor_thermal, therm_modSensor, vget_vmod_same]
    rfl
  rw [exec_sensorSample_of_present hi q apart (judgeSensor_of_wrong h hfailed).symm hzero rfl, if_neg fun h => by omega]

end

/-! ### Throttling (R374, R375) -/

/-- The index that a measure ranks highest among those that a predicate names. -/
theorem bestOf_filter_allFin {n : Nat} (f : Fin n → Nat) {p : Fin n → Bool} (h : ∃ r, p r = true) :
    ∃ r, bestOf f ((allFin n).filter p) = some r ∧ p r = true ∧ ∀ q, p q = true → f q ≤ f r := by
  obtain ⟨d, hd⟩ := h
  have hmem : ∀ q, p q = true → q ∈ (allFin n).filter p := fun q hq => List.mem_filter.mpr ⟨List.mem_finRange q, hq⟩
  obtain ⟨r, hbest, hr, hmax⟩ := bestOf_of_ne_nil f (List.ne_nil_of_mem (hmem d hd))
  exact ⟨r, hbest, (List.mem_filter.mp hr).2, fun q hq => hmax q (hmem q hq)⟩

theorem filter_allFin_of_none {n : Nat} {p : Fin n → Bool} (h : ∀ r, p r = false) : (allFin n).filter p = [] :=
  List.filter_eq_nil_iff.mpr fun r _ => by simp [h r]

/-- The temperature that throttling sees, counted from the lowest that a sensor can read. -/
def throttleRank (s : State) (r : Fin 15) : Nat := (throttleTemp s r + 2 ^ 15).toNat

theorem throttleRank_le_iff (s : State) (q r : Fin 15) : throttleRank s q ≤ throttleRank s r ↔ throttleTemp s q ≤ throttleTemp s r := by
  have hlow : ∀ r, -2 ^ 15 ≤ throttleTemp s r := fun r => by
    have hread : -2 ^ 15 ≤ (vget s.thermal.regions r).tempQ.toInt := BitVec.le_toInt _
    unfold throttleTemp
    dsimp only
    split
    · exact hread.trans (le_max_left ..)
    · exact hread
  have hq := hlow q
  have hr := hlow r
  unfold throttleRank
  omega

theorem hottestOf_eq_bestOf (s : State) : ∀ l, hottestOf s l = bestOf (throttleRank s) l
  | [] => rfl
  | r :: l => by
    have hstep : (fun b q => if throttleTemp s b < throttleTemp s q then q else b) =
        fun b q => if throttleRank s b < throttleRank s q then q else b := by
      funext b q
      have hiff := throttleRank_le_iff s q b
      rw [if_congr (by rw [← not_le, ← hiff, not_le]) rfl rfl]
    rw [hottestOf, bestOf, hstep]

section
variable (s : State) (r : Fin 15)

/-- A region's thermal limit lowered by 50 MHz, not below its floor (R374). -/
def throttled : State := modTherm s r fun x => { x with
  lim := BitVec.ofNat 11 (max (floorMhz s r) (min (vget s.thermal.regions r).lim.toNat (topMhz s r) - 50))
  steps := satAdd x.steps 1, lowered := some s.reg.time.toNat }

/-- The first step of a throttle is recorded (R374). -/
def throttleRecorded : State :=
  if (vget s.thermal.regions r).lim = noLimit then thermalRecord (throttled s r) r (hotSensor (vget s.thermal.regions r) r) 1
  else throttled s r

theorem throttleRecorded_keeps {β : Type} (g : State → β) (hrecord : ∀ s r, g (writeRecord s r) = g s) :
    g (throttleRecorded s r) = g (throttled s r) := by
  unfold throttleRecorded
  split
  · exact hrecord ..
  · rfl

/-- A region's thermal limit raised by 50 MHz, gone at the top (R375). -/
def releasedRegion : State :=
  { modTherm s r fun x => { x with lim := if topMhz s r ≤ x.lim.toNat + 50 then noLimit else x.lim + 50 } with
    thermal := { (modTherm s r fun x => { x with
      lim := if topMhz s r ≤ x.lim.toNat + 50 then noLimit else x.lim + 50 }).thermal with raisedAt := some s.reg.time.toNat } }

theorem exec_thermalCheck_eq : exec .thermalCheck s =
    .next ((bestOf (throttleRank s) ((allFin 15).filter (mayThrottle s))).elim s (throttleRecorded s)) := by
  rw [exec_thermalCheck, execThermalCheck, hottestOf_eq_bestOf]
  cases bestOf (throttleRank s) ((allFin 15).filter (mayThrottle s)) <;> rfl

variable {s} in
theorem exec_thermalRelease_of_recent (h : longSince s (10 ^ 6) s.thermal.raisedAt = false) : exec .thermalRelease s = .next s := by
  rw [exec_thermalRelease, execThermalRelease, if_pos (by rw [h]; rfl)]

variable {s} in
theorem exec_thermalRelease_of_long (h : longSince s (10 ^ 6) s.thermal.raisedAt = true) : exec .thermalRelease s =
    .next ((bestOf (fun r => topMhz s r - (vget s.thermal.regions r).lim.toNat) ((allFin 15).filter (mayRelease s))).elim s
      (releasedRegion s)) := by
  rw [exec_thermalRelease, execThermalRelease, if_neg (by rw [h]; exact Bool.false_ne_true)]
  cases bestOf (fun r => topMhz s r - (vget s.thermal.regions r).lim.toNat) ((allFin 15).filter (mayRelease s)) <;> rfl

end

/-- Settles O57: a reading by what it does to its sensor, its region's judgement and the trip; throttling and release by the region
that ranks highest. -/
theorem sensorsThrottle : Obligations.SensorsThrottle := by
  intro s
  refine ⟨?reading, fun hnone => ?_, fun hsome => ?throttle, fun h => ?_, fun hlong hsome => ?release⟩
  case reading =>
    rintro r i q apart x o hx ho
    refine ⟨fun hmissing => exec_sensorSample_of_missing hmissing q apart, fun hi hlo hhi hapart => ?plain,
      fun hi hwrong hfailed => ?wrong⟩
    case plain =>
      subst hx ho hapart
      obtain ⟨y, hy, htemp, hread, hcrit⟩ := region_plainRead s r i q
      have hexec := exec_sensorSample_of_plain (s := s) hi hlo hhi
      rw [tripCount_readingKept] at hexec
      refine ⟨_, _, hexec, rfl, ?_⟩
      rw [regions_ite_thermalTrip, hy, ← htemp]
      refine ⟨rfl, hread, hcrit, fun hcold => ?_, fun hhot hwork huntripped hsecond => ?_⟩
      · have hrest : ¬(2 ≤ (if (vget (vget s.thermal.regions r).sensors i).bad || decide (q.toInt < 460) then 0
            else (vget (vget s.thermal.regions r).sensors i).trips + 1) ∧ (!s.thermal.tripped) = true) := by
          rintro ⟨hcount, huntripped⟩
          obtain hlow | hbad | htripped | hfirst := hcold
          · simp [hlow] at hcount
          · simp [hbad] at hcount
          · simp [htripped] at huntripped
          · rw [hfirst] at hcount
            split at hcount <;> omega
        rw [if_neg hrest]
        exact ⟨plainRead_keeps (·.cores) (fun _ _ _ => rfl) writeRecord_cores noted_cores bumpGen_cores,
          plainRead_keeps (·.mem) (fun _ _ _ => rfl) writeRecord_mem noted_mem bumpGen_mem,
          plainRead_keeps (·.power.doms) (fun _ _ _ => rfl) (fun _ _ => by rw [writeRecord_power]) (fun _ => by rw [noted_power]) fun _ => rfl⟩
      · have hjobs : (plainRead s r i q).reg.jobs = s.reg.jobs :=
          plainRead_keeps (·.reg.jobs) (fun _ _ _ => rfl) writeRecord_jobs noted_jobs fun _ => rfl
        rw [if_pos (by simp [hwork, huntripped, Int.not_lt.mpr hhot, hsecond])]
        refine ⟨thermalTrip_devState .., thermalTrip_pwrFault .., ?_,
          fun j y hj => dead_thermalTrip _ r i.val ((findJob_reg hjobs j).trans hj), fun d hd => dom_thermalTrip _ r i.val hd⟩
        rw [thermalTrip_thermal]
    case wrong =>
      subst hx ho
      have hu : (vget (failSensor (readingKept s r i q) r i).thermal.regions r).sensors =
          vmod (vget (readingKept s r i q).thermal.regions r).sensors i fun y => { y with failed := true } := by
        rw [failSensor_thermal, therm_modSensor]
      obtain ⟨y, hy, -, hsensors, -⟩ := region_rejudged (failSensor (readingKept s r i q) r i) r i 0 (vget s.thermal.regions r).tempQ
      refine ⟨_, exec_sensorSample_of_wrong hi hwrong hfailed, ?_, ?_, fun hr hable hmany => ?_⟩
      · rw [hy, hsensors, hu, vget_vmod_same, vget_vmod_same]
      · exact (rejudged_keeps _ r i 0 _ (·.mem) (fun _ _ _ => rfl) writeRecord_mem noted_mem bumpGen_mem).trans (failSensor_mem ..)
      · rw [getCore_cores (rejudged_keeps _ r i 0 _ (·.cores) (fun _ _ _ => rfl) writeRecord_cores noted_cores bumpGen_cores)]
        refine lost_failSensor (f := fun y => { y with tempQ := q }) hr (congrArg ThermRegion.sensors (therm_modSensor ..)) ?_ hmany
        rw [readingKept, therm_modSensor, vget_vmod_same, Sensor.bad, hfailed, hable]
        rfl
  · rw [exec_thermalCheck_eq, filter_allFin_of_none hnone]
    rfl
  case throttle =>
    obtain ⟨r, hbest, hmay, hmax⟩ := bestOf_filter_allFin (throttleRank s) hsome
    have hregion : vget (throttled s r).thermal.regions r = _ := therm_modTherm ..
    have hthermal := throttleRecorded_keeps s r (·.thermal) writeRecord_thermal
    have hexec : exec .thermalCheck s = .next (throttleRecorded s r) := by
      rw [exec_thermalCheck_eq, hbest]
      rfl
    refine ⟨_, r, hexec, hmay, fun q hq => (throttleRank_le_iff ..).mp (hmax q hq), ?_⟩
    rw [hthermal, hregion, throttleRecorded_keeps s r (·.cores) writeRecord_cores, throttleRecorded_keeps s r (·.mem) writeRecord_mem]
    exact ⟨rfl, rfl, fun q hq => vget_vmod_other _ _ (Ne.symm hq), rfl, rfl⟩
  · obtain hrecent | hnone := h
    · exact exec_thermalRelease_of_recent hrecent
    · cases hlong : longSince s (10 ^ 6) s.thermal.raisedAt with
      | false => exact exec_thermalRelease_of_recent hlong
      | true =>
        rw [exec_thermalRelease_of_long hlong, filter_allFin_of_none hnone]
        rfl
  case release =>
    obtain ⟨r, hbest, hmay, hmax⟩ := bestOf_filter_allFin (fun r => topMhz s r - (vget s.thermal.regions r).lim.toNat) hsome
    have hexec : exec .thermalRelease s = .next (releasedRegion s r) := by
      rw [exec_thermalRelease_of_long hlong, hbest]
      rfl
    exact ⟨_, r, hexec, hmay, hmax, vget_vmod_same ..,
      fun q hq => vget_vmod_other _ _ (Ne.symm hq), rfl, rfl⟩

end Sys2Proof.Machine
end

section
/-!
Self-tests, SUSPECT engines, Registrar cores and health scores (R403, R404, R409, R410, R413 to R415).
-/
namespace Sys2Proof.Machine

/-! ### The instructions -/

section
variable (s : State)

theorem exec_selftest (k : Fin 16) (r : TestOutcome) : exec (.selftest k r) s = execSelftest k r s := rfl
theorem exec_suspectEngineTest (c : CoreId) (e : Fin 7) (p : Bool) :
    exec (.suspectEngineTest c e p) s = execSuspectEngineTest c e p s := rfl
theorem exec_registrarCoreFail (n : Fin 4) : exec (.registrarCoreFail n) s = execRegistrarCoreFail n s := rfl
theorem exec_healthScoreUpdate : exec .healthScoreUpdate s = execHealthScoreUpdate s := rfl

end

/-! ### The loss of a core without a job -/

section
variable {s : State} {c d : CoreId}

/-- The loss of a core that holds no job leaves the other cores. -/
theorem getCore_loseCore_other (hjob : (getCore s c).jobId = 0) (h : d ≠ c) : getCore (loseCore s c) d = getCore s d := by
  unfold loseCore
  split
  · rfl
  · extract_lets s1 forwarded lacing rewritten t
    have hcores : t.cores = (modCore s c fun k => { k with st := .lost, fenced := true, seqRun := 0 }).cores :=
      (noted_cores _).trans (forwardOnly_cores ..)
    have hnone : jobOn t c = none := by
      rw [jobOn, getCore_cores hcores, getCore_modCore_same, if_pos hjob]
    rw [hnone]
    exact (getCore_cores hcores d).trans (getCore_modCore_other _ _ (Ne.symm h))

theorem getCore_markLost_other (hjob : (getCore s c).jobId = 0) (h : d ≠ c) (reason : BitVec 8) :
    getCore (markLost s c reason) d = getCore s d := by
  unfold markLost
  split
  · rfl
  · have hcores := condAppend_cores s (unitWord 0 c.val 0) 0x01 reason 0 0
    rw [getCore_loseCore_other (by rw [getCore_cores hcores, hjob]) h, getCore_cores hcores]

end

/-! ### SELFTEST (R403, R404) -/

section
variable {s : State} {k : Fin 16} {m : Mailbox} {r : TestOutcome}

/-- A self-test at its end: what it found is handled in t, and it answers with progress 1000 (R404). -/
def testEnded (s t : State) (k : Fin 16) (r : TestOutcome) : State :=
  modMb (ends (bumpGen t) k 0 (testResponse s t r)) k fun m => { m with progress := 1000 }

theorem result_testEnded (s t : State) (k : Fin 16) (r : TestOutcome) : (getMb (testEnded s t k r) k).result =
    some (0, testResponse s t r, BitVec.ofNat 32 (testResponse s t r).length) := by
  rw [testEnded, getMb_modMb_same]
  exact result_endsWith ..

theorem getCore_testEnded (s t : State) (k : Fin 16) (r : TestOutcome) (d : CoreId) :
    getCore (testEnded s t k r) d = getCore t d := rfl

theorem testEnded_mem (s t : State) (k : Fin 16) (r : TestOutcome) : (testEnded s t k r).mem = t.mem := rfl

/-- A self-test that resets nothing, whose unit passes or fails. -/
theorem exec_selftest_of_plain (hm : m = getMb s k) (hruns : s.Runs k 0x50 selftestAllow)
    (hplain : 7 ≤ pf m 0 1 ∨ m.expert = false) : exec (.selftest k r) s = .next (testEnded s
      (if pf m 0 1 < 7 then testCompute s (pf m 0 1) (pf m 1 1) r else testLink s (pf m 0 1) (pf m 1 1) r) k r) := by
  subst hm
  have hno : ¬(pf (getMb s k) 0 1 < 7 && (getMb s k).expert) = true := by
    obtain hlink | hexpert := hplain
    · simp [Nat.not_lt.mpr hlink]
    · simp [hexpert]
  rw [exec_selftest, execSelftest, command_of_passed hruns.1 hruns.2]
  dsimp only
  rw [if_neg hno]
  rfl

theorem testCompute_of_pass (target index : Nat) (hpass : r.pass = true) (hbanks : r.failBanks = []) :
    testCompute s target index r = s := by
  unfold testCompute
  split
  · rfl
  · rw [hbanks, hpass]
    rfl

theorem testLink_of_pass (target index : Nat) (hpass : r.pass = true) : testLink s target index r = s := by
  unfold testLink
  exact if_pos hpass

/-- A core whose own test fails is LOST, with a record of its unit (R404). -/
theorem testCompute_of_core (index : Nat) (hfail : r.pass = false) (hbanks : r.failBanks = []) :
    ∃ e, testCompute s 0 index r = markLost (writeRecord s e) (coreOf index) 9 := by
  have hcore : failedCore s 0 index r = some (coreOf index) := by
    have hcores : testCores s 0 index = [coreOf index] := rfl
    unfold failedCore
    rw [hcores]
    dsimp only
    split
    case h_1 c hc => exact congrArg some (List.mem_singleton.mp (List.mem_of_find?_eq_some hc))
    case h_2 => rfl
  unfold testCompute
  rw [hcore, hbanks, hfail]
  exact ⟨_, rfl⟩

/-- A core that SELFTEST may test without expert rights holds no job. -/
theorem jobId_of_selftestAllow (htarget : pf m 0 1 = 0) (hexpert : m.expert = false)
    (hallow : selftestAllow s m = 0) : (getCore s (coreOf (pf m 1 1))).jobId = 0 := by
  have hcores : testCores s 0 (pf m 1 1) = [coreOf (pf m 1 1)] := rfl
  unfold selftestAllow at hallow
  rw [htarget] at hallow
  dsimp only at hallow
  rw [if_pos (by decide), hcores] at hallow
  split_ifs at hallow with hlost hoff hbusy
  · exact absurd hallow (by decide)
  · exact absurd hallow (by decide)
  · exact absurd hallow (by decide)
  · rw [hexpert] at hbusy
    by_contra hjob
    refine hbusy (List.any_eq_true.mpr ⟨_, List.mem_singleton.mpr rfl, ?_⟩)
    rw [bne_iff_ne.mpr hjob]
    exact Bool.or_true _

end

/-! ### A SUSPECT engine (R409) -/

section
variable {s : State} {c : CoreId} {e : Fin 7}

theorem exec_suspectEngineTest_of_other (h : (getCore s c).jobId ≠ 0 ∨ (getCore s c).st ≠ .idle ∨ engineSuspect s c e = false)
    (p : Bool) : exec (.suspectEngineTest c e p) s = .next s := by
  rw [exec_suspectEngineTest, execSuspectEngineTest, if_pos (by simpa using h)]

section
variable (hjob : (getCore s c).jobId = 0) (hidle : (getCore s c).st = .idle) (hsuspect : engineSuspect s c e = true)
include hjob hidle hsuspect

theorem exec_suspectEngineTest_of_pass : exec (.suspectEngineTest c e true) s = .next (clearSuspect s c e) := by
  rw [exec_suspectEngineTest, execSuspectEngineTest, if_neg (by simp [hjob, hidle, hsuspect]), if_pos rfl]

theorem exec_suspectEngineTest_of_fail : exec (.suspectEngineTest c e false) s = .next (markLost s c 9) := by
  rw [exec_suspectEngineTest, execSuspectEngineTest, if_neg (by simp [hjob, hidle, hsuspect]), if_neg Bool.false_ne_true]

end

theorem engineSuspect_clearSuspect (s : State) (c : CoreId) (e : Fin 7) : engineSuspect (clearSuspect s c e) c e = false := by
  unfold engineSuspect clearSuspect
  split_ifs
  · rw [getLast_modLast_same]
  · rw [getWelt_modWelt_same]
  · rw [modAwl, getCore_modCore_same]

theorem clearSuspect_mem (s : State) (c : CoreId) (e : Fin 7) : (clearSuspect s c e).mem = s.mem := by
  unfold clearSuspect
  split_ifs <;> rfl

theorem getCore_clearSuspect_other (s : State) {c d : CoreId} (e : Fin 7) (h : d ≠ c) :
    getCore (clearSuspect s c e) d = getCore s d := by
  unfold clearSuspect
  split_ifs
  · exact getCore_modCore_other _ _ (Ne.symm h)
  · exact getCore_modCore_other _ _ (Ne.symm h)
  · exact getCore_modCore_other _ _ (Ne.symm h)

end

/-! ### A Registrar core that fails (R410) -/

section
variable (s : State) (n : Fin 4)

/-- The Registrar cores in service. -/
def aliveCores : List (Fin 4) := (allFin 4).filter fun i => vget s.reg.cores i

/-- The command of a mailbox runs on Registrar core n. -/
def runsOnCore (k : Fin 16) : Bool :=
  (getMb s k).own && (getMb s k).phase == 2 && (getMb s k).result.isNone &&
    (aliveCores s)[k.val % (aliveCores s).length]? == some n

/-- The commands that run on a Registrar core end with DEVICE_FAULT. -/
def commandsFailed : State := ((allFin 16).filter (runsOnCore s n)).foldl (fun s k => ends s k stDeviceFault []) s

/-- Registrar core n out of service. -/
def coreRetired : State := modReg (commandsFailed s n) fun r => { r with cores := vset r.cores n false }

/-- The record of a failed Registrar core (R410). -/
def coreFailRecord (dead : Bool) : ErrRec :=
  { recOf (coreRetired s n) 13 15 n.val 0x0E (fatalOr dead) 0 with
    flags := 2, detail := leBytes 4 (coreRetired s n).flash.running.toNat }

/-- The Registrar with a core out of service and its record, and the device FAILED where too few are left. -/
def coreFailed (dead : Bool) : State :=
  if dead then failDevice (writeRecord (coreRetired s n) (coreFailRecord s n dead))
  else writeRecord (coreRetired s n) (coreFailRecord s n dead)

variable {s n} in
theorem exec_registrarCoreFail_of_failed (h : vget s.reg.cores n = false) : exec (.registrarCoreFail n) s = .next s := by
  rw [exec_registrarCoreFail, execRegistrarCoreFail, if_pos (by rw [h]; rfl)]

variable {s n} in
theorem exec_registrarCoreFail_of_alive (h : vget s.reg.cores n = true) :
    exec (.registrarCoreFail n) s = .next (coreFailed s n (decide ((aliveCores s).length ≤ 2))) := by
  rw [exec_registrarCoreFail, execRegistrarCoreFail, if_neg (by rw [h]; exact Bool.false_ne_true)]
  rfl

theorem commandsFailed_keeps {β : Type} (g : State → β) (hmb : ∀ s k f, g (modMb s k f) = g s) : g (commandsFailed s n) = g s :=
  foldl_field g (fun _ _ => hmb ..) _ _

/-- What the failure of a Registrar core leaves beside its records and DEV_STATE. -/
theorem coreFailed_keeps {β : Type} (g : State → β) (hrecord : ∀ s r, g (writeRecord s r) = g s)
    (hfail : ∀ s, g (failDevice s) = g s) (dead : Bool) : g (coreFailed s n dead) = g (coreRetired s n) := by
  unfold coreFailed
  split
  · exact (hfail _).trans (hrecord ..)
  · exact hrecord ..

theorem failDevice_keeps_reg {β : Type} (g : Registrar → β) (hstate : ∀ r v, g { r with devState := v } = g r)
    (hgen : ∀ r n, g { r with invGen := n } = g r) (s : State) : g (failDevice s).reg = g s.reg :=
  (noted_keeps_reg g hgen _).trans (hstate ..)

/-- The working Registrar cores after one has failed. -/
theorem cores_coreFailed (dead : Bool) : (coreFailed s n dead).reg.cores = vset s.reg.cores n false := by
  have hcommands := commandsFailed_keeps s n (·.reg.cores) fun _ _ _ => rfl
  rw [coreFailed_keeps s n (·.reg.cores) (writeRecord_keeps_reg (·.cores) fun _ _ _ _ _ _ => rfl)
    (failDevice_keeps_reg (·.cores) (fun _ _ => rfl) fun _ _ => rfl), ← hcommands]
  rfl

theorem devState_coreFailed (dead : Bool) : (coreFailed s n dead).reg.devState = if dead then 3 else s.reg.devState := by
  unfold coreFailed
  split
  · exact failDevice_devState _
  · exact (writeRecord_keeps_reg (·.devState) (fun _ _ _ _ _ _ => rfl) ..).trans
      (commandsFailed_keeps s n (·.reg.devState) fun _ _ _ => rfl)

variable {s n} in
/-- A command that ran on the failed core ends DEVICE_FAULT (R410). -/
theorem result_coreFailed {k : Fin 16} (h : runsOnCore s n k = true) (dead : Bool) :
    (getMb (coreFailed s n dead) k).result = some (stDeviceFault, [], 0) := by
  have hmb : getMb (coreFailed s n dead) k = getMb (coreRetired s n) k :=
    coreFailed_keeps s n (getMb · k) (fun s r => getMb_writeRecord s r k)
      (failDevice_keeps_reg (fun r => vget r.mailboxes k) (fun _ _ => rfl) fun _ _ => rfl) dead
  have hk : k ∈ (allFin 16).filter (runsOnCore s n) := List.mem_filter.mpr ⟨List.mem_finRange k, h⟩
  obtain ⟨t, -, hends⟩ := getMb_foldl (f := fun s k => ends s k stDeviceFault []) (fun s j hj => getMb_modMb_other s _ hj) (s := s)
    ((List.nodup_finRange 16).filter _) hk
  have hretired : getMb (coreRetired s n) k = getMb (ends t k stDeviceFault []) k := hends
  rw [hmb, hretired]
  exact result_endsWith ..

end

/-! ### Scores (R413 to R415) -/

/-- What the scores are counted from. -/
def scoreInputs (s : State) := (s.cores, s.tiers, s.lacing, s.power, s.clock, s.resil.caps, s.reg.time, s.reg.fieldOf)

section
variable {s t : State} (h : scoreInputs t = scoreInputs s)
include h

theorem coreScore_congr (c : CoreId) : coreScore t c = coreScore s c := by
  simp only [scoreInputs, Prod.mk.injEq] at h
  obtain ⟨hcores, htiers, hlacing, hpower, hclock, hcaps, htime, hfields⟩ := h
  simp only [coreScore, coreScored, corePoints, correctionPoints, silentPoints, marginPoints, stretchPoints, stretchesMs, feedPoints,
    linkPoints, lowOf, recent, recentTimes, getCore, fieldOf, routerOf, coreFeed, hcores, htiers, hlacing, hpower, hclock, hcaps, htime,
    hfields] <;> rfl

theorem edgeScore_congr : edgeScore t = edgeScore s := by
  simp only [scoreInputs, Prod.mk.injEq] at h
  obtain ⟨-, -, hlacing, -, hclock, hcaps, htime, -⟩ := h
  simp only [edgeScore, marginPoints, stretchPoints, stretchesMs, linkPoints, lowOf, recent, recentTimes, hlacing, hclock, hcaps, htime]

end

theorem coreScore_le (s : State) (c : CoreId) : coreScore s c ≤ 255 := by
  unfold coreScore
  split
  · exact Nat.min_le_left ..
  · exact Nat.zero_le _

/-- A view that the update of scores leaves: no record shows, nor a change of the health block that leaves the caps and HEALTH_GEN. -/
structure OutsideScores {β : Type} (g : State → β) : Prop where
  record : ∀ s r, g (writeRecord s r) = g s
  resil : ∀ s f, (∀ r : Resil, (f r).caps = r.caps ∧ (f r).healthGen = r.healthGen) → g (modResil s f) = g s

theorem outsideScores_inputs : OutsideScores scoreInputs where
  record s r := by
    have htime : (writeRecord s r).reg.time = s.reg.time := writeRecord_keeps_reg (·.time) (fun _ _ _ _ _ _ => rfl) s r
    have hfields : (writeRecord s r).reg.fieldOf = s.reg.fieldOf := writeRecord_keeps_reg (·.fieldOf) (fun _ _ _ _ _ _ => rfl) s r
    simp only [scoreInputs, writeRecord_cores, writeRecord_tiers, writeRecord_lacing, writeRecord_power, writeRecord_clock,
      writeRecord_resil, htime, hfields]
  resil s f hf := by
    simp only [scoreInputs, modResil_cores, modResil_tiers, modResil_lacing, modResil_power, modResil_clock, modResil_resil, modResil_reg,
      (hf _).1]

section
variable {β : Type} {g : State → β} (hg : OutsideScores g) (s : State)
include hg

theorem OutsideScores.crossings (core : Nat) (was now : BitVec 3) (score prev : Nat) (pts : List Nat) :
    g (crossings s core was now score prev pts) = g s := by
  have hif : ∀ (p : Bool) (sev : BitVec 8) (s : State), g (if p then healthRecord s core sev score prev pts else s) = g s := by
    intro p sev s
    split
    · exact hg.record ..
    · rfl
  unfold Machine.crossings
  exact (hif ..).trans ((hif ..).trans (hif ..))

theorem OutsideScores.modCfg (j : BitVec 6) (f : SnapCfg → SnapCfg) : g (modCfg s j f) = g s :=
  hg.resil s _ fun _ => ⟨rfl, rfl⟩

theorem OutsideScores.scoreCore (c : CoreId) : g (scoreCore s c) = g s := by
  unfold Machine.scoreCore
  dsimp only
  split
  · refine (hg.modCfg ..).trans ((hg.resil _ _ ?_).trans (hg.crossings ..))
    exact fun _ => ⟨rfl, rfl⟩
  · refine (hg.resil _ _ ?_).trans (hg.crossings ..)
    exact fun _ => ⟨rfl, rfl⟩

theorem OutsideScores.scoreDevice : g (scoreDevice s) = g s := by
  unfold Machine.scoreDevice
  refine (hg.resil _ _ ?_).trans (hg.crossings ..)
  exact fun _ => ⟨rfl, rfl⟩

end

/-- A record leaves the scores. -/
theorem crossings_resil (s : State) (core : Nat) (was now : BitVec 3) (score prev : Nat) (pts : List Nat) :
    (crossings s core was now score prev pts).resil = s.resil := by
  have hif : ∀ (p : Bool) (sev : BitVec 8) (s : State), (if p then healthRecord s core sev score prev pts else s).resil = s.resil := by
    intro p sev s
    split
    · exact writeRecord_resil ..
    · rfl
  unfold crossings
  exact (hif ..).trans ((hif ..).trans (hif ..))

theorem scores_scoreCore (s : State) (c : CoreId) :
    (scoreCore s c).resil.scores = vset s.resil.scores c (BitVec.ofNat 8 (coreScore s c)) := by
  have hcross := crossings_resil s c.val (vget s.resil.overs (finOf 13 (by decide) c.val))
    (overBits (vget s.resil.overs (finOf 13 (by decide) c.val)) (coreScore s c) (coreHthr s c)) (coreScore s c)
    (vget s.resil.scores c).toNat (corePoints s c)
  unfold scoreCore
  dsimp only
  split
  · simp only [modCfg, modResil_resil, hcross]
  · simp only [modResil_resil, hcross]

/-- The scores of the cores of a list are updated, each from the same inputs. -/
theorem scores_foldl_scoreCore {s : State} : ∀ {l : List CoreId} {u : State}, scoreInputs u = scoreInputs s →
    (l.foldl scoreCore u).resil.scores = l.foldl (fun v c => vmod v c fun _ => BitVec.ofNat 8 (coreScore s c)) u.resil.scores
  | [], _, _ => rfl
  | c :: l, u, h => by
    have hscore : (scoreCore u c).resil.scores = vmod u.resil.scores c fun _ => BitVec.ofNat 8 (coreScore s c) := by
      rw [scores_scoreCore, coreScore_congr h]
      rfl
    rw [List.foldl_cons, List.foldl_cons, scores_foldl_scoreCore ((outsideScores_inputs.scoreCore u c).trans h), hscore]

/-- The elements of a vector in order. -/
theorem toList_eq_map_vget {α : Type} {n : Nat} (v : Vector α n) : v.toList = (allFin n).map (vget v) := by
  refine List.ext_getElem (by simp [allFin]) fun i h1 h2 => ?_
  simp [allFin, vget]

/-- The device with every core scored anew (R413). -/
def coresScored (s : State) : State := (allFin 12).foldl scoreCore s

theorem score_coresScored (s : State) (c : CoreId) : vget (coresScored s).resil.scores c = BitVec.ofNat 8 (coreScore s c) := by
  rw [coresScored, scores_foldl_scoreCore rfl]
  exact vget_foldl_each (fun c _ => BitVec.ofNat 8 (coreScore s c)) c _

/-- The device score: the highest core's plus the edge's (R414). -/
theorem devScore_scoreDevice (s : State) : (scoreDevice (coresScored s)).resil.devScore =
    BitVec.ofNat 8 (min 255 ((allFin 12).foldl (fun n c => max n (coreScore s c)) 0 + edgeScore s)) := by
  have hinputs : scoreInputs (coresScored s) = scoreInputs s := foldl_field scoreInputs outsideScores_inputs.scoreCore _ s
  have hscore : ∀ c, (vget (coresScored s).resil.scores c).toNat = coreScore s c := fun c => by
    rw [score_coresScored, BitVec.toNat_ofNat]
    exact Nat.mod_eq_of_lt (Nat.lt_succ_of_le (coreScore_le s c))
  have hdev : (scoreDevice (coresScored s)).resil.devScore = BitVec.ofNat 8 (min 255
    ((coresScored s).resil.scores.toList.foldl (fun n x => max n x.toNat) 0 + edgeScore (coresScored s))) := rfl
  rw [hdev, edgeScore_congr hinputs, toList_eq_map_vget, List.foldl_map]
  simp only [hscore]

theorem scores_scoreDevice (s : State) : (scoreDevice s).resil.scores = s.resil.scores := by
  unfold scoreDevice
  simp only [modResil_resil, crossings_resil]

/-- The update of all scores, HEALTH_GEN one higher. -/
def healthScored (s : State) : State := modResil (scoreDevice (coresScored s)) fun r => { r with healthGen := r.healthGen + 1 }

theorem exec_healthScoreUpdate_of_other {s : State} (h : s.reg.devState ≠ 1) : exec .healthScoreUpdate s = .next s := by
  rw [exec_healthScoreUpdate, execHealthScoreUpdate, if_pos h]

theorem exec_healthScoreUpdate_of_ready {s : State} (h : s.reg.devState = 1) : ∃ t, exec .healthScoreUpdate s = .next t ∧
    (t = healthScored s ∨ t = noted (healthScored s)) := by
  rw [exec_healthScoreUpdate, execHealthScoreUpdate, if_neg fun hne => hne h]
  refine ⟨_, rfl, ?_⟩
  dsimp only
  split
  · exact .inl rfl
  · exact .inr rfl

/-- A view that the update of all scores and its note leave. -/
theorem OutsideScores.healthScored {β : Type} {g : State → β} (hg : OutsideScores g)
    (hgen : ∀ s, g (modResil s fun r => { r with healthGen := r.healthGen + 1 }) = g s) (s : State) : g (healthScored s) = g s :=
  (hgen _).trans ((hg.scoreDevice _).trans (foldl_field g hg.scoreCore _ s))

theorem healthGen_healthScored (s : State) : (healthScored s).resil.healthGen = s.resil.healthGen + 1 := by
  have hgen : OutsideScores (·.resil.healthGen) := ⟨fun s r => by rw [writeRecord_resil], fun s f hf => (hf s.resil).2⟩
  have hkept : (scoreDevice (coresScored s)).resil.healthGen = s.resil.healthGen :=
    (hgen.scoreDevice _).trans (foldl_field (·.resil.healthGen) hgen.scoreCore _ s)
  rw [healthScored, modResil_resil, hkept]

/-- Settles O50: a self-test by what its unit's handling leaves, a SUSPECT engine and a Registrar core by their outcomes, the scores by
the inputs that no step of their update changes. -/
theorem healthAndTests : Obligations.HealthAndTests := by
  intro s
  refine ⟨fun k m r hm hruns => ⟨fun hpass hbanks hplain => ?pass, fun hfail hbanks htarget hexpert => ?fail⟩,
    fun c e => ⟨exec_suspectEngineTest_of_other, fun hjob hidle hsuspect => ⟨?cleared, ?lost⟩⟩,
    fun n => ⟨exec_registrarCoreFail_of_failed, fun halive alive hcores => ?registrar⟩,
    exec_healthScoreUpdate_of_other, fun hready => ?scores⟩
  case pass =>
    have htested : (if pf m 0 1 < 7 then testCompute s (pf m 0 1) (pf m 1 1) r else testLink s (pf m 0 1) (pf m 1 1) r) = s := by
      rw [testCompute_of_pass _ _ hpass hbanks, testLink_of_pass _ _ hpass, ite_self]
    refine ⟨testEnded s s k r, ?_, result_testEnded .., rfl, rfl, rfl⟩
    rw [exec_selftest_of_plain hm hruns hplain, htested]
  case fail =>
    obtain ⟨e, he⟩ := testCompute_of_core (s := s) (pf m 1 1) hfail hbanks
    have hjob : (getCore s (coreOf (pf m 1 1))).jobId = 0 := jobId_of_selftestAllow htarget hexpert (hm ▸ hruns.2)
    have hexec := exec_selftest_of_plain (r := r) hm hruns (.inr hexpert)
    rw [htarget, if_pos (by decide), he] at hexec
    have hrecord := writeRecord_cores s e
    refine ⟨_, hexec, ?_, ?_, fun d hd => ?_⟩
    · rw [getCore_testEnded, lost_markLost]
    · rw [testEnded_mem, markLost_mem, writeRecord_mem]
    · rw [getCore_testEnded]
      exact (getCore_markLost_other (by rw [getCore_cores hrecord, hjob]) hd 9).trans (getCore_cores hrecord d)
  case cleared => exact ⟨_, exec_suspectEngineTest_of_pass hjob hidle hsuspect, engineSuspect_clearSuspect ..,
    clearSuspect_mem .., fun d hd => getCore_clearSuspect_other s e hd⟩
  case lost => exact ⟨_, exec_suspectEngineTest_of_fail hjob hidle hsuspect, lost_markLost .., markLost_mem ..,
    fun d hd => getCore_markLost_other hjob hd 9⟩
  case registrar =>
    have halive' : alive = aliveCores s := hcores
    subst halive'
    refine ⟨_, exec_registrarCoreFail_of_alive halive, ?_, fun i hi => ?_, ?_, ?_, ?_, fun k hown hphase hresult hcore =>
      result_coreFailed ?_ _⟩
    · rw [cores_coreFailed, vget_vset_same]
    · rw [cores_coreFailed, vget_vset_other _ _ (Ne.symm hi)]
    · exact (coreFailed_keeps s n (·.cores) writeRecord_cores (fun _ => noted_cores _) _).trans (commandsFailed_keeps s n (·.cores) fun _ _ _ => rfl)
    · exact (coreFailed_keeps s n (·.mem) writeRecord_mem failDevice_mem _).trans (commandsFailed_keeps s n (·.mem) fun _ _ _ => rfl)
    · rw [devState_coreFailed]
      simp only [decide_eq_true_eq]
    · rw [runsOnCore, hown, hphase, hresult, hcore]
      simp
  case scores =>
    obtain ⟨t, hexec, ht⟩ := exec_healthScoreUpdate_of_ready hready
    have hsame : t.cores = (healthScored s).cores ∧ t.mem = (healthScored s).mem ∧ t.resil = (healthScored s).resil ∧
        t.reg.devState = (healthScored s).reg.devState := by
      obtain rfl | rfl := ht
      · exact ⟨rfl, rfl, rfl, rfl⟩
      · exact ⟨noted_cores _, noted_mem _, noted_resil _, noted_keeps_reg (·.devState) (fun _ _ => rfl) _⟩
    obtain ⟨hcores, hmem, hresil, hstate⟩ := hsame
    have hscored : OutsideScores (·.reg.devState) :=
      ⟨writeRecord_keeps_reg (·.devState) fun _ _ _ _ _ _ => rfl, fun s f _ => by rw [modResil_reg]⟩
    refine ⟨t, hexec, hcores.trans ?_, hmem.trans ?_, ?_, fun c => ?_, ?_, hstate.trans ?_⟩
    · exact OutsideScores.healthScored (g := (·.cores)) ⟨writeRecord_cores, fun s f _ => modResil_cores s f⟩ (fun _ => rfl) s
    · exact OutsideScores.healthScored (g := (·.mem)) ⟨writeRecord_mem, fun s f _ => modResil_mem s f⟩ (fun _ => rfl) s
    · rw [hresil, healthGen_healthScored]
    · rw [hresil, healthScored, modResil_resil, scores_scoreDevice, score_coresScored]
    · rw [hresil, healthScored, modResil_resil, devScore_scoreDevice]
    · exact (hscored.healthScored (fun _ => rfl) s).trans hready

end Sys2Proof.Machine
end

section
/-!
The performance monitor (R430 to R444): the forms of PMU_CFG, the ledger's records and the call slips.
-/
namespace Sys2Proof.Machine

/-! ### The instructions -/

section
variable (s : State)

theorem exec_pmuCfgLedger (k : Fin 16) : exec (.pmuCfgLedger k) s = execPmuCfgLedger k s := rfl
theorem exec_pmuCfgSlips (k : Fin 16) : exec (.pmuCfgSlips k) s = execPmuCfgSlips k s := rfl
theorem exec_pmuCfgFilter (k : Fin 16) : exec (.pmuCfgFilter k) s = execPmuCfgFilter k s := rfl
theorem exec_pmuCfgBinding (k : Fin 16) : exec (.pmuCfgBinding k) s = execPmuCfgBinding k s := rfl
theorem exec_pmuCfgEvent (k : Fin 16) : exec (.pmuCfgEvent k) s = execPmuCfgEvent k s := rfl
theorem exec_ledgerHeaderWrite : exec .ledgerHeaderWrite s = execLedgerHeaderWrite s := rfl

end

/-! ### Bytes and memory -/

@[simp] theorem length_leBytes (n v : Nat) : (leBytes n v).length = n := by
  induction n generalizing v with
  | zero => rfl
  | succ n ih => rw [leBytes, List.length_cons, ih]

theorem memRead_eq_of_memGet {m : List Host.Cell} {l : List Byte} {a : Nat}
    (h : ∀ i (g : i < l.length), memGet m (a + i) = l[i]) : memRead m a l.length = l := by
  induction l generalizing a with
  | nil => rfl
  | cons b l ih =>
    have hrest : memRead m (a + 1) l.length = l :=
      ih fun i g => by
        rw [Nat.add_assoc, Nat.add_comm 1 i]
        exact h (i + 1) (Nat.succ_lt_succ g)
    have hfirst : memGet m a = b := h 0 (Nat.succ_pos _)
    rw [List.length_cons, memRead, hrest, hfirst]

/-- A byte string written reads as written. -/
theorem memRead_memWrite {m : List Host.Cell} {l : List Byte} {a : Nat} (h : Memory.wf m = true) :
    memRead (memWrite m a l) a l.length = l :=
  memRead_eq_of_memGet fun i g => memGet_memWrite_same i g h

theorem memGet_foldl_memSet_other {l : List (Nat × Byte)} {x b : Nat} (h : ∀ e ∈ l, b + e.1 ≠ x) (m : List Host.Cell) :
    memGet (l.foldl (fun m e => memSet m (b + e.1) e.2) m) x = memGet m x := by
  induction l generalizing m with
  | nil => rfl
  | cons e l ih =>
    rw [List.foldl_cons, ih fun y hy => h y (List.mem_cons_of_mem _ hy)]
    exact smapGet_smapSet_other (h e List.mem_cons_self)

theorem lt_length_of_mem_cells {l : List Byte} {e : Nat × Byte} (h : e ∈ cells l) : e.1 < l.length := by
  obtain ⟨p, hp, rfl⟩ := List.mem_map.mp h
  exact (List.mem_zipIdx' (List.mem_filter.mp hp).1).1

/-- Memory with n bytes written afresh from b, the zeros by erasure. -/
def putCells (m : List Host.Cell) (b n : Nat) (l : List Byte) : List Host.Cell :=
  (cells l).foldl (fun m e => memSet m (b + e.1) e.2) (memErase m b n)

/-- Bytes written afresh leave every other byte. -/
theorem memGet_putCells_other {l : List Byte} {b n x : Nat} (hlength : l.length = n) (h : x < b ∨ b + n ≤ x)
    (m : List Host.Cell) : memGet (putCells m b n l) x = memGet m x := by
  have hout : ∀ e ∈ cells l, b + e.1 ≠ x := fun e he => by
    have hlt := lt_length_of_mem_cells he
    omega
  rw [putCells, memGet_foldl_memSet_other hout, memGet_memErase, if_pos h]

@[simp] theorem putFresh_cores (s : State) (a : Nat) (l : List Byte) : (putFresh s a l).cores = s.cores := rfl
@[simp] theorem putFresh_mem (s : State) (a : Nat) (l : List Byte) : (putFresh s a l).mem = memWrite s.mem a l := rfl

/-! ### Counters -/

/-- Reading a list of entries from which the default ones were dropped. -/
theorem smapGet_filter_map {α : Type} [DecidableEq α] (d : α) (g : Nat → α) (l : List Nat) (e : Nat) :
    smapGet d ((l.map fun e => (e, g e)).filter fun p => decide (p.2 ≠ d)) e = if e ∈ l then g e else d := by
  induction l with
  | nil => rfl
  | cons x l ih =>
    rw [List.map_cons, List.filter_cons]
    by_cases hd : g x = d
    · rw [if_neg (by simpa using hd), ih]
      by_cases hx : e = x
      · simp [hx, hd]
      · simp [hx]
    · rw [if_pos (by simpa using hd), smapGet, ih]
      by_cases hx : x = e
      · simp [hx]
      · simp [hx, Ne.symm hx]

/-- What the change of every counter leaves. -/
theorem mapCounters_keeps {β : Type} (g : State → β)
    (h : ∀ (s : State) l, g { s with pmu := { s.pmu with counters := l } } = g s) (s : State) (f : Nat → Counter → Counter) :
    g (mapCounters s f) = g s := h s _

theorem counterOf_mapCounters (s : State) (f : Nat → Counter → Counter) {e : Nat} (h : e ∈ allEvents) :
    counterOf (mapCounters s f) e = f e (counterOf s e) := by
  rw [counterOf, mapCounters, smapGet_filter_map Counter.init (fun e => f e (counterOf s e)), if_pos h]

/-- The counters after one of an allocated event was changed. -/
theorem counterOf_modCounter {s : State} (hwf : smapWf Counter.init s.pmu.counters = true) (n e : Nat)
    (f : Counter → Counter) : counterOf (modCounter s n f) e =
      if e = n ∧ (ledgerEntry e).isSome = true then f (counterOf s e) else counterOf s e := by
  unfold modCounter
  by_cases he : e = n
  · subst he
    by_cases hset : (ledgerEntry e).isSome = true
    · rw [if_pos hset, if_pos ⟨rfl, hset⟩]
      exact smapGet_smapSet_same hwf
    · rw [if_neg hset, if_neg (not_and_of_not_right _ hset)]
  · rw [if_neg (not_and_of_not_left _ he)]
    split
    · exact smapGet_smapSet_other (d := Counter.init) (Ne.symm he)
    · rfl

theorem modCounter_cores (s : State) (n : Nat) (f : Counter → Counter) : (modCounter s n f).cores = s.cores := by
  unfold modCounter
  split <;> rfl

theorem modCounter_mem (s : State) (n : Nat) (f : Counter → Counter) : (modCounter s n f).mem = s.mem := by
  unfold modCounter
  split <;> rfl

/-! ### PMU_CFG (R430 to R435, R441, R444) -/

section
variable {s : State} {k : Fin 16}

/-- The ledger as PMU_CFG OP 0 sets it; a ring that moves under it stops the record in flight. -/
def ledgerSet (s : State) (m : Mailbox) : State :=
  let base := BitVec.ofNat 32 (pf m 12 8 / 65536)
  let recs := BitVec.ofNat 16 (pf m 20 2)
  let moved := s.pmu.ledEn && (base != s.pmu.ledBase || recs != s.pmu.ledRecs)
  let t := modPmu s fun p => { setPeriod p (BitVec.ofNat 30 (clampNat 1000 1000000000 (pf m 8 4))) with
    ledEn := pf m 4 1 == 1
    ledBase := base
    ledRecs := recs
    writing := if moved then none else p.writing }
  if moved then modPmu t fun p => { p with changed := true } else t

theorem exec_pmuCfgLedger_of_runs (hop : pf (getMb s k) 0 1 = 0) (hruns : s.Runs k 0x80 ledgerAllow) :
    exec (.pmuCfgLedger k) s = .next (ends (setDelta (ledgerSet s (getMb s k)) (pf (getMb s k) 5 1)) k 0 []) := by
  rw [exec_pmuCfgLedger, execPmuCfgLedger, commandOp_of_passed hop hruns]
  rfl

theorem ledgerSet_keeps (s : State) (m : Mailbox) : (ledgerSet s m).pmu.ledEn = (pf m 4 1 == 1) ∧
    (ledgerSet s m).pmu.ledBase = BitVec.ofNat 32 (pf m 12 8 / 65536) ∧
    (ledgerSet s m).pmu.ledRecs = BitVec.ofNat 16 (pf m 20 2) ∧
    (ledgerSet s m).pmu.period = BitVec.ofNat 30 (clampNat 1000 1000000000 (pf m 8 4)) ∧
    (ledgerSet s m).pmu.counters = s.pmu.counters ∧ (ledgerSet s m).cores = s.cores ∧ (ledgerSet s m).mem = s.mem := by
  unfold ledgerSet
  dsimp only
  split <;> exact ⟨rfl, rfl, rfl, rfl, rfl, rfl, rfl⟩

/-- DELTA written for every event changes the counters and nothing else. -/
theorem exists_setDelta_eq (s : State) (op : Nat) :
    ∃ l, setDelta s op = modPmu s fun p => { p with counters := l } := by
  unfold setDelta
  split <;> exact ⟨_, rfl⟩

theorem exec_pmuCfgSlips_of_runs (hop : pf (getMb s k) 0 1 = 1) (hruns : s.Runs k 0x80 slipsAllow) :
    exec (.pmuCfgSlips k) s = .next (ends (modPmu s fun p => { p with
      slipBase := BitVec.ofNat 32 (pf (getMb s k) 12 8 / 65536), slipRecs := BitVec.ofNat 16 (pf (getMb s k) 20 2)
      slipCtrl := if pf (getMb s k) 4 1 = 0xFF then
          Vector.replicate 12 (pk [(0, pf (getMb s k) 6 2), (16, pf (getMb s k) 5 1), (32, pf (getMb s k) 8 4)])
        else vset p.slipCtrl (coreOf (pf (getMb s k) 4 1))
          (pk [(0, pf (getMb s k) 6 2), (16, pf (getMb s k) 5 1), (32, pf (getMb s k) 8 4)]) }) k 0 []) := by
  rw [exec_pmuCfgSlips, execPmuCfgSlips, commandOp_of_passed hop hruns]

theorem exec_pmuCfgFilter_of_runs (hop : pf (getMb s k) 0 1 = 2) (hrun : running s k 0x80 = true) :
    exec (.pmuCfgFilter k) s = .next (ends (modPmu s fun p => { p with
      filters := vset p.filters (finOf 7 (by decide) (pf (getMb s k) 4 1 - 1)) {
        a := pk [(0, pf (getMb s k) 5 1), (8, pf (getMb s k) 6 1), (16, pf (getMb s k) 8 2), (32, pf (getMb s k) 10 2),
          (41, pf (getMb s k) 7 1)]
        lo := BitVec.ofNat 64 (pf (getMb s k) 12 8) &&& 0xFFFFFFFFFFC0
        hi := BitVec.ofNat 64 (pf (getMb s k) 20 8) &&& 0xFFFFFFFFFFC0 } }) k 0 []) := by
  rw [exec_pmuCfgFilter, execPmuCfgFilter, commandOp_of_passed hop ⟨hrun, rfl⟩]

theorem exec_pmuCfgBinding_of_runs (hop : pf (getMb s k) 0 1 = 3) (hrun : running s k 0x80 = true) :
    exec (.pmuCfgBinding k) s = .next (ends (modPmu s fun p => { p with
      clsel := vset p.clsel (seqOf (pf (getMb s k) 4 1)) (BitVec.ofNat 3 (pf (getMb s k) 5 1)) }) k 0 []) := by
  rw [exec_pmuCfgBinding, execPmuCfgBinding, commandOp_of_passed hop ⟨hrun, rfl⟩]

/-- An event's control as PMU_CFG OP 4 sets it (R432, R433). -/
def eventSet (m : Mailbox) (x : Counter) : Counter :=
  { x with mode := pf m 6 1 == 1, filt := BitVec.ofNat 3 (pf m 7 1), delta := pf m 8 1 == 1, rclr := pf m 9 1 == 1 }

theorem exec_pmuCfgEvent_of_runs (hop : pf (getMb s k) 0 1 = 4) (hrun : running s k 0x80 = true) :
    exec (.pmuCfgEvent k) s =
      .next (ends (modCounter s (pf (getMb s k) 4 2) (eventSet (getMb s k))) k 0 []) := by
  rw [exec_pmuCfgEvent, execPmuCfgEvent, commandOp_of_passed hop ⟨hrun, rfl⟩]
  rfl

/-- An element of a vector of which one element, or every element, was replaced by x. -/
theorem vget_replicate_or_vset {α : Type} {n : Nat} (v : Vector α n) (p : Prop) [Decidable p] (i j : Fin n) (x : α) :
    vget (if p then Vector.replicate n x else vset v i x) j = if p ∨ j = i then x else vget v j := by
  by_cases hp : p
  · rw [if_pos hp, if_pos (Or.inl hp)]
    exact Vector.getElem_replicate ..
  · rw [if_neg hp]
    by_cases hj : j = i
    · rw [if_pos (Or.inr hj), hj, vget_vset_same]
    · rw [if_neg (not_or.mpr ⟨hp, hj⟩), vget_vset_other _ _ (Ne.symm hj)]

theorem vget_vset_eq_ite {α : Type} {n : Nat} (v : Vector α n) (i j : Fin n) (x : α) :
    vget (vset v i x) j = if j = i then x else vget v j := by
  split
  · next h => rw [h, vget_vset_same]
  · next h => exact vget_vset_other _ _ (Ne.symm h)

end

/-! ### The ledger (R436 to R439) -/

section
variable {s : State}

theorem exec_ledgerLatch_of_off (h : s.pmu.ledEn = false ∨ s.pmu.ledRecs.toNat < 2 ∨ (vget s.power.doms 25).state ≠ 1) :
    exec .ledgerLatch s = .next s :=
  congrArg Host.Outcome.next (if_pos (by simpa [or_assoc] using h))

section
variable (hen : s.pmu.ledEn = true) (hrecs : 2 ≤ s.pmu.ledRecs.toNat) (hpower : (vget s.power.doms 25).state = 1)
include hen hrecs hpower

theorem ledger_on : ¬(!s.pmu.ledEn || decide (s.pmu.ledRecs.toNat < 2) || (vget s.power.doms 25).state != 1) = true := by
  simpa [hen, hpower] using Nat.lt_of_succ_le hrecs

theorem exec_ledgerLatch_of_writing (hwriting : s.pmu.writing.isSome = true) :
    exec .ledgerLatch s = .next (modPmu s fun p => { p with
      ledSkip := satAdd p.ledSkip 1, ledSince := satAdd p.ledSince 1 }) :=
  congrArg Host.Outcome.next ((if_neg (ledger_on hen hrecs hpower)).trans (if_pos hwriting))

end

/-- Every counter at the instant of a latch. -/
def latched (s : State) : State :=
  { mapCounters s fun e k => k.after (newCount s e) with openCtr := s.openCtr + 7400 }

/-- What a latch of the counters leaves. -/
theorem latched_keeps {β : Type} (g : State → β)
    (hcounters : ∀ (s : State) l, g { s with pmu := { s.pmu with counters := l } } = g s)
    (hopen : ∀ (s : State) n, g { s with openCtr := n } = g s) (s : State) : g (latched s) = g s :=
  (hopen _ _).trans (mapCounters_keeps g hcounters s _)

theorem latched_mem (s : State) : (latched s).mem = s.mem := latched_keeps (·.mem) (fun _ _ => rfl) (fun _ _ => rfl) s

/-- The bytes of a ledger record's entries. -/
def entryBytes (s : State) : List Byte :=
  (allEvents.map fun e => counterWord (counterOf s e)).flatMap fun w => leBytes 8 w.toNat

/-- The entries of a ledger record at a. -/
def ledgerEntries (s : State) (a : Nat) : State :=
  { s with
    mem := putCells s.mem (a + 64) 59200 (entryBytes s)
    poison := setErase s.poison (a / 64 + 1) 925 }

theorem ledgerEntries_pmu (s : State) (a : Nat) : (ledgerEntries s a).pmu = s.pmu := by rw [ledgerEntries]
theorem ledgerEntries_cores (s : State) (a : Nat) : (ledgerEntries s a).cores = s.cores := by rw [ledgerEntries]

/-- The delta counters cleared. -/
def deltasCleared (s : State) : State := mapCounters s fun _ k => if k.delta then { k with count := 0, ovf := false } else k

theorem deltasCleared_keeps {β : Type} (g : State → β)
    (h : ∀ (s : State) l, g { s with pmu := { s.pmu with counters := l } } = g s) (s : State) : g (deltasCleared s) = g s :=
  mapCounters_keeps g h s _

/-- The ledger with the header h of its record at a still to be written. -/
def headerWaits (s : State) (a : Nat) (h : List Byte) : State :=
  modPmu s fun p => { p with writing := some (a, h), changed := false, ledSince := 0 }

theorem headerWaits_ledHead (s : State) (a : Nat) (h : List Byte) : (headerWaits s a h).pmu.ledHead = s.pmu.ledHead := rfl
theorem headerWaits_mem (s : State) (a : Nat) (h : List Byte) : (headerWaits s a h).mem = s.mem := rfl
theorem headerWaits_cores (s : State) (a : Nat) (h : List Byte) : (headerWaits s a h).cores = s.cores := rfl

theorem counterOf_headerWaits (s : State) (a : Nat) (h : List Byte) (e : Nat) :
    counterOf (headerWaits s a h) e = counterOf s e := rfl

/-- A latch that writes a record at a, its header still to come. -/
def recordLatched (s : State) (a : Nat) : State :=
  headerWaits (deltasCleared (ledgerEntries (latched s) a)) a (ledgerHeader (latched s))

theorem recordLatched_ledHead (s : State) (a : Nat) : (recordLatched s a).pmu.ledHead = s.pmu.ledHead := by
  have hcleared := deltasCleared_keeps (·.pmu.ledHead) (fun _ _ => rfl) (ledgerEntries (latched s) a)
  rw [recordLatched, headerWaits_ledHead, hcleared, ledgerEntries_pmu]
  exact latched_keeps (·.pmu.ledHead) (fun _ _ => rfl) (fun _ _ => rfl) s

theorem recordLatched_mem (s : State) (a : Nat) : (recordLatched s a).mem = (ledgerEntries (latched s) a).mem := by
  rw [recordLatched, headerWaits_mem]
  exact deltasCleared_keeps (·.mem) (fun _ _ => rfl) _

theorem recordLatched_cores (s : State) (a : Nat) : (recordLatched s a).cores = s.cores := by
  have hcleared := deltasCleared_keeps (·.cores) (fun _ _ => rfl) (ledgerEntries (latched s) a)
  rw [recordLatched, headerWaits_cores, hcleared, ledgerEntries_cores]
  exact latched_keeps (·.cores) (fun _ _ => rfl) (fun _ _ => rfl) s

theorem exec_ledgerLatch_of_free (hen : s.pmu.ledEn = true) (hrecs : 2 ≤ s.pmu.ledRecs.toNat)
    (hpower : (vget s.power.doms 25).state = 1) (hfree : s.pmu.writing = none) : exec .ledgerLatch s = .next
      (recordLatched s (s.pmu.ledBase.toNat * 65536 + s.pmu.ledHead.toNat % s.pmu.ledRecs.toNat * 59264)) := by
  have hidle : ¬s.pmu.writing.isSome = true := by simp [hfree]
  exact congrArg Host.Outcome.next ((if_neg (ledger_on hen hrecs hpower)).trans (if_neg hidle))

theorem ledgerEntries_mem (s : State) (a : Nat) :
    (ledgerEntries s a).mem = putCells s.mem (a + 64) 59200 (entryBytes s) := by
  rw [ledgerEntries]

theorem length_entryBytes (s : State) : (entryBytes s).length = 59200 := by
  have hall : allEvents.length = 7400 := (List.length_map ..).trans List.length_range
  simp only [entryBytes, List.length_flatMap, length_leBytes, List.map_const', List.sum_replicate, List.length_map, hall, smul_eq_mul]

/-- A ledger record's entries leave every byte outside them. -/
theorem memGet_ledgerEntries (s : State) {a x : Nat} (h : x < a + 64 ∨ a + 59264 ≤ x) :
    memGet (ledgerEntries s a).mem x = memGet s.mem x := by
  have hout : x < a + 64 ∨ a + 64 + 59200 ≤ x := by
    rw [Nat.add_assoc]
    exact h
  rw [ledgerEntries_mem, memGet_putCells_other (length_entryBytes s) hout]

theorem cleared_of_delta (s : State) {e : Nat} (he : e ∈ allEvents) (hdelta : (counterOf (deltasCleared s) e).delta = true) :
    (counterOf (deltasCleared s) e).count = 0 ∧ (counterOf (deltasCleared s) e).ovf = false := by
  rw [deltasCleared, counterOf_mapCounters s _ he] at hdelta ⊢
  split at hdelta
  · next h => rw [if_pos h]; exact ⟨rfl, rfl⟩
  · next h => exact absurd hdelta h

theorem exec_ledgerHeaderWrite_of_writing {a : Nat} {h : List Byte} (hwriting : s.pmu.writing = some (a, h)) :
    exec .ledgerHeaderWrite s =
      .next (modPmu (putFresh s a h) fun p => { p with writing := none, ledHead := p.ledHead + 1 }) := by
  rw [exec_ledgerHeaderWrite, execLedgerHeaderWrite, hwriting]

end

/-! ### Call slips (R441 to R443) -/

section
variable {s : State} {c : CoreId} {q : SeqId} {x : SlipMeasure} {lat : Nat}

theorem exec_callSlipWrite_of_off
    (h : bit (vget s.pmu.slipCtrl c) q.val = false ∨ s.pmu.slipRecs = 0 ∨ (getCore s c).jobId = 0) :
    exec (.callSlipWrite c q x) s = .next s :=
  congrArg Host.Outcome.next (if_pos (by simpa [or_assoc] using h))

section
variable (hmask : bit (vget s.pmu.slipCtrl c) q.val = true) (hrecs : s.pmu.slipRecs ≠ 0) (hjob : (getCore s c).jobId ≠ 0)
include hmask hrecs hjob

theorem slips_on : ¬(!bit (vget s.pmu.slipCtrl c) q.val || s.pmu.slipRecs == 0 || (getCore s c).jobId == 0) = true := by
  simpa [hmask] using ⟨hrecs, hjob⟩

theorem exec_callSlipWrite_of_short (hlat : x.tag.toNat + x.slot.toNat + x.lace.toNat + x.exec.toNat <
    fld (vget s.pmu.slipCtrl c) 32 24) :
    exec (.callSlipWrite c q x) s = .next (modPmu s fun p => { p with slipFilt := satAdd p.slipFilt 1 }) :=
  congrArg Host.Outcome.next ((if_neg (slips_on hmask hrecs hjob)).trans (if_pos hlat))

theorem exec_callSlipWrite_of_long (hlat : lat = x.tag.toNat + x.slot.toNat + x.lace.toNat + x.exec.toNat)
    (hmin : fld (vget s.pmu.slipCtrl c) 32 24 ≤ lat) : exec (.callSlipWrite c q x) s = .next
      (modPmu (putFresh s (s.pmu.slipBase.toNat * 65536 + s.pmu.slipHead.toNat % s.pmu.slipRecs.toNat * 64)
        (slipBytes s c q x lat)) fun p => { p with slipHead := p.slipHead + 1 }) := by
  subst hlat
  exact congrArg Host.Outcome.next ((if_neg (slips_on hmask hrecs hjob)).trans (if_neg (Nat.not_lt.mpr hmin)))

end

theorem length_slipBytes (s : State) (c : CoreId) (q : SeqId) (x : SlipMeasure) (lat : Nat) :
    (slipBytes s c q x lat).length = 64 := by
  unfold slipBytes
  extract_lets h
  rw [List.length_append, length_leBytes]
  simp only [h, List.length_append, length_leBytes, List.length_cons, List.length_nil]

end

/-- Settles O49: each form of PMU_CFG, each latch, header write and call slip by its own case. -/
theorem performanceMonitor : Obligations.PerformanceMonitor := by
  unfold Obligations.PerformanceMonitor
  rintro s k m rfl
  refine ⟨?ledger, ?slips, ?filter, exec_pmuCfgBinding_of_runs, ?event, ⟨exec_ledgerLatch_of_off, ?latch⟩, ?header, ?slip⟩
  case ledger =>
    intro hop hruns
    obtain ⟨hen, hbase, hrecs, hperiod, hcounters, hcores, hmem⟩ := ledgerSet_keeps s (getMb s k)
    refine ⟨_, exec_pmuCfgLedger_of_runs hop hruns, result_endsWith .., ?_⟩
    obtain ⟨l, hdelta⟩ := exists_setDelta_eq (ledgerSet s (getMb s k)) (pf (getMb s k) 5 1)
    refine ⟨(congrArg (·.pmu.ledEn) hdelta).trans hen, (congrArg (·.pmu.ledBase) hdelta).trans hbase,
      (congrArg (·.pmu.ledRecs) hdelta).trans hrecs, (congrArg (·.pmu.period) hdelta).trans hperiod, fun hkeep => ?_,
      (congrArg (·.cores) hdelta).trans hcores, (congrArg (·.mem) hdelta).trans hmem⟩
    rw [hkeep]
    exact hcounters
  case slips =>
    exact fun hop hruns => ⟨_, exec_pmuCfgSlips_of_runs hop hruns, result_endsWith .., rfl, rfl,
      fun c => vget_replicate_or_vset .., rfl, rfl⟩
  case filter =>
    exact fun hop hrun => ⟨_, exec_pmuCfgFilter_of_runs hop hrun, result_endsWith .., fun n => vget_vset_eq_ite .., rfl, rfl⟩
  case event =>
    exact fun hop hrun hwf => ⟨_, exec_pmuCfgEvent_of_runs hop hrun, result_endsWith ..,
      fun e => counterOf_modCounter hwf _ e (eventSet (getMb s k)), modCounter_cores .., modCounter_mem ..⟩
  case latch =>
    intro hen hrecs hpower
    refine ⟨exec_ledgerLatch_of_writing hen hrecs hpower, ?_⟩
    rintro hfree a rfl
    refine ⟨_, _, exec_ledgerLatch_of_free hen hrecs hpower hfree, rfl, rfl, rfl, recordLatched_ledHead .., recordLatched_cores ..,
      fun e he hdelta => ?_, fun x hx => ?_⟩
    · rw [recordLatched, counterOf_headerWaits] at hdelta ⊢
      exact cleared_of_delta _ he hdelta
    · rw [recordLatched_mem]
      rw [memGet_ledgerEntries (latched s) hx, latched_mem]
  case header =>
    exact fun a h hwriting => ⟨_, exec_ledgerHeaderWrite_of_writing hwriting, rfl, rfl, rfl,
      fun x hx => memGet_memWrite_other hx, fun hcanon i g => memGet_memWrite_same i g hcanon.1⟩
  case slip =>
    intro c q x lat hlat
    refine ⟨exec_callSlipWrite_of_off, fun hmask hrecs hjob => ⟨?_, ?_⟩⟩
    · subst hlat
      exact exec_callSlipWrite_of_short hmask hrecs hjob
    · rintro hmin a rfl
      have hlength := length_slipBytes s c q x lat
      refine ⟨_, exec_callSlipWrite_of_long hmask hrecs hjob hlat hmin, rfl, ?_, hlength, fun n hn => ?_, fun hcanon => ?_⟩
      · rw [modPmu_cores, putFresh_cores]
      · rw [modPmu_mem, putFresh_mem]
        exact memGet_memWrite_other (by rwa [hlength])
      · rw [modPmu_mem, putFresh_mem]
        simpa only [hlength] using memRead_memWrite (a := _) hcanon.1 (l := slipBytes s c q x lat)

end Sys2Proof.Machine
end

section
/-!
The events of a snapshot (R422 to R424). A layer that fails is entered by the snapshot's ID wherever a snapshot of that ID stands, so a committed
one of the same ID changes with the one in flight.
-/
namespace Sys2Proof.Machine

/-- A layer of a job's streaming snapshot fails (R424). -/
theorem exec_snapLayerFail_of_flying {s : State} {j : BitVec 6} {x : SnapCfg} {f : Snapshot} {layer : Fin 3}
    (hx : findCfg s j = some x) (hj : j ≠ 0) (hflying : x.flying = some f) (hstage : f.stage ≠ 1) :
    exec (.snapLayerFail j layer) s = .next (failLayer s j layer.val) := by
  have hstreams : j ≠ 0 ∧ x.flying.any (fun f => decide (f.stage ≠ 1)) = true := ⟨hj, by simpa [hflying] using hstage⟩
  have hexec : exec (.snapLayerFail j layer) s = execSnapLayerFail j layer s := rfl
  rw [hexec, execSnapLayerFail, hx]
  exact congrArg Host.Outcome.next (if_pos hstreams)

/-- A streaming snapshot whose only layer, the Duplicate, is its COMMIT. -/
def Tests.lone : Snapshot := { Tests.snap with stage := 2, layers := 1, data := 0, trailer := 0 }

/-- A configuration with that snapshot in flight, and one of the same ID committed before it. -/
def Tests.twice : SnapCfg := { Tests.cfg with flying := some Tests.lone, done := [Tests.lone] }

/-- The Duplicate has failed in the committed snapshot as well. -/
theorem failed_of_twice : (findCfg (failLayer (Tests.snapAt 4 Tests.twice 0 []) 1 0) 1).map (fun z => z.done.map (·.failed)) =
    some [1] := by decide +kernel

/-- Refutes O48: the last layer of COMMIT fails while a committed snapshot has the ID of the one in flight; the committed one is marked as
well, so DONE does not stay. -/
theorem not_snapshotEvents : ¬ Obligations.SnapshotEvents := by
  unfold Obligations.SnapshotEvents
  intro h
  have hfound : findCfg (Tests.snapAt 4 Tests.twice 0 []) 1 = some Tests.twice := by decide +kernel
  have hcores : ∀ y, findJob (Tests.snapAt 4 Tests.twice 0 []) 1 = some y → y.cores ≠ [] := by
    have hjob : (findJob (Tests.snapAt 4 Tests.twice 0 []) 1).map (·.cores) = some [0] := by decide +kernel
    intro y hy
    rw [hy, Option.map_some, Option.some_inj] at hjob
    simp [hjob]
  obtain ⟨-, hloss⟩ := (h _ 1 Tests.twice hfound).2.2 0 Tests.lone (by decide) rfl (by decide)
  obtain ⟨-, hcommit⟩ := hloss.2 (by decide) (by decide) rfl hcores
  obtain ⟨t, z, hexec, hz, -, hdone, -⟩ := (hcommit (by decide) none (by decide)).1 rfl
  have hrun : exec (.snapLayerFail 1 0) (Tests.snapAt 4 Tests.twice 0 []) =
      .next (failLayer (Tests.snapAt 4 Tests.twice 0 []) 1 0) :=
    exec_snapLayerFail_of_flying hfound (by decide) rfl (by decide)
  obtain rfl := Host.Outcome.next.inj (hrun.symm.trans hexec)
  have hfailed := failed_of_twice
  rw [hz, Option.map_some, hdone] at hfailed
  exact absurd hfailed (by decide)

end Sys2Proof.Machine
end

section
/-!
The snapshot commands (R420, R421, R423 to R427): SNAP_CFG SET, the three forms of SNAP_NOW, and RESTORE.
-/
namespace Sys2Proof.Machine

/-! ### The instructions -/

section
variable (s : State) (k : Fin 16)

theorem exec_snapCfgSet : exec (.snapCfgSet k) s = execSnapCfgSet k s := rfl
theorem exec_snapNowTake : exec (.snapNowTake k) s = execSnapNowTake k s := rfl
theorem exec_snapNowArchiveConfirm : exec (.snapNowArchiveConfirm k) s = execSnapNowArchiveConfirm k s := rfl
theorem exec_snapNowAbandon : exec (.snapNowAbandon k) s = execSnapNowAbandon k s := rfl
theorem exec_restore : exec (.restore k) s = execRestore k s := rfl

end

/-! ### Configurations -/

section
variable {s t : State} {i : BitVec 6} {x : SnapCfg}

theorem job_of_findCfg (h : findCfg s i = some x) : x.job = i := by simpa using List.find?_some h

theorem findCfg_resil (h : t.resil = s.resil) (i : BitVec 6) : findCfg t i = findCfg s i := by
  rw [findCfg, findCfg, h]

theorem findCfg_ends (s : State) (k : Fin 16) (st : BitVec 16) (l : List Byte) (i : BitVec 6) :
    findCfg (ends s k st l) i = findCfg s i := rfl

end

/-! ### SNAP_CFG SET (R421) -/

section
variable {s : State} {k : Fin 16} {j : Job}

/-- The configuration c of job j in place of any other of it, and of one of its image that has lost its job. -/
def configured (s : State) (j : Job) (c : SnapCfg) : State :=
  modResil s fun r => { r with
    snaps := (r.snaps.filter fun x => x.job != j.id && !(x.job == 0 && x.imageId == j.imageId)) ++ [c] }

theorem exec_snapCfgSet_of_runs (hj : jobNamed s (getMb s k) = some j) (hop : pf (getMb s k) 1 1 = 0)
    (hruns : s.Runs k 0x70 snapCfgAllow) : exec (.snapCfgSet k) s =
      .next (ends (noted (configured s j (cfgOf s j (getMb s k)))) k 0 (leBytes 8 (jobManifest j (cfgOf s j (getMb s k))))) := by
  rw [exec_snapCfgSet, execSnapCfgSet, commandOp_of_passed hop hruns]
  simp only [hj]
  rfl

theorem job_cfgOf (s : State) (j : Job) (m : Mailbox) : (cfgOf s j m).job = j.id := by
  unfold cfgOf
  cases hold : findCfg s j.id with
  | some c =>
    have hjob := job_of_findCfg hold
    exact hjob
  | none =>
    dsimp only
    split <;> rfl

variable {c : SnapCfg} (hc : c.job = j.id)
include hc

theorem findCfg_configured_same : findCfg (configured s j c) j.id = some c := by
  have hnone : (s.resil.snaps.filter fun x => x.job != j.id && !(x.job == 0 && x.imageId == j.imageId)).find?
      (fun x => x.job == j.id) = none := by
    rw [List.find?_eq_none]
    rintro x hx hjob
    have hout := (List.mem_filter.mp hx).2
    simp [eq_of_beq hjob] at hout
  rw [findCfg, configured, modResil_resil, List.find?_append, hnone]
  simp [hc]

theorem findCfg_configured_other {i : BitVec 6} (hi : i ≠ j.id) (hzero : i ≠ 0) : findCfg (configured s j c) i = findCfg s i := by
  have hkept : (fun x : SnapCfg => decide ((x.job != j.id && !(x.job == 0 && x.imageId == j.imageId)) = true ∧
      (x.job == i) = true)) = fun x => x.job == i := by
    funext x
    by_cases hx : x.job = i
    · simpa [hx, hi] using Or.inl hzero
    · simp [hx]
  have hnew : [c].find? (fun x => x.job == i) = none := by simp [hc, Ne.symm hi]
  rw [findCfg, configured, modResil_resil, List.find?_append, hnew, Option.or_none, List.find?_filter, hkept, findCfg]

end

/-! ### SNAP_NOW (R420, R423, R424) -/

section
variable {s : State} {k : Fin 16} {j : Job} {x : SnapCfg} {f : Snapshot}

/-- The configuration's snapshot is due at the next STEPEND (R420). -/
def SnapCfg.due (x : SnapCfg) : SnapCfg := { x with nowDue := true }

/-- The STEPENDs that wait at a configuration's boundary complete. -/
def SnapCfg.released (x : SnapCfg) : SnapCfg := { x with arrived := [] }

theorem length_snapNowResp (id : BitVec 32) : (snapNowResp id).length = 8 := by
  rw [snapNowResp, List.length_append, length_leBytes]
  rfl

theorem result_snapNow (u : State) (k : Fin 16) (id : BitVec 32) : (getMb (ends u k 0 (snapNowResp id)) k).result =
    some (0, leBytes 4 id.toNat ++ [0, 0, 0, 0], 8) := by
  rw [ends, result_endsWith, length_snapNowResp]
  rfl

variable (hj : jobNamed s (getMb s k) = some j) (hx : findCfg s j.id = some x)
include hj hx

theorem namedCfg : ((jobNamed s (getMb s k)).bind fun j => findCfg s j.id) = some x := by
  rw [hj]
  exact hx

theorem exec_snapNowTake_of_runs (hop : pf (getMb s k) 1 1 = 0) (hruns : s.Runs k 0x71 (snapConfigured [3, 4, 5])) :
    exec (.snapNowTake k) s = .next (ends (noted (modCfg s j.id SnapCfg.due)) k 0 (snapNowResp x.nextId)) := by
  rw [exec_snapNowTake, execSnapNowTake, commandOp_of_passed hop hruns]
  simp only [namedCfg hj hx, job_of_findCfg hx]
  rfl

section
variable (hop : pf (getMb s k) 1 1 = 1) (hruns : s.Runs k 0x71 archiveAllow) (hf : archiveTarget x (getMb s k) = some f)
include hop hruns hf

/-- The host confirms to the archive what has been written: the data, the trailer, or both (R423). -/
theorem exec_snapNowArchiveConfirm_of_runs : exec (.snapNowArchiveConfirm k) s = .next (ends
    (if f.trailerRec.isEmpty then (if awaitsLayer f 2 false then confirmLayer s j.id f 2 false else s)
      else confirmLayer (if awaitsLayer f 2 false then confirmLayer s j.id f 2 false else s) j.id f 2 true) k 0 (snapNowResp f.id)) := by
  rw [exec_snapNowArchiveConfirm, execSnapNowArchiveConfirm, commandOp_of_passed hop hruns]
  simp only [namedCfg hj hx, hf, job_of_findCfg hx]

theorem exec_snapNowArchiveConfirm_of_data (hdata : awaitsLayer f 2 false = true) (hnone : f.trailerRec = []) :
    exec (.snapNowArchiveConfirm k) s = .next (ends (confirmLayer s j.id f 2 false) k 0 (snapNowResp f.id)) := by
  rw [exec_snapNowArchiveConfirm_of_runs hj hx hop hruns hf, if_pos (List.isEmpty_iff.mpr hnone), if_pos hdata]

theorem exec_snapNowArchiveConfirm_of_trailer (hdata : awaitsLayer f 2 false = false) (hsome : f.trailerRec ≠ []) :
    exec (.snapNowArchiveConfirm k) s = .next (ends (confirmLayer s j.id f 2 true) k 0 (snapNowResp f.id)) := by
  rw [exec_snapNowArchiveConfirm_of_runs hj hx hop hruns hf, if_neg (mt List.isEmpty_iff.mp hsome), hdata]
  rfl

end

/-- A freezing snapshot that is abandoned lets its STEPENDs go (R424). -/
theorem exec_snapNowAbandon_of_freezing (hop : pf (getMb s k) 1 1 = 2) (hruns : s.Runs k 0x71 abandonAllow)
    (hflying : x.flying = some f) (hstage : f.stage = 1) : exec (.snapNowAbandon k) s =
      .next (ends (noted (modCfg (modCfg s j.id SnapCfg.stopped) j.id SnapCfg.released)) k 0
        (snapNowResp (BitVec.ofNat 32 (pf (getMb s k) 4 4)))) := by
  have hfreezing : x.flying.any (fun f => f.stage == 1) = true := by simpa [hflying] using hstage
  rw [exec_snapNowAbandon, execSnapNowAbandon, commandOp_of_passed hop hruns]
  simp only [namedCfg hj hx, job_of_findCfg hx, hfreezing, if_true]
  rfl

end

/-! ### The start of a job -/

/-- What neither a job's cores nor the job list show, a start leaves (R331). -/
theorem startJob_keeps {β : Type} {g : State → β} {s : State} {j : Job} (hg : OutsideCores j.cores g)
    (hjob : ∀ s f, g (modJob s j.id f) = g s) : g (startJob s j) = g s := by
  obtain ⟨v, hstart, hkeeps, -⟩ := startJob_eq s j
  rw [hstart, hg.noted, hjob, hkeeps hg]

/-- A job that starts is RUNNING and its cores run (R331). -/
theorem startJob_running {s : State} {j : Job} (h : findJob s j.id = some j) :
    (∃ y, findJob (startJob s j) j.id = some y ∧ y.state = 4) ∧ ∀ c ∈ j.cores, (getCore (startJob s j) c).st = .running := by
  obtain ⟨v, hstart, hkeeps, hcores⟩ := startJob_eq s j
  have hjobs : findJob v j.id = some j := (findJob_reg (hkeeps (outsideCores_reg _ (·.jobs) fun _ _ => rfl)) _).trans h
  rw [hstart]
  refine ⟨⟨_, (findJob_reg (noted_jobs _) _).trans (find_modJob (fun _ => rfl) hjobs), rfl⟩, fun c hc => ?_⟩
  rw [getCore_cores (noted_cores _)]
  obtain ⟨⟨hst, -⟩, -⟩ := hcores c hc
  exact hst

theorem outsideCores_resil (l : List CoreId) : OutsideCores l (·.resil) where
  core _ _ _ _ := rfl
  lacing _ _ := rfl
  tiers _ _ := rfl
  power _ _ := rfl
  full _ _ _ := rfl
  free _ := rfl
  noted := noted_resil

/-! ### RESTORE (R426, R427) -/

theorem pasteRanges_keeps {β : Type} (g : State → β) (h : ∀ (s : State) m p, g { s with mem := m, poison := p } = g s)
    (img : List (Nat × Byte)) : ∀ (l : List (Nat × Nat)) (off : Nat) (s : State), g (pasteRanges s img off l) = g s
  | [], _, _ => rfl
  | r :: l, off, s => by
    rw [pasteRanges, pasteRanges_keeps g h img l]
    exact h ..

theorem sendTracked_keeps {β : Type} {g : State → β} (h : ∀ s f, g (modEyes s f) = g s) (s : State) (x : Session) (p : Packet)
    (core : Option (CoreId × SeqId)) : g (sendTracked s x p core) = g s := by
  have hsession : ∀ (s : State) n f, g (modSession s n f) = g s := fun s n f => h s _
  unfold sendTracked
  split
  · exact hsession ..
  · unfold emit
    split
    · exact hsession ..
    · exact (h _ _).trans (hsession ..)

theorem readPartner_keeps {β : Type} {g : State → β} (h : ∀ s f, g (modEyes s f) = g s) (s : State) (a n : Nat) :
    g (readPartner s a n) = g s := by
  unfold readPartner
  split
  · rfl
  · exact sendTracked_keeps h ..

/-- The RESTORE of a mailbox, before its bytes are here or have been judged. -/
def restoreOf (k : Fin 16) (f : Snapshot) (src slot : Nat) : Restore := {
  mb := k, snap := f, source := src, left := if src = 0 then List.range (snapBytes f / 64) else []
  got := if src = 0 then [] else f.image, bad := false, bare := decide (slot = 2), replay := false, realigned := 0 }

/-- The configuration's RESTORE is r. -/
def SnapCfg.restoring (x : SnapCfg) (r : Option Restore) : SnapCfg := { x with restore := r }

/-- A RESTORE has begun: its mailbox waits and the configuration holds it. -/
def restoreBegun (s : State) (k : Fin 16) (i : BitVec 6) (r : Restore) : State :=
  modCfg (waits s k) i fun x => x.restoring (some r)

/-- The reads that fetch a snapshot from the partner (R418). -/
def partnerAsked (s : State) (f : Snapshot) : State :=
  (List.range (cdiv (snapBytes f) 4096)).foldl
    (fun s i => readPartner s (dupBase s f.half + 4096 * i) (min 4096 (snapBytes f - 4096 * i))) s

theorem partnerAsked_keeps {β : Type} {g : State → β} (h : ∀ s f, g (modEyes s f) = g s) (s : State) (f : Snapshot) :
    g (partnerAsked s f) = g s :=
  foldl_field g (fun _ _ => readPartner_keeps h ..) _ _

theorem waiting_restoreBegun (s : State) (k : Fin 16) (i : BitVec 6) (r : Restore) :
    (getMb (restoreBegun s k i r) k).waiting = true := congrArg Mailbox.waiting (getMb_modMb_same s k _)

theorem findCfg_restoreBegun {s : State} {i : BitVec 6} {x : SnapCfg} (hx : findCfg s i = some x) (k : Fin 16) (r : Restore) :
    findCfg (restoreBegun s k i r) i = some (x.restoring (some r)) :=
  findCfg_modCfg (s := waits s k) (f := fun x => x.restoring (some r)) (fun _ => rfl) hx

section
variable {s : State} {k : Fin 16} {j : Job} {x : SnapCfg} {f : Snapshot} (hj : jobNamed s (getMb s k) = some j)
  (hx : findCfg s j.id = some x) (hruns : s.Runs k 0x72 restoreAllow) (hf : restoreSnap x (pf (getMb s k) 2 1) = some f)
include hj hx hruns hf

/-- RESTORE asks the partner for its bytes, or has them from the vault or the archive (R426). -/
theorem exec_restore_of_runs : exec (.restore k) s = .next (
    let u := restoreBegun s k j.id (restoreOf k f (pf (getMb s k) 1 1) (pf (getMb s k) 2 1))
    if pf (getMb s k) 1 1 = 0 then partnerAsked u f else applyRestore u j.id) := by
  rw [exec_restore, execRestore, command_of_passed hruns.1 hruns.2]
  simp only [namedCfg hj hx, hf, job_of_findCfg hx]
  rfl

theorem exec_restore_of_duplicate (hsrc : pf (getMb s k) 1 1 = 0) : exec (.restore k) s =
    .next (partnerAsked (restoreBegun s k j.id (restoreOf k f (pf (getMb s k) 1 1) (pf (getMb s k) 2 1))) f) :=
  (exec_restore_of_runs hj hx hruns hf).trans (congrArg Host.Outcome.next (if_pos hsrc))

theorem exec_restore_of_layer (hsrc : pf (getMb s k) 1 1 ≠ 0) : exec (.restore k) s =
    .next (applyRestore (restoreBegun s k j.id (restoreOf k f (pf (getMb s k) 1 1) (pf (getMb s k) 2 1))) j.id) :=
  (exec_restore_of_runs hj hx hruns hf).trans (congrArg Host.Outcome.next (if_neg hsrc))

end

/-- The bytes of a restore's manifest (R422). -/
def Restore.manifest (r : Restore) : List Byte :=
  memRead r.got r.snap.size (manifestLen r.snap.rng.length r.snap.ranges r.snap.size)

/-- A manifest of w bytes checks: MAGIC, IMAGE_ID and CHECK (R422, R426). -/
def manifestSigned (j : Job) (x : SnapCfg) (man : List Byte) (w : Nat) : Prop :=
  man.take 4 = ascii "NZSN" ∧ leAt man 4 8 = j.imageId.toNat ∧ man.drop (w - 24) = (hmac384 (snapKey x) (man.take (w - 24))).take 24

/-- The chunks of a restore have the CRCs of its manifest (R422). -/
def Restore.chunksHold (r : Restore) : Bool :=
  (List.range (chunkCount r.snap.size)).all fun i =>
    (chunkCrc r.got r.snap.size i).toNat == leAt r.manifest (90 + 4 * r.snap.rng.length + 16 * r.snap.ranges + 4 * i) 4

/-- A core whose Welts start at the cursor's step (R427). -/
def CoreState.atCursor (k : CoreState) (step : BitVec 32) : CoreState := { k with welts := k.welts.map fun y => { y with step := step } }

/-- The record of the RNG counters that differed from the cursor (R427). -/
def driftNoted (s : State) (i : BitVec 6) (r : Restore) (drift : Nat × Nat) : State :=
  if drift.1 = 0 then s else snapRecord s i r.snap.id r.snap.step r.source 7 1 (leBytes 2 drift.1 ++ leBytes 4 drift.2)

/-- A restored job that runs its replayed step (R426 steps 1 to 5): the ranges are back, every Welt has the cursor's step. -/
def replaying (s : State) (j : Job) (r : Restore) : State :=
  let step := r.snap.step.setWidth 32
  let t := startJob (pasteRanges s r.got 0 (manifestRanges r.manifest r.snap.rng.length r.snap.ranges)) j
  driftNoted (changeCores (fun k => k.atCursor step) t j) j.id r (rngDrift r.snap.rng step)

section
variable {u : State} {j : Job} {z : SnapCfg} {r : Restore} (hjob : findJob u j.id = some j) (hz : findCfg u j.id = some z)
  (hr : z.restore = some r)
include hjob hz hr

theorem applyRestore_of_unsigned (hbad : ¬manifestSigned j z r.manifest (manifestLen r.snap.rng.length r.snap.ranges r.snap.size)) :
    applyRestore u j.id = failRestore u j.id r stBadSignature := by
  unfold applyRestore
  simp only [hjob, hz, hr]
  refine if_pos ?_
  simpa [manifestSigned, Restore.manifest, imp_iff_not_or, or_assoc] using hbad

theorem applyRestore_of_signed (hgood : manifestSigned j z r.manifest (manifestLen r.snap.rng.length r.snap.ranges r.snap.size))
    (hwhole : r.bad = false) (hcrcs : r.chunksHold = true) : applyRestore u j.id = modCfg (replaying u j r) j.id fun c =>
      c.restoring (some { r with replay := true, realigned := (rngDrift r.snap.rng (r.snap.step.setWidth 32)).1 }) := by
  obtain ⟨hmagic, himage, hcheck⟩ := hgood
  have hsigned : ¬(r.manifest.take 4 != ascii "NZSN" || leAt r.manifest 4 8 != j.imageId.toNat ||
      r.manifest.drop (manifestLen r.snap.rng.length r.snap.ranges r.snap.size - 24) != (hmac384 (snapKey z)
        (r.manifest.take (manifestLen r.snap.rng.length r.snap.ranges r.snap.size - 24))).take 24) = true := by
    simp [hmagic, himage, hcheck]
  have hchunks : ¬(r.bad || !r.chunksHold) = true := by simp [hwhole, hcrcs]
  unfold applyRestore
  simp only [hjob, hz, hr]
  exact (if_neg hsigned).trans (if_neg hchunks)

end

section
variable (u : State) (j : Job) (r : Restore)

/-- What neither the cores of a job nor the job, the memory or the records show, its replay leaves. -/
theorem replaying_keeps {β : Type} {g : State → β} (hg : OutsideCores j.cores g) (hjob : ∀ s f, g (modJob s j.id f) = g s)
    (hmem : ∀ (s : State) m p, g { s with mem := m, poison := p } = g s) (hrecord : ∀ s r, g (writeRecord s r) = g s) :
    g (replaying u j r) = g u := by
  have hstart : ∀ step t, g (changeCores (fun k => k.atCursor step) (startJob t j) j) = g t := fun step t =>
    (foldl_keeps_of_mem g fun c hc s => hg.core c hc s _).trans (startJob_keeps hg hjob)
  have hdrift : ∀ t d, g (driftNoted t j.id r d) = g t := fun t d => by
    unfold driftNoted
    split
    · rfl
    · exact hrecord ..
  rw [replaying, hdrift, hstart, pasteRanges_keeps g hmem]

theorem driftNoted_keeps (s : State) (i : BitVec 6) (d : Nat × Nat) : (driftNoted s i r d).cores = s.cores ∧
    (driftNoted s i r d).reg.jobs = s.reg.jobs := by
  unfold driftNoted
  split
  · exact ⟨rfl, rfl⟩
  · exact ⟨writeRecord_cores .., writeRecord_jobs ..⟩

theorem getCore_changeCores_mem {f : CoreState → CoreState} {p : CoreState → Prop} (h : ∀ k, p (f k)) (s : State) {c : CoreId}
    (hc : c ∈ j.cores) : p (getCore (changeCores f s j) c) :=
  have hsame : ∀ (s : State) (d : CoreId), d = c → p (getCore (modCore s d f) c) := by
    rintro s _ rfl
    rw [getCore_modCore_same]
    exact h _
  foldl_establishes id p hsame (fun s d hd => getCore_modCore_other s f hd) (.inr (by simpa using hc))

theorem getCore_changeCores_keeps {β : Type} (g : CoreState → β) {f : CoreState → CoreState} (h : ∀ k, g (f k) = g k) (s : State)
    (c : CoreId) : g (getCore (changeCores f s j) c) = g (getCore s c) :=
  foldl_field (fun s => g (getCore s c)) (fun s d => modCore_keeps g h s d c) _ _

variable {u j} in
/-- A replayed job is RUNNING, its cores run and every Welt has the cursor's step (R427). -/
theorem replaying_running (hjob : findJob u j.id = some j) : (∃ y, findJob (replaying u j r) j.id = some y ∧ y.state = 4) ∧
    ∀ c ∈ j.cores, (getCore (replaying u j r) c).st = .running ∧
      ∀ n, (getWelt (replaying u j r) c n).step = r.snap.step.setWidth 32 := by
  have hpasted : findJob (pasteRanges u r.got 0 (manifestRanges r.manifest r.snap.rng.length r.snap.ranges)) j.id = some j :=
    (findJob_reg (pasteRanges_keeps (·.reg.jobs) (fun _ _ _ => rfl) ..) _).trans hjob
  obtain ⟨⟨y, hy, hstate⟩, hcores⟩ := startJob_running hpasted
  unfold replaying
  extract_lets step t
  obtain ⟨hdcores, hdjobs⟩ := driftNoted_keeps r (changeCores (fun k => k.atCursor step) t j) j.id (rngDrift r.snap.rng step)
  refine ⟨⟨y, ?_, hstate⟩, fun c hc => ?_⟩
  · rw [findJob_reg hdjobs, findJob_changeCores]
    exact hy
  · rw [getCore_cores hdcores]
    have hst := getCore_changeCores_keeps j (·.st) (f := fun k => k.atCursor step) (fun _ => rfl) t c
    refine ⟨hst.trans (hcores c hc), fun n => ?_⟩
    rw [getWelt, getCore_cores hdcores]
    refine getCore_changeCores_mem j (p := fun k => (vget k.welts n).step = step) (fun k => ?_) t hc
    simp [CoreState.atCursor, vget]

end

/-- Settles O47: each command by the state it leaves, RESTORE by whether its bytes are here and its manifest checks. -/
theorem snapshotCommands : Obligations.SnapshotCommands := by
  unfold Obligations.SnapshotCommands
  rintro s k m j rfl hj
  refine ⟨fun hop hruns => ?set, fun x hx => ⟨fun hop hruns => ?take, fun hop hruns f hf => ?confirm,
    fun hop hruns f hflying hstage => ?abandon, fun hruns f hf => ⟨fun hsrc => ?duplicate, fun hsrc => ?layer⟩⟩⟩
  case set =>
    have hc := job_cfgOf s j (getMb s k)
    refine ⟨_, exec_snapCfgSet_of_runs hj hop hruns, noted_cores _, noted_mem _, ?_, fun i hi hzero => ?_, ?_⟩
    · rw [findCfg_ends, findCfg_resil (noted_resil _), findCfg_configured_same hc]
    · rw [findCfg_ends, findCfg_resil (noted_resil _), findCfg_configured_other hc hi hzero]
    · rw [ends, result_endsWith, length_leBytes]
      rfl
  case take =>
    obtain ⟨hcores, hmem, -, -, hcfg⟩ := ((State.Boundary.refl hx).modCfg SnapCfg.due fun _ => rfl).noted
    exact ⟨_, exec_snapNowTake_of_runs hj hx hop hruns, hcores, hmem, hcfg, result_snapNow ..⟩
  case confirm =>
    exact ⟨exec_snapNowArchiveConfirm_of_data hj hx hop hruns hf, exec_snapNowArchiveConfirm_of_trailer hj hx hop hruns hf⟩
  case abandon =>
    obtain ⟨hcores, hmem, -, -, hcfg⟩ := (((State.Boundary.refl hx).modCfg SnapCfg.stopped fun _ => rfl).modCfg
      SnapCfg.released fun _ => rfl).noted
    exact ⟨_, _, exec_snapNowAbandon_of_freezing hj hx hop hruns hflying hstage, hcfg, rfl, rfl, rfl, hcores, hmem,
      result_snapNow ..⟩
  case duplicate =>
    refine ⟨_, x.restoring _, restoreOf k f (pf (getMb s k) 1 1) (pf (getMb s k) 2 1),
      exec_restore_of_duplicate hj hx hruns hf hsrc, ?_, rfl, rfl, if_pos hsrc, rfl, ?_, ?_, ?_⟩
    · exact (findCfg_resil (partnerAsked_keeps (g := (·.resil)) (fun _ _ => rfl) ..) _).trans (findCfg_restoreBegun hx ..)
    · exact (partnerAsked_keeps (g := fun s => (getMb s k).waiting) (fun _ _ => rfl) ..).trans (waiting_restoreBegun ..)
    · exact partnerAsked_keeps (g := (·.cores)) (fun _ _ => rfl) ..
    · exact partnerAsked_keeps (g := (·.mem)) (fun _ _ => rfl) ..
  case layer =>
    rintro mlen man rfl rfl
    have hexec := exec_restore_of_layer hj hx hruns hf hsrc
    generalize hr : restoreOf k f (pf (getMb s k) 1 1) (pf (getMb s k) 2 1) = r at hexec
    have hjob : findJob (restoreBegun s k j.id r) j.id = some j := findJob_of_jobNamed hj
    have hcfg := findCfg_restoreBegun hx k r
    have hsnap : r.snap = f := by rw [← hr]; rfl
    have hgot : r.got = f.image := by rw [← hr]; exact if_neg hsrc
    have hman : r.manifest = memRead f.image f.size (manifestLen f.rng.length f.ranges f.size) := by
      rw [Restore.manifest, hgot, hsnap]
    have hmb : r.mb = k := by rw [← hr]; rfl
    refine ⟨fun hbad => ?unsigned, fun hmagic himage hcheck hcrcs => ?signed⟩
    case unsigned =>
      have hunsigned : ¬manifestSigned j (x.restoring (some r)) r.manifest
          (manifestLen r.snap.rng.length r.snap.ranges r.snap.size) := by
        rw [hman, hsnap]
        rintro ⟨hmagic, himage, hcheck⟩
        exact hbad.elim (· hmagic) fun h => h.elim (· himage) (· hcheck)
      rw [applyRestore_of_unsigned hjob hcfg rfl hunsigned] at hexec
      refine ⟨_, _, hexec, ?_, findCfg_modCfg (f := fun x => x.restoring none) (fun _ => rfl) hcfg, rfl, rfl, rfl⟩
      rw [failRestore, hmb]
      exact result_endsWith ..
    case signed =>
      have hsigned : manifestSigned j (x.restoring (some r)) r.manifest
          (manifestLen r.snap.rng.length r.snap.ranges r.snap.size) := by
        rw [hman, hsnap]
        exact ⟨hmagic, himage, hcheck⟩
      have hwhole : r.bad = false := by rw [← hr]; rfl
      have hchunks : r.chunksHold = true := by
        rw [Restore.chunksHold, hman, hgot, hsnap]
        exact hcrcs
      rw [applyRestore_of_signed hjob hcfg rfl hsigned hwhole hchunks] at hexec
      obtain ⟨⟨y, hy, hstate⟩, hcores⟩ := replaying_running r hjob
      have hresil := replaying_keeps (g := (·.resil)) (restoreBegun s k j.id r) j r (outsideCores_resil _) (fun _ _ => rfl)
        (fun _ _ _ => rfl) writeRecord_resil
      have hwaiting := replaying_keeps (g := fun s => (getMb s k).waiting) (restoreBegun s k j.id r) j r
        (outsideCores_reg _ (fun r => (vget r.mailboxes k).waiting) fun _ _ => rfl) (fun _ _ => rfl) (fun _ _ _ => rfl)
        (writeRecord_keeps_reg (fun r => (vget r.mailboxes k).waiting) fun _ _ _ _ _ _ => rfl)
      refine ⟨_, (x.restoring (some r)).restoring (some { r with
        replay := true, realigned := (rngDrift r.snap.rng (r.snap.step.setWidth 32)).1 }), _, y, hexec, hy, hstate, ?_, rfl, rfl,
        hwaiting.trans (waiting_restoreBegun ..), fun c hc => ?_⟩
      · exact findCfg_modCfg (f := fun x => x.restoring _) (fun _ => rfl) ((findCfg_resil hresil _).trans hcfg)
      · rw [← hsnap]
        exact hcores c hc

end Sys2Proof.Machine
end

section
/-!
Start-up (R381 to R395): what its steps leave of what the host, the boot ROM and the edge domains show.
-/
namespace Sys2Proof.Machine

/-! ### What start-up leaves -/

/-- A domain that start-up needs from its first steps: the management, base and edge domains (R342). -/
def edgeDomain (d : Fin 30) : Bool := d == 24 || d == 25 || d == 28 || d == 29

/-- The edge domains of a power block, the others blanked. -/
def edgeDoms (w : Power) (d : Fin 30) : PowerDomain := if edgeDomain d then vget w.doms d else PowerDomain.init

/-- What of a machine without jobs the steps of start-up between the boot ROM and READY leave. -/
structure Booted where
  jobs : List Job
  mem : List Host.Cell
  pins : Pins
  up : Bool
  mailboxes : Vector Mailbox 16
  devState : BitVec 32
  bootCount : BitVec 32
  resetDue : Bool
  active : Bool
  running : BitVec 32
  edge : Fin 30 → PowerDomain

/-- The view of a state that start-up leaves. -/
def State.booted (s : State) : Booted where
  jobs := s.reg.jobs
  mem := s.mem
  pins := s.pins
  up := s.pcie.up
  mailboxes := s.reg.mailboxes
  devState := s.reg.devState
  bootCount := s.reg.bootCount
  resetDue := s.reg.resetDue
  active := s.flash.active
  running := s.flash.running
  edge := edgeDoms s.power

/-- A view, field by field. -/
theorem booted_fields {s : State} {b : Booted} (h : s.booted = b) : s.reg.jobs = b.jobs ∧ s.mem = b.mem ∧ s.pins = b.pins ∧
    s.pcie.up = b.up ∧ s.reg.mailboxes = b.mailboxes ∧ s.reg.devState = b.devState ∧ s.reg.bootCount = b.bootCount ∧
    s.reg.resetDue = b.resetDue ∧ s.flash.active = b.active ∧ s.flash.running = b.running := by
  subst h
  exact ⟨rfl, rfl, rfl, rfl, rfl, rfl, rfl, rfl, rfl, rfl⟩

/-- Two states with the same Registrar apart from records, the same link, flash, power, pins and memory. -/
theorem booted_congr {s t : State} (hreg : (t.reg.jobs, t.reg.mailboxes, t.reg.devState, t.reg.bootCount, t.reg.resetDue) =
      (s.reg.jobs, s.reg.mailboxes, s.reg.devState, s.reg.bootCount, s.reg.resetDue))
    (hmem : t.mem = s.mem) (hpins : t.pins = s.pins) (hup : t.pcie.up = s.pcie.up) (hflash : t.flash = s.flash)
    (hpower : t.power = s.power) : t.booted = s.booted := by
  simp only [Prod.mk.injEq] at hreg
  obtain ⟨hjobs, hmailboxes, hdev, hboot, hdue⟩ := hreg
  simp only [State.booted, hjobs, hmailboxes, hdev, hboot, hdue, hmem, hpins, hup, hflash, hpower]

section
variable (s : State)

theorem raiseVec_up (fn : Fin 9) (v : Nat) : (raiseVec s fn v).pcie.up = s.pcie.up := by
  unfold raiseVec
  dsimp only
  split_ifs <;> rfl

theorem noted_up : (noted s).pcie.up = s.pcie.up := raiseVec_up ..

theorem writeRecord_up (r : ErrRec) : (writeRecord s r).pcie.up = s.pcie.up := by
  unfold writeRecord
  dsimp only
  split
  · split
    · rw [raiseVec_up, noted_up]
      rfl
    · rw [noted_up]
      rfl
  · rw [noted_up]
    rfl

theorem booted_noted : (noted s).booted = s.booted :=
  booted_congr (noted_keeps_reg (fun r => (r.jobs, r.mailboxes, r.devState, r.bootCount, r.resetDue)) (fun _ _ => rfl) s)
    (noted_mem s) (noted_pins s) (noted_up s) (noted_flash s) (noted_power s)

theorem booted_writeRecord (r : ErrRec) : (writeRecord s r).booted = s.booted :=
  booted_congr (writeRecord_keeps_reg (fun r => (r.jobs, r.mailboxes, r.devState, r.bootCount, r.resetDue))
      (fun _ _ _ _ _ _ => rfl) s r)
    (writeRecord_mem s r) (writeRecord_pins s r) (writeRecord_up s r) (writeRecord_flash s r) (writeRecord_power s r)

theorem booted_condAppend (u : BitVec 32) (x y : BitVec 8) (z : BitVec 16) (v : BitVec 32) :
    (condAppend s u x y z v).booted = s.booted := by
  unfold condAppend condWrite
  extract_lets unit entry field
  split
  · exact booted_writeRecord ..
  · rfl

theorem booted_failDevice : (failDevice s).booted = { s.booted with devState := 3 } := booted_noted _

theorem booted_forwardOnly (c : CoreId) : (forwardOnly s c).booted = s.booted := by
  unfold forwardOnly
  dsimp only
  split <;> rfl

theorem booted_modCore (c : CoreId) (f : CoreState → CoreState) : (modCore s c f).booted = s.booted := rfl

theorem booted_fenceCore (c : CoreId) : (fenceCore s c).booted = s.booted := booted_forwardOnly ..

/-- Without jobs the loss of a core shows in the core and in Lacing only. -/
theorem booted_loseCore {s : State} (hjobs : s.booted.jobs = []) (c : CoreId) : (loseCore s c).booted = s.booted := by
  unfold loseCore
  split
  · rfl
  · extract_lets s1 forwarded lacing rewritten t
    have hforwarded : forwarded.booted = s.booted := booted_forwardOnly s1 c
    have ht : t.booted = s.booted := (booted_noted _).trans hforwarded
    split
    · next j hj =>
      have hnone : findJob t j.id = none := by
        rw [findJob, show t.reg.jobs = [] from (congrArg Booted.jobs ht).trans hjobs]
        rfl
      rw [killJob, hnone]
      exact ht
    · exact ht

/-! ### The condition report, the licence and the board -/

theorem booted_reportLace (i : Nat) : (reportLace s i).booted = s.booted := by
  unfold reportLace
  dsimp only
  split <;> rfl

theorem booted_reportMem (kind i : Nat) : (reportMem s kind i).booted = s.booted := by
  unfold reportMem
  dsimp only
  split <;> rfl

theorem booted_reportPort (i : Nat) : (reportPort s i).booted = s.booted := by
  unfold reportPort
  split_ifs <;> rfl

theorem booted_reportCore (c : CoreId) (e : CondEntry) : (reportCore s c e).booted = s.booted := by
  unfold reportCore
  dsimp only
  split_ifs <;> rfl

theorem booted_applyEntry (e : CondEntry) : (applyEntry s e).booted = s.booted := by
  unfold applyEntry
  dsimp only
  split_ifs
  · exact booted_reportLace ..
  · exact booted_reportMem ..
  · exact booted_reportPort ..
  · rfl
  · rfl
  · split
    · exact booted_reportCore ..
    · rfl

theorem booted_provFailed (n : Nat) : (match coreAtField s n with
    | some c => condAppend s (unitWord 0 c.val 0) 0x01 4 0 0
    | none => s).booted = s.booted := by
  split
  · exact booted_condAppend ..
  · rfl

theorem booted_stackFailed (n : Nat) : ((List.range 32).foldl (fun s p => reportMem s 8 (p * 256 + n))
    (condAppend s (unitWord 8 15 n) 0x01 4 0 0)).booted = s.booted :=
  (foldl_field State.booted (fun _ _ => booted_reportMem ..) _ _).trans (booted_condAppend ..)

/-- A fold whose steps leave the view of a machine without jobs. -/
theorem booted_foldl {α : Type} {f : State → α → State} (h : ∀ s a, s.booted.jobs = [] → (f s a).booted = s.booted) :
    ∀ (l : List α) {s : State}, s.booted.jobs = [] → (l.foldl f s).booted = s.booted
  | [], _, _ => rfl
  | a :: l, s, hjobs => by
    have ha := h s a hjobs
    rw [List.foldl_cons, booted_foldl h l (by rw [ha]; exact hjobs), ha]

theorem booted_applyReport {s : State} (hjobs : s.booted.jobs = []) : (applyReport s).booted = s.booted := by
  unfold applyReport
  extract_lets r s1 lost s2 s3 s4 s5
  have h1 : s1.booted = s.booted := by
    simp only [s1]
    split
    · rfl
    · exact booted_writeRecord ..
  have h2 : s2.booted = s.booted := Eq.trans rfl h1
  have h3 : s3.booted = s.booted := (foldl_field State.booted booted_provFailed _ _).trans h2
  have h4 : s4.booted = s.booted := (foldl_field State.booted booted_stackFailed _ _).trans h3
  have h5 : s5.booted = s.booted := (foldl_field State.booted booted_applyEntry _ _).trans h4
  refine (booted_foldl (fun s n hs => ?_) _ (by rw [h5]; exact hjobs)).trans h5
  split
  · exact booted_loseCore hs _
  · rfl

theorem booted_applyLicence : (applyLicence s).booted = s.booted := by
  unfold applyLicence
  split
  · rfl
  · split
    · extract_lets t
      have ht : t.booted = s.booted := by
        simp only [t]
        split
        · split
          · exact booted_condAppend ..
          · rfl
        · rfl
      exact Eq.trans rfl ht
    · exact booted_writeRecord ..

theorem booted_applyBoard : (applyBoard s).booted = s.booted := by
  unfold applyBoard
  extract_lets t high u w
  have ht : t.booted = s.booted := by
    simp only [t]
    split
    · rfl
    · exact booted_writeRecord ..
  have hu : u.booted = t.booted := by
    simp only [u]
    split
    · exact booted_writeRecord ..
    · rfl
  exact Eq.trans rfl (hu.trans ht)

/-! ### Domains switched on -/

section
variable {s : State} {d e : Fin 30}

/-- A domain that is switched on, with its voltage (R343). -/
def PowerDomain.on (x : PowerDomain) (mv : BitVec 12) : PowerDomain := { x with state := 1, clamp := false, mv := mv }

theorem powerOn_of_latched (h : (vget s.power.doms d).latched = true) : powerOn s d = s := if_pos h

theorem powerOn_of_free (h : (vget s.power.doms d).latched = false) : ∃ (n : Nat) (mv : BitVec 12),
    powerOn s d = modDom { s with openCtr := n } d fun x => x.on mv := by
  unfold powerOn
  rw [h]
  by_cases hd : d = 24
  · subst hd
    exact ⟨_, _, rfl⟩
  · simp only [Bool.false_eq_true, if_false, hd]
    exact ⟨_, _, rfl⟩

theorem vget_powerOn_other (h : d ≠ e) : vget (powerOn s d).power.doms e = vget s.power.doms e := by
  cases hlatched : (vget s.power.doms d).latched with
  | true => rw [powerOn_of_latched hlatched]
  | false =>
    obtain ⟨n, mv, hon⟩ := powerOn_of_free hlatched
    rw [hon]
    exact vget_vmod_other _ _ h

theorem domainUp_powerOn_same (h : (vget s.power.doms d).latched = false) : domainUp (powerOn s d) d = true := by
  obtain ⟨n, mv, hon⟩ := powerOn_of_free h
  rw [hon, domainUp, modDom, vget_vmod_same]
  rfl

theorem domainUp_powerOn_of_up (h : domainUp s e = true) : domainUp (powerOn s d) e = true := by
  by_cases hd : d = e
  · subst hd
    cases hlatched : (vget s.power.doms d).latched with
    | true => rw [powerOn_of_latched hlatched, h]
    | false => exact domainUp_powerOn_same hlatched
  · rw [domainUp, vget_powerOn_other hd]
    exact h

/-- A domain switched on shows in the edge domains only. -/
theorem exists_booted_powerOn (s : State) (d : Fin 30) : ∃ x, (powerOn s d).booted = { s.booted with edge := x } := by
  cases hlatched : (vget s.power.doms d).latched with
  | true => exact ⟨s.booted.edge, by rw [powerOn_of_latched hlatched]⟩
  | false =>
    obtain ⟨n, mv, hon⟩ := powerOn_of_free hlatched
    exact ⟨_, by rw [hon]; rfl⟩

theorem booted_powerOn_inner (h : edgeDomain d = false) : (powerOn s d).booted = s.booted := by
  obtain ⟨x, hx⟩ := exists_booted_powerOn s d
  have hedge : (powerOn s d).booted.edge = s.booted.edge := by
    funext e
    simp only [State.booted, edgeDoms]
    split
    · next he =>
      have hd : d ≠ e := fun hd => by simp [hd, he] at h
      exact vget_powerOn_other hd
    · rfl
  rw [hx] at hedge ⊢
  rw [show x = s.booted.edge from hedge]

end

/-! ### The cores and the HBM stacks -/

theorem edgeDomain_of_lt {d : Fin 30} (h : d.val < 24) : edgeDomain d = false := by
  revert d
  decide

theorem edgeDomain_coreDomain (c : CoreId) : edgeDomain (coreDomain s c) = false :=
  edgeDomain_of_lt (Nat.lt_of_le_of_lt (Nat.mod_le ..) (Nat.lt_trans (fieldOf s c).isLt (by decide)))

theorem edgeDomain_stkDomain (c : CoreId) : edgeDomain (stkDomain s c) = false :=
  edgeDomain_of_lt (Nat.lt_of_le_of_lt (Nat.mod_le ..) (Nat.add_lt_add_left (fieldOf s c).isLt 12))

theorem booted_powerCore (c : CoreId) : (powerCore s c).booted = s.booted := by
  unfold powerCore
  split
  · rfl
  · extract_lets t
    have ht : t.booted = s.booted :=
      (booted_powerOn_inner (edgeDomain_coreDomain ..)).trans (booted_powerOn_inner (edgeDomain_stkDomain ..))
    split
    · rw [booted_modCore, ht]
    · rw [booted_modCore, booted_fenceCore, ht]

theorem booted_loadAgents : (loadAgents s).booted = s.booted := rfl

theorem booted_powerTiers : (powerTiers s).booted = s.booted := by
  unfold powerTiers
  extract_lets t u ready waits
  have ht : t.booted = s.booted := by
    simp only [t]
    split
    · exact booted_powerOn_inner (by decide)
    · rfl
  have hu : u.booted = s.booted := by
    refine Eq.trans ?_ ht
    simp only [u]
    split
    · exact booted_powerOn_inner (by decide)
    · rfl
  split
  · have hcores : ((allFin 12).foldl powerCore u).booted = u.booted := foldl_field State.booted booted_powerCore _ _
    rw [booted_loadAgents, hcores, hu]
  · exact hu

end

/-! ### The boot ROM (R386, R388) -/

section
variable {s u : State} {other : Bool}

theorem booted_bootSlot (h : bootSlot s other = some u) :
    u.booted = { s.booted with active := u.flash.active, running := u.flash.running } := by
  unfold bootSlot at h
  dsimp only at h
  split at h
  · split_ifs at h
    · obtain rfl := Option.some.inj h
      rfl
    · obtain rfl := Option.some.inj h
      rfl
  · split_ifs at h
    · obtain rfl := Option.some.inj h
      rfl
    · obtain rfl := Option.some.inj h
      rw [firmwareRecord, writeRecord_flash]
      exact booted_writeRecord ..
    · obtain rfl := Option.some.inj h
      rfl

/-- The active slot boots where it passes. -/
theorem bootSlot_active (hpending : s.flash.pending = none) (hpass : slotPasses s.flash s.flash.active = true) :
    ∃ u, bootSlot s false = some u ∧ u.flash.active = s.flash.active ∧
      u.flash.running = (fwSlot s.flash s.flash.active).version ∧ u.power = s.power := by
  unfold bootSlot
  simp only [hpending, hpass, Bool.not_false, Bool.and_true, if_true]
  exact ⟨_, rfl, rfl, rfl, rfl⟩

/-- The other slot boots where it passes and the active one did not reach READY (R383). -/
theorem bootSlot_other (hpending : s.flash.pending = none) (hpass : slotPasses s.flash (!s.flash.active) = true) :
    ∃ u, bootSlot s true = some u ∧ u.flash.active = (!s.flash.active) ∧
      u.flash.running = (fwSlot s.flash (!s.flash.active)).version := by
  unfold bootSlot
  simp only [hpending, hpass, Bool.not_true, Bool.and_false, Bool.false_eq_true, if_false, if_true]
  refine ⟨_, rfl, ?_, ?_⟩
  · rw [firmwareRecord, writeRecord_flash]
    rfl
  · rw [firmwareRecord, writeRecord_flash]
    rfl

theorem bootSlot_none (hpending : s.flash.pending = none) (hfail : ∀ b, slotPasses s.flash b = false) :
    bootSlot s other = none := by
  unfold bootSlot
  simp only [hpending, hfail, Bool.false_and, Bool.false_eq_true, if_false]

end

/-! ### Start-up, from the boot ROM on -/

section
variable {s u : State} {other : Bool}

theorem startUp_of_none (h : bootSlot s other = none) : (startUp s other).booted = { s.booted with devState := 3 } := by
  rw [startUp, h]
  dsimp only
  rw [booted_failDevice, firmwareRecord, booted_writeRecord]

/-- The edge domains on, after the boot ROM (R342). -/
def edgesOn (u : State) : State := powerOn (powerOn u 24) 29

theorem exists_booted_edgesOn (u : State) : ∃ x, (edgesOn u).booted = { u.booted with edge := x } := by
  obtain ⟨x, hx⟩ := exists_booted_powerOn u 24
  obtain ⟨y, hy⟩ := exists_booted_powerOn (powerOn u 24) 29
  exact ⟨y, by rw [edgesOn, hy, hx]⟩

theorem startUp_of_some (h : bootSlot s other = some u) : startUp s other =
    if !domainUp (edgesOn u) 24 || !domainUp (edgesOn u) 25 || !domainUp (edgesOn u) 28 then
      failDevice (powerRecord (edgesOn u) 24 3 0 0 0)
    else powerTiers (applyLicence (applyReport (applyBoard (edgesOn u)))) := by
  rw [startUp, h]
  rfl

theorem booted_tiersUp (hjobs : u.booted.jobs = []) :
    (powerTiers (applyLicence (applyReport (applyBoard (edgesOn u))))).booted = (edgesOn u).booted := by
  obtain ⟨x, hx⟩ := exists_booted_edgesOn u
  have hnone : (applyBoard (edgesOn u)).booted.jobs = [] := by
    rw [booted_applyBoard, hx]
    exact hjobs
  rw [booted_powerTiers, booted_applyLicence, booted_applyReport hnone, booted_applyBoard]

/-- Start-up whose edge domains come up. -/
theorem booted_startUp_of_up (hjobs : s.booted.jobs = []) (h : bootSlot s other = some u)
    (hup : ∀ d : Fin 30, d = 24 ∨ d = 25 ∨ d = 28 → domainUp (edgesOn u) d = true) :
    (startUp s other).booted = (edgesOn u).booted := by
  have hbooted := booted_bootSlot h
  have hall : ¬(!domainUp (edgesOn u) 24 || !domainUp (edgesOn u) 25 || !domainUp (edgesOn u) 28) = true := by
    simp [hup 24, hup 25, hup 28]
  rw [startUp_of_some h, if_neg hall, booted_tiersUp (by rw [hbooted]; exact hjobs)]

/-- Start-up from a slot, whether its edge domains come up or not. -/
theorem exists_booted_startUp_of_some (hjobs : s.booted.jobs = []) (h : bootSlot s other = some u) :
    ∃ v x, (startUp s other).booted = { u.booted with devState := v, edge := x } := by
  have hbooted := booted_bootSlot h
  obtain ⟨x, hx⟩ := exists_booted_edgesOn u
  rw [startUp_of_some h]
  split
  · exact ⟨_, x, by rw [booted_failDevice, powerRecord, booted_writeRecord, hx]⟩
  · exact ⟨_, x, (booted_tiersUp (by rw [hbooted]; exact hjobs)).trans hx⟩

/-- What every start-up leaves: all but DEV_STATE, the slot that runs and the edge domains. -/
theorem exists_booted_startUp (hjobs : s.booted.jobs = []) (other : Bool) : ∃ v a r x,
    (startUp s other).booted = { s.booted with devState := v, active := a, running := r, edge := x } := by
  cases h : bootSlot s other with
  | none => exact ⟨3, _, _, _, startUp_of_none h⟩
  | some u =>
    obtain ⟨v, x, hx⟩ := exists_booted_startUp_of_some hjobs h
    exact ⟨v, _, _, x, by rw [hx, booted_bootSlot h]⟩

end

end Sys2Proof.Machine
end

section
/-!
PERST#, the watchdog, DEVICE_RESET and the removal of power (R296, R349, R381 to R385): what a whole-device reset keeps, and the start-up
that follows it.
-/
namespace Sys2Proof.Machine

/-! ### The instructions -/

section
variable (s : State)

theorem exec_perstAssert : exec .perstAssert s = execPerstAssert s := rfl
theorem exec_deviceResetStart : exec .deviceResetStart s = execDeviceResetStart s := rfl

end

/-! ### Every job killed and every domain off -/

section
variable {β : Type}

/-- A kill: of no job, of one that was killed before, or of one that runs (R334, R335). -/
theorem killJob_cases (s : State) (id : BitVec 6) (code op : BitVec 16) (unit : Nat × Nat × Nat) (q : Option SeqState) :
    killJob s id code op unit q = s ∨ (∃ r, killJob s id code op unit q = writeRecord s r) ∨ ∃ (j : Job) (f : Job → Job) (r : ErrRec),
      killJob s id code op unit q = writeRecord (stopSnaps (modJob (j.cores.foldl (fun s c => modCore s c scr) s) id f) id) r := by
  cases hj : findJob s id with
  | none => exact .inl (by rw [killJob, hj])
  | some j =>
    cases hk : j.killed with
    | true =>
      refine .inr (.inl ?_)
      unfold killJob
      rw [hj]
      dsimp only
      rw [if_pos hk]
      exact ⟨_, rfl⟩
    | false =>
      obtain ⟨f, r, -, heq⟩ := killJob_eq hj hk code op unit q
      exact .inr (.inr ⟨j, f, r, heq⟩)

/-- What of the Registrar a kill leaves: all but the jobs, the results of RESTOREs and the records. -/
theorem killJob_keeps_reg {g : Registrar → β} (hjobs : ∀ r l, g { r with jobs := l } = g r)
    (hmb : ∀ r k st, g { r with mailboxes := vmod r.mailboxes k fun m => { m with result := some (st, [], 0) } } = g r)
    (hrecord : ∀ r a b c d e, g { r with errNext := a, ring := b, errLost := c, journal := d, invGen := e } = g r)
    (s : State) (id : BitVec 6) (code op : BitVec 16) (unit : Nat × Nat × Nat) (q : Option SeqState) :
    g (killJob s id code op unit q).reg = g s.reg := by
  have hstop : ∀ s : State, g (stopSnaps s id).reg = g s.reg := fun s =>
    foldl_field (fun s => g s.reg) (fun s c => by split <;> [exact hmb ..; rfl]) _ s
  obtain h | ⟨r, h⟩ | ⟨j, f, r, h⟩ := killJob_cases s id code op unit q
  · rw [h]
  · rw [h]
    exact writeRecord_keeps_reg g hrecord ..
  · rw [h, writeRecord_keeps_reg g hrecord, hstop]
    exact (hjobs ..).trans (congrArg g (fold_jobs scr j.cores s))

theorem killJob_up (s : State) (id : BitVec 6) (code op : BitVec 16) (unit : Nat × Nat × Nat) (q : Option SeqState) :
    (killJob s id code op unit q).pcie.up = s.pcie.up := by
  obtain h | ⟨r, h⟩ | ⟨j, f, r, h⟩ := killJob_cases s id code op unit q
  · rw [h]
  · rw [h, writeRecord_up]
  · rw [h, writeRecord_up, stopSnaps_pcie]
    exact foldl_field (·.pcie.up) (f := fun s c => modCore s c scr) (fun _ _ => rfl) _ s

theorem powerDown_keeps_reg {g : Registrar → β} (hgen : ∀ r n, g { r with invGen := n } = g r) (s : State) (keep : List (Fin 30)) :
    g (powerDown s keep).reg = g s.reg :=
  foldl_field (fun s => g s.reg) (fun s d => by split <;> [rfl; exact domainOff_keeps_reg s d false g hgen]) _ _

theorem outsideUnits_pins : OutsideUnits (·.pins) :=
  ⟨⟨modCore_pins, modLacing_pins, modTiers_pins, fun _ _ _ => rfl⟩, fun _ _ _ => rfl, modEyes_pins, modPcie_pins⟩

theorem outsideParts_up : OutsideParts (·.pcie.up) := ⟨fun _ _ _ => rfl, fun _ _ => rfl, fun _ _ => rfl, fun _ _ _ => rfl⟩

/-- Only domain D28 holds the host link (R343). -/
theorem domainOff_up (s : State) {d : Fin 30} (h : d ≠ 28) (trip : Bool) : (domainOff s d trip).pcie.up = s.pcie.up := by
  have hgone : (domainGone s d).pcie.up = s.pcie.up := by
    unfold domainGone
    split
    · split
      · exact (outsideParts_up.fenceCore _ _).trans (outsideParts_up.absorb ..)
      · exact outsideParts_up.releaseWaiters ..
    · simp only [h, if_false]
      split_ifs <;> rfl
  exact (noted_up _).trans hgone

theorem powerDown_up (s : State) {keep : List (Fin 30)} (h : 28 ∈ keep) : (powerDown s keep).pcie.up = s.pcie.up := by
  refine foldl_keeps_of_mem (·.pcie.up) (fun d hd s => ?_)
  have hne : d ≠ 28 := by
    rintro rfl
    simp [h] at hd
  split
  · rfl
  · exact domainOff_up s hne false

end

/-- The machine before a whole-device reset: every job killed, the domains off but some (R381, R385). -/
def takenDown (s : State) (keep : List (Fin 30)) : State := powerDown (killAll s 0 (0, 15, 0)) keep

section
variable (s : State) (keep : List (Fin 30))

theorem takenDown_keeps_reg {β : Type} {g : Registrar → β} (hjobs : ∀ r l, g { r with jobs := l } = g r)
    (hmb : ∀ r k st, g { r with mailboxes := vmod r.mailboxes k fun m => { m with result := some (st, [], 0) } } = g r)
    (hrecord : ∀ r a b c d e, g { r with errNext := a, ring := b, errLost := c, journal := d, invGen := e } = g r) :
    g (takenDown s keep).reg = g s.reg :=
  (powerDown_keeps_reg (fun r n => hrecord r r.errNext r.ring r.errLost r.journal n) _ _).trans
    (killAll_keeps 0 (0, 15, 0) (fun s => g s.reg) (fun s id => killJob_keeps_reg hjobs hmb hrecord s id 0 0 (0, 15, 0) none) s)

theorem takenDown_pins : (takenDown s keep).pins = s.pins :=
  (powerDown_keeps outsideUnits_pins (fun _ _ _ => rfl) noted_pins _ _).trans
    (killAll_keeps 0 (0, 15, 0) (·.pins) (fun _ _ => killJob_pins ..) s)

theorem takenDown_up {keep : List (Fin 30)} (h : 28 ∈ keep) : (takenDown s keep).pcie.up = s.pcie.up :=
  (powerDown_up _ h).trans (killAll_keeps 0 (0, 15, 0) (·.pcie.up) (fun _ _ => killJob_up ..) s)

/-- A mailbox after a reset shows no result that a kill has put there (R296). -/
theorem afterReset_takenDown (k : Fin 16) : (getMb (takenDown s keep) k).afterReset = (getMb s k).afterReset := by
  refine takenDown_keeps_reg s keep (g := fun r => (vget r.mailboxes k).afterReset) (fun _ _ => rfl) (fun r j st => ?_)
    fun _ _ _ _ _ _ => rfl
  by_cases h : j = k
  · subst h
    dsimp only
    rw [vget_vmod_same]
    rfl
  · dsimp only
    rw [vget_vmod_other _ _ h]

/-! ### What a reset keeps -/

theorem vget_coldState_doms (d : Fin 30) : vget (coldState s false).power.doms d = (vget s.power.doms d).afterReset :=
  vget_foldl_each (fun _ => PowerDomain.afterReset) d _

theorem latched_afterReset (x : PowerDomain) : x.afterReset.latched = x.latched := by
  unfold PowerDomain.afterReset
  cases x.latched <;> rfl

/-- A domain after a reset is off, or latched off (R349). -/
theorem off_afterReset (x : PowerDomain) : x.afterReset.state = 0 ∨ (x.afterReset.state = 3 ∧ x.afterReset.latched = true) := by
  unfold PowerDomain.afterReset
  cases x.latched
  · exact .inl rfl
  · exact .inr ⟨rfl, rfl⟩

theorem getMb_coldState_host (k : Fin 16) : getMb (coldState s true) k = (getMb s k).afterReset := Vector.getElem_map ..

/-- What start-up finds after a reset: no job, no memory, the boot count and the flash as they were. -/
def coldBooted (s : State) (pins : Pins) (up : Bool) (mailboxes : Vector Mailbox 16) (edge : Fin 30 → PowerDomain) : Booted where
  jobs := []
  mem := []
  pins := pins
  up := up
  mailboxes := mailboxes
  devState := 0
  bootCount := s.reg.bootCount
  resetDue := false
  active := s.flash.active
  running := s.flash.running
  edge := edge

theorem booted_coldState (host : Bool) : (coldState s host).booted =
    coldBooted s s.pins (coldState s host).pcie.up (coldState s host).reg.mailboxes (coldState s host).booted.edge := by
  simp only [State.booted, coldState, coldBooted]
  rfl

theorem jobs_coldState (host : Bool) : (coldState s host).booted.jobs = [] := by
  rw [booted_coldState, coldBooted]

/-- The owner's key stays, its last counter is the highest one used, and the cores are as at reset (R381). -/
theorem coldState_owner (host : Bool) : (coldState s host).cores = State.reset.cores ∧ (coldState s host).reg.key = s.reg.key ∧
    (coldState s host).reg.lastCtr = s.reg.ctrHigh := by
  simp only [coldState, and_self]

theorem coldState_up_of_host : (coldState s true).pcie.up = s.pcie.up := by
  simp only [coldState, if_true]

/-! ### The domains and the clock at start-up -/

theorem booted_lockClock : (lockClock s).booted = s.booted := rfl

theorem powerOn_flash (d : Fin 30) : (powerOn s d).flash = s.flash := by
  cases h : (vget s.power.doms d).latched with
  | true => rw [powerOn_of_latched h]
  | false =>
    obtain ⟨n, mv, hon⟩ := powerOn_of_free h
    rw [hon]
    rfl

theorem sampleOwnclr_eq : ∃ c o key l h, sampleOwnclr s = modReg s fun r => { r with
    clrBoots := c, ownerState := o, key := key, lastCtr := l, ctrHigh := h } := by
  unfold sampleOwnclr
  split_ifs <;> exact ⟨_, _, _, _, _, rfl⟩

/-- The reference is there and the straps are sampled (R301, R363). -/
def strapsRead (s : State) : State := sampleOwnclr (lockClock s)

theorem booted_strapsRead : (strapsRead s).booted = s.booted := by
  obtain ⟨c, o, key, l, h, heq⟩ := sampleOwnclr_eq (lockClock s)
  rw [strapsRead, heq]
  rfl

theorem strapsRead_power : (strapsRead s).power = s.power := by
  obtain ⟨c, o, key, l, h, heq⟩ := sampleOwnclr_eq (lockClock s)
  rw [strapsRead, heq]
  rfl

theorem strapsRead_flash : (strapsRead s).flash = s.flash := by
  obtain ⟨c, o, key, l, h, heq⟩ := sampleOwnclr_eq (lockClock s)
  rw [strapsRead, heq]
  rfl

/-- An edge domain that the view shows. -/
theorem domainUp_of_edge {s t : State} (h : s.booted.edge = t.booted.edge) {d : Fin 30} (hd : edgeDomain d = true) :
    domainUp s d = domainUp t d := by
  have hdom := congrFun h d
  simp only [State.booted, edgeDoms, hd, if_true] at hdom
  rw [domainUp, domainUp, hdom]

end

/-! ### PERST# asserted (R271, R381) -/

/-- The PERST# pin set. -/
def perstSet (s : State) (b : Bool) : State := { s with pins := { s.pins with perst := b } }

theorem booted_perstSet (s : State) (b : Bool) : (perstSet s b).booted = { s.booted with pins := { s.pins with perst := b } } := rfl

/-- A reset as PERST# releases it. -/
theorem exists_booted_perstSet_cold (s : State) (b : Bool) : ∃ up mailboxes edge, (perstSet (coldState s false) b).booted =
    coldBooted s { s.pins with perst := b } up mailboxes edge :=
  ⟨_, _, _, by rw [booted_perstSet, booted_coldState]; rfl⟩

section
variable {s : State}

theorem exec_perstAssert_of_low (h : s.pins.perst = true) : exec .perstAssert s = .next s :=
  congrArg Host.Outcome.next (if_pos h)

theorem exec_perstAssert_of_high (h : s.pins.perst = false) :
    exec .perstAssert s = .next (perstSet (coldState (takenDown s []) false) true) := by
  have hhigh : ¬s.pins.perst = true := by simp [h]
  rw [exec_perstAssert, execPerstAssert, if_neg hhigh, perstSet, takenDown]

/-- The owner's key and counter and the boot count stay. -/
theorem takenDown_owner (s : State) (keep : List (Fin 30)) : (takenDown s keep).reg.key = s.reg.key ∧
    (takenDown s keep).reg.ctrHigh = s.reg.ctrHigh ∧ (takenDown s keep).reg.bootCount = s.reg.bootCount := by
  have h := takenDown_keeps_reg s keep (g := fun r => (r.key, r.ctrHigh, r.bootCount)) (fun _ _ => rfl) (fun _ _ _ => rfl)
    fun _ _ _ _ _ _ => rfl
  simpa only [Prod.mk.injEq] using h

/-! ### PERST# released (R381 to R384) -/

theorem exec_perstDeassert_of_high (h : s.pins.perst = false) : exec .perstDeassert s = .next s :=
  congrArg Host.Outcome.next (if_pos (by simp [h]))

/-- The first steps of a start-up after PERST#: D25, the clock, the straps and D28 (Table 16-1). -/
def firstSteps (s : State) : State := powerOn (strapsRead (powerOn (perstSet (coldState s false) false) 25)) 28

theorem firstSteps_flash (s : State) : (firstSteps s).flash = s.flash := by
  rw [firstSteps, powerOn_flash, strapsRead_flash, powerOn_flash]
  rfl

theorem exists_booted_firstSteps (s : State) :
    ∃ x, (firstSteps s).booted = { (perstSet (coldState s false) false).booted with edge := x } := by
  obtain ⟨x, hx⟩ := exists_booted_powerOn (perstSet (coldState s false) false) 25
  obtain ⟨y, hy⟩ := exists_booted_powerOn (strapsRead (powerOn (perstSet (coldState s false) false) 25)) 28
  exact ⟨y, by rw [firstSteps, hy, booted_strapsRead, hx]⟩

/-- A latch that was not set before the reset is not set after its first steps. -/
theorem latched_firstSteps {d : Fin 30} (h25 : d ≠ 25) (h28 : d ≠ 28) :
    (vget (firstSteps s).power.doms d).latched = (vget s.power.doms d).latched := by
  rw [firstSteps, vget_powerOn_other (Ne.symm h28), strapsRead_power, vget_powerOn_other (Ne.symm h25)]
  exact (congrArg PowerDomain.latched (vget_coldState_doms s d)).trans (latched_afterReset _)

section
variable (hlatched : (vget s.power.doms 25).latched = false)
include hlatched

theorem domainUp_cold25 : domainUp (powerOn (perstSet (coldState s false) false) 25) 25 = true :=
  domainUp_powerOn_same ((congrArg PowerDomain.latched (vget_coldState_doms s 25)).trans ((latched_afterReset _).trans hlatched))

theorem exec_perstDeassert_of_low (h : s.pins.perst = true) :
    exec .perstDeassert s = .next (endpointReady (startUp (firstSteps s) false)) := by
  have hperst : ¬(!s.pins.perst) = true := by simp [h]
  have hup : ¬(!domainUp (powerOn (perstSet (coldState s false) false) 25) 25) = true := by simp [domainUp_cold25 hlatched]
  exact congrArg Host.Outcome.next ((if_neg hperst).trans (if_neg hup))

theorem domainUp_firstSteps (h28 : (vget s.power.doms 28).latched = false) :
    domainUp (firstSteps s) 25 = true ∧ domainUp (firstSteps s) 28 = true := by
  have hstraps : domainUp (strapsRead (powerOn (perstSet (coldState s false) false) 25)) 25 = true := by
    rw [domainUp, strapsRead_power]
    exact domainUp_cold25 hlatched
  refine ⟨domainUp_powerOn_of_up hstraps, domainUp_powerOn_same ?_⟩
  rw [strapsRead_power, vget_powerOn_other (by decide)]
  exact (congrArg PowerDomain.latched (vget_coldState_doms s 28)).trans ((latched_afterReset _).trans h28)

end

/-- The edge domains of a machine whose latches are clear come up (R342). -/
theorem domainUp_edgesOn {u : State} (h24 : (vget u.power.doms 24).latched = false) (h29 : (vget u.power.doms 29).latched = false)
    (h25 : domainUp u 25 = true) (h28 : domainUp u 28 = true) :
    ∀ d : Fin 30, d = 24 ∨ d = 25 ∨ d = 28 ∨ d = 29 → domainUp (edgesOn u) d = true := by
  rintro d (rfl | rfl | rfl | rfl)
  · exact domainUp_powerOn_of_up (domainUp_powerOn_same h24)
  · exact domainUp_powerOn_of_up (domainUp_powerOn_of_up h25)
  · exact domainUp_powerOn_of_up (domainUp_powerOn_of_up h28)
  · exact domainUp_powerOn_same (by rw [vget_powerOn_other (by decide), h29])

/-- The start-up after PERST# from an active slot that passes, with no edge domain latched (R382). -/
theorem booted_startUp_firstSteps (hlatched : (vget s.power.doms 25).latched = false) (hpending : s.flash.pending = none)
    (hfree : ∀ d : Fin 30, d = 24 ∨ d = 28 ∨ d = 29 → (vget s.power.doms d).latched = false)
    (hpass : slotPasses s.flash s.flash.active = true) :
    (∃ x, (startUp (firstSteps s) false).booted = { (perstSet (coldState s false) false).booted with
      active := s.flash.active, running := (fwSlot s.flash s.flash.active).version, edge := x }) ∧
    ∀ d : Fin 30, d = 24 ∨ d = 25 ∨ d = 28 ∨ d = 29 → domainUp (startUp (firstSteps s) false) d = true := by
  have hflash := firstSteps_flash s
  obtain ⟨u, hu, hactive, hrunning, hpower⟩ := bootSlot_active (s := firstSteps s) (by rw [hflash, hpending]) (by rw [hflash, hpass])
  rw [hflash] at hactive hrunning
  obtain ⟨x, hx⟩ := exists_booted_firstSteps s
  obtain ⟨y, hy⟩ := exists_booted_edgesOn u
  have hjobs : (firstSteps s).booted.jobs = [] := by
    rw [hx]
    exact jobs_coldState s false
  obtain ⟨h25, h28⟩ := domainUp_firstSteps hlatched (hfree 28 (by decide))
  have hedges := domainUp_edgesOn (u := u)
    (by rw [hpower, latched_firstSteps (by decide) (by decide), hfree 24 (by decide)])
    (by rw [hpower, latched_firstSteps (by decide) (by decide), hfree 29 (by decide)])
    (by rw [domainUp, hpower]; exact h25) (by rw [domainUp, hpower]; exact h28)
  have hstart := booted_startUp_of_up hjobs hu fun d hd => hedges d (by obtain rfl | rfl | rfl := hd <;> decide)
  have hview : (startUp (firstSteps s) false).booted = { (perstSet (coldState s false) false).booted with
      active := s.flash.active, running := (fwSlot s.flash s.flash.active).version, edge := y } := by
    rw [hstart, hy, booted_bootSlot hu, hx, hactive, hrunning]
  refine ⟨⟨y, hview⟩, fun d hd => ?_⟩
  have hedge : edgeDomain d = true := by
    obtain rfl | rfl | rfl | rfl := hd <;> rfl
  have hsame := domainUp_of_edge (congrArg Booted.edge hstart) hedge
  rw [hsame, hedges d hd]

/-- The start-up after PERST# with no slot that passes (R386). -/
theorem booted_startUp_of_no_slot (hpending : s.flash.pending = none) (hfail : ∀ b, slotPasses s.flash b = false) :
    ∃ x, (startUp (firstSteps s) false).booted = { (perstSet (coldState s false) false).booted with devState := 3, edge := x } := by
  have hflash := firstSteps_flash s
  obtain ⟨x, hx⟩ := exists_booted_firstSteps s
  exact ⟨x, by rw [startUp_of_none (bootSlot_none (by rw [hflash, hpending]) (by rw [hflash]; exact hfail)), hx]⟩

/-! ### The watchdog (R383, R388) -/

/-- The machine as the watchdog restarts it, with the host link as it was (R383). -/
def restarted (s : State) : State := strapsRead (powerOn { coldState s true with pcie := s.pcie } 28)

theorem booted_modPcie (s : State) (p : Pcie) : State.booted { s with pcie := p } = { s.booted with up := p.up } := rfl

theorem exists_booted_restarted (s : State) :
    ∃ x, (restarted s).booted = coldBooted s s.pins s.pcie.up (coldState s true).reg.mailboxes x := by
  obtain ⟨x, hx⟩ := exists_booted_powerOn { coldState s true with pcie := s.pcie } 28
  have hcold := booted_modPcie (coldState s true) s.pcie
  rw [booted_coldState, coldBooted] at hcold
  exact ⟨x, by rw [restarted, booted_strapsRead, hx, hcold, coldBooted]⟩

theorem restarted_flash (s : State) : (restarted s).flash = s.flash := by
  rw [restarted, strapsRead_flash, powerOn_flash]
  rfl

theorem exec_startUpWatchdog_of_stuck (hperst : s.pins.perst = false) (hdev : s.reg.devState = 0) (hup : domainUp s 25 = true) :
    exec .startUpWatchdog s = .next (startUp (restarted s) true) :=
  congrArg Host.Outcome.next (if_neg (by simp [hperst, hdev, hup]))

/-- The other slot boots after the watchdog (R383). -/
theorem booted_startUp_restarted (hpending : s.flash.pending = none) (hpass : slotPasses s.flash (!s.flash.active) = true) :
    ∃ v x, (startUp (restarted s) true).booted = { coldBooted s s.pins s.pcie.up (coldState s true).reg.mailboxes x with
      devState := v, active := !s.flash.active, running := (fwSlot s.flash (!s.flash.active)).version } := by
  have hflash := restarted_flash s
  obtain ⟨u, hu, hactive, hrunning⟩ := bootSlot_other (s := restarted s) (by rw [hflash, hpending]) (by rw [hflash, hpass])
  rw [hflash] at hactive hrunning
  obtain ⟨x, hx⟩ := exists_booted_restarted s
  have hjobs : (restarted s).booted.jobs = [] := by rw [hx, coldBooted]
  obtain ⟨v, y, hy⟩ := exists_booted_startUp_of_some hjobs hu
  exact ⟨v, y, by rw [hy, booted_bootSlot hu, hx, hactive, hrunning]; rfl⟩

/-! ### DEVICE_RESET (R296, R385) -/

theorem exec_deviceResetStart_of_not_due (h : s.reg.resetDue = false) : exec .deviceResetStart s = .next s :=
  congrArg Host.Outcome.next (if_pos (by simp [h]))

/-- The whole-device reset of a machine that was taken down. -/
def deviceReset (s : State) : State := noted (startUp (lockClock (coldState (takenDown s [25, 28]) true)) false)

theorem exec_deviceResetStart_of_due (hdue : s.reg.resetDue = true)
    (hanswered : ∀ k, (getMb s k).code = 0xC5 → (getMb s k).result = none) : exec .deviceResetStart s = .next (deviceReset s) := by
  have hnone : s.reg.mailboxes.toList.any (fun m => m.code == 0xC5 && m.result.isSome) = false := by
    rw [toList_eq_map_vget, List.any_map, List.any_eq_false]
    intro k _
    have hk := hanswered k
    simp only [getMb] at hk
    simpa [Function.comp_apply] using hk
  have hgo : ¬(!s.reg.resetDue || s.reg.mailboxes.toList.any (fun m => m.code == 0xC5 && m.result.isSome)) = true := by
    rw [hdue, hnone]
    decide
  rw [exec_deviceResetStart, execDeviceResetStart, if_neg hgo, deviceReset, takenDown]

theorem exists_booted_deviceReset (s : State) : ∃ v a r x, (deviceReset s).booted =
    { coldBooted (takenDown s [25, 28]) (takenDown s [25, 28]).pins (coldState (takenDown s [25, 28]) true).pcie.up
        (coldState (takenDown s [25, 28]) true).reg.mailboxes x with devState := v, active := a, running := r } := by
  have hclock := booted_lockClock (coldState (takenDown s [25, 28]) true)
  obtain ⟨v, a, r, x, hx⟩ := exists_booted_startUp (s := lockClock (coldState (takenDown s [25, 28]) true))
    (by rw [hclock, jobs_coldState]) false
  exact ⟨v, a, r, x, by rw [deviceReset, booted_noted, hx, hclock, booted_coldState, coldBooted, coldBooted]⟩

/-! ### Power removal (R349, R450) -/

theorem exec_powerRemoval_of_high (h : s.pins.perst = false) : exec .powerRemoval s = .next s :=
  congrArg Host.Outcome.next (if_pos (by simp [h]))

theorem exec_powerRemoval_of_low (h : s.pins.perst = true) : exec .powerRemoval s = .next { coldState s false with
    power := { Power.init with compat := (coldState s false).power.compat, sent := (coldState s false).power.sent }
    thermal := Thermal.init } :=
  congrArg Host.Outcome.next (if_neg (by simp [h]))

end

end Sys2Proof.Machine
end

section
/-!
READY, the release of a core's reset and the HBM power-good inputs (R342, R382, R384, R387, R388, R398).
-/
namespace Sys2Proof.Machine

/-! ### The instructions -/

section
variable (s : State)

theorem exec_startUpReady (x : Training) : exec (.startUpReady x) s = execStartUpReady x s := rfl

end

/-! ### A core released from reset (R398) -/

/-- A core is released: IDLE and no longer fenced. -/
def CoreState.released (k : CoreState) : CoreState := { k with st := .idle, fenced := false }

/-- Both domains of a core are up. -/
def coreUp (s : State) (c : CoreId) : Bool := domainUp s (coreDomain s c) && domainUp s (stkDomain s c)

section
variable {s : State} {c d : CoreId}

theorem releaseCore_of_not (h : (getCore s c).st ≠ .reset ∨ coreUp s c = false) : releaseCore s c = s :=
  if_pos (by simpa [coreUp, or_assoc, imp_iff_not_or] using h)

theorem releaseCore_cores (hst : (getCore s c).st = .reset) (hup : coreUp s c = true) :
    (releaseCore s c).cores = (modCore s c CoreState.released).cores := by
  obtain ⟨hcore, hstk⟩ := Bool.and_eq_true_iff.mp hup
  have hgo : ¬(decide ((getCore s c).st ≠ .reset) || !domainUp s (coreDomain s c) || !domainUp s (stkDomain s c)) = true := by
    simp [hst, hcore, hstk]
  rw [releaseCore, if_neg hgo, liftFence_cores]
  exact vmod_vmod s.cores c (fun k => { k with st := .idle }) fun k => { k with fenced := false }

theorem getCore_releaseCore_same (hst : (getCore s c).st = .reset) (hup : coreUp s c = true) :
    getCore (releaseCore s c) c = (getCore s c).released := by
  rw [getCore_cores (releaseCore_cores hst hup), getCore_modCore_same]

theorem getCore_releaseCore_other (h : c ≠ d) : getCore (releaseCore s c) d = getCore s d := by
  by_cases hgo : (getCore s c).st = .reset ∧ coreUp s c = true
  · rw [getCore_cores (releaseCore_cores hgo.1 hgo.2), getCore_modCore_other _ _ h]
  · rw [releaseCore_of_not ((not_and_or.mp hgo).imp_right Bool.eq_false_of_not_eq_true)]

theorem OutsideParts.releaseCore {β : Type} {g : State → β} (hg : OutsideParts g) (s : State) (c : CoreId) :
    g (releaseCore s c) = g s := by
  unfold Machine.releaseCore
  split
  · rfl
  · exact (hg.liftFence ..).trans ((hg.region ..).trans (hg.core ..))

theorem outsideParts_domains (d : CoreId) : OutsideParts (coreUp · d) :=
  ⟨fun _ _ _ => rfl, fun _ _ => rfl, fun _ _ => rfl, fun _ _ _ => rfl⟩

theorem coreUp_releaseCore (s : State) (c d : CoreId) : coreUp (releaseCore s c) d = coreUp s d :=
  (outsideParts_domains d).releaseCore s c

/-- A core that waits in reset with its domains up is released with the others. -/
theorem getCore_foldl_releaseCore (hst : (getCore s d).st = .reset) (hup : coreUp s d = true) : ∀ {l : List CoreId}, d ∈ l → l.Nodup →
    getCore (l.foldl releaseCore s) d = (getCore s d).released := by
  have hrest : ∀ (l : List CoreId) (u : State), d ∉ l → getCore (l.foldl releaseCore u) d = getCore u d := fun l u hd =>
    foldl_keeps_of_mem (getCore · d) fun c hc u => getCore_releaseCore_other fun h => hd (h ▸ hc)
  intro l
  induction l generalizing s with
  | nil => exact fun h => absurd h List.not_mem_nil
  | cons c l ih =>
    intro hd hnodup
    obtain ⟨hc, hl⟩ := List.nodup_cons.mp hnodup
    rw [List.foldl_cons]
    by_cases h : c = d
    · subst h
      rw [hrest l _ hc, getCore_releaseCore_same hst hup]
    · have hsame : getCore (releaseCore s c) d = getCore s d := getCore_releaseCore_other h
      rw [ih (by rw [hsame, hst]) (by rw [coreUp_releaseCore, hup]) (List.mem_of_ne_of_mem (Ne.symm h) hd) hl, hsame]

/-- The scrub of a core's reset has ended, and the core is released (R398, R399). -/
def resetReleased (s : State) (c : CoreId) : State :=
  noted (releaseCore (scrubRange (modStk s c fun k => { k with scrub := 0 }) c (stkSize s c)) c)

theorem exec_resetRelease_of_reset (hst : (getCore s c).st = .reset) (hjob : (getCore s c).jobId = 0)
    (hhold : (getCore s c).stk.hold = false) (hup : coreUp s c = true) : exec (.resetRelease c) s = .next (resetReleased s c) := by
  obtain ⟨hcore, hstk⟩ := Bool.and_eq_true_iff.mp hup
  exact congrArg Host.Outcome.next (if_neg (by simp [hst, hjob, hhold, hcore, hstk]))

section
variable (hst : (getCore s c).st = .reset) (hup : coreUp s c = true)
include hst hup

theorem getCore_resetReleased_same :
    getCore (resetReleased s c) c = { (getCore s c).released with stk := { (getCore s c).stk with scrub := 0 } } := by
  have hscrub : getCore (scrubRange (modStk s c fun k => { k with scrub := 0 }) c (stkSize s c)) c =
      { getCore s c with stk := { (getCore s c).stk with scrub := 0 } } := getCore_modCore_same s c _
  have hreset : (getCore (scrubRange (modStk s c fun k => { k with scrub := 0 }) c (stkSize s c)) c).st = .reset := by
    rw [hscrub]
    exact hst
  rw [resetReleased, getCore_cores (noted_cores _), getCore_releaseCore_same hreset hup, hscrub]
  rfl

end

theorem getCore_resetReleased_other (h : d ≠ c) : getCore (resetReleased s c) d = getCore s d := by
  rw [resetReleased, getCore_cores (noted_cores _), getCore_releaseCore_other (Ne.symm h)]
  exact getCore_modCore_other s _ (Ne.symm h)

theorem memGet_resetReleased (s : State) (c : CoreId) (a : Nat) : memGet (resetReleased s c).mem a =
    if stacksAddr c 0 ≤ a ∧ a < stacksAddr c 0 + stkSize s c then 0 else memGet s.mem a := by
  rw [resetReleased, noted_mem, outsideParts_mem.releaseCore]
  refine (memGet_memErase s.mem (stacksAddr c 0) (stkSize s c) a).trans ?_
  by_cases h : stacksAddr c 0 ≤ a ∧ a < stacksAddr c 0 + stkSize s c
  · rw [if_neg (by omega), if_pos h]
  · rw [if_pos (by omega), if_neg h]

end

/-! ### The HBM power-good inputs (R342, R382) -/

/-- The PHY domain of a side. -/
def phyDomain (side : Fin 2) : Fin 30 := if side = 0 then 26 else 27

/-- The PHY domain of a side is switched on once its power-good input is high. -/
def phyOn (side : Fin 2) (s : State) : State := if hbmGood s side && !domainUp s (phyDomain side) then powerOn s (phyDomain side) else s

section
variable {s : State} {d : Fin 30} {side : Fin 2}

theorem powerTiers_eq (s : State) : powerTiers s = phyOn 1 (phyOn 0 s) ∨
    powerTiers s = loadAgents ((allFin 12).foldl powerCore (phyOn 1 (phyOn 0 s))) := by
  have hphy : phyOn 1 (phyOn 0 s) =
      (let s := if hbmGood s 0 && !domainUp s 26 then powerOn s 26 else s
       if hbmGood s 1 && !domainUp s 27 then powerOn s 27 else s) := rfl
  rw [hphy]
  unfold powerTiers
  extract_lets t u ready waits
  split
  · exact .inr rfl
  · exact .inl rfl

theorem phyOn_keeps {β : Type} (g : State → β) (h : ∀ s d, g (powerOn s d) = g s) (side : Fin 2) (s : State) : g (phyOn side s) = g s := by
  unfold phyOn
  split
  · exact h ..
  · rfl

theorem domainUp_phyOn_of_up (h : domainUp s d = true) : domainUp (phyOn side s) d = true := by
  unfold phyOn
  split
  · exact domainUp_powerOn_of_up h
  · exact h

theorem domainUp_phyOn_same (hgood : hbmGood s side = true) (hlatched : (vget s.power.doms (phyDomain side)).latched = false) :
    domainUp (phyOn side s) (phyDomain side) = true := by
  unfold phyOn
  cases hup : domainUp s (phyDomain side) with
  | true => simpa using hup
  | false =>
    rw [hgood]
    exact domainUp_powerOn_same hlatched

/-- What the switching on of a domain leaves of the power block: all but the domains. -/
theorem powerOn_hbmPg (s : State) (d : Fin 30) : (powerOn s d).power.hbmPg = s.power.hbmPg := by
  cases h : (vget s.power.doms d).latched with
  | true => rw [powerOn_of_latched h]
  | false =>
    obtain ⟨n, mv, hon⟩ := powerOn_of_free h
    rw [hon]
    rfl

theorem fenceCore_power (s : State) (c : CoreId) : (fenceCore s c).power = s.power := outsideUnits_power.toOutsideParts.fenceCore s c

/-- A core switched on changes of the power block what its two domains do. -/
theorem powerCore_power (s : State) (c : CoreId) : (powerCore s c).power = s.power ∨
    (powerCore s c).power = (powerOn (powerOn s (stkDomain s c)) (coreDomain s c)).power := by
  unfold powerCore
  split
  · exact .inl rfl
  · refine .inr ?_
    dsimp only
    split
    · rfl
    · exact fenceCore_power ..

theorem powerCore_hbmPg (s : State) (c : CoreId) : (powerCore s c).power.hbmPg = s.power.hbmPg := by
  obtain h | h := powerCore_power s c
  · rw [h]
  · rw [h, powerOn_hbmPg, powerOn_hbmPg]

theorem domainUp_powerCore (h : domainUp s d = true) (c : CoreId) : domainUp (powerCore s c) d = true := by
  obtain hpower | hpower := powerCore_power s c
  · rw [domainUp, hpower]
    exact h
  · rw [domainUp, hpower]
    exact domainUp_powerOn_of_up (domainUp_powerOn_of_up h)

theorem domainUp_foldl_powerCore : ∀ (l : List CoreId) {s : State}, domainUp s d = true → domainUp (l.foldl powerCore s) d = true
  | [], _, h => h
  | c :: l, _, h => domainUp_foldl_powerCore l (domainUp_powerCore h c)

theorem loadAgents_power (s : State) : (loadAgents s).power = s.power := rfl

theorem domainUp_powerTiers (h : domainUp (phyOn 1 (phyOn 0 s)) d = true) : domainUp (powerTiers s) d = true := by
  obtain heq | heq := powerTiers_eq s
  · rw [heq, h]
  · rw [heq, domainUp, loadAgents_power]
    exact domainUp_foldl_powerCore _ h

theorem powerTiers_hbmPg (s : State) : (powerTiers s).power.hbmPg = s.power.hbmPg := by
  have hphy : (phyOn 1 (phyOn 0 s)).power.hbmPg = s.power.hbmPg :=
    (phyOn_keeps (·.power.hbmPg) powerOn_hbmPg 1 _).trans (phyOn_keeps (·.power.hbmPg) powerOn_hbmPg 0 s)
  obtain heq | heq := powerTiers_eq s
  · rw [heq, hphy]
  · have hcores := foldl_field (·.power.hbmPg) powerCore_hbmPg (allFin 12) (phyOn 1 (phyOn 0 s))
    rw [heq, loadAgents_power, hcores, hphy]

/-- A side whose input is high comes up, unless its domain is latched (R342). -/
theorem domainUp_powerTiers_of_good (hgood : hbmGood s side = true) (hlatched : (vget s.power.doms (phyDomain side)).latched = false) :
    domainUp (powerTiers s) (phyDomain side) = true := by
  refine domainUp_powerTiers ?_
  match side with
  | 0 => exact domainUp_phyOn_of_up (domainUp_phyOn_same hgood hlatched)
  | 1 =>
    refine domainUp_phyOn_same (side := 1) ?_ ?_
    · rw [hbmGood, phyOn_keeps (·.power.hbmPg) powerOn_hbmPg 0 s]
      exact hgood
    · unfold phyOn
      split
      · rw [vget_powerOn_other (by decide)]
        exact hlatched
      · exact hlatched

theorem exec_hbmPgAssert_of_later (h : s.pins.perst = true ∨ s.reg.devState ≠ 0) (side : Fin 2) :
    exec (.hbmPgAssert side) s = .next (setHbmPg s side true) := by
  have hstay : ¬(!(setHbmPg s side true).pins.perst && (setHbmPg s side true).reg.devState == 0 &&
      domainUp (setHbmPg s side true) 24 && domainUp (setHbmPg s side true) 29) = true := by
    have hpins : (setHbmPg s side true).pins = s.pins := rfl
    have hreg : (setHbmPg s side true).reg = s.reg := rfl
    rw [hpins, hreg]
    obtain h | h := h
    · simp [h]
    · rw [beq_eq_false_iff_ne.mpr h]
      simp
  exact congrArg Host.Outcome.next (if_neg hstay)

theorem exec_hbmPgAssert_of_startUp (hperst : s.pins.perst = false) (hdev : s.reg.devState = 0) (h24 : domainUp s 24 = true)
    (h29 : domainUp s 29 = true) (side : Fin 2) :
    exec (.hbmPgAssert side) s = .next (noted (powerTiers (setHbmPg s side true))) := by
  have hgo : (!(setHbmPg s side true).pins.perst && (setHbmPg s side true).reg.devState == 0 &&
      domainUp (setHbmPg s side true) 24 && domainUp (setHbmPg s side true) 29) = true := by
    have hpins : (setHbmPg s side true).pins = s.pins := rfl
    have hreg : (setHbmPg s side true).reg = s.reg := rfl
    have hup : ∀ d, domainUp (setHbmPg s side true) d = domainUp s d := fun _ => rfl
    rw [hpins, hreg, hup, hup, hperst, hdev, h24, h29]
    rfl
  exact congrArg Host.Outcome.next (if_pos hgo)

end

end Sys2Proof.Machine
end

section
/-!
The end of start-up: training, READY or FAILED (R384, R387, R388), and the obligation on starts and resets.
-/
namespace Sys2Proof.Machine

/-! ### Training -/

/-- A part of the state that training, its records and the condition report leave. -/
structure OutsideTraining {β : Type} (g : State → β) : Prop where
  tiers : ∀ s f, g (modTiers s f) = g s
  vault : ∀ s f, g (modVault s f) = g s
  record : ∀ s r, g (writeRecord s r) = g s
  cond : ∀ s u x y z v, g (condAppend s u x y z v) = g s

section
variable {β : Type} {g : State → β} (hg : OutsideTraining g)
include hg

theorem OutsideTraining.reportMem (s : State) (kind i : Nat) : g (reportMem s kind i) = g s := by
  unfold Machine.reportMem
  dsimp only
  split
  · exact hg.tiers ..
  · exact hg.tiers ..

theorem OutsideTraining.trainChannels (s : State) (failed : BitVec 16) : g (trainChannels s failed) = g s := by
  unfold Machine.trainChannels
  refine (foldl_field g (fun s l => ?_) _ _).trans (hg.tiers ..)
  split
  · exact (hg.record ..).trans ((hg.cond ..).trans (hg.tiers ..))
  · rfl

theorem OutsideTraining.trainHbm (s : State) (l : List (Fin 16 × Fin 32)) : g (trainHbm s l) = g s := by
  refine foldl_field g (fun s p => ?_) _ _
  dsimp only
  split
  · exact (hg.record ..).trans ((hg.cond ..).trans (hg.reportMem ..))
  · rfl

/-- The edge links after discovery, for a view in which neither sites nor Lacing show. -/
theorem OutsideTraining.settleSites (hsite : ∀ s u f, g (modSite s u f) = g s) (hlacing : ∀ s f, g (modLacing s f) = g s)
    (s : State) : g (settleSites s) = g s := by
  unfold Machine.settleSites
  refine (foldl_field g (fun s l => ?links) _ _).trans (foldl_field g (fun s u => ?sites) _ _)
  case links =>
    split
    · rfl
    · exact hlacing ..
  case sites =>
    dsimp only
    split_ifs
    · exact hsite ..
    · rfl
    · exact (hg.record ..).trans ((hg.cond ..).trans (hsite ..))
    · exact hsite ..

end

/-- The memory and the vault as training leaves them (R243, R258, R262, R285). -/
def memoryTrained (s : State) (x : Training) : State :=
  modVault (settleRegions (modTiers (trainHbm (trainChannels s x.lpFailed) x.hbmFailed) fun t =>
    { t with mbps := x.hbmMbps, lpMts := x.lpMts })) fun v =>
      if v.state = 3 then v else if x.vaultOk then { v with state := 1, speed := x.vaultSpeed } else v

theorem OutsideTraining.memoryTrained {β : Type} {g : State → β} (hg : OutsideTraining g) (s : State) (x : Training) :
    g (memoryTrained s x) = g s :=
  (hg.vault ..).trans ((hg.tiers ..).trans ((hg.tiers ..).trans ((hg.trainHbm ..).trans (hg.trainChannels ..))))

/-! ### What training leaves -/

/-- What the end of start-up reads and READY changes. -/
def readyView (s : State) :=
  (s.cores, s.power, s.mem, s.reg.mailboxes, s.reg.bootCount, s.reg.fieldOf, s.flash.active, s.flash.pending, s.flash.trial)

theorem readyView_writeRecord (s : State) (r : ErrRec) : readyView (writeRecord s r) = readyView s := by
  have hreg := writeRecord_keeps_reg (fun r => (r.mailboxes, r.bootCount, r.fieldOf)) (fun _ _ _ _ _ _ => rfl) s r
  simp only [Prod.mk.injEq] at hreg
  obtain ⟨hmailboxes, hboot, hfield⟩ := hreg
  simp only [readyView, writeRecord_cores, writeRecord_power, writeRecord_mem, writeRecord_flash, hmailboxes, hboot, hfield]

theorem outsideTraining_readyView : OutsideTraining readyView where
  tiers _ _ := rfl
  vault _ _ := rfl
  record := readyView_writeRecord
  cond s u x y z v := by
    unfold condAppend condWrite
    extract_lets unit entry field
    split
    · exact readyView_writeRecord ..
    · rfl

theorem outsideTraining_sites : OutsideTraining (·.sites) where
  tiers _ _ := rfl
  vault _ _ := rfl
  record := writeRecord_sites
  cond := condAppend_keeps (·.sites) writeRecord_sites modFlash_sites

/-- A site's mainband is trained. -/
def siteTrained (s : State) (u : Fin 16) : Bool := (vget s.sites u).state == 3 || (vget s.sites u).state == 4

theorem siteTrained_sites {s t : State} (h : t.sites = s.sites) (u : Fin 16) : siteTrained t u = siteTrained s u := by
  rw [siteTrained, siteTrained, h]

/-- A change of a site that trains it no more than it was. -/
theorem siteTrained_modSite {s : State} {u : Fin 16} {f : Site → Site}
    (h : ((f (vget s.sites u)).state == 3 || (f (vget s.sites u)).state == 4) = siteTrained s u) (v : Fin 16) :
    siteTrained (modSite s u f) v = siteTrained s v := by
  by_cases huv : u = v
  · subst huv
    rw [siteTrained, modSite, vget_vmod_same]
    exact h
  · rw [siteTrained, modSite, vget_vmod_other _ _ huv]
    rfl

/-- The settling of the edge links trains no site and loses none (R390). -/
theorem siteTrained_settleSites (s : State) (v : Fin 16) : siteTrained (settleSites s) v = siteTrained s v := by
  unfold settleSites
  refine (foldl_field (siteTrained · v) (fun s l => ?links) _ _).trans (foldl_field (siteTrained · v) (fun s u => ?sites) _ _)
  case links =>
    split <;> rfl
  case sites =>
    dsimp only
    split_ifs with htrained hretired hdown
    · exact siteTrained_modSite rfl v
    · rfl
    · have hnone : siteTrained s u = false := by simpa [siteTrained] using htrained
      refine (siteTrained_sites ((writeRecord_sites ..).trans (outsideTraining_sites.cond ..)) v).trans (siteTrained_modSite ?_ v)
      exact hnone.symm
    · have hnone : siteTrained s u = false := by simpa [siteTrained] using htrained
      refine siteTrained_modSite ?_ v
      exact hnone.symm

/-! ### READY and FAILED (R384, R387, R388) -/

/-- Everything that can be trained is, and every core that can be is released (R390, R398). -/
def readied (s : State) (x : Training) : State := (allFin 12).foldl releaseCore (memoryTrained (settleSites s) x)

/-- No core is there. -/
def noCore (s : State) : Bool := (allFin 12).all fun c => (getCore s c).st == .lost || (getCore s c).st == .off

/-- EDN has no trained site. -/
def noEdn (s : State) : Bool :=
  !((allFin 16).any fun u => decide (u.val < 8) && ((vget s.sites u).state == 3 || (vget s.sites u).state == 4))

/-- DIST written for the first time (R22). -/
def distWritten (s : State) : State := rewriteDist (modLacing s fun x => { x with distHop := x.hopPs, distBnd := x.bndPs }) true

theorem distWritten_keeps {β : Type} {g : State → β} (h : ∀ (s : State) l, g { s with lacing := l } = g s) (s : State) :
    g (distWritten s) = g s := by
  unfold distWritten rewriteDist
  dsimp only
  split
  · exact (h ..).trans ((h ..).trans (h ..))
  · exact (h ..).trans (h ..)

/-- BOOT_COUNT rises and DEV_STATE is READY (R384). -/
def counted (s : State) : State := modReg (distWritten s) fun r => { r with bootCount := r.bootCount + 1, devState := 1 }

section
variable (s : State)

theorem counted_mem : (counted s).mem = s.mem := by
  rw [counted, modReg_mem, distWritten_keeps (g := (·.mem)) fun _ _ => rfl]

theorem counted_cores : (counted s).cores = s.cores := by
  rw [counted, modReg_cores, distWritten_keeps (g := (·.cores)) fun _ _ => rfl]

theorem counted_flash : (counted s).flash = s.flash := by
  rw [counted, modReg_flash, distWritten_keeps (g := (·.flash)) fun _ _ => rfl]

theorem counted_reg : (counted s).reg = { s.reg with bootCount := s.reg.bootCount + 1, devState := 1 } := by
  rw [counted, modReg_reg, distWritten_keeps (g := (·.reg)) fun _ _ => rfl]

end

/-- The device READY (R384, R387, R388). -/
def madeReady (s : State) : State := cancelPosted (reopenPairing (settleFirmware (counted s)))

section
variable {s : State} {x : Training}

theorem exec_startUpReady_of_later (h : s.reg.devState ≠ 0 ∨ s.pins.perst = true) : exec (.startUpReady x) s = .next s := by
  refine congrArg Host.Outcome.next (if_pos ?_)
  obtain h | h := h
  · have hdev : decide (s.reg.devState ≠ 0) = true := decide_eq_true h
    rw [hdev]
    rfl
  · simp [h]

theorem exec_startUpReady_of_due (hdev : s.reg.devState = 0) (hperst : s.pins.perst = false)
    (hup : ∀ d : Fin 30, d = 24 ∨ d = 25 ∨ d = 28 → domainUp s d = true) (hcores : ∀ c, coreWaits s c = false) :
    exec (.startUpReady x) s = .next (
      if noCore (readied s x) || noEdn (readied s x) then failDevice (writeRecord (readied s x) (recOf (readied s x) 0 15 0 0x0F 3 0))
      else madeReady (readied s x)) := by
  have hwait : (allFin 12).any (coreWaits s) = false := List.any_eq_false.mpr fun c _ => by simp [hcores c]
  have hgo : ¬(decide (s.reg.devState ≠ 0) || s.pins.perst || !domainUp s 24 || !domainUp s 25 || !domainUp s 28 ||
      (allFin 12).any (coreWaits s)) = true := by
    rw [hwait, hperst, hup 24 (by decide), hup 25 (by decide), hup 28 (by decide), hdev]
    decide
  rw [exec_startUpReady, execStartUpReady, if_neg hgo]
  rfl

theorem readyView_trained (s : State) (x : Training) : readyView (memoryTrained (settleSites s) x) = readyView s :=
  (outsideTraining_readyView.memoryTrained ..).trans (outsideTraining_readyView.settleSites (fun _ _ _ => rfl) (fun _ _ => rfl) s)

/-- What the end of start-up leaves before READY: all but the released cores. -/
theorem readied_keeps (s : State) (x : Training) : (readied s x).mem = s.mem ∧ (readied s x).reg.mailboxes = s.reg.mailboxes ∧
    (readied s x).reg.bootCount = s.reg.bootCount ∧ (readied s x).flash.active = s.flash.active ∧
    (readied s x).flash.pending = s.flash.pending ∧ (readied s x).flash.trial = s.flash.trial := by
  have hreleased : ∀ (l : List CoreId) (t : State), (l.foldl releaseCore t).mem = t.mem ∧ (l.foldl releaseCore t).reg = t.reg ∧
      (l.foldl releaseCore t).flash = t.flash := fun l t =>
    ⟨foldl_field (·.mem) outsideParts_mem.releaseCore l t, foldl_field (·.reg) outsideUnits_reg.toOutsideParts.releaseCore l t,
      foldl_field (·.flash) (OutsideParts.releaseCore ⟨modCore_flash, modLacing_flash, modTiers_flash, fun _ _ _ => rfl⟩) l t⟩
  obtain ⟨hmem, hreg, hflash⟩ := hreleased (allFin 12) (memoryTrained (settleSites s) x)
  have hview := readyView_trained s x
  simp only [readyView, Prod.mk.injEq] at hview
  obtain ⟨-, -, hvmem, hvmb, hvboot, -, hvactive, hvpending, hvtrial⟩ := hview
  rw [readied, hmem, hreg, hflash]
  exact ⟨hvmem, hvmb, hvboot, hvactive, hvpending, hvtrial⟩

/-- A core that waited in reset with its domains up is released. -/
theorem getCore_readied {c : CoreId} (hst : (getCore s c).st = .reset) (hup : coreUp s c = true) (x : Training) :
    getCore (readied s x) c = (getCore s c).released := by
  have hview := readyView_trained s x
  simp only [readyView, Prod.mk.injEq] at hview
  obtain ⟨hcores, hpower, -, -, -, hfield, -⟩ := hview
  have hcore : getCore (memoryTrained (settleSites s) x) c = getCore s c := getCore_cores hcores c
  have hsame : coreUp (memoryTrained (settleSites s) x) c = coreUp s c := by
    simp only [coreUp, domainUp, coreDomain, stkDomain, fieldOf, hpower, hfield]
  have hmem : c ∈ allFin 12 := List.mem_finRange c
  rw [readied, getCore_foldl_releaseCore (by rw [hcore, hst]) (by rw [hsame, hup]) hmem (List.nodup_finRange 12), hcore]

theorem siteTrained_readied (s : State) (x : Training) (u : Fin 16) : siteTrained (readied s x) u = siteTrained s u := by
  have hreleased : (readied s x).sites = (memoryTrained (settleSites s) x).sites :=
    foldl_field (·.sites) (OutsideParts.releaseCore ⟨modCore_sites, modLacing_sites, modTiers_sites, fun _ _ _ => rfl⟩) _ _
  rw [siteTrained_sites (hreleased.trans (outsideTraining_sites.memoryTrained ..)), siteTrained_settleSites]

theorem noCore_readied (h : ∃ c, (getCore s c).st = .reset ∧ coreUp s c = true) (x : Training) : noCore (readied s x) = false := by
  obtain ⟨c, hst, hup⟩ := h
  refine List.all_eq_false.mpr ⟨c, List.mem_finRange c, ?_⟩
  rw [getCore_readied hst hup]
  exact Bool.false_ne_true

theorem noEdn_readied (s : State) (x : Training) : noEdn (readied s x) = true ↔ ∀ u : Fin 16, u.val < 8 → siteTrained s u = false := by
  have hany : noEdn (readied s x) = !((allFin 16).any fun u => decide (u.val < 8) && siteTrained s u) :=
    congrArg (fun p => !((allFin 16).any p)) (funext fun u => congrArg (decide (u.val < 8) && ·) (siteTrained_readied s x u))
  rw [hany]
  simp [allFin]

/-! ### The device READY -/

theorem settleFirmware_eq (s : State) : ∃ f : Flash → Flash, settleFirmware s = modFlash s f ∧
    (s.flash.trial = true → (f s.flash).active = s.flash.pending.getD s.flash.active ∧ (f s.flash).pending = none) := by
  unfold settleFirmware
  cases htrial : s.flash.trial with
  | true => exact ⟨fun f => _, rfl, fun _ => ⟨rfl, rfl⟩⟩
  | false => exact ⟨_, rfl, fun h => absurd h Bool.false_ne_true⟩

theorem reopenPairing_keeps {β : Type} {g : State → β} (heyes : ∀ s f, g (modEyes s f) = g s) (hnoted : ∀ s, g (noted s) = g s)
    (hresil : ∀ s f, g (modResil s f) = g s) (s : State) : g (reopenPairing s) = g s := by
  have hemit : ∀ (s : State) (x : Session) (p : Packet), g (emit s x p) = g s := fun s x p => by
    unfold emit
    split
    · rfl
    · exact heyes ..
  unfold reopenPairing
  split
  · split
    · rfl
    · exact (hresil ..).trans ((hnoted _).trans ((hemit ..).trans (heyes ..)))
  · rfl

/-- A posted mailbox that READY finds is CANCELLED (R296). -/
def Mailbox.cancelled (m : Mailbox) : Mailbox :=
  if m.own then { m.released with status := stCancelled, rlen := 0, rsize := 0 } else m

theorem getMb_cancelPosted (s : State) (k : Fin 16) : getMb (cancelPosted s) k = (getMb s k).cancelled :=
  (noted_keeps_reg (fun r => vget r.mailboxes k) (fun _ _ => rfl) _).trans (Vector.getElem_map ..)

/-- The trial slot and the pairing settled: what neither flash, nor sessions, nor notes show is as before. -/
theorem settled_keeps {β : Type} {g : State → β} (hflash : ∀ s f, g (modFlash s f) = g s) (heyes : ∀ s f, g (modEyes s f) = g s)
    (hnoted : ∀ s, g (noted s) = g s) (hresil : ∀ s f, g (modResil s f) = g s) (s : State) :
    g (reopenPairing (settleFirmware s)) = g s := by
  obtain ⟨f, hf, -⟩ := settleFirmware_eq s
  rw [reopenPairing_keeps heyes hnoted hresil, hf, hflash]

section
variable (u : State)

/-- What neither flash, nor sessions, nor notes show of the device READY. -/
theorem madeReady_keeps {β : Type} {g : State → β} (hflash : ∀ s f, g (modFlash s f) = g s) (heyes : ∀ s f, g (modEyes s f) = g s)
    (hnoted : ∀ s, g (noted s) = g s) (hresil : ∀ s f, g (modResil s f) = g s)
    (hmb : ∀ s (v : Registrar → Vector Mailbox 16), g (modReg s fun r => { r with mailboxes := v r }) = g s) : g (madeReady u) = g (counted u) :=
  (hnoted _).trans ((hmb _ fun _ => _).trans (settled_keeps hflash heyes hnoted hresil (counted u)))

theorem madeReady_reg : (madeReady u).reg.devState = 1 ∧ (madeReady u).reg.bootCount = u.reg.bootCount + 1 := by
  have hkeeps := madeReady_keeps u (g := fun s => (s.reg.devState, s.reg.bootCount)) (fun _ _ => rfl) (fun _ _ => rfl)
    (noted_keeps_reg (fun r => (r.devState, r.bootCount)) fun _ _ => rfl) (fun _ _ => rfl) fun _ _ => rfl
  rw [counted_reg] at hkeeps
  simpa only [Prod.mk.injEq] using hkeeps

theorem madeReady_mem : (madeReady u).mem = u.mem :=
  (madeReady_keeps u (g := (·.mem)) (fun _ _ => rfl) (fun _ _ => rfl) noted_mem (fun _ _ => rfl) fun _ _ => rfl).trans (counted_mem u)

theorem madeReady_cores : (madeReady u).cores = u.cores :=
  (madeReady_keeps u (g := (·.cores)) (fun _ _ => rfl) (fun _ _ => rfl) noted_cores (fun _ _ => rfl) fun _ _ => rfl).trans
    (counted_cores u)

theorem getMb_madeReady (k : Fin 16) : getMb (madeReady u) k = (getMb u k).cancelled := by
  have hnoted := noted_keeps_reg (fun r => vget r.mailboxes k) fun _ _ => rfl
  have hsettled := settled_keeps (g := (getMb · k)) (fun _ _ => rfl) (fun _ _ => rfl) hnoted (fun _ _ => rfl) (counted u)
  rw [madeReady, getMb_cancelPosted, hsettled, getMb, counted_reg, getMb]

theorem madeReady_flash (h : u.flash.trial = true) :
    (madeReady u).flash.active = u.flash.pending.getD u.flash.active ∧ (madeReady u).flash.pending = none := by
  obtain ⟨f, hf, htrial⟩ := settleFirmware_eq (counted u)
  have hreopened := reopenPairing_keeps (g := (·.flash)) (fun _ _ => rfl) noted_flash (fun _ _ => rfl) (settleFirmware (counted u))
  have hposted : (madeReady u).flash = (reopenPairing (settleFirmware (counted u))).flash := noted_flash _
  rw [hposted, hreopened, hf, modFlash_flash]
  rw [counted_flash] at htrial ⊢
  exact htrial h

end

end

/-- Settles O51: every reset by what it keeps and the start-up that follows, READY by what training leaves, and the rest by its own case. -/
theorem startsAndResets : Obligations.StartsAndResets := by
  unfold Obligations.StartsAndResets
  intro s
  refine ⟨exec_perstAssert_of_low, exec_perstDeassert_of_high, ?assert, ?deassert, fun x => ⟨exec_startUpReady_of_later, ?ready⟩,
    ?watchdog, exec_deviceResetStart_of_not_due, ?reset, ?release, fun side => ⟨fun h => exec_hbmPgAssert_of_later h side, ?good⟩,
    exec_powerRemoval_of_high, ?removal⟩
  case assert =>
    intro hperst
    have hexec := exec_perstAssert_of_high hperst
    obtain ⟨hkey, hhigh, hboot⟩ := takenDown_owner s []
    obtain ⟨hcores, hkept, hlast⟩ := coldState_owner (takenDown s []) false
    have hfields := booted_fields (booted_coldState (takenDown s []) false)
    simp only [coldBooted] at hfields
    obtain ⟨hjobs, hmem, -, -, -, hdev, hcount, -⟩ := hfields
    have hdoms := vget_coldState_doms (takenDown s [])
    generalize coldState (takenDown s []) false = u at *
    refine ⟨_, hexec, rfl, hcores, hmem, hjobs, hdev, hkept.trans hkey, hlast.trans hhigh, hcount.trans hboot, fun d => ?_⟩
    have hoff := off_afterReset (vget (takenDown s []).power.doms d)
    rw [← hdoms d] at hoff
    exact hoff
  case deassert =>
    intro hperst hlatched hpending
    have hexec := exec_perstDeassert_of_low hlatched hperst
    obtain ⟨up, mailboxes, edge, hcold⟩ := exists_booted_perstSet_cold s false
    refine ⟨fun hfree hpass => ?_, fun hA hB => ?_⟩
    · obtain ⟨⟨x, hx⟩, hup⟩ := booted_startUp_firstSteps hlatched hpending hfree hpass
      rw [hcold] at hx
      have hfields := booted_fields hx
      simp only [coldBooted] at hfields
      obtain ⟨hjobs, hmem, hpins, -, -, hdev, hcount, -, -, hrunning⟩ := hfields
      generalize startUp (firstSteps s) false = u at *
      exact ⟨_, hexec, congrArg Pins.perst hpins, rfl, congrArg PcieFn.enabled (vget_vmod_same ..), hup, hdev, hrunning, hmem, hjobs,
        hcount⟩
    · obtain ⟨x, hx⟩ := booted_startUp_of_no_slot hpending (Bool.forall_bool.mpr ⟨hB, hA⟩)
      rw [hcold] at hx
      have hfields := booted_fields hx
      simp only [coldBooted] at hfields
      obtain ⟨-, -, hpins, -, -, hdev, -⟩ := hfields
      generalize startUp (firstSteps s) false = u at *
      exact ⟨_, hexec, congrArg Pins.perst hpins, hdev⟩
  case ready =>
    intro hdev hperst hup hwaits
    have hexec := exec_startUpReady_of_due (x := x) hdev hperst hup hwaits
    refine ⟨fun hedn hcore => ?_, fun hedn => ?_⟩
    · obtain ⟨v, hv, htrained⟩ := hedn
      obtain ⟨c, hst, hcup, hsup⟩ := hcore
      have hnoEdn : noEdn (readied s x) = false := by
        rw [← Bool.not_eq_true, noEdn_readied]
        intro h
        have hnone := h v hv
        simp [siteTrained] at hnone
        exact htrained.elim hnone.1 hnone.2
      have hnoCore := noCore_readied ⟨c, hst, Bool.and_eq_true_iff.mpr ⟨hcup, hsup⟩⟩ x
      rw [if_neg (by rw [hnoCore, hnoEdn]; exact Bool.false_ne_true)] at hexec
      obtain ⟨hmem, hmailboxes, hboot, hactive, hpending, htrial⟩ := readied_keeps s x
      obtain ⟨hready, hcount⟩ := madeReady_reg (readied s x)
      have hmb : ∀ k, getMb (madeReady (readied s x)) k = (getMb s k).cancelled := fun k => by
        rw [getMb_madeReady, getMb, hmailboxes, getMb]
      refine ⟨_, hexec, hready, hcount.trans (by rw [hboot]), (madeReady_mem _).trans hmem, fun d hd hdc hds => ?_,
        fun k hk => ?_, fun k hk => ?_, fun h => ?_⟩
      · refine (getCore_cores (madeReady_cores _) d).trans ?_
        exact getCore_readied hd (Bool.and_eq_true_iff.mpr ⟨hdc, hds⟩) x
      · rw [show getMb _ k = _ from hmb k, Mailbox.cancelled, if_pos hk]
        exact ⟨rfl, rfl⟩
      · rw [show getMb _ k = _ from hmb k, Mailbox.cancelled, if_neg (by simp [hk])]
      · rw [← hactive, ← hpending]
        exact madeReady_flash _ (htrial.trans h)
    · have hnoEdn : noEdn (readied s x) = true := (noEdn_readied s x).mpr fun u hu => by
        obtain ⟨h3, h4⟩ := hedn u hu
        rw [siteTrained, beq_eq_false_iff_ne.mpr h3, beq_eq_false_iff_ne.mpr h4]
        rfl
      rw [if_pos (by rw [hnoEdn, Bool.or_true])] at hexec
      exact ⟨_, hexec, failDevice_devState _⟩
  case watchdog =>
    intro hperst hdev hup hpending hpass
    have hexec := exec_startUpWatchdog_of_stuck hperst hdev hup
    obtain ⟨v, x, hx⟩ := booted_startUp_restarted hpending hpass
    have hfields := booted_fields hx
    simp only [coldBooted] at hfields
    obtain ⟨hjobs, hmem, hpins, -, -, -, -, -, hactive, hrunning⟩ := hfields
    generalize startUp (restarted s) true = u at *
    exact ⟨_, hexec, hactive, hrunning, hjobs, hmem, (congrArg Pins.perst hpins).trans hperst⟩
  case reset =>
    intro hdue hanswered
    have hexec := exec_deviceResetStart_of_due hdue hanswered
    obtain ⟨v, a, r, x, hx⟩ := exists_booted_deviceReset s
    have hup := (coldState_up_of_host (takenDown s [25, 28])).trans (takenDown_up s (by decide))
    have hmb := fun k => (getMb_coldState_host (takenDown s [25, 28]) k).trans (afterReset_takenDown s [25, 28] k)
    have hfields := booted_fields hx
    simp only [coldBooted] at hfields
    obtain ⟨hjobs, hmem, hpins, hlink, hmailboxes, -, -, hcleared, -⟩ := hfields
    generalize deviceReset s = t at *
    exact ⟨_, hexec, hjobs, hmem, hcleared, hlink.trans hup, hpins.trans (takenDown_pins s _),
      fun k => (congrArg (vget · k) hmailboxes).trans (hmb k)⟩
  case release =>
    intro c hst hjob hhold hcup hsup
    have hup := Bool.and_eq_true_iff.mpr ⟨hcup, hsup⟩
    have hcore := getCore_resetReleased_same hst hup
    exact ⟨_, exec_resetRelease_of_reset hst hjob hhold hup, congrArg CoreState.st hcore, congrArg CoreState.fenced hcore,
      congrArg (·.stk.scrub) hcore, fun d hd => getCore_resetReleased_other hd, memGet_resetReleased s c⟩
  case good =>
    intro hperst hdev h24 h29
    have hgood : hbmGood (setHbmPg s side true) side = true := vget_vset_same ..
    refine ⟨_, exec_hbmPgAssert_of_startUp hperst hdev h24 h29 side, ?_, fun hlatched => ?_⟩
    · rw [noted_power, powerTiers_hbmPg]
      exact hgood
    · rw [domainUp, noted_power]
      exact domainUp_powerTiers_of_good hgood hlatched
  case removal =>
    exact fun hperst => ⟨_, exec_powerRemoval_of_low hperst, rfl, rfl, rfl, rfl, rfl, rfl⟩

end Sys2Proof.Machine
end
